-- ==== Sys2Proof/Word.lean ====
section
/-!
DEFINITION. The word types of the model: bytes, the 32-bit and 64-bit register values of the control cores, and sparse
maps, which hold sparse data (registers, memories, queues) as plain lists of key and value pairs.
-/

namespace Sys2Proof

/-- One byte; all multi-byte data is little-endian (R3). -/
abbrev Byte := BitVec 8

/-- A 64-bit value: a general register, a status word, a 64-bit register (R50). -/
abbrev Word := BitVec 64

/-- A sparse map: keys strictly rising, and no key holding the value an unlisted key reads as (`Machine.SMap.wf`). -/
abbrev SMap (α : Type) := List (Nat × α)

end Sys2Proof
end

