-- ==== Sys2Proof/Syntax.lean ====
section
/-!
DEFINITION. The commands of the block: one constructor of `Instr` per row of spec/opcode_table.json, with the operands
a sender gives it. No row of the table has fields, so no command has an encoding of the table's; the control-core
instructions carry the fields of their formats (Table 3.2).
-/

namespace Sys2Proof

/-- A Fjor control core, 0–63 (R11). -/
abbrev CoreId := BitVec 6

/-- A general register number, 0–31 (R50). -/
abbrev GReg := BitVec 5

/-- A predicate register number, 0–7 (R50). -/
abbrev PReg := BitVec 3

/-- The guard of an instruction: PG and PN of bits [31:28] (R53). -/
structure Guard where
  pg : PReg
  pn : Bool
deriving DecidableEq, Repr

/-- What only the hardware's timing knows while a command runs. -/
structure Ext where
  nums : List Nat := []
deriving DecidableEq, Repr

/-- What a read of host memory returns over PCIe (R305). -/
inductive HostRead where
  | data (bytes : List Byte)
  | unsupported
  | abort
  | timeout
  | poisoned
deriving DecidableEq, Repr


/-- What a HELLO flit carries (R314): the sender's module ID, port, lane count code, half rate, lowest and highest protocol
version, training nonce, and with LINK_ENC = 1 its fabric key ID. -/
structure Hello where
  module : BitVec 16
  port : BitVec 3
  lanes : BitVec 2
  half : Bool
  vmin : Byte
  vmax : Byte
  nonce : BitVec 64
  keyId : Option (BitVec 64)
deriving DecidableEq, Repr
/-- Where Hollyhock places a moved or written block: a slot of Table 11.2 (DIE, BLOCK, PAGE, QUARTER), its own choice. -/
abbrev FlashSlot := BitVec 33

/-- What a host access names: function f of Table 12.2 (0–257), by its BAR0; PF1; function f's doorbell pages, its BAR2. -/
inductive RegPort where
  | fn (f : BitVec 9)
  | pf1
  | page (f : BitVec 9)
deriving DecidableEq, Repr

/-- What a stage's work finds (Table 16.1): the physical Peony cores that pass the SRAM self-test, the Lupin engines that serve, the
dies whose bridge is trained, the HBM stacks trained or verified, whether the flash map could be read, how many journal records
were replayed. -/
structure StageWork where
  cores : BitVec 52
  lupin : BitVec 16
  dies : BitVec 4
  hbm : BitVec 8
  mapOk : Bool
  replayed : Nat
deriving DecidableEq, Repr

/-- A sample of the power loop (R389, R390): input power averaged over 1 ms, input voltage, the petal supply target the loop asks
for and the hub supply, the junctions of dies 0–3 and the hub die in °C, the cycle that the replica paths of dies 0–3 measure, how many
control cores it stops where work must be throttled. -/
structure PowerSample where
  watts : BitVec 11
  mv : BitVec 16
  target : BitVec 10
  hub : BitVec 10
  tj : List Byte
  cycle : List (BitVec 12)
  stops : BitVec 6
deriving DecidableEq, Repr

/-- A reading of the coolant sensors (R391, R438): flow in 0.01 L/min, temperatures in 0.1 °C, whether the valve loop is open or
its load too large (R437). -/
structure Coolant where
  flow : BitVec 16
  tIn : BitVec 12
  tOut : BitVec 12
  loopBad : Bool
deriving DecidableEq, Repr

/-- The transports of R410: SMBus, and PCIe VDM on each host port. -/
inductive Transport where
  | smbus
  | vdm (second : Bool)
deriving DecidableEq, Repr

/-- What a provisioning request programs (R402): owner key hash k, a revocation of vendor or owner key k. -/
inductive Fuse where
  | ownerHash (k : BitVec 2) (hash : BitVec 384)
  | vendorRevoked (k : BitVec 2)
  | ownerRevoked (k : BitVec 2)
deriving DecidableEq, Repr

/-- An MCTP request (R409–R412), by what it asks: endpoint control, SPDM, PLDM, another message type. -/
inductive MctpMsg where
  /-- endpoint discovery: a control message that needs no stage, by its command code -/
  | control (code : Byte)
  | setEndpointId (eid : Byte)
  | getVersion
  /-- by the version the requester speaks: 0x12, 0x13 -/
  | getCapabilities (version : Byte)
  /-- whether it offers ECDSA P-384 and SHA-384 -/
  | negotiateAlgorithms (offered : Bool)
  | getDigests
  | getCertificate (slot : Byte) (offset length : BitVec 16)
  | challenge (slot : Byte) (nonce : BitVec 256)
  /-- an index of Table 17.4, 0 for their number, 0xFF for all; signed or not -/
  | getMeasurements (index : Byte) (signed : Bool) (nonce : BitVec 256)
  /-- an SPDM request Heather does not support -/
  | spdmOther (code : Byte)
  | getSensorReading (id : BitVec 16)
  | setNumericEffecterValue (id : BitVec 16) (value : BitVec 32)
  | setStateEffecterStates (id : BitVec 16)
  | requestUpdate (component : Byte)
  | firmwareData (bytes : List Byte)
  | verifyComplete
  | activateFirmware
  | provisioning (fuse : Fuse)
  /-- a PLDM request no row names -/
  | pldmOther (typ command : Byte)
  /-- another message type -/
  | otherType (typ : Byte)
deriving DecidableEq, Repr

/-- The commands of the block, one constructor per row of spec/opcode_table.json. -/
inductive Instr where
  -- Fjor control-core instructions (03_fjor_instruction_set.md): core c issues the instruction at its program counter
  | add (c : CoreId) (gd : Guard) (rd rs1 rs2 : GReg)
  | sub (c : CoreId) (gd : Guard) (rd rs1 rs2 : GReg)
  | and (c : CoreId) (gd : Guard) (rd rs1 rs2 : GReg)
  | or (c : CoreId) (gd : Guard) (rd rs1 rs2 : GReg)
  | xor (c : CoreId) (gd : Guard) (rd rs1 rs2 : GReg)
  | sll (c : CoreId) (gd : Guard) (rd rs1 rs2 : GReg)
  | srl (c : CoreId) (gd : Guard) (rd rs1 rs2 : GReg)
  | sra (c : CoreId) (gd : Guard) (rd rs1 rs2 : GReg)
  | mul (c : CoreId) (gd : Guard) (rd rs1 rs2 : GReg)
  | mulh (c : CoreId) (gd : Guard) (rd rs1 rs2 : GReg)
  | mulhu (c : CoreId) (gd : Guard) (rd rs1 rs2 : GReg)
  | min (c : CoreId) (gd : Guard) (rd rs1 rs2 : GReg)
  | max (c : CoreId) (gd : Guard) (rd rs1 rs2 : GReg)
  | minu (c : CoreId) (gd : Guard) (rd rs1 rs2 : GReg)
  | maxu (c : CoreId) (gd : Guard) (rd rs1 rs2 : GReg)
  | addi (c : CoreId) (gd : Guard) (rd rs1 : GReg) (imm : BitVec 12)
  | andi (c : CoreId) (gd : Guard) (rd rs1 : GReg) (imm : BitVec 12)
  | ori (c : CoreId) (gd : Guard) (rd rs1 : GReg) (imm : BitVec 12)
  | xori (c : CoreId) (gd : Guard) (rd rs1 : GReg) (imm : BitVec 12)
  | shi (c : CoreId) (gd : Guard) (rd rs1 : GReg) (imm : BitVec 12)
  | movz (c : CoreId) (gd : Guard) (rd : GReg) (hw : Bool) (imm : BitVec 16)
  | movkL (c : CoreId) (gd : Guard) (rd : GReg) (hw : Bool) (imm : BitVec 16)
  | movkH (c : CoreId) (gd : Guard) (rd : GReg) (hw : Bool) (imm : BitVec 16)
  | cmp (c : CoreId) (gd : Guard) (rd rs1 rs2 : GReg) (fn : BitVec 7)
  | cmpi (c : CoreId) (gd : Guard) (cc : BitVec 3) (pd : PReg) (rs1 : GReg) (imm : BitVec 11)
  | plog (c : CoreId) (gd : Guard) (rd rs1 rs2 : GReg) (fn : BitVec 7)
  | ld (c : CoreId) (gd : Guard) (rd rs1 : GReg) (sz : BitVec 2) (sx : Bool) (imm : BitVec 9)
  | st (c : CoreId) (gd : Guard) (rs2 rs1 : GReg) (sz : BitVec 2) (sx : Bool) (imm : BitVec 9)
  | amo (c : CoreId) (gd : Guard) (rd rs1 rs2 : GReg) (fn : BitVec 7)
  | b (c : CoreId) (gd : Guard) (h : Bool) (off : BitVec 21) (resolved : Bool)
  | bl (c : CoreId) (gd : Guard) (h : Bool) (off : BitVec 21) (resolved : Bool)
  | br (c : CoreId) (gd : Guard) (rd rs1 rs2 : GReg) (fn : BitVec 7)
  | qput (c : CoreId) (gd : Guard) (rg rq : GReg) (oq : BitVec 2) (e nb : Bool) (pe ps : PReg) (z : BitVec 2)
  | qget (c : CoreId) (gd : Guard) (rg rq : GReg) (oq : BitVec 2) (e nb : Bool) (pe ps : PReg) (z : BitVec 2)
  | qcnt (c : CoreId) (gd : Guard) (rd rs1 rs2 : GReg) (fn : BitVec 7)
  | enq (c : CoreId) (gd : Guard) (rg re : GReg) (nb : Bool) (ps : PReg) (z : BitVec 8)
  | wait (c : CoreId) (gd : Guard) (rd : GReg) (slot : BitVec 6) (nb : Bool) (ps : PReg) (z : BitVec 7)
  | nop (c : CoreId) (gd : Guard) (rd rs1 : GReg) (z : BitVec 2) (pd : PReg)
  | halt (c : CoreId) (gd : Guard) (rd rs1 : GReg) (z : BitVec 2) (pd : PReg)
  | brk (c : CoreId) (gd : Guard) (rd rs1 : GReg) (z : BitVec 2) (pd : PReg)
  | time (c : CoreId) (gd : Guard) (rd rs1 : GReg) (z : BitVec 2) (pd : PReg)
  | coreid (c : CoreId) (gd : Guard) (rd rs1 : GReg) (z : BitVec 2) (pd : PReg)
  | fenceL (c : CoreId) (gd : Guard) (rd rs1 : GReg) (z : BitVec 2) (pd : PReg)
  | fenceP (c : CoreId) (gd : Guard) (rd rs1 : GReg) (z : BitVec 2) (pd : PReg)
  | fenceD (c : CoreId) (gd : Guard) (rd rs1 : GReg) (z : BitVec 2) (pd : PReg)
  | fenceS (c : CoreId) (gd : Guard) (rd rs1 : GReg) (z : BitVec 2) (pd : PReg)
  /-- The word at the core's program counter has no defined encoding (R54). -/
  | illegalInstruction (c : CoreId) (w : BitVec 32)
  /-- The guard of core c's unresolved branch becomes available (R65). -/
  | branchResolve (c : CoreId)
  /-- The fence core c waits at has its conditions met (R26–R28). -/
  | fenceComplete (c : CoreId)
  /-- The ENQ core c waits at finds a free entry and a free slot (R69). -/
  | enqAccept (c : CoreId)
  /-- The WAIT core c waits at finds its slot complete (R71). -/
  | waitReturn (c : CoreId)
  /-- The first waiting put of queue q completes (R263). -/
  | qputUnblock (q : BitVec 12)
  /-- The QGET core c waits at receives a word (R67). -/
  | qgetUnblock (c : CoreId)
  /-- The engine starts the queued command id (R31). -/
  | commandStart (id : Nat) (ext : Ext)
  /-- The started command id, its work done, completes (R79). -/
  | commandComplete (id : Nat)
  /-- A free unit of hub engine class e takes the next item (R336). -/
  | engineDispatch (e : BitVec 4)
  /-- The engine command NOP with this id completes (R77). -/
  | engineNop (id : Nat)
  -- Peony and Lupin commands: the started command id does its work; ext carries what only the hardware's timing knows
  | pnyLoadW (id : Nat) (ext : Ext)
  | pnyMma (id : Nat) (ext : Ext)
  | pnyStore (id : Nat) (ext : Ext)
  | pnyVec (id : Nat) (ext : Ext)
  | pnyCopy (id : Nat) (ext : Ext)
  | pnyAccClear (id : Nat) (ext : Ext)
  | lupGemv (id : Nat) (ext : Ext)
  | lupAttn (id : Nat) (ext : Ext)
  | lupTreeVerify (id : Nat) (ext : Ext)
  | lupKvDiscard (id : Nat) (ext : Ext)
  /-- The cadence unit puts channel ch's next tick (R238). -/
  | cadenceTick (ch : BitVec 8)
  | clmWalk (id : Nat) (ext : Ext)
  /-- The walker of query r of walk command id writes its next provisional list (R144). -/
  | provisionalList (id : Nat) (r : BitVec 8) (ext : Ext)
  | clmInsert (id : Nat) (ext : Ext)
  | clmDelete (id : Nat) (ext : Ext)
  | clmMerge (id : Nat) (ext : Ext)
  /-- The merge command id finds every earlier walk ended (R153). -/
  | mergeFinish (id : Nat) (ext : Ext)
  | clmFilter (id : Nat) (ext : Ext)
  /-- The prefetchers fill the line at va for walk command id, on a die (R146). -/
  | nodeCachePrefetch (id : Nat) (va : BitVec 48) (die : BitVec 2) (ext : Ext)
  | prmTopk (id : Nat) (ext : Ext)
  | prmMerge (id : Nat) (ext : Ext)
  | prmRefine (id : Nat) (ext : Ext)
  | prmSample (id : Nat) (ext : Ext)
  | astGather (id : Nat) (ext : Ext)
  | astRerank (id : Nat) (ext : Ext)
  /-- Aster takes a provisional notice from queue q (R179). -/
  | provisionalNotice (q : BitVec 12) (ext : Ext)
  /-- Aster takes a walk's notify word from queue q (R179). -/
  | finalList (q : BitVec 12) (ext : Ext)
  /-- Every kernel command of session id's batch in a slot has completed (R180). -/
  | batchComplete (id : Nat) (slot : BitVec 4) (ext : Ext)
  | astUpdate (id : Nat) (ext : Ext)
  | astRowReplace (id : Nat) (ext : Ext)
  /-- The row write of command id that found BUSY set is tried again (R171). -/
  | rowBusyRetry (id : Nat) (ext : Ext)
  | bqtFetch (id : Nat) (ext : Ext)
  | bqtPack (id : Nat) (ext : Ext)
  | zinEncode (id : Nat) (ext : Ext)
  | zinDetok (id : Nat) (ext : Ext)
  | zinMask (id : Nat) (ext : Ext)
  | zinVocabLoad (id : Nat) (ext : Ext)
  | zinGrammarLoad (id : Nat) (ext : Ext)
  /-- The slot of an ended job is unloaded once unused: a grammar slot, or a vocabulary slot 0–15 (R199). -/
  | slotUnload (grammar : Bool) (slot : BitVec 6)
  | fxgMove (id : Nat) (ext : Ext)
  | fxgEvict (id : Nat) (ext : Ext)
  | hlyRead (id : Nat) (ext : Ext)
  /-- A write of HUB_MMU_INVAL (R249). -/
  | mmuInval (v : Word)
  /-- The cached translations covered are dropped and the accesses through them complete (R249). -/
  | mmuInvalDone
  -- PF1, the storage function: fid is a command's place in fetch order
  /-- A write of PF1's submission tail doorbell. -/
  | pf1SqDoorbell (q : BitVec 16) (tail : BitVec 32)
  /-- A write of PF1's completion head doorbell. -/
  | pf1CqDoorbell (q : BitVec 16) (head : BitVec 32)
  /-- Queue q's next entry is fetched; a Dataset Management's range list with it. -/
  | nvmeFetch (q : BitVec 16) (entry ranges : HostRead)
  | nvmeCommandStart (fid : Nat)
  /-- The read's data goes to the pages its PRPs name; prps is its PRP list as the host answers it. -/
  | nvmeRead (fid : Nat) (prps : HostRead)
  /-- The write's data arrives; place is where Hollyhock puts each block. -/
  | nvmeWrite (fid : Nat) (data : HostRead) (place : List FlashSlot)
  | writeZeroes (fid : Nat)
  | datasetManagement (fid : Nat)
  | flush (fid : Nat)
  | nvmeCompletion (fid : Nat)
  | queueRestart (fid : Nat)
  | getLogPage (fid : Nat) (prps : HostRead)
  | createIoCompletionQueue (fid : Nat)
  | createIoSubmissionQueue (fid : Nat)
  | deleteIoSubmissionQueue (fid : Nat)
  | setFeaturesPowerManagement (fid : Nat)
  | powerStateEntry
  | formatNvm (fid : Nat)
  | controllerLevelReset
  /-- A write of PF1's CC register. -/
  | controllerConfiguration (v : BitVec 32)
  -- flash maintenance: moves name the logical blocks that get new slots, in an erase block (die * 8192 + block)
  | readRefresh (block : BitVec 21) (moves : List (BitVec 33 × FlashSlot))
  | programFail (block : BitVec 21) (moves : List (BitVec 33 × FlashSlot))
  | eraseFail (block : BitVec 21)
  /-- The page that holds lba fails LDPC and is rebuilt; ok is false when the rebuild of lba fails too (R277). -/
  | parityRebuilt (lba : BitVec 33) (ok : Bool) (moves : List (BitVec 33 × FlashSlot))
  | garbageCollection (block : BitVec 21) (moves : List (BitVec 33 × FlashSlot)) (erased : Bool)
  -- Host interface (12)
  /-- The host writes data at an offset of a function's BAR0 or BAR2; reads is what host memory answers, where the write makes the
  module read it (R296). -/
  | registerWrite (w : RegPort) (off : BitVec 26) (data : List Byte) (reads : List HostRead)
  /-- The host reads n bytes at an offset of a function's BAR0 or BAR2 (R293, R296, R297). -/
  | readClear (w : RegPort) (off : BitVec 26) (n : Nat)
  /-- The counter register at an offset of BAR0 counts an event with COUNT at its highest value (R134). -/
  | counterWrap (off : BitVec 26)
  /-- The APPLY register at an offset of the register space (R295) is written with GO = 1, with DISCARD = 1 (R299). -/
  | applyGo (ap : BitVec 27)
  | applyDiscard (ap : BitVec 27)
  /-- The oldest GO of the APPLY register at an offset of the register space takes effect (R299). -/
  | applyComplete (ap : BitVec 27)
  /-- The host writes data at an offset of function f's BAR2: doorbell 64 × k of a page (R293, R302, R303). -/
  | submissionDoorbell (f : BitVec 9) (off : BitVec 21) (data : List Byte)
  | completionDoorbell (f : BitVec 9) (off : BitVec 21) (data : List Byte)
  /-- A read of the next descriptors of ring k of function f returns (R302, R305). -/
  | descriptorFetch (f : BitVec 9) (k : BitVec 6) (read : HostRead)
  /-- Ring k of function f receives the next word of its queue (R303, R304). -/
  | ringRecordWrite (f : BitVec 9) (k : BitVec 6)
  /-- The host writes data, or reads n bytes, at an offset of function f's BAR4 (R294). -/
  | bar4Access (f : BitVec 9) (off : BitVec 36) (n : Nat) (data : Option (List Byte))
  /-- PCI_IF_SELECT of function f is written (R307). -/
  | ifSelect (f : BitVec 9) (v : BitVec 32)
  /-- Function level reset of a function; its entry to D3hot (R306). -/
  | flr (w : RegPort)
  | d3hotEntry (w : RegPort)
  /-- A configuration request on a port (second: port 1) for a function: a read, or a write of data, of a doubleword (R384). -/
  | configRequest (second : Bool) (w : RegPort) (off : BitVec 12) (data : Option (BitVec 32))
  -- Core-side prefetch (10)
  /-- Core c's stream detector fills the (k + 1)-th line ahead of its last miss (R251). -/
  | streamPrefetch (c : CoreId) (k : BitVec 3)
  -- Fjorin (13)
  /-- Port p receives a flit; how many FEC codewords were corrected and uncorrectable since the last one (R312, Table 13.7). -/
  | flitReceive (p : BitVec 3) (flit : List Byte) (corrected uncorrectable : BitVec 8)
  /-- Port p receives a good NAK flit (R312). -/
  | nak (p : BitVec 3) (ack : BitVec 24)
  /-- Port p has seen no ACK progress for 2 µs (R312). -/
  | replayTimeout (p : BitVec 3)
  /-- Port p is declared failed (R313). -/
  | portFail (p : BitVec 3)
  /-- Port p's fast retrain ends, with 20 lanes, 10 (lanes code 2, 1) or in failure (0) (R313). -/
  | fastRetrain (p : BitVec 3) (lanes : BitVec 2) (half : Bool)
  /-- Port p's failed training attempt is repeated (R388). -/
  | trainingRetry (p : BitVec 3)
  /-- Port p sends a HELLO flit (R388). -/
  | helloSend (p : BitVec 3)
  /-- Port p receives a HELLO flit (R314). -/
  | hello (p : BitVec 3) (h : Hello)
  /-- The first message that arrived on port p is for another module (R317). -/
  | messageForward (p : BitVec 3)
  /-- The first message that arrived on port p is the one named, for this module (R321–R323). -/
  | poolRd (p : BitVec 3)
  | poolRdRsp (p : BitVec 3)
  | poolWr (p : BitVec 3)
  | poolWrAck (p : BitVec 3)
  | poolAmo (p : BitVec 3)
  | poolAmoRsp (p : BitVec 3)
  | errRsp (p : BitVec 3)
  /-- The request with this TAG has had no response within RESP_TIMEOUT (R324). -/
  | respTimeout (tag : BitVec 16)
  /-- The first message that arrived on port p is a QWORD, a QRSP (R326, R327). -/
  | qword (p : BitVec 3)
  | qrsp (p : BitVec 3)
  /-- Kind-4 queue q sends its head word, first or again (R327). -/
  | qwordRetry (q : BitVec 12)
  /-- Queue q's multicast head word is unresolved on port p for MCAST_TIMEOUT (R327). -/
  | mcastTimeout (q : BitVec 12) (p : BitVec 3)
  /-- The first message that arrived on port p is a LINK_CREDIT (R313). -/
  | linkCredit (p : BitVec 3)
  /-- Port p starts its TIME_SYNC exchange; frac is the time-stamp's part below a ns (R332). -/
  | timeSyncSend (p : BitVec 3) (frac : BitVec 4)
  /-- A TIME_SYNC arrived on port p, stamped with frac below its ns (R332). -/
  | timeSync (p : BitVec 3) (frac : BitVec 4)
  /-- Port p's egress serves its next flow (R329). -/
  | schedulerServe (p : BitVec 3)
  /-- Port p samples its queues (R331). -/
  | queueSample (p : BitVec 3)
  /-- FJL_SEG_INVAL is written (R319). -/
  | fjlSegInval (v : BitVec 32)
  /-- The invalidation of FJL_SEG_INVAL is done (R319). -/
  | segInvalDone
  /-- Port p's training attempt succeeds at 20 or 10 lanes (code 2, 1), full or half rate (R310). -/
  | portTrained (p : BitVec 3) (lanes : BitVec 2) (half : Bool)
  /-- Port p's receiver gains or loses flit lock (R313). -/
  | flitLock (p : BitVec 3) (gained : Bool)
  -- Jobs (14)
  /-- PF0 of a port (second: port 1) writes v to HUB_JOB_SUBMIT; what host memory answers for the descriptor and the image with
  its signature block, where they lie there (R338, R339). -/
  | jobSubmit (second : Bool) (v : Word) (desc image : HostRead)
  /-- Group g takes its next job (R340, R346). -/
  | jobStart (g : BitVec 4)
  /-- A queued job of higher priority pre-empts group g's job (R346, R347). -/
  | preempt (g : BitVec 4)
  /-- Group g's job is saved; started commands that await fabric-pool responses are suspended (R347, R348). -/
  | saveComplete (g : BitVec 4)
  /-- Group g's job is restored (R347, R348). -/
  | restoreComplete (g : BitVec 4)
  /-- HUB_JOB_KILL is written (R344). -/
  | jobKill (v : BitVec 32)
  /-- Group g's job ends (R341). -/
  | jobEnd (g : BitVec 4)
  -- Marigold (15)
  /-- A path check failed at a receiver: the sending unit resends (R352). -/
  | pathRetry (unit : BitVec 16)
  /-- The resend failed too (R352). -/
  | pathFail (unit : BitVec 16)
  /-- Scrub reads the word at pa, in a row of its stack or SRAM: 0 good, 1 corrected, 2 uncorrectable (R353, R355). -/
  | scrub (pa : BitVec 48) (row : BitVec 32) (result : BitVec 2)
  /-- A stack's calibration window (R355). -/
  | hbmCalibration (stack : BitVec 3)
  /-- A unit with work pending has completed no handshake for HANG_MS (R356). -/
  | hangDetect (unit : BitVec 16)
  /-- A failed unit leaves service; running names the started commands that run on it or through it (R357, R358). -/
  | unitFailed (unit : BitVec 16) (running : List Nat)
  /-- Group g's job restarts (R360). -/
  | recoveryRestart (g : BitVec 4)
  /-- A module-fatal fault (R364). -/
  | fatal
  /-- MGD_STOP_CTRL is written with STOP (R365). -/
  | stop (v : BitVec 32)
  /-- A CUT_MARK waits on port p (R365–R367). -/
  | cutMark (p : BitVec 3)
  /-- Port p's marker has not arrived within 10 ms (R366). -/
  | cutMarkTimeout (p : BitVec 3)
  /-- The cut is written (R369). -/
  | cutTaken
  /-- MGD_STOP_CTRL is written with RESUME; reads is what host memory answers the held writes that make the module read it (R370). -/
  | resume (v : BitVec 32) (reads : List HostRead)
  -- Start and power (16)
  /-- Input power is good for 1 ms while the module is off; BIFURC grounded, ADDR_SEL (R378, R431, R433). -/
  | inputPowerGood (bifurc : Bool) (addrSel : BitVec 3)
  /-- PWR_RESTART is written with COLD (R378). -/
  | coldStart (v : BitVec 32)
  /-- PWR_RESTART is written with WARM (R378). -/
  | warmStart (v : BitVec 32)
  /-- The current stage's work is done (R379). -/
  | stageAdvance (work : StageWork)
  /-- The next stage has not been reached within its limit (R383). -/
  | stageTimeout
  /-- The power loop samples (R389, R390). -/
  | powerLoopSample (x : PowerSample)
  /-- A die's junction (4: hub) has been at 110 °C for 10 ms (R390). -/
  | junctionOverheat (die : BitVec 3)
  /-- The flow is observed; after 2 s below or at FLOW_MIN, FLOW_LOW follows (R391). -/
  | flowLow (c : Coolant)
  /-- A valve iteration: sensor readings, the opening the control asks for (R392, R393). -/
  | valveIteration (c : Coolant) (pct : Byte)
  /-- Usable holdup energy in 0.01 J (R394). -/
  | holdupMeasure (cj : BitVec 16)
  /-- Input below 44 V for 50 µs (R395). -/
  | powerLoss
  /-- The power-loss sequence ends; whether input power is good again, with the straps (R395). -/
  | powerDown (good : Bool) (bifurc : Bool) (addrSel : BitVec 3)
  /-- The guard channels are sampled: GUARD_A high, GUARD_B high (R396, R436). -/
  | guardSample (a b : Bool)
  /-- GRD_CLEAR is written (R398). -/
  | guardClear (v : BitVec 32)
  /-- PERST# of a port (second: port 1) is asserted for 100 µs (R378, R434). -/
  | perstAssert (second : Bool)
  /-- PERST# of a port is released: its link trains (R434). -/
  | perstRelease (second : Bool)
  /-- A port's link comes up (R291). -/
  | pcieLinkUp (second : Bool) (flit : Bool) (speed width : BitVec 3)
  -- Security and Heather (17)
  /-- An MCTP message arrives over a transport (R410). -/
  | mctpRequest (t : Transport) (m : MctpMsg)
  /-- Heather answers the request that is first in arrival order; one row for each kind of request (R409–R412). -/
  | setEndpointId
  | getVersion
  | getCapabilities
  | negotiateAlgorithms
  | getDigests
  | getCertificate
  | challenge
  | getMeasurements
  | getSensorReading
  | setNumericEffecterValue
  | setStateEffecterStates
  | requestUpdate
  | firmwareData
  | verifyComplete
  | activateFirmware
  | provisioning
  /-- SEC_SVN_COMMIT is written (R404). -/
  | secSvnCommit (v : BitVec 32)
  /-- SEC_POLICY is written with LOCK = 1 (R408). -/
  | policyLock (v : BitVec 32)
  -- Counters, traces, pressing, breakpoints (18)
  /-- DBG_CTRL is written with HOLD = 1 (R416). -/
  | holdSet (v : BitVec 32)
  /-- DBG_CTRL is written with HOLD = 0 (R416). -/
  | holdClear (v : BitVec 32)
  /-- The oldest trace record reaches its buffer, or is lost to the buffer's rate (R418–R422). -/
  | traceRecord (lost : Bool)
  /-- PF0 writes DBG_MARK (R420). -/
  | mark (v : Word)
  /-- DBG_PRESS is written (R424). -/
  | press (v : BitVec 32)
  /-- The pressing in progress ends; the units it could not read (R424, R425). -/
  | pressingDone (unreadable : List (BitVec 16))
  /-- DBG_WDOG_KICK of partition p is written (R423). -/
  | watchdogKick (p : BitVec 4) (v : BitVec 32)
  /-- Group g's watchdog fires (R423). -/
  | watchdogFire (g : BitVec 4)
  /-- Core c, stopping at BRK with DRAIN = 1, has no command left (R426). -/
  | brkDrainDone (c : CoreId)
  /-- DBG_BRK_RESUME is written (R427). -/
  | brkResume (v : Word)
  /-- DBG_BRK_STEP is written (R427). -/
  | brkStep (v : Word)
deriving DecidableEq, Repr

end Sys2Proof
end

