-- ==== Sys2Proof/Decode.lean ====
section
/-!
DEFINITION. Reading commands from words. The opcode table gives no row any bits, so no word of the table's spells a command; a
control-core instruction's word is read by Tables 3.2 to 3.6.
-/

namespace Sys2Proof

/-- The command a word spells by the bits of spec/opcode_table.json: none, as no row has fields. -/
def decodeTableWord (_nbits _w : Nat) : Option Instr := none

/-- Bits [lo + n - 1 : lo] of an instruction word. -/
def wordBits (w : BitVec 32) (lo n : Nat) : BitVec n := w.extractLsb' lo n

/-- Bit i of an instruction word. -/
def wordBit (w : BitVec 32) (i : Nat) : Bool := w.toNat.testBit i

/-- PG and PN (R53). -/
def wordGuard (w : BitVec 32) : Guard := { pg := wordBits w 29 3, pn := wordBit w 28 }

/-- OP = 0x00: the ALU function in FN (Table 3.4). -/
def aluInstr (c : CoreId) (w : BitVec 32) : Option Instr :=
  let g := wordGuard w
  let rd : GReg := wordBits w 17 5
  let a : GReg := wordBits w 12 5
  let b : GReg := wordBits w 7 5
  match (wordBits w 0 7).toNat with
  | 0x00 => some (.add c g rd a b)
  | 0x01 => some (.sub c g rd a b)
  | 0x02 => some (.and c g rd a b)
  | 0x03 => some (.or c g rd a b)
  | 0x04 => some (.xor c g rd a b)
  | 0x05 => some (.sll c g rd a b)
  | 0x06 => some (.srl c g rd a b)
  | 0x07 => some (.sra c g rd a b)
  | 0x08 => some (.mul c g rd a b)
  | 0x09 => some (.mulh c g rd a b)
  | 0x0A => some (.mulhu c g rd a b)
  | 0x0B => some (.min c g rd a b)
  | 0x0C => some (.max c g rd a b)
  | 0x0D => some (.minu c g rd a b)
  | 0x0E => some (.maxu c g rd a b)
  | _ => none

/-- OP = 0x17: the system function in FN (Table 3.6). -/
def sysInstr (c : CoreId) (w : BitVec 32) : Option Instr :=
  let g := wordGuard w
  let rd : GReg := wordBits w 17 5
  let a : GReg := wordBits w 12 5
  let z : BitVec 2 := wordBits w 10 2
  let pd : PReg := wordBits w 7 3
  match (wordBits w 0 7).toNat with
  | 0x00 => some (.nop c g rd a z pd)
  | 0x01 => some (.halt c g rd a z pd)
  | 0x02 => some (.brk c g rd a z pd)
  | 0x03 => some (.time c g rd a z pd)
  | 0x04 => some (.coreid c g rd a z pd)
  | 0x10 => some (.fenceL c g rd a z pd)
  | 0x11 => some (.fenceP c g rd a z pd)
  | 0x12 => some (.fenceD c g rd a z pd)
  | 0x13 => some (.fenceS c g rd a z pd)
  | _ => none

/-- The instruction a word encodes for core c (Tables 3.2, 3.3); whether a branch's guard is resolved stands in no bit. none: the word has
no defined encoding (R54). -/
def fjorInstr (c : CoreId) (w : BitVec 32) (resolved : Bool) : Option Instr :=
  let g := wordGuard w
  let rd : GReg := wordBits w 17 5
  let a : GReg := wordBits w 12 5
  let b : GReg := wordBits w 7 5
  let fn : BitVec 7 := wordBits w 0 7
  let imm : BitVec 12 := wordBits w 0 12
  let k : BitVec 16 := wordBits w 0 16
  match (wordBits w 22 6).toNat with
  | 0x00 => aluInstr c w
  | 0x01 => some (.addi c g rd a imm)
  | 0x02 => some (.andi c g rd a imm)
  | 0x03 => some (.ori c g rd a imm)
  | 0x04 => some (.xori c g rd a imm)
  | 0x05 => some (.shi c g rd a imm)
  | 0x06 => some (.movz c g rd (wordBit w 16) k)
  | 0x07 => some (.movkL c g rd (wordBit w 16) k)
  | 0x08 => some (.movkH c g rd (wordBit w 16) k)
  | 0x09 => some (.cmp c g rd a b fn)
  | 0x0A => some (.cmpi c g (wordBits w 19 3) (wordBits w 16 3) (wordBits w 11 5) (wordBits w 0 11))
  | 0x0B => some (.plog c g rd a b fn)
  | 0x0C => some (.ld c g rd a (wordBits w 10 2) (wordBit w 9) (wordBits w 0 9))
  | 0x0D => some (.st c g rd a (wordBits w 10 2) (wordBit w 9) (wordBits w 0 9))
  | 0x0E => some (.amo c g rd a b fn)
  | 0x0F => some (.b c g (wordBit w 21) (wordBits w 0 21) resolved)
  | 0x10 => some (.bl c g (wordBit w 21) (wordBits w 0 21) resolved)
  | 0x11 => some (.br c g rd a b fn)
  | 0x12 => some (.qput c g rd a (wordBits w 10 2) (wordBit w 9) (wordBit w 8) (wordBits w 5 3) (wordBits w 2 3) (wordBits w 0 2))
  | 0x13 => some (.qget c g rd a (wordBits w 10 2) (wordBit w 9) (wordBit w 8) (wordBits w 5 3) (wordBits w 2 3) (wordBits w 0 2))
  | 0x14 => some (.qcnt c g rd a b fn)
  | 0x15 => some (.enq c g rd a (wordBit w 11) (wordBits w 8 3) (wordBits w 0 8))
  | 0x16 => some (.wait c g rd (wordBits w 11 6) (wordBit w 10) (wordBits w 7 3) (wordBits w 0 7))
  | 0x17 => sysInstr c w
  | _ => none

end Sys2Proof
end

