-- ==== Sys2Proof/Machine/Bits.lean ====
section
/-!
DEFINITION. Bit fields, little-endian bytes (R3), sign extension, saturation, checks: the plain arithmetic the
meanings share.
-/

namespace Sys2Proof.Machine

/-- Bits [lo + w - 1 : lo] of a natural number. -/
def bitsOf (v lo w : Nat) : Nat := (v >>> lo) % 2 ^ w

/-- Bits [lo + w - 1 : lo] of a bit vector, as a number. -/
def fld {n : Nat} (v : BitVec n) (lo w : Nat) : Nat := bitsOf v.toNat lo w

/-- Bit i of a bit vector. -/
def bitAt {n : Nat} (v : BitVec n) (i : Nat) : Bool := v.toNat.testBit i

/-- v with bits [lo + w - 1 : lo] replaced by x. -/
def setFld (v : Word) (lo w x : Nat) : Word :=
  let m : Word := BitVec.ofNat 64 ((2 ^ w - 1) <<< lo)
  (v &&& ~~~m) ||| (BitVec.ofNat 64 (x <<< lo) &&& m)

/-- A Bool as a number. -/
def b2n (b : Bool) : Nat := if b then 1 else 0

/-- The number whose little-endian bytes are bs (R3). -/
def leNat : List Byte → Nat
  | [] => 0
  | b :: bs => b.toNat + 256 * leNat bs

/-- The n little-endian bytes of a number (R3). -/
def toLE : Nat → Nat → List Byte
  | 0, _ => []
  | n + 1, v => BitVec.ofNat 8 (v % 256) :: toLE n (v / 256)

/-- Bytes [off, off + n) of a list, short where the list ends. -/
def bytesAt (bs : List Byte) (off n : Nat) : List Byte := (bs.drop off).take n

/-- The little-endian number in bytes [off, off + n). -/
def numAt (bs : List Byte) (off n : Nat) : Nat := leNat (bytesAt bs off n)

/-- n zero bytes. -/
def zeros (n : Nat) : List Byte := List.replicate n 0

/-- The list with its elements from position off on overwritten by xs (no longer than before). -/
def overlay (bs : List Byte) (off : Nat) (xs : List Byte) : List Byte :=
  bs.take off ++ (xs.take (bs.length - off)) ++ bs.drop (off + xs.length)

/-- The signed value of the low w bits of v. -/
def signedOf (w v : Nat) : Int := if v % 2 ^ w < 2 ^ (w - 1) then (v % 2 ^ w : Nat) else (v % 2 ^ w : Nat) - (2 ^ w : Nat)

/-- The smallest number of units of size u that hold n. -/
def ceilDiv (n u : Nat) : Nat := (n + u - 1) / u

/-- The sum of a list of numbers. -/
def sumNat (xs : List Nat) : Nat := xs.foldl (· + ·) 0

/-- n saturated to w bits. -/
def satNat (w n : Nat) : Nat := Nat.min n (2 ^ w - 1)

/-- Do the half-open ranges [a, a + n) and [b, b + m) meet? -/
def overlaps (a n b m : Nat) : Bool := decide (0 < n) && decide (0 < m) && decide (a < b + m) && decide (b < a + n)

/-- Are all bytes zero? -/
def allZero (bs : List Byte) : Bool := bs.all (fun b => b == 0)

/-- One bit of the CRC-32C register (reflected polynomial 0x82F63B78). -/
def crcBit (c : BitVec 32) : BitVec 32 := if bitAt c 0 then (c >>> 1) ^^^ 0x82F63B78 else c >>> 1

/-- The CRC-32C register after one byte. -/
def crcByte (c : BitVec 32) (b : Byte) : BitVec 32 :=
  let x := c ^^^ BitVec.setWidth 32 b
  crcBit (crcBit (crcBit (crcBit (crcBit (crcBit (crcBit (crcBit x)))))))

/-- CRC-32C of a list of bytes (Castagnoli; initial value and final inversion all ones). -/
def crc32c (bs : List Byte) : BitVec 32 := ~~~(bs.foldl crcByte 0xFFFFFFFF)

end Sys2Proof.Machine
end

