-- ==== Sys2Proof/Machine/Flags.lean ====
section
/-!
DEFINITION. The predicate computations of the control cores: the conditions of Table 3.5 and predicate logic (R57).
-/

namespace Sys2Proof.Machine

/-- Is the condition code defined (Table 3.5)? -/
def condOk (cc : BitVec 3) : Bool := decide (cc.toNat < 6)

/-- Does condition cc hold of rs1 and the operand (Table 3.5)? -/
def condHolds (cc : BitVec 3) (a b : Word) : Bool :=
  match cc.toNat with
  | 0 => a == b
  | 1 => a != b
  | 2 => a.slt b
  | 3 => !(a.slt b)
  | 4 => a.ult b
  | _ => !(a.ult b)

/-- PLOG's operation (R57): AND, OR, XOR, ANDN. -/
def predLogic (fn : BitVec 7) (a b : Bool) : Bool :=
  match fn.toNat with
  | 0 => a && b
  | 1 => a || b
  | 2 => a ^^ b
  | _ => a && !b

end Sys2Proof.Machine
end

