-- ==== Sys2Proof/Machine/Operands.lean ====
section
/-!
DEFINITION. The operand forms of the control-core instructions: immediates, shift amounts, predicate fields, addresses
(R55–R58, R61).
-/

namespace Sys2Proof.Machine

/-- imm12, sign-extended (R55). -/
def imm12 (i : BitVec 12) : Word := BitVec.signExtend 64 i

/-- A shift amount: the low 6 bits of the operand (R55). -/
def shiftAmount (v : Word) : Nat := fld v 0 6

/-- The shift SHI's imm12 names (R55). -/
def shiftImm (v : Word) (imm : BitVec 12) : Word :=
  let k := fld imm 0 6
  match fld imm 6 2 with
  | 0 => v <<< k
  | 1 => v >>> k
  | 2 => v.sshiftRight k
  | _ => v.rotateRight k

/-- The high 64 bits of the signed 128-bit product (Table 3.4). -/
def mulHigh (a b : Word) : Word := BitVec.ofInt 64 (a.toInt * b.toInt / 2 ^ 64)

/-- The high 64 bits of the unsigned 128-bit product (Table 3.4). -/
def mulHighU (a b : Word) : Word := BitVec.ofNat 64 (a.toNat * b.toNat / 2 ^ 64)

/-- The low three bits of a register field, a predicate number (R57). -/
def low3 (r : GReg) : PReg := BitVec.setWidth 3 r

/-- Are the upper two bits of the field zero (R57)? -/
def upperZero (r : GReg) : Bool := decide (fld r 3 2 = 0)

/-- The address of LD and ST: rs1 + sign_extend(imm9) * 2^SZ (R58). -/
def memAddress (base : Word) (imm : BitVec 9) (sz : BitVec 2) : Word := base + BitVec.signExtend 64 imm <<< sz.toNat

/-- A branch target: the branch's address plus 4 * off21 (R61). -/
def branchTarget (pc : BitVec 18) (off : BitVec 21) : Int := (pc.toNat : Int) + 4 * off.toInt

/-- The value LD writes: n loaded bytes, zero- or sign-extended (R58). -/
def extendLoad (n : Nat) (sx : Bool) (v : Nat) : Word :=
  if sx then BitVec.ofInt 64 (signedOf (8 * n) v) else BitVec.ofNat 64 v

/-- The value an AMO writes for its operation FN[6:4], the old value, rs2, and rd's old value (R60). -/
def amoResult (op : Nat) (old rs2 rd : Word) : Word :=
  match op with
  | 0 => rs2
  | 1 => old + rs2
  | 2 => old &&& rs2
  | 3 => old ||| rs2
  | 4 => if old.ult rs2 then rs2 else old
  | 5 => if rs2.ult old then rs2 else old
  | _ => if old = rd then rs2 else old

end Sys2Proof.Machine
end

