-- ==== Sys2Proof/Config.lean ====
section
/-!
DEFINITION. What the spec leaves open: free values, as constants without a body. Nothing in Lean can evaluate one or
prove which value it is; a statement about one holds for every value.
-/

namespace Sys2Proof

/-- The n-th free 64-bit value (log entry 6): drawn with the state's counter `free`, one draw a value. -/
opaque Config.freeWord : Nat → Word

/-- The byte an engine's access to the register window reads at an address: the spec gives no result (R2). -/
opaque Config.engineRegisterByte : Nat → Byte

/-- Byte i of what a peer answers the module's own n-th read of its memory: a job's descriptor or image in the fabric pool that a control
core submits (R338). -/
opaque Config.peerByte : Nat → Nat → Byte

/-- Does a command (first, by identity plus 1) see the value that a 32-byte unit (third) held before an earlier command not yet
completed (second) wrote it (R32)? -/
opaque Config.seesOld : Nat → Nat → Nat → Bool

/-- PF1's CAP register, in the fields that the spec does not give (R280). -/
opaque Config.nvmeCap : Word

/-- The doubleword of a function's configuration space (kind: 0 a PF0, 1 PF1, 2 a VF) at an offset, in the bits that the spec does not
give (R291, R293). -/
opaque Config.configWord : Nat → Nat → BitVec 32

/-- The doubleword of a function's configuration space (kind as above) at which a capability stands: 0 PCI Express, 1 power management,
2 ARI, 3 SR-IOV (R291). -/
opaque Config.capabilityAt : Nat → Nat → BitVec 10

/-- AES-256 of one block under a key, which link encryption uses in counter mode (R408). -/
opaque Config.aes256 : BitVec 256 → BitVec 128 → BitVec 128

/-- SHA-384 of a message (R401, R409, R411). -/
opaque Config.sha384 : List Byte → BitVec 384

/-- HKDF-SHA-384 of a key and its info to 256 bits (R408). -/
opaque Config.hkdf256 : BitVec 256 → List Byte → BitVec 256

/-- Does the signature (third) of the message (second) verify under the public key whose hash is the first (R402)? -/
opaque Config.signatureOk : BitVec 384 → List Byte → List Byte → Bool

/-- What the vector unit computes for a function of Table 5.4 that only has an error bound, from the function's code, its
input and its immediate: accepted where it meets the bound (R119). -/
opaque Config.vecApprox : Nat → BitVec 32 → BitVec 32 → BitVec 32

/-- The digest of the image a module was made with, by bank key 2 * c + b for component c + 1 (R401, Table 17.4). -/
opaque Config.factoryDigest : Nat → BitVec 384

/-- Certificate slot 0 under the Heather firmware of a digest: the DeviceID certificate and the Alias certificate (R409, Table 17.3). -/
opaque Config.certificateChain : BitVec 384 → List Byte

/-- The Alias key's signature, under the Heather firmware of a digest, of a transcript's bytes (R409, Table 17.3). -/
opaque Config.aliasSignature : BitVec 384 → List Byte → List Byte

end Sys2Proof
end

