-- ==== Sys2Proof/Machine/Maps.lean ====
section
/-!
DEFINITION. Sparse maps (plain lists in one canonical form): reading a key, writing a key, the canonical form.
-/

namespace Sys2Proof.Machine

/-- What key k holds: the value listed for it, else the default d. -/
def SMap.get {α : Type} (d : α) : SMap α → Nat → α
  | [], _ => d
  | (a, v) :: m, k => if a = k then v else SMap.get d m k

/-- The map without key k. -/
def SMap.erase {α : Type} : SMap α → Nat → SMap α
  | [], _ => []
  | (a, v) :: m, k => if a = k then SMap.erase m k else (a, v) :: SMap.erase m k

/-- The map with v listed at key k, in the place the order of keys gives it. -/
def SMap.insert {α : Type} : SMap α → Nat → α → SMap α
  | [], k, v => [(k, v)]
  | (a, w) :: m, k, v =>
    if k < a then (k, v) :: (a, w) :: m
    else if a = k then (k, v) :: m
    else (a, w) :: SMap.insert m k v

/-- The map after v is written at key k: writing the default removes the key. -/
def SMap.set {α : Type} [DecidableEq α] (d : α) (m : SMap α) (k : Nat) (v : α) : SMap α :=
  if v = d then SMap.erase m k else SMap.insert m k v

/-- The value listed at key k, if one is. -/
def SMap.find {α : Type} : SMap α → Nat → Option α
  | [], _ => none
  | (a, v) :: m, k => if a = k then some v else SMap.find m k

/-- The canonical form: keys strictly rising and no key that holds the default. -/
def SMap.wf {α : Type} [DecidableEq α] (d : α) : SMap α → Bool
  | [] => true
  | [(_, v)] => decide (v ≠ d)
  | (a, v) :: (b, w) :: m => decide (v ≠ d) && decide (a < b) && SMap.wf d ((b, w) :: m)

/-- The map without the keys that satisfy f. -/
def SMap.dropKeys {α : Type} (f : Nat → Bool) (m : SMap α) : SMap α := m.filter (fun e => !f e.1)

end Sys2Proof.Machine
end

