-- ==== Sys2Proof/Machine/RegNames.lean ====
section
/-!
DEFINITION. The place of each register of spec/ in the register space (BAR0 offset: the window of Table 12.3 plus the
offset its chapter gives); an array's register i (and j) by its stride, a function window's register by the function.
-/

namespace Sys2Proof.Machine.Reg

/-- Where the function window of function f begins in the register space (R295): function 0's is the first 64 KiB of
the PCI_ window. -/
def fnBase (f : Nat) : Nat :=
  if f = 0 then 0xE00000 else if f = 257 then 0x5000000 else 0x4000000 + (f - 1) * 0x10000

/-- The APPLY register of 1 MiB window w (R299). -/
def winApply (w : Nat) : Nat := w * 0x100000 + 0xFFFF0

/-- The APPLY register of function f's window (R299). -/
def fnApply (f : Nat) : Nat := fnBase f + 0xFFF0

def hubId : Nat := 0x0
def hubPeonyMap : Nat := 0x8
def hubEngineMap : Nat := 0x10
def hubDieStatus : Nat := 0x14
def hubDeviceTime : Nat := 0x20
def hubOppoint (i : Nat) : Nat := 0x30 + 4 * i
def hubSpecDisable : Nat := 0x100
def hubSpecWrap : Nat := 0x104
def hubSquash (i : Nat) : Nat := 0x108 + 8 * i
def pnyCcStatus (i : Nat) : Nat := 0x180000 + 4096 * i
def pnyCcFaultAddr (i : Nat) : Nat := 0x180008 + 4096 * i
def pnyCcFailModule (i : Nat) : Nat := 0x180010 + 4096 * i
def pnyCcSlots (i : Nat) : Nat := 0x180018 + 4096 * i
def hubNumfSticky : Nat := 0x140
def hubNumfNan : Nat := 0x148
def pnyCoreStatus (i : Nat) : Nat := 0x100000 + 4096 * i
def pnyArrayActive (i : Nat) : Nat := 0x100008 + 4096 * i
def pnyFreezeFeed (i : Nat) : Nat := 0x100010 + 4096 * i
def pnyFreezeDrain (i : Nat) : Nat := 0x100018 + 4096 * i
def pnyGated (i : Nat) : Nat := 0x100020 + 4096 * i
def pnyCntWrap (i : Nat) : Nat := 0x100028 + 4096 * i
def lupStatus (i : Nat) : Nat := 0x200000 + 4096 * i
def lupArrayActive (i : Nat) : Nat := 0x200008 + 4096 * i
def lupFreezeHbm (i : Nat) : Nat := 0x200010 + 4096 * i
def lupHbmKib (i : Nat) : Nat := 0x200018 + 4096 * i
def lupCntWrap (i : Nat) : Nat := 0x200020 + 4096 * i
def clmStatus : Nat := 0x300000
def clmCacheCtrl : Nat := 0x300004
def clmCacheUsed : Nat := 0x300008
def clmWalks : Nat := 0x300010
def clmLeaves : Nat := 0x300018
def clmPrefetchUsed : Nat := 0x300020
def clmCntWrap : Nat := 0x300028
def prmStatus : Nat := 0x400000
def prmRows : Nat := 0x400008
def prmNan : Nat := 0x400010
def prmCntWrap : Nat := 0x400018
def astStatus : Nat := 0x500000
def astSpecKept : Nat := 0x500008
def astStale : Nat := 0x500010
def astRowRetry : Nat := 0x500018
def astMerged : Nat := 0x500020
def astCntWrap : Nat := 0x500028
def bqtStatus : Nat := 0x600000
def bqtShadowHits : Nat := 0x600008
def bqtTrimmed : Nat := 0x600010
def bqtCntWrap : Nat := 0x600018
def zinStatus : Nat := 0x700000
def zinVocabInfo (i : Nat) : Nat := 0x700100 + 8 * i
def zinGrammarInfo (i : Nat) : Nat := 0x700200 + 8 * i
def zinEncKib : Nat := 0x700010
def zinEscaped : Nat := 0x700018
def zinMasks : Nat := 0x700020
def zinMaskLate : Nat := 0x700028
def zinStops : Nat := 0x700030
def zinCntWrap : Nat := 0x700038
def lupKvCommitted : Nat := 0x220000
def lupDraftNodes : Nat := 0x220008
def lupGenWrap : Nat := 0x220010
def lupCadCfg (i : Nat) : Nat := 0x221000 + 16 * i
def lupCadLate (i : Nat) : Nat := 0x221008 + 16 * i
def lupCadWrap (i : Nat) : Nat := 0x222000 + 4 * i
def hubMmuInval : Nat := 0x200
def hubMmuInvalStatus : Nat := 0x208
def hubMmuFault (i : Nat) : Nat := 0x220 + 8 * i
def fxgStatus : Nat := 0x800000
def fxgAcctMode : Nat := 0x800004
def fxgScacheCtrl : Nat := 0x800008
def fxgDsArena (i : Nat) : Nat := 0x800010 + 4 * i
def fxgHbmArena (i : Nat) : Nat := 0x800020 + 4 * i
def fxgQuota (i : Nat) : Nat := 0x800060 + 4 * i
def fxgUsed (i : Nat) : Nat := 0x8000a0 + 8 * i
def fxgEvicted : Nat := 0x800120
def fxgCntWrap : Nat := 0x800128
def fxgScacheEff : Nat := 0x800130
def stmStatus : Nat := 0x900000
def stmDiscard : Nat := 0x900008
def stmCntWrap : Nat := 0x900010
def stmPartQuota (i : Nat) : Nat := 0x900100 + 4 * i
def stmQcfg (i : Nat) : Nat := 0x910000 + 16 * i
def stmQtgt (i : Nat) : Nat := 0x910008 + 16 * i
def stmQcnt (i : Nat) : Nat := 0x920000 + 8 * i
def hlyStatus : Nat := 0xa00000
def hlyCapacity : Nat := 0xa00008
def hlyRdLimits : Nat := 0xa00010
def hlyRetired : Nat := 0xa00018
def hlyPf1Class : Nat := 0xa0001c
def hlyHealthBase : Nat := 0xa00020
def hlyHealthWr : Nat := 0xa00028
def hlyHealthRd : Nat := 0xa0002c
def hlyHealthLost : Nat := 0xa00030
def hlyReads : Nat := 0xa00040
def hlyRefreshed : Nat := 0xa00048
def hlyOorReads : Nat := 0xa00050
def hlyCntWrap : Nat := 0xa00058
def pciFnStatus (f : Nat) : Nat := fnBase f + 0x0
def pciIfVersion (f : Nat) : Nat := fnBase f + 0x8
def pciIfSelect (f : Nat) : Nat := fnBase f + 0xc
def pciRingBase (f i : Nat) : Nat := fnBase f + 0x1000 + 32 * i
def pciRingWb (f i : Nat) : Nat := fnBase f + 0x1008 + 32 * i
def pciRingCfg (f i : Nat) : Nat := fnBase f + 0x1010 + 32 * i
def pciRingStatus (f i : Nat) : Nat := fnBase f + 0x1014 + 32 * i
def pciRingPtr (f i : Nat) : Nat := fnBase f + 0x1018 + 32 * i
def pciFnBar4 (i : Nat) : Nat := 0xe10000 + 16 * i
def pciLinkStatus : Nat := 0xe20000
def pciNarrowDrop : Nat := 0xe20010
def pciBadAccess : Nat := 0xe20018
def pciDbDrop : Nat := 0xe20020
def pciCntWrap : Nat := 0xe20028
def fjlModuleId : Nat := 0xd00000
def fjlTimeouts : Nat := 0xd00004
def fjlSampleCfg : Nat := 0xd00008
def fjlStatus : Nat := 0xd0000c
def fjlClassWeight : Nat := 0xd00010
def fjlSegBase : Nat := 0xd00020
def fjlSegInval : Nat := 0xd00028
def fjlTimeCfg : Nat := 0xd00030
def fjlTimeStatus : Nat := 0xd00034
def fjlMcastReport (i : Nat) : Nat := 0xd00040 + 4 * i
def fjlPortCfg (i : Nat) : Nat := 0xd00100 + 8 * i
def fjlPortStatus (i : Nat) : Nat := 0xd00104 + 8 * i
def fjlExport (i : Nat) : Nat := 0xd00200 + 8 * i
def fjlQsample (i j : Nat) : Nat := 0xd01000 + 64 * i + 8 * j
def fjlQmaxdelay (i j : Nat) : Nat := 0xd01200 + 32 * i + 4 * j
def fjlShape (i j : Nat) : Nat := 0xd01400 + 64 * i + 8 * j
def fjlPcnt (i j : Nat) : Nat := 0xd02000 + 64 * i + 8 * j
def fjlCntWrap (i : Nat) : Nat := 0xd02400 + 4 * i
def hubJobSubmit : Nat := 0x1000
def hubJobKill : Nat := 0x1008
def hubPgroup : Nat := 0x1010
def hubSchedStatus : Nat := 0x1018
def hubPartWeight (i : Nat) : Nat := 0x1020 + 4 * i
def hubGrpStatus (i : Nat) : Nat := 0x1100 + 8 * i
def hubSaveCfg (i : Nat) : Nat := 0x1200 + 8 * i
def hubPreempts : Nat := 0x1300
def hubSaveWaits : Nat := 0x1308
def hubLandingDiscard : Nat := 0x1310
def hubSchedWrap : Nat := 0x1318
def hubEngShape (i j : Nat) : Nat := 0x1800 + 64 * i + 8 * j
def hubTenantBind (i : Nat) : Nat := 0x2000 + 4 * i
def mgdStatus : Nat := 0xb00000
def mgdService : Nat := 0xb00004
def mgdStopCtrl : Nat := 0xb00010
def mgdCutStatus : Nat := 0xb00018
def mgdCutBase : Nat := 0xb00020
def mgdCfg : Nat := 0xb00028
def mgdPeerQ : Nat := 0xb00030
def mgdLogWr : Nat := 0xb00040
def mgdLogRd : Nat := 0xb00044
def mgdLogLost : Nat := 0xb00048
def mgdLogPage : Nat := 0xb00050
def mgdLastCode : Nat := 0xb00058
def mgdCe : Nat := 0xb00060
def mgdUe : Nat := 0xb00068
def mgdSpecErr : Nat := 0xb00070
def mgdRecoveries : Nat := 0xb00078
def mgdCntWrap : Nat := 0xb00080
def mgdGrpRecover (i : Nat) : Nat := 0xb00100 + 16 * i
def mgdGrpRentry (i : Nat) : Nat := 0xb00108 + 16 * i
def pwrStartStatus : Nat := 0xf00000
def pwrStageTime (i : Nat) : Nat := 0xf00008 + 8 * (i - 1)
def pwrStartTime : Nat := 0xf00030
def pwrRestart : Nat := 0xf00040
def pwrStartCfg : Nat := 0xf00044
def pwrLimit : Nat := 0xf00048
def pwrStatus : Nat := 0xf00050
def pwrValveCfg : Nat := 0xf00060
def pwrCoolant : Nat := 0xf00068
def pwrHoldup : Nat := 0xf00070
def pwrValveLate : Nat := 0xf00078
def pwrCntWrap : Nat := 0xf00080
def grdCfg : Nat := 0x1000000
def grdStatus : Nat := 0x1000004
def grdClear : Nat := 0x1000008
def grdDisagree : Nat := 0x1000010
def grdTrips : Nat := 0x1000018
def grdCntWrap : Nat := 0x1000020
def secStatus : Nat := 0x1200000
def secPolicy : Nat := 0x1200004
def secSvn : Nat := 0x1200008
def secSvnCommit : Nat := 0x1200010
def secLinkKey (i : Nat) : Nat := 0x1200020 + 4 * i
def secLinkKeyId : Nat := 0x1200040
def htrStatus : Nat := 0xc00000
def dbgCtrl : Nat := 0x1100000
def dbgSnapTime : Nat := 0x1100008
def dbgEnergyMj : Nat := 0x1100010
def dbgCappedNs : Nat := 0x1100018
def dbgHotNs : Nat := 0x1100020
def dbgTjPeak : Nat := 0x1100028
def dbgPwrWrap : Nat := 0x110002c
def dbgTraceBase (i : Nat) : Nat := 0x1100100 + 32 * i
def dbgTraceCfg (i : Nat) : Nat := 0x1100108 + 32 * i
def dbgTraceStatus (i : Nat) : Nat := 0x1100110 + 32 * i
def dbgTraceLost (i : Nat) : Nat := 0x1100118 + 32 * i
def dbgTrigger : Nat := 0x1100140
def dbgPress : Nat := 0x1100180
def dbgPressCfg : Nat := 0x1100188
def dbgPressStatus : Nat := 0x1100190
def dbgWdog (i : Nat) : Nat := 0x1100200 + 8 * i
def dbgWdogKick (i : Nat) : Nat := 0x1100204 + 8 * i
def dbgBrkCfg (i : Nat) : Nat := 0x1100300 + 4 * i
def dbgBrkResume : Nat := 0x1100340
def dbgBrkStep : Nat := 0x1100348
def dbgMark : Nat := 0x1100380
def dbgPartCnt (i j : Nat) : Nat := 0x1101000 + 128 * i + 8 * j
def dbgPartWrap (i : Nat) : Nat := 0x1101800 + 4 * i

end Sys2Proof.Machine.Reg
end

