-- ==== Sys2Proof/Machine/State.lean ====
section
/-!
DEFINITION. The state of the module as plain data: everything the spec gives it, the queue of waiting commands, what
it has sent out, and the state right after input power became good (`State.reset`). Why a step stops: `Fault`,
`Refusal`.
-/

namespace Sys2Proof.Machine

/-- Why the model stops. -/
inductive Fault where
  /-- Raised by any command whose operands break `Instr.wf`: no sender the spec knows can send it. Safe: nothing
  is claimed of what the module does. -/
  | illFormed
deriving DecidableEq, Repr

/-- Why the model has no meaning for a command. -/
inductive Refusal where
  /-- Raised by an arm of `exec` for a command the model gives no meaning to, with the table's mnemonic. Safe: no
  state follows. -/
  | notModelled (mnemonic : String)
deriving DecidableEq, Repr

/-- Where the WRAPPED bit of a counter stands (R134): for counter (i, j) of its array, bit n := bit + b1 * i + b2 * j of
the register at base + s1 * i, counted in 32-bit words. -/
structure WrapAt where
  base : Nat
  s1 : Nat
  bit : Nat
  b1 : Nat
  b2 : Nat
deriving DecidableEq, Repr

/-- One row of the register tables: a register, or an array of n1 by n2 registers at strides s1 and s2. The masks say
which bits have which access code of Table 0.3 (rc: one mask a field); reset is the Reset column. -/
structure RegDesc where
  base : Nat
  n1 : Nat := 1
  s1 : Nat := 0
  n2 : Nat := 1
  s2 : Nat := 0
  wide : Bool := false
  rw : Nat := 0
  rws : Nat := 0
  w1c : Nat := 0
  w1s : Nat := 0
  wo : Nat := 0
  rc : List Nat := []
  reset : Nat := 0
  wrap : Option WrapAt := none
deriving DecidableEq, Repr

/-! ### Control cores (02, 03) -/

/-- A completion slot (R50, R79). -/
inductive Slot where
  | free
  | busy
  | done (status : Word)
deriving DecidableEq, Repr

/-- STATE of PNY_CC_STATUS (03). -/
inductive CoreState where
  | idle
  | running
  | halted
  | faulted
deriving DecidableEq, Repr

/-- The ordering scopes (R21). -/
inductive Scope where
  | l
  | p
  | d
  | s
deriving DecidableEq, Repr

/-- What a control core waits for; its program counter stays at the waiting instruction. -/
inductive Blocked where
  /-- a put that waits in the queue's line, or for its release (R35, R67, R263) -/
  | qput (q : BitVec 12) (rel : Bool)
  /-- a QGET with no word present (R67), with whether it acquires (R35) -/
  | qget (q : BitVec 12) (rg : GReg) (pe : PReg) (acq : Bool)
  /-- a blocking WAIT on a busy slot (R71) -/
  | wait (slot : BitVec 6) (rd : GReg)
  /-- an ENQ with no free entry or a busy slot (R69) -/
  | enq (qid : BitVec 16) (word : List Byte)
  /-- a fence whose conditions are not met (R26) -/
  | fence (sc : Scope) (pd : PReg)
  /-- a fabric-pool load or AMO at va that awaits its response, its value from byte off of the response on (R322) -/
  | pool (tag : BitVec 16) (rd : GReg) (bytes : Nat) (sx : Bool) (va : Word) (off : Nat)
deriving DecidableEq, Repr

/-- Run-ahead past an unresolved branch (R63–R65, Table 2.4 source 0): whether the guard will resolve to taken, the
prediction, the branch's address and target, whether it links (BL), the shadow copy of the registers, and what has been
issued since. -/
structure RunAhead where
  taken : Bool
  predicted : Bool
  branchPc : BitVec 18
  target : Int
  link : Bool
  savedG : SMap Word
  savedP : BitVec 8
  instrs : Nat
  loads : Nat
  /-- the first speculative load that met poisoned data (R42): the program counter and registers before it -/
  poison : Option (BitVec 18 × SMap Word × BitVec 8)
  /-- the speculative reads that met an uncorrectable error (R42) -/
  errors : Nat
deriving DecidableEq, Repr

/-- The architectural state of one control core (R50) and its registers of chapter 03. -/
structure Core where
  g : SMap Word
  p : BitVec 8
  pc : BitVec 18
  slots : SMap Slot
  imem : SMap (BitVec 32)
  imemStores : List (Nat × BitVec 32)
  state : CoreState
  fsFail : Bool
  brkStop : Bool
  brkDrain : Bool
  brkStep : Bool
  faultCode : Byte
  faultAddr : BitVec 48
  failModule : BitVec 16
  job : BitVec 16
  blocked : Option Blocked
  runAhead : Option RunAhead
  /-- a fabric write of the core has failed since its last FENCE.S, and at which peer (R28) -/
  writeFailed : Option (BitVec 16)
  /-- the last two stream-cache lines the core's loads missed, the latest first (R251) -/
  lastMiss : List Nat
  stopPower : Bool
  /-- it stopped at a BRK in the last word of instruction memory, so that its next fetch lies past it (R62, R426) -/
  past : Bool
deriving DecidableEq, Repr

/-- An idle core (R81): every register at its reset value, memory words 0 (log entry 5). -/
def Core.idle : Core :=
  { g := [], p := 0, pc := 0, slots := [], imem := [], imemStores := [], state := .idle, fsFail := false,
    brkStop := false, brkDrain := false, brkStep := false, faultCode := 0, faultAddr := 0, failModule := 0, job := 0,
    blocked := none, runAhead := none, writeFailed := none, lastMiss := [], stopPower := false, past := false }

/-- How far an engine command has come: waiting in its queue, started (R31), or its work done with a status and a
RESULT still to be written to its slot (R79). -/
inductive Phase where
  | queued
  | started
  | done (status : Byte) (result : BitVec 32)
deriving DecidableEq, Repr

/-- What the fabric pool answered an engine command: the bytes read from a pool address on, whether they came with POISON, or the
code that failed the request (R322, R323). -/
structure PoolPart where
  pa : Nat
  n : Nat
  bytes : List Byte
  poison : Bool
  code : Byte
deriving DecidableEq, Repr

/-- An accepted engine command (R69, R76): its queue, the issuing core, that core's job and group, the 64 bytes, how far
it has come, when it was accepted and started, the descriptors it read at its start (address, 32 bytes; R107), whether a hub engine's scheduler has chosen it (R336), and whether it waits only for fabric-pool
responses while its job is pre-empted (R348); for a kernel command of a re-rank session (R180) the session's command
plus 1, and, in a speculative batch, the slot it may write (R183); what the fabric pool has answered it so far (R247, R320). -/
structure Cmd where
  id : Nat
  cls : Nat
  inst : Nat
  core : CoreId
  job : BitVec 16
  group : Nat
  word : List Byte
  phase : Phase
  since : Word
  started : Word
  descs : List (Nat × List Byte)
  granted : Bool
  suspended : Bool
  session : Nat
  mayWrite : Option (Nat × Nat)
  pool : List PoolPart
deriving DecidableEq, Repr

/-! ### Peony cores (05) -/

/-- A stationary set (R116): its format, rows, K extent, tensor scale and elements, row-major, each with the scale byte
of its block (127 where unscaled). -/
structure StatSet where
  valid : Bool
  fmt : Nat
  rows : Nat
  kext : Nat
  scale : BitVec 32
  elems : List (BitVec 16 × Byte)
deriving DecidableEq, Repr

/-- The state of a logical Peony core: the accumulator memory of 512 by 512 32-bit words (R104) by row * 512 + column,
two stationary sets, and the halves of gated cell-cycles below one unit of PNY_GATED (R112). -/
structure PeonyCore where
  acc : SMap (BitVec 32)
  set0 : StatSet
  set1 : StatSet
  gatedRest : Nat
deriving DecidableEq, Repr

/-- An empty stationary set. -/
def StatSet.none : StatSet := { valid := false, fmt := 0, rows := 0, kext := 0, scale := 0, elems := [] }

/-- A Peony core at reset: accumulators 0 (log entry 5), no set valid. -/
def PeonyCore.reset : PeonyCore := { acc := [], set0 := StatSet.none, set1 := StatSet.none, gatedRest := 0 }

/-! ### Clematis walks and merges (06) -/

/-- An entry a walk keeps: passage ID, score, leaf, SEQ (0 for a tree entry) (R141). -/
structure WalkEntry where
  id : Nat
  score : BitVec 32
  leaf : Nat
  seq : Nat
deriving DecidableEq, Repr

/-- One query's walk in progress (R141, R144): its scaled query, the leaves to scan in score order, how many are scanned,
the entries kept, the provisional lists written, its flags, whether it read poisoned data. -/
structure Walk where
  query : List (BitVec 32)
  leaves : List Nat
  next : Nat
  best : List WalkEntry
  updates : Nat
  qbad : Bool
  nan : Bool
  corrupt : Bool
  bad : Bool
  flags : BitVec 8
deriving DecidableEq, Repr

/-- A merge that has made its last swap (R153): the walks it waits for, the side entries to release, the mark, its status
and RESULT. -/
structure Merge where
  waits : List Nat
  free : Nat
  mark : Nat
  status : Byte
  result : BitVec 32
deriving DecidableEq, Repr

/-! ### Aster and Bouquet (07) -/

/-- A candidate with speculative or validated state (R182, Table 7.6): its passage ID, the row versions its gather
accepted, whether it read poisoned data, its score. -/
structure Cand where
  id : Nat
  versions : List (BitVec 32)
  bad : Bool
  score : BitVec 32
deriving DecidableEq, Repr

/-- A dispatched batch (R180): its slot, its candidates, whether it is speculative, its kernel commands with the code
each completed with, whether one of them was stopped before a write outside the slot (R183). -/
structure Batch where
  slot : Nat
  cands : List Cand
  spec : Bool
  cmds : List (Nat × Option Byte)
  stopped : Bool
deriving DecidableEq, Repr

/-- A batch whose rows are being gathered (R180): its slot, whether it is speculative, its candidates' passage IDs. -/
structure Gather where
  slot : Nat
  spec : Bool
  ids : List Nat
deriving DecidableEq, Repr

/-- A re-rank session (R178–R186), by its command: candidates not started, scored speculatively (the shadow score buffer), batches in
flight, the next slot, the batch being gathered, candidates of stopped batches (R183), the notices whose list is still to be read, the
batches to be settled against the final list (Table 7.6), the status of the walk's notify word once taken, the final list once read, validated scores by list index, candidates kept from run-ahead. -/
structure Session where
  waiting : List Nat
  shadow : List Cand
  batches : List Batch
  nextSlot : Nat
  gather : Option Gather
  squashed : List Nat
  noticed : Nat
  settling : List (List Cand)
  ended : Option Byte
  final : Option (List Byte)
  scores : SMap (Option (BitVec 32))
  kept : Nat
deriving DecidableEq, Repr

/-- A session just opened. -/
def Session.opened : Session :=
  { waiting := [], shadow := [], batches := [], nextSlot := 0, gather := none, squashed := [], noticed := 0, settling := [], ended := none, final := none,
    scores := [], kept := 0 }

/-- What is next to do on a table row (R170, R171): to read its control word, its slot, its control word again; to set BUSY, to await
the answer of the home, the row then being locked; to write the control word, to await that answer. w is the control word found, v the
one to be written. -/
inductive RowStep where
  | first
  | slot (w : Nat) (bad : Bool)
  | second (w : Nat) (data : List Byte) (bad : Bool)
  | lock
  | asked (w : Nat)
  | held (w : Nat)
  | finish (w v : Nat)
  | released
deriving DecidableEq, Repr

/-- Row reads of an AST_GATHER or of a session's batch (R170): the rows still to read (table header, row), the rows read (accepted
VERSION, slot, poisoned), how far the first has come, its retries, since when it waits for BUSY; of the indices, whether they were
poisoned, whether one lay beyond the table. -/
structure RowRead where
  todo : List (Nat × Nat)
  got : List (BitVec 32 × List Byte × Bool)
  step : RowStep
  tries : Nat
  since : Word
  bad : Bool
  edge : Bool
deriving DecidableEq, Repr

/-- Row writes of an AST_UPDATE or AST_ROW_REPLACE (R171, R175): the gradients of later passes, the rows of this pass still to write
(row number; gradient or slot image), whether it is an update, which holds the merge buffer, how far the first has come, since when it waits for BUSY, rows dropped, rows skipped, flags,
whether poisoned data was read. -/
structure RowWork where
  later : List (Nat × List (BitVec 32))
  todo : List (Nat × List Byte)
  update : Bool
  step : RowStep
  since : Word
  dropped : Bool
  skipped : Nat
  flags : BitVec 8
  bad : Bool
deriving DecidableEq, Repr

/-- A passage in a group's shadow passage buffer (R188): its fetch set, passage ID, the flash-window offset of its text, the
flash-map entries current when it was fetched, its bytes, whether an error was met (R42). -/
structure Passage where
  group : Nat
  job : BitVec 16
  fset : Nat
  id : Nat
  off : Nat
  entries : List (BitVec 40)
  bytes : List Byte
  bad : Bool
deriving DecidableEq, Repr

/-! ### Zinnia (08) -/

/-- The state of a vocabulary or grammar slot (R199). -/
inductive SlotState where
  | empty
  | loading
  | ready
deriving DecidableEq, Repr

/-- A token of a loaded vocabulary (Table 8.2): its string, flags and score. -/
structure VTok where
  str : List Byte
  control : Bool
  unused : Bool
  score : BitVec 32
deriving DecidableEq, Repr

/-- A vocabulary slot (R199, R200): its state, owner, the job that loaded it and whether that job has ended, its load ID,
what the load took from the image, the work area's physical pieces and the number of the free values it was filled
with. -/
structure VocabSlot where
  state : SlotState
  shared : Bool
  owner : Nat
  job : BitVec 16
  ended : Bool
  loadId : BitVec 32
  unigram : Bool
  byteBase : Nat
  fallback : BitVec 32
  tag : BitVec 64
  toks : List VTok
  merges : List (Nat × Nat × Nat)
  classes : List Byte
  work : List (Nat × Nat)
  seed : Nat
deriving DecidableEq, Repr

/-- An EMPTY vocabulary slot. -/
def VocabSlot.empty : VocabSlot :=
  { state := .empty, shared := false, owner := 0, job := 0, ended := false, loadId := 0, unigram := false, byteBase := 0,
    fallback := 0, tag := 0, toks := [], merges := [], classes := [], work := [], seed := 0 }

/-- A grammar slot (R199, R205): as a vocabulary slot; the image's header (64 bytes) stays bound, whether it was verified. -/
structure GrammarSlot where
  state : SlotState
  shared : Bool
  owner : Nat
  job : BitVec 16
  ended : Bool
  loadId : BitVec 32
  verified : Bool
  header : List Byte
deriving DecidableEq, Repr

/-- An EMPTY grammar slot. -/
def GrammarSlot.empty : GrammarSlot :=
  { state := .empty, shared := false, owner := 0, job := 0, ended := false, loadId := 0, verified := false, header := [] }

/-! ### Stem queues, Foxglove, translation (10) -/

/-- A stem-queue word: 32 bytes and the end mark (R260), and which cadence channel put it as a tick (channel + 1; 0 none),
so that its taking is seen (R238); the core whose command or put made it (core + 1; 0 none), so that FENCE.S waits for its record (R28). -/
structure QWord where
  data : BitVec 256
  last : Bool
  tick : Nat
  origin : Nat := 0
deriving DecidableEq, Repr

/-- Who waits to put a word: a control core's blocked QPUT (with whether it still waits for its release, R35), or an
engine, ring or unit of the module, which never drops a word (R263). -/
inductive Putter where
  | core (c : CoreId)
  | unit
deriving DecidableEq, Repr

/-- A put that waits in a queue's line. -/
structure PutWait where
  who : Putter
  word : QWord
deriving DecidableEq, Repr

/-- A kind-4 queue's head word on its ports (R327): sent at least once, answered ACCEPTED, failed, the time of the first
attempt on each port (by port), and the last attempt. -/
structure HeadSend where
  accepted : BitVec 8
  failed : BitVec 8
  awaiting : BitVec 8
  first : SMap Nat
  last : SMap Nat
deriving DecidableEq, Repr

/-- One stem queue (R260–R263): the words it holds, the position after the last word in its last cell (1–8), the puts
waiting in arrival order, the cores waiting for a word in arrival order, the head word's sending, the count of
multicast words since binding (R328), whether a re-rank session has named it, so that Aster consumes it (R179). -/
structure StemQ where
  words : List QWord
  pos : Nat
  waiting : List PutWait
  getters : List CoreId
  head : Option HeadSend
  wordNo : Word
  aster : Bool := false
deriving DecidableEq, Repr

/-- An empty queue. -/
def StemQ.empty : StemQ := { words := [], pos := 0, waiting := [], getters := [], head := none, wordNo := 0 }

/-- A Foxglove entry (R254–R258): where it lies, who holds it, its pin, the core that
issued its move and the physical address of its record. arena d < 4 is die d's arena, 4 + p is partition
p's HBM arena. -/
structure FxgEntry where
  gen : BitVec 32
  arena : Nat
  offset : Nat
  granules : Nat
  group : Nat
  partition : Nat
  job : BitVec 16
  pinned : Bool
  unpinTime : Word
  core : CoreId
  record : Nat
deriving DecidableEq, Repr

/-- An invalidation in progress: what HUB_MMU_INVAL or FJL_SEG_INVAL named (R249, R319). -/
structure MmuInval where
  job : BitVec 16
  page : BitVec 36
  size : BitVec 2
deriving DecidableEq, Repr

/-! ### Cadence channels (09) -/

/-- A cadence channel (R238): T_A, n_A, the next tick's number, when the last tick was taken, whether one waits. -/
structure Cadence where
  ta : Word
  na : Word
  next : Word
  taken : Word
  waiting : Bool
deriving DecidableEq, Repr

/-- A channel never enabled. -/
def Cadence.off : Cadence := { ta := 0, na := 0, next := 0, taken := 0, waiting := false }

/-! ### Flash (11) -/

/-- A logical block (R268, R269): its 40-bit map entry, its 4,096 bytes (none listed: zeros), and whether LDPC and the
parity rebuild both failed on it (R277). -/
structure FlashBlock where
  entry : BitVec 40
  data : List Byte
  bad : Bool
deriving DecidableEq, Repr

/-- An unmapped block. -/
def FlashBlock.unmapped : FlashBlock := { entry := 0, data := [], bad := false }

/-- An erase block (R276, R277). -/
structure EraseBlock where
  reads : BitVec 32
  erases : Nat
  retired : Bool
  refresh : Bool
  hard : Bool
deriving DecidableEq, Repr

/-- An erase block never read, never erased. -/
def EraseBlock.fresh : EraseBlock := { reads := 0, erases := 0, retired := false, refresh := false, hard := false }

/-- How far a fetched PF1 command has come: fetched, started (R286), or done with a status (SCT, SC) and result word. -/
inductive NvmePhase where
  | fetched
  | started
  | done (sct sc : Nat) (dw0 : BitVec 32)
deriving DecidableEq, Repr

/-- A fetched PF1 command (R281–R283): its place in fetch order, its queue, its 64 bytes, the LBA ranges it locks, whether it
only reads, the ranges a Dataset Management brought, how far it has come, whether it ends without a log entry or freeze (R286,
R288), whether its turn at the flash has come (R275) and whether it has started (R286). -/
structure NvmeCmd where
  fid : Nat
  sq : Nat
  word : List Byte
  ranges : List (Nat × Nat)
  reads : Bool
  phase : NvmePhase
  silent : Bool
  granted : Bool := false
  begun : Bool := false
deriving DecidableEq, Repr

/-- A PF1 submission queue (0 admin): its base, entries, completion queue, head, tail, frozen (R286) and whether the error log
was read since (R287). -/
structure NvmeSq where
  base : Nat
  size : Nat
  cq : Nat
  head : Nat
  tail : Nat
  frozen : Bool
  logRead : Bool
deriving DecidableEq, Repr

/-- A PF1 completion queue: its base, entries, tail, the host's head, the phase tag. -/
structure NvmeCq where
  base : Nat
  size : Nat
  head : Nat
  tail : Nat
  phase : Bool
deriving DecidableEq, Repr

/-- The storage function PF1 (R280–R288): CC, the admin queues' registers, CSTS.SHST, queues, fetched commands, the next fetch
number, the queue fetched from last, the Error Information log (newest first, each 64 bytes) and its count, SMART critical
warnings, the power state and the entry in progress with its command, features set, no more fetch (R288), and how often the
flash key was made anew. -/
structure Pf1 where
  cc : BitVec 32
  aqa : BitVec 32
  asq : Word
  acq : Word
  shst : Nat
  sqs : SMap NvmeSq
  cqs : SMap NvmeCq
  cmds : List NvmeCmd
  nextFid : Nat
  last : Nat
  errors : List (List Byte)
  errCount : Nat
  warning : Byte
  ps : Nat
  entering : Option (Nat × Nat)
  features : SMap (BitVec 32)
  closing : Bool
  keyGen : Nat
  wear80 : Bool
deriving DecidableEq, Repr

/-- PF1 at reset. -/
def Pf1.reset : Pf1 :=
  { cc := 0, aqa := 0, asq := 0, acq := 0, shst := 0, sqs := [], cqs := [], cmds := [], nextFid := 0, last := 0, errors := [],
    errCount := 0, warning := 0, ps := 0, entering := none, features := [], closing := false, keyGen := 0, wear80 := false }

/-! ### Rings (12) -/

/-- A ring context (R301–R306), by 64 * function + k: active; stopped by an error with its code; the module's index and its wraps;
the last doorbell accepted; the descriptors fetched so far. -/
structure Ring where
  active : Bool
  err : Bool
  code : Byte
  index : Nat
  passes : BitVec 32
  host : Nat
  fetched : BitVec 32
deriving DecidableEq, Repr

/-- A ring never enabled. -/
def Ring.reset : Ring :=
  { active := false, err := false, code := 0, index := 0, passes := 0, host := 0, fetched := 0 }

/-! ### Fabric (13) -/

/-- A fabric message (R315, Table 13.3). -/
structure Msg where
  dst : BitVec 16
  src : BitVec 16
  typ : Byte
  cls : BitVec 3
  vc : Bool
  ttl : Byte
  poison : Bool
  tag : BitVec 16
  payload : List Byte
  /-- the DCHECK it arrived with, which a hop passes on; none in a message that this module makes, whose check it computes (R315) -/
  check : Option (BitVec 32) := none
deriving DecidableEq, Repr

/-- A message waiting at a port's egress, with the device time it arrived (R331). -/
structure Waiting where
  msg : Msg
  since : Word
deriving DecidableEq, Repr

/-- STATE of FJL_PORT_STATUS. -/
inductive PortState where
  | disabled
  | training
  | hello
  | up
  | versionFail
  | peerMismatch
  | failed
deriving DecidableEq, Repr

/-- A Fjorin port (R310–R314): its state, lane count code, half rate, version, peer; sequence numbers and their wrap
counts; the flits sent and not acknowledged (by the SEQ they carry, oldest first); how often the oldest was resent and
when ACK last made progress; the nonces; bytes of the message stream not yet sent or not yet a whole message, messages arrived and not yet handled; the
egress queues by class; credits by 2 * class + virtual channel; flit lock; the peer's last HELLO, when the last was sent; the hops its
peer advertised since it last came up (R332). -/
structure Port where
  state : PortState
  lanes : BitVec 2
  half : Bool
  version : BitVec 2
  peer : BitVec 16
  peerPort : BitVec 3
  txSeq : BitVec 32
  txWraps : BitVec 32
  rxSeq : BitVec 32
  rxWraps : BitVec 32
  replay : List (BitVec 32 × List Byte)
  resends : Nat
  progress : Word
  nonce : BitVec 64
  peerNonce : BitVec 64
  helloHeard : Bool
  helloSent : Bool
  rxStream : List Byte
  arrived : List Msg
  txStream : List Byte
  egress : SMap (List Waiting)
  credits : SMap Nat
  lock : Bool
  lockLostAt : Word
  retrain : Bool
  trainStart : Word
  retryAt : Option Word
  helloAt : Word
  hops : Option Nat
  heard : Option Hello
  syncT1 : Option Int
  syncAt : Word
  lostReported : Bool
  sampledAt : Word
deriving DecidableEq, Repr

/-- A port at reset: disabled, down. -/
def Port.reset : Port :=
  { state := .disabled, lanes := 0, half := false, version := 0, peer := 0, peerPort := 0, txSeq := 0, txWraps := 0,
    rxSeq := 0, rxWraps := 0, replay := [], resends := 0, progress := 0, nonce := 0, peerNonce := 0,
    helloHeard := false, helloSent := false, rxStream := [], arrived := [], txStream := [], egress := [], credits := [], lock := false, lockLostAt := 0,
    retrain := false, trainStart := 0, retryAt := none, helloAt := 0, hops := none, heard := none, syncT1 := none, syncAt := 0,
    lostReported := false, sampledAt := 0 }

/-- What a pool request of this module asked (R322): a core's load or AMO, a core's or an engine's write, an engine's read or AMO, a
fill of a cached line ahead of its use (R40, R251). -/
inductive ReqKind where
  | load
  | amo
  | write
  | read
  | rowAmo
  | fill
  /-- a host's write, a host's read through BAR4 (R294); the module's write of a job's status record (R338) -/
  | host
  | hostRead
  | record
deriving DecidableEq, Repr

/-- A 256-byte line that a cache in die-shared SRAM holds or is filled with (R146, R250, R251): its line address / 256, the group and
die it is tagged with, whether it is the node cache's, whether it has been used (validated), whether its fill met an uncorrectable
error (R42), whether it stays after its use (of a node level that is not kept in the cache, it does not), and its bytes where another
module holds the memory (its line address is then its home's, above 2^48). The list's order is that of last use. -/
structure AheadLine where
  line : Nat
  group : Nat
  die : Nat
  node : Bool
  used : Bool
  bad : Bool
  stays : Bool := true
  data : List Byte := []
deriving DecidableEq, Repr

/-- An outstanding pool request (R324): who waits (a core; an engine command, by its identity plus 1), which target, through which
segment, when it was sent, the page's virtual address, the pool address and length, the address at its home, the line its answer
fills, and whether the invalidation in progress of translations (R249), of segments (R319), waits for it. -/
structure Req where
  kind : ReqKind
  core : CoreId
  job : BitVec 16
  cmd : Nat
  target : BitVec 16
  seg : Nat
  sent : Word
  va : Nat
  pa : Nat
  n : Nat
  home : Nat
  line : Option AheadLine
  inval : Bool := false
  segInval : Bool := false
deriving DecidableEq, Repr

/-- A word that a unit puts as a release (R34, R35, R79): its queue, whose fabric writes it waits for (a core's own, or those of
commands, by identity plus 1), the word. -/
structure HeldPut where
  queue : Nat
  core : CoreId
  job : BitVec 16
  cmd : Nat
  word : QWord
deriving DecidableEq, Repr

/-- What a 32-byte unit held before a command not yet completed wrote it (R32). -/
structure OldUnit where
  cmd : Nat
  unit : Nat
  bytes : List Byte
deriving DecidableEq, Repr

/-- A host's read of the fabric pool through BAR4 (R294): the pieces asked for, by pool address and length, and what has been answered. -/
structure HostPoolRead where
  pieces : List (Nat × Nat)
  parts : List PoolPart
deriving DecidableEq, Repr

/-- Device-time alignment (R332): the exchange in progress per port is in `Port`; successive offsets within 2 ns, the
ns still to be lost by slowing. -/
structure TimeAlign where
  good : Nat
  slowNs : Nat
  slowPhase : Nat
deriving DecidableEq, Repr

/-! ### Jobs (14) -/

/-- STATE of a job status record (Table 14.2). -/
inductive JobState where
  | queued
  | running
  | saving
  | preempted
  | restoring
  | ended
deriving DecidableEq, Repr

/-- What a pre-empted job's save areas hold (R345–R347): its cores, its Peony cores' accumulators and stationary sets,
its LIVE regions (bytes, the core-local units it owns, poisoned units), its unstarted and suspended commands in queue order. -/
structure Saved where
  cores : SMap Core
  peony : SMap PeonyCore
  live : List Host.Cell
  owned : SMap (BitVec 16)
  bad : SMap Bool
  cmds : List Cmd
deriving DecidableEq, Repr

/-- A job: its descriptor (Table 14.1), the PF0 port that submitted it, its status record's fields (Table 14.2), where
it is placed, its place in the order of submission and what its save areas hold. -/
structure Job where
  id : BitVec 16
  group : Nat
  prio : Nat
  imemSave : Bool
  nPeony : Nat
  nLupin : Nat
  faultQ : BitVec 12
  faultEn : Bool
  imageAddr : BitVec 64
  imageBytes : Nat
  image : List Byte
  entry : BitVec 18
  root : Nat
  statusAddr : BitVec 64
  live : List (Nat × Nat)
  port : Nat
  state : JobState
  endCode : Byte
  killed : Bool
  preempts : BitVec 16
  tSubmit : Word
  tStart : Option Word
  tEnd : Word
  waitNs : Word
  waitSince : Option Word
  lastSave : BitVec 32
  lastRestore : BitVec 32
  landed : BitVec 16
  restarts : BitVec 16
  placed : List CoreId
  order : Nat
  phaseSince : Word
  saved : Option Saved
  restartTimes : List Word
deriving DecidableEq, Repr

/-- A response that landed for a pre-empted job (R348). -/
structure Landed where
  partition : Nat
  tag : BitVec 16
  req : Req
  code : Byte
  poison : Bool
  data : List Byte
deriving DecidableEq, Repr

/-- A scheduler flow (R329, R330): its start tag, the device time its shaper was last refilled at and its tokens. -/
structure Flow where
  start : BitVec 48
  tokens : Int
  refilled : Word
deriving DecidableEq, Repr

/-! ### Reliability (15) -/

/-- A fault-log entry (Table 15.7); SEQ2 equals SEQ in every entry, which is written whole. -/
structure LogEntry where
  time : Word
  seq : BitVec 32
  code : Byte
  sev : Byte
  unit : BitVec 16
  job : BitVec 16
  arg : Word
deriving DecidableEq, Repr

/-- A position of the log that nothing has written. -/
def LogEntry.blank : LogEntry := { time := 0, seq := 0, code := 0, sev := 0, unit := 0, job := 0, arg := 0 }

/-- A recovery in progress on a group (R360): the fault code and the failed unit's ID. -/
structure Recovery where
  code : Byte
  unit : BitVec 16
deriving DecidableEq, Repr

/-- A memory row's health (R355): errors corrected in this scrub pass, whether a repair awaits, whether it was repaired softly. -/
structure RowHealth where
  errors : Nat
  awaiting : Bool
  soft : Bool
deriving DecidableEq, Repr

/-- A row without errors. -/
def RowHealth.good : RowHealth := { errors := 0, awaiting := false, soft := false }

/-- A host write held while the module is stopped (R368): a register write, a doorbell of a function or of PF1, a BAR4 write. -/
inductive HeldWrite where
  | reg (w : RegPort) (off : Nat) (data : List Byte)
  | doorbell (fn off : Nat) (data : List Byte)
  | pf1Sq (q : BitVec 16) (tail : BitVec 32)
  | pf1Cq (q : BitVec 16) (head : BitVec 32)
  | bar4 (fn off : Nat) (data : List Byte)
deriving DecidableEq, Repr

/-- The global stop (R365–R371): stops so far, when the cut began and was done, the bytes written, the held PCIe writes, a RESUME
recorded during a trip. -/
structure Stop where
  count : Nat
  began : Word
  done : Word
  held : List HeldWrite
  resume : Bool
deriving DecidableEq, Repr

/-- A pressing in progress (R424): its cause, its group (16: every unit), its job, when it began, the hung unit, what follows it
(R423: 1 the kill of the job, 2 a global stop). -/
structure Pressing where
  cause : Nat
  group : Nat
  job : BitVec 16
  began : Word
  hung : BitVec 16
  follow : Nat
deriving DecidableEq, Repr
/-! ### Start and power (16) -/

/-- A PCIe port: PERST# asserted; its link up, in FLIT mode, its speed and width as PCI_LINK_STATUS codes them (R291, R434). -/
structure PciePort where
  perst : Bool
  up : Bool
  flit : Bool
  speed : BitVec 3
  width : BitVec 3
deriving DecidableEq, Repr

/-- A port before its PERST# is released (R434). -/
def PciePort.reset : PciePort := { perst := true, up := false, flit := false, speed := 0, width := 0 }

/-- The start (R378–R388): the stage reached, warm or cold, when it began, when Fjorin ports were released, the HBM stacks in a
valid warm record, the clean-shutdown marker (R271), the orderly shutdown before a warm start in progress, a cold start stopped by a
rejected signature (R383), the power-loss sequence in progress and power off (R395), the straps (R431), the PCIe ports. -/
structure Start where
  stage : Nat
  warm : Bool
  began : Word
  released : Option Word
  record : Option (BitVec 8)
  marker : Bool
  closing : Bool
  blocked : Bool
  losing : Bool
  off : Bool
  bifurc : Bool
  addrSel : BitVec 3
  pcie : SMap PciePort
deriving DecidableEq, Repr

/-- The start that follows input power becoming good: the marker present (log entry 7), the straps open and 0 (log entry 4). -/
def Start.reset : Start :=
  { stage := 0, warm := false, began := 0, released := none, record := none, marker := true, closing := false, blocked := false,
    losing := false, off := false, bifurc := false, addrSel := 0, pcie := [] }

/-- Power and cooling (R389–R394): the thermal offset in mV and the time since which the junction is at 110 °C or above, by die (4: the
hub); the direction a flow change goes and since when; FLOW_LOW and SENSOR_FAIL; the valve schedule T_A, n_A, the next iteration
and the end of the last; the last power sample; energy counted below 1 mJ, in nJ; the last holdup measurement of this start;
the hub supply target in mV (R389; 0 until the loop sets it); the control core whose turn to stop is next. -/
structure Power where
  offsets : SMap Nat
  hot : SMap Word
  flowTurn : Option (Bool × Word)
  flowLow : Bool
  sensorFail : Bool
  valveTa : Word
  valveNa : Nat
  valveNext : Nat
  valveEnd : Option Word
  sampled : Word
  nanojoules : Nat
  holdupAt : Option Word
  hub : Nat
  turn : Nat
deriving DecidableEq, Repr

/-- Power and cooling at a start. -/
def Power.reset : Power :=
  { offsets := [], hot := [], flowTurn := none, flowLow := false, sensorFail := false, valveTa := 0, valveNa := 0, valveNext := 0,
    valveEnd := none, sampled := 0, nanojoules := 0, holdupAt := none, hub := 0, turn := 0 }

/-- The coolant guard (R396, R398): the agreed state (SAFE at a start, log entry 8), the run of disagreeing samples, the run of SAFE
samples up to 1,000, the last sample's time. -/
structure Interlock where
  safe : Bool
  run : Nat
  safeRun : Nat
  sampled : Option Word
deriving DecidableEq, Repr

/-- The guard at a start. -/
def Interlock.reset : Interlock := { safe := true, run := 0, safeRun := 0, sampled := none }

/-! ### Security and Heather (17) -/

/-- What a bank of a signed component holds (R403): the image the module was made with, of which the spec gives only that it
runs (its SVN here), or the bytes an update wrote, the signature block among them. -/
inductive Bank where
  | factory (svn : Byte)
  | written (bytes : List Byte)
deriving DecidableEq, Repr

/-- The fuses, the firmware banks (key 2 * c + b for component c + 1, bank b), which bank runs and which runs from the next
start, the fabric key in effect and the key words staged (R402–R408). -/
structure Sec where
  vendorHash : SMap (BitVec 384)
  vendorRevoked : BitVec 4
  ownerHash : SMap (BitVec 384)
  ownerFused : BitVec 4
  ownerRevoked : BitVec 4
  minSvn : BitVec 32
  runSvn : BitVec 32
  banks : SMap Bank
  active : BitVec 4
  chosen : BitVec 4
  key : Option (BitVec 256)
  keyWords : SMap (BitVec 32)
deriving DecidableEq, Repr

/-- The security state of a module as made: no owner hash programmed, nothing revoked, bank A of every component (log entry 9). -/
def Sec.reset : Sec :=
  { vendorHash := [], vendorRevoked := 0, ownerHash := [], ownerFused := 0, ownerRevoked := 0, minSvn := 0, runSvn := 0,
    banks := [], active := 0, chosen := 0, key := none, keyWords := [] }

/-- A firmware update in progress (R412): its component (0–3), the bytes received so far, whether they were verified. -/
structure Update where
  component : Nat
  bytes : List Byte
  verified : Bool
deriving DecidableEq, Repr

/-- Heather as an MCTP endpoint (R409–R412): requests accepted and not answered, in arrival order over the transports, the SPDM
version negotiated and how far the negotiation has come, the update in progress. -/
structure Heather where
  waiting : List (Transport × MctpMsg)
  spdm : Nat
  spdmVersion : Byte
  update : Option Update
deriving DecidableEq, Repr

/-- Heather before anyone has spoken to it. -/
def Heather.reset : Heather := { waiting := [], spdm := 0, spdmVersion := 0, update := none }


/-- A reply of Heather: its content by kind, its error with the standard's code and the Walnex status (R386, R409–R411). -/
inductive MctpReply where
  /-- a control message's completion code and data -/
  | control (code completion : Byte) (data : List Byte)
  /-- ERROR_NOT_READY with Walnex status 0x01 (R386) -/
  | notReady
  | versions (vs : List Byte)
  | capabilities (version : Byte)
  | algorithms
  | digests (slot0 : BitVec 384)
  | certificate (part : List Byte) (left : Nat)
  | challengeAuth (chainHash : BitVec 384) (signature : List Byte)
  | measurements (number : Nat) (blocks : List (Nat × List Byte)) (signature : List Byte)
  /-- an SPDM ERROR: 0x01 InvalidRequest, 0x04 UnexpectedRequest, 0x07 UnsupportedRequest, 0x42 ResponseNotReady -/
  | spdmError (code : Byte)
  | reading (value : Nat)
  /-- a PLDM success -/
  | done
  /-- a PLDM failure with its Walnex status (R411) -/
  | failed (status : Byte)
  /-- a PLDM request Heather does not support: ERROR_UNSUPPORTED_PLDM_CMD, a status the spec does not give -/
  | unsupported (status : Byte)
deriving DecidableEq, Repr

/-! ### Traces (18) -/

/-- A trace record on its way to its buffer (R419, R420): an address record, or a tagged record with whether buffer 1 takes
it under the masks in effect when it arose (R418). -/
inductive TraceRec where
  | addr (kind : BitVec 2) (pc : BitVec 18) (core : CoreId) (time : Word)
  | tagged (wanted : Bool) (time : Word) (unit : BitVec 16) (event status : Byte) (job tag : BitVec 16) (arg0 arg1 : Word)
deriving DecidableEq, Repr

/-! ### What the module sends out -/

/-- What leaves the module. -/
inductive Out where
  /-- a PCIe memory write to the host (R37): port, address, bytes, Relaxed Ordering -/
  | hostWrite (port : Nat) (addr : Nat) (data : List Byte) (relaxed : Bool)
  /-- the data a PCIe read of the module completes with, and its Poisoned bit (R354) -/
  | readData (data : List Byte) (poisoned : Bool)
  /-- a flit on a Fjorin port; a HELLO flit (R312, R314) -/
  | flit (port : Nat) (bytes : List Byte)
  | hello (port : Nat) (h : Hello)
  /-- a completion with Unsupported Request (R294, R296) -/
  | unsupportedRequest
  /-- an AER report of an Unsupported Request write (R296) -/
  | aerUnsupported
  /-- a configuration request's completion: data, or Configuration Request Retry Status (R384) -/
  | configData (data : BitVec 32)
  | configRetry
  /-- an MCTP reply of Heather (R410) -/
  | mctp (t : Transport) (r : MctpReply)
deriving DecidableEq, Repr

/-! ### The module -/

/-- The module WX-JW96-M. -/
structure State where
  /-- the model's queue of waiting commands, first in, first out -/
  pending : List Instr
  /-- what the module has sent out, oldest first -/
  out : List Out
  /-- the model's count of free values drawn -/
  free : Nat
  /-- the model's next command identity -/
  nextCmd : Nat
  /-- device time in ns (R16) -/
  now : Word
  /-- SRAM and HBM (R241) -/
  mem : List Host.Cell
  /-- the job that owns each 64-byte unit of core-local SRAM (R406) -/
  owner : SMap (BitVec 16)
  /-- the poisoned 64-byte units (R353) -/
  poison : SMap Bool
  /-- the registers' effective values, where they differ from reset (R6, R7) -/
  eff : SMap Word
  /-- the staged values of registers with RWS fields, where they differ from the effective ones (R7) -/
  stg : SMap Word
  /-- GO writes not yet in effect, oldest first: the APPLY register's address and the staged values it took (R299) -/
  applies : List (Nat × SMap Word)
  cores : SMap Core
  peony : SMap PeonyCore
  /-- the parents of the last verified draft tree, by sequence (job * 2^48 + record address) (R130) -/
  trees : SMap (List Nat)
  /-- walks in progress by 256 * command + query, merges by command (R144, R153) -/
  walks : SMap Walk
  merges : SMap Merge
  /-- open re-rank sessions, row writes and row reads in progress by command, the shadow passage buffers (R178, R170, R171, R188) -/
  sessions : SMap Session
  rowWork : SMap RowWork
  rowReads : SMap RowRead
  passages : List Passage
  /-- Zinnia's slots, the next load ID, the bytes encoded since the last whole KiB (R199, R200, R215) -/
  vocab : SMap VocabSlot
  grammar : SMap GrammarSlot
  loadNext : BitVec 32
  encRest : Nat
  cmds : List Cmd
  stem : SMap StemQ
  cadence : SMap Cadence
  fxg : SMap FxgEntry
  fxgGen : BitVec 32
  mmuInval : Option MmuInval
  jobs : List Job
  nextOrder : Nat
  landing : List Landed
  flows : SMap Flow
  vtime : SMap (BitVec 48)
  flash : SMap FlashBlock
  erase : SMap EraseBlock
  pf1 : Pf1
  ports : SMap Port
  reqs : SMap Req
  nextTag : BitVec 16
  /-- the code a command's failed writes give it, by identity (R247, R323); units' releases that wait for acknowledgements (R35); what
  uncompleted commands overwrote (R32); a host's reads of the pool in progress (R294) -/
  writeFail : SMap Byte
  held : List HeldPut
  old : List OldUnit
  hostReads : SMap HostPoolRead
  /-- a segment-table invalidation in progress: its FJL_SEG_INVAL value (R319); time alignment (R332) -/
  segInval : Option (BitVec 32)
  align : TimeAlign
  start : Start
  power : Power
  guard : Interlock
  /-- partitions whose HBM range is offline, dies out of service (Table 15.3) -/
  hbmOff : BitVec 16
  dieOff : BitVec 4
  /-- a guard trip is in progress (R397), the module is stopped for a cut (R366), a module-fatal fault (R364) -/
  tripped : Bool
  stopped : Bool
  fatal : Bool
  /-- the primary and secondary fault logs by position (R372), the last log time of corrected errors by unit -/
  logPrimary : SMap LogEntry
  logSecondary : SMap LogEntry
  logSecondaryWr : BitVec 32
  ceLogged : SMap Word
  /-- recoveries in progress, by group (R360) -/
  recoveries : SMap Recovery
  /-- lines filled ahead (R146, R251) -/
  ahead : List AheadLine
  /-- units whose transfer was resent (R352), units declared failed and not yet out of service, hub-engine units lost by
  instance (Table 15.8: class * 256 + unit),
  the health of memory rows by 2^32 * stack + row (8: SRAM) and when the scrub passes over SRAM and HBM began (R355–R357) -/
  retried : List (BitVec 16)
  failing : List (BitVec 16)
  unitsLost : SMap Nat
  rows : SMap RowHealth
  passSram : Word
  passHbm : Word
  /-- the global stop; HBM is in self-refresh (R397); a pressing in progress; the log copy a fatal fault left (R364) -/
  stop : Stop
  selfRefresh : Bool
  press : Option Pressing
  savedLog : Option (SMap LogEntry × Word)
  /-- fuses, banks and keys; Heather as an endpoint (R402–R412) -/
  sec : Sec
  heather : Heather
  /-- the rings by 64 * function + context (R301); the configuration registers written, by 1024 * function (PF1: 258) + doubleword (R291) -/
  rings : SMap Ring
  config : SMap (BitVec 32)
  /-- the counters' values as a hold found them: the effective registers then (R416) -/
  hold : Option (SMap Word)
  /-- the ns each group's watchdog has run since its last kick (R423) -/
  wdog : SMap Nat
  /-- trace records not yet in their buffers, oldest first; the device time of buffer 0's last TIME record; the records buffer 1
  still takes after the trigger fired (R418–R422) -/
  trace : List TraceRec
  traceTime : Option Word
  tracePost : Option Nat
deriving DecidableEq, Repr

/-- The module right after input power became good (R378): every register at its Reset column. -/
def State.reset : State :=
  { pending := [], out := [], free := 0, nextCmd := 0, now := 0, mem := [], owner := [], poison := [], eff := [],
    stg := [], applies := [], cores := [], peony := [], trees := [], walks := [], merges := [], sessions := [], rowWork := [], rowReads := [], passages := [],
    vocab := [], grammar := [], loadNext := 1, encRest := 0, cmds := [], stem := [], cadence := [], fxg := [], fxgGen := 0, mmuInval := none,
    jobs := [], nextOrder := 0, landing := [], flows := [], vtime := [], flash := [], erase := [], pf1 := Pf1.reset, ports := [], reqs := [],
    nextTag := 0, writeFail := [], held := [], old := [], hostReads := [], segInval := none, align := { good := 0, slowNs := 0, slowPhase := 0 }, start := Start.reset, power := Power.reset, guard := Interlock.reset, hbmOff := 0, dieOff := 0, tripped := false,
    stopped := false, fatal := false, logPrimary := [], logSecondary := [], logSecondaryWr := 0,
    ceLogged := [], recoveries := [], ahead := [],
    retried := [], failing := [], unitsLost := [], rows := [], passSram := 0, passHbm := 0,
    stop := { count := 0, began := 0, done := 0, held := [], resume := false }, selfRefresh := false, press := none, savedLog := none,
    sec := Sec.reset, heather := Heather.reset, rings := [], config := [], hold := none, wdog := [], trace := [], traceTime := none, tracePost := none }

end Sys2Proof.Machine
end

