-- ==== Sys2Proof/Machine/RegTable.lean ====
section
/-!
DEFINITION. The register tables of spec/ (every "NAME · offset · width" table of the chapters), one row per register
or array of registers: where it stands in the register space (Table 12.3), its width, the bits of each access code of
Table 0.3 and its reset value. Bits no table gives an access code read as the module's state says and ignore writes.
-/

namespace Sys2Proof.Machine

/-- The registers of the HUB_ window. -/
def regsHub : List RegDesc := [
  { base := 0x0, reset := 0x4a960000 },
  { base := 0x8, wide := true },
  { base := 0x10 },
  { base := 0x14 },
  { base := 0x20, wide := true },
  { base := 0x30, n1 := 4, s1 := 4 },
  { base := 0x100, rws := 0x1f },
  { base := 0x104, w1c := 0x1f },
  { base := 0x108, n1 := 5, s1 := 8, wide := true, wrap := some ⟨0x104, 0, 0, 1, 0⟩ },
  { base := 0x140, w1c := 0x1fe },
  { base := 0x148, wide := true, wrap := some ⟨0x140, 0, 8, 0, 0⟩ },
  { base := 0x200, wide := true, wo := 0xfffffffffffffc00 },
  { base := 0x208, rc := [0xffff] },
  { base := 0x220, n1 := 16, s1 := 8, wide := true },
  { base := 0x1000, wide := true, wo := 0xffffffffffffffc0 },
  { base := 0x1008, wo := 0xffff },
  { base := 0x1010, wide := true, rws := 0x7777777777777777 },
  { base := 0x1018, w1c := 0x80000000, rc := [0x7fff800] },
  { base := 0x1020, n1 := 4, s1 := 4, rws := 0xffffffff, reset := 0x10101010 },
  { base := 0x1100, n1 := 16, s1 := 8, wide := true },
  { base := 0x1200, n1 := 16, s1 := 8, wide := true, rws := 0xfffffc0003ff },
  { base := 0x1300, wide := true, wrap := some ⟨0x1318, 0, 0, 0, 0⟩ },
  { base := 0x1308, wide := true, wrap := some ⟨0x1318, 0, 1, 0, 0⟩ },
  { base := 0x1310, wide := true, wrap := some ⟨0x1318, 0, 2, 0, 0⟩ },
  { base := 0x1318, w1c := 0x7 },
  { base := 0x1800, n1 := 16, s1 := 64, n2 := 7, s2 := 8, wide := true, rws := 0xc000ffffff00ffff, reset := 0x4000000000000000 },
  { base := 0x2000, n1 := 256, s1 := 4, rws := 0x8000000f }]

/-- The registers of the PNY_ window. -/
def regsPny : List RegDesc := [
  { base := 0x180000, n1 := 64, s1 := 4096, w1c := 0x20000000 },
  { base := 0x180008, n1 := 64, s1 := 4096, wide := true },
  { base := 0x180010, n1 := 64, s1 := 4096 },
  { base := 0x180018, n1 := 64, s1 := 4096, wide := true },
  { base := 0x100000, n1 := 48, s1 := 4096 },
  { base := 0x100008, n1 := 48, s1 := 4096, wide := true, wrap := some ⟨0x100028, 4096, 0, 0, 0⟩ },
  { base := 0x100010, n1 := 48, s1 := 4096, wide := true, wrap := some ⟨0x100028, 4096, 1, 0, 0⟩ },
  { base := 0x100018, n1 := 48, s1 := 4096, wide := true, wrap := some ⟨0x100028, 4096, 2, 0, 0⟩ },
  { base := 0x100020, n1 := 48, s1 := 4096, wide := true, wrap := some ⟨0x100028, 4096, 3, 0, 0⟩ },
  { base := 0x100028, n1 := 48, s1 := 4096, w1c := 0xf }]

/-- The registers of the LUP_ window. -/
def regsLup : List RegDesc := [
  { base := 0x200000, n1 := 16, s1 := 4096 },
  { base := 0x200008, n1 := 16, s1 := 4096, wide := true, wrap := some ⟨0x200020, 4096, 0, 0, 0⟩ },
  { base := 0x200010, n1 := 16, s1 := 4096, wide := true, wrap := some ⟨0x200020, 4096, 1, 0, 0⟩ },
  { base := 0x200018, n1 := 16, s1 := 4096, wide := true, wrap := some ⟨0x200020, 4096, 2, 0, 0⟩ },
  { base := 0x200020, n1 := 16, s1 := 4096, w1c := 0x7 },
  { base := 0x220000, wide := true, wrap := some ⟨0x220010, 0, 0, 0, 0⟩ },
  { base := 0x220008, wide := true, wrap := some ⟨0x220010, 0, 1, 0, 0⟩ },
  { base := 0x220010, w1c := 0x3 },
  { base := 0x221000, n1 := 256, s1 := 16, wide := true, rws := 0xffff0000000fffff, reset := 0x4000000000000000 },
  { base := 0x221008, n1 := 256, s1 := 16, wide := true, wrap := some ⟨0x222000, 0, 0, 1, 0⟩ },
  { base := 0x222000, n1 := 8, s1 := 4, w1c := 0xffffffff }]

/-- The registers of the CLM_ window. -/
def regsClm : List RegDesc := [
  { base := 0x300000 },
  { base := 0x300004, rws := 0xfff, reset := 0x100 },
  { base := 0x300008, reset := 0x1000000 },
  { base := 0x300010, wide := true, wrap := some ⟨0x300028, 0, 0, 0, 0⟩ },
  { base := 0x300018, wide := true, wrap := some ⟨0x300028, 0, 1, 0, 0⟩ },
  { base := 0x300020, wide := true, wrap := some ⟨0x300028, 0, 2, 0, 0⟩ },
  { base := 0x300028, w1c := 0x7 }]

/-- The registers of the PRM_ window. -/
def regsPrm : List RegDesc := [
  { base := 0x400000 },
  { base := 0x400008, wide := true, wrap := some ⟨0x400018, 0, 0, 0, 0⟩ },
  { base := 0x400010, wide := true, wrap := some ⟨0x400018, 0, 1, 0, 0⟩ },
  { base := 0x400018, w1c := 0x3 }]

/-- The registers of the AST_ window. -/
def regsAst : List RegDesc := [
  { base := 0x500000 },
  { base := 0x500008, wide := true, wrap := some ⟨0x500028, 0, 0, 0, 0⟩ },
  { base := 0x500010, wide := true, wrap := some ⟨0x500028, 0, 1, 0, 0⟩ },
  { base := 0x500018, wide := true, wrap := some ⟨0x500028, 0, 2, 0, 0⟩ },
  { base := 0x500020, wide := true, wrap := some ⟨0x500028, 0, 3, 0, 0⟩ },
  { base := 0x500028, w1c := 0xf }]

/-- The registers of the BQT_ window. -/
def regsBqt : List RegDesc := [
  { base := 0x600000 },
  { base := 0x600008, wide := true, wrap := some ⟨0x600018, 0, 0, 0, 0⟩ },
  { base := 0x600010, wide := true, wrap := some ⟨0x600018, 0, 1, 0, 0⟩ },
  { base := 0x600018, w1c := 0x3 }]

/-- The registers of the ZIN_ window. -/
def regsZin : List RegDesc := [
  { base := 0x700000 },
  { base := 0x700100, n1 := 16, s1 := 8, wide := true },
  { base := 0x700200, n1 := 64, s1 := 8, wide := true },
  { base := 0x700010, wide := true, wrap := some ⟨0x700038, 0, 0, 0, 0⟩ },
  { base := 0x700018, wide := true, wrap := some ⟨0x700038, 0, 1, 0, 0⟩ },
  { base := 0x700020, wide := true, wrap := some ⟨0x700038, 0, 2, 0, 0⟩ },
  { base := 0x700028, wide := true, wrap := some ⟨0x700038, 0, 3, 0, 0⟩ },
  { base := 0x700030, wide := true, wrap := some ⟨0x700038, 0, 4, 0, 0⟩ },
  { base := 0x700038, w1c := 0x1f }]

/-- The registers of the FXG_ window. -/
def regsFxg : List RegDesc := [
  { base := 0x800000, w1c := 0x80000000, reset := 0x200000 },
  { base := 0x800004, rws := 0xffff },
  { base := 0x800008, rws := 0x1ff, reset := 0x20 },
  { base := 0x800010, n1 := 4, s1 := 4, rws := 0x3ff03ff },
  { base := 0x800020, n1 := 16, s1 := 4, rws := 0x1f1f },
  { base := 0x800060, n1 := 16, s1 := 4, rws := 0x3ff001f },
  { base := 0x8000a0, n1 := 16, s1 := 8, wide := true },
  { base := 0x800120, wide := true, wrap := some ⟨0x800128, 0, 0, 0, 0⟩ },
  { base := 0x800128, w1c := 0x1 },
  { base := 0x800130, wide := true, reset := 0x20002000200020 }]

/-- The registers of the STM_ window. -/
def regsStm : List RegDesc := [
  { base := 0x900000, w1c := 0x80000000, reset := 0x40000 },
  { base := 0x900008, wide := true, wrap := some ⟨0x900010, 0, 0, 0, 0⟩ },
  { base := 0x900010, w1c := 0x1 },
  { base := 0x900100, n1 := 16, s1 := 4, rws := 0x7ffff, reset := 0x4000 },
  { base := 0x910000, n1 := 4096, s1 := 16, wide := true, rws := 0xfffffffffffff007 },
  { base := 0x910008, n1 := 4096, s1 := 16, rws := 0xffffff },
  { base := 0x920000, n1 := 4096, s1 := 8, wide := true }]

/-- The registers of the HLY_ window. -/
def regsHly : List RegDesc := [
  { base := 0xa00000, w1c := 0x20000000 },
  { base := 0xa00008, wide := true, reset := 0x1bf08eb00 },
  { base := 0xa00010, wide := true, rws := 0xffffffffffffffff, reset := 0x61a80000186a0 },
  { base := 0xa00018 },
  { base := 0xa0001c, rw := 0x7, reset := 0x2 },
  { base := 0xa00020, wide := true, rw := 0xfffffffe0000 },
  { base := 0xa00028 },
  { base := 0xa0002c, rw := 0xffffffff },
  { base := 0xa00030, rc := [0xffffffff] },
  { base := 0xa00040, wide := true, wrap := some ⟨0xa00058, 0, 0, 0, 0⟩ },
  { base := 0xa00048, wide := true, wrap := some ⟨0xa00058, 0, 1, 0, 0⟩ },
  { base := 0xa00050, wide := true, wrap := some ⟨0xa00058, 0, 2, 0, 0⟩ },
  { base := 0xa00058, w1c := 0x7 }]

/-- The registers of the PCI_ window. -/
def regsPci : List RegDesc := [
  { base := 0xe10000, n1 := 258, s1 := 16, wide := true, rws := 0xffffffff00000003 },
  { base := 0xe20000 },
  { base := 0xe20010, wide := true, wrap := some ⟨0xe20028, 0, 0, 0, 0⟩ },
  { base := 0xe20018, wide := true, wrap := some ⟨0xe20028, 0, 1, 0, 0⟩ },
  { base := 0xe20020, wide := true, wrap := some ⟨0xe20028, 0, 2, 0, 0⟩ },
  { base := 0xe20028, w1c := 0x7 }]

/-- The registers of the FJL_ window. -/
def regsFjl : List RegDesc := [
  { base := 0xd00000, rws := 0xffffffff },
  { base := 0xd00004, rws := 0xffffffff, reset := 0x640032 },
  { base := 0xd00008, rws := 0xffff, reset := 0x64 },
  { base := 0xd0000c, w1c := 0x80000000 },
  { base := 0xd00010, wide := true, rws := 0xffffffffffff, reset := 0x101010101010 },
  { base := 0xd00020, wide := true, rws := 0xfffffff80001 },
  { base := 0xd00028, wo := 0x1ffff },
  { base := 0xd00030, rws := 0xc0000007, reset := 0x40000000 },
  { base := 0xd00034 },
  { base := 0xd00040, n1 := 16, s1 := 4, rws := 0x8fff },
  { base := 0xd00100, n1 := 8, s1 := 8, rws := 0x9fbfffff },
  { base := 0xd00104, n1 := 8, s1 := 8 },
  { base := 0xd00200, n1 := 192, s1 := 8, wide := true, rws := 0xc000ffffc000ffff },
  { base := 0xd01000, n1 := 8, s1 := 64, n2 := 8, s2 := 8, wide := true },
  { base := 0xd01200, n1 := 8, s1 := 32, n2 := 8, s2 := 4, rc := [0xffffffff] },
  { base := 0xd01400, n1 := 8, s1 := 64, n2 := 8, s2 := 8, wide := true, rws := 0xc000ffffff00ffff, reset := 0x4000000000000000 },
  { base := 0xd02000, n1 := 8, s1 := 64, n2 := 7, s2 := 8, wide := true, wrap := some ⟨0xd02400, 4, 0, 0, 1⟩ },
  { base := 0xd02400, n1 := 8, s1 := 4, w1c := 0x7f }]

/-- The registers of the MGD_ window. -/
def regsMgd : List RegDesc := [
  { base := 0xb00000, w1c := 0x20000000 },
  { base := 0xb00004 },
  { base := 0xb00010, wo := 0x3 },
  { base := 0xb00018, wide := true },
  { base := 0xb00020, wide := true, rws := 0xfffffff000ff },
  { base := 0xb00028, rws := 0x1ffffff, reset := 0x23c18 },
  { base := 0xb00030, rw := 0x8fff },
  { base := 0xb00040 },
  { base := 0xb00044, rw := 0xffffffff },
  { base := 0xb00048, wide := true, wrap := some ⟨0xb00080, 0, 4, 0, 0⟩ },
  { base := 0xb00050, rw := 0x3 },
  { base := 0xb00058 },
  { base := 0xb00060, n1 := 4, s1 := 8, wide := true, wrap := some ⟨0xb00080, 0, 0, 1, 0⟩ },
  { base := 0xb00080, w1c := 0x1f },
  { base := 0xb00100, n1 := 16, s1 := 16, wide := true, rw := 0xffffffffffff },
  { base := 0xb00108, n1 := 16, s1 := 16, rw := 0x8003ffff }]

/-- The registers of the PWR_ window. -/
def regsPwr : List RegDesc := [
  { base := 0xf00000 },
  { base := 0xf00008, n1 := 5, s1 := 8, wide := true },
  { base := 0xf00030, wide := true },
  { base := 0xf00040, wo := 0xffff0003 },
  { base := 0xf00044, rw := 0x1, reset := 0x1 },
  { base := 0xf00048, rws := 0x3ff07ff, reset := 0x3200578 },
  { base := 0xf00050, wide := true, reset := 0x578 },
  { base := 0xf00060, rws := 0xffffffff, reset := 0x4b64140c },
  { base := 0xf00068, wide := true, reset := 0x6400000000000000 },
  { base := 0xf00070 },
  { base := 0xf00078, wide := true, wrap := some ⟨0xf00080, 0, 0, 0, 0⟩ },
  { base := 0xf00080, w1c := 0x1 }]

/-- The registers of the GRD_ window. -/
def regsGrd : List RegDesc := [
  { base := 0x1000000, rws := 0x103ff, reset := 0xc8 },
  { base := 0x1000004 },
  { base := 0x1000008, wo := 0x1, rc := [0xffff0000] },
  { base := 0x1000010, wide := true, wrap := some ⟨0x1000020, 0, 0, 0, 0⟩ },
  { base := 0x1000018, wide := true, wrap := some ⟨0x1000020, 0, 1, 0, 0⟩ },
  { base := 0x1000020, w1c := 0x3 }]

/-- The registers of the SEC_ window. -/
def regsSec : List RegDesc := [
  { base := 0x1200000, w1c := 0x20000000 },
  { base := 0x1200004, rws := 0x3, w1s := 0x80000000 },
  { base := 0x1200008, wide := true },
  { base := 0x1200010, wo := 0xffff000f },
  { base := 0x1200020, n1 := 8, s1 := 4, wo := 0xffffffff },
  { base := 0x1200040, wide := true }]

/-- The registers of the HTR_ window. -/
def regsHtr : List RegDesc := [
  { base := 0xc00000 }]

/-- The registers of the DBG_ window. -/
def regsDbg : List RegDesc := [
  { base := 0x1100000, rw := 0x1, w1c := 0x80000000 },
  { base := 0x1100008, wide := true },
  { base := 0x1100010, n1 := 3, s1 := 8, wide := true, wrap := some ⟨0x110002c, 0, 0, 1, 0⟩ },
  { base := 0x1100028, rc := [0xff, 0xff00, 0xff0000, 0xff000000] },
  { base := 0x110002c, w1c := 0x7 },
  { base := 0x1100100, n1 := 2, s1 := 32, wide := true, rws := 0xfffffffff000 },
  { base := 0x1100108, n1 := 2, s1 := 32, wide := true, rws := 0xc000ffffffff00ff, reset := 0xffff00ff },
  { base := 0x1100110, n1 := 2, s1 := 32, wide := true },
  { base := 0x1100118, n1 := 2, s1 := 32, rc := [0xffffffff] },
  { base := 0x1100140, wide := true, rw := 0xbfffe0ffffffff00 },
  { base := 0x1100180, wo := 0x1 },
  { base := 0x1100188, wide := true, rws := 0xc000fffffff000ff },
  { base := 0x1100190 },
  { base := 0x1100200, n1 := 16, s1 := 8, rws := 0xe000ffff, reset := 0x3e8 },
  { base := 0x1100204, n1 := 16, s1 := 8, wo := 0x1 },
  { base := 0x1100300, n1 := 16, s1 := 4, rws := 0xe0000000, reset := 0x60000000 },
  { base := 0x1100340, wide := true, wo := 0xffffffffffffffff },
  { base := 0x1100348, wide := true, wo := 0xffffffffffffffff },
  { base := 0x1100380, wide := true, wo := 0xffffffffffffffff },
  { base := 0x1101000, n1 := 16, s1 := 128, n2 := 13, s2 := 8, wide := true, wrap := some ⟨0x1101800, 4, 0, 0, 1⟩ },
  { base := 0x1101800, n1 := 16, s1 := 4, w1c := 0x1fff }]

/-- The registers of a function window (offsets within it, 12_host_interface.md). -/
def regsFunction : List RegDesc := [
  { base := 0x0 },
  { base := 0x8, reset := 0x1000000 },
  { base := 0xc, rw := 0xffff00 },
  { base := 0x1000, n1 := 64, s1 := 32, wide := true, rws := 0xfffffffffffff000 },
  { base := 0x1008, n1 := 64, s1 := 32, wide := true, rws := 0xfffffffffffffff8 },
  { base := 0x1010, n1 := 64, s1 := 32, rws := 0xc000001f },
  { base := 0x1014, n1 := 64, s1 := 32 },
  { base := 0x1018, n1 := 64, s1 := 32, wide := true }]

/-- The registers of window w of Table 12.3. -/
def windowRegs (w : Nat) : List RegDesc :=
  match w with
  | 0 => regsHub
  | 1 => regsPny
  | 2 => regsLup
  | 3 => regsClm
  | 4 => regsPrm
  | 5 => regsAst
  | 6 => regsBqt
  | 7 => regsZin
  | 8 => regsFxg
  | 9 => regsStm
  | 10 => regsHly
  | 14 => regsPci
  | 13 => regsFjl
  | 11 => regsMgd
  | 15 => regsPwr
  | 16 => regsGrd
  | 18 => regsSec
  | 12 => regsHtr
  | 17 => regsDbg
  | _ => []

end Sys2Proof.Machine
end

