-- ==== Sys2Proof/Machine/Regs.lean ====
section
/-!
DEFINITION. The register file: finding the register at an address of the register space, effective and staged values
(R6, R7), counters with their EPOCH and WRAPPED bits (R134), blocks (R299).
-/

namespace Sys2Proof.Machine

/-- Where in the array d the offset r (from its base) is the first byte of a register. -/
def RegDesc.index (d : RegDesc) (r : Nat) : Option (Nat × Nat) :=
  if d.s1 = 0 then (if r = 0 then some (0, 0) else none)
  else
    let i := r / d.s1
    let q := r % d.s1
    if d.n1 ≤ i then none
    else if d.s2 = 0 then (if q = 0 then some (i, 0) else none)
    else if q % d.s2 = 0 ∧ q / d.s2 < d.n2 then some (i, q / d.s2) else none

/-- A register found in the tables: its address, its row, its place in the array. -/
structure RegRef where
  addr : Nat
  desc : RegDesc
  i : Nat
  j : Nat
deriving DecidableEq, Repr

/-- The register of a list of rows that begins at off, for the address addr. -/
def findRow (addr off : Nat) : List RegDesc → Option RegRef
  | [] => none
  | d :: ds =>
    if d.base ≤ off then
      match d.index (off - d.base) with
      | some (i, j) => some { addr := addr, desc := d, i := i, j := j }
      | none => findRow addr off ds
    else findRow addr off ds

/-- Is the address in a function window (R295), and of which function? -/
def fnOf (a : Nat) : Option Nat :=
  if 0xE00000 ≤ a ∧ a < 0xE10000 then some 0
  else if 0x4000000 ≤ a ∧ a < 0x5000000 then some ((a - 0x4000000) / 0x10000 + 1)
  else if 0x5000000 ≤ a ∧ a < 0x5010000 then some 257
  else none

/-- The row of the register that begins at address a. -/
def regAt (a : Nat) : Option RegRef :=
  match fnOf a with
  | some f => findRow a (a - Reg.fnBase f) regsFunction
  | none => findRow a a (windowRegs (a / 0x100000))

/-- The register that covers the 32-bit word at address a: its own, or the 64-bit register at a - 4. -/
def regCovering (a : Nat) : Option RegRef :=
  match regAt a with
  | some r => some r
  | none =>
    if 4 ≤ a then
      match regAt (a - 4) with
      | some r => if r.desc.wide then some r else none
      | none => none
    else none

/-- The Reset column of the register at address a. -/
def resetOf (a : Nat) : Word :=
  match regAt a with
  | some r => BitVec.ofNat 64 r.desc.reset
  | none => 0

/-- The effective value of the register at address a. -/
def State.reg (s : State) (a : Nat) : Word :=
  match SMap.find s.eff a with
  | some v => v
  | none => resetOf a

/-- The staged value of the register at address a: the effective value where nothing is staged (R7). -/
def State.staged (s : State) (a : Nat) : Word :=
  match SMap.find s.stg a with
  | some v => v
  | none => s.reg a

/-- The effective value of register a becomes v. -/
def State.setReg (s : State) (a : Nat) (v : Word) : State := { s with eff := SMap.set (resetOf a) s.eff a v }

/-- The staged value of register a becomes v; a staged value equal to the effective one is nothing staged. -/
def State.stage (s : State) (a : Nat) (v : Word) : State := { s with stg := SMap.set (s.reg a) s.stg a v }

/-- Bits [lo + w - 1 : lo] of register a become x. -/
def State.setRegFld (s : State) (a lo w x : Nat) : State := s.setReg a (setFld (s.reg a) lo w x)

/-- Bits [lo + w - 1 : lo] of the effective register a. -/
def State.regFld (s : State) (a lo w : Nat) : Nat := fld (s.reg a) lo w

/-- Counter a counts n more events: EPOCH and COUNT advance as one 64-bit number, and a wrap of COUNT sets the counter's
WRAPPED bit (R134). -/
def State.bump (s : State) (a n : Nat) : State :=
  let old := s.reg a
  let s1 := s.setReg a (old + BitVec.ofNat 64 n)
  if old.toNat % 2 ^ 48 + n < 2 ^ 48 then s1
  else
    match regAt a with
    | none => s1
    | some r =>
      match r.desc.wrap with
      | none => s1
      | some w =>
        let b := w.bit + w.b1 * r.i + w.b2 * r.j
        let wa := w.base + w.s1 * r.i + 4 * (b / 32)
        s1.setReg wa (s1.reg wa ||| BitVec.ofNat 64 (2 ^ (b % 32)))

/-- A saturating field counts n more. -/
def State.bumpSat (s : State) (a lo w n : Nat) : State := s.setRegFld a lo w (satNat w (s.regFld a lo w + n))

/-- The block an address belongs to, named by its APPLY register (R299): a 1 MiB window, or a function window. -/
def applyOf (a : Nat) : Nat :=
  match fnOf a with
  | some f => Reg.fnApply f
  | none => Reg.winApply (a / 0x100000)

/-- Is the address an APPLY register (R299)? -/
def isApply (a : Nat) : Bool := a = applyOf a && (decide (a < 0x1300000) || decide (0x4000000 ≤ a))

/-- A write held while the module is stopped; beyond 4,096 the module withholds credits and the write does not arrive (R368). -/
def State.holdWrite (s : State) (h : HeldWrite) : State :=
  if s.stop.held.length < 4096 then { s with stop := { s.stop with held := s.stop.held ++ [h] } } else s

/-- A status, RO or counter value the module writes as a whole. -/
def State.setRegs (s : State) (vs : List (Nat × Word)) : State := vs.foldl (fun t e => t.setReg e.1 e.2) s

end Sys2Proof.Machine
end

