-- ==== Sys2Proof/Machine/Sched.lean ====
section
/-!
DEFINITION. The traffic scheduler every arbitration point shares (R329, R330): flows with start tags and token shapers,
virtual time. A port's flow is keyed by 8 * port + class; the flow of hub engine e, class c and group g by
1000 * e + 16 * c + g. A shaper's tokens are kept under a bucket key: a port flow's own key; for group g's shaper of hub engine e,
100000 + 16 * e + g.
-/

namespace Sys2Proof.Machine

/-- A flow that was never used. -/
def Flow.fresh : Flow := { start := 0, tokens := 0, refilled := 0 }

/-- The flow with key k. -/
def State.flow (s : State) (k : Nat) : Flow := SMap.get Flow.fresh s.flows k

/-- The flow with key k becomes f. -/
def State.setFlow (s : State) (k : Nat) (f : Flow) : State := { s with flows := SMap.set Flow.fresh s.flows k f }

/-- The virtual time of arbitration point k (a port 0–7, or 100 + engine class). -/
def State.virt (s : State) (k : Nat) : BitVec 48 := SMap.get 0 s.vtime k

/-- The virtual time of arbitration point k becomes v. -/
def State.setVirt (s : State) (k : Nat) (v : BitVec 48) : State := { s with vtime := SMap.set 0 s.vtime k v }

/-- Does tag a precede tag b, modulo 2^48 (R329)? -/
def tagBefore (a b : BitVec 48) : Bool :=
  let d := (b - a).toNat
  decide (1 ≤ d) && decide (d ≤ 2 ^ 47 - 1)

/-- The tokens, in thousandths of a byte, that a shaper register gives the flow at time now (R330): RATE counts 16 MB/s,
16 thousandths of a byte each ns; at most BURST times 256 bytes. -/
def tokensAt (cfg : Word) (f : Flow) (now : Word) : Int :=
  let cap : Int := (fld cfg 24 24 * 256 * 1000 : Nat)
  let t : Int := f.tokens + ((now - f.refilled).toNat * fld cfg 0 16 * 16 : Nat)
  if cap < t then cap else t

/-- Does the shaper let the flow be served: off, or a positive token count (R329)? -/
def shaperOpen (cfg : Word) (f : Flow) (now : Word) : Bool :=
  !(bitAt cfg 63) || decide (0 < tokensAt cfg f now)

/-- An empty weighted flow receives an item: its start tag becomes the virtual time (R329). -/
def State.flowFills (s : State) (k v : Nat) : State := s.setFlow k { s.flow k with start := s.virt v }

/-- The flow k of arbitration point v serves an item of effective length len at weight w under the shaper cfg with bucket b
(R329, R330): V becomes the item's S, the next S is later by len * 256 / w rounded up, the tokens fall by len. -/
def State.flowServes (s : State) (k b v len w : Nat) (cfg : Word) (weighted : Bool) : State :=
  let f := s.flow k
  let s1 := if weighted then (s.setVirt v f.start).setFlow k { f with start := f.start + BitVec.ofNat 48 (ceilDiv (len * 256) w) } else s
  let g := s1.flow b
  if bitAt cfg 63 then s1.setFlow b { g with tokens := tokensAt cfg g s.now - (len * 1000 : Nat), refilled := s.now } else s1

/-- An APPLY that changes a shaper's fields sets the tokens of its bucket to BURST, or to zero (R330). -/
def State.shaperSet (s : State) (b : Nat) (cfg : Word) : State :=
  s.setFlow b { s.flow b with tokens := if bitAt cfg 62 then (fld cfg 24 24 * 256 * 1000 : Nat) else 0, refilled := s.now }

/-- A candidate of an arbitration: its class, its flow key, the weight, the shaper and its bucket, and what it would serve: a stem command, or one
of PF1 (R275). -/
structure Candidate where
  cls : Nat
  key : Nat
  weight : Nat
  shaper : Word
  bucket : Nat
  item : Nat
  pf1 : Bool := false
deriving DecidableEq, Repr

/-- Does weighted candidate a go before b: the smaller start tag, ties to the lower class, then the lower flow index? -/
def State.goesBefore (s : State) (a b : Candidate) : Bool :=
  let ta := (s.flow a.key).start
  let tb := (s.flow b.key).start
  if tagBefore ta tb then true
  else if tagBefore tb ta then false
  else decide (a.cls < b.cls) || (decide (a.cls = b.cls) && decide (a.key < b.key))

/-- The candidate the scheduler serves (R329): class 0 first, then class 1, then the weighted flow with the smallest
start tag. -/
def State.pick (s : State) (cs : List Candidate) : Option Candidate :=
  let ok := cs.filter (fun c => shaperOpen c.shaper (s.flow c.bucket) s.now)
  match ok.find? (fun c => c.cls = 0) with
  | some c => some c
  | none =>
    match ok.find? (fun c => c.cls = 1) with
    | some c => some c
    | none =>
      ok.foldl (fun best c => match best with
        | none => some c
        | some b => if s.goesBefore c b then some c else some b) none

end Sys2Proof.Machine
end

