-- ==== Sys2Proof/Machine/Route.lean ====
section
/-!
DEFINITION. Fabric messages: their bytes (R315), the ports, dimension-order routing (R316–R318), and putting a message
in a port's egress queue.
-/

namespace Sys2Proof.Machine

/-- Port p. -/
def State.port (s : State) (p : Nat) : Port := SMap.get Port.reset s.ports p

/-- Port p becomes x. -/
def State.setPort (s : State) (p : Nat) (x : Port) : State := { s with ports := SMap.set Port.reset s.ports p x }

/-- Does port p carry messages? -/
def State.portUp (s : State) (p : Nat) : Bool := (s.port p).state = .up

/-- The module ID in effect (R316). -/
def State.moduleId (s : State) : Nat := s.regFld Reg.fjlModuleId 0 16

/-- The size of torus dimension k (0 X, 1 Y, 2 Z) (R316). -/
def State.dim (s : State) (k : Nat) : Nat :=
  match k with
  | 0 => s.regFld Reg.fjlModuleId 16 5 + 1
  | 1 => s.regFld Reg.fjlModuleId 21 5 + 1
  | _ => s.regFld Reg.fjlModuleId 26 6 + 1

/-- Coordinate k of a module ID: x in bits [4:0], y in [9:5], z in [15:10] (R316). -/
def coord (id k : Nat) : Nat :=
  match k with
  | 0 => bitsOf id 0 5
  | 1 => bitsOf id 5 5
  | _ => bitsOf id 10 6

/-- The module ID with coordinate k replaced by c. -/
def withCoord (id k c : Nat) : Nat :=
  match k with
  | 0 => bitsOf id 5 11 * 32 + c
  | 1 => bitsOf id 10 6 * 1024 + c * 32 + bitsOf id 0 5
  | _ => c * 1024 + bitsOf id 0 10

/-- The neighbour that torus port p leads to (R317): port 2k is the + direction of dimension k, port 2k + 1 the −. -/
def State.neighbour (s : State) (p : Nat) : Nat :=
  let k := p / 2
  let n := s.dim k
  let c := coord s.moduleId k
  withCoord s.moduleId k (if p % 2 = 0 then (c + 1) % n else (c + n - 1) % n)

/-- The role FJL_PORT_CFG gives port p: 0 torus, 1 express, 2 spare, 3 off (R311). -/
def State.role (s : State) (p : Nat) : Nat :=
  if p < 6 then 0
  else match s.regFld (Reg.fjlPortCfg p) 26 2 with
    | 1 => 1
    | 2 => 2
    | _ => 3

/-- The spare port that stands in for torus port p, is up and leads to that port's neighbour (R311). -/
def State.spareFor (s : State) (p : Nat) : Option Nat :=
  [6, 7].find? (fun q => s.role q = 2 && s.regFld (Reg.fjlPortCfg q) 23 3 = p && s.portUp q && (s.port q).peer.toNat = s.neighbour p)

/-- Does express port q carry messages to dst: it is up, dst is the module it names, and its peer is that module (R311, R317)? -/
def State.expressTo (s : State) (dst q : Nat) : Bool :=
  s.role q = 1 && s.portUp q && s.regFld (Reg.fjlPortCfg q) 0 16 = dst && (s.port q).peer.toNat = dst

/-- The port that carries torus direction p now: itself, or its spare (R311, R318). -/
def State.carrier (s : State) (p : Nat) : Option Nat :=
  if s.portUp p then some p else s.spareFor p

/-- The torus direction a port stands for. -/
def State.direction (s : State) (p : Nat) : Nat :=
  if s.role p = 2 then s.regFld (Reg.fjlPortCfg p) 23 3 else p

/-- Does the hop in torus direction p cross the dateline of its ring (R318)? -/
def State.crosses (s : State) (p : Nat) : Bool :=
  let c := coord s.moduleId (p / 2)
  if p % 2 = 0 then c + 1 = s.dim (p / 2) else c = 0

/-- Is a coordinate of the destination outside the dimensions (R317)? -/
def State.outside (s : State) (dst : Nat) : Bool := [0, 1, 2].any (fun k => decide (s.dim k ≤ coord dst k))

/-- The torus direction R317 chooses from here to dst, and whether the message must keep it (it arrived on this ring on
virtual channel 1, R318). -/
def State.torusDir (s : State) (dst : Nat) (vc : Bool) (inDir : Option Nat) : Option Nat :=
  let own := s.moduleId
  let step := fun k =>
    let n := s.dim k
    let d := (coord dst k + n - coord own k) % n
    if d = 0 then none
    else
      let shortest := if 2 * d ≤ n then 2 * k else 2 * k + 1
      match inDir with
      | some p => if p / 2 = k && vc then some (if p % 2 = 0 then 2 * k + 1 else 2 * k) else some shortest
      | none => some shortest
  match step 0 with
  | some p => some p
  | none => match step 1 with
    | some p => some p
    | none => step 2

/-- The egress port and virtual channel of a routed message to dst that arrived on port inPort (none: it starts here)
(R317, R318); none when both directions are down. -/
def State.route (s : State) (dst : Nat) (vc : Bool) (inPort : Option Nat) : Option (Nat × Bool) :=
  match [6, 7].find? (s.expressTo dst) with
  | some q => some (q, vc)
  | none =>
    let inDir := inPort.map s.direction
    match s.torusDir dst vc inDir with
    | none => none
    | some dir =>
      let same := match inDir with
        | some p => decide (p / 2 = dir / 2)
        | none => false
      let vcNow := (same && vc) || s.crosses dir
      match s.carrier dir with
      | some p => some (p, vcNow)
      | none =>
        let back := if dir % 2 = 0 then dir + 1 else dir - 1
        match s.carrier back with
        | some p => some (p, true)
        | none => none

/-- The header bytes 0–11 of a message (Table 13.3). -/
def Msg.header (m : Msg) : List Byte :=
  toLE 2 m.dst.toNat ++ toLE 2 m.src.toNat ++ [m.typ] ++ [BitVec.ofNat 8 (m.cls.toNat + 8 * b2n m.vc)] ++ [m.ttl] ++
    [BitVec.ofNat 8 (b2n m.poison)] ++ toLE 2 m.payload.length ++ toLE 2 m.tag.toNat

/-- The message with its hop fields as the source's check covers them: DCHECK is verified only at the destination, so
the fields each hop changes (TTL, virtual channel) count as at the source (R315; DEDUCED). -/
def Msg.checked (m : Msg) : List Byte := ({ m with ttl := 128, vc := false } : Msg).header ++ m.payload

/-- The bytes of a message: header, DCHECK, payload; a message on its way keeps the DCHECK its source computed (R315). -/
def Msg.bytes (m : Msg) : List Byte := m.header ++ toLE 4 (m.check.getD (crc32c m.checked)).toNat ++ m.payload

/-- The message's length in bytes, header included. -/
def Msg.len (m : Msg) : Nat := 16 + m.payload.length

/-- The messages waiting at port p in class c. -/
def State.egress (s : State) (p c : Nat) : List Waiting := SMap.get [] (s.port p).egress c

/-- The messages waiting at port p in class c become ws. -/
def State.setEgress (s : State) (p c : Nat) (ws : List Waiting) : State :=
  let x := s.port p
  s.setPort p { x with egress := SMap.set [] x.egress c ws }

/-- Message m joins the egress queue of its class at port p (R329). -/
def State.enqueueAt (s : State) (p : Nat) (m : Msg) : State :=
  let c := m.cls.toNat
  let ws := s.egress p c
  let s1 := if ws.isEmpty && decide (2 ≤ c) then s.flowFills (8 * p + c) p else s
  s1.setEgress p c (ws ++ [{ msg := m, since := s.now }])

/-- Is the type one that version 2 does not carry (R314)? -/
def v3Only (t : Byte) : Bool := t = 0x05 || t = 0x06

/-- Send a routed message from here, or onward from port inPort: the state with it queued, or the status code that
answers it: 0xA0 unreachable, 0xA4 version (R317, R318). -/
def State.sendRouted (s : State) (m : Msg) (inPort : Option Nat) : Except Byte State :=
  if s.outside m.dst.toNat then .error 0xA0
  else match s.route m.dst.toNat m.vc inPort with
    | none => .error 0xA0
    | some (p, vc) =>
      if v3Only m.typ && (s.port p).version = 2 then .error 0xA4
      else .ok (s.enqueueAt p { m with vc := vc })

/-- Send a link-scope message on port p to the neighbour there (R315). -/
def State.sendLink (s : State) (p : Nat) (typ : Byte) (cls : BitVec 3) (payload : List Byte) : State :=
  s.enqueueAt p { dst := (s.port p).peer, src := BitVec.ofNat 16 s.moduleId, typ := typ, cls := cls, vc := false,
                  ttl := 128, poison := false, tag := 0, payload := payload }

end Sys2Proof.Machine
end

