-- ==== Sys2Proof/Machine/Lookup.lean ====
section
/-!
DEFINITION. Finding things: control cores, Peony cores, commands, jobs, partition groups (R11, R335), start stages.
-/

namespace Sys2Proof.Machine

/-- Control core n. -/
def State.core (s : State) (n : CoreId) : Core := SMap.get Core.idle s.cores n.toNat

/-- Control core n becomes c. -/
def State.setCore (s : State) (n : CoreId) (c : Core) : State :=
  { s with cores := SMap.set Core.idle s.cores n.toNat c }

/-- The array state of logical Peony core n. -/
def State.peonyAt (s : State) (n : Nat) : PeonyCore := SMap.get PeonyCore.reset s.peony n

/-- The array state of logical Peony core n becomes c. -/
def State.setPeony (s : State) (n : Nat) (c : PeonyCore) : State :=
  { s with peony := SMap.set PeonyCore.reset s.peony n c }

/-- The accepted command with identity id. -/
def State.cmd (s : State) (id : Nat) : Option Cmd := s.cmds.find? (fun c => c.id = id)

/-- The command with the identity of c becomes c. -/
def State.setCmd (s : State) (c : Cmd) : State := { s with cmds := s.cmds.map (fun d => if d.id = c.id then c else d) }

/-- The command with identity id leaves its queue; nothing of what its writes did is remembered any longer. -/
def State.dropCmd (s : State) (id : Nat) : State :=
  { s with cmds := s.cmds.filter (fun d => !(d.id = id)), writeFail := SMap.erase s.writeFail id,
           rowWork := SMap.erase s.rowWork id, rowReads := SMap.erase s.rowReads id, old := s.old.filter (fun o => !(o.cmd = id + 1)) }

/-- The commands of a kind leave their queues without completing, with what their writes did. -/
def State.dropCmds (s : State) (f : Cmd → Bool) : State :=
  let gone := fun (id : Nat) => s.cmds.any (fun c => f c && decide (c.id = id))
  { s with cmds := s.cmds.filter (fun c => !(f c)), writeFail := s.writeFail.filter (fun e => !(gone e.1)),
           rowWork := s.rowWork.filter (fun e => !(gone e.1)), rowReads := s.rowReads.filter (fun e => !(gone e.1)),
           old := s.old.filter (fun o => !(gone (o.cmd - 1))) }

/-- Is the job live: accepted and not ended (R339)? -/
def Job.isLive (j : Job) : Bool := !(j.state = .ended)

/-- The live job with this JOB_ID. -/
def State.job (s : State) (id : BitVec 16) : Option Job := s.jobs.find? (fun j => j.id = id && j.isLive)

/-- Is a live job named by this JOB_ID? -/
def State.isLive (s : State) (id : BitVec 16) : Bool := (s.job id).isSome

/-- The live job with the JOB_ID of j becomes j. -/
def State.setJob (s : State) (j : Job) : State :=
  { s with jobs := s.jobs.map (fun k => if k.id = j.id && k.isLive then j else k) }

/-- SIZE of partition p's group under HUB_PGROUP: log2 of its partitions (R335). -/
def State.groupSize (s : State) (p : Nat) : Nat := s.regFld Reg.hubPgroup (4 * p) 3

/-- The lowest partition of partition p's group. -/
def State.groupOf (s : State) (p : Nat) : Nat := p / 2 ^ s.groupSize p * 2 ^ s.groupSize p

/-- The partitions of the group g. -/
def State.partsOf (s : State) (g : Nat) : List Nat := (List.range (2 ^ s.groupSize g)).map (fun i => g + i)

/-- Is g the lowest partition of a group? -/
def State.isGroup (s : State) (g : Nat) : Bool := decide (g < 16) && decide (s.groupOf g = g)

/-- The partition of control core n (R11): core 3p + i, or 48 + p. -/
def partOfCore (n : CoreId) : Nat := if n.toNat < 48 then n.toNat / 3 else n.toNat - 48

/-- The petal die of control core n. -/
def dieOfCore (n : CoreId) : Nat := partOfCore n / 4

/-- The group control core n belongs to. -/
def State.groupOfCore (s : State) (n : CoreId) : Nat := s.groupOf (partOfCore n)

/-- The running job of group g (running, saving or restoring). -/
def State.runningJob (s : State) (g : Nat) : Option Job :=
  s.jobs.find? (fun j => decide (j.group = g) && (j.state = .running || j.state = .saving || j.state = .restoring))

/-- The group of job id, if it is live. -/
def State.groupOfJob (s : State) (id : BitVec 16) : Option Nat := (s.job id).map Job.group

/-- The weight of group g at the hub engines: the sum of its partitions' weights, at most 255 (R336). -/
def State.groupWeight (s : State) (g : Nat) : Nat :=
  Nat.min 255 (((s.partsOf g).map (fun p => s.regFld (Reg.hubPartWeight (p / 4)) (8 * (p % 4)) 8)).foldl (· + ·) 0)

/-- Draw the next free value's number. -/
def State.drawn (s : State) : State := { s with free := s.free + 1 }

/-- Append to what the module has sent out. -/
def State.send (s : State) (o : Out) : State := { s with out := s.out ++ [o] }

/-- The event (code, severity, unit, job, argument) is written to the fault log (R372, R373): the primary log at position
MGD_LOG_WR mod 65,536, a lost entry counted when 65,536 or more are unread; always to the secondary log; and to
MGD_LAST_CODE. A failed log receives nothing. -/
def State.logEvent (s : State) (code sev : Byte) (unit job : BitVec 16) (arg : Word) : State :=
  let wr := s.reg Reg.mgdLogWr
  let e : LogEntry := { time := s.now, seq := BitVec.ofNat 32 wr.toNat, code := code, sev := sev, unit := unit, job := job, arg := arg }
  let used := (wr.toNat + 2 ^ 32 - s.regFld Reg.mgdLogRd 0 32) % 2 ^ 32
  let s1 := if bitAt (s.reg Reg.mgdStatus) 31 then s
    else
      let t := { s with logPrimary := SMap.set LogEntry.blank s.logPrimary (wr.toNat % 65536) e }
      let t := if 65536 ≤ used then t.bump Reg.mgdLogLost 1 else t
      t.setReg Reg.mgdLogWr (BitVec.ofNat 64 ((wr.toNat + 1) % 2 ^ 32))
  let s2 := if bitAt (s.reg Reg.mgdStatus) 30 then s1
    else { s1 with logSecondary := SMap.set LogEntry.blank s1.logSecondary (s1.logSecondaryWr.toNat % 256) e
                   logSecondaryWr := s1.logSecondaryWr + 1 }
  s2.setReg Reg.mgdLastCode (BitVec.ofNat 64 (unit.toNat * 65536 + (sev.toNat % 4) * 256 + code.toNat))

/-- A corrected error of a unit: counted in MGD_CE always, logged at most once per unit per second (R353, R372). -/
def State.corrected (s : State) (code : Byte) (unit job : BitVec 16) (arg : Word) : State :=
  let s1 := s.bump Reg.mgdCe 1
  let last := SMap.find s.ceLogged unit.toNat
  let due := match last with
    | none => true
    | some t => decide (1000000000 ≤ (s.now - t).toNat)
  if due then { s1.logEvent code 0 unit job arg with ceLogged := SMap.insert s1.ceLogged unit.toNat s.now } else s1

/-- Work of speculation source n for group g is squashed: HUB_SQUASHn and the group's partition counter (Table 2.4,
Table 18.1). -/
def State.squash (s : State) (src g n : Nat) : State :=
  if n = 0 then s else (s.bump (Reg.hubSquash src) n).bump (Reg.dbgPartCnt g (3 + src)) n

/-- Work of speculation source n for group g proves wanted (Table 18.1). -/
def State.validate (s : State) (src g n : Nat) : State := if n = 0 then s else s.bump (Reg.dbgPartCnt g (8 + src)) n

/-- Is speculation source n switched off (R48)? -/
def State.specOff (s : State) (src : Nat) : Bool := bitAt (s.reg Reg.hubSpecDisable) src

/-- Does a cached line hold any byte of [pa, pa + n)? -/
def AheadLine.meets (l : AheadLine) (pa n : Nat) : Bool :=
  decide (pa < l.line * 256 + 256) && decide (l.line * 256 < pa + n) && decide (0 < n)

/-- Lines leave the caches; those never used are squashed work of source 1 (Table 2.4). -/
def State.evict (s : State) (gone : AheadLine → Bool) : State :=
  let hit := s.ahead.filter gone
  if hit.isEmpty then s
  else (hit.filter (fun l => !l.used)).foldl (fun t l =>
    let u := t.squash 1 l.group 1
    if l.bad then u.bump Reg.mgdSpecErr 1 else u) { s with ahead := s.ahead.filter (fun l => !(gone l)) }

/-- Cached lines of [pa, pa + n) are invalidated by a write (R25). -/
def State.dropLines (s : State) (pa n : Nat) : State := s.evict (fun l => l.meets pa n)

/-- A use of [pa, pa + n) by group g validates the lines filled ahead for it (Table 2.4); a line that is not to stay leaves the cache
(R146). -/
def State.useLines (s : State) (g pa n : Nat) (node : Bool) : State :=
  let mine := fun (l : AheadLine) => decide (l.group = g) && (l.node == node) && l.meets pa n
  let hit := s.ahead.filter mine
  if hit.isEmpty then s
  else
    let k := (hit.filter (fun l => !l.used)).length
    let kept := (hit.filter AheadLine.stays).map (fun (l : AheadLine) => ({ l with used := true } : AheadLine))
    let t := { s with ahead := s.ahead.filter (fun l => !(mine l)) ++ kept }
    let t := t.validate 1 g k
    if node && decide (0 < k) then t.bump Reg.clmPrefetchUsed k else t

end Sys2Proof.Machine
end

