-- ==== Sys2Proof/Machine/Memory.lean ====
section
/-!
DEFINITION. Memory: the device physical address map (R241), bytes with ownership (R406) and poison (R353), the flash read
window (R268–R273), the fabric pool's source checks (R319–R321), translation (R243–R246).
-/

namespace Sys2Proof.Machine

/-- The ranges of Table 10.1. -/
inductive Region where
  | coreLocal
  | shared
  | hbm
  | flash
  | pool
  | registers
  | none
deriving DecidableEq, Repr

def mib : Nat := 1048576
def gib : Nat := 1073741824
def sharedBase : Nat := 0x180000000
def hbmBase : Nat := 0x1000000000
def flashBase : Nat := 0x200000000000
def poolBase : Nat := 0x400000000000
def regBase : Nat := 0xF00000000000

/-- The range of Table 10.1 a physical address lies in (R241). -/
def regionOf (pa : Nat) : Region :=
  if pa < 0x180000000 then .coreLocal
  else if pa < 0x200000000 then .shared
  else if 0x1000000000 ≤ pa ∧ pa < 0x7000000000 then .hbm
  else if 0x200000000000 ≤ pa ∧ pa < 0x400000000000 then .flash
  else if 0x400000000000 ≤ pa ∧ pa < 0x800000000000 then .pool
  else if 0xF00000000000 ≤ pa ∧ pa < 0xF00040000000 then .registers
  else .none

/-- The partition whose HBM range holds the address (R242). -/
def hbmPart (pa : Nat) : Nat := (pa - hbmBase) / (24 * gib)

/-- The petal die that holds an SRAM address. -/
def dieOfPa (pa : Nat) : Nat := if pa < sharedBase then pa / (12 * 128 * mib) else (pa - sharedBase) / (512 * mib)

/-- Is the address SRAM or HBM? -/
def isRam (pa : Nat) : Bool := decide (regionOf pa = .coreLocal) || decide (regionOf pa = .shared) || decide (regionOf pa = .hbm)

/-- The 64-byte units that [pa, pa + n) touches. -/
def unitsOf (pa n : Nat) : List Nat :=
  if n = 0 then [] else (List.range ((pa + n - 1) / 64 - pa / 64 + 1)).map (fun i => pa / 64 + i)

/-- One byte of memory; a byte nothing has written is 0 (log entry 3). -/
def State.byte (s : State) (a : Nat) : Byte := SMap.get 0 s.mem a

/-- One byte of memory becomes v. -/
def Mem.setByte (m : List Host.Cell) (a : Nat) (v : Byte) : List Host.Cell := SMap.set (0 : Byte) m a v

/-- The bytes bs stand from address a on. -/
def Mem.setBytes : List Host.Cell → Nat → List Byte → List Host.Cell
  | m, _, [] => m
  | m, a, b :: bs => Mem.setBytes (Mem.setByte m a b) (a + 1) bs

/-- The memory's canonical form: addresses strictly rising, no entry equal to what an unlisted address reads as. -/
abbrev Memory.wf (m : List Host.Cell) : Bool := SMap.wf (0 : Byte) m

/-- The n bytes at address a. -/
def State.bytes (s : State) (a n : Nat) : List Byte := (List.range n).map (fun i => s.byte (a + i))

/-- The bytes bs are stored at address a, with neither ownership nor poison touched. -/
def State.putBytes (s : State) (a : Nat) (bs : List Byte) : State := { s with mem := Mem.setBytes s.mem a bs }

/-- The job that owns 64-byte unit u of core-local SRAM; 0 none (R406). -/
def State.ownerOf (s : State) (u : Nat) : BitVec 16 := SMap.get 0 s.owner u

/-- Job `job` becomes the owner of unit u: another's unit reads zeros from then on (R406). -/
def State.claim (s : State) (job : BitVec 16) (u : Nat) : State :=
  if s.ownerOf u = job then s
  else { s with mem := Mem.setBytes s.mem (64 * u) (zeros 64), owner := SMap.set 0 s.owner u job }

/-- Is any unit of [pa, pa + n) poisoned (R353)? -/
def State.poisoned (s : State) (pa n : Nat) : Bool := (unitsOf pa n).any (fun u => SMap.get false s.poison u)

/-- The poison mark of unit u becomes v. -/
def State.setPoison (s : State) (u : Nat) (v : Bool) : State := { s with poison := SMap.set false s.poison u v }

/-- The marks of the units a write of [pa, pa + n) covers: a poisoned write marks each unit it writes; a good write
clears the units it writes whole (R353, R354). -/
def State.markWrite (s : State) (pa n : Nat) (bad : Bool) : State :=
  (unitsOf pa n).foldl (fun t u =>
    if bad then t.setPoison u true
    else if pa ≤ 64 * u ∧ 64 * u + 64 ≤ pa + n then t.setPoison u false else t) s

/-- A write of bytes to SRAM or HBM for a job (R406, R353). -/
def State.ramWrite (s : State) (job : BitVec 16) (pa : Nat) (bs : List Byte) (bad : Bool) : State :=
  let s1 := if regionOf pa = .coreLocal then (unitsOf pa bs.length).foldl (fun t u => t.claim job u) s else s
  ((s1.putBytes pa bs).markWrite pa bs.length bad).dropLines pa bs.length

/-- What job `job` reads in n bytes of SRAM or HBM: a core-local unit it does not own reads zeros (R406). -/
def State.ramRead (s : State) (job : BitVec 16) (pa n : Nat) : List Byte :=
  (List.range n).map (fun i =>
    let a := pa + i
    if a < sharedBase && !(s.ownerOf (a / 64) = job) then 0 else s.byte a)

/-! ### Flash -/

/-- The number of logical blocks (HLY_CAPACITY). -/
def flashCapacity : Nat := 7500000000

/-- Logical block b. -/
def State.block (s : State) (b : Nat) : FlashBlock := SMap.get FlashBlock.unmapped s.flash b

/-- Does the logical block hold written data (R269)? -/
def FlashBlock.mapped (b : FlashBlock) : Bool := bitAt b.entry 39

/-- The 4,096 bytes a logical block reads as: zeros when unmapped (R269) or beyond the capacity (R273). -/
def State.blockBytes (s : State) (b : Nat) : List Byte :=
  let x := s.block b
  if x.mapped && decide (b < flashCapacity) then x.data ++ zeros (4096 - x.data.length) else zeros 4096

/-- n bytes of the flash read window from window offset off on. -/
def State.flashRead (s : State) (off n : Nat) : List Byte :=
  (List.range n).map (fun i => (s.blockBytes ((off + i) / 4096)).getD ((off + i) % 4096) 0)

/-- The logical blocks that [off, off + n) of the window touches. -/
def blocksOf (off n : Nat) : List Nat :=
  if n = 0 then [] else (List.range ((off + n - 1) / 4096 - off / 4096 + 1)).map (fun i => off / 4096 + i)

/-- The erase block that holds a map entry's slot: 8,192 a die (Tables 11.1, 11.2). -/
def eraseBlockOf (e : BitVec 40) : Nat := fld e 25 8 * 8192 + fld e 12 13

/-- A health-log entry (R279): written at HLY_HEALTH_WR, or lost when 4,096 are unread or the ring's base lies outside HBM or
in a Hollyhock region. -/
def State.health (s : State) (code die : Byte) (block : Nat) (arg : Nat) : State :=
  let base := fld (s.reg Reg.hlyHealthBase) 17 31 * 2 ^ 17
  let wr := s.regFld Reg.hlyHealthWr 0 32
  let used := (wr + 2 ^ 32 - s.regFld Reg.hlyHealthRd 0 32) % 2 ^ 32
  let off := (base - hbmBase) % (24 * gib)
  if decide (used = 4096) || decide (regionOf base ≠ .hbm) || decide (21 * gib + 768 * mib ≤ off) then
    s.bumpSat Reg.hlyHealthLost 0 32 1
  else
    let e := toLE 8 s.now.toNat ++ [code] ++ [die] ++ zeros 2 ++ toLE 4 block ++ toLE 8 arg ++ zeros 8
    (s.ramWrite 0 (base + 32 * (wr % 4096)) e false).setReg Reg.hlyHealthWr (BitVec.ofNat 64 ((wr + 1) % 2 ^ 32))

/-- Erase block k is read once: its counter saturates; at SOFT it is queued for refresh, at HARD the event is logged
(R276). -/
def State.readBlock (s : State) (k : Nat) : State :=
  let x := SMap.get EraseBlock.fresh s.erase k
  let r := satNat 32 (x.reads.toNat + 1)
  let hard := decide (s.regFld Reg.hlyRdLimits 32 32 ≤ r)
  let y : EraseBlock := { x with reads := BitVec.ofNat 32 r, refresh := x.refresh || decide (s.regFld Reg.hlyRdLimits 0 32 ≤ r),
                                 hard := x.hard || hard }
  let t : State := { s with erase := SMap.set EraseBlock.fresh s.erase k y }
  if hard && !x.hard then t.health 0x01 (BitVec.ofNat 8 (k / 8192)) (k % 8192) r else t

/-- One flash read of logical block b by a reader: mapped blocks count in HLY_READS and their erase block's read counter,
reads beyond the capacity in HLY_OOR_READS (R273, R276). -/
def State.countFlashRead (s : State) (b : Nat) : State :=
  if flashCapacity ≤ b then s.bump Reg.hlyOorReads 1
  else if (s.block b).mapped then (s.bump Reg.hlyReads 1).readBlock (eraseBlockOf (s.block b).entry)
  else s

/-- Every logical block of the list is read once (R273, R276). -/
def State.countFlashReads (s : State) (bs : List Nat) : State := bs.foldl (fun t b => t.countFlashRead b) s

/-- What stands in the way of an access to physical address pa: HBM before its stage (R380), a failed partition or die
(R358). -/
def State.barred (s : State) (pa : Nat) : Option Byte :=
  match regionOf pa with
  | .hbm =>
    if s.start.stage < 3 then some 0x01
    else if bitAt s.hbmOff (hbmPart pa) then some 0xC1 else none
  | .coreLocal => if bitAt s.dieOff (dieOfPa pa) then some 0xC1 else none
  | .shared => if bitAt s.dieOff (dieOfPa pa) then some 0xC1 else none
  | _ => none

/-! ### The fabric pool, at its source -/

/-- Where a pool address leads (R319). -/
inductive PoolTarget where
  | here (pa : Nat)
  | there (mod slot key off : Nat)
deriving DecidableEq, Repr

/-- Does export slot e serve key and the access (R321)? The physical address of its GiB, or the code. -/
def State.exportAt (s : State) (slot key : Nat) (write : Bool) : Except Byte Nat :=
  let e := s.reg (Reg.fjlExport slot)
  if s.start.stage < 5 then .error 0x01
  else if decide (192 ≤ slot) || !(bitAt e 63) || decide (fld e 0 16 ≠ key) then .error 0xA2
  else if write && !(bitAt e 62) then .error 0xA3
  else .ok (fld e 30 18 * gib)

/-- The checks of a pool access at its source (R317, R319, R320); memory this module exports to itself must be served too (R358, R380). -/
def State.poolTarget (s : State) (pa : Nat) (write : Bool) : Except Byte PoolTarget :=
  let b := s.reg Reg.fjlSegBase
  let seg := (pa - poolBase) / gib
  let off := (pa - poolBase) % gib
  let e := leNat (s.bytes (fld b 19 29 * 2 ^ 19 + 8 * seg) 8)
  if !(bitAt b 0) || !(e.testBit 63) || decide (192 ≤ bitsOf e 16 8) then .error 0xA1
  else if write && !(e.testBit 62) then .error 0xA3
  else if bitsOf e 0 16 = s.moduleId then
    match s.exportAt (bitsOf e 16 8) (bitsOf e 24 16) write with
    | .error c => .error c
    | .ok base => match s.barred (base + off) with
      | some c => .error c
      | none => .ok (.here (base + off))
  else if s.outside (bitsOf e 0 16) then .error 0xA0
  else .ok (.there (bitsOf e 0 16) (bitsOf e 16 8) (bitsOf e 24 16) off)

/-- The address word of a POOL message (R320). -/
def addressWord (slot key off : Nat) : List Byte := toLE 8 (off + slot * 2 ^ 30 + key * 2 ^ 38)

/-! ### Translation -/

/-- The KiB of die d's carve: the node cache's quarter and the stream cache, the latter cut first where the die's arena
leaves too little (R250). -/
def State.carveKib (s : State) (d : Nat) : Nat × Nat :=
  let a := s.reg (Reg.fxgDsArena d)
  let arenaEnd := if fld a 16 10 = 0 then 0 else (fld a 0 10 + fld a 16 10) * 1024
  let avail := 512 * 1024 - arenaEnd
  let node := Nat.min (s.regFld Reg.clmCacheCtrl 0 12 * 256) avail
  (node, Nat.min (s.regFld Reg.fxgScacheCtrl 0 9 * 1024) (avail - node))

/-- Arena k as (base, bytes): die k's for k < 4, else partition k − 4's HBM arena (R255). -/
def State.arena (s : State) (k : Nat) : Nat × Nat :=
  if k < 4 then
    let a := s.reg (Reg.fxgDsArena k)
    (sharedBase + k * 512 * mib + fld a 0 10 * mib, fld a 16 10 * mib)
  else
    let a := s.reg (Reg.fxgHbmArena (k - 4))
    (hbmBase + (k - 4) * 24 * gib + fld a 0 5 * gib, fld a 8 5 * gib)

/-- The save areas of partition p as (base, bytes) (R345). -/
def State.saveRange (s : State) (p : Nat) : Nat × Nat :=
  let c := s.reg (Reg.hubSaveCfg p)
  (fld c 26 22 * 2 ^ 26, 4 * fld c 0 10 * mib)

/-- The Hollyhock region of partition p (R270). -/
def hollyhockRange (p : Nat) : Nat × Nat := (hbmBase + p * 24 * gib + 21 * gib + 768 * mib, 2 * gib + 256 * mib)

/-- Does [pa, pa + n) meet what no page may map: arenas, carves, the Hollyhock regions, save areas (R245, R250, R270,
R345)? -/
def State.reservedRange (s : State) (pa n : Nat) : Bool :=
  (List.range 20).any (fun k => overlaps pa n (s.arena k).1 (s.arena k).2) ||
  (List.range 4).any (fun d =>
    let c := ((s.carveKib d).1 + (s.carveKib d).2) * 1024
    overlaps pa n (sharedBase + (d + 1) * 512 * mib - c) c) ||
  (List.range 16).any (fun p => overlaps pa n (hollyhockRange p).1 (hollyhockRange p).2 ||
    overlaps pa n (s.saveRange p).1 (s.saveRange p).2)

/-- Is every reserved bit of a page-table entry zero (Table 10.3)? -/
def pteClean (e : Nat) : Bool := decide (bitsOf e 48 16 = 0) && decide (bitsOf e 4 8 = 0)

/-- The page walk from level l on (R244, R245): the physical address and whether its line may be cached. -/
def State.walk (s : State) (va : Nat) (write : Bool) : Nat → Nat → Nat → Except Byte (Nat × Bool)
  | 0, _, _ => .error 0x82
  | fuel + 1, l, table =>
    if !(isRam table) then .error 0x82
    else if decide (regionOf table = .hbm) && decide (s.start.stage < 3) then .error 0x01
    else
      let e := leNat (s.bytes (table + 8 * bitsOf va (39 - 9 * l) 9) 8)
      let addr := bitsOf e 12 36 * 4096
      let size := 2 ^ (39 - 9 * l)
      if !(e.testBit 0) then .error 0x80
      else if !(pteClean e) then .error 0x82
      else if e.testBit 1 then
        if l = 0 || addr % size ≠ 0 || decide (regionOf addr = .none) ||
            decide (regionOf addr ≠ regionOf (addr + size - 1)) || s.reservedRange addr size then .error 0x82
        else if write && !(e.testBit 2) then .error 0x81
        else .ok (addr + va % size, e.testBit 3)
      else if l = 3 then .error 0x82
      else s.walk va write fuel (l + 1) addr

/-- The Foxglove entry of group g that holds offset off of arena k (R255). -/
def State.entryAt (s : State) (g k off : Nat) : Option FxgEntry :=
  (s.fxg.map Prod.snd).find? (fun e => decide (e.group = g) && decide (e.arena = k) && decide (e.offset ≤ off) &&
    decide (off < e.offset + e.granules * 65536))

/-- An aperture address (R254, R255); one whose arena has been moved out of every range of the map leads nowhere (R241). -/
def State.aperture (s : State) (g va : Nat) : Except Byte (Nat × Bool) :=
  let o := va - 0x080000000000
  let k := if o < 4 * gib then o / gib else (o - 4 * gib) / (32 * gib) + 4
  let off := if o < 4 * gib then o % gib else (o - 4 * gib) % (32 * gib)
  if 20 ≤ k then .error 0x80
  else match s.entryAt g k off with
    | some _ => .ok ((s.arena k).1 + off, false)
    | none => .error 0x80

/-- Is the address in the core-private window (R50)? -/
def isPrivate (va : Nat) : Bool := decide (0xFFFF00000000 ≤ va) && decide (va ≤ 0xFFFF0003FFFF)

/-- A 48-bit virtual address of job `job`, outside the core-private window (R243–R246). -/
def State.translate (s : State) (job : BitVec 16) (va : Nat) (write : Bool) : Except Byte (Nat × Bool) :=
  if 2 ^ 48 ≤ va then .error 0x80
  else match s.job job with
    | none => .error 0x80
    | some j =>
      if 0x080000000000 ≤ va ∧ va < 0x090000000000 then s.aperture j.group va
      else if isPrivate va then .error 0x80
      else s.walk va write 4 0 j.root

/-- The address that faulted and its code; or, with pieces (virtual address, pool address, length) in `awaits`, no failure: the
pieces of a peer's memory that are still to be read (R320, R322). -/
structure MemFail where
  code : Byte
  va : Nat
  awaits : List (Nat × Nat × Nat) := []
deriving DecidableEq, Repr

/-- Who makes an engine's accesses: its job, its class (AGENT of HUB_MMU_FAULT), its command (identity plus 1; 0 none) and what the
fabric pool has answered it. -/
structure Agent where
  job : BitVec 16
  cls : Nat
  cmd : Nat
  pool : List PoolPart
deriving DecidableEq, Repr

/-- The pieces of [va, va + n), none across a 4 KiB boundary: (address, length). -/
def pagePieces : Nat → Nat → Nat → List (Nat × Nat)
  | 0, _, _ => []
  | fuel + 1, va, n =>
    if n = 0 then []
    else
      let k := Nat.min n (4096 - va % 4096)
      (va, k) :: pagePieces fuel (va + k) (n - k)

/-- The physical pieces of an engine's region (R243–R247): every page translated, a write to the flash window or the
registers denied (R246), barred memory reported. -/
def State.pieces (s : State) (a : Agent) (va n : Nat) (write : Bool) : Except MemFail (List (Nat × Nat)) :=
  (pagePieces (n / 4096 + 2) va n).foldl (fun acc e =>
    match acc with
    | .error f => .error f
    | .ok ps =>
      match s.translate a.job e.1 write with
      | .error c => .error { code := c, va := e.1 }
      | .ok (pa, _) =>
        if write && decide (regionOf pa = .flash) then .error { code := 0x81, va := e.1 }
        else match s.barred pa with
          | some c => .error { code := c, va := e.1 }
          | none =>
            if regionOf pa = .pool then
              match s.poolTarget pa write with
              | .error c => .error { code := c, va := e.1 }
              | .ok _ => .ok (ps ++ [(pa, e.2)])
            else .ok (ps ++ [(pa, e.2)])) (.ok [])

/-- The address of a byte of the fabric pool at its home: in this module its physical address, in another a number above every
physical address (R319). -/
def homeKey (m slot off : Nat) : Nat := 2 ^ 56 + m * 2 ^ 38 + slot * 2 ^ 30 + off

/-- The address under which caches know a physical address: a pool address by its home (R25). -/
def State.home (s : State) (pa : Nat) : Nat :=
  if regionOf pa = .pool then
    match s.poolTarget pa false with
    | .ok (.here p) => p
    | .ok (.there m slot _ off) => homeKey m slot off
    | .error _ => pa
  else pa

/-- Does the answer cover pool address pa? -/
def PoolPart.holds (p : PoolPart) (pa : Nat) : Bool := decide (p.pa ≤ pa) && decide (pa < p.pa + p.n)

/-- The node cache's line that serves an access of Clematis to a peer's memory (R146): filled for its group, without an error. -/
def State.nodeLine (s : State) (a : Agent) (home : Nat) : Option AheadLine :=
  if a.cls = 2 then
    s.ahead.find? (fun l => l.node && !l.bad && decide (l.line = home / 256) && decide (some l.group = s.groupOfJob a.job) && !l.data.isEmpty)
  else none

/-- What is known of the byte of a peer's memory at pool address pa, whose home address is given: nothing yet, a failure's code, or
the byte (R320–R324). -/
def State.poolByte (s : State) (a : Agent) (pa home : Nat) : Option (Except Byte Byte) :=
  match a.pool.find? (fun p => p.holds pa) with
  | some p => some (if p.code = 0 then .ok (p.bytes.getD (pa - p.pa) 0) else .error p.code)
  | none => (s.nodeLine a home).map (fun l => .ok (l.data.getD (home % 256) 0))

/-- The bytes of SRAM or HBM that an agent reads (R406): where an earlier command, not yet completed, has written a 32-byte unit,
the later command sees what the unit held before or what it holds now, which of them is a free value (R32). -/
def State.seenByte (s : State) (a : Agent) (pa : Nat) : Byte :=
  match s.old.find? (fun o => decide (o.unit = pa / 32) && decide (o.cmd < a.cmd) && Config.seesOld a.cmd o.cmd o.unit) with
  | some o => o.bytes.getD (pa % 32) 0
  | none => if pa < sharedBase && !(s.ownerOf (pa / 64) = a.job) then 0 else s.byte pa

/-- n bytes of SRAM or HBM for an engine's read. -/
def State.seen (s : State) (a : Agent) (pa n : Nat) : List Byte := (List.range n).map (fun i => s.seenByte a (pa + i))

/-- The bytes of n bytes at pool address pa, or the code that fails the read (R320–R324); 0xFF where an answer is still awaited. -/
def State.poolRead (s : State) (a : Agent) (pa n : Nat) : Except Byte (List Byte) :=
  match s.poolTarget pa false with
  | .error c => .error c
  | .ok (.here p) => .ok (s.bytes p n)
  | .ok (.there m slot _ off) =>
    (List.range n).foldr (fun i acc => match acc, s.poolByte a (pa + i) (homeKey m slot off + i) with
      | .error c, _ => .error c
      | .ok _, none => .error 0xFF
      | .ok _, some (.error c) => .error c
      | .ok bs, some (.ok b) => .ok (b :: bs)) (.ok [])

/-- The bytes of one physical piece for an engine's read. -/
def State.readPiece (s : State) (a : Agent) (pa n : Nat) : Except Byte (List Byte) :=
  match regionOf pa with
  | .flash => .ok (s.flashRead (pa - flashBase) n)
  | .pool => s.poolRead a pa n
  | .registers => .ok ((List.range n).map (fun i => Config.engineRegisterByte (pa + i)))
  | .none => .ok (zeros n)
  | _ => .ok (s.seen a pa n)

/-- Is a byte of the piece in a peer's memory and not answered yet? -/
def State.unanswered (s : State) (a : Agent) (pa n : Nat) : Bool :=
  decide (regionOf pa = .pool) &&
    (match s.poolTarget pa false with
     | .ok (.there m slot _ off) => (List.range n).any (fun i => (s.poolByte a (pa + i) (homeKey m slot off + i)).isNone)
     | _ => false)

/-- The pieces of a region that a peer still has to answer: virtual address, pool address, length. -/
def State.unread (s : State) (a : Agent) (va n : Nat) (ps : List (Nat × Nat)) : List (Nat × Nat × Nat) :=
  (((pagePieces (n / 4096 + 2) va n).map Prod.fst).zip ps).filter (fun e => s.unanswered a e.2.1 e.2.2)

/-- The bytes of an engine's region (R247), or what stands in the way: a fault, a failed pool read, or answers still to come. -/
def State.load (s : State) (a : Agent) (va n : Nat) : Except MemFail (List Byte) :=
  match s.pieces a va n false with
  | .error f => .error f
  | .ok ps =>
    match s.unread a va n ps with
    | w :: ws => .error { code := 0xFF, va := va, awaits := w :: ws }
    | [] =>
      ps.foldl (fun acc e =>
        match acc with
        | .error f => .error f
        | .ok bs =>
          match s.readPiece a e.1 e.2 with
          | .error c => .error { code := c, va := va }
          | .ok b => .ok (bs ++ b)) (.ok [])

/-- Can every region of the list be read (R247)? -/
def State.readable (s : State) (a : Agent) (rs : List (Nat × Nat)) : Except MemFail Unit :=
  let fs := rs.filterMap (fun r => match s.load a r.1 r.2 with
    | .error f => some f
    | .ok _ => none)
  match fs with
  | [] => .ok ()
  | f :: _ => .error (if (fs.map MemFail.awaits).flatten.isEmpty then f else { f with awaits := (fs.map MemFail.awaits).flatten })

/-- Is a piece of the region poisoned (R354), an uncorrectable flash block (R277), or a peer's answer with POISON (R322)? -/
def State.piecesPoisoned (s : State) (a : Agent) (ps : List (Nat × Nat)) : Bool :=
  ps.any (fun e => match regionOf e.1 with
    | .flash => (blocksOf (e.1 - flashBase) e.2).any (fun b => (s.block b).bad)
    | .pool => match s.poolTarget e.1 false with
      | .ok (.here p) => s.poisoned p e.2
      | _ => a.pool.any (fun p => p.poison && overlaps p.pa p.n e.1 e.2)
    | _ => s.poisoned e.1 e.2)

/-- Is the region poisoned, as far as it translates? -/
def State.regionPoisoned (s : State) (a : Agent) (va n : Nat) : Bool :=
  match s.pieces a va n false with
  | .error _ => false
  | .ok ps => s.piecesPoisoned a ps

/-- The flash reads a region's read makes (R273). -/
def State.countRegion (s : State) (a : Agent) (va n : Nat) : State :=
  match s.pieces a va n false with
  | .error _ => s
  | .ok ps => ps.foldl (fun t e =>
      if regionOf e.1 = .flash then t.countFlashReads (blocksOf (e.1 - flashBase) e.2) else t) s

/-- HUB_MMU_FAULT of the lowest partition of the job's group records a fault (R248): codes 0x80–0x82 and 0x2C. -/
def State.mmuFault (s : State) (job : BitVec 16) (agent : Nat) (f : MemFail) : State :=
  match s.groupOfJob job with
  | none => s
  | some g =>
    if decide (0x80 ≤ f.code.toNat) && decide (f.code.toNat ≤ 0x82) || f.code = 0x2C then
      s.setReg (Reg.hubMmuFault g) (BitVec.ofNat 64 (f.code.toNat * 2 ^ 56 + agent * 2 ^ 52 + f.va % 2 ^ 48))
    else s

/-! ### Requests to the fabric pool -/

/-- Cut bytes into runs of at most 256, with their offsets (R320). -/
def runs256 : Nat → Nat → List Byte → List (Nat × List Byte)
  | 0, _, _ => []
  | fuel + 1, off, bs => if bs.isEmpty then [] else (off, bs.take 256) :: runs256 fuel (off + 256) (bs.drop 256)

/-- The runs of at most 256 bytes of n bytes: offset and length (R320). -/
def spans256 (n : Nat) : List (Nat × Nat) :=
  (List.range (ceilDiv n 256)).map (fun i => (256 * i, Nat.min 256 (n - 256 * i)))

/-- A request to the fabric pool is sent to the target it names and remembered until its response or timeout (R322, R324). -/
def State.request (s : State) (r : Req) (typ : Byte) (cls : BitVec 3) (poison : Bool) (payload : List Byte) : Except Byte State :=
  let m : Msg := { dst := r.target, src := BitVec.ofNat 16 s.moduleId, typ := typ, cls := cls, vc := false,
                   ttl := 128, poison := poison, tag := s.nextTag, payload := payload }
  match s.sendRouted m none with
  | .error c => .error c
  | .ok t => .ok { t with reqs := SMap.insert t.reqs s.nextTag.toNat { r with sent := s.now }, nextTag := s.nextTag + 1 }

/-- The request, which fills no line that n bytes at a home address touch. -/
def Req.withoutLine (r : Req) (home n : Nat) : Req :=
  match r.line with
  | none => r
  | some l => if l.meets home n then { r with line := none } else r

/-- The cached copies of n bytes at a home address are invalidated (R25), and a line still on its way there is not kept. -/
def State.dropHome (s : State) (home n : Nat) : State :=
  ({ s with reqs := s.reqs.map (fun e => (e.1, e.2.withoutLine home n)) } : State).dropLines home n

/-- Lines of group g still on their way from peers are not kept when they arrive. -/
def State.forgetFills (s : State) (g : Nat) : State :=
  { s with reqs := s.reqs.map (fun e => (e.1, match e.2.line with
      | none => e.2
      | some l => if l.group = g then { e.2 with line := none } else e.2)) }

/-- An acquire at scope S by a core of group g: the group's cached copies of peers' memory, which nobody keeps coherent with the
peers' writes, are not used any longer (R25, R28, R35; DEDUCED, log entry 69). -/
def State.dropPeers (s : State) (g : Nat) : State := (s.forgetFills g).evict (fun l => decide (l.group = g) && !l.data.isEmpty)

/-- A fabric write for core `core`, of one of its commands or none, has failed at a peer with a code: FENCE.S reports it (R28, R323),
and the command completes with the code (R247). -/
def State.failedWrite (s : State) (core : CoreId) (cmd : Nat) (peer : BitVec 16) (code : Byte) : State :=
  let t := s.setCore core { s.core core with writeFailed := some peer }
  if cmd = 0 ∨ (SMap.find t.writeFail (cmd - 1)).isSome then t
  else { t with writeFail := SMap.insert t.writeFail (cmd - 1) code }

/-- What the 32-byte units of [pa, pa + n) held is remembered until command cmd completes (R32). -/
def State.overwrites (s : State) (job : BitVec 16) (cmd pa n : Nat) : State :=
  if cmd = 0 ∨ n = 0 then s
  else
    let us := (List.range ((pa + n - 1) / 32 - pa / 32 + 1)).map (fun i => pa / 32 + i)
    let new := us.filter (fun u => !(s.old.any (fun o => decide (o.cmd = cmd) && decide (o.unit = u))))
    let olds : List OldUnit := new.map (fun u => { cmd := cmd, unit := u, bytes := s.ramRead job (32 * u) 32 })
    { s with old := s.old ++ olds }

/-- A pool write for core `core` (its store, or a command it enqueued: identity plus 1): local exports are written here, a remote one
is sent in pieces of at most 256 bytes; a piece that cannot be sent is a failed fabric write (R28, R320, R323). -/
def State.poolWrite (s : State) (core : CoreId) (job : BitVec 16) (cmd : Nat) (cls : BitVec 3) (va pa : Nat) (bs : List Byte)
    (bad : Bool) : State :=
  match s.poolTarget pa true with
  | .error c => s.failedWrite core cmd (BitVec.ofNat 16 s.moduleId) c
  | .ok (.here p) => (s.overwrites job cmd p bs.length).ramWrite job p bs bad
  | .ok (.there m slot key off) =>
    (runs256 (bs.length / 256 + 1) 0 bs).foldl (fun t e =>
      match t.request { kind := .write, core := core, job := job, cmd := cmd, target := BitVec.ofNat 16 m, seg := (pa - poolBase) / gib,
                        sent := 0, va := va, pa := pa + e.1, n := e.2.length, home := homeKey m slot (off + e.1), line := none }
          0x03 cls bad (addressWord slot key (off + e.1) ++ e.2) with
      | .ok u => u
      | .error c => t.failedWrite core cmd (BitVec.ofNat 16 m) c) (s.dropHome (homeKey m slot off) bs.length)

/-- An answer of the pool reaches the command with identity id. -/
def State.landPart (s : State) (id : Nat) (p : PoolPart) : State :=
  match s.cmd id with
  | none => s
  | some c => s.setCmd { c with pool := c.pool ++ [p] }

/-- A POOL_RD of n bytes at pool address pa for a command, unless it is under way (R320, R322). -/
def State.fetchRun (s : State) (c : Cmd) (cls : BitVec 3) (va pa n : Nat) : State :=
  if s.reqs.any (fun r => decide (r.2.kind = .read) && decide (r.2.cmd = c.id + 1) && decide (r.2.pa = pa)) then s
  else match s.poolTarget pa false with
    | .error k => s.landPart c.id { pa := pa, n := n, bytes := [], poison := false, code := k }
    | .ok (.here _) => s
    | .ok (.there m slot key off) =>
      match s.request { kind := .read, core := c.core, job := c.job, cmd := c.id + 1, target := BitVec.ofNat 16 m,
                        seg := (pa - poolBase) / gib, sent := 0, va := va, pa := pa, n := n, home := homeKey m slot off, line := none }
          0x01 cls false (addressWord slot key off ++ toLE 2 n) with
      | .ok t => t
      | .error k => s.landPart c.id { pa := pa, n := n, bytes := [], poison := false, code := k }

/-- A command asks for the pieces of peers' memory it awaits, in reads of at most 256 bytes (R320). -/
def State.fetch (s : State) (c : Cmd) (cls : BitVec 3) (ws : List (Nat × Nat × Nat)) : State :=
  ws.foldl (fun t w => (spans256 w.2.2).foldl (fun t e => t.fetchRun c cls (w.1 + e.1) (w.2.1 + e.1) e.2) t) s

/-- An engine's write of one physical piece. -/
def State.writePiece (s : State) (a : Agent) (core : CoreId) (cls : BitVec 3) (va pa : Nat) (bs : List Byte) (bad : Bool) : State :=
  match regionOf pa with
  | .pool => s.poolWrite core a.job a.cmd cls va pa bs bad
  | .flash => s
  | .registers => s
  | .none => s
  | _ => (s.overwrites a.job a.cmd pa bs.length).ramWrite a.job pa bs bad

/-- An engine's write of bytes at virtual address va (R247): where the address does not translate, nothing is written, the fault is recorded
and the command completes with the code. -/
def State.store (s : State) (a : Agent) (core : CoreId) (cls : BitVec 3) (va : Nat) (bs : List Byte) (bad : Bool) : State :=
  match s.pieces a va bs.length true with
  | .error f =>
    let t := s.mmuFault a.job a.cls f
    if a.cmd = 0 ∨ (SMap.find s.writeFail (a.cmd - 1)).isSome then t
    else { t with writeFail := SMap.insert t.writeFail (a.cmd - 1) f.code }
  | .ok ps =>
    (ps.foldl (fun (acc : State × Nat × List Byte) e =>
      (acc.1.writePiece a core cls acc.2.1 e.1 (acc.2.2.take e.2) bad, acc.2.1 + e.2, acc.2.2.drop e.2)) (s, va, bs)).1

end Sys2Proof.Machine
end

