-- ==== Sys2Proof/Machine/Trace.lean ====
section
/-!
DEFINITION. The trace records that events give rise to (R418–R420); TRACE_RECORD writes them to their buffers.
-/

namespace Sys2Proof.Machine

/-- The physical core that runs logical Peony core n (R11, R12). -/
def State.physCore (s : State) (n : Nat) : Nat :=
  let d := n / 12
  let b := s.regFld Reg.hubDieStatus (8 * d) 8
  if b.testBit 6 && decide (b % 16 = n % 12) then 13 * d + 12 else 13 * d + n % 12

/-- The unit ID of control core n (Table 15.8). -/
def coreUnit (n : CoreId) : BitVec 16 := BitVec.ofNat 16 (0x2000 + n.toNat)

/-- The unit ID of engine class cls, instance inst (Table 15.8). -/
def State.engineUnit (s : State) (cls inst : Nat) : BitVec 16 :=
  BitVec.ofNat 16 (match cls with
    | 0 => s.physCore inst
    | 1 => 0x1000 + inst
    | _ => 0x7000 + 256 * cls)

/-- Does buffer b trace partition p (16: no core's event, R418)? -/
def State.traces (s : State) (b p : Nat) : Bool :=
  let c := s.reg (Reg.dbgTraceCfg b)
  bitAt c 63 && (decide (16 ≤ p) || bitAt c (16 + p))

/-- An address record of core n (R419): a taken branch's target, or the faulting or stopping instruction. -/
def State.traceAddr (s : State) (n : CoreId) (kind : BitVec 2) (pc : BitVec 18) : State :=
  if s.traces 0 (partOfCore n) then { s with trace := s.trace ++ [.addr kind pc n s.now] } else s

/-- A tagged record of an event of partition p (R420, Table 18.2), compared by an armed trigger whether or not buffer 1
takes it (R422). -/
def State.traceTagged (s : State) (p : Nat) (unit : BitVec 16) (event status : Byte) (job tag : BitVec 16) (arg0 arg1 : Word) : State :=
  let wanted := s.traces 1 p && bitAt (s.reg (Reg.dbgTraceCfg 1)) (event.toNat - 1)
  if wanted || bitAt (s.reg Reg.dbgTrigger) 63 then
    { s with trace := s.trace ++ [.tagged wanted s.now unit event status job tag arg0 arg1] }
  else s

end Sys2Proof.Machine
end

