-- ==== Sys2Proof/Machine/Stem.lean ====
section
/-!
DEFINITION. Stem queues (R260–R264): bindings in effect, cells and quotas, putting and taking words.
-/

namespace Sys2Proof.Machine

/-- Queue q. -/
def State.queue (s : State) (q : Nat) : StemQ := SMap.get StemQ.empty s.stem q

/-- Queue q becomes x. -/
def State.setQueue (s : State) (q : Nat) (x : StemQ) : State := { s with stem := SMap.set StemQ.empty s.stem q x }

/-- KIND of queue q in effect (Table 10.7). -/
def State.qKind (s : State) (q : Nat) : Nat := s.regFld (Reg.stmQcfg q) 0 3

def State.qOwner (s : State) (q : Nat) : Nat := s.regFld (Reg.stmQcfg q) 12 4
def State.qCap (s : State) (q : Nat) : Nat := s.regFld (Reg.stmQcfg q) 16 16
def State.qPutJob (s : State) (q : Nat) : BitVec 16 := BitVec.ofNat 16 (s.regFld (Reg.stmQcfg q) 32 16)
def State.qGetJob (s : State) (q : Nat) : BitVec 16 := BitVec.ofNat 16 (s.regFld (Reg.stmQcfg q) 48 16)
def State.qTarget (s : State) (q : Nat) : Nat := s.regFld (Reg.stmQtgt q) 0 24

/-- Does a kind have a putting job? -/
def kindPuts (k : Nat) : Bool := k = 1 || k = 2 || k = 4

/-- Does a kind have a getting job? -/
def kindGets (k : Nat) : Bool := k = 1 || k = 3 || k = 5

/-- Is the queue bound: a kind of Table 10.7, every job it names live (R261, R262)? -/
def State.qBound (s : State) (q : Nat) : Bool :=
  let k := s.qKind q
  decide (1 ≤ k) && decide (k ≤ 5) && (!(kindPuts k) || s.isLive (s.qPutJob q)) && (!(kindGets k) || s.isLive (s.qGetJob q))

/-- Is queue q bound to the job for putting (R66)? DEDUCED (log 12): the binding of STM_QCFG decides, and a queue whose
other job is not live only holds no words and discards puts, as R262 lists. -/
def State.boundPut (s : State) (q : Nat) (job : BitVec 16) : Bool :=
  kindPuts (s.qKind q) && decide (s.qPutJob q = job) && s.isLive job

/-- Is queue q bound to the job for getting (R66)? -/
def State.boundGet (s : State) (q : Nat) (job : BitVec 16) : Bool :=
  kindGets (s.qKind q) && decide (s.qGetJob q = job) && s.isLive job

/-- The scope of queue q: D for kind 1, S for the kinds bound to a host or a port (R34, Table 10.7). -/
def State.qScope (s : State) (q : Nat) : Scope := if s.qKind q = 1 then .d else .s

/-- The cells a queue holds (R260): its last cell, and the cells its earlier words need. -/
def StemQ.cells (x : StemQ) : Nat := if x.words.isEmpty then 0 else 1 + ceilDiv (x.words.length - x.pos) 8

/-- Does a put to the queue need a new cell (R260)? -/
def StemQ.needsCell (x : StemQ) : Bool := x.words.isEmpty || decide (8 ≤ x.pos)

/-- The cells held by the queues partition p owns. -/
def State.cellsOf (s : State) (p : Nat) : Nat :=
  (s.stem.filter (fun e => decide (s.qOwner e.1 = p))).foldl (fun n e => n + e.2.cells) 0

/-- The cells held by all queues. -/
def State.cellsUsed (s : State) : Nat := s.stem.foldl (fun n e => n + e.2.cells) 0

/-- Can a word enter queue q now (R263)? A queue that acts as unbound takes every word, and discards it (R262). -/
def State.hasRoom (s : State) (q : Nat) : Bool :=
  let x := s.queue q
  !(s.qBound q) || !x.needsCell ||
    ((s.qCap q = 0 || decide (x.cells < s.qCap q)) &&
     decide (s.cellsOf (s.qOwner q) < s.regFld (Reg.stmPartQuota (s.qOwner q)) 0 19) &&
     decide (s.cellsUsed < 262144))

/-- The queue with one more word (R260). -/
def StemQ.push (x : StemQ) (w : QWord) : StemQ :=
  { x with words := x.words ++ [w], pos := if x.needsCell then 1 else x.pos + 1 }

/-- The queue without its first word. -/
def StemQ.pop (x : StemQ) : StemQ := { x with words := x.words.drop 1 }

/-- A word enters queue q. -/
def State.pushWord (s : State) (q : Nat) (w : QWord) : State := s.setQueue q ((s.queue q).push w)

/-- A word put on queue q takes its place, or is discarded and counted on a queue that acts as unbound (R262). -/
def State.acceptWord (s : State) (q : Nat) (w : QWord) : State :=
  if s.qBound q then s.pushWord q w else s.bump Reg.stmDiscard 1

/-- Cadence channel k. -/
def State.cad (s : State) (k : Nat) : Cadence := SMap.get Cadence.off s.cadence k

/-- Cadence channel k becomes x. -/
def State.setCad (s : State) (k : Nat) (x : Cadence) : State := { s with cadence := SMap.set Cadence.off s.cadence k x }

/-- A word leaves its queue: a tick's channel sees it taken now (R238). -/
def State.wordTaken (s : State) (w : QWord) : State :=
  if w.tick = 0 then s else s.setCad (w.tick - 1) { s.cad (w.tick - 1) with waiting := false, taken := s.now }

/-- The first word leaves queue q. -/
def State.popWord (s : State) (q : Nat) : State :=
  let x := s.queue q
  match x.words with
  | [] => s
  | w :: _ => (s.setQueue q x.pop).wordTaken w

/-- A unit of the module puts a word (R262, R263): discarded and counted on an unbound queue; into the queue when it has
room and nobody waits before it; else it waits in line. -/
def State.unitPut (s : State) (q : Nat) (w : QWord) : State :=
  if !(s.qBound q) then s.bump Reg.stmDiscard 1
  else
    let x := s.queue q
    if x.waiting.isEmpty && s.hasRoom q then s.acceptWord q w
    else s.setQueue q { x with waiting := x.waiting ++ [{ who := .unit, word := w }] }

/-- Is a fabric write of core n for a job without acknowledgement: the core's own (cmd 0), or a command's (its identity plus 1)? -/
def State.writesOf (s : State) (n : CoreId) (job : BitVec 16) (cmd : Nat) : Bool :=
  s.reqs.any (fun e => decide (e.2.kind = .write) && decide (e.2.core = n) && decide (e.2.job = job) && decide (e.2.cmd = cmd))

/-- A unit puts a word as a release (R34, R35, R39): once the fabric writes it follows are acknowledged. -/
def State.releasePut (s : State) (h : HeldPut) : State :=
  if s.writesOf h.core h.job h.cmd then { s with held := s.held ++ [h] } else s.unitPut h.queue h.word

/-- The releases that waited for acknowledgements and wait no longer are put, in order. -/
def State.flushHeld (s : State) : State :=
  let wait := fun (h : HeldPut) => s.writesOf h.core h.job h.cmd
  (s.held.filter (fun h => !(wait h))).foldl (fun t h => t.unitPut h.queue h.word) { s with held := s.held.filter wait }

/-- Would a unit's put on queue q enter at once? -/
def State.wouldEnter (s : State) (q : Nat) : Bool := (s.queue q).waiting.isEmpty && s.hasRoom q

/-- The words of queue q are discarded and counted in STM_DISCARD; units' waiting puts with them (R262); a discarded tick no longer waits. -/
def State.discardWords (s : State) (q : Nat) : State :=
  let x := s.queue q
  let n := x.words.length + (x.waiting.filter (fun w => w.who = .unit)).length
  (x.words.foldl (fun t w => t.wordTaken w) (if n = 0 then s else s.bump Reg.stmDiscard n)).setQueue q
    { x with words := [], pos := 0, head := none, aster := false, waiting := x.waiting.filter (fun w => !(w.who = .unit)) }

/-- The packets waiting: words that carry an end mark (R68, R264). -/
def StemQ.packets (x : StemQ) : Nat := (x.words.filter QWord.last).length

/-- A 32-byte word from bytes. -/
def wordOfBytes (bs : List Byte) (last : Bool) : QWord := { data := BitVec.ofNat 256 (leNat bs), last := last, tick := 0 }

end Sys2Proof.Machine
end

