-- ==== Sys2Proof/Machine/Ops.lean ====
section
/-!
DEFINITION. The named operations of a control core: its registers and predicates, issuing an instruction under its guard,
advancing the program counter, faulting (R74, R342), and the events that stop issue.
-/

namespace Sys2Proof.Machine

/-- Register g[r]: g0 reads as zero (R50). -/
def Core.greg (c : Core) (r : GReg) : Word := if r = 0 then 0 else SMap.get 0 c.g r.toNat

/-- g[r] becomes v: a write of g0 is discarded (R50). -/
def Core.setG (c : Core) (r : GReg) (v : Word) : Core := if r = 0 then c else { c with g := SMap.set 0 c.g r.toNat v }

/-- Predicate p[r]: p0 reads as 1 (R50). -/
def Core.pred (c : Core) (r : PReg) : Bool := r = 0 || bitAt c.p r.toNat

/-- p[r] becomes v: a write of p0 is discarded (R50). -/
def Core.setP (c : Core) (r : PReg) (v : Bool) : Core :=
  if r = 0 then c
  else
    let m : BitVec 8 := 1#8 <<< r.toNat
    { c with p := if v then c.p ||| m else c.p &&& ~~~m }

/-- Does the guard let the instruction take effect (R53)? -/
def Core.guard (c : Core) (gd : Guard) : Bool := (c.pred gd.pg) ^^ gd.pn

/-- Completion slot s. -/
def Core.slot (c : Core) (k : Nat) : Slot := SMap.get Slot.free c.slots k

/-- Completion slot k becomes v. -/
def Core.setSlot (c : Core) (k : Nat) (v : Slot) : Core := { c with slots := SMap.set Slot.free c.slots k v }

/-- The last word address of instruction memory (R62). -/
def lastPc : BitVec 18 := 0x3FFFC

/-- The fault word of R342. -/
def faultWord (now : Word) (n : CoreId) (code : Byte) (pc : BitVec 18) (va : Nat) (job : BitVec 16) : QWord :=
  wordOfBytes (toLE 8 now.toNat ++ toLE 1 n.toNat ++ [code] ++ zeros 2 ++ toLE 4 pc.toNat ++ toLE 8 (va % 2 ^ 48) ++
    toLE 2 job.toNat ++ zeros 6) true

/-- The fault word is put on the job's fault queue when FAULT_EN = 1 and the queue is bound to the job for putting
(R342), as a release. -/
def State.postFault (s : State) (n : CoreId) (code : Byte) (pc : BitVec 18) (va : Nat) : State :=
  let id := (s.core n).job
  match s.job id with
  | none => s
  | some j =>
    if j.faultEn && s.boundPut j.faultQ.toNat id then
      s.releasePut { queue := j.faultQ.toNat, core := n, job := id, cmd := 0, word := faultWord s.now n code pc va id }
    else s

/-- A recovery of group g begins (R360); one already in progress goes on. -/
def State.beginRecovery (s : State) (g : Nat) (code : Byte) (unit : BitVec 16) : State :=
  if !(s.jobs.any (fun j => decide (j.group = g) && decide (j.state = .running) && !j.killed)) || (SMap.find s.recoveries g).isSome then s
  else { s with recoveries := SMap.insert s.recoveries g { code := code, unit := unit } }

/-- Control core n faults (R74): STATE, code, the faulting program counter and address are recorded, the core stops, the
fault word is posted (R342); 0xC0 and 0xC1 begin a recovery of the group (R360). -/
def State.coreFault (s : State) (n : CoreId) (code : Byte) (va : Nat) : State :=
  let c := s.core n
  let s1 := (s.setCore n { c with state := .faulted, faultCode := code, faultAddr := BitVec.ofNat 48 va, blocked := none,
                                  runAhead := none }).postFault n code c.pc va
  let s1 := (s1.traceAddr n 1 c.pc).traceTagged (partOfCore n) (coreUnit n) 0x05 code c.job 0 (BitVec.ofNat 64 (va % 2 ^ 48))
    (BitVec.ofNat 64 c.pc.toNat)
  if code = 0xC0 || code = 0xC1 then s1.beginRecovery (s.groupOfCore n) code (coreUnit n) else s1

/-- A module-wide or group-wide stop of issue holds core n: a trip (R397), a global stop (R366), a fatal fault (R364),
pre-emption (R347), rotation for power (R389), a breakpoint (R426). -/
def State.issueHeld (s : State) (n : CoreId) : Bool :=
  let c := s.core n
  s.tripped || s.stopped || s.fatal || c.stopPower || c.brkStop || c.brkDrain ||
    (SMap.find s.recoveries (s.groupOfCore n)).isSome ||
    (match s.job c.job with
     | some j => !(j.state = .running)
     | none => true)

/-- Can core n issue an instruction: running, not waiting, not held? -/
def State.canIssue (s : State) (n : CoreId) : Bool :=
  decide ((s.core n).state = .running) && decide ((s.core n).blocked = none) && !(s.issueHeld n)

/-- The instruction counts as issued in its partition's counters (R53, R414), and a stepped core stops again (R427). -/
def State.countIssue (s : State) (n : CoreId) : State :=
  let s1 := s.bump (Reg.dbgPartCnt (partOfCore n) 0) 1
  let c := s1.core n
  let drain := bitAt (s.reg (Reg.dbgBrkCfg (s.groupOfCore n))) 30
  if c.brkStep then s1.setCore n { c with brkStep := false, brkDrain := drain, brkStop := !drain } else s1

/-- Core n goes on to the next instruction; past the last word it faults with CC_FETCH_RANGE at the last word (R62). -/
def State.advance (s : State) (n : CoreId) : State :=
  let c := s.core n
  if c.pc = lastPc then s.coreFault n 0x2A 0 else s.setCore n { c with pc := c.pc + 4 }

/-- Core n goes on at a branch target, a byte address that may lie outside instruction memory (R62). -/
def State.jump (s : State) (n : CoreId) (target : Int) : State :=
  if 0 ≤ target ∧ target ≤ 0x3FFFC then s.setCore n { s.core n with pc := BitVec.ofNat 18 target.toNat }
  else s.coreFault n 0x2A 0

/-- May the instruction run ahead of an unresolved branch (R64)? -/
inductive AheadKind where
  | plain
  | load
  | never
deriving DecidableEq, Repr

/-- Core n's run-ahead has issued one more instruction, one more load (R45). -/
def Core.ranAhead (c : Core) (load : Bool) : Core :=
  match c.runAhead with
  | none => c
  | some r => { c with runAhead := some { r with instrs := r.instrs + 1, loads := r.loads + b2n load } }

/-- Does run-ahead let core n issue an instruction of this kind now (R45, R64)? -/
def Core.aheadOk (c : Core) (k : AheadKind) : Bool :=
  match c.runAhead with
  | none => true
  | some r =>
    match k with
    | .never => false
    | .plain => decide (r.instrs < 48)
    | .load => decide (r.instrs < 48) && decide (r.loads < 16)

/-- Issue of one instruction by core n (R53, R54): a malformed encoding faults with CC_ILLEGAL_INSTRUCTION whatever its
guard; a false guard counts as issued and does nothing; else the effect, which also moves the program counter. An
instruction that core n cannot issue now does not happen (log entry 2); run-ahead waits at the last word. -/
def State.issue (s : State) (n : CoreId) (gd : Guard) (kind : AheadKind) (legal : Bool) (effect : State → State) : State :=
  if !(s.canIssue n) || !((s.core n).aheadOk kind) || ((s.core n).runAhead.isSome && decide ((s.core n).pc = lastPc)) then s
  else if !legal then
    if (s.core n).runAhead.isSome then s else (s.countIssue n).coreFault n 0x28 0
  else if (s.core n).guard gd then
    let s1 := s.countIssue n
    effect (s1.setCore n ((s1.core n).ranAhead (decide (kind = .load))))
  else
    let s1 := s.countIssue n
    (s1.setCore n ((s1.core n).ranAhead false)).advance n

/-- The effect of an instruction that writes rd and goes on. -/
def State.writeG (s : State) (n : CoreId) (rd : GReg) (v : Word) : State :=
  (s.setCore n ((s.core n).setG rd v)).advance n

/-- The effect of an instruction that writes predicate pd and goes on. -/
def State.writeP (s : State) (n : CoreId) (pd : PReg) (v : Bool) : State :=
  (s.setCore n ((s.core n).setP pd v)).advance n

end Sys2Proof.Machine
end

