-- ==== Sys2Proof/Machine/CoreAlu.lean ====
section
/-!
DEFINITION. The integer and predicate instructions of the control cores (R53–R57), Table 3.4 and Table 3.5.
-/

namespace Sys2Proof.Machine

/-- An ALU instruction that writes f of the core's registers to rd. -/
def aluOp (n : CoreId) (gd : Guard) (rd : GReg) (legal : Bool) (f : Core → Word) (s : State) :
    Host.Outcome State Fault Refusal :=
  .next (s.issue n gd .plain legal (fun t => t.writeG n rd (f (t.core n))))

/-- A predicate instruction that writes f of the core's registers to pd. -/
def predOp (n : CoreId) (gd : Guard) (pd : PReg) (legal : Bool) (f : Core → Bool) (s : State) :
    Host.Outcome State Fault Refusal :=
  .next (s.issue n gd .plain legal (fun t => t.writeP n pd (f (t.core n))))

/-- ADD: rs1 + rs2 modulo 2^64 (Table 3.4, R55). -/
def aluAdd (s1 s2 : Word) : Word := s1 + s2

/-- ADD writes its result to rd (R55). -/
def execAdd (c : CoreId) (gd : Guard) (rd rs1 rs2 : GReg) (s : State) : Host.Outcome State Fault Refusal :=
  aluOp c gd rd true (fun k => aluAdd (k.greg rs1) (k.greg rs2)) s

/-- SUB: rs1 − rs2 modulo 2^64 (Table 3.4, R55). -/
def aluSub (s1 s2 : Word) : Word := s1 - s2

/-- SUB writes its result to rd (R55). -/
def execSub (c : CoreId) (gd : Guard) (rd rs1 rs2 : GReg) (s : State) : Host.Outcome State Fault Refusal :=
  aluOp c gd rd true (fun k => aluSub (k.greg rs1) (k.greg rs2)) s

/-- AND (Table 3.4, R55). -/
def aluAnd (s1 s2 : Word) : Word := s1 &&& s2

/-- AND writes its result to rd (R55). -/
def execAnd (c : CoreId) (gd : Guard) (rd rs1 rs2 : GReg) (s : State) : Host.Outcome State Fault Refusal :=
  aluOp c gd rd true (fun k => aluAnd (k.greg rs1) (k.greg rs2)) s

/-- OR (Table 3.4, R55). -/
def aluOr (s1 s2 : Word) : Word := s1 ||| s2

/-- OR writes its result to rd (R55). -/
def execOr (c : CoreId) (gd : Guard) (rd rs1 rs2 : GReg) (s : State) : Host.Outcome State Fault Refusal :=
  aluOp c gd rd true (fun k => aluOr (k.greg rs1) (k.greg rs2)) s

/-- XOR (Table 3.4, R55). -/
def aluXor (s1 s2 : Word) : Word := s1 ^^^ s2

/-- XOR writes its result to rd (R55). -/
def execXor (c : CoreId) (gd : Guard) (rd rs1 rs2 : GReg) (s : State) : Host.Outcome State Fault Refusal :=
  aluOp c gd rd true (fun k => aluXor (k.greg rs1) (k.greg rs2)) s

/-- SLL: shift left by rs2[5:0] (Table 3.4, R55). -/
def aluSll (s1 s2 : Word) : Word := s1 <<< shiftAmount s2

/-- SLL writes its result to rd (R55). -/
def execSll (c : CoreId) (gd : Guard) (rd rs1 rs2 : GReg) (s : State) : Host.Outcome State Fault Refusal :=
  aluOp c gd rd true (fun k => aluSll (k.greg rs1) (k.greg rs2)) s

/-- SRL: shift right by rs2[5:0], zero fill (Table 3.4, R55). -/
def aluSrl (s1 s2 : Word) : Word := s1 >>> shiftAmount s2

/-- SRL writes its result to rd (R55). -/
def execSrl (c : CoreId) (gd : Guard) (rd rs1 rs2 : GReg) (s : State) : Host.Outcome State Fault Refusal :=
  aluOp c gd rd true (fun k => aluSrl (k.greg rs1) (k.greg rs2)) s

/-- SRA: shift right by rs2[5:0], sign fill (Table 3.4, R55). -/
def aluSra (s1 s2 : Word) : Word := s1.sshiftRight (shiftAmount s2)

/-- SRA writes its result to rd (R55). -/
def execSra (c : CoreId) (gd : Guard) (rd rs1 rs2 : GReg) (s : State) : Host.Outcome State Fault Refusal :=
  aluOp c gd rd true (fun k => aluSra (k.greg rs1) (k.greg rs2)) s

/-- MUL: the low 64 bits of the product (Table 3.4, R55). -/
def aluMul (s1 s2 : Word) : Word := s1 * s2

/-- MUL writes its result to rd (R55). -/
def execMul (c : CoreId) (gd : Guard) (rd rs1 rs2 : GReg) (s : State) : Host.Outcome State Fault Refusal :=
  aluOp c gd rd true (fun k => aluMul (k.greg rs1) (k.greg rs2)) s

/-- MULH: the high 64 bits of the signed product (Table 3.4, R55). -/
def aluMulh (s1 s2 : Word) : Word := mulHigh s1 s2

/-- MULH writes its result to rd (R55). -/
def execMulh (c : CoreId) (gd : Guard) (rd rs1 rs2 : GReg) (s : State) : Host.Outcome State Fault Refusal :=
  aluOp c gd rd true (fun k => aluMulh (k.greg rs1) (k.greg rs2)) s

/-- MULHU: the high 64 bits of the unsigned product (Table 3.4, R55). -/
def aluMulhu (s1 s2 : Word) : Word := mulHighU s1 s2

/-- MULHU writes its result to rd (R55). -/
def execMulhu (c : CoreId) (gd : Guard) (rd rs1 rs2 : GReg) (s : State) : Host.Outcome State Fault Refusal :=
  aluOp c gd rd true (fun k => aluMulhu (k.greg rs1) (k.greg rs2)) s

/-- MIN: the signed minimum (Table 3.4, R55). -/
def aluMin (s1 s2 : Word) : Word := if s1.slt s2 then s1 else s2

/-- MIN writes its result to rd (R55). -/
def execMin (c : CoreId) (gd : Guard) (rd rs1 rs2 : GReg) (s : State) : Host.Outcome State Fault Refusal :=
  aluOp c gd rd true (fun k => aluMin (k.greg rs1) (k.greg rs2)) s

/-- MAX: the signed maximum (Table 3.4, R55). -/
def aluMax (s1 s2 : Word) : Word := if s1.slt s2 then s2 else s1

/-- MAX writes its result to rd (R55). -/
def execMax (c : CoreId) (gd : Guard) (rd rs1 rs2 : GReg) (s : State) : Host.Outcome State Fault Refusal :=
  aluOp c gd rd true (fun k => aluMax (k.greg rs1) (k.greg rs2)) s

/-- MINU: the unsigned minimum (Table 3.4, R55). -/
def aluMinu (s1 s2 : Word) : Word := if s1.ult s2 then s1 else s2

/-- MINU writes its result to rd (R55). -/
def execMinu (c : CoreId) (gd : Guard) (rd rs1 rs2 : GReg) (s : State) : Host.Outcome State Fault Refusal :=
  aluOp c gd rd true (fun k => aluMinu (k.greg rs1) (k.greg rs2)) s

/-- MAXU: the unsigned maximum (Table 3.4, R55). -/
def aluMaxu (s1 s2 : Word) : Word := if s1.ult s2 then s2 else s1

/-- MAXU writes its result to rd (R55). -/
def execMaxu (c : CoreId) (gd : Guard) (rd rs1 rs2 : GReg) (s : State) : Host.Outcome State Fault Refusal :=
  aluOp c gd rd true (fun k => aluMaxu (k.greg rs1) (k.greg rs2)) s

/-- ADDI: rs1 with the sign-extended imm12 (R55). -/
def execAddi (c : CoreId) (gd : Guard) (rd rs1 : GReg) (imm : BitVec 12) (s : State) : Host.Outcome State Fault Refusal :=
  aluOp c gd rd true (fun k => k.greg rs1 + imm12 imm) s

/-- ANDI: rs1 with the sign-extended imm12 (R55). -/
def execAndi (c : CoreId) (gd : Guard) (rd rs1 : GReg) (imm : BitVec 12) (s : State) : Host.Outcome State Fault Refusal :=
  aluOp c gd rd true (fun k => k.greg rs1 &&& imm12 imm) s

/-- ORI: rs1 with the sign-extended imm12 (R55). -/
def execOri (c : CoreId) (gd : Guard) (rd rs1 : GReg) (imm : BitVec 12) (s : State) : Host.Outcome State Fault Refusal :=
  aluOp c gd rd true (fun k => k.greg rs1 ||| imm12 imm) s

/-- XORI: rs1 with the sign-extended imm12 (R55). -/
def execXori (c : CoreId) (gd : Guard) (rd rs1 : GReg) (imm : BitVec 12) (s : State) : Host.Outcome State Fault Refusal :=
  aluOp c gd rd true (fun k => k.greg rs1 ^^^ imm12 imm) s

/-- SHI: imm12 bits [7:6] select the shift, bits [5:0] the amount; bits [11:8] must be zero (R55). -/
def execShi (c : CoreId) (gd : Guard) (rd rs1 : GReg) (imm : BitVec 12) (s : State) : Host.Outcome State Fault Refusal :=
  aluOp c gd rd (decide (fld imm 8 4 = 0)) (fun k => shiftImm (k.greg rs1) imm) s

/-- MOVZ: imm16 shifted by 16 * HW, every other bit zero (R56). -/
def execMovz (c : CoreId) (gd : Guard) (rd : GReg) (hw : Bool) (imm : BitVec 16) (s : State) : Host.Outcome State Fault Refusal :=
  aluOp c gd rd true (fun _ => BitVec.setWidth 64 imm <<< (16 * b2n hw)) s

/-- MOVK.L: bits [16 * HW + 15 : 16 * HW] of rd become imm16 (R56). -/
def execMovkL (c : CoreId) (gd : Guard) (rd : GReg) (hw : Bool) (imm : BitVec 16) (s : State) : Host.Outcome State Fault Refusal :=
  aluOp c gd rd true (fun k => setFld (k.greg rd) (16 * b2n hw) 16 imm.toNat) s

/-- MOVK.H: bits [16 * HW + 47 : 16 * HW + 32] of rd become imm16 (R56). -/
def execMovkH (c : CoreId) (gd : Guard) (rd : GReg) (hw : Bool) (imm : BitVec 16) (s : State) : Host.Outcome State Fault Refusal :=
  aluOp c gd rd true (fun k => setFld (k.greg rd) (16 * b2n hw + 32) 16 imm.toNat) s

/-- CMP: pd is rd[2:0]; rd[4:3] and FN[6:3] must be zero, FN[2:0] is a condition of Table 3.5 (R57). -/
def execCmp (c : CoreId) (gd : Guard) (rd rs1 rs2 : GReg) (fn : BitVec 7) (s : State) : Host.Outcome State Fault Refusal :=
  predOp c gd (low3 rd) (upperZero rd && decide (fld fn 3 4 = 0) && condOk (BitVec.setWidth 3 fn))
    (fun k => condHolds (BitVec.setWidth 3 fn) (k.greg rs1) (k.greg rs2)) s

/-- CMPI: rs1 against the sign-extended imm11 (R57). -/
def execCmpi (c : CoreId) (gd : Guard) (cc : BitVec 3) (pd : PReg) (rs1 : GReg) (imm : BitVec 11) (s : State) :
    Host.Outcome State Fault Refusal :=
  predOp c gd pd (condOk cc) (fun k => condHolds cc (k.greg rs1) (BitVec.signExtend 64 imm)) s

/-- PLOG: pd = pa op pb, the operation in FN: 0 AND, 1 OR, 2 XOR, 3 ANDN (R57). -/
def execPlog (c : CoreId) (gd : Guard) (rd rs1 rs2 : GReg) (fn : BitVec 7) (s : State) : Host.Outcome State Fault Refusal :=
  predOp c gd (low3 rd) (upperZero rd && upperZero rs1 && upperZero rs2 && decide (fn.toNat < 4))
    (fun k => predLogic fn (k.pred (low3 rs1)) (k.pred (low3 rs2))) s

end Sys2Proof.Machine
end

