-- ==== Sys2Proof/Machine/CoreBranch.lean ====
section
/-!
DEFINITION. Branches and branch run-ahead (R61–R65).
-/

namespace Sys2Proof.Machine

/-- Is the path in instruction memory? -/
def pathInRange (target : Int) : Bool := decide (0 ≤ target) && decide (target ≤ 0x3FFFC)

/-- A taken branch of core n: BL writes the next instruction's address to g31; a target outside instruction memory
faults at the branch, which then writes nothing (R61, R62). -/
def State.takeBranch (s : State) (n : CoreId) (link : Bool) (target : Int) : State :=
  let c := s.core n
  if pathInRange target && link then
    (s.setCore n (c.setG 31 (BitVec.ofNat 64 (c.pc.toNat + 4)))).jump n target
  else s.jump n target

/-- A taken branch that is architectural is traced with its target (R419); one that faulted is not. -/
def State.tracedBranch (s : State) (n : CoreId) : State :=
  if (s.core n).state = .faulted then s else s.traceAddr n 0 (s.core n).pc

/-- The prediction of an unresolved branch: taken when off21 is negative, inverted by H (R63). -/
def predictTaken (off : BitVec 21) (h : Bool) : Bool := off.msb ^^ h

/-- An unresolved branch issues (R63, R64): with run-ahead disabled, already ahead, or a predicted path outside
instruction memory, the core stalls; else it saves the shadow copy and goes on along the predicted path. -/
def State.runAheadAt (s : State) (n : CoreId) (gd : Guard) (h link : Bool) (off : BitVec 21) : State :=
  let c := s.core n
  let target := branchTarget c.pc off
  let guess := predictTaken off h
  if !(s.canIssue n) || c.runAhead.isSome || s.specOff 0 then s
  else if !(pathInRange (if guess then target else (c.pc.toNat : Int) + 4)) then s
  else
    let s1 := s.countIssue n
    let c := s1.core n
    let shadow : RunAhead :=
      { taken := c.guard gd, predicted := guess, branchPc := c.pc, target := target, link := link, savedG := c.g,
        savedP := c.p, instrs := 0, loads := 0, poison := none, errors := 0 }
    let s2 := s1.setCore n { c with runAhead := some shadow }
    if guess then s2.takeBranch n link target else s2.advance n

/-- B and BL (R61, R63): a guard that is unresolved starts run-ahead; else the branch is taken when its guard holds. -/
def branchOp (n : CoreId) (gd : Guard) (h link : Bool) (off : BitVec 21) (resolved : Bool) (s : State) :
    Host.Outcome State Fault Refusal :=
  if resolved || gd.pg = 0 then
    .next (s.issue n gd .never true (fun t => (t.takeBranch n link (branchTarget (t.core n).pc off)).tracedBranch n))
  else .next (s.runAheadAt n gd h link off)

/-- B: jumps to its own address plus 4 * off21 (R61). -/
def execB (c : CoreId) (gd : Guard) (h : Bool) (off : BitVec 21) (resolved : Bool) (s : State) :
    Host.Outcome State Fault Refusal :=
  branchOp c gd h false off resolved s

/-- BL: like B, and g31 receives the address of the next instruction (R61). -/
def execBl (c : CoreId) (gd : Guard) (h : Bool) (off : BitVec 21) (resolved : Bool) (s : State) :
    Host.Outcome State Fault Refusal :=
  branchOp c gd h true off resolved s

/-- BR: jumps to rs1[17:0] and writes the next instruction's address to rd; rs1[1:0] must be zero, else CC_MISALIGNED
(R61). -/
def execBr (c : CoreId) (gd : Guard) (rd rs1 rs2 : GReg) (fn : BitVec 7) (s : State) : Host.Outcome State Fault Refusal :=
  .next (s.issue c gd .never (rs2 = 0 && fn = 0) (fun t =>
    let k := t.core c
    let v := k.greg rs1
    if fld v 0 2 ≠ 0 then t.coreFault c 0x29 0
    else ((t.setCore c (k.setG rd (BitVec.ofNat 64 (k.pc.toNat + 4)))).jump c (fld v 0 18 : Nat)).tracedBranch c))

/-- The unresolved branch of core n resolves (R65). As predicted: the run-ahead results are architectural; where a load
of theirs met poisoned data, the core returns to that load and repeats it without speculation (R42). Otherwise: every
register and predicate returns to its value at the branch, a load that awaits the fabric pool is given up, the other path is taken,
the squashed instructions count in HUB_SQUASH0, and each read that met an error in MGD_SPEC_ERR. -/
def execBranchResolve (c : CoreId) (s : State) : Host.Outcome State Fault Refusal :=
  let k := s.core c
  match k.runAhead with
  | none => .next s
  | some r =>
    if r.taken = r.predicted then
      let s1 := s.validate 0 (partOfCore c) r.instrs
      let s1 := if r.taken then s1.traceAddr c 0 (BitVec.ofNat 18 r.target.toNat) else s1
      match r.poison with
      | none => .next (s1.setCore c { s1.core c with runAhead := none })
      | some (pc, g, p) => .next (s1.setCore c { s1.core c with runAhead := none, blocked := none, pc := pc, g := g, p := p })
    else
      let s1 := s.squash 0 (partOfCore c) r.instrs
      let s2 := if r.errors = 0 then s1 else s1.bump Reg.mgdSpecErr r.errors
      let s3 := s2.setCore c { s2.core c with runAhead := none, blocked := none, pc := r.branchPc, g := r.savedG, p := r.savedP }
      .next (if r.taken then (s3.takeBranch c r.link r.target).tracedBranch c else s3.advance c)

end Sys2Proof.Machine
end

