-- ==== Sys2Proof/Machine/Complete.lean ====
section
/-!
DEFINITION. Engine commands: the fields of a command word (Table 3.7), the status word (Table 3.11), completing a command
into its slot with its notify word (R77, R79).
-/

namespace Sys2Proof.Machine

/-- Field [lo + w - 1 : lo] of a command word's bytes. -/
def wordFld (word : List Byte) (lo w : Nat) : Nat := bitsOf (leNat word) lo w

/-- Byte-addressed field of the command word. -/
def cmdNum (word : List Byte) (off n : Nat) : Nat := numAt word off n

def cmdOpcode (word : List Byte) : Nat := cmdNum word 0 1
def cmdClass (word : List Byte) : Nat := wordFld word 8 4
def cmdOrd (word : List Byte) : Bool := wordFld word 12 1 = 1
def cmdSlot (word : List Byte) : Nat := wordFld word 16 6
def cmdSched (word : List Byte) : Nat := wordFld word 24 3
def cmdTag (word : List Byte) : Nat := wordFld word 32 16
def cmdNotifyQ (word : List Byte) : Nat := wordFld word 64 12
def cmdNotifyEn (word : List Byte) : Bool := wordFld word 76 1 = 1

/-- Are the header's reserved fields zero (Table 3.7)? -/
def headerClean (word : List Byte) : Bool :=
  [(13, 3), (22, 2), (27, 5), (48, 16), (77, 51)].all (fun e => decide (wordFld word e.1 e.2 = 0))

/-- The status word of Table 3.11. -/
def statusWord (tag : Nat) (status : Byte) (result : BitVec 32) : Word :=
  BitVec.ofNat 64 (result.toNat * 2 ^ 32 + tag * 2 ^ 16 + 256 + status.toNat)

/-- The notify word of R79. -/
def notifyWord (st : Word) (slot : Nat) (core : CoreId) : QWord :=
  { data := BitVec.ofNat 256 (st.toNat + slot * 2 ^ 64 + core.toNat * 2 ^ 72), last := true, tick := 0, origin := core.toNat + 1 }

/-- A command of core n (its job, its word) completes with a status and a result: the status word goes to the slot, the
command counts (Table 18.1), and with NOTIFY_EN = 1 on a queue bound to the job the notify word is put (R77, R79). -/
def State.finish (s : State) (n : CoreId) (job : BitVec 16) (unit : BitVec 16) (started : Word) (word : List Byte) (status : Byte)
    (result : BitVec 32) : State :=
  let st := statusWord (cmdTag word) status result
  let s := s.traceTagged (partOfCore n) unit 0x02 status job (BitVec.ofNat 16 (cmdTag word)) st started
  let s1 := if (s.core n).job = job then s.setCore n ((s.core n).setSlot (cmdSlot word) (.done st)) else s
  let s2 := s1.bump (Reg.dbgPartCnt (partOfCore n) 1) 1
  if cmdNotifyEn word && s2.boundPut (cmdNotifyQ word) job then
    s2.unitPut (cmdNotifyQ word) (notifyWord st (cmdSlot word) n)
  else s2

/-- The work of a started command is done: its status and RESULT wait to be reported. -/
def State.workDone (s : State) (c : Cmd) (status : Byte) (result : BitVec 32) : State :=
  s.setCmd { c with phase := .done status result }

end Sys2Proof.Machine
end

