-- ==== Sys2Proof/Machine/Payload.lean ====
section
/-!
DEFINITION. The payloads of the engine command words: which opcodes each class defines (Table 3.9) and which payload
bits are reserved and must be zero (R77 and the payload tables of the engines' chapters).
-/

namespace Sys2Proof.Machine

/-- The highest opcode a class defines (Table 3.9); opcodes 1 to it are all defined. -/
def lastOpcode (cls : Nat) : Nat :=
  match cls with
  | 0 => 6
  | 1 => 4
  | 2 => 5
  | 3 => 4
  | 4 => 4
  | 5 => 2
  | 6 => 5
  | 7 => 2
  | 8 => 1
  | _ => 0

/-- Is the opcode defined for the class (Table 3.9)? -/
def opcodeDefined (cls op : Nat) : Bool := decide (op ≤ lastOpcode cls)

/-- The payload bits an opcode defines, as (byte, mask) runs: byte count bytes from a first byte on, all with one mask;
none listed: every payload byte is reserved. -/
def payloadFields (cls op : Nat) : List (Nat × Nat × Nat) :=
  match cls, op with
  | 0, 1 => [(16, 16, 255), (32, 1, 1)]
  | 0, 2 => [(16, 30, 255), (46, 1, 15)]
  | 0, 3 => [(16, 32, 255), (48, 1, 63)]
  | 0, 4 => [(16, 33, 255), (49, 1, 127), (52, 12, 255)]
  | 0, 5 => [(16, 20, 255)]
  | 0, 6 => [(16, 8, 255)]
  | 1, 1 => [(16, 28, 255), (44, 1, 15)]
  | 1, 2 => [(16, 34, 255), (50, 1, 3)]
  | 1, 3 => [(16, 34, 255), (50, 1, 3), (52, 10, 255)]
  | 1, 4 => [(16, 18, 255)]
  | 2, 1 => [(16, 39, 255), (55, 1, 0x8F), (56, 1, 1)]
  | 2, 2 => [(16, 20, 255)]
  | 2, 3 => [(16, 20, 255)]
  | 2, 4 => [(16, 24, 255)]
  | 2, 5 => [(16, 25, 255), (41, 1, 3), (42, 5, 255), (47, 1, 3), (48, 5, 255), (53, 1, 3), (54, 6, 255)]
  | 3, 1 => [(16, 22, 255), (40, 13, 255), (56, 4, 255)]
  | 3, 2 => [(16, 20, 255), (36, 1, 1), (40, 4, 255), (48, 4, 255), (52, 1, 0xDF), (56, 4, 255)]
  | 3, 3 => [(16, 16, 255), (48, 4, 255), (52, 1, 0xDF), (56, 4, 255)]
  | 3, 4 => [(16, 38, 255), (54, 1, 0x1F), (56, 8, 255)]
  | 4, 1 => [(16, 40, 255), (56, 1, 7)]
  | 4, 2 => [(16, 8, 255)]
  | 4, 3 => [(16, 44, 255), (60, 1, 3)]
  | 4, 4 => [(16, 28, 255), (44, 1, 1)]
  | 5, 1 => [(16, 8, 255)]
  | 5, 2 => [(16, 20, 255), (36, 1, 15)]
  | 6, 1 => [(16, 36, 255), (52, 1, 15)]
  | 6, 2 => [(16, 32, 255), (48, 1, 3), (49, 1, 15)]
  | 6, 3 => [(16, 30, 255), (46, 1, 7)]
  | 6, 4 => [(16, 20, 255), (36, 1, 15), (37, 1, 3)]
  | 6, 5 => [(16, 8, 255), (24, 1, 63), (25, 1, 15), (26, 1, 7)]
  | 7, 1 => [(16, 24, 255), (40, 8, 255), (48, 1, 3), (49, 1, 3), (50, 1, 255), (51, 1, 255)]
  | 7, 2 => [(16, 8, 255), (24, 1, 3)]
  | 8, 1 => [(16, 20, 255)]
  | _, _ => []

/-- The defined mask of payload byte i. -/
def definedMask (fs : List (Nat × Nat × Nat)) (i : Nat) : Nat :=
  match fs.find? (fun e => decide (e.1 ≤ i) && decide (i < e.1 + e.2.1)) with
  | some e => e.2.2
  | none => 0

/-- Does PNY_VEC's function read Y (Table 5.4)? -/
def vecUsesY (func : Nat) : Bool := [1, 2, 3, 5, 0x13, 0x14].contains func

/-- Is the vector function defined (Table 5.4)? -/
def vecDefined (func : Nat) : Bool := decide (func ≤ 0x0C) || (decide (0x10 ≤ func) && decide (func ≤ 0x14))

/-- Payload fields that are reserved only for some values of others: Table 5.3's unused operands, the upper half of an
accumulator operand, the Y of a function that does not use it (R113, R122). -/
def payloadDepends (cls : Nat) (word : List Byte) : Bool :=
  let n := fun o k => numAt word o k
  match cls, n 0 1 with
  | 0, 2 =>
    match n 46 1 % 4 with
    | 0 => decide (n 24 8 = 0) && decide (n 34 2 = 0)
    | 1 => decide (n 46 1 / 4 % 2 = 0)
    | 2 => decide (n 16 8 = 0) && decide (n 32 2 = 0)
    | _ => true
  | 0, 4 =>
    (List.range 3).all (fun i =>
      !((n 49 1).testBit (4 + i)) || decide (n (20 + 8 * i) 4 = 0)) &&
    (vecUsesY (n 48 1) || !(vecDefined (n 48 1)) || decide (n 24 8 = 0))
  | 3, 2 => decide (n 36 1 % 2 = 0) || (decide (n 52 1 = 0) && decide (n 56 4 = 0))
  | _, _ => true

/-- Are the reserved payload fields zero (R77)? An undefined opcode has no payload fields and is not checked. -/
def payloadClean (cls : Nat) (word : List Byte) : Bool :=
  let op := cmdOpcode word
  if !(opcodeDefined cls op) then true
  else
    let fs := payloadFields cls op
    payloadDepends cls word && (List.range 48).all (fun i =>
      decide ((word.getD (16 + i) 0).toNat &&& (255 - definedMask fs (16 + i)) = 0))

end Sys2Proof.Machine
end

