-- ==== Sys2Proof/Machine/CoreQueue.lean ====
section
/-!
DEFINITION. Queue instructions, ENQ, WAIT and what later completes the blocked ones (R66–R71, R75–R77, R260–R263).
-/

namespace Sys2Proof.Machine

/-- The register groups QPUT and QGET may name (R66). -/
def queueRg (rg : GReg) : Bool := [4, 8, 12, 16, 20, 24, 28].contains rg.toNat

/-- The word in g[rg] to g[rg+3] (R66). -/
def Core.word256 (c : Core) (rg : GReg) : BitVec 256 :=
  BitVec.ofNat 256 ((c.greg rg).toNat + (c.greg (rg + 1)).toNat * 2 ^ 64 + (c.greg (rg + 2)).toNat * 2 ^ 128 +
    (c.greg (rg + 3)).toNat * 2 ^ 192)

/-- g[rg] to g[rg+3] become the word (R66). -/
def Core.setWord256 (c : Core) (rg : GReg) (w : BitVec 256) : Core :=
  let part := fun (i : Nat) => BitVec.ofNat 64 (w.toNat >>> (64 * i))
  (((c.setG rg (part 0)).setG (rg + 1) (part 1)).setG (rg + 2) (part 2)).setG (rg + 3) (part 3)

/-- Has core n a fabric write of its own without acknowledgement (R28)? -/
def State.writesPending (s : State) (n : CoreId) : Bool := s.writesOf n (s.core n).job 0

/-- Is a put's release met (R35)? The core's fabric writes must be acknowledged, at either scope: until then no agent need see
them. Its other writes, and those of the commands it saw complete, are visible already. -/
def State.releaseMet (s : State) (n : CoreId) (rel : Bool) : Bool := !rel || !(s.writesPending n)

/-- A put or get of a word by core n is traced (Table 18.2). -/
def State.traceQueue (s : State) (n : CoreId) (event : Byte) (q : Nat) (w : QWord) : State :=
  s.traceTagged (partOfCore n) (coreUnit n) event 0 (s.core n).job 0 (BitVec.ofNat 64 q) (BitVec.setWidth 64 w.data)

/-- QPUT puts g[rg..rg+3] on queue rq[11:0] (R66, R67). -/
def execQput (c : CoreId) (gd : Guard) (rg rq : GReg) (oq : BitVec 2) (e nb : Bool) (pe ps : PReg) (z : BitVec 2)
    (s : State) : Host.Outcome State Fault Refusal :=
  let legal := queueRg rg && decide (oq ≠ 3) && decide (pe = 0) && (nb || decide (ps = 0)) && decide (z = 0)
  .next (s.issue c gd .never legal (fun t =>
    let k := t.core c
    let q := fld (k.greg rq) 0 12
    let w : QWord := { data := k.word256 rg, last := e, tick := 0 }
    let rel := decide (oq = 1)
    if !(t.boundPut q k.job) then t.coreFault c 0x2B 0
    else if t.wouldEnter q && t.releaseMet c rel then
      let t1 := (t.acceptWord q w).traceQueue c 0x03 q w
      (if nb then t1.setCore c ((t1.core c).setP ps true) else t1).advance c
    else if nb then t.writeP c ps false
    else
      let x := t.queue q
      (t.setQueue q { x with waiting := x.waiting ++ [{ who := .core c, word := w }] }).setCore c
        { k with blocked := some (.qput (BitVec.ofNat 12 q) rel) }))

/-- The first put waiting on queue q completes (R263): it needs room, and a core's QPUT its release (R35) and leave to
issue. -/
def execQputUnblock (q : BitVec 12) (s : State) : Host.Outcome State Fault Refusal :=
  let k := q.toNat
  let x := s.queue k
  match x.waiting with
  | [] => .next s
  | p :: rest =>
    if !(s.hasRoom k) || s.stopped then .next s
    else
      match p.who with
      | .unit => .next ((s.setQueue k { x with waiting := rest }).acceptWord k p.word)
      | .core c =>
        match (s.core c).blocked with
        | some (.qput _ rel) =>
          if s.releaseMet c rel && !(s.issueHeld c) then
            let t := ((s.setQueue k { x with waiting := rest }).acceptWord k p.word).traceQueue c 0x03 k p.word
            .next ((t.setCore c { t.core c with blocked := none }).advance c)
          else .next s
        | _ => .next (s.setQueue k { x with waiting := rest })

/-- A word leaves queue q for core c: g[rg..rg+3], and pe receives the end mark (R67); with ACQ on a queue of scope S later loads see
what peers wrote before (R35). -/
def State.getWord (s : State) (c : CoreId) (q : Nat) (rg : GReg) (pe : PReg) (acq : Bool) : State :=
  match (s.queue q).words with
  | [] => s
  | w :: _ =>
    let t := (s.popWord q).traceQueue c 0x04 q w
    let t := if acq && decide (s.qScope q = .s) then t.dropPeers (t.groupOfCore c) else t
    t.setCore c (((t.core c).setWord256 rg w.data).setP pe w.last)

/-- QGET takes a word from queue rq[11:0] (R66, R67). With NB = 1 and ps = pe the spec does not say which of the two writes of that
predicate stands: the write of ps comes last (DESIGN CHOICE, log entry 70). -/
def execQget (c : CoreId) (gd : Guard) (rg rq : GReg) (oq : BitVec 2) (e nb : Bool) (pe ps : PReg) (z : BitVec 2)
    (s : State) : Host.Outcome State Fault Refusal :=
  let legal := queueRg rg && decide (oq ≠ 3) && !e && decide (z = 0)
  .next (s.issue c gd .never legal (fun t =>
    let k := t.core c
    let q := fld (k.greg rq) 0 12
    let x := t.queue q
    if !(t.boundGet q k.job) then t.coreFault c 0x2B 0
    else if !(x.words.isEmpty) && x.getters.isEmpty then
      let t1 := t.getWord c q rg pe (decide (oq = 2))
      (if nb then t1.setCore c ((t1.core c).setP ps true) else t1).advance c
    else if nb then t.writeP c ps false
    else (t.setQueue q { x with getters := x.getters ++ [c] }).setCore c
      { k with blocked := some (.qget (BitVec.ofNat 12 q) rg pe (decide (oq = 2))) }))

/-- A blocked QGET receives a word: the core whose QGET arrived first of those waiting on the queue (R67, R260). -/
def execQgetUnblock (c : CoreId) (s : State) : Host.Outcome State Fault Refusal :=
  match (s.core c).blocked with
  | some (.qget q rg pe acq) =>
    let x := s.queue q.toNat
    if x.words.isEmpty || decide (x.getters.head? ≠ some c) || s.issueHeld c then .next s
    else
      let t := (s.setQueue q.toNat { x with getters := x.getters.drop 1 }).getWord c q.toNat rg pe acq
      .next ((t.setCore c { t.core c with blocked := none }).advance c)
  | _ => .next s

/-- QCNT writes the words waiting to rd[31:0] and the whole packets to rd[63:32] (R68). A queue that is not bound to the core's job is
counted too, without a fault: R66 names CC_QUEUE_UNBOUND in its paragraph on QPUT and QGET, and R68 names no fault (DESIGN CHOICE, log
entry 71). -/
def execQcnt (c : CoreId) (gd : Guard) (rd rs1 rs2 : GReg) (fn : BitVec 7) (s : State) : Host.Outcome State Fault Refusal :=
  .next (s.issue c gd .never (rs2 = 0 && fn = 0) (fun t =>
    let x := t.queue (fld ((t.core c).greg rs1) 0 12)
    t.writeG c rd (BitVec.ofNat 64 (x.words.length + x.packets * 2 ^ 32))))

/-! ### ENQ -/

/-- The 64 bytes in g[rg] to g[rg+7] (R69). -/
def Core.word512 (c : Core) (rg : GReg) : List Byte :=
  ((List.range 8).map (fun i => toLE 8 (c.greg (rg + BitVec.ofNat 5 i)).toNat)).flatten

/-- The group whose queue a command enters: the issuing core's for a hub engine, none (0) for Peony and Lupin, whose
queues are their own (R76). -/
def State.queueGroup (s : State) (cls : Nat) (n : CoreId) : Nat := if cls < 2 then 0 else s.groupOfCore n

/-- Do two commands stand in the same engine queue? -/
def sameQueue (cls inst group : Nat) (c : Cmd) : Bool :=
  decide (c.cls = cls) && decide (c.inst = inst) && (decide (cls < 2) || decide (c.group = group))

/-- Does the engine queue have a free entry (R69, R70)? -/
def State.entryFree (s : State) (cls inst group : Nat) : Bool :=
  decide ((s.cmds.filter (sameQueue cls inst group)).length < 64)

/-- Is the engine queue undefined: class 9–15, or the instance out of range (0x26, Table 3.8)? -/
def queueUndefined (cls inst : Nat) : Bool :=
  match cls with
  | 0 => decide (48 ≤ inst)
  | 1 => decide (16 ≤ inst)
  | _ => decide (9 ≤ cls) || decide (inst ≠ 0)

/-- The control core that serves instance inst of Peony (class 0) or Lupin (class 1) (R11). -/
def servingCore (cls inst : Nat) : CoreId := BitVec.ofNat 6 (if cls = 0 then inst else 48 + inst)

/-- Is a Peony or Lupin instance outside what the issuing core may command (0x22): not in its group, or with no core
placed for its job? -/
def State.outsideGroup (s : State) (n : CoreId) (cls inst : Nat) : Bool :=
  if 2 ≤ cls then false
  else
    let m := servingCore cls inst
    decide (s.groupOfCore m ≠ s.groupOfCore n) ||
      (match s.job (s.core n).job with
       | some j => !(j.placed.contains m)
       | none => true)

/-- The acceptance checks in the order of R77: the first failing check's code. -/
def State.acceptance (s : State) (n : CoreId) (cls inst : Nat) (word : List Byte) : Option Byte :=
  if queueUndefined cls inst then some 0x26
  else if s.outsideGroup n cls inst then some 0x22
  else if cmdClass word ≠ cls then some 0x21
  else if cmdSched word < 2 then some 0x23
  else if !(headerClean word) || !(payloadClean cls word) then some 0x24
  else if !(opcodeDefined cls (cmdOpcode word)) then some 0x20
  else if cmdNotifyEn word && !(s.boundPut (cmdNotifyQ word) (s.core n).job) then some 0x25
  else none

/-- May the command be accepted: a free queue entry, its slot not held by an uncompleted command (R69)? -/
def State.canAccept (s : State) (n : CoreId) (qid : BitVec 16) (word : List Byte) : Bool :=
  let cls := fld qid 12 4
  let inst := fld qid 0 12
  (queueUndefined cls inst || s.entryFree cls inst (s.queueGroup cls n)) && !((s.core n).slot (cmdSlot word) = .busy)

/-- A command enters its engine queue (R69), an empty hub-engine flow filling (R329, R336). -/
def State.enter (s : State) (n : CoreId) (job : BitVec 16) (qid : BitVec 16) (word : List Byte) (session : Nat)
    (mayWrite : Option (Nat × Nat)) : State :=
  let cls := fld qid 12 4
  let inst := fld qid 0 12
  let g := s.queueGroup cls n
  let c : Cmd := { id := s.nextCmd, cls := cls, inst := inst, core := n, job := job, group := g, word := word,
                   phase := .queued, since := s.now, started := 0, descs := [], granted := false, suspended := false, session := session,
                   mayWrite := mayWrite, pool := [] }
  let empty := !(s.cmds.any (fun d => sameQueue cls inst g d && decide (d.phase = .queued) && !d.granted))
  let s2 := { s with cmds := s.cmds ++ [c], nextCmd := s.nextCmd + 1 }
  if decide (2 ≤ cls) && empty then s2.flowFills (1000 * cls + 16 * cmdSched word + g) (100 + cls) else s2

/-- The command is accepted (R30, R69, R77): a failing check completes it at acceptance with its code; else its slot is
busy and it enters its queue. -/
def State.accept (s : State) (n : CoreId) (qid : BitVec 16) (word : List Byte) : State :=
  let s := s.traceTagged (partOfCore n) (coreUnit n) 0x01 0 (s.core n).job (BitVec.ofNat 16 (cmdTag word))
    (BitVec.ofNat 64 (cmdNum word 0 8)) (BitVec.ofNat 64 qid.toNat)
  match s.acceptance n (fld qid 12 4) (fld qid 0 12) word with
  | some code => s.finish n (s.core n).job (s.engineUnit (fld qid 12 4) (fld qid 0 12)) s.now word code 0
  | none => (s.setCore n ((s.core n).setSlot (cmdSlot word) .busy)).enter n (s.core n).job qid word 0 none

/-- ENQ issues the command word in g[rg..rg+7] to the engine queue re[15:0] (R69). -/
def execEnq (c : CoreId) (gd : Guard) (rg re : GReg) (nb : Bool) (ps : PReg) (z : BitVec 8) (s : State) :
    Host.Outcome State Fault Refusal :=
  .next (s.issue c gd .never ([8, 16, 24].contains rg.toNat && decide (z = 0)) (fun t =>
    let k := t.core c
    let qid := BitVec.ofNat 16 (fld (k.greg re) 0 16)
    let word := k.word512 rg
    if t.canAccept c qid word then
      let t1 := t.accept c qid word
      (if nb then t1.setCore c ((t1.core c).setP ps true) else t1).advance c
    else if nb then t.writeP c ps false
    else t.setCore c { k with blocked := some (.enq qid word) }))

/-- A waiting ENQ finds a free entry and a free slot and its command is accepted (R69). -/
def execEnqAccept (c : CoreId) (s : State) : Host.Outcome State Fault Refusal :=
  match (s.core c).blocked with
  | some (.enq qid word) =>
    if s.canAccept c qid word && !(s.issueHeld c) then
      let t := s.accept c qid word
      .next ((t.setCore c { t.core c with blocked := none }).advance c)
    else .next s
  | _ => .next s

/-- What WAIT reads of a slot that holds an uncompleted command: DONE is 0; the spec states no other bit, so they are a
free value (log entry 11). -/
def busyWord (s : State) : Word := Config.freeWord s.free &&& ~~~(0x100 : Word)

/-- WAIT writes the status word of a slot to rd (R71). -/
def execWait (c : CoreId) (gd : Guard) (rd : GReg) (slot : BitVec 6) (nb : Bool) (ps : PReg) (z : BitVec 7) (s : State) :
    Host.Outcome State Fault Refusal :=
  .next (s.issue c gd .never (z = 0) (fun t =>
    let k := t.core c
    match k.slot slot.toNat with
    | .free => (t.setCore c ((if nb then k.setP ps false else k).setG rd 0)).advance c
    | .done w => (t.setCore c ((if nb then k.setP ps true else k).setG rd w)).advance c
    | .busy =>
      if nb then (t.drawn.setCore c ((k.setP ps false).setG rd (busyWord t))).advance c
      else t.setCore c { k with blocked := some (.wait slot rd) }))

/-- A blocking WAIT returns when its slot's command has completed (R71). -/
def execWaitReturn (c : CoreId) (s : State) : Host.Outcome State Fault Refusal :=
  let k := s.core c
  match k.blocked with
  | some (.wait slot rd) =>
    match k.slot slot.toNat with
    | .done w =>
      if s.issueHeld c then .next s
      else .next ((s.setCore c { k.setG rd w with blocked := none }).advance c)
    | _ => .next s
  | _ => .next s

end Sys2Proof.Machine
end

