-- ==== Sys2Proof/WellFormed.lean ====
section
/-!
DEFINITION. Which commands a sender the spec knows can send: operands the types leave too wide. A command that is not well-formed ends in
`Fault.illFormed`.
-/

namespace Sys2Proof

/-- A function of Table 12.2: 0–257, or PF1. -/
def RegPort.wf : RegPort → Bool
  | .fn f => decide (f.toNat ≤ 257)
  | .pf1 => true
  | .page f => decide (f.toNat ≤ 257)

/-- A function itself, as resets and configuration requests name it. -/
def RegPort.isFunction : RegPort → Bool
  | .page _ => false
  | w => w.wf

/-- An offset of function f's BAR2: 2 MiB for a PF0, 4 KiB for a VF (Table 12.2). -/
def bar2Offset (f : BitVec 9) (off : BitVec 21) : Bool :=
  f = 0 || f = 257 || (decide (f.toNat ≤ 257) && decide (off.toNat < 4096))

/-- A sample names the junctions of dies 0–3 and the hub die, and the cycles of dies 0–3. -/
def PowerSample.wf (x : PowerSample) : Bool := decide (x.tj.length = 5) && decide (x.cycle.length = 4)

/-- Are a command's operands within their ranges? -/
def Instr.wf : Instr → Bool
  | .illegalInstruction c w => (fjorInstr c w true).isNone
  | .engineDispatch e => decide (2 ≤ e.toNat ∧ e.toNat ≤ 8)
  | .slotUnload grammar slot => grammar || decide (slot.toNat < 16)
  | .registerWrite w _ _ _ => w.wf
  | .readClear w _ _ => w.wf
  | .submissionDoorbell f off _ => bar2Offset f off
  | .completionDoorbell f off _ => bar2Offset f off
  | .descriptorFetch f _ _ => decide (f.toNat ≤ 257)
  | .ringRecordWrite f _ => decide (f.toNat ≤ 257)
  | .bar4Access f _ n data => decide (f.toNat ≤ 257) && (match data with
    | some bs => decide (bs.length = n)
    | none => true)
  | .ifSelect f _ => decide (f.toNat ≤ 257)
  | .flr w => w.isFunction
  | .d3hotEntry w => w.isFunction
  | .configRequest _ w _ _ => w.isFunction
  | .flitReceive _ flit _ _ => decide (flit.length = 256)
  | .fastRetrain _ lanes _ => decide (lanes.toNat ≤ 2)
  | .portTrained _ lanes _ => decide (1 ≤ lanes.toNat ∧ lanes.toNat ≤ 2)
  | .scrub _ _ result => decide (result.toNat ≤ 2)
  | .powerLoopSample x => x.wf
  | .stageAdvance w => decide (w.replayed ≤ 1073741824)
  | .junctionOverheat die => decide (die.toNat ≤ 4)
  | .valveIteration _ pct => decide (pct.toNat ≤ 100)
  | _ => true

end Sys2Proof
end

