-- ==== Sys2Proof/Machine/CoreSys.lean ====
section
/-!
DEFINITION. System instructions and fences (Table 3.6, R26–R29, R72, R73), HALT, BRK (R426), illegal instructions (R54).
-/

namespace Sys2Proof.Machine

/-- Are the fields a SYS function does not use zero (R72)? -/
def sysLegal (useRd usePd : Bool) (rd rs1 : GReg) (z : BitVec 2) (pd : PReg) : Bool :=
  (useRd || rd = 0) && rs1 = 0 && z = 0 && (usePd || pd = 0)

/-- NOP has no effect (Table 3.6). -/
def execNop (c : CoreId) (gd : Guard) (rd rs1 : GReg) (z : BitVec 2) (pd : PReg) (s : State) :
    Host.Outcome State Fault Refusal :=
  .next (s.issue c gd .plain (sysLegal false false rd rs1 z pd) (fun t => t.advance c))

/-- HALT ends the core's program: STATE = HALTED, PC the instruction after it (Table 3.6, 03 PNY_CC_STATUS). -/
def execHalt (c : CoreId) (gd : Guard) (rd rs1 : GReg) (z : BitVec 2) (pd : PReg) (s : State) :
    Host.Outcome State Fault Refusal :=
  .next (s.issue c gd .never (sysLegal false false rd rs1 z pd) (fun t =>
    let k := t.core c
    (t.setCore c { k with state := .halted, pc := k.pc + 4 }).traceAddr c 2 k.pc))

/-- The waiting instruction of core n is abandoned and executes again later (R29, R347, R426); a fabric-pool load or AMO
goes on waiting (R348). -/
def State.abandon (s : State) (n : CoreId) : State :=
  let k := s.core n
  match k.blocked with
  | none => s
  | some (.pool _ _ _ _ _ _) => s
  | some (.qput q _) =>
    let x := s.queue q.toNat
    (s.setQueue q.toNat { x with waiting := x.waiting.filter (fun w => !(w.who = .core n)) }).setCore n { k with blocked := none }
  | some (.qget q _ _ _) =>
    let x := s.queue q.toNat
    (s.setQueue q.toNat { x with getters := x.getters.filter (fun m => !(m = n)) }).setCore n { k with blocked := none }
  | some _ => s.setCore n { k with blocked := none }

/-- Core n stops for breakpoint mode: with DRAIN = 1 it waits for its commands first (R426). -/
def State.brkStopCore (s : State) (drain : Bool) (n : CoreId) : State :=
  let t := s.abandon n
  let k := t.core n
  t.setCore n (if drain then { k with brkDrain := true } else { k with brkStop := true })

/-- The breakpoint configuration of core n's group (R426): DBG_BRK_CFG of its lowest partition. -/
def State.brkCfg (s : State) (n : CoreId) : Word := s.reg (Reg.dbgBrkCfg (s.groupOfCore n))

/-- The other placed cores of core n's job. -/
def State.otherCores (s : State) (n : CoreId) : List CoreId :=
  match s.job (s.core n).job with
  | none => []
  | some j => j.placed.filter (fun m => !(m = n) && decide ((s.core m).state = .running))

/-- BRK stops the core in breakpoint mode (with GROUP_STOP the job's other cores too), otherwise acts as NOP (Table 3.6,
R426). A BRK in the last word stops with its own address, and the fetch past it faults once the core goes on (R62). -/
def execBrk (c : CoreId) (gd : Guard) (rd rs1 : GReg) (z : BitVec 2) (pd : PReg) (s : State) :
    Host.Outcome State Fault Refusal :=
  .next (s.issue c gd .never (sysLegal false false rd rs1 z pd) (fun t =>
    let cfg := t.brkCfg c
    let t := t.traceAddr c 2 (t.core c).pc
    if bitAt cfg 31 then
      let k := t.core c
      let t1 := (t.setCore c (if k.pc = lastPc then { k with past := true } else { k with pc := k.pc + 4 })).brkStopCore
        (bitAt cfg 30) c
      if bitAt cfg 29 then (t1.otherCores c).foldl (fun u m => u.brkStopCore (bitAt cfg 30) m) t1 else t1
    else t.advance c))

/-- TIME writes device time to rd (Table 3.6). -/
def execTime (c : CoreId) (gd : Guard) (rd rs1 : GReg) (z : BitVec 2) (pd : PReg) (s : State) :
    Host.Outcome State Fault Refusal :=
  .next (s.issue c gd .plain (sysLegal true false rd rs1 z pd) (fun t => t.writeG c rd t.now))

/-- The identity word of R73. -/
def State.identity (s : State) (n : CoreId) : Word :=
  BitVec.ofNat 64 ((s.core n).job.toNat * 2 ^ 32 + s.moduleId * 2 ^ 16 + partOfCore n * 2 ^ 8 + n.toNat)

/-- COREID writes the identity word to rd (R73). -/
def execCoreid (c : CoreId) (gd : Guard) (rd rs1 : GReg) (z : BitVec 2) (pd : PReg) (s : State) :
    Host.Outcome State Fault Refusal :=
  .next (s.issue c gd .plain (sysLegal true false rd rs1 z pd) (fun t => t.writeG c rd (t.identity c)))

/-! ### Fences -/

/-- Is a record that a command of core n caused still to be written to a host ring (kind 2, R303), or to be put on its queue (R28)? -/
def State.recordsPending (s : State) (n : CoreId) : Bool :=
  let mine := fun (w : QWord) => decide (w.origin = n.toNat + 1)
  s.stem.any (fun e => decide (s.qKind e.1 = 2) && (e.2.words.any mine || e.2.waiting.any (fun p => mine p.word))) ||
    s.held.any (fun h => decide (s.qKind h.queue = 2) && mine h.word)

/-- Are the conditions of a fence of core n met (R26–R28)? Its loads have taken their values, and its stores to this module's memory
are visible, when they are issued. P and wider: its writes to the fabric pool are acknowledged, so that every agent sees them. D: every
command the core enqueued has completed. S: the records those caused are with the host too. -/
def State.fenceMet (s : State) (n : CoreId) (sc : Scope) : Bool :=
  match sc with
  | .l => true
  | .p => !(s.writesPending n)
  | .d => !(s.writesPending n) && !(s.cmds.any (fun d => decide (d.core = n)))
  | .s => !(s.writesPending n) && !(s.cmds.any (fun d => decide (d.core = n))) && !(s.recordsPending n)

/-- The core's stores to its instruction memory reach instruction fetch (R26, R50). -/
def Core.takeImem (c : Core) : Core :=
  { c with imem := c.imemStores.foldl (fun m e => SMap.set 0 m e.1 e.2) c.imem, imemStores := [] }

/-- The fence of core n completes: its instruction-memory stores take effect for fetch; FENCE.S sets pd to 1, or to 0
with FS_FAIL and the failing peer's ID when a fabric write failed (R28, R72), and later loads see what peers wrote (R25). -/
def State.fenceDone (s : State) (n : CoreId) (sc : Scope) (pd : PReg) : State :=
  let k := { (s.core n).takeImem with blocked := none }
  let k := match sc with
    | .s => match k.writeFailed with
      | none => k.setP pd true
      | some m => { k.setP pd false with fsFail := true, failModule := m, writeFailed := none }
    | _ => k
  let t := s.setCore n k
  (if sc = .s then t.dropPeers (t.groupOfCore n) else t).advance n

/-- A fence of core n: complete at once, or waiting (R26). -/
def fenceOp (n : CoreId) (gd : Guard) (sc : Scope) (legal : Bool) (pd : PReg) (s : State) :
    Host.Outcome State Fault Refusal :=
  .next (s.issue n gd .never legal (fun t =>
    if t.fenceMet n sc then t.fenceDone n sc pd
    else t.setCore n { t.core n with blocked := some (.fence sc pd) }))

/-- FENCE.L orders the core's accesses and its instruction fetch at scope L (R26). -/
def execFenceL (c : CoreId) (gd : Guard) (rd rs1 : GReg) (z : BitVec 2) (pd : PReg) (s : State) :
    Host.Outcome State Fault Refusal :=
  fenceOp c gd .l (sysLegal false false rd rs1 z pd) 0 s

/-- FENCE.P orders the core's accesses at scope P (R26). -/
def execFenceP (c : CoreId) (gd : Guard) (rd rs1 : GReg) (z : BitVec 2) (pd : PReg) (s : State) :
    Host.Outcome State Fault Refusal :=
  fenceOp c gd .p (sysLegal false false rd rs1 z pd) 0 s

/-- FENCE.D also waits for every command the core enqueued (R27). -/
def execFenceD (c : CoreId) (gd : Guard) (rd rs1 : GReg) (z : BitVec 2) (pd : PReg) (s : State) :
    Host.Outcome State Fault Refusal :=
  fenceOp c gd .d (sysLegal false false rd rs1 z pd) 0 s

/-- FENCE.S also waits for the core's fabric writes and reports in pd whether all were acknowledged (R28, R72). -/
def execFenceS (c : CoreId) (gd : Guard) (rd rs1 : GReg) (z : BitVec 2) (pd : PReg) (s : State) :
    Host.Outcome State Fault Refusal :=
  fenceOp c gd .s (sysLegal false true rd rs1 z pd) pd s

/-- The fence core n waits at completes once its conditions are met (R26). -/
def execFenceComplete (c : CoreId) (s : State) : Host.Outcome State Fault Refusal :=
  match (s.core c).blocked with
  | some (.fence sc pd) => if s.fenceMet c sc && !(s.issueHeld c) then .next (s.fenceDone c sc pd) else .next s
  | _ => .next s

/-- An encoding with no definition faults the core with CC_ILLEGAL_INSTRUCTION whatever its guard (R54). -/
def execIllegalInstruction (c : CoreId) (w : BitVec 32) (s : State) : Host.Outcome State Fault Refusal :=
  if !(Instr.illegalInstruction c w).wf then .fault .illFormed else
  .next (s.issue c { pg := 0, pn := false } .never false (fun t => t))

end Sys2Proof.Machine
end

