-- ==== Sys2Proof/Machine/Float.lean ====
section
/-!
DEFINITION. Number formats and arithmetic (04_number_formats.md): exact values as signed dyadic numbers, decoding and
rounding of every format, FP32 operations with their numeric flags, block quantization, pairwise trees (R445), and the
vector functions within their error bounds (R119, R120).
-/

namespace Sys2Proof.Machine

/-- A value: NaN, an infinity, or (−1)^neg * m * 2^e; m = 0 is a signed zero. -/
inductive Num where
  | nan
  | inf (neg : Bool)
  | fin (neg : Bool) (m : Nat) (e : Int)
deriving DecidableEq, Repr

/-- The numeric flags of Table 4.7, as the byte in status-word bits [63:56]. -/
abbrev NFlags := BitVec 8

def fNanIn : NFlags := 0x80
def fInfIn : NFlags := 0x40
def fOvf : NFlags := 0x20
def fUnf : NFlags := 0x10
def fIsat : NFlags := 0x08
def fNanGen : NFlags := 0x04
def fScaleClamp : NFlags := 0x02

/-- A floating-point layout (Table 4.2): exponent bits, mantissa bits, bias; whether exponent all ones holds infinity and
NaNs (FP32, BF16, FP16, E5M2), or only mantissa all ones there is NaN (E4M3), or every code is finite. -/
structure FFmt where
  eb : Nat
  mb : Nat
  bias : Nat
  ieee : Bool
  lastNan : Bool
deriving DecidableEq, Repr

def fp32 : FFmt := { eb := 8, mb := 23, bias := 127, ieee := true, lastNan := false }
def bf16 : FFmt := { eb := 8, mb := 7, bias := 127, ieee := true, lastNan := false }
def fp16 : FFmt := { eb := 5, mb := 10, bias := 15, ieee := true, lastNan := false }
def e5m2 : FFmt := { eb := 5, mb := 2, bias := 15, ieee := true, lastNan := false }
def e4m3 : FFmt := { eb := 4, mb := 3, bias := 7, ieee := false, lastNan := true }
def e3m2 : FFmt := { eb := 3, mb := 2, bias := 3, ieee := false, lastNan := false }
def e2m1 : FFmt := { eb := 2, mb := 1, bias := 1, ieee := false, lastNan := false }

/-- The floating-point layout of a format code (Table 4.1). -/
def fmtOf (code : Nat) : FFmt :=
  match code with
  | 0 => fp32
  | 1 => bf16
  | 2 => fp16
  | 3 => e4m3
  | 4 => e5m2
  | 5 => e4m3
  | 6 => e5m2
  | 7 => e3m2
  | _ => e2m1

/-- Element bits of a format code (Table 4.1). -/
def ebits (code : Nat) : Nat :=
  match code with
  | 0 => 32
  | 1 => 16
  | 2 => 16
  | 7 => 6
  | 8 => 4
  | 10 => 4
  | 11 => 32
  | _ => 8

/-- Is the format block-scaled (Table 4.1)? -/
def blockScaled (code : Nat) : Bool := decide (5 ≤ code) && decide (code ≤ 8)

/-- Is the format an integer format (Table 4.1)? -/
def isIntFmt (code : Nat) : Bool := decide (9 ≤ code) && decide (code ≤ 11)

/-- Is the format a PF format: PF8, PF6, PF4? -/
def isPfFmt (code : Nat) : Bool := decide (3 ≤ code) && decide (code ≤ 8)

/-- Does a store to the format use RCP_D (R98)? -/
def usesRcp (code : Nat) : Bool := isPfFmt code || isIntFmt code

/-- The value of an element's code (R83). -/
def decodeF (f : FFmt) (c : Nat) : Num :=
  let neg := c.testBit (f.eb + f.mb)
  let e := bitsOf c f.mb f.eb
  let m := bitsOf c 0 f.mb
  let ones := 2 ^ f.eb - 1
  if f.ieee && e = ones then (if m = 0 then .inf neg else .nan)
  else if f.lastNan && e = ones && m = 2 ^ f.mb - 1 then .nan
  else if e = 0 then .fin neg m (1 - (f.bias : Int) - f.mb)
  else .fin neg (2 ^ f.mb + m) ((e : Int) - f.bias - f.mb)

/-- The canonical NaN of a format (R92). -/
def nanCode (f : FFmt) : Nat :=
  if f.ieee then (2 ^ f.eb - 1) * 2 ^ f.mb + 2 ^ (f.mb - 1) else 2 ^ (f.eb + f.mb) - 1

/-- The code of infinity, without its sign. -/
def infCode (f : FFmt) : Nat := (2 ^ f.eb - 1) * 2 ^ f.mb

/-- The code of the largest finite value, without its sign (Table 4.2). -/
def maxCode (f : FFmt) : Nat :=
  if f.ieee then infCode f - 1 else if f.lastNan then 2 ^ (f.eb + f.mb) - 2 else 2 ^ (f.eb + f.mb) - 1

/-- The code with its sign bit. -/
def withSign (f : FFmt) (neg : Bool) (c : Nat) : Nat := if neg then c + 2 ^ (f.eb + f.mb) else c

/-- m * 2^e as a whole number of 2^q, rounded (RNE, or toward zero), and whether that was exact. -/
def roundAt (m : Nat) (e q : Int) (rtz : Bool) : Nat × Bool :=
  if q ≤ e then (m <<< (e - q).toNat, true)
  else
    let k := (q - e).toNat
    let r := m >>> k
    let rem := m % 2 ^ k
    let half := 2 ^ (k - 1)
    let up := !rtz && (decide (half < rem) || (decide (rem = half) && decide (r % 2 = 1)))
    (if up then r + 1 else r, decide (rem = 0))

/-- The power of two of a finite value's leading bit. -/
def leadExp (m : Nat) (e : Int) : Int := (Nat.log2 m : Int) + e

/-- How an overflowing finite result ends: to infinity under RNE without SAT where the format has one, else the largest
finite value (Table 4.4, R91). -/
def overflowCode (f : FFmt) (neg rtz sat : Bool) : Nat :=
  withSign f neg (if f.ieee && !rtz && !sat then infCode f else maxCode f)

/-- Rounding of a value into a floating-point format under a mode and SAT, with its flags (R90–R94, Table 4.4). -/
def roundF (f : FFmt) (rtz sat : Bool) (x : Num) : Nat × NFlags :=
  match x with
  | .nan => (nanCode f, 0)
  | .inf neg =>
    if f.ieee then (if sat then (withSign f neg (maxCode f), fOvf) else (withSign f neg (infCode f), 0))
    else (withSign f neg (maxCode f), fOvf)
  | .fin neg 0 _ => (withSign f neg 0, 0)
  | .fin neg m e =>
    let qmin : Int := 1 - (f.bias : Int) - f.mb
    let q := max (leadExp m e - f.mb) qmin
    let (r, exact) := roundAt m e q rtz
    let (r, q) := if 2 ^ (f.mb + 1) ≤ r then (r / 2, q + 1) else (r, q)
    let code := if r < 2 ^ f.mb then r else ((q - qmin).toNat + 1) * 2 ^ f.mb + (r - 2 ^ f.mb)
    if maxCode f < code then (overflowCode f neg rtz sat, fOvf)
    else (withSign f neg code, if !exact && decide (r < 2 ^ f.mb) then fUnf else 0)

/-- Rounding of a value to a whole number under a mode. -/
def roundInt (rtz : Bool) (neg : Bool) (m : Nat) (e : Int) : Int :=
  let (r, _) := roundAt m e 0 rtz
  if neg then -(r : Int) else r

/-- Conversion to a two's complement integer of w bits: round first, then clamp with ISAT; a NaN gives 0 with NAN_IN, an
infinity the end of the range (R91, R92, Table 4.4). -/
def roundI (w : Nat) (rtz : Bool) (x : Num) : Int × NFlags :=
  let lo : Int := -(2 ^ (w - 1) : Nat)
  let hi : Int := (2 ^ (w - 1) : Nat) - 1
  match x with
  | .nan => (0, fNanIn)
  | .inf neg => (if neg then lo else hi, fIsat)
  | .fin neg m e =>
    -- far beyond the range: no need to form the number
    if m ≠ 0 ∧ 40 < leadExp m e then (if neg then lo else hi, fIsat)
    else
      let v := roundInt rtz neg m e
      if v < lo then (lo, fIsat) else if hi < v then (hi, fIsat) else (v, 0)

/-- The exact product, with NAN_GEN for 0 * ∞ (R92, R93). -/
def mulX (a b : Num) : Num × NFlags :=
  match a, b with
  | .nan, _ => (.nan, 0)
  | _, .nan => (.nan, 0)
  | .inf s, .inf t => (.inf (s ^^ t), 0)
  | .inf s, .fin t m _ => if m = 0 then (.nan, fNanGen) else (.inf (s ^^ t), 0)
  | .fin s m _, .inf t => if m = 0 then (.nan, fNanGen) else (.inf (s ^^ t), 0)
  | .fin s m e, .fin t n g => (.fin (s ^^ t) (m * n) (e + g), 0)

/-- The signed whole number of 2^q a finite value is, for q at most its exponent. -/
def scaled (neg : Bool) (m : Nat) (e q : Int) : Int :=
  let v : Int := (m <<< (e - q).toNat : Nat)
  if neg then -v else v

/-- The exact sum, with NAN_GEN for ∞ − ∞; a zero sum of opposite signs is +0 (R92, R93). -/
def addX (a b : Num) : Num × NFlags :=
  match a, b with
  | .nan, _ => (.nan, 0)
  | _, .nan => (.nan, 0)
  | .inf s, .inf t => if s = t then (.inf s, 0) else (.nan, fNanGen)
  | .inf s, .fin _ _ _ => (.inf s, 0)
  | .fin _ _ _, .inf t => (.inf t, 0)
  | .fin s m e, .fin t n g =>
    if m = 0 ∧ n = 0 then (.fin (s && t) 0 0, 0)
    else if m = 0 then (.fin t n g, 0)
    else if n = 0 then (.fin s m e, 0)
    else
      let q := min e g
      let v := scaled s m e q + scaled t n g q
      (.fin (decide (v < 0)) v.natAbs q, 0)

/-- The value times 2^k. -/
def Num.shift (x : Num) (k : Int) : Num :=
  match x with
  | .fin s m e => .fin s m (e + k)
  | y => y

/-- The value with its sign inverted. -/
def Num.negate (x : Num) : Num :=
  match x with
  | .nan => .nan
  | .inf s => .inf !s
  | .fin s m e => .fin (!s) m e

/-- An integer as a value; 0 is +0. -/
def numOfInt (v : Int) : Num := .fin (decide (v < 0)) v.natAbs 0

/-! ### FP32 -/

/-- The value of an FP32 code. -/
def val32 (c : BitVec 32) : Num := decodeF fp32 c.toNat

/-- Rounding of a result to an FP32 code under a mode; SAT bounds a finite result that overflows, and an infinite result stays
infinite (R91, R119). -/
def to32 (rtz sat : Bool) (x : Num) : BitVec 32 × NFlags :=
  match x with
  | .inf neg => (if neg then 0xFF800000 else 0x7F800000, 0)
  | y =>
    let (c, f) := roundF fp32 rtz sat y
    (BitVec.ofNat 32 c, f)

/-- FP32 addition (R90–R94). -/
def fadd (rtz sat : Bool) (a b : BitVec 32) : BitVec 32 × NFlags :=
  let (v, f) := addX (val32 a) (val32 b)
  let (c, g) := to32 rtz sat v
  (c, f ||| g)

/-- FP32 multiplication (R90–R94). -/
def fmul (rtz sat : Bool) (a b : BitVec 32) : BitVec 32 × NFlags :=
  let (v, f) := mulX (val32 a) (val32 b)
  let (c, g) := to32 rtz sat v
  (c, f ||| g)

/-- FP32 fused multiply-add, rounded once (R90–R94, R119). -/
def ffma (rtz sat : Bool) (a b d : BitVec 32) : BitVec 32 × NFlags :=
  let (p, f) := if val32 d = .nan then (.nan, (0 : NFlags)) else mulX (val32 a) (val32 b)
  let (v, g) := addX p (val32 d)
  let (c, h) := to32 rtz sat v
  (c, f ||| g ||| h)

/-- The code with its sign inverted. -/
def fneg (a : BitVec 32) : BitVec 32 := a ^^^ 0x80000000

/-- FP32 subtraction under RNE. -/
def fsub (a b : BitVec 32) : BitVec 32 × NFlags := fadd false false a (fneg b)

/-- Is a value less than another (neither NaN)? -/
def numLt (a b : Num) : Bool :=
  match a, b with
  | .nan, _ => false
  | _, .nan => false
  | .inf s, .inf t => s && !t
  | .inf s, .fin _ _ _ => s
  | .fin _ _ _, .inf t => !t
  | .fin s m e, .fin t n g =>
    let q := min e g
    decide (scaled s m e q < scaled t n g q)

/-- The FP32 maximum; a NaN operand gives NaN; of zeros, +0 exceeds −0 (R92, R93). -/
def fmax (a b : BitVec 32) : BitVec 32 :=
  match val32 a, val32 b with
  | .nan, _ => 0x7FC00000
  | _, .nan => 0x7FC00000
  | x, y => if numLt x y then b else if numLt y x then a else if bitAt a 31 then b else a

/-- The canonical FP32 NaN. -/
def nan32 : BitVec 32 := 0x7FC00000

/-- Is the code a NaN? -/
def isNan32 (c : BitVec 32) : Bool := val32 c = .nan

/-- The code, a NaN as the canonical one (R92). -/
def canon32 (c : BitVec 32) : BitVec 32 := if isNan32 c then nan32 else c

/-- Is the code finite? -/
def isFinite32 (c : BitVec 32) : Bool :=
  match val32 c with
  | .fin _ _ _ => true
  | _ => false

/-- Is a scale valid: finite and nonzero (R89)? -/
def scaleOk (c : BitVec 32) : Bool :=
  match val32 c with
  | .fin _ m _ => decide (m ≠ 0)
  | _ => false

/-- The flags of reading an operand (Table 4.7). -/
def readFlags (x : Num) : NFlags :=
  match x with
  | .nan => fNanIn
  | .inf _ => fInfIn
  | .fin _ _ _ => 0

/-! ### Pairwise trees (R445) -/

/-- One level of the tree. -/
def treeLevel : List (BitVec 32) → List (BitVec 32) × NFlags
  | a :: b :: rest =>
    let (c, f) := fadd false false a b
    let (cs, g) := treeLevel rest
    (c :: cs, f ||| g)
  | xs => (xs, 0)

/-- The levels, with fuel for the length; a lone term that is a NaN becomes the canonical one (R92). -/
def treeGo : Nat → List (BitVec 32) → BitVec 32 × NFlags
  | 0, xs => (canon32 (xs.headD 0), 0)
  | fuel + 1, xs =>
    match xs with
    | [] => (0, 0)
    | [a] => (canon32 a, 0)
    | _ =>
      let (ys, f) := treeLevel xs
      let (r, g) := treeGo fuel ys
      (r, f ||| g)

/-- The pairwise tree sum of a list: +0 for none (R445). -/
def treeSum (xs : List (BitVec 32)) : BitVec 32 × NFlags := treeGo (xs.length + 1) xs

/-! ### Block quantization (R95, R96) -/

/-- emax of the element format (04, Block quantization). -/
def emaxOf (code : Nat) : Int :=
  match code with
  | 5 => 8
  | 6 => 15
  | 7 => 4
  | _ => 2

/-- The largest of two magnitudes. -/
def maxMag (a b : Nat × Int) : Nat × Int :=
  if numLt (.fin false a.1 a.2) (.fin false b.1 b.2) then b else a

/-- The quantization of one block of FP32 values (R95, R96): the scale byte, the element codes, the flags. -/
def quantize (code : Nat) (rtz ceil : Bool) (xs : List (BitVec 32)) : Byte × List Nat × NFlags :=
  let vs := xs.map val32
  let bad := vs.foldl (fun f v => f ||| readFlags v) 0
  if bad ≠ 0 then (0xFF, vs.map (fun _ => 0), bad)
  else
    let f := fmtOf code
    let amax := vs.foldl (fun a v => match v with
      | .fin _ m e => if m = 0 then a else if a.1 = 0 then (m, e) else maxMag a (m, e)
      | _ => a) (0, (0 : Int))
    if amax.1 = 0 then (0x7F, vs.map (fun v => (roundF f rtz false v).1), 0)
    else
      let big := decodeF f (maxCode f)
      let fl := leadExp amax.1 amax.2 - emaxOf code
      let fits := fun (s : Int) => !(numLt big (.fin false amax.1 (amax.2 - s)))
      let s := if ceil then (if fits (fl - 1) then fl - 1 else if fits fl then fl else fl + 1) else fl
      let st := s + 127
      let cl := if st < 0 then (0 : Int) else if 254 < st then 254 else st
      let clampFlag : NFlags := if cl = st then 0 else fScaleClamp
      let sEff := cl - 127
      let cs := vs.map (fun v =>
        let y := v.shift (-sEff)
        let ovr := match y with
          | .fin _ m e => numLt big (.fin false m e)
          | _ => false
        let (c, g) := roundF f rtz true y
        if ovr then (withSign f (match y with | .fin n _ _ => n | _ => false) (maxCode f),
            if cl = 254 ∧ st ≠ cl then fOvf else (0 : NFlags))
        else (c, g &&& fUnf))
      (BitVec.ofNat 8 cl.toNat, cs.map Prod.fst, cs.foldl (fun a e => a ||| e.2) clampFlag)

/-! ### Approximated functions (R119, Table 5.4) -/

/-- A signed dyadic number v * 2^e. -/
structure Dy where
  v : Int
  e : Int
deriving DecidableEq, Repr

/-- Cut to 160 bits. -/
def Dy.cut (a : Dy) : Dy :=
  let n := Nat.log2 a.v.natAbs
  if n < 160 then a else { v := a.v / (2 ^ (n - 160) : Nat), e := a.e + ((n - 160 : Nat) : Int) }

def Dy.add (a b : Dy) : Dy :=
  if a.v = 0 then b else if b.v = 0 then a
  else
    let q := min a.e b.e
    -- numbers too far apart to matter keep the larger one
    if 2000 < (a.e - b.e).natAbs then (if a.e < b.e then b else a)
    else Dy.cut { v := a.v * (2 ^ (a.e - q).toNat : Nat) + b.v * (2 ^ (b.e - q).toNat : Nat), e := q }

def Dy.mul (a b : Dy) : Dy := Dy.cut { v := a.v * b.v, e := a.e + b.e }
def Dy.neg (a : Dy) : Dy := { a with v := -a.v }
def Dy.ofInt (n : Int) : Dy := { v := n, e := 0 }

/-- The quotient to about 160 bits. -/
def Dy.div (a b : Dy) : Dy :=
  if b.v = 0 then { v := 0, e := 0 }
  else Dy.cut { v := a.v * (2 ^ 330 : Nat) / b.v, e := a.e - b.e - 330 }

/-- The whole square root of v by Newton's steps from x, an upper bound. -/
def sqrtGo : Nat → Nat → Nat → Nat
  | 0, _, x => x
  | fuel + 1, v, x =>
    let y := (x + v / x) / 2
    if y < x then sqrtGo fuel v y else x

/-- The square root to about 160 bits. -/
def Dy.sqrt (a : Dy) : Dy :=
  let v := a.v.toNat * 2 ^ 400
  let e := a.e - 400
  let (v, e) := if e % 2 = 0 then (v, e) else (v * 2, e - 1)
  Dy.cut { v := (sqrtGo 800 v (2 ^ (Nat.log2 v / 2 + 1)) : Nat), e := e / 2 }

/-- ln 2 to 200 bits. -/
def ln2 : Dy := { v := 0xB17217F7D1CF79ABC9E3B39803F2F6AF40F343267298B62D8A, e := -200 }

/-- Σ r^i / i! from the highest term down, for |r| below 1. -/
def expSeries : Nat → Nat → Dy → Dy
  | 0, _, _ => Dy.ofInt 1
  | fuel + 1, i, r => (Dy.ofInt 1).add ((r.mul (expSeries fuel (i + 1) r)).div (Dy.ofInt i))

/-- e^x for a dyadic x; beyond ±300 only a very large or very small number. -/
def Dy.exp (x : Dy) : Dy :=
  let w := if 0 ≤ x.e then (if 20 < x.e then (if x.v < 0 then -1000 else if x.v = 0 then 0 else 1000) else x.v * (2 ^ x.e.toNat : Nat))
    else x.v / (2 ^ (-x.e).toNat : Nat)
  if 300 < w then { v := 1, e := 500 }
  else if w < -300 then { v := 1, e := -500 }
  else
    let k := (x.div ln2)
    let kk : Int := if 0 ≤ k.e then k.v * (2 ^ k.e.toNat : Nat) else k.v / (2 ^ (-k.e).toNat : Nat)
    let r := x.add ((Dy.ofInt kk).mul ln2).neg
    let y := expSeries 45 1 r
    { y with e := y.e + kk }

/-- The dyadic number of a finite value. -/
def Num.dy (x : Num) : Dy :=
  match x with
  | .fin s m e => { v := if s then -(m : Int) else m, e := e }
  | _ => Dy.ofInt 0

/-- The value of a dyadic number. -/
def Dy.num (a : Dy) : Num := .fin (decide (a.v < 0)) a.v.natAbs a.e

/-- 1 / (1 + e^−x). -/
def dySigmoid (x : Dy) : Dy := (Dy.ofInt 1).div ((Dy.ofInt 1).add x.neg.exp)

/-- tanh x; near 0 by its series. -/
def dyTanh (x : Dy) : Dy :=
  if x.v = 0 then x
  else if leadExp x.v.natAbs x.e < -20 then
    let x2 := x.mul x
    let x3 := x2.mul x
    (x.add (x3.div (Dy.ofInt (-3)))).add (((x3.mul x2).mul (Dy.ofInt 2)).div (Dy.ofInt 15))
  else
    let t := (x.mul (Dy.ofInt 2)).exp
    (t.add (Dy.ofInt (-1))).div (t.add (Dy.ofInt 1))

/-- 0.5x(1 + tanh(0.79788456(x + 0.044715x³))), as x * sigmoid of twice the argument. -/
def dyGelu (x : Dy) : Dy :=
  let c := (Dy.ofInt 79788456).div (Dy.ofInt 100000000)
  let d := (Dy.ofInt 44715).div (Dy.ofInt 1000000)
  let a := c.mul (x.add (d.mul (x.mul (x.mul x))))
  x.mul (dySigmoid (a.mul (Dy.ofInt 2)))

/-- The distance of two dyadic numbers, at most k units in the last place of FP32 at the reference (Table 5.4). -/
def withinUlp (ref got : Dy) (k : Nat) : Bool :=
  let e := if ref.v = 0 then (-149 : Int) else max (leadExp ref.v.natAbs ref.e - 23) (-149)
  let d := got.add ref.neg
  !(numLt (.fin false k e) (.fin false d.v.natAbs d.e))

/-- The FP32 result of an approximated function with reference value ref and bound k ulp (R119): what the unit computes
where that meets the bound and gives a zero only with the value's sign (R93), else the reference rounded; overflow and underflow by
R91 to R94: an exact result sets no UNF. -/
def approx (func : Nat) (x imm : BitVec 32) (ref : Dy) (k : Nat) (sat : Bool) : BitVec 32 × NFlags :=
  let (c, f) := to32 false sat ref.num
  let got := Config.vecApprox func x imm
  if f &&& fOvf ≠ 0 || !(isFinite32 got) then (c, f)
  else if withinUlp ref (val32 got).dy k && ((val32 got).dy.v ≠ 0 || bitAt got 31 = decide (ref.v < 0)) then
    (got, if bitsOf got.toNat 23 8 = 0 ∧ withinUlp ref (val32 got).dy 0 = false then fUnf else 0)
  else (c, f)

/-- EXP: e^(x * IMM_A), 2 ulp (R119, R120). -/
def fexp (x imm : BitVec 32) (sat : Bool) : BitVec 32 × NFlags :=
  let (p, f) := mulX (val32 x) (val32 imm)
  match p with
  | .nan => (nan32, f)
  | .inf true => (0, f)
  | .inf false => (0x7F800000, f)
  | .fin _ 0 _ => (0x3F800000, f)
  | y => approx 6 x imm y.dy.exp 2 sat

/-- RECIP: 1 / x, 1 ulp (R119, R120). -/
def frecip (x : BitVec 32) (sat : Bool) : BitVec 32 × NFlags :=
  match val32 x with
  | .nan => (nan32, 0)
  | .inf s => (if s then 0x80000000 else 0, 0)
  | .fin s 0 _ => (if s then 0xFF800000 else 0x7F800000, 0)
  | y => approx 7 x 0 ((Dy.ofInt 1).div y.dy) 1 sat

/-- RSQRT: 1 / √x, 1 ulp (R119, R120). -/
def frsqrt (x : BitVec 32) (sat : Bool) : BitVec 32 × NFlags :=
  match val32 x with
  | .nan => (nan32, 0)
  | .inf true => (nan32, fNanGen)
  | .inf false => (0, 0)
  | .fin s 0 _ => (if s then 0xFF800000 else 0x7F800000, 0)
  | .fin true _ _ => (nan32, fNanGen)
  | y => approx 8 x 0 ((Dy.ofInt 1).div y.dy.sqrt) 1 sat

/-- A result that saturates exactly: where the reference rounds to one of the given codes, that code, with UNF where a nonzero value
rounds to zero (R94, R120). -/
def saturating (ends : List (BitVec 32)) (func : Nat) (x : BitVec 32) (ref : Dy) (k : Nat) (sat : Bool) : BitVec 32 × NFlags :=
  let r := to32 false sat ref.num
  if ends.contains r.1 then r else approx func x 0 ref k sat

/-- TANH: 2 ulp, saturating exactly to ±1 (R119, R120). -/
def ftanh (x : BitVec 32) (sat : Bool) : BitVec 32 × NFlags :=
  match val32 x with
  | .nan => (nan32, 0)
  | .inf s => (if s then 0xBF800000 else 0x3F800000, 0)
  | .fin s 0 _ => (if s then 0x80000000 else 0, 0)
  | y => saturating [0x3F800000, 0xBF800000] 9 x (dyTanh y.dy) 2 sat

/-- SIGMOID: 2 ulp, saturating exactly to 0 or 1 (R119, R120). -/
def fsigmoid (x : BitVec 32) (sat : Bool) : BitVec 32 × NFlags :=
  match val32 x with
  | .nan => (nan32, 0)
  | .inf s => (if s then 0 else 0x3F800000, 0)
  | y => saturating [0, 0x3F800000] 10 x (dySigmoid y.dy) 2 sat

/-- GELU: 4 ulp; −0 at −∞, +∞ at +∞ (R119, R120). -/
def fgelu (x : BitVec 32) (sat : Bool) : BitVec 32 × NFlags :=
  match val32 x with
  | .nan => (nan32, 0)
  | .inf s => (if s then 0x80000000 else 0x7F800000, 0)
  | .fin s 0 _ => (if s then 0x80000000 else 0, 0)
  | y => approx 11 x 0 (dyGelu y.dy) 4 sat

/-- SILU: x * sigmoid(x), 3 ulp; −0 at −∞, +∞ at +∞ (R119, R120). -/
def fsilu (x : BitVec 32) (sat : Bool) : BitVec 32 × NFlags :=
  match val32 x with
  | .nan => (nan32, 0)
  | .inf s => (if s then 0x80000000 else 0x7F800000, 0)
  | .fin s 0 _ => (if s then 0x80000000 else 0, 0)
  | y => approx 12 x 0 (y.dy.mul (dySigmoid y.dy)) 3 sat

end Sys2Proof.Machine
end

