-- ==== Sys2Proof/Machine/Tensor.lean ====
section
/-!
DEFINITION. Tensors in memory: descriptors (R107, Table 5.1), layouts (R85–R88, R108), reading elements with clamping and
zero fill (R109), storing rows with padding and edge tiles (R88, R108, R117).
-/

namespace Sys2Proof.Machine

/-- A tensor descriptor (Table 5.1). -/
structure Desc where
  base : Nat
  scaleBase : Nat
  rows : Nat
  cols : Nat
  stride : Nat
  tscale : BitVec 32
  flags : Nat
  tail : Nat
deriving DecidableEq, Repr

/-- The descriptor in 32 bytes. -/
def parseDesc (bs : List Byte) : Desc :=
  { base := numAt bs 0 8, scaleBase := numAt bs 8 8, rows := numAt bs 16 2, cols := numAt bs 18 2,
    stride := numAt bs 20 4, tscale := BitVec.ofNat 32 (numAt bs 24 4), flags := numAt bs 28 1, tail := numAt bs 29 3 }

def Desc.fmt (d : Desc) : Nat := d.flags % 16
def Desc.layout (d : Desc) : Nat := d.flags / 16 % 4
def Desc.tiled (d : Desc) : Bool := d.layout = 1
def Desc.ebits (d : Desc) : Nat := Machine.ebits d.fmt
def Desc.scaled (d : Desc) : Bool := blockScaled d.fmt

/-- Blocks in a row. -/
def Desc.blocks (d : Desc) : Nat := ceilDiv d.cols 32

/-- The packed row in bytes: whole blocks for a block-scaled format (R107). -/
def Desc.rowBytes (d : Desc) : Nat := if d.scaled then d.blocks * 4 * d.ebits else ceilDiv (d.cols * d.ebits) 8

/-- Tile columns. -/
def Desc.tileCols (d : Desc) : Nat := ceilDiv d.cols 128

/-- The bytes of one tile (R108). -/
def Desc.tileBytes (d : Desc) : Nat := 2048 * d.ebits

/-- Does the descriptor meet R107 (else 0x39)? -/
def Desc.valid (d : Desc) : Bool :=
  decide (d.rows ≠ 0) && decide (d.cols ≠ 0) && decide (d.layout < 2) && decide (d.base < 2 ^ 48) &&
  decide (d.scaleBase < 2 ^ 48) && decide (d.flags < 64) && decide (d.tail = 0) &&
  (decide (12 ≤ d.fmt) ||
    ((d.scaled == decide (d.scaleBase ≠ 0)) &&
     (if d.tiled then decide (d.base % 64 = 0)
      else decide (d.rowBytes ≤ d.stride) && decide (d.base % Nat.max 1 (d.ebits / 8) = 0) &&
        (decide (d.fmt ≠ 7) || decide (d.stride % 3 = 0)))))

/-- The address of the stored run that holds element (r, c), and the element's bit offset from it. -/
def Desc.place (d : Desc) (r c : Nat) : Nat × Nat :=
  if d.tiled then
    (d.base + (r / 128 * d.tileCols + c / 128) * d.tileBytes + r % 128 * (16 * d.ebits), c % 128 * d.ebits)
  else (d.base + r * d.stride, c * d.ebits)

/-- The address of the scale byte of element (r, c) (R87). -/
def Desc.scalePlace (d : Desc) (r c : Nat) : Nat := d.scaleBase + r * d.blocks + c / 32

/-- The memory that rows r0 to r0 + n − 1 (within ROWS) occupy, scale bytes included. -/
def Desc.rowsRegion (d : Desc) (r0 n : Nat) : List (Nat × Nat) :=
  if n = 0 then []
  else
    (if d.tiled then
       [(d.base + r0 / 128 * d.tileCols * d.tileBytes, ((r0 + n - 1) / 128 - r0 / 128 + 1) * d.tileCols * d.tileBytes)]
     else (List.range n).map (fun i => (d.base + (r0 + i) * d.stride, d.rowBytes))) ++
    (if d.scaled then [(d.scaleBase + r0 * d.blocks, n * d.blocks)] else [])

/-- The memory a read of n rows from r0 on uses, rows beyond ROWS clamped (R109). -/
def Desc.readRegion (d : Desc) (r0 n : Nat) : List (Nat × Nat) :=
  let lo := Nat.min r0 (d.rows - 1)
  d.rowsRegion lo (if n = 0 then 0 else Nat.min (r0 + n) d.rows - lo |>.max 1)

/-- The memory a write of n rows from r0 on uses, rows beyond ROWS dropped (R109). -/
def Desc.writeRegion (d : Desc) (r0 n : Nat) : List (Nat × Nat) :=
  if d.rows ≤ r0 then [] else d.rowsRegion r0 (Nat.min n (d.rows - r0))

/-- One byte of an engine's virtual address; 0 where it does not translate. -/
def State.vbyte (s : State) (a : Agent) (va : Nat) : Byte :=
  match s.load a va 1 with
  | .ok (b :: _) => b
  | _ => 0

/-- n bytes of an engine's virtual addresses. -/
def State.vbytes (s : State) (a : Agent) (va n : Nat) : List Byte := (List.range n).map (fun i => s.vbyte a (va + i))

/-- An element: its code and the scale byte of its block (127 where unscaled). -/
abbrev Elem := BitVec 16 × Byte

/-- The stored element (r, c), within ROWS × COLS; 32-bit codes are cut to 16 bits (see `codeAt`). -/
def State.codeAt (s : State) (a : Agent) (d : Desc) (r c : Nat) : Nat :=
  let (run, bit) := d.place r c
  let n := ceilDiv (bit % 8 + d.ebits) 8
  bitsOf (leNat (s.vbytes a (run + bit / 8) n)) (bit % 8) d.ebits

/-- The scale byte of the element at (r, c). -/
def State.scaleAt (s : State) (a : Agent) (d : Desc) (r c : Nat) : Byte :=
  if d.scaled then s.vbyte a (d.scalePlace r c) else 127

/-- The value of an element code of a format under its block's scale byte (R83, R84, R87). -/
def elemNum (fmt code : Nat) (sc : Byte) : Num :=
  if isIntFmt fmt then numOfInt (signedOf (Machine.ebits fmt) code)
  else if blockScaled fmt then
    if sc = 0xFF then .nan else (decodeF (fmtOf fmt) code).shift ((sc.toNat : Int) - 127)
  else decodeF (fmtOf fmt) code

/-- An array operand's element at (r, c): rows clamp, columns beyond COLS (the reduction dimension) read as zero
(R109). -/
def State.arrayElem (s : State) (a : Agent) (d : Desc) (r c : Nat) : Elem :=
  if d.cols ≤ c then (0, 127)
  else
    let r := Nat.min r (d.rows - 1)
    (BitVec.ofNat 16 (s.codeAt a d r c), s.scaleAt a d r c)

/-- A vector operand's element at (r, c) as FP32, clamped (R109): t * 2^(S − 127) * v or t * v rounded once (R119); with
the flags of reading and converting it. -/
def State.vecElem (s : State) (a : Agent) (d : Desc) (r c : Nat) : BitVec 32 × NFlags :=
  let r := Nat.min r (d.rows - 1)
  let c := Nat.min c (d.cols - 1)
  let v := elemNum d.fmt (s.codeAt a d r c) (s.scaleAt a d r c)
  let (x, f) := mulX v (val32 d.tscale)
  let (y, g) := to32 false false x
  (y, readFlags v ||| f ||| g)

/-! ### Storing -/

/-- The number old with its bits [lo, lo + w) replaced by x. -/
def putBits (old lo w x : Nat) : Nat := bitsOf old 0 lo + (x % 2 ^ w) * 2 ^ lo + (old >>> (lo + w)) * 2 ^ (lo + w)

/-- Bits [lo, lo + w) of the stored run at va become x; the other bits of its bytes stay. -/
def State.storeBits (s : State) (a : Agent) (core : CoreId) (cls : BitVec 3) (va lo w x : Nat) (bad : Bool) : State :=
  if w = 0 then s
  else
    let b0 := lo / 8
    let n := ceilDiv (lo + w) 8 - b0
    let old := leNat (s.vbytes a (va + b0) n)
    s.store a core cls (va + b0) (toLE n (putBits old (lo - 8 * b0) w x)) bad

/-- The codes packed from the first on (R85). -/
def packCodes (eb : Nat) : List Nat → Nat
  | [] => 0
  | c :: cs => c % 2 ^ eb + 2 ^ eb * packCodes eb cs

/-- Codes for columns c0 on of row r are stored, all within COLS. In ROW layout a write that reaches the last column
also zeroes the rest of the packed row (R86, R88). -/
def State.storeCodes (s : State) (a : Agent) (core : CoreId) (cls : BitVec 3) (d : Desc) (r c0 : Nat) (cs : List Nat)
    (bad : Bool) : State :=
  if cs.isEmpty then s
  else if d.tiled then
    (List.range (d.tileCols)).foldl (fun t j =>
      let lo := Nat.max c0 (128 * j)
      let hi := Nat.min (c0 + cs.length) (128 * j + 128)
      if hi ≤ lo then t
      else
        let p := d.place r lo
        t.storeBits a core cls p.1 p.2 ((hi - lo) * d.ebits) (packCodes d.ebits ((cs.drop (lo - c0)).take (hi - lo))) bad) s
  else
    let p := d.place r c0
    let w := if c0 + cs.length = d.cols then d.rowBytes * 8 - p.2 else cs.length * d.ebits
    s.storeBits a core cls p.1 p.2 w (packCodes d.ebits cs) bad

/-- Every unused element of the touched edge tiles is zeroed: tiles of rows r0 to r0 + nr − 1 and columns c0 to
c0 + nc − 1, all within ROWS × COLS (R108). -/
def State.zeroEdges (s : State) (a : Agent) (core : CoreId) (cls : BitVec 3) (d : Desc) (r0 nr c0 nc : Nat) (bad : Bool) : State :=
  if !d.tiled || decide (nr = 0) || decide (nc = 0) then s
  else
    (List.range ((r0 + nr - 1) / 128 - r0 / 128 + 1)).foldl (fun t i =>
      let ti := r0 / 128 + i
      (List.range ((c0 + nc - 1) / 128 - c0 / 128 + 1)).foldl (fun t j =>
        let tj := c0 / 128 + j
        let used := Nat.min 128 (d.cols - 128 * tj)
        if used = 128 ∧ 128 * ti + 128 ≤ d.rows then t
        else
          (List.range 128).foldl (fun t k =>
            let first := if 128 * ti + k < d.rows then used else 0
            let p := d.place (128 * ti + k) (128 * tj)
            t.storeBits a core cls p.1 (first * d.ebits) ((128 - first) * d.ebits) 0 bad) t) t) s

/-- FP32 values cut into the blocks of 32 a row starting at a block's first column has. -/
def blocksOf32 : Nat → List (BitVec 32) → List (List (BitVec 32))
  | 0, _ => []
  | fuel + 1, xs => if xs.isEmpty then [] else xs.take 32 :: blocksOf32 fuel (xs.drop 32)

/-- The element codes, scale bytes and flags a row of FP32 values becomes in format fmt (R90, R91, R95, R96). -/
def convertRow (fmt : Nat) (rtz sat ceil : Bool) (xs : List (BitVec 32)) : List Nat × List Byte × NFlags :=
  if blockScaled fmt then
    (blocksOf32 (xs.length + 1) xs).foldl (fun acc b =>
      let (sc, cs, f) := quantize fmt rtz ceil b
      (acc.1 ++ cs, acc.2.1 ++ [sc], acc.2.2 ||| f)) ([], [], 0)
  else
    xs.foldl (fun acc x =>
      let (c, f) := if isIntFmt fmt then
          let (v, g) := roundI (Machine.ebits fmt) rtz (val32 x)
          ((BitVec.ofInt (Machine.ebits fmt) v).toNat, g)
        else roundF (fmtOf fmt) rtz sat (val32 x)
      (acc.1 ++ [c], [], acc.2.2 ||| f)) ([], [], 0)

/-- A row of FP32 values, already scaled, is stored at (r, c0): what lies outside ROWS × COLS is dropped (R109). The new
state, the flags, and whether anything was dropped. -/
def State.storeRow (s : State) (a : Agent) (core : CoreId) (cls : BitVec 3) (d : Desc) (rtz sat ceil : Bool) (r c0 : Nat)
    (xs : List (BitVec 32)) (bad : Bool) : State × NFlags × Bool :=
  let keep := if r < d.rows then Nat.min xs.length (d.cols - c0) else 0
  let (cs, scs, f) := convertRow d.fmt rtz sat ceil (xs.take keep)
  let s1 := s.storeCodes a core cls d r c0 cs bad
  let s2 := if scs.isEmpty then s1 else s1.store a core cls (d.scalePlace r c0) scs bad
  (s2, f, decide (keep < xs.length))

/-- A window of FP32 rows, already scaled, is stored from (r0, c0) on, edge tiles completed (R108, R117). -/
def State.storeRows (s : State) (a : Agent) (core : CoreId) (cls : BitVec 3) (d : Desc) (rtz sat ceil : Bool) (r0 c0 : Nat)
    (rows : List (List (BitVec 32))) (bad : Bool) : State × NFlags × Bool :=
  let (t, f, dropped, _) := rows.foldl (fun acc xs =>
    let (u, g, dr) := acc.1.storeRow a core cls d rtz sat ceil acc.2.2.2 c0 xs bad
    (u, acc.2.1 ||| g, acc.2.2.1 || dr, acc.2.2.2 + 1)) (s, (0 : NFlags), false, r0)
  let nc := (rows.map List.length).foldl Nat.max 0
  (t.zeroEdges a core cls d r0 (Nat.min rows.length (d.rows - r0)) c0 (Nat.min nc (d.cols - c0)) bad, f, dropped)

/-- May a store cover destination columns c0 to c0 + n − 1 (R118, else 0x3B)? -/
def Desc.coversOk (d : Desc) (c0 n : Nat) : Bool :=
  let last := Nat.min (c0 + n - 1) (d.cols - 1)
  (!d.scaled || (decide (c0 % 32 = 0) && (decide (d.cols ≤ c0) || decide (last % 32 = 31) || decide (last = d.cols - 1)))) &&
  (decide (d.ebits ≠ 4) || decide (c0 % 2 = 0)) && (decide (d.ebits ≠ 6) || decide (c0 % 4 = 0))

/-! ### Reading descriptors at a command's start (R107) -/

/-- Descriptors read at addresses, in order: the first misaligned one gives 0x39 with nothing read there; a translation
fault its code. A descriptor may lie in any memory the job maps, and its faults come before the other descriptors' checks (DESIGN
CHOICE, log entry 76). -/
def State.readDescs (s : State) (a : Agent) : List Nat → Except MemFail (List (Nat × List Byte))
  | [] => .ok []
  | va :: vas =>
    if va % 32 ≠ 0 then .error { code := 0x39, va := va }
    else match s.load a va 32 with
      | .error f => .error f
      | .ok bs => match s.readDescs a vas with
        | .error f => .error f
        | .ok rest => .ok ((va, bs) :: rest)

/-- The descriptor the command read at va. -/
def Cmd.desc (c : Cmd) (va : Nat) : Desc :=
  match c.descs.find? (fun e => e.1 = va) with
  | some e => parseDesc e.2
  | none => parseDesc []

/-- Where the regions lie, as far as they translate: their pieces under the addresses of their homes (R25, R78). -/
def State.placesOf (s : State) (a : Agent) (write : Bool) (rs : List (Nat × Nat)) : List (Nat × Nat) :=
  (rs.map (fun r => match s.pieces a r.1 r.2 write with
    | .ok ps => ps.map (fun p => (s.home p.1, p.2))
    | .error _ => [])).flatten

/-- Do two lists of pieces meet? -/
def piecesMeet (ps qs : List (Nat × Nat)) : Bool := ps.any (fun p => qs.any (fun q => overlaps p.1 p.2 q.1 q.2))

/-- Do regions read and regions written overlap in memory (R78)? -/
def State.regionsMeet (s : State) (a : Agent) (rs ws : List (Nat × Nat)) : Bool :=
  piecesMeet (s.placesOf a false rs) (s.placesOf a true ws)

/-- Does every byte of the regions translate, and lie at a physical address that ok accepts? -/
def State.regionsOk (s : State) (a : Agent) (write : Bool) (ok : Nat → Bool) : List (Nat × Nat) → Except MemFail Bool
  | [] => .ok true
  | (va, n) :: rs =>
    match s.pieces a va n write with
    | .error f => .error f
    | .ok ps => match s.regionsOk a write ok rs with
      | .error f => .error f
      | .ok b => .ok (b && ps.all (fun p => ok p.1 && ok (p.1 + p.2 - 1)))

/-- Is any unit of the regions poisoned? -/
def State.regionsPoisoned (s : State) (a : Agent) (rs : List (Nat × Nat)) : Bool :=
  rs.any (fun r => s.regionPoisoned a r.1 r.2)

/-- The agent of a command (its job, its class, its identity, what the pool answered it). -/
def Cmd.agent (c : Cmd) : Agent := { job := c.job, cls := c.cls, cmd := c.id + 1, pool := c.pool }

/-- The traffic class of a command's accesses: its SCHED_CLASS. -/
def Cmd.cls3 (c : Cmd) : BitVec 3 := BitVec.ofNat 3 (cmdSched c.word)

/-- The flash reads that an engine's read of the regions makes (R273). -/
def State.countRegions (s : State) (a : Agent) (rs : List (Nat × Nat)) : State := rs.foldl (fun t r => t.countRegion a r.1 r.2) s

/-- A re-rank session becomes x. -/
def State.setSession (s : State) (id : Nat) (x : Session) : State := { s with sessions := SMap.insert s.sessions id x }

/-- A speculative kernel command stops before a write its batch may not make (R183), or an access that would fault (R41). -/
def State.kernelStopped (s : State) (c : Cmd) : State :=
  match SMap.find s.sessions (c.session - 1) with
  | none => s
  | some x =>
    let bs := x.batches.map (fun b =>
      if b.cmds.any (fun k => k.1 = c.id) then ({ b with stopped := true } : Batch) else b)
    s.setSession (c.session - 1) { x with batches := bs }

/-- Is the failure a translation or protection fault? -/
def MemFail.isFault (f : MemFail) : Bool := (decide (0x80 ≤ f.code.toNat) && decide (f.code.toNat ≤ 0x82)) || f.code = 0x2C

/-- A command's work stops at an access, its state before being s and as far as it came t. Where peers' memory has still to be read the
command asks for it and its work is done again (R320, R322); else it ends with the code, what it has written staying (R247); a
speculative kernel command raises no fault: its batch stops there (R41). -/
def State.stopWork (s t : State) (c : Cmd) (f : MemFail) : State :=
  match f.awaits with
  | w :: ws => s.fetch c c.cls3 (w :: ws)
  | [] =>
    if c.mayWrite.isSome && f.isFault then (t.kernelStopped c).workDone c 0 0
    else (t.mmuFault c.job c.cls f).workDone c f.code 0

/-- A command's work stops before it has changed anything. -/
def State.failWork (s : State) (c : Cmd) (f : MemFail) : State := s.stopWork s c f

/-- A command's work goes on once its operand regions can be read; else it stops there (R247). -/
def State.withReads (s : State) (c : Cmd) (rs : List (Nat × Nat)) (k : State) : State :=
  match s.readable c.agent rs with
  | .error f => s.failWork c f
  | .ok _ => k

/-- RESULT with the numeric flags in its top byte, which status-word bits [63:56] show, bit 56 reserved (R102). -/
def flagsResult (f : NFlags) (rest : Nat) : BitVec 32 := BitVec.ofNat 32 ((f.toNat &&& 0xFE) * 2 ^ 24 + rest)

/-- What a command's start finds: it fails with a code (and the address of a translation fault), is done at once with
0x00, or starts having read these descriptors. -/
inductive StartResult where
  | fail (f : MemFail)
  | zero
  | go (descs : List (Nat × List Byte))
deriving DecidableEq, Repr

/-- A failing check of a command, by its code. -/
def failWith (code : Byte) : StartResult := .fail { code := code, va := 0 }

/-- The first failing check of a list, or the continuation. -/
def firstFail (checks : List (Bool × Byte)) (k : StartResult) : StartResult :=
  match checks.find? (fun c => c.1) with
  | some c => failWith c.2
  | none => k

end Sys2Proof.Machine
end

