-- ==== Sys2Proof/Machine/Peony.lean ====
section
/-!
DEFINITION. The Peony tensor cores (05): the start checks of Table 5.11, and what PNY_LOAD_W, PNY_MMA, PNY_STORE,
PNY_VEC, PNY_COPY and PNY_ACC_CLEAR do.
-/

namespace Sys2Proof.Machine

/-- The started command id of a class and opcode whose work may be done now: neither a global stop nor a fatal fault
holds the engines, and it is not suspended. -/
def State.working (s : State) (id cls op : Nat) : Option Cmd :=
  match s.cmd id with
  | none => none
  | some c =>
    if decide (c.cls = cls) && decide (cmdOpcode c.word = op) && decide (c.phase = .started) && !c.suspended &&
        !s.stopped && !s.fatal then some c else none

/-- Accumulators and stationary sets are seen in queue order (R115): no earlier command of the Peony queue that uses them
has its work still to do. -/
def State.peonyTurn (s : State) (c : Cmd) : Bool :=
  !(s.cmds.any (fun d => decide (d.cls = 0) && decide (d.inst = c.inst) && decide (d.id < c.id) &&
    [1, 2, 3, 4, 6].contains (cmdOpcode d.word) && (d.phase = .queued || d.phase = .started)))

/-- Physical memory a Peony command of core n may name (R106): its core-local SRAM and its die's shared SRAM. -/
def peonyWindow (n pa : Nat) : Bool :=
  decide (n * 128 * mib ≤ pa ∧ pa < (n + 1) * 128 * mib) ||
  decide (sharedBase + n / 12 * 512 * mib ≤ pa ∧ pa < sharedBase + (n / 12 + 1) * 512 * mib)

/-- For PNY_COPY also the core-local SRAM of any core of the group on the die (R106). -/
def State.copyWindow (s : State) (c : Cmd) (pa : Nat) : Bool :=
  peonyWindow c.inst pa ||
  (decide (pa < sharedBase) && decide (pa / (128 * mib) / 12 = c.inst / 12) &&
   decide (s.groupOf (pa / (128 * mib) / 3) = s.groupOf (c.inst / 3)))

/-- May the format be an array operand (Table 5.11, 0x31)? -/
def arrayFmt (f : Nat) : Bool := decide (1 ≤ f) && decide (f ≤ 10)

/-- Reserved formats and INT32 cannot be stored (0x31). -/
def storeFmt (f : Nat) : Bool := decide (f ≤ 10)

/-- The stationary set a payload's SET bit names. -/
def PeonyCore.set (p : PeonyCore) (one : Bool) : StatSet := if one then p.set1 else p.set0

def Cmd.n (c : Cmd) (off k : Nat) : Nat := cmdNum c.word off k
def Cmd.bit (c : Cmd) (off i : Nat) : Bool := (c.n off 1).testBit i
def Cmd.f32 (c : Cmd) (off : Nat) : BitVec 32 := BitVec.ofNat 32 (c.n off 4)

/-! ### Start checks (R131, Table 5.11) -/

/-- The check of operand regions against the windows (0x30), with the faults of translating them (R131). -/
def windowCheck (r : Except MemFail Bool) (k : StartResult) : StartResult :=
  match r with
  | .error f => .fail f
  | .ok false => failWith 0x30
  | .ok true => k

/-- PNY_LOAD_W's start (R116). -/
def State.startLoadW (s : State) (a : Agent) (c : Cmd) : StartResult :=
  match s.readDescs a [c.n 16 8] with
  | .error f => .fail f
  | .ok ds =>
    let d := ({ c with descs := ds } : Cmd).desc (c.n 16 8)
    firstFail [(!d.valid, 0x39), (!(scaleOk d.tscale), 0x34), (!(arrayFmt d.fmt), 0x31)]
      (windowCheck (s.regionsOk a false (peonyWindow c.inst) (d.readRegion (c.n 24 2) (c.n 28 2)))
        (firstFail [(c.n 28 2 = 0 || decide (512 < c.n 28 2) || c.n 30 2 = 0 ||
            decide ((if d.ebits = 4 then 256 else 128) < c.n 30 2), 0x33)] (.go ds)))

/-- DF of PNY_MMA: 0 WS, 1 OS, 2 IS. -/
def Cmd.df (c : Cmd) : Nat := c.n 46 1 % 4

/-- The descriptors PNY_MMA reads: A for WS and OS, B for OS and IS (Table 5.3). -/
def Cmd.mmaDescs (c : Cmd) : List Nat :=
  match c.df with
  | 0 => [c.n 16 8]
  | 1 => [c.n 16 8, c.n 24 8]
  | 2 => [c.n 24 8]
  | _ => []

/-- PNY_MMA's start (R113, R116, R131). -/
def State.startMma (s : State) (a : Agent) (c : Cmd) : StartResult :=
  let m := c.n 38 2
  let n := c.n 40 2
  let k := c.n 42 2
  if m = 0 || n = 0 || k = 0 then .zero
  else match s.readDescs a c.mmaDescs with
    | .error f => .fail f
    | .ok ds =>
      let cc : Cmd := { c with descs := ds }
      let all := c.mmaDescs.map cc.desc
      let st := (s.peonyAt c.inst).set (c.bit 46 2)
      let useSet := c.df = 0 || c.df = 2
      let fmts := all.map Desc.fmt ++ (if useSet && st.valid then [st.fmt] else [])
      let rows := if c.df = 2 then n else m
      let cols := if c.df = 2 then m else n
      let reads := (if c.df < 2 then (cc.desc (c.n 16 8)).readRegion (c.n 32 2) m else []) ++
        (if c.df = 1 ∨ c.df = 2 then (cc.desc (c.n 24 8)).readRegion (c.n 34 2) n else [])
      firstFail [(all.any (fun d => !d.valid), 0x39), (all.any (fun d => !(scaleOk d.tscale)), 0x34),
          (fmts.any (fun f => !(arrayFmt f)), 0x31), (fmts.any isIntFmt && fmts.any (fun f => !(isIntFmt f)), 0x32)]
        (windowCheck (s.regionsOk a false (peonyWindow c.inst) reads)
          (firstFail [(c.df = 3 || (c.df = 0 && decide (512 < m)) || (c.df = 1 && (decide (128 < m) || decide (512 < n))) ||
              (c.df = 2 && decide (512 < n)), 0x33),
            (decide (512 < c.n 44 2 + rows) || decide (512 < cols), 0x35),
            (useSet && (!st.valid || decide (st.rows < (if c.df = 0 then n else m)) || decide (st.kext < k)), 0x36)]
            (.go ds)))

/-- PNY_STORE's start (R117, R118, R131). -/
def State.startStore (s : State) (a : Agent) (c : Cmd) : StartResult :=
  let rows := c.n 30 2
  let cols := c.n 34 2
  if rows = 0 || cols = 0 then .zero
  else match s.readDescs a [c.n 16 8] with
    | .error f => .fail f
    | .ok ds =>
      let d := ({ c with descs := ds } : Cmd).desc (c.n 16 8)
      let nr := if c.bit 48 0 then cols else rows
      let nc := if c.bit 48 0 then rows else cols
      firstFail [(!d.valid, 0x39),
          (!(scaleOk d.tscale) || !(scaleOk (c.f32 36)) || !(scaleOk (c.f32 40)) ||
            (usesRcp d.fmt && !(scaleOk (c.f32 44))), 0x34),
          (!(storeFmt d.fmt), 0x31)]
        (windowCheck (s.regionsOk a true (peonyWindow c.inst) (d.writeRegion (c.n 24 2) nr))
          (firstFail [(decide (512 < c.n 28 2 + rows) || decide (512 < c.n 32 2 + cols), 0x35),
            (!(d.coversOk (c.n 26 2) nc), 0x3B)] (.go ds)))

/-- Is operand i (0 X, 1 Y, 2 Z) of PNY_VEC in the accumulators? -/
def Cmd.inAcc (c : Cmd) (i : Nat) : Bool := c.bit 49 (4 + i)

/-- The operands PNY_VEC uses. -/
def Cmd.vecOps (c : Cmd) : List Nat := if vecUsesY (c.n 48 1) then [0, 1, 2] else [0, 2]

/-- Rows and columns of operand i of PNY_VEC (Table 5.4). -/
def Cmd.vecDims (c : Cmd) (i : Nat) : Nat × Nat :=
  let f := c.n 48 1
  match i with
  | 1 => (if f = 0x13 then 1 else if f = 0x14 then 2 else c.n 44 2, c.n 46 2)
  | 2 => (c.n 44 2, if f = 0x10 ∨ f = 0x11 then 1 else c.n 46 2)
  | _ => (c.n 44 2, c.n 46 2)

/-- First row and column of operand i of PNY_VEC: its own in the accumulators, the command's origin in memory. -/
def Cmd.vecOrigin (c : Cmd) (i : Nat) : Nat × Nat :=
  if c.inAcc i then (c.n (16 + 8 * i) 2, c.n (18 + 8 * i) 2) else (c.n 40 2, c.n 42 2)

/-- Does Z overlap operand i other than by being the same region (R121)? -/
def State.vecOverlap (s : State) (a : Agent) (c : Cmd) (i : Nat) : Bool :=
  let o := c.vecOrigin i
  let z := c.vecOrigin 2
  let e := c.vecDims i
  let f := c.vecDims 2
  if c.inAcc i && c.inAcc 2 then
    !(o = z) && overlaps o.1 e.1 z.1 f.1 && overlaps o.2 e.2 z.2 f.2
  else if !(c.inAcc i) && !(c.inAcc 2) then
    let d := c.desc (c.n (16 + 8 * i) 8)
    let dz := c.desc (c.n 32 8)
    !(d.base = dz.base && d.fmt = dz.fmt && d.layout = dz.layout && d.stride = dz.stride) &&
    s.regionsMeet a (d.readRegion o.1 e.1) (dz.writeRegion z.1 f.1)
  else false

/-- PNY_VEC's start (R119, R121, R131). -/
def State.startVec (s : State) (a : Agent) (c : Cmd) : StartResult :=
  if c.n 44 2 = 0 || c.n 46 2 = 0 then .zero
  else
    let memOps := c.vecOps.filter (fun i => !(c.inAcc i))
    match s.readDescs a (memOps.map (fun i => c.n (16 + 8 * i) 8)) with
    | .error f => .fail f
    | .ok ds =>
      let cc : Cmd := { c with descs := ds }
      let dOf := fun (i : Nat) => cc.desc (c.n (16 + 8 * i) 8)
      let zMem := !(c.inAcc 2)
      let reads := ((memOps.filter (· < 2)).map (fun i => (dOf i).readRegion (c.vecOrigin i).1 (c.vecDims i).1)).flatten
      let writes := if zMem then (dOf 2).writeRegion (c.vecOrigin 2).1 (c.vecDims 2).1 else []
      firstFail [(memOps.any (fun i => !(dOf i).valid), 0x39),
          (memOps.any (fun i => !(scaleOk (dOf i).tscale)) ||
            (zMem && usesRcp (dOf 2).fmt && !(scaleOk (c.f32 60))), 0x34),
          (memOps.any (fun i => decide (12 ≤ (dOf i).fmt)) || (zMem && !(storeFmt (dOf 2).fmt)), 0x31)]
        (windowCheck (s.regionsOk a false (peonyWindow c.inst) reads)
          (windowCheck (s.regionsOk a true (peonyWindow c.inst) writes)
            (firstFail [(c.vecOps.any (fun i => c.inAcc i &&
                (decide (512 < (c.vecOrigin i).1 + (c.vecDims i).1) || decide (512 < (c.vecOrigin i).2 + (c.vecDims i).2))), 0x35),
              (!(vecDefined (c.n 48 1)), 0x37),
              (zMem && !((dOf 2).coversOk (c.n 42 2) (c.vecDims 2).2), 0x3B),
              ((c.vecOps.filter (· < 2)).any (s.vecOverlap a cc), 0x27)] (.go ds))))

/-- PNY_COPY's start (R106, R78). -/
def State.startCopy (s : State) (a : Agent) (c : Cmd) : StartResult :=
  let n := c.n 32 4
  if n = 0 then .zero
  else
    windowCheck (s.regionsOk a false (s.copyWindow c) [(c.n 16 8, n)])
      (windowCheck (s.regionsOk a true (s.copyWindow c) [(c.n 24 8, n)])
        (firstFail [(s.regionsMeet a [(c.n 16 8, n)] [(c.n 24 8, n)], 0x27)] (.go [])))

/-- PNY_ACC_CLEAR's start (R121). -/
def Cmd.startClear (c : Cmd) : StartResult :=
  if c.n 18 2 = 0 || c.n 22 2 = 0 then .zero
  else firstFail [(decide (512 < c.n 16 2 + c.n 18 2) || decide (512 < c.n 20 2 + c.n 22 2), 0x35)] (.go [])

/-! ### The work -/

/-- Accumulator element (r, c). -/
def PeonyCore.at (p : PeonyCore) (r c : Nat) : BitVec 32 := SMap.get 0 p.acc (512 * r + c)

/-- Accumulator element (r, c) becomes v. -/
def PeonyCore.put (p : PeonyCore) (r c : Nat) (v : BitVec 32) : PeonyCore :=
  { p with acc := SMap.set 0 p.acc (512 * r + c) v }

/-- The code a command that read poisoned data completes with (R354). -/
def poisonStatus (bad : Bool) : Byte := if bad then 0xC0 else 0

/-- PNY_LOAD_W loads a tile into a stationary set (R116, R109). -/
def execPnyLoadW (id : Nat) (_ext : Ext) (s : State) : Host.Outcome State Fault Refusal :=
  match s.working id 0 1 with
  | none => .next s
  | some c =>
    if !(s.peonyTurn c) then .next s
    else
      let a := c.agent
      let d := c.desc (c.n 16 8)
      let rows := c.n 28 2
      let k := c.n 30 2
      let reads := d.readRegion (c.n 24 2) rows
      let es := ((List.range rows).map (fun r => (List.range k).map (fun j =>
        s.arrayElem a d (c.n 24 2 + r) (c.n 26 2 + j)))).flatten
      let st : StatSet := { valid := true, fmt := d.fmt, rows := rows, kext := k, scale := d.tscale, elems := es }
      let p := s.peonyAt c.inst
      let bad := s.regionsPoisoned a reads
      .next (s.withReads c reads
        ((s.setPeony c.inst (if c.bit 32 0 then { p with set1 := st } else { p with set0 := st })).workDone c (poisonStatus bad) 0))

/-- The exact sum of several values, from the first on; a NaN among them gives NaN and no NAN_GEN (R92). -/
def sumX : List Num → Num × NFlags
  | [] => (.fin false 0 0, 0)
  | z :: zs =>
    if (z :: zs).contains .nan then (.nan, 0)
    else zs.foldl (fun acc e =>
      let (t, g) := addX acc.1 e
      (t, acc.2 ||| g)) (z, 0)

/-- The exact sum of one group's products (R97). -/
def groupSum (ps : List (Num × Num)) : Num × NFlags :=
  let prods := ps.map (fun e =>
    let (z, f) := mulX e.1 e.2
    (z, f ||| readFlags e.1 ||| readFlags e.2))
  let (v, g) := sumX (prods.map Prod.fst)
  (v, prods.foldl (fun f e => f ||| e.2) g)

/-- One FP32 accumulator after one group (R97). -/
def addGroup (acc : BitVec 32) (ps : List (Num × Num)) : BitVec 32 × NFlags :=
  let (v, f) := groupSum ps
  let (w, h) := to32 false false v
  let (x, e) := fadd false false acc w
  (x, f ||| h ||| e)

/-- One FP32 accumulator after products in groups of 32 (R97). -/
def addGroups : Nat → BitVec 32 → List (Num × Num) → BitVec 32 × NFlags
  | 0, acc, _ => (acc, 0)
  | fuel + 1, acc, ps =>
    if ps.isEmpty then (acc, 0)
    else
      let (x, f) := addGroup acc (ps.take 32)
      let (r, g) := addGroups fuel x (ps.drop 32)
      (r, f ||| g)

/-- A sum of products as INT32, saturating with ISAT (R100). -/
def satAdd (a : BitVec 32) (v : Int) : BitVec 32 × NFlags :=
  let t := a.toInt + v
  if t < -2147483648 then (0x80000000, fIsat)
  else if 2147483647 < t then (0x7FFFFFFF, fIsat)
  else (BitVec.ofInt 32 t, 0)

/-- One accumulator element after the products of two element rows, in groups of 32 (R97, R100). -/
def accumulate (fa fb : Nat) : Nat → BitVec 32 → List (Elem × Elem) → BitVec 32 × NFlags
  | 0, acc, _ => (acc, 0)
  | fuel + 1, acc, ps =>
    if ps.isEmpty then (acc, 0)
    else
      let g := ps.take 32
      let (nxt, f) :=
        if isIntFmt fa then
          satAdd acc ((g.map (fun e => signedOf (Machine.ebits fa) e.1.1.toNat * signedOf (Machine.ebits fb) e.2.1.toNat)).foldl (· + ·) 0)
        else
          addGroup acc (g.map (fun e => (elemNum fa e.1.1.toNat e.1.2, elemNum fb e.2.1.toNat e.2.2)))
      let (r, f2) := accumulate fa fb fuel nxt (ps.drop 32)
      (r, f ||| f2)

/-- Row r of a stationary set, its first k elements. -/
def StatSet.row (st : StatSet) (r k : Nat) : List Elem := (st.elems.drop (r * st.kext)).take k

/-- K elements of row r of an array operand from column k0 on. -/
def State.arrayRow (s : State) (a : Agent) (d : Desc) (r k0 k : Nat) : List Elem :=
  (List.range k).map (fun j => s.arrayElem a d r (k0 + j))

/-- Did a window of an array operand leave its descriptor (EDGE, R109)? -/
def Desc.edge (d : Desc) (r0 nr c0 nc : Nat) : Bool := decide (d.rows < r0 + nr) || decide (d.cols < c0 + nc)

/-- Is a product gated: a zero operand with a finite other one (R112)? -/
def gatedPair (fa fb : Nat) (e : Elem × Elem) : Bool :=
  match elemNum fa e.1.1.toNat e.1.2, elemNum fb e.2.1.toNat e.2.2 with
  | .fin _ m _, .fin _ n _ => decide (m = 0) || decide (n = 0)
  | _, _ => false

/-- PNY_GATED counts gated cell-cycles in units of 65,536 (R112): halves of a cell-cycle are added up, and what is left of a unit is
kept. A cell works on one product a vector, on two where E is 256, half of it gated by each; products outside the window, of cells
that hold no operand, are not counted (DESIGN CHOICE, log entry 81). -/
def State.countGated (s : State) (n halves : Nat) : State :=
  let p := s.peonyAt n
  let all := p.gatedRest + halves
  let t := s.setPeony n { p with gatedRest := all % 131072 }
  if all / 131072 = 0 then t else t.bump (Reg.pnyGated n) (all / 131072)

/-- PNY_MMA accumulates C[m, n] = Σk A[m, k] · B[n, k] (R113, R97). -/
def execPnyMma (id : Nat) (ext : Ext) (s : State) : Host.Outcome State Fault Refusal :=
  match s.working id 0 2 with
  | none => .next s
  | some c =>
    if !(s.peonyTurn c) then .next s
    else
      let a := c.agent
      let m := c.n 38 2
      let n := c.n 40 2
      let k := c.n 42 2
      let p := s.peonyAt c.inst
      let st := p.set (c.bit 46 2)
      let da := c.desc (c.n 16 8)
      let db := c.desc (c.n 24 8)
      let setA := c.df = 2
      let setB := c.df = 0
      let fa := if setA then st.fmt else da.fmt
      let fb := if setB then st.fmt else db.fmt
      let rowsA := (List.range m).map (fun i => if setA then st.row i k else s.arrayRow a da (c.n 32 2 + i) (c.n 36 2) k)
      let rowsB := (List.range n).map (fun i => if setB then st.row i k else s.arrayRow a db (c.n 34 2 + i) (c.n 36 2) k)
      let ovr := c.bit 46 3
      let out := (rowsA.zipIdx).foldl (fun (acc : PeonyCore × NFlags) ra =>
        (rowsB.zipIdx).foldl (fun (acc : PeonyCore × NFlags) rb =>
          let r := c.n 44 2 + (if setA then rb.2 else ra.2)
          let col := if setA then ra.2 else rb.2
          let (v, f) := accumulate fa fb (k / 32 + 1) (if ovr then 0 else acc.1.at r col) (ra.1.zip rb.1)
          (acc.1.put r col v, acc.2 ||| f)) acc) (p, (0 : NFlags))
      let edge := (!setA && da.edge (c.n 32 2) m (c.n 36 2) k) || (!setB && db.edge (c.n 34 2) n (c.n 36 2) k)
      let reads := (if setA then [] else da.readRegion (c.n 32 2) m) ++ (if setB then [] else db.readRegion (c.n 34 2) n)
      let bad := s.regionsPoisoned a reads
      let e := if Machine.ebits fa = 4 ∧ Machine.ebits fb = 4 then 256 else 128
      let vecs := (if c.df = 0 then m else if c.df = 2 then n else 1) * ceilDiv k e
      let cyc := if Machine.ebits fa = 16 ∨ Machine.ebits fb = 16 then 2 else 1
      let gated := sumNat (rowsA.map (fun ra => sumNat (rowsB.map (fun rb => ((ra.zip rb).filter (gatedPair fa fb)).length))))
      let t := (s.setPeony c.inst out.1).bump (Reg.pnyArrayActive c.inst) (vecs * cyc)
      let t := (t.bump (Reg.pnyFreezeFeed c.inst) (ext.nums.getD 0 0)).countGated c.inst (gated * cyc * (if e = 256 then 1 else 2))
      .next (s.withReads c reads (t.workDone c (poisonStatus bad) (flagsResult out.2 (2 ^ 23 * b2n edge))))

/-- What PNY_STORE converts of accumulator word w (R117 steps 1 and 2). -/
def storeValue (fmt : Nat) (accInt : Bool) (p rcp w : BitVec 32) : BitVec 32 × NFlags :=
  let y : Num × NFlags :=
    if accInt then
      if isIntFmt fmt then (numOfInt w.toInt, 0)
      else
        let (x, f) := to32 false false (numOfInt w.toInt)
        (val32 x, f)
    else (val32 w, readFlags (val32 w))
  let (x, f) := mulX y.1 (val32 p)
  let (u, g) := to32 false false x
  if usesRcp fmt then
    let (v, h) := fmul false false u rcp
    (v, y.2 ||| f ||| g ||| h)
  else (u, y.2 ||| f ||| g)

/-- PNY_STORE drains an accumulator window to a tensor (R117, R98). -/
def execPnyStore (id : Nat) (ext : Ext) (s : State) : Host.Outcome State Fault Refusal :=
  match s.working id 0 3 with
  | none => .next s
  | some c =>
    if !(s.peonyTurn c) then .next s
    else
      let a := c.agent
      let d := c.desc (c.n 16 8)
      let rows := c.n 30 2
      let cols := c.n 34 2
      let (p, fp) := fmul false false (c.f32 36) (c.f32 40)
      let pc := s.peonyAt c.inst
      let val := fun (r k : Nat) => storeValue d.fmt (c.bit 48 5) p (c.f32 44) (pc.at (c.n 28 2 + r) (c.n 32 2 + k))
      let win := if c.bit 48 0 then (List.range cols).map (fun k => (List.range rows).map (fun r => val r k))
        else (List.range rows).map (fun r => (List.range cols).map (fun k => val r k))
      let fl := (win.map (fun r => (r.map Prod.snd).foldl (· ||| ·) 0)).foldl (· ||| ·) fp
      let cleared := if c.bit 48 4 then
          (List.range rows).foldl (fun q r => (List.range cols).foldl (fun q k => q.put (c.n 28 2 + r) (c.n 32 2 + k) 0) q) pc
        else pc
      let (t, f, dropped) := (s.setPeony c.inst cleared).storeRows a c.core c.cls3 d (c.bit 48 1) (c.bit 48 2) (c.bit 48 3)
        (c.n 24 2) (c.n 26 2) (win.map (fun r => r.map Prod.fst)) false
      .next ((t.bump (Reg.pnyFreezeDrain c.inst) (ext.nums.getD 0 0)).workDone c 0
        (flagsResult (fl ||| f) (2 ^ 23 * b2n dropped)))

/-- n elements of row r of PNY_VEC's operand i as FP32 (R119). -/
def State.vecRow (s : State) (a : Agent) (c : Cmd) (i r n : Nat) : List (BitVec 32 × NFlags) :=
  let o := c.vecOrigin i
  if c.inAcc i then
    let p := s.peonyAt c.inst
    (List.range n).map (fun k =>
      let w := p.at (o.1 + r) (o.2 + k)
      if c.bit 49 3 then to32 false false (numOfInt w.toInt) else (w, readFlags (val32 w)))
  else
    let d := c.desc (c.n (16 + 8 * i) 8)
    (List.range n).map (fun k => s.vecElem a d (o.1 + r) (o.2 + k))

/-- An elementwise vector function (Table 5.4). -/
def vecElemFn (func : Nat) (rtz sat : Bool) (a b x y : BitVec 32) : BitVec 32 × NFlags :=
  match func with
  | 0x00 => to32 rtz sat (val32 x)
  | 0x01 => fadd rtz sat x y
  | 0x02 => fmul rtz sat x y
  | 0x03 => ffma rtz sat x a y
  | 0x04 => ffma rtz sat x a b
  | 0x05 => (fmax x y, 0)
  | 0x06 => fexp x a sat
  | 0x07 => frecip x sat
  | 0x08 => frsqrt x sat
  | 0x09 => ftanh x sat
  | 0x0A => fsigmoid x sat
  | 0x0B => fgelu x sat
  | _ => fsilu x sat

/-- The pairwise tree sum, its last addition under SAT (R119, R445); an infinite sum stays infinite. -/
def treeSumSat (sat : Bool) (xs : List (BitVec 32)) : BitVec 32 × NFlags :=
  if xs.length < 2 then treeSum xs
  else
    let k := 2 ^ Nat.log2 (xs.length - 1)
    let (l, f) := treeSum (xs.take k)
    let (r, g) := treeSum (xs.drop k)
    let (t, h) := fadd false sat l r
    (t, f ||| g ||| h)

/-- The maximum of a row (Table 5.4, ROW_MAX). -/
def rowMax : List (BitVec 32) → BitVec 32
  | [] => 0
  | x :: xs => xs.foldl fmax (canon32 x)

/-- A list of results and their flags. -/
def collect (rs : List (BitVec 32 × NFlags)) : List (BitVec 32) × NFlags :=
  (rs.map Prod.fst, (rs.map Prod.snd).foldl (· ||| ·) 0)

/-- 1 / n as the row functions take it: RECIP of n (R445). -/
def recipOf (n : Nat) : BitVec 32 × NFlags := frecip (to32 false false (numOfInt n)).1 false

/-- SOFTMAX of a row (R445, R120). -/
def vecSoftmax (sat : Bool) (immA : BitVec 32) (xs : List (BitVec 32)) : List (BitVec 32) × NFlags :=
  if xs.all (fun x => x = 0xFF800000) then (xs.map (fun _ => 0), 0)
  else if xs.contains 0x7F800000 then (xs.map (fun _ => nan32), fNanGen)
  else
    let m := rowMax xs
    let (ds, f1) := collect (xs.map (fun x => fsub x m))
    let (es, f2) := collect (ds.map (fun d => fexp d immA false))
    let (t, f3) := treeSum es
    let (r, f4) := frecip t false
    let (zs, f5) := collect (es.map (fun e => fmul false sat e r))
    (zs, f1 ||| f2 ||| f3 ||| f4 ||| f5)

/-- RMSNORM of a row (R445). -/
def vecRmsnorm (sat : Bool) (immB : BitVec 32) (xs y0 : List (BitVec 32)) : List (BitVec 32) × NFlags :=
  let (rn, f0) := recipOf xs.length
  let (qs, f1) := collect (xs.map (fun x => fmul false false x x))
  let (t, f2) := treeSum qs
  let (ms, f3) := fmul false false t rn
  let (u, f4) := fadd false false ms immB
  let (k, f5) := frsqrt u false
  let (zs, f6) := collect ((xs.zip y0).map (fun e =>
    let (p, g) := fmul false false e.1 k
    let (z, h) := fmul false sat p e.2
    (z, g ||| h)))
  (zs, f0 ||| f1 ||| f2 ||| f3 ||| f4 ||| f5 ||| f6)

/-- LAYERNORM of a row (R445). -/
def vecLayernorm (sat : Bool) (immB : BitVec 32) (xs y0 y1 : List (BitVec 32)) : List (BitVec 32) × NFlags :=
  let (rn, f0) := recipOf xs.length
  let (t, f1) := treeSum xs
  let (mu, f2) := fmul false false t rn
  let (ds, f3) := collect (xs.map (fun x => fsub x mu))
  let (qs, f4) := collect (ds.map (fun d => fmul false false d d))
  let (tq, f5) := treeSum qs
  let (v, f6) := fmul false false tq rn
  let (u, f7) := fadd false false v immB
  let (k, f8) := frsqrt u false
  let (zs, f9) := collect ((ds.zip (y0.zip y1)).map (fun e =>
    let (p, g) := fmul false false e.1 k
    let (z, h) := ffma false sat p e.2.1 e.2.2
    (z, g ||| h)))
  (zs, f0 ||| f1 ||| f2 ||| f3 ||| f4 ||| f5 ||| f6 ||| f7 ||| f8 ||| f9)

/-- One row of PNY_VEC's result (Table 5.4); y0 and y1 are rows 0 and 1 of Y for the normalizations. -/
def vecRowFn (c : Cmd) (xs ys y0 y1 : List (BitVec 32)) : List (BitVec 32) × NFlags :=
  let func := c.n 48 1
  let sat := c.bit 49 1
  match func with
  | 0x10 => let (t, f) := treeSumSat sat xs; ([t], f)
  | 0x11 => ([rowMax xs], 0)
  | 0x12 => vecSoftmax sat (c.f32 52) xs
  | 0x13 => vecRmsnorm sat (c.f32 56) xs y0
  | 0x14 => vecLayernorm sat (c.f32 56) xs y0 y1
  | _ => collect ((xs.zip (ys ++ List.replicate (xs.length - ys.length) 0)).map (fun e =>
      vecElemFn func (c.bit 49 0) sat (c.f32 52) (c.f32 56) e.1 e.2))

/-- The flags of reading a row of X: an infinite operand sets none where R120 gives its result without a flag, in GELU and SILU and in
a SOFTMAX row of −∞ alone. -/
def rowReadFlags (func : Nat) (xs : List (BitVec 32 × NFlags)) : NFlags :=
  let quiet := func = 0x0B || func = 0x0C || (func = 0x12 && xs.all (fun x => x.1 = 0xFF800000))
  xs.foldl (fun f x => f ||| (if quiet then x.2 &&& ~~~fInfIn else x.2)) 0

/-- Elementwise functions of two operands read Y's own row. -/
def vecPairwise (func : Nat) : Bool := [1, 2, 3, 5].contains func

/-- The bytes PNY_VEC reads in memory: the rows of its memory operands' windows. -/
def Cmd.vecReads (c : Cmd) : List (Nat × Nat) :=
  ((c.vecOps.filter (fun i => decide (i < 2) && !(c.inAcc i))).map (fun i =>
    (c.desc (c.n (16 + 8 * i) 8)).readRegion (c.vecOrigin i).1 (c.vecDims i).1)).flatten

/-- PNY_VEC applies a vector function to ROWS × COLS elements (R119–R121). -/
def execPnyVec (id : Nat) (ext : Ext) (s : State) : Host.Outcome State Fault Refusal :=
  match s.working id 0 4 with
  | none => .next s
  | some c =>
    if !(s.peonyTurn c) then .next s
    else
      let a := c.agent
      let func := c.n 48 1
      let rows := c.n 44 2
      let cols := c.n 46 2
      let norm := func = 0x13 || func = 0x14
      let (y0, g0) := if norm then collect (s.vecRow a c 1 0 cols) else ([], 0)
      let (y1, g1) := if func = 0x14 then collect (s.vecRow a c 1 1 cols) else ([], 0)
      let res := (List.range rows).map (fun r =>
        let row := s.vecRow a c 0 r cols
        let xs := row.map Prod.fst
        let f := rowReadFlags func row
        let (ys, g) := if vecPairwise func then collect (s.vecRow a c 1 r cols) else ([], 0)
        let (zs, h) := vecRowFn c xs ys y0 y1
        (zs, f ||| g ||| h))
      let fl := (res.map Prod.snd).foldl (· ||| ·) (g0 ||| g1)
      let imm := (if [3, 4, 6, 0x12].contains func then readFlags (val32 (c.f32 52)) else 0) |||
        (if [4, 0x13, 0x14].contains func then readFlags (val32 (c.f32 56)) else 0)
      let memIn := (c.vecOps.filter (fun i => decide (i < 2) && !(c.inAcc i)))
      let reads := c.vecReads
      let bad := s.regionsPoisoned a reads
      let edge := memIn.any (fun i => (c.desc (c.n (16 + 8 * i) 8)).edge (c.vecOrigin i).1 (c.vecDims i).1
        (c.vecOrigin i).2 (c.vecDims i).2)
      let z := c.vecOrigin 2
      let (t, f) : State × NFlags :=
        if c.inAcc 2 then
          let p := (res.zipIdx).foldl (fun (p : PeonyCore) e =>
            (e.1.1.zipIdx).foldl (fun p v => p.put (z.1 + e.2) (z.2 + v.2) v.1) p) (s.peonyAt c.inst)
          (s.setPeony c.inst p, 0)
        else
          let d := c.desc (c.n 32 8)
          let sc := res.map (fun e => if usesRcp d.fmt then collect (e.1.map (fun x => fmul false false x (c.f32 60))) else (e.1, 0))
          let (t, f, _) := s.storeRows a c.core c.cls3 d (c.bit 49 0) (c.bit 49 1) (c.bit 49 2) z.1 z.2 (sc.map Prod.fst) bad
          (t, (sc.map Prod.snd).foldl (· ||| ·) f)
      .next (s.withReads c reads ((t.bump (Reg.pnyFreezeDrain c.inst) (ext.nums.getD 0 0)).workDone c (poisonStatus bad)
        (flagsResult (fl ||| imm ||| f) (2 ^ 23 * b2n edge))))

/-- PNY_COPY moves bytes between SRAM regions of one die (R106). -/
def execPnyCopy (id : Nat) (ext : Ext) (s : State) : Host.Outcome State Fault Refusal :=
  match s.working id 0 5 with
  | none => .next s
  | some c =>
    let a := c.agent
    let n := c.n 32 4
    match s.load a (c.n 16 8) n with
    | .error f => .next (s.failWork c f)
    | .ok bs =>
      let bad := s.regionPoisoned a (c.n 16 8) n
      let t := s.store a c.core c.cls3 (c.n 24 8) bs bad
      .next ((t.bump (Reg.pnyFreezeDrain c.inst) (ext.nums.getD 0 0)).workDone c (poisonStatus bad) 0)

/-- PNY_ACC_CLEAR writes +0 into an accumulator window (R121). -/
def execPnyAccClear (id : Nat) (_ext : Ext) (s : State) : Host.Outcome State Fault Refusal :=
  match s.working id 0 6 with
  | none => .next s
  | some c =>
    if !(s.peonyTurn c) then .next s
    else
      let p := (List.range (c.n 18 2)).foldl (fun p r =>
        (List.range (c.n 22 2)).foldl (fun p k => p.put (c.n 16 2 + r) (c.n 20 2 + k) 0) p) (s.peonyAt c.inst)
      .next ((s.setPeony c.inst p).workDone c 0 0)

/-- The start of a Peony command, by its opcode. -/
def State.startPeony (s : State) (a : Agent) (c : Cmd) : StartResult :=
  match cmdOpcode c.word with
  | 1 => s.startLoadW a c
  | 2 => s.startMma a c
  | 3 => s.startStore a c
  | 4 => s.startVec a c
  | 5 => s.startCopy a c
  | 6 => c.startClear
  | _ => .go []

end Sys2Proof.Machine
end

