-- ==== Sys2Proof/Machine/Search.lean ====
section
/-!
DEFINITION. Clematis vector search (06): index headers, nodes and scores (R135–R139), walks and provisional lists
(R141–R145), the node cache (R146), the side list (R150, R151), merges (R152, R153), filters (R154, R155).
-/

namespace Sys2Proof.Machine

/-- The index header of Table 6.1. -/
structure IndexHdr where
  raw : List Byte
deriving DecidableEq, Repr

def IndexHdr.n (h : IndexHdr) (off k : Nat) : Nat := numAt h.raw off k
def IndexHdr.metric (h : IndexHdr) : Nat := h.n 2 1
def IndexHdr.depth (h : IndexHdr) : Nat := h.n 3 1
def IndexHdr.centFmt (h : IndexHdr) : Nat := h.n 4 1 % 16
def IndexHdr.cbFmt (h : IndexHdr) : Nat := h.n 4 1 / 16
def IndexHdr.cacheLevels (h : IndexHdr) : Nat := h.n 5 1
def IndexHdr.d (h : IndexHdr) : Nat := h.n 6 2
def IndexHdr.root (h : IndexHdr) : Nat := h.n 8 8
def IndexHdr.codebook (h : IndexHdr) : Nat := h.n 16 8
def IndexHdr.leafTable (h : IndexHdr) : Nat := h.n 24 8
def IndexHdr.leafCount (h : IndexHdr) : Nat := h.n 32 4
def IndexHdr.sideCap (h : IndexHdr) : Nat := h.n 36 4
def IndexHdr.sideBase (h : IndexHdr) : Nat := h.n 40 8
def IndexHdr.sideTail (h : IndexHdr) : Nat := h.n 48 8
def IndexHdr.sideFree (h : IndexHdr) : Nat := h.n 56 8
def IndexHdr.nextSeq (h : IndexHdr) : Nat := h.n 64 8
def IndexHdr.mergeMark (h : IndexHdr) : Nat := h.n 72 8
def IndexHdr.merging (h : IndexHdr) : Bool := h.n 80 1 % 2 = 1

/-- Does the header meet every constraint of Table 6.1 (else 0x40)? -/
def IndexHdr.valid (h : IndexHdr) : Bool :=
  decide (h.n 0 2 = 1) && decide (h.metric ≤ 2) && decide (2 ≤ h.depth) && decide (h.depth ≤ 6) &&
  (h.centFmt = 1 || h.centFmt = 3) && decide (h.cbFmt ≤ 1) && decide (h.cacheLevels < h.depth) &&
  decide (64 ≤ h.d) && decide (h.d ≤ 4096) && decide (h.d % 64 = 0) &&
  [h.root, h.codebook, h.leafTable, h.sideBase].all (fun a => decide (a < 2 ^ 48)) &&
  decide (h.leafCount ≠ 0) && decide (1 ≤ h.sideCap) && decide (h.sideCap ≤ 67108864) &&
  decide (h.n 80 1 < 2) && allZero (bytesAt h.raw 81 175)

/-- The header a Clematis command names. -/
def State.indexHdr (s : State) (a : Agent) (va : Nat) : Except MemFail IndexHdr :=
  match s.load a va 256 with
  | .ok bs => .ok { raw := bs }
  | .error f => .error f

/-! ### Scores (R139) -/

/-- A sum of terms in order, each addition rounded to FP32. -/
def seqSum : List (BitVec 32) → BitVec 32 × NFlags
  | [] => (0, 0)
  | x :: xs => xs.foldl (fun acc y =>
      let (t, f) := fadd false false acc.1 y
      (t, acc.2 ||| f)) (x, 0)

/-- The dot product in increasing element order. -/
def dotSeq (xs ys : List (BitVec 32)) : BitVec 32 × NFlags :=
  let (ps, f) := collect ((xs.zip ys).map (fun e => fmul false false e.1 e.2))
  let (t, g) := seqSum ps
  (t, f ||| g)

/-- The squared distance in increasing element order. -/
def distSeq (xs ys : List (BitVec 32)) : BitVec 32 × NFlags :=
  let (ds, f) := collect ((xs.zip ys).map (fun e => fsub e.1 e.2))
  let (t, g) := dotSeq ds ds
  (t, f ||| g)

/-- The score of a query against a centroid: larger is better (R139). -/
def centScore (metric : Nat) (q c : List (BitVec 32)) : BitVec 32 × NFlags :=
  if metric = 1 then
    let (t, f) := distSeq q c
    (fneg t, f)
  else dotSeq q c

/-- Elements of an unscaled floating-point format in bytes, as FP32. -/
def f32sOf (fmt : Nat) (bs : List Byte) : List (BitVec 32) × NFlags :=
  let w := Machine.ebits fmt / 8
  collect ((List.range (bs.length / w)).map (fun i =>
    let v := decodeF (fmtOf fmt) (numAt bs (i * w) w)
    ((to32 false false v).1, readFlags v)))

/-- Cut a list into n runs of k. -/
def cut {α : Type} (k : Nat) : Nat → List α → List (List α)
  | 0, _ => []
  | n + 1, xs => xs.take k :: cut k n (xs.drop k)

/-- A leaf entry's score from its code (R137, R139): Σ over subspaces of the query's part against the centroid. -/
def leafScore (metric : Nat) (q : List (BitVec 32)) (book : List (List (BitVec 32))) (code : List Byte) : BitVec 32 × NFlags :=
  let qs := cut (q.length / 64) 64 q
  let (ts, f) := collect ((qs.zipIdx).map (fun e =>
    let b := (code.getD (e.2 / 2) 0).toNat
    let c := book.getD (16 * e.2 + (if e.2 % 2 = 0 then b % 16 else b / 16)) []
    if metric = 1 then distSeq e.1 c else dotSeq e.1 c))
  let (t, g) := seqSum ts
  (if metric = 1 then fneg t else t, f ||| g)

/-- Does score a rank above score b: larger, a NaN below every other (R143)? -/
def scoreAbove (a b : BitVec 32) : Bool :=
  match val32 a, val32 b with
  | .nan, _ => false
  | _, .nan => true
  | x, y => numLt y x

/-- Stable insertion of x before the first element it goes before. -/
def insertBy {α : Type} (before : α → α → Bool) (x : α) : List α → List α
  | [] => [x]
  | y :: ys => if before x y then x :: y :: ys else y :: insertBy before x ys

/-- Stable sort: earlier elements stay before later equal ones. -/
def sortBy {α : Type} (before : α → α → Bool) (xs : List α) : List α := xs.foldl (fun acc x => insertBy before x acc) []

/-! ### Nodes -/

/-- A child kept or scored: its entry, its score, its place in its parent, its parent's rank. -/
structure Child where
  entry : Nat
  score : BitVec 32
  place : Nat
  parent : Nat
deriving DecidableEq, Repr

/-- What reading a node gave: its children scored, or that it breaks R136 (corrupt), with what was read. -/
structure NodeScan where
  children : List Child
  ok : Bool
  nan : Bool
  flags : NFlags
  reads : List (Nat × Nat)
deriving DecidableEq, Repr

/-- Round up to a multiple of 64. -/
def up64 (n : Nat) : Nat := ceilDiv n 64 * 64

/-- Read and score the internal node at va of a level, the rank-th kept (R136, R141). -/
def State.scanNode (s : State) (a : Agent) (h : IndexHdr) (q : List (BitVec 32)) (level rank va : Nat) : Except MemFail NodeScan :=
  match s.load a va 64 with
  | .error f => .error f
  | .ok hd =>
    let n := numAt hd 2 2
    let row := h.d * Machine.ebits h.centFmt / 8
    if numAt hd 0 1 ≠ level ∨ numAt hd 1 1 ≠ 0 ∨ n = 0 ∨ 256 < n then
      .ok { children := [], ok := false, nan := false, flags := 0, reads := [(va, 64)] }
    else
      let len := up64 (8 * n) + n * row
      match s.load a (va + 64) len with
      | .error f => .error f
      | .ok bs =>
        let sc := (List.range n).map (fun i =>
          let (c, f) := f32sOf h.centFmt (bytesAt bs (up64 (8 * n) + i * row) row)
          let (v, g) := centScore h.metric q c
          (({ entry := numAt bs (8 * i) 8 % 2 ^ 48, score := v, place := i, parent := rank } : Child), f ||| g))
        .ok { children := sc.map Prod.fst, ok := true, nan := sc.any (fun e => isNan32 e.1.score),
              flags := (sc.map Prod.snd).foldl (· ||| ·) 0, reads := [(va, 64 + len)] }

/-- Does child x go before child y: score, then place in its parent, then the parent kept first (R141)? -/
def childBefore (x y : Child) : Bool :=
  if scoreAbove x.score y.score then true
  else if scoreAbove y.score x.score then false
  else decide (x.place < y.place) || (decide (x.place = y.place) && decide (x.parent < y.parent))

/-- What a descent leaves: the entries of the last internal level kept, in score order. -/
structure Descent where
  kept : List Nat
  corrupt : Bool
  nan : Bool
  flags : NFlags
  reads : List (Nat × Nat)
deriving DecidableEq, Repr

/-- Score all children of the kept nodes of a level and keep the BEAM best (R141). -/
def State.descendLevel (s : State) (a : Agent) (h : IndexHdr) (q : List (BitVec 32)) (beam level : Nat) (d : Descent) :
    Except MemFail Descent :=
  match (d.kept.zipIdx).foldl (fun (acc : Except MemFail (List Child × Descent)) e =>
      match acc with
      | .error f => .error f
      | .ok (cs, d) =>
        if d.corrupt then .ok (cs, d)
        else match s.scanNode a h q level e.2 e.1 with
          | .error f => .error f
          | .ok r => .ok (cs ++ r.children,
              { d with corrupt := !r.ok, nan := d.nan || r.nan, flags := d.flags ||| r.flags, reads := d.reads ++ r.reads }))
      (.ok ([], d)) with
  | .error f => .error f
  | .ok (cs, d) => .ok { d with kept := ((sortBy childBefore cs).take beam).map Child.entry }

/-- From the root down so many levels, to what is kept then, best first (R141): DEPTH − 1 levels give the leaves to scan. -/
def State.descend (s : State) (a : Agent) (h : IndexHdr) (q : List (BitVec 32)) (beam levels : Nat) : Except MemFail Descent :=
  (List.range levels).foldl (fun acc l =>
    match acc with
    | .error f => .error f
    | .ok d => if d.corrupt then .ok d else s.descendLevel a h q beam l d)
    (.ok { kept := [h.root], corrupt := false, nan := false, flags := 0, reads := [] })

/-! ### Leaves and side chains (R151) -/

/-- A side entry (Table 6.7). -/
structure SideEntry where
  code : List Byte
  id : Nat
  leaf : Nat
  tomb : Bool
  seq : Nat
  next : Nat
deriving DecidableEq, Repr

/-- The entry in 64 bytes. -/
def parseSide (bs : List Byte) : SideEntry :=
  { code := bs.take 32, id := numAt bs 32 8, leaf := numAt bs 40 4, tomb := decide (numAt bs 44 1 % 2 = 1),
    seq := numAt bs 48 8, next := numAt bs 56 8 }

/-- The 64 bytes of an entry. -/
def SideEntry.bytes (e : SideEntry) : List Byte :=
  e.code ++ zeros (32 - e.code.length) ++ toLE 8 e.id ++ toLE 4 e.leaf ++ [BitVec.ofNat 8 (b2n e.tomb)] ++ zeros 3 ++
    toLE 8 e.seq ++ toLE 8 e.next

/-- The chain from a head (1 + index, 0 none), newest first. -/
def State.chain (s : State) (a : Agent) (h : IndexHdr) : Nat → Nat → Except MemFail (List SideEntry)
  | 0, _ => .ok []
  | fuel + 1, head =>
    if head = 0 then .ok []
    else match s.load a (h.sideBase + 64 * (head - 1)) 64 with
      | .error f => .error f
      | .ok bs =>
        let e := parseSide bs
        match s.chain a h fuel e.next with
        | .error f => .error f
        | .ok rest => .ok (e :: rest)

/-- A leaf as read: its address, header fields, tree entries (code, passage ID), chain entries not folded yet. -/
structure Leaf where
  va : Nat
  n : Nat
  fold : Nat
  side : Nat
  tree : List (List Byte × Nat)
  chain : List SideEntry
  reads : List (Nat × Nat)
deriving DecidableEq, Repr

/-- Read leaf number k: none where the leaf table or the leaf breaks R136 (R143). -/
def State.readLeaf (s : State) (a : Agent) (h : IndexHdr) (sideToo : Bool) (k : Nat) : Except MemFail (Option Leaf) :=
  match s.load a (h.leafTable + 8 * k) 8 with
  | .error f => .error f
  | .ok tb =>
    let va := leNat tb % 2 ^ 48
    if leNat tb = 0 then .ok none
    else match s.load a va 64 with
      | .error f => .error f
      | .ok hd =>
        let n := numAt hd 2 2
        if numAt hd 0 1 ≠ h.depth - 1 ∨ numAt hd 1 1 ≠ 1 ∨ 4096 < n then .ok none
        else match s.load a (va + 64) (40 * n) with
          | .error f => .error f
          | .ok bs =>
            let fold := numAt hd 8 8
            match (if sideToo then s.chain a h (h.sideTail - h.sideFree) (numAt hd 16 8) else .ok []) with
            | .error f => .error f
            | .ok ch =>
              let l : Leaf := { va := va, n := n, fold := fold, side := numAt hd 16 8,
                                tree := (List.range n).map (fun i => (bytesAt bs (32 * i) 32, numAt bs (32 * n + 8 * i) 8)),
                                chain := ch.filter (fun e => decide (fold < e.seq)), reads := [(va, 64 + 40 * n)] }
              .ok (some l)

/-- Tree entries no tombstone of the leaf's chain removes (R151). -/
def Leaf.liveTree (l : Leaf) : List (List Byte × Nat) :=
  l.tree.filter (fun e => !(l.chain.any (fun c => c.tomb && decide (c.id = e.2))))

/-- Chain inserts no later tombstone removes, newest first (R151). -/
def Leaf.liveInserts (l : Leaf) : List SideEntry :=
  l.chain.filter (fun e => !e.tomb && !(l.chain.any (fun c => c.tomb && decide (c.id = e.id) && decide (e.seq < c.seq))))

/-! ### Walks -/

/-- Does entry x go before y in a list: score, then passage ID (R142)? -/
def entryBefore (x y : WalkEntry) : Bool :=
  if scoreAbove x.score y.score then true
  else if scoreAbove y.score x.score then false
  else decide (x.id < y.id)

/-- Keep one more entry: of one passage ID the better score, at equal scores the higher SEQ (R141); at most k. At equal scores and equal
SEQ (two tree entries of one ID, or entries of two lists) the spec names none, and the entry seen first is kept (DESIGN CHOICE, log
entry 72). -/
def keepEntry (k : Nat) (best : List WalkEntry) (e : WalkEntry) : List WalkEntry :=
  match best.find? (fun b => b.id = e.id) with
  | some b =>
    if scoreAbove e.score b.score || (!(scoreAbove b.score e.score) && decide (b.seq < e.seq)) then
      (insertBy entryBefore e (best.filter (fun b => !(b.id = e.id)))).take k
    else best
  | none => (insertBy entryBefore e best).take k

/-- The codebook's 1,024 centroids as FP32 (R137). -/
def State.codebook (s : State) (a : Agent) (h : IndexHdr) : Except MemFail (List (List (BitVec 32)) × NFlags) :=
  match s.load a h.codebook (16 * h.d * Machine.ebits h.cbFmt / 8) with
  | .error f => .error f
  | .ok bs =>
    let (xs, f) := f32sOf h.cbFmt bs
    .ok (cut (h.d / 64) 1024 xs, f)

/-- The next unscanned leaf of a walk is scanned (R141, R151); a corrupt one stops the walk (R143). -/
def State.scanLeaf (s : State) (a : Agent) (h : IndexHdr) (book : List (List (BitVec 32))) (noSide : Bool) (resK : Nat)
    (w : Walk) : Except MemFail (Walk × List (Nat × Nat)) :=
  let k := w.leaves.getD w.next 0
  match s.readLeaf a h (!noSide) k with
  | .error f => .error f
  | .ok none => .ok ({ w with corrupt := true }, [])
  | .ok (some l) =>
    let cands := l.liveTree.map (fun e => (e.1, e.2, 0)) ++ l.liveInserts.map (fun e => (e.code, e.id, e.seq))
    let (best, nan, fl) := cands.foldl (fun (acc : List WalkEntry × Bool × NFlags) c =>
      let (v, f) := leafScore h.metric w.query book c.1
      (keepEntry resK acc.1 { id := c.2.1, score := v, leaf := k, seq := c.2.2 }, acc.2.1 || isNan32 v, acc.2.2 ||| f))
      (w.best, w.nan, w.flags)
    .ok ({ w with best := best, nan := nan, flags := fl, next := w.next + 1 }, l.reads)

/-- The query's FP32 elements, scaled by TSCALE, unit-normed for cosine (R139); QBAD for a NaN or infinite element or a
zero norm (R143). A finite element that TSCALE makes infinite counts as an infinite one (DESIGN CHOICE, log entry 73). -/
def State.query (s : State) (a : Agent) (d : Desc) (metric r : Nat) : List (BitVec 32) × NFlags × Bool :=
  let (xs, f) := collect ((List.range d.cols).map (fun i => s.vecElem a d r i))
  if xs.any (fun x => !(isFinite32 x)) then (xs, f, true)
  else if metric = 2 then
    let (n2, g) := dotSeq xs xs
    match val32 n2 with
    | .fin _ 0 _ => (xs, f ||| g, true)
    | _ =>
      let (k, h1) := frsqrt n2 false
      let (ys, h2) := collect (xs.map (fun x => fmul false false x k))
      (ys, f ||| g ||| h1 ||| h2, false)
  else (xs, f, false)

/-- A walk's beginning: the query read, the tree descended (R141). -/
def State.beginWalk (s : State) (a : Agent) (c : Cmd) (h : IndexHdr) (r : Nat) : Except MemFail (Walk × List (Nat × Nat)) :=
  let d := c.desc (c.n 24 8)
  let (q, f, qbad) := s.query a d h.metric r
  let w : Walk := { query := q, leaves := [], next := 0, best := [], updates := 0, qbad := qbad, nan := false, corrupt := false,
                    bad := s.regionsPoisoned a (d.readRegion r 1), flags := f }
  if qbad then .ok (w, [])
  else match s.descend a h q (c.n 50 2) (h.depth - 1) with
    | .error e => .error e
    | .ok t => .ok ({ w with leaves := if t.corrupt then [] else t.kept, corrupt := t.corrupt, nan := t.nan, flags := f ||| t.flags,
                             bad := w.bad || s.regionsPoisoned a t.reads }, t.reads)

/-- The bytes of a result list (Table 6.4). -/
def listBytes (count flags update leaves suggest : Nat) (es : List (List Byte)) : List Byte :=
  toLE 4 count ++ toLE 2 flags ++ toLE 2 update ++ toLE 4 leaves ++ toLE 4 suggest ++ es.flatten

def WalkEntry.bytes (e : WalkEntry) : List Byte := toLE 8 e.id ++ toLE 4 e.score.toNat ++ toLE 4 e.leaf

/-- FLAGS of a walk's list: QBAD, NAN_SCORE, CORRUPT, PROVISIONAL, SHORT (Table 6.4). -/
def Walk.listFlags (w : Walk) (prov : Bool) (resK : Nat) : Nat :=
  b2n w.qbad + 2 * b2n w.nan + 4 * b2n w.corrupt + 8 * b2n prov +
    16 * b2n (!prov && !w.qbad && decide (w.best.length < resK))

/-- The list of a walk's best entries; update 0 is the final list (R142, R144). -/
def Walk.list (w : Walk) (update resK : Nat) : List Byte :=
  listBytes w.best.length (w.listFlags (decide (update ≠ 0)) resK) update w.next 0 (w.best.map WalkEntry.bytes)

/-- A walk begun, or as far as it has come. -/
def State.walkOf (s : State) (a : Agent) (c : Cmd) (h : IndexHdr) (r : Nat) : Except MemFail (Walk × List (Nat × Nat)) :=
  match SMap.find s.walks (256 * c.id + r) with
  | some w => .ok (w, [])
  | none => s.beginWalk a c h r

/-- At most n more leaves are scanned. -/
def State.scanMore (s : State) (a : Agent) (h : IndexHdr) (book : List (List (BitVec 32))) (c : Cmd) :
    Nat → Walk → Except MemFail (Walk × List (Nat × Nat))
  | 0, w => .ok (w, [])
  | n + 1, w =>
    if w.corrupt || w.qbad || decide (w.leaves.length ≤ w.next) then .ok (w, [])
    else match s.scanLeaf a h book (c.bit 56 0) (c.n 48 2) w with
      | .error f => .error f
      | .ok (w1, rd) =>
        let w1 := { w1 with bad := w1.bad || s.regionsPoisoned a rd }
        match s.scanMore a h book c n w1 with
        | .error f => .error f
        | .ok (w2, rds) => .ok (w2, rd ++ rds)

/-- Does the node cache hold the line of a home address for group g? -/
def State.nodeCached (s : State) (g line : Nat) : Bool := s.ahead.any (fun l => l.node && decide (l.line = line) && decide (l.group = g))

/-- The flash blocks of a piece that a walker of group g must read: those with a line the node cache does not hold. -/
def State.uncachedBlocks (s : State) (g pa n : Nat) : List Nat :=
  let lines := (List.range ((pa + n - 1) / 256 - pa / 256 + 1)).map (fun i => pa / 256 + i)
  (blocksOf (pa - flashBase) n).filter (fun b => lines.any (fun l => decide ((256 * l - flashBase) / 4096 = b) && !(s.nodeCached g l)))

/-- A walker's reads: flash blocks not cached count (R273), cached lines are used (R146). -/
def State.walkerReads (s : State) (a : Agent) (g : Nat) (reads : List (Nat × Nat)) : State :=
  reads.foldl (fun t r => match t.pieces a r.1 r.2 false with
    | .ok ps => ps.foldl (fun u p =>
        let u := if regionOf p.1 = .flash then u.countFlashReads (u.uncachedBlocks g p.1 p.2) else u
        u.useLines g (u.home p.1) p.2 true) t
    | .error _ => t) s

/-- The provisional notice of R144. -/
def provWord (r update tag : Nat) (core : CoreId) : QWord :=
  { wordOfBytes (toLE 2 r ++ toLE 2 update ++ toLE 4 tag ++ zeros 24) true with origin := core.toNat + 1 }

/-- The walker of query r puts its notice as a release (R144, R34): once the list's fabric writes are acknowledged. On a queue not bound
to the job for putting it is discarded, as on an unbound one (DESIGN CHOICE, log entry 74). -/
def State.notice (s : State) (c : Cmd) (r update : Nat) : State :=
  let q := c.n 54 2 % 4096
  if s.boundPut q c.job then
    s.releasePut { queue := q, core := c.core, job := c.job, cmd := c.id + 1, word := provWord r update (cmdTag c.word) c.core }
  else s.bump Reg.stmDiscard 1

/-- Query r's walk scans its next PROV_LEAVES leaves and writes its next provisional list, if that many remain (R144). -/
def State.provisional (s : State) (a : Agent) (c : Cmd) (h : IndexHdr) (book : List (List (BitVec 32))) (r : Nat) (w : Walk) :
    Except MemFail (Option State) :=
  let n := c.n 52 2
  if c.n 40 8 = 0 || w.corrupt || w.qbad || decide (w.leaves.length < w.next + n) then .ok none
  else match s.scanMore a h book c n w with
    | .error f => .error f
    | .ok (w1, rds) =>
      if w1.corrupt then .ok none
      else
        let w2 := { w1 with updates := w1.updates + 1 }
        let t := s.walkerReads a (s.groupOfCore c.core) rds
        let t := t.bump Reg.clmLeaves (w2.next - w.next)
        let t := t.store a c.core c.cls3 (c.n 40 8 + r * 16 * (c.n 48 2 + 1)) (w2.list w2.updates (c.n 48 2)) w2.bad
        let t := { t with walks := SMap.insert t.walks (256 * c.id + r) w2 }
        .ok (some (if (c.n 54 2).testBit 15 then t.notice c r w2.updates else t))

/-- The queries of a walk command. -/
def Cmd.walkRows (c : Cmd) : Nat := (c.desc (c.n 24 8)).rows

/-- PROVISIONAL_LIST: the walker of query r writes its next provisional list (R144). -/
def execProvisionalList (id : Nat) (r : BitVec 8) (_ext : Ext) (s : State) : Host.Outcome State Fault Refusal :=
  match s.working id 2 1 with
  | none => .next s
  | some c =>
    let a := c.agent
    if c.walkRows ≤ r.toNat then .next s
    else match s.indexHdr a (c.n 16 8) with
      | .error f => .next (s.failWork c f)
      | .ok h => match s.codebook a h with
        | .error f => .next (s.failWork c f)
        | .ok (book, _) => match s.walkOf a c h r.toNat with
          | .error f => .next (s.failWork c f)
          | .ok (w, rds) =>
            let s1 := s.walkerReads a (s.groupOfCore c.core) rds
            match s1.provisional a c h book r.toNat w with
            | .error f => .next (s.failWork c f)
            | .ok none => .next s
            | .ok (some t) => .next t

/-- The provisional lists query r's walk has still to write. -/
def State.provisionals (s : State) (a : Agent) (c : Cmd) (h : IndexHdr) (book : List (List (BitVec 32))) (r : Nat) :
    Nat → Walk → Except MemFail (State × Walk)
  | 0, w => .ok (s, w)
  | fuel + 1, w =>
    match s.provisional a c h book r w with
    | .error f => .error f
    | .ok none => .ok (s, w)
    | .ok (some t) => t.provisionals a c h book r fuel ((SMap.find t.walks (256 * c.id + r)).getD w)

/-- One query's walk to its end: the final list written (R141, R142). The state, and the walk as it ended. -/
def State.finishWalk (s : State) (a : Agent) (c : Cmd) (h : IndexHdr) (book : List (List (BitVec 32))) (r : Nat) :
    Except MemFail (State × Walk) :=
  match s.walkOf a c h r with
  | .error f => .error f
  | .ok (w, rds) =>
    match (s.walkerReads a (s.groupOfCore c.core) rds).provisionals a c h book r 256 w with
    | .error f => .error f
    | .ok (t, w) =>
      match t.scanMore a h book c w.leaves.length w with
      | .error f => .error f
      | .ok (w2, rds2) =>
        let t := (t.walkerReads a (s.groupOfCore c.core) rds2).bump Reg.clmLeaves (w2.next - w.next)
        let t := t.store a c.core c.cls3 (c.n 32 8 + r * 16 * (c.n 48 2 + 1)) (w2.list 0 (c.n 48 2)) w2.bad
        .ok ({ t with walks := SMap.erase t.walks (256 * c.id + r) }.bump Reg.clmWalks 1, w2)

/-- The walks of every query of a batch, in order: the state, the walks as they ended, and the access at which one stopped. -/
def State.walkAll (s : State) (a : Agent) (c : Cmd) (h : IndexHdr) (book : List (List (BitVec 32))) : State × List Walk × Option MemFail :=
  (List.range c.walkRows).foldl (fun (acc : State × List Walk × Option MemFail) r =>
    match acc.2.2 with
    | some _ => acc
    | none => match acc.1.finishWalk a c h book r with
      | .error f => (acc.1, acc.2.1, some f)
      | .ok (u, w) => (u, acc.2.1 ++ [w], none)) (s, [], none)

/-- The walks of command c are gone. -/
def State.dropWalks (s : State) (c : Cmd) : State := { s with walks := SMap.dropKeys (fun k => decide (k / 256 = c.id)) s.walks }

/-- CLM_WALK walks every query of its batch and writes their result lists (R141–R145). -/
def execClmWalk (id : Nat) (_ext : Ext) (s : State) : Host.Outcome State Fault Refusal :=
  match s.working id 2 1 with
  | none => .next s
  | some c =>
    let a := c.agent
    let fail := fun (t : State) (f : MemFail) => if f.awaits.isEmpty then (s.stopWork t c f).dropWalks c else s.stopWork t c f
    match s.indexHdr a (c.n 16 8) with
    | .error f => .next (fail s f)
    | .ok h => match s.codebook a h with
      | .error f => .next (fail s f)
      | .ok (book, fb) =>
        let (t, ws, err) := s.walkAll a c h book
        match err with
        | some f => .next (fail t f)
        | none =>
          let t := t.countRegions a [(c.n 16 8, 256), (h.codebook, 16 * h.d * Machine.ebits h.cbFmt / 8)]
          let t := t.countRegions a ((c.desc (c.n 24 8)).readRegion 0 c.walkRows)
          let hurt := (ws.filter (fun w => w.qbad || w.corrupt || decide (w.best.length < c.n 48 2))).length
          let fl := ws.foldl (fun f w => f ||| w.flags) fb
          let bad := ws.any Walk.bad || s.regionPoisoned a (c.n 16 8) 256
          let code : Byte := if bad then 0xC0 else if ws.any Walk.corrupt then 0x43 else 0
          .next ((t.workDone c code (flagsResult fl hurt)).dropWalks c)

/-! ### Starts (R135, R140, R166) -/

/-- CLM_WALK's parameters in range (Table 6.3). -/
def Cmd.walkParams (c : Cmd) : Bool :=
  decide (1 ≤ c.n 48 2) && decide (c.n 48 2 ≤ 4096) && decide (1 ≤ c.n 50 2) && decide (c.n 50 2 ≤ 256) &&
  (c.n 40 8 = 0 || decide (1 ≤ c.n 52 2))

/-- CLM_WALK's start. -/
def State.startWalk (s : State) (a : Agent) (c : Cmd) : StartResult :=
  if !c.walkParams then failWith 0x42
  else match s.indexHdr a (c.n 16 8) with
    | .error f => .fail f
    | .ok h =>
      if decide (c.n 16 8 % 64 ≠ 0) || !h.valid then failWith 0x40
      else if c.n 24 8 % 32 ≠ 0 then failWith 0x41
      else match s.readDescs a [c.n 24 8] with
        | .error f => .fail f
        | .ok ds =>
          let d := ({ c with descs := ds } : Cmd).desc (c.n 24 8)
          let stride := 16 * (c.n 48 2 + 1)
          let outs := (c.n 32 8, d.rows * stride) :: (if c.n 40 8 = 0 then [] else [(c.n 40 8, d.rows * stride)])
          if !d.valid || d.tiled || decide (2 < d.fmt) || !(scaleOk d.tscale) || decide (d.cols ≠ h.d) || decide (256 < d.rows) then
            failWith 0x41
          else windowCheck (s.regionsOk a false (fun _ => true) (d.readRegion 0 d.rows))
            (windowCheck (s.regionsOk a true (fun _ => true) outs)
              (firstFail [(s.regionsMeet a ((c.n 16 8, 256) :: d.readRegion 0 d.rows) outs, 0x27)] (.go ds)))

/-- Bytes of one record of CLM_INSERT (48) or CLM_DELETE (16). -/
def Cmd.recBytes (c : Cmd) : Nat := if cmdOpcode c.word = 2 then 48 else 16

/-- Record i of an append: code, passage ID, leaf. -/
def Cmd.record (c : Cmd) (bs : List Byte) (i : Nat) : List Byte × Nat × Nat :=
  let o := i * c.recBytes
  if cmdOpcode c.word = 2 then (bytesAt bs o 32, numAt bs (o + 32) 8, numAt bs (o + 40) 4)
  else (zeros 32, numAt bs o 8, numAt bs (o + 8) 4)

/-- The memory of the side list. -/
def IndexHdr.sideRegion (h : IndexHdr) : Nat × Nat := (h.sideBase, 64 * h.sideCap)

/-- CLM_INSERT's and CLM_DELETE's start (R150, R166); the records may not overlap the header or the side list (R78). -/
def State.startAppend (s : State) (a : Agent) (c : Cmd) : StartResult :=
  let n := c.n 32 4
  if n = 0 then .zero
  else match s.indexHdr a (c.n 16 8) with
    | .error f => .fail f
    | .ok h =>
      if decide (c.n 16 8 % 64 ≠ 0) || !h.valid then failWith 0x40
      else match s.load a (c.n 24 8) (n * c.recBytes) with
        | .error f => .fail f
        | .ok bs =>
          windowCheck (s.regionsOk a true (fun _ => true) [(c.n 16 8, 256)])
            (firstFail [((List.range n).any (fun i => decide (h.leafCount ≤ (c.record bs i).2.2)), 0x45),
              (decide (h.sideCap - (h.sideTail - h.sideFree) < n), 0x44),
              (s.regionsMeet a [(c.n 24 8, n * c.recBytes)] [(c.n 16 8, 256), h.sideRegion], 0x27)] (.go []))

/-- CLM_MERGE's start (R152, R166); the arena may not overlap the header, the side list or the leaf table (R78). -/
def State.startMerge (s : State) (a : Agent) (c : Cmd) : StartResult :=
  if c.n 24 8 % 64 ≠ 0 then failWith 0x42
  else match s.indexHdr a (c.n 16 8) with
    | .error f => .fail f
    | .ok h =>
      firstFail [(decide (c.n 16 8 % 64 ≠ 0) || !h.valid, 0x40), (h.merging, 0x46)]
        (windowCheck (s.regionsOk a true (fun _ => true) [(c.n 16 8, 256), (c.n 24 8, c.n 32 8)])
          (firstFail [(s.regionsMeet a [(c.n 16 8, 256), h.sideRegion, (h.leafTable, 8 * h.leafCount)] [(c.n 24 8, c.n 32 8)], 0x27)]
            (.go [])))

/-- The index that a Clematis command works on, by where its header lies. -/
def State.indexAt (s : State) (c : Cmd) : Option Nat :=
  match s.pieces c.agent (c.n 16 8) 1 false with
  | .ok ((pa, _) :: _) => some (s.home pa)
  | _ => none

/-- Appends to one index are serialized (R150): may command c start, no other append to its index being at work? -/
def State.appendFree (s : State) (c : Cmd) : Bool :=
  if decide (c.cls = 2) && [2, 3].contains (cmdOpcode c.word) then
    !(s.cmds.any (fun d => decide (d.cls = 2) && [2, 3].contains (cmdOpcode d.word) && decide (d.id ≠ c.id) &&
      (decide (d.phase = .started) || s.reqs.any (fun r => decide (r.2.cmd = d.id + 1))) && decide (s.indexAt d = s.indexAt c)))
  else true

/-- A merge begins: MERGING is set (Table 6.1). -/
def State.beginMerge (s : State) (c : Cmd) : State := s.store c.agent c.core c.cls3 (c.n 16 8 + 80) [1] false

/-- Term i of CLM_FILTER: SHIFT, EN, NEG, LO, HI (Table 6.3). -/
def Cmd.term (c : Cmd) (i : Nat) : Nat × Bool × Bool × Nat × Nat :=
  let o := 40 + 6 * i
  (c.n o 1, c.bit (o + 1) 0, c.bit (o + 1) 1, c.n (o + 2) 2, c.n (o + 4) 2)

/-- CLM_FILTER's start (R154): SHIFT is 0–48 in every term (Table 6.3), LO above HI counts in an enabled one. -/
def State.startFilter (s : State) (a : Agent) (c : Cmd) : StartResult :=
  if (List.range 3).any (fun i => let t := c.term i; decide (48 < t.1) || (t.2.1 && decide (t.2.2.2.2 < t.2.2.2.1))) ||
      c.n 58 2 = 0 || decide (4096 < c.n 58 2) then failWith 0x42
  else match s.load a (c.n 24 8) 16 with
    | .error f => .fail f
    | .ok hd =>
      let n := numAt hd 0 4
      if 4096 < n then failWith 0x42
      else
        windowCheck (s.regionsOk a false (fun _ => true) [(c.n 24 8, 16 + 16 * n)])
          (windowCheck (s.regionsOk a true (fun _ => true) [(c.n 32 8, 16 + 16 * Nat.min n (c.n 58 2))])
            (firstFail [(s.regionsMeet a [(c.n 24 8, 16 + 16 * n)] [(c.n 32 8, 16 + 16 * Nat.min n (c.n 58 2))], 0x27)] (.go [])))

/-- The start of a Clematis command, by its opcode. -/
def State.startClematis (s : State) (a : Agent) (c : Cmd) : StartResult :=
  match cmdOpcode c.word with
  | 1 => s.startWalk a c
  | 2 => s.startAppend a c
  | 3 => s.startAppend a c
  | 4 => s.startMerge a c
  | 5 => s.startFilter a c
  | _ => .go []

/-! ### Appends (R150) -/

/-- One side entry is appended at the tail and linked into its leaf's chain: the entry first, then SIDE_HEAD (R150); with
the SEQ given. Where the leaf-table entry is zero there is no leaf to link it into: the entry is consumed, and linked nowhere (DESIGN
CHOICE, log entry 75). -/
def State.appendSide (s : State) (a : Agent) (c : Cmd) (hva : Nat) (e : SideEntry) (bad : Bool) : Except MemFail State :=
  match s.indexHdr a hva with
  | .error f => .error f
  | .ok h =>
    let idx := h.sideTail % h.sideCap
    match s.load a (h.leafTable + 8 * e.leaf) 8 with
    | .error f => .error f
    | .ok tb =>
      let lva := leNat tb % 2 ^ 48
      if leNat tb = 0 then
        match s.pieces a (h.sideBase + 64 * idx) 64 true with
        | .error f => .error f
        | .ok _ =>
          .ok ((s.store a c.core c.cls3 (h.sideBase + 64 * idx) ({ e with next := 0 } : SideEntry).bytes bad).store a c.core c.cls3
            (hva + 48) (toLE 8 (h.sideTail + 1)) bad)
      else match s.load a (lva + 16) 8, s.pieces a (h.sideBase + 64 * idx) 64 true, s.pieces a (lva + 16) 8 true with
      | .ok hd, .ok _, .ok _ =>
        let t := s.store a c.core c.cls3 (h.sideBase + 64 * idx) ({ e with next := leNat hd } : SideEntry).bytes bad
        let t := t.store a c.core c.cls3 (lva + 16) (toLE 8 (idx + 1)) bad
        .ok (t.store a c.core c.cls3 (hva + 48) (toLE 8 (h.sideTail + 1)) bad)
      | .error f, _, _ => .error f
      | _, .error f, _ => .error f
      | _, _, .error f => .error f

/-- The records bs of an append command are appended in order, with increasing SEQ (R150), up to an access that fails. -/
def State.appendRecords (s : State) (c : Cmd) (tomb : Bool) (bs : List Byte) (bad : Bool) : State × Option MemFail :=
  let a := c.agent
  (List.range (c.n 32 4)).foldl (fun (acc : State × Option MemFail) i =>
    match acc.2 with
    | some _ => acc
    | none =>
      let r := c.record bs i
      match acc.1.indexHdr a (c.n 16 8) with
      | .error f => (acc.1, some f)
      | .ok h =>
        match acc.1.appendSide a c (c.n 16 8) { code := r.1, id := r.2.1, leaf := r.2.2, tomb := tomb, seq := h.nextSeq, next := 0 } bad with
        | .error f => (acc.1, some f)
        | .ok u => (u.store a c.core c.cls3 (c.n 16 8 + 64) (toLE 8 (h.nextSeq + 1)) bad, none)) (s, none)

/-- The work of an append command (R150). -/
def State.appendAll (s : State) (c : Cmd) (tomb : Bool) : State :=
  let a := c.agent
  let n := c.n 32 4
  match s.load a (c.n 24 8) (n * c.recBytes) with
  | .error f => s.failWork c f
  | .ok bs =>
    let bad := s.regionPoisoned a (c.n 24 8) (n * c.recBytes) || s.regionPoisoned a (c.n 16 8) 256
    let (t, err) := s.appendRecords c tomb bs bad
    match err with
    | some f => s.stopWork t c f
    | none => (t.countRegions a [(c.n 16 8, 256), (c.n 24 8, n * c.recBytes)]).workDone c (poisonStatus bad) 0

/-- CLM_INSERT appends its records to the side list (R150). -/
def execClmInsert (id : Nat) (_ext : Ext) (s : State) : Host.Outcome State Fault Refusal :=
  match s.working id 2 2 with
  | none => .next s
  | some c => .next (s.appendAll c false)

/-- CLM_DELETE appends tombstones (R150, R151). -/
def execClmDelete (id : Nat) (_ext : Ext) (s : State) : Host.Outcome State Fault Refusal :=
  match s.working id 2 3 with
  | none => .next s
  | some c => .next (s.appendAll c true)

/-! ### Merge (R152, R153) -/

/-- What a merge has done so far. -/
structure MergeRun where
  st : State
  at_ : Nat
  rewritten : Nat
  overfull : Nat
  mark : Nat
  stop : Option Byte
  err : Option MemFail

/-- The bytes of a rewritten leaf: surviving tree entries, then surviving inserts in SEQ order (R152). -/
def newLeaf (h : IndexHdr) (k fold : Nat) (es : List (List Byte × Nat)) : List Byte :=
  [BitVec.ofNat 8 (h.depth - 1), 1] ++ toLE 2 es.length ++ toLE 4 k ++ toLE 8 fold ++ zeros 48 ++
    (es.map Prod.fst).flatten ++ (es.map (fun e => toLE 8 e.2)).flatten

/-- The overfull leaf's live entries are appended again with their old SEQ values, its chain starting anew (R152). -/
def State.reappend (s : State) (a : Agent) (c : Cmd) (hva : Nat) (l : Leaf) : Except MemFail State :=
  let live := (l.liveInserts ++ l.chain.filter SideEntry.tomb)
  let ordered := sortBy (fun x y => decide (x.seq < y.seq)) live
  match s.pieces a (l.va + 16) 8 true with
  | .error f => .error f
  | .ok _ =>
    ordered.foldl (fun acc e => match acc with
      | .error f => .error f
      | .ok t => t.appendSide a c hva e false) (.ok (s.store a c.core c.cls3 (l.va + 16) (toLE 8 0) false))

/-- The merge of leaf k. -/
def State.mergeLeaf (a : Agent) (c : Cmd) (m : MergeRun) (k : Nat) : MergeRun :=
  if m.stop.isSome || m.err.isSome then m
  else
    let s := m.st
    match s.indexHdr a (c.n 16 8) with
    | .error f => { m with err := some f }
    | .ok h => match s.readLeaf a h true k with
      | .error f => { m with err := some f }
      | .ok none => m
      | .ok (some l) =>
        if l.side = 0 then m
        else
          let ins := sortBy (fun x y => decide (x.seq < y.seq)) l.liveInserts
          let es := l.liveTree ++ ins.map (fun e => (e.code, e.id))
          let fold := l.chain.foldl (fun f e => Nat.max f e.seq) l.fold
          if 4096 < es.length then
            match s.reappend a c (c.n 16 8) l with
            | .error f => { m with err := some f }
            | .ok t => { m with st := t, overfull := m.overfull + 1 }
          else
            let bs := newLeaf h k fold es
            if c.n 24 8 + c.n 32 8 < m.at_ + bs.length then { m with stop := some 0x47 }
            else match s.pieces a (h.leafTable + 8 * k) 8 true with
              | .error f => { m with err := some f }
              | .ok _ =>
                let bad := s.regionsPoisoned a l.reads
                let t := (s.store a c.core c.cls3 m.at_ bs bad).store a c.core c.cls3 (h.leafTable + 8 * k) (toLE 8 m.at_) bad
                { m with st := t, at_ := up64 (m.at_ + bs.length), rewritten := m.rewritten + 1, mark := Nat.max m.mark fold,
                         stop := if bad then some 0xC0 else none }

/-- A merge command's leaves, merged in order from the state s on. -/
def State.mergeLeaves (s : State) (c : Cmd) (h : IndexHdr) : MergeRun :=
  (List.range h.leafCount).foldl (State.mergeLeaf c.agent c)
    { st := s, at_ := c.n 24 8, rewritten := 0, overfull := 0, mark := h.mergeMark, stop := none, err := none }

/-- The started walk commands. -/
def State.walksNow (s : State) : List Nat :=
  (s.cmds.filter (fun d => decide (d.cls = 2) && decide (cmdOpcode d.word = 1) && decide (d.phase = .started))).map Cmd.id

/-- CLM_MERGE rewrites the leaves that have chain entries and swaps them in (R152); MERGE_FINISH completes it (R153). -/
def execClmMerge (id : Nat) (_ext : Ext) (s : State) : Host.Outcome State Fault Refusal :=
  match s.working id 2 4 with
  | none => .next s
  | some c =>
    let a := c.agent
    if (SMap.find s.merges c.id).isSome then .next s
    else match s.indexHdr a (c.n 16 8) with
      | .error f => .next (s.failWork c f)
      | .ok h =>
        let m := s.mergeLeaves c h
        if m.err.any (fun f => !f.awaits.isEmpty) then
          .next (match m.err with
            | some f => s.failWork c f
            | none => s)
        else
        let code : Byte := match m.err, m.stop with
          | some f, _ => f.code
          | none, some b => b
          | none, none => 0
        let t := match m.err with
          | some f => m.st.mmuFault c.job c.cls f
          | none => m.st
        let rcd : Merge := { waits := t.walksNow, free := h.sideTail, mark := m.mark, status := code,
                             result := BitVec.ofNat 32 (m.rewritten % 65536 + Nat.min 255 m.overfull * 65536) }
        .next { t.countRegions a [(c.n 16 8, 256), (h.leafTable, 8 * h.leafCount)] with merges := SMap.insert t.merges c.id rcd }

/-- MERGE_FINISH: every walk that started before the last swap has completed; SIDE_FREE passes the entries the merge
found, MERGE_MARK is set, MERGING cleared, and the merge's work is done (R153). -/
def execMergeFinish (id : Nat) (_ext : Ext) (s : State) : Host.Outcome State Fault Refusal :=
  match s.working id 2 4 with
  | none => .next s
  | some c =>
    match SMap.find s.merges c.id with
    | none => .next s
    | some m =>
      if m.waits.any (fun w => (s.walksNow).contains w) then .next s
      else
        let a := c.agent
        let st := fun (t : State) (o n v : Nat) => t.store a c.core c.cls3 (c.n 16 8 + o) (toLE n v) false
        let t := st (st (st s 56 8 m.free) 72 8 m.mark) 80 1 0
        .next ({ t with merges := SMap.erase t.merges c.id }.workDone c m.status m.result)

/-! ### Filter (R154, R155) -/

/-- Does the attribute word satisfy the enabled terms? -/
def Cmd.filterHolds (c : Cmd) (w : Nat) : Bool :=
  (List.range 3).all (fun i =>
    let t := c.term i
    let x := bitsOf w t.1 16
    !t.2.1 || (decide (t.2.2.2.1 ≤ x ∧ x ≤ t.2.2.2.2) != t.2.2.1))

/-- CLM_FILTER keeps the entries whose attributes hold and reports any shortfall (R154, R155). -/
def execClmFilter (id : Nat) (_ext : Ext) (s : State) : Host.Outcome State Fault Refusal :=
  match s.working id 2 5 with
  | none => .next s
  | some c =>
    let a := c.agent
    let want := c.n 58 2
    match s.load a (c.n 24 8) 16 with
    | .error f => .next (s.failWork c f)
    | .ok hd =>
      let n := numAt hd 0 4
      match s.load a (c.n 24 8 + 16) (16 * n) with
      | .error f => .next (s.failWork c f)
      | .ok bs =>
        let es := cut 16 n bs
        let res : Except MemFail (List (List Byte)) := es.foldl (fun acc e => match acc with
          | .error f => .error f
          | .ok l => match s.load a (c.n 16 8 + 8 * (numAt e 0 8 % 2 ^ 40)) 8 with
            | .error f => .error f
            | .ok w => .ok (if c.filterHolds (leNat w) then l ++ [e] else l)) (.ok [])
        match res with
        | .error f => .next (s.failWork c f)
        | .ok live =>
          let k := live.length
          let short := decide (k < want)
          let flags := numAt hd 4 2 &&& 0xFFEF
          let sug := if short then Nat.min 4096 (ceilDiv (n * want) (Nat.max k 1)) else 0
          let out := live.take want
          let bad := s.regionPoisoned a (c.n 24 8) (16 + 16 * n) ||
            es.any (fun e => s.regionPoisoned a (c.n 16 8 + 8 * (numAt e 0 8 % 2 ^ 40)) 8)
          let lb := listBytes out.length (flags + 16 * b2n short) (numAt hd 6 2) (numAt hd 8 4) sug out
          let t := s.countRegions a ((c.n 24 8, 16 + 16 * n) :: es.map (fun e => (c.n 16 8 + 8 * (numAt e 0 8 % 2 ^ 40), 8)))
          let t := t.store a c.core c.cls3 (c.n 32 8) lb bad
          let res := if short then (want - k) + Nat.min 255 (ceilDiv (4 * want) (Nat.max k 1)) * 65536 else 0
          .next (t.workDone c (poisonStatus bad) (BitVec.ofNat 32 res))

/-! ### Prefetch (R146, R251, source 1) -/

/-- The bytes of group g's share of the node cache: by engine weight (CLM_CACHE_CTRL). -/
def State.nodeShare (s : State) (g : Nat) : Nat :=
  let total := (((List.range 16).filter s.isGroup).map s.groupWeight).foldl (· + ·) 0
  let eff := (((List.range 4).map (fun d => (s.carveKib d).1)).foldl (· + ·) 0) * 1024
  eff * s.groupWeight g / Nat.max 1 total

/-- The bytes of die d's stream cache in MiB (R250). -/
def State.scacheMib (s : State) (d : Nat) : Nat := (s.carveKib d).2 / 1024

/-- The least recently used lines of die d's stream cache beyond its size leave it (R250, R251). -/
def State.trimStream (s : State) (d : Nat) : State :=
  let mine := s.ahead.filter (fun l => !l.node && decide (l.die = d))
  let gone := mine.take (mine.length - s.scacheMib d * 4096)
  s.evict (fun l => gone.contains l)

/-- Has the group's node cache, or the die's stream cache, this line already? -/
def State.hasLine (s : State) (l : AheadLine) : Bool :=
  s.ahead.any (fun k => decide (k.line = l.line) && decide (k.group = l.group) && (k.node == l.node) && (l.node || decide (k.die = l.die)))

/-- A line is filled ahead: cached for the group on a die, unless it is there already. -/
def State.fillLine (s : State) (l : AheadLine) : State := if s.hasLine l then s else { s with ahead := s.ahead ++ [l] }

/-- A line of this module's memory that is filled ahead. -/
def aheadLine (line g die : Nat) (node bad : Bool) : AheadLine :=
  { line := line, group := g, die := die, node := node, used := false, bad := bad }

/-- The least recently used node lines of group g beyond n leave the cache (R146). -/
def State.trimNodes (s : State) (g n : Nat) : State :=
  let mine := s.ahead.filter (fun l => l.node && decide (l.group = g))
  let gone := mine.take (mine.length - n)
  s.evict (fun l => gone.contains l)

/-- May a line of a peer's memory be kept when its answer comes: no fabric write to it is under way (R25)? -/
def State.lineFree (s : State) (home : Nat) : Bool :=
  !(s.reqs.any (fun r => (decide (r.2.kind = .write) || decide (r.2.kind = .amo) || decide (r.2.kind = .rowAmo) || decide (r.2.kind = .host)) &&
    overlaps (home / 256 * 256) 256 r.2.home r.2.n))

/-- A POOL_RD for a line at pool address pa that is filled ahead for core n's group, unless one is under way (R40, R146, R251). -/
def State.fetchLine (s : State) (n : CoreId) (job : BitVec 16) (cls : BitVec 3) (pa : Nat) (l : AheadLine) : State :=
  match s.poolTarget pa false with
  | .ok (.there m slot key off) =>
    let home := homeKey m slot off
    if s.reqs.any (fun r => decide (r.2.line.map AheadLine.line = some l.line) && decide (r.2.line.map AheadLine.node = some l.node) &&
        decide (r.2.line.map AheadLine.group = some l.group)) || !(s.lineFree home) then s
    else match s.request { kind := .fill, core := n, job := job, cmd := 0, target := BitVec.ofNat 16 m, seg := (pa - poolBase) / gib, sent := 0,
                           va := 2 ^ 48, pa := pa, n := 256, home := home, line := some l }
        0x01 cls false (addressWord slot key off ++ toLE 2 256) with
      | .ok t => t
      | .error _ => s
  | _ => s

/-- The bytes of the node at va of a level, and its children where it is an internal node: as far as they can be read. -/
def State.nodeShape (s : State) (a : Agent) (h : IndexHdr) (level va : Nat) : Nat × List Nat :=
  match s.load a va 64 with
  | .error _ => (64, [])
  | .ok hd =>
    let n := numAt hd 2 2
    if numAt hd 0 1 ≠ level ∨ (level + 1 < h.depth ∧ (n = 0 ∨ 256 < n)) then (64, [])
    else if level + 1 = h.depth then (64 + 40 * n, [])
    else
      let len := 64 + up64 (8 * n) + n * (h.d * Machine.ebits h.centFmt / 8)
      match s.load a (va + 64) (8 * n) with
      | .error _ => (len, [])
      | .ok bs => (len, (List.range n).map (fun i => numAt bs (8 * i) 8 % 2 ^ 48))

/-- The nodes of an internal level, from the root down. -/
def State.levelNodes (s : State) (a : Agent) (h : IndexHdr) : Nat → List Nat
  | 0 => [h.root]
  | l + 1 => ((s.levelNodes a h l).map (fun va => (s.nodeShape a h l va).2)).flatten

/-- The virtual line addresses of the nodes of a level, in address order. -/
def State.nodeLines (s : State) (a : Agent) (h : IndexHdr) (level : Nat) (nodes : List Nat) : List Nat :=
  sortBy (fun x y => decide (x < y)) ((nodes.map (fun va =>
    let n := (s.nodeShape a h level va).1
    (List.range ((va + n - 1) / 256 - va / 256 + 1)).map (fun i => va / 256 + i))).flatten).eraseDups

/-- The nodes of a level in the beam of query r's walker: those it will read (R141, R146); the leaves' addresses from the leaf table. -/
def State.beamNodes (s : State) (a : Agent) (c : Cmd) (h : IndexHdr) (level r : Nat) : List Nat :=
  let (q, _, bad) := s.query a (c.desc (c.n 24 8)) h.metric r
  let kept := match SMap.find s.walks (256 * c.id + r) with
    | some w => if level + 1 = h.depth then w.leaves.drop w.next else []
    | none => if bad then [] else match s.descend a h q (c.n 50 2) level with
      | .ok d => if d.corrupt then [] else d.kept
      | .error _ => []
  if level + 1 = h.depth then
    kept.filterMap (fun k => match s.load a (h.leafTable + 8 * k) 8 with
      | .ok tb => if leNat tb = 0 then none else some (leNat tb % 2 ^ 48)
      | .error _ => none)
  else kept

/-- May the prefetchers fill virtual line v for walk command c, and does it then stay (R146)? Of a level below CACHE_LEVELS, streamed in
address order: the first line of the level not cached, which stays; of a level at or above it: a node of a walker's beam, whose lines do
not stay. -/
def State.prefetchable (s : State) (a : Agent) (c : Cmd) (h : IndexHdr) (g v : Nat) : Option Bool :=
  let cached := fun (x : Nat) => match s.pieces a (256 * x) 256 false with
    | .ok [(pa, _)] => s.nodeCached g (s.home pa / 256)
    | _ => false
  if (List.range h.cacheLevels).any (fun l => decide (((s.nodeLines a h l (s.levelNodes a h l)).filter (fun x => !(cached x))).head? = some v)) then
    some true
  else if ((List.range h.depth).drop h.cacheLevels).any (fun l => (List.range c.walkRows).any (fun r =>
      (s.nodeLines a h l (s.beamNodes a c h l r)).contains v)) then some false
  else none

/-- NODE_CACHE_PREFETCH: for a walk in progress, the prefetchers fill the line of a node address on a die (R146): not
with DIS_PREFETCH (R48), not where the access would fault (R41) or lies outside memory the source may read (R40); an
error met on the way stays with the line (R42); a line of a peer's memory is asked for. The group's least recently used line beyond its
share is evicted. -/
def execNodeCachePrefetch (id : Nat) (va : BitVec 48) (die : BitVec 2) (_ext : Ext) (s : State) : Host.Outcome State Fault Refusal :=
  match s.working id 2 1 with
  | none => .next s
  | some c =>
    let a := c.agent
    let g := s.groupOfCore c.core
    let share := s.nodeShare g / 256
    match s.indexHdr a (c.n 16 8) with
    | .error _ => .next s
    | .ok h => match s.prefetchable a c h g (va.toNat / 256) with
      | none => .next s
      | some stays =>
        if s.specOff 1 || share = 0 then .next s
        else match s.pieces a (va.toNat / 256 * 256) 256 false with
          | .ok [(pa, _)] =>
            let home := s.home pa
            let l : AheadLine := { aheadLine (home / 256) g die.toNat true (s.piecesPoisoned a [(pa, 256)]) with stays := stays }
            if regionOf pa = .registers || s.hasLine l then .next s
            else if s.unanswered { a with pool := [] } pa 256 then .next (s.fetchLine c.core c.job c.cls3 pa { l with bad := false })
            else
              let t := if regionOf pa = .flash then s.countFlashReads (blocksOf (pa - flashBase) 256) else s
              .next ((t.fillLine l).trimNodes g share)
          | _ => .next s

end Sys2Proof.Machine
end

