-- ==== Sys2Proof/Machine/Rows.lean ====
section
/-!
DEFINITION. Aster (07): tables, row versions and row locks (R168–R172), gather, update and replace (R173–R177).
-/

namespace Sys2Proof.Machine

/-- The table header of Table 7.1. -/
structure TableHdr where
  raw : List Byte
deriving DecidableEq, Repr

def TableHdr.n (h : TableHdr) (off k : Nat) : Nat := numAt h.raw off k
def TableHdr.fmt (h : TableHdr) : Nat := h.n 2 1 % 16
def TableHdr.opt (h : TableHdr) : Nat := h.n 2 1 / 16
def TableHdr.dim (h : TableHdr) : Nat := h.n 4 2
def TableHdr.rows (h : TableHdr) : Nat := h.n 8 8
def TableHdr.data (h : TableHdr) : Nat := h.n 16 8
def TableHdr.ctrl (h : TableHdr) : Nat := h.n 24 8
def TableHdr.stride (h : TableHdr) : Nat := h.n 32 4

/-- Bytes of one element. -/
def TableHdr.eb (h : TableHdr) : Nat := Machine.ebits h.fmt / 8

/-- Where the optimizer state of a slot begins, and its bytes (R168). -/
def TableHdr.stateOff (h : TableHdr) : Nat := ceilDiv (h.dim * h.eb) 4 * 4
def TableHdr.stateBytes (h : TableHdr) : Nat := if h.opt = 1 then 4 * h.dim else if h.opt = 2 then 4 else 0

/-- Does the header meet the constraints of Table 7.1 (else 0x50)? -/
def TableHdr.valid (h : TableHdr) : Bool :=
  decide (h.n 0 2 = 1) && [0, 1, 3, 9].contains h.fmt && decide (h.opt ≤ 2) && (h.opt = 0 || decide (h.fmt ≤ 1)) &&
  decide (h.n 3 1 = 0) && decide (1 ≤ h.dim) && decide (h.dim ≤ 4096) && decide (h.n 6 2 = 0) && decide (1 ≤ h.rows) &&
  decide (h.rows ≤ 2 ^ 40) && decide (h.stride % 64 = 0) && decide (h.stateOff + h.stateBytes ≤ h.stride) &&
  allZero (bytesAt h.raw 36 28)

/-- The table header at va. -/
def State.tableHdr (s : State) (a : Agent) (va : Nat) : Except MemFail TableHdr :=
  match s.load a va 64 with
  | .ok bs => .ok { raw := bs }
  | .error f => .error f

/-- Keys under which a command's captured table header and offsets stand. -/
def heldTable : Nat := 2 ^ 61
def heldOffs : Nat := 2 ^ 62

/-- The bytes a command captured at its start under a key. -/
def Cmd.captured (c : Cmd) (k : Nat) : List Byte :=
  match c.descs.find? (fun e => e.1 = k) with
  | some e => e.2
  | none => []

/-- Slot k of row r (Table 7.1). -/
def TableHdr.slot (h : TableHdr) (r k : Nat) : Nat := h.data + (2 * r + k) * h.stride

/-- The address of row r's control word: VERSION, LIVE, BUSY (R169). -/
def TableHdr.ctrlAt (h : TableHdr) (r : Nat) : Nat := h.ctrl + 8 * r

/-- Is BUSY set in a control word? -/
def rowBusy (w : Nat) : Bool := w.testBit 33

/-- The control word once its row is written: VERSION + 1, LIVE inverted, BUSY clear (R171). -/
def nextCtrl (w : Nat) : Nat := (w + 1) % 2 ^ 32 + (1 - bitsOf w 32 1) * 2 ^ 32

/-! ### Reading and locking rows (R170, R171)

A row is read, locked and written in separate actions, between which other commands and modules act. Where the table lies in another
module's memory an action awaits the answers of its requests; the control word is then written by AMO at its home (R169). -/

/-- Command id has used the answers of the fabric pool that it holds. -/
def State.clearPool (s : State) (id : Nat) : State :=
  match s.cmd id with
  | none => s
  | some c => s.setCmd { c with pool := [] }

/-- Does command id await the answer to an AMO? -/
def State.amoPending (s : State) (id : Nat) : Bool :=
  s.reqs.any (fun e => decide (e.2.kind = .rowAmo) && decide (e.2.cmd = id + 1))

/-- An 8-byte AMO of Aster at virtual address va: done at once, and the control word is then new, or asked of another module with its
function FN, its operand new and the value CAS expects (R60, R320); which of the two, or what stands in the way. -/
def State.rowAmo (s : State) (c : Cmd) (va fn new expected : Nat) : Except MemFail (State × Bool) :=
  match s.pieces c.agent va 8 true with
  | .error f => .error f
  | .ok ps =>
    let pa := (ps.headD (0, 0)).1
    match (if regionOf pa = .pool then s.poolTarget pa true else .ok (.here pa)) with
    | .ok (.there m slot key off) =>
      match s.request { kind := .rowAmo, core := c.core, job := c.job, cmd := c.id + 1, target := BitVec.ofNat 16 m,
                        seg := (pa - poolBase) / gib, sent := 0, va := va, pa := pa, n := 8, home := homeKey m slot off, line := none }
          0x05 c.cls3 false (addressWord slot key off ++ toLE 1 fn ++ toLE 8 new ++ toLE 8 expected) with
      | .ok t => .ok (t.dropHome (homeKey m slot off) 8, false)
      | .error k => .error { code := k, va := va }
    | .error k => .error { code := k, va := va }
    | .ok (.here _) => .ok (s.store c.agent c.core c.cls3 va (toLE 8 new) false, true)

/-- What an action of a row's read or write comes to: it is done, it awaits an answer, BUSY was found set, or it fails. -/
inductive RowAct where
  | on (s : State) (step : RowStep)
  | wait (s : State)
  | busy (s : State)
  | fail (f : MemFail)

/-- The next action of locking the row whose control word stands at va, or of writing the word back (R171): BUSY is set by CAS with
acquire; the word is written by SWAP with release, after the row's own writes are acknowledged, and is the old one where a write
failed. A poisoned word ends the command (R354). -/
def State.lockStep (s : State) (c : Cmd) (va : Nat) : RowStep → RowAct
  | .lock => match s.load c.agent va 8 with
    | .error f => if f.awaits.isEmpty then .fail f else .wait (s.fetch c c.cls3 f.awaits)
    | .ok bs =>
      let w := leNat bs
      let t := s.clearPool c.id
      if s.regionPoisoned c.agent va 8 then .fail { code := 0xC0, va := va }
      else if rowBusy w then .busy t
      else match t.rowAmo c va 0x68 (w + 2 ^ 33) w with
        | .error f => .fail f
        | .ok (u, true) => .on u (.held w)
        | .ok (u, false) => .on u (.asked w)
  | .asked w =>
    if s.amoPending c.id then .wait s
    else match c.pool with
      | [] => .busy s
      | p :: _ =>
        if p.code ≠ 0 then .fail { code := p.code, va := va }
        else if p.poison then .fail { code := 0xC0, va := va }
        else if leNat p.bytes = w then .on (s.clearPool c.id) (.held w)
        else .busy (s.clearPool c.id)
  | .finish w v =>
    if s.writesOf c.core c.job (c.id + 1) then .wait s
    else match s.rowAmo c va 0x04 (if (SMap.find s.writeFail c.id).isSome then w else v) 0 with
      | .error f => .fail f
      | .ok (t, true) => .on t .first
      | .ok (t, false) => .on t .released
  | .released =>
    if s.amoPending c.id then .wait s
    else match c.pool with
      | [] => .on s .first
      | p :: _ => if p.code ≠ 0 then .fail { code := p.code, va := va } else .on (s.clearPool c.id) .first
  | x => .on s x

/-- A command that completes with a row still locked, or perhaps locked by an AMO just answered, gives the row back as it was (DESIGN
CHOICE, log entry 84). -/
def State.unlockRow (s : State) (c : Cmd) (va : Nat) (step : RowStep) : State :=
  let back := fun (w : Nat) => match s.rowAmo c va 0x04 w 0 with
    | .ok (t, _) => t
    | .error _ => s
  match step with
  | .held w => back w
  | .finish w _ => back w
  | .asked w => if c.pool.any (fun p => decide (p.code = 0) && !p.poison && decide (leNat p.bytes = w)) then back w else s
  | _ => s

/-- The row a command's reads or writes stand at: its control word's address and how far they have come. -/
def State.rowAt (s : State) (c : Cmd) : Option (Nat × RowStep) :=
  match SMap.find s.rowReads c.id, SMap.find s.rowWork c.id with
  | some r, _ => match r.todo with
    | (k, n) :: _ => some (({ raw := c.captured k } : TableHdr).ctrlAt n, r.step)
    | [] => none
  | none, some w => match w.todo with
    | (n, _) :: _ => some (({ raw := c.captured heldTable } : TableHdr).ctrlAt n, w.step)
    | [] => none
  | none, none => none

/-- The command's row reads and writes are over; a row still locked is given back. -/
def State.endRows (s : State) (c : Cmd) : State :=
  let t := match s.rowAt c with
    | some (va, step) => s.unlockRow c va step
    | none => s
  { t with rowReads := SMap.erase t.rowReads c.id, rowWork := SMap.erase t.rowWork c.id }

/-- What reading a region comes to: answers are awaited, it fails, or its bytes and whether they are poisoned. -/
inductive RowLoad where
  | wait (s : State)
  | fail (f : MemFail)
  | ok (s : State) (bytes : List Byte) (bad : Bool)

/-- A region is read for a row action; the answers used are used up. -/
def State.rowLoad (s : State) (c : Cmd) (va n : Nat) : RowLoad :=
  match s.load c.agent va n with
  | .error f => if f.awaits.isEmpty then .fail f else .wait (s.fetch c c.cls3 f.awaits)
  | .ok bs => .ok ((s.countRegion c.agent va n).clearPool c.id) bs (s.regionPoisoned c.agent va n)

/-- What the row reads of a command come to after an action: there is more to do, they wait or are done, or they fail. -/
inductive ReadNext where
  | more (s : State) (r : RowRead)
  | stop (s : State) (r : RowRead)
  | fail (s : State) (f : MemFail)

/-- Is the row waiting for BUSY since 10 ms (R171)? -/
def State.busyTooLong (s : State) (since : Word) : Bool := decide (10000000 ≤ (s.now - since).toNat)

/-- One action of reading the first row that a command still has to read (R170): control word, live slot, control word again; the row is
accepted, tried again and counted in AST_ROW_RETRY, or after the 16th try read under its lock. A speculative read writes nothing (R40):
it goes on trying (DESIGN CHOICE, log entry 84). -/
def State.readStep (s : State) (c : Cmd) (spec : Bool) (r : RowRead) : ReadNext :=
  match r.todo with
  | [] => .stop s r
  | (k, n) :: rest =>
    let h : TableHdr := { raw := c.captured k }
    let va := h.ctrlAt n
    match r.step with
    | .first => match s.rowLoad c va 8 with
      | .wait t => .stop t r
      | .fail f => .fail s f
      | .ok t bs bad => .more t { r with step := .slot (leNat bs) bad }
    | .slot w bad => match s.rowLoad c (h.slot n (bitsOf w 32 1)) h.stride with
      | .wait t => .stop t r
      | .fail f => .fail s f
      | .ok t bs b => .more t { r with step := .second w bs (bad || b) }
    | .second w data bad => match s.rowLoad c va 8 with
      | .wait t => .stop t r
      | .fail f => .fail s f
      | .ok t bs b =>
        let w2 := leNat bs
        if BitVec.ofNat 32 w2 = BitVec.ofNat 32 w ∨ (BitVec.ofNat 32 w2 = BitVec.ofNat 32 w + 1 ∧ rowBusy w2 = false) then
          .more t { r with todo := rest, got := r.got ++ [(BitVec.ofNat 32 w, data, bad || b)], step := .first, tries := 0 }
        else if r.tries < 15 then .more (t.bump Reg.astRowRetry 1) { r with step := .first, tries := r.tries + 1 }
        else if spec then .stop (t.bump Reg.astRowRetry 1) { r with step := .first }
        else .more t { r with step := .lock, since := s.now }
    | .held w => match s.rowLoad c (h.slot n (bitsOf w 32 1)) h.stride with
      | .wait t => .stop t r
      | .fail f => .fail s f
      | .ok t bs b => .more t { r with got := r.got ++ [(BitVec.ofNat 32 w, bs, b)], step := .finish w w }
    | step => match s.lockStep c va step with
      | .on t .first => .more t { r with todo := rest, step := .first, tries := 0 }
      | .on t st => .more t { r with step := st }
      | .wait t => .stop t r
      | .busy t => if s.busyTooLong r.since then .fail t { code := 0x57, va := va } else .stop t { r with step := .lock }
      | .fail f => .fail s f

/-- At most `fuel` actions of reading the rows of command id. -/
def State.readRows (s : State) (id : Nat) (spec : Bool) : Nat → RowRead → ReadNext
  | 0, r => .stop s r
  | fuel + 1, r =>
    match s.cmd id with
    | none => .stop s r
    | some c => match s.readStep c spec r with
      | .more t x => t.readRows id spec fuel x
      | x => x

/-- The actions a step may take on rows: the operand's number, 0 for as many as it takes (what comes between the actions of a row's read
or write the spec leaves open: log entry 84). -/
def actionsOf (e : Ext) (rows : Nat) : Nat := if e.nums.getD 0 0 = 0 then 64 * (rows + 1) else e.nums.getD 0 0

/-- Rows to be read from the start. -/
def RowRead.start (todo : List (Nat × Nat)) : RowRead :=
  { todo := todo, got := [], step := .first, tries := 0, since := 0, bad := false, edge := false }

/-- The memory of rows: both slots and the control word. -/
def TableHdr.rowRegions (h : TableHdr) (rows : List Nat) : List (Nat × Nat) :=
  (rows.map (fun r => [(h.slot r 0, 2 * h.stride), (h.ctrlAt r, 8)])).flatten

/-! ### Gather (R173, R174) -/

/-- The row number an index names. -/
def Cmd.gatherRow (c : Cmd) (ix : Nat) : Nat := if c.bit 56 2 then ix % 2 ^ 40 else ix

/-- AST_GATHER's start (R173, R174, R194): a TSCALE that is no scale breaks OUT's descriptor (R89; DESIGN CHOICE of the code, log entry
83). -/
def State.startGather (s : State) (a : Agent) (c : Cmd) : StartResult :=
  let n := c.n 40 4
  let pool := c.n 56 1 % 4
  let param := decide (2 ^ 24 < n) || decide (pool = 3)
  if n = 0 || (decide (pool ≠ 0) && c.n 44 4 = 0) then .zero
  else match s.tableHdr a (c.n 16 8) with
    | .error f => .fail f
    | .ok h =>
      if decide (c.n 16 8 % 64 ≠ 0) || !h.valid then failWith 0x50
      else if c.n 32 8 % 32 ≠ 0 then failWith 0x51
      else match s.readDescs a [c.n 32 8] with
        | .error f => if param then failWith 0x51 else .fail f
        | .ok ds =>
          let o := ({ c with descs := ds } : Cmd).desc (c.n 32 8)
          firstFail [(decide (o.fmt ≠ h.fmt) && decide (o.fmt ≠ 0), 0x50), (param || !o.valid || !(scaleOk o.tscale) || decide (o.cols ≠ h.dim) ||
              (decide (pool ≠ 0) && decide (o.fmt ≠ 0)), 0x51)]
            (match (if pool = 0 then .ok [] else s.load a (c.n 48 8) (4 * (c.n 44 4 + 1))) with
             | .error f => .fail f
             | .ok ob =>
               let os := (List.range (ob.length / 4)).map (fun i => numAt ob (4 * i) 4)
               let out := o.writeRegion 0 (if pool = 0 then n else c.n 44 4)
               firstFail [(decide (pool ≠ 0) && ((os.zip (os.drop 1)).any (fun e => decide (e.2 < e.1)) || decide (os.getLast? ≠ some n)), 0x51)]
                 (windowCheck (s.regionsOk a false (fun _ => true) [(c.n 24 8, 8 * n)])
                   (windowCheck (s.regionsOk a true (fun _ => true) out)
                     (firstFail [(s.regionsMeet a [(c.n 16 8, 64), (c.n 24 8, 8 * n), (c.n 48 8, ob.length)] out, 0x27)]
                       (.go (ds ++ [(heldTable, h.raw), (heldOffs, ob)])))))) 

/-- Element j of a slot image: its code. -/
def TableHdr.code (h : TableHdr) (slot : List Byte) (j : Nat) : Nat := numAt slot (j * h.eb) h.eb

/-- Element j of a slot image as FP32, with the flags of reading it. -/
def TableHdr.f32 (h : TableHdr) (slot : List Byte) (j : Nat) : BitVec 32 × NFlags :=
  let v := elemNum h.fmt (h.code slot j) 127
  ((to32 false false v).1, readFlags v)

/-- A bag's pooled row (R174): the sum in index order, times the reciprocal of the bag's size for mean. -/
def poolBag (h : TableHdr) (mean : Bool) (slots : List (List Byte)) : List (BitVec 32) × NFlags :=
  let rows := slots.map (fun b => collect ((List.range h.dim).map (h.f32 b)))
  match rows with
  | [] => (List.replicate h.dim 0, 0)
  | r0 :: rs =>
    let (sum, f) := rs.foldl (fun (acc : List (BitVec 32) × NFlags) r =>
      let (xs, g) := collect ((acc.1.zip r.1).map (fun e => fadd false false e.1 e.2))
      (xs, acc.2 ||| g ||| r.2)) r0
    if mean then
      let k := (to32 false false ((Dy.ofInt 1).div (Dy.ofInt rows.length)).num).1
      let (xs, g) := collect (sum.map (fun x => fmul false false x k))
      (xs, f ||| g)
    else (sum, f)

/-- The rows of a gather are read: they, or their pools, are written to OUT (R173, R174). The values are written without regard to OUT's
TSCALE, of which the rules do not speak here (DESIGN CHOICE, log entry 78). -/
def State.writeGather (s : State) (c : Cmd) (r : RowRead) : State :=
  let a := c.agent
  let n := c.n 40 4
  let h : TableHdr := { raw := c.captured heldTable }
  let o := c.desc (c.n 32 8)
  let slots := r.got.map (fun e => e.2.1)
  let bad := r.bad || r.got.any (fun e => e.2.2)
  let pool := c.n 56 1 % 4
  let (t, fl) : State × NFlags :=
    if pool = 0 ∧ o.fmt = h.fmt then
      let t := (slots.zipIdx).foldl (fun t e =>
        if e.2 < o.rows then t.storeCodes a c.core c.cls3 o e.2 0 ((List.range h.dim).map (h.code e.1)) bad else t) s
      (t.zeroEdges a c.core c.cls3 o 0 (Nat.min n o.rows) 0 h.dim bad, 0)
    else
      let rows := if pool = 0 then slots.map (fun b => collect ((List.range h.dim).map (h.f32 b)))
        else
          let ob := c.captured heldOffs
          (List.range (c.n 44 4)).map (fun b =>
            let lo := numAt ob (4 * b) 4
            poolBag h (decide (pool = 2)) ((slots.drop lo).take (numAt ob (4 * b + 4) 4 - lo)))
      let (t, f, _) := s.storeRows a c.core c.cls3 o false false false 0 0 (rows.map Prod.fst) bad
      (t, (rows.map Prod.snd).foldl (· ||| ·) f)
  ({ t with rowReads := SMap.erase t.rowReads c.id } : State).workDone c (poisonStatus bad) (flagsResult fl (2 ^ 23 * b2n r.edge))

/-- The gather's row reads go on as far as they come. -/
def State.goGather (s : State) (c : Cmd) (fuel : Nat) (r : RowRead) : State :=
  match s.readRows c.id false fuel r with
  | .fail t f => { t with rowReads := SMap.insert t.rowReads c.id r }.failWork c f
  | .more t x => { t with rowReads := SMap.insert t.rowReads c.id x }
  | .stop t x =>
    if x.todo.isEmpty then t.writeGather c x
    else { t with rowReads := SMap.insert t.rowReads c.id x }

/-- AST_GATHER reads table rows, or pools of them, into a tensor (R170, R173, R174). Rows that OUT would overwrite give 0x27 (R78). -/
def execAstGather (id : Nat) (ext : Ext) (s : State) : Host.Outcome State Fault Refusal :=
  match s.working id 4 1 with
  | none => .next s
  | some c =>
    let n := c.n 40 4
    match SMap.find s.rowReads id with
    | some r => .next (s.goGather c (actionsOf ext r.todo.length) r)
    | none =>
      let h : TableHdr := { raw := c.captured heldTable }
      match s.rowLoad c (c.n 24 8) (8 * n) with
      | .wait t => .next t
      | .fail f => .next (s.failWork c f)
      | .ok t ib bad =>
        let ixs := (List.range n).map (fun i => c.gatherRow (numAt ib (8 * i) 8))
        let rows := ixs.map (fun i => Nat.min i (h.rows - 1))
        let out := (c.desc (c.n 32 8)).writeRegion 0 (if c.n 56 1 % 4 = 0 then n else c.n 44 4)
        if s.regionsMeet c.agent (h.rowRegions rows.eraseDups) out then .next (s.workDone c 0x27 0)
        else
          .next (t.goGather c (actionsOf ext n)
            { RowRead.start (rows.map (fun r => (heldTable, r))) with bad := bad, edge := ixs.any (fun i => decide (h.rows ≤ i)) })

/-! ### Update and replace (R175–R177) -/

/-- AST_UPDATE's start (R176, R194). -/
def State.startUpdate (s : State) (a : Agent) (c : Cmd) : StartResult :=
  let n := c.n 48 4
  let rule := c.n 60 1 % 4
  if n = 0 then .zero
  else if rule = 3 || !(posFinite' (c.f32 52)) || !(posFinite' (c.f32 56)) then failWith 0x56
  else match s.tableHdr a (c.n 16 8) with
    | .error f => .fail f
    | .ok h =>
      if decide (1 < h.fmt) || (decide (rule ≠ 0) && decide (h.opt ≠ rule)) then failWith 0x56
      else if decide (c.n 16 8 % 64 ≠ 0) || !h.valid then failWith 0x50
      else if c.n 32 8 % 32 ≠ 0 then failWith 0x51
      else match s.readDescs a [c.n 32 8] with
        | .error f => .fail f
        | .ok ds =>
          let g := ({ c with descs := ds } : Cmd).desc (c.n 32 8)
          firstFail [(!g.valid || decide (g.fmt ≠ 0) || !(scaleOk g.tscale) || decide (g.rows ≠ n) || decide (g.cols ≠ h.dim), 0x51)]
            (windowCheck (s.regionsOk a false (fun _ => true) ((c.n 24 8, 8 * n) :: g.readRegion 0 n))
              (windowCheck (s.regionsOk a true (fun _ => true) [(c.n 40 8, Nat.min n 65536 * h.dim * 4)])
                (firstFail [(s.regionsMeet a ((c.n 16 8, 64) :: (c.n 24 8, 8 * n) :: g.readRegion 0 n)
                    [(c.n 40 8, Nat.min n 65536 * h.dim * 4)], 0x27)]
                  (.go (ds ++ [(heldTable, h.raw)])))))
where
  posFinite' (w : BitVec 32) : Bool := isFinite32 w && numLt (.fin false 0 0) (val32 w)

/-- AST_ROW_REPLACE's start (R177, R194). -/
def State.startReplace (s : State) (a : Agent) (c : Cmd) : StartResult :=
  let n := c.n 40 4
  if n = 0 then .zero
  else match s.tableHdr a (c.n 16 8) with
    | .error f => .fail f
    | .ok h =>
      if decide (c.n 16 8 % 64 ≠ 0) || !h.valid then failWith 0x50
      else windowCheck (s.regionsOk a false (fun _ => true) [(c.n 24 8, 8 * n), (c.n 32 8, n * h.stride)])
        (.go [(heldTable, h.raw)])

/-- One pass of merging (R175): entries (row, gradient) into rows in first-appearance order, with what is left for the next
pass, how many were merged, the flags. -/
def mergePass (cap : Nat) : List (Nat × List (BitVec 32)) → List (Nat × List (BitVec 32)) → Nat → NFlags →
    List (Nat × List (BitVec 32)) × List (Nat × List (BitVec 32)) × Nat × NFlags
  | [], acc, k, f => (acc, [], k, f)
  | e :: es, acc, k, f =>
    match acc.find? (fun x => x.1 = e.1) with
    | some x =>
      let (ys, g) := collect ((x.2.zip e.2).map (fun p => fadd false false p.1 p.2))
      mergePass cap es (acc.map (fun y => if y.1 = e.1 then (y.1, ys) else y)) (k + 1) (f ||| g)
    | none => if cap ≤ acc.length then (acc, e :: es, k, f) else mergePass cap es (acc ++ [e]) k f

/-- FP32 words as bytes. -/
def f32Bytes (xs : List (BitVec 32)) : List Byte := (xs.map (fun x => toLE 4 x.toNat)).flatten

/-- Bytes as FP32 words. -/
def f32Words (bs : List Byte) : List (BitVec 32) := (List.range (bs.length / 4)).map (fun i => BitVec.ofNat 32 (numAt bs (4 * i) 4))

/-- A new value in the table's format (R176). -/
def TableHdr.encode (h : TableHdr) (x : BitVec 32) : List Byte × NFlags :=
  let (c, f) := roundF (fmtOf h.fmt) false false (val32 x)
  (toLE h.eb c, f)

/-- The slot image an update writes, from the old slot and the merged gradient (Table 7.2), and its flags. -/
def updateRow (h : TableHdr) (rule : Nat) (lr eps : BitVec 32) (g : List (BitVec 32)) (old : List Byte) : List Byte × NFlags :=
  let (ws, f0) := collect ((List.range h.dim).map (h.f32 old))
  let st := f32Words (bytesAt old h.stateOff h.stateBytes)
  let step := fun (w t : BitVec 32) =>
    let (v, f) := fsub w t
    (v, f)
  let (nw, ns, f1) : List (BitVec 32) × List (BitVec 32) × NFlags :=
    match rule with
    | 0 =>
      let (vs, f) := collect ((ws.zip g).map (fun e =>
        let (t, f) := fmul false false lr e.2
        let (v, k) := step e.1 t
        (v, f ||| k)))
      (vs, st, f)
    | 1 =>
      let (as, f) := collect ((st.zip g).map (fun e =>
        let (q, f) := fmul false false e.2 e.2
        let (v, k) := fadd false false e.1 q
        (v, f ||| k)))
      let (vs, k) := collect ((ws.zip (g.zip as)).map (fun e =>
        let (t, f1) := fmul false false lr e.2.1
        let (u, f2) := fadd false false e.2.2 eps
        let (r, f3) := frsqrt u false
        let (x, f4) := fmul false false t r
        let (v, f5) := step e.1 x
        (v, f1 ||| f2 ||| f3 ||| f4 ||| f5)))
      (vs, as, f ||| k)
    | _ =>
      let (qs, f1) := collect (g.map (fun x => fmul false false x x))
      let (t, f2) := treeSum qs
      let inv := (to32 false false ((Dy.ofInt 1).div (Dy.ofInt h.dim)).num).1
      let (m, f3) := fmul false false t inv
      let (a1, f4) := fadd false false (st.headD 0) m
      let (u, f5) := fadd false false a1 eps
      let (r, f6) := frsqrt u false
      let (k, f7) := fmul false false lr r
      let (vs, f8) := collect ((ws.zip g).map (fun e =>
        let (x, f) := fmul false false k e.2
        let (v, fk) := step e.1 x
        (v, f ||| fk)))
      (vs, [a1], f1 ||| f2 ||| f3 ||| f4 ||| f5 ||| f6 ||| f7 ||| f8)
  let enc := nw.map h.encode
  let vals := (enc.map Prod.fst).flatten
  (overlay (overlay old 0 vals) h.stateOff (if h.opt = 0 then [] else f32Bytes ns),
   f0 ||| f1 ||| (enc.map Prod.snd).foldl (· ||| ·) 0)

/-- The slot image of a replaced row (R177). -/
def replaceRow (h : TableHdr) (keep : Bool) (src old : List Byte) : List Byte :=
  if keep then overlay src h.stateOff (bytesAt old h.stateOff h.stateBytes) else src

/-- Is the merge buffer held by an update in progress (R175)? -/
def State.mergeHeld (s : State) : Bool := s.rowWork.any (fun e => e.2.update)

/-- The RESULT of row writes: flags, DROPPED, rows skipped (R175). -/
def RowWork.result (w : RowWork) : BitVec 32 := flagsResult w.flags (2 ^ 23 * b2n w.dropped + Nat.min 65535 w.skipped)

/-- What the row writes of a command come to after an action: there is more to do, they wait, or they are over, done or failed. -/
inductive WriteNext where
  | more (s : State) (w : RowWork)
  | stop (s : State) (w : RowWork)
  | over (s : State)

/-- A new pass of an update begins (R175): gradients merge into the scratch rows, as far as the merge buffer's tags go. -/
def State.beginPass (s : State) (c : Cmd) (w : RowWork) : State × RowWork :=
  let h : TableHdr := { raw := c.captured heldTable }
  let (rows, rest, merged, f) := mergePass 65536 w.later [] 0 0
  let t := (rows.zipIdx).foldl (fun t e => t.store c.agent c.core c.cls3 (c.n 40 8 + e.2 * h.dim * 4) (f32Bytes e.1.2) w.bad) s
  (if merged = 0 then t else t.bump Reg.astMerged merged,
   { w with later := rest, todo := rows.map (fun e => (e.1, f32Bytes e.2)), step := .lock, since := s.now, flags := w.flags ||| f })

/-- The slot image a row gets, from its old slot, and the flags of computing it. -/
def Cmd.newRow (c : Cmd) (h : TableHdr) (img old : List Byte) : List Byte × NFlags :=
  if cmdOpcode c.word = 3 then updateRow h (c.n 60 1 % 4) (c.f32 52) (c.f32 56) (f32Words img) old
  else (replaceRow h (c.bit 44 0) img old, 0)

/-- One action on the first row that a command still has to write (R171): BUSY set, the live slot read where the new row needs it, the
other slot written, the control word written. A merged gradient with a NaN or an infinity leaves its row unchanged (R175). -/
def State.writeStep (s : State) (c : Cmd) (w : RowWork) : WriteNext :=
  let h : TableHdr := { raw := c.captured heldTable }
  let upd := decide (cmdOpcode c.word = 3)
  match w.todo with
  | [] =>
    if w.later.isEmpty then
      .over (({ s with rowWork := SMap.erase s.rowWork c.id } : State).workDone c (poisonStatus w.bad) w.result)
    else
      let p := s.beginPass c w
      .more p.1 p.2
  | (r, img) :: rest =>
    let rf : NFlags := if upd && decide (w.step = .lock) then (f32Words img).foldl (fun f x => f ||| readFlags (val32 x)) 0 else 0
    let next : RowWork := { w with todo := rest, step := .lock, since := s.now }
    if rf ≠ 0 then .more s { next with skipped := w.skipped + 1, flags := w.flags ||| rf }
    else match w.step with
      | .held v =>
        let live := bitsOf v 32 1
        let write := fun (t : State) (old : List Byte) (bad : Bool) =>
          match t.pieces c.agent (h.slot r (1 - live)) h.stride true with
          | .error f => WriteNext.over (t.failWork c f)
          | .ok _ =>
            let (new, fl) := c.newRow h img old
            .more (t.store c.agent c.core c.cls3 (h.slot r (1 - live)) new (w.bad || bad))
              { w with step := .finish v (nextCtrl v), flags := w.flags ||| fl, bad := w.bad || bad }
        if upd || c.bit 44 0 then
          match s.rowLoad c (h.slot r live) h.stride with
          | .wait t => .stop t w
          | .fail f => .over (s.failWork c f)
          | .ok t old bad => write t old bad
        else write s [] false
      | step => match s.lockStep c (h.ctrlAt r) step with
        | .on t .first => if (SMap.find t.writeFail c.id).isSome then .over (t.workDone c 0 w.result) else .more t next
        | .on t st => .more t { w with step := st }
        | .wait t => .stop t w
        | .busy t => if s.busyTooLong w.since then .over (t.workDone c 0x57 w.result) else .stop t { w with step := .lock }
        | .fail f => .over (s.failWork c f)

/-- At most `fuel` actions of the row writes of command id. -/
def State.writeRows (s : State) (id : Nat) : Nat → RowWork → State
  | 0, w => { s with rowWork := SMap.insert s.rowWork id w }
  | fuel + 1, w =>
    match s.cmd id with
    | none => s
    | some c => match s.writeStep c w with
      | .more t x => ({ t with rowWork := SMap.insert t.rowWork id x } : State).writeRows id fuel x
      | .stop t x => { t with rowWork := SMap.insert t.rowWork id x }
      | .over t => t

/-- AST_UPDATE merges gradients and updates rows, one command at a time (R175, R176). A scratch area in the table's rows, or sources in
the rows to be written, give 0x27 (R78). -/
def execAstUpdate (id : Nat) (ext : Ext) (s : State) : Host.Outcome State Fault Refusal :=
  match s.working id 4 3 with
  | none => .next s
  | some c =>
    let a := c.agent
    let n := c.n 48 4
    match SMap.find s.rowWork id with
    | some w => .next (s.writeRows id (actionsOf ext (w.todo.length + w.later.length)) w)
    | none =>
      if s.mergeHeld then .next s
      else
        let h : TableHdr := { raw := c.captured heldTable }
        let g := c.desc (c.n 32 8)
        let reads := (c.n 24 8, 8 * n) :: g.readRegion 0 n
        .next (s.withReads c reads
          (let ib := s.vbytes a (c.n 24 8) (8 * n)
           let rows := ((List.range n).map (fun i => (numAt ib (8 * i) 8, i))).filter (fun e => decide (e.1 < h.rows))
           let grads := rows.map (fun e => (e.1, collect ((List.range h.dim).map (fun j => s.vecElem a g e.2 j))))
           let table := h.rowRegions (rows.map Prod.fst).eraseDups
           if s.regionsMeet a reads table || s.regionsMeet a table [(c.n 40 8, Nat.min n 65536 * h.dim * 4)] then s.workDone c 0x27 0
           else
             ((s.countRegions a reads).clearPool id).writeRows id (actionsOf ext n)
               { later := grads.map (fun e => (e.1, e.2.1)), todo := [], update := true, step := .lock, since := s.now, dropped := decide (rows.length < n),
                 skipped := 0, flags := (grads.map (fun e => e.2.2)).foldl (· ||| ·) 0, bad := s.regionsPoisoned a reads }))

/-- AST_ROW_REPLACE writes whole new rows (R177). Sources in the rows to be written give 0x27 (R78). -/
def execAstRowReplace (id : Nat) (ext : Ext) (s : State) : Host.Outcome State Fault Refusal :=
  match s.working id 4 4 with
  | none => .next s
  | some c =>
    let a := c.agent
    let n := c.n 40 4
    match SMap.find s.rowWork id with
    | some w => .next (s.writeRows id (actionsOf ext w.todo.length) w)
    | none =>
      let h : TableHdr := { raw := c.captured heldTable }
      let reads := [(c.n 24 8, 8 * n), (c.n 32 8, n * h.stride)]
      .next (s.withReads c reads
        (let ib := s.vbytes a (c.n 24 8) (8 * n)
         let sb := s.vbytes a (c.n 32 8) (n * h.stride)
         let live := ((List.range n).map (fun i => (numAt ib (8 * i) 8, bytesAt sb (i * h.stride) h.stride))).filter
           (fun e => decide (e.1 < h.rows))
         if s.regionsMeet a reads (h.rowRegions (live.map Prod.fst).eraseDups) then s.workDone c 0x27 0
         else
           ((s.countRegions a reads).clearPool id).writeRows id (actionsOf ext n)
             { later := [], todo := live, update := false, step := .lock, since := s.now, dropped := decide (live.length < n), skipped := 0, flags := 0,
               bad := s.regionsPoisoned a reads }))

end Sys2Proof.Machine
end

