-- ==== Sys2Proof/Machine/Rerank.lean ====
section
/-!
DEFINITION. Aster's re-rank sessions (07: R178–R186).
-/

namespace Sys2Proof.Machine

/-! ### Re-rank sessions (R178–R186) -/

/-- The session descriptor of a command (Table 7.4). -/
def Cmd.sd (c : Cmd) (off k : Nat) : Nat := numAt (c.captured (c.n 16 8)) off k

def Cmd.sArena (c : Cmd) : Nat := c.sd 40 8
def Cmd.sSlotBytes (c : Cmd) : Nat := c.sd 64 4
def Cmd.sBatch (c : Cmd) : Nat := c.sd 89 1
def Cmd.sSlots (c : Cmd) : Nat := c.sd 90 1
def Cmd.sProvQ (c : Cmd) : Nat := c.sd 80 2 % 4096
def Cmd.sFinalQ (c : Cmd) : Nat := c.sd 82 2 % 4096

/-- The feature tables of a session: header address, slot offset. -/
def Cmd.feats (c : Cmd) : List (Nat × Nat) :=
  (c.sd 48 8, c.sd 68 4) :: (if c.sd 56 8 = 0 then [] else [(c.sd 56 8, c.sd 72 4)])

/-- Kernel entry i: its command word, PATCH, QUEUE, whether its own constraints of Table 7.5 hold. -/
def Cmd.kernel (c : Cmd) (i : Nat) : List Byte × Nat × BitVec 16 × Bool :=
  let e := bytesAt (c.captured (c.sd 32 8)) (80 * i) 80
  let w := e.take 64
  let patch := numAt e 64 8
  (w, patch, BitVec.ofNat 16 (numAt e 72 2),
   (cmdClass w = 0 || cmdClass w = 7) && decide (cmdSlot w = 0) && !(cmdNotifyEn w) && decide (cmdNotifyQ w = 0) &&
   decide (patch &&& 0xFC = patch) && decide (numAt e 74 6 = 0))

/-- Add slot * SLOT_BYTES to bits [47:0] of the qwords PATCH names (Table 7.5). -/
def patchWord (w : List Byte) (patch delta : Nat) : List Byte :=
  ((List.range 8).map (fun k =>
    let q := numAt w (8 * k) 8
    toLE 8 (if patch.testBit k then q / 2 ^ 48 * 2 ^ 48 + (q + delta) % 2 ^ 48 else q))).flatten

/-- Does the descriptor break Table 7.4 (0x51)? -/
def sessionClean (d : List Byte) : Bool :=
  let n := fun o k => numAt d o k
  decide (n 64 4 % 64 = 0) && decide (n 64 4 ≤ 64 * mib) && decide (n 80 2 < 4096) && decide (n 82 2 < 4096) &&
  decide (n 84 2 &&& 0x7000 = 0) && decide (1 ≤ n 86 2) && decide (n 86 2 ≤ 4096) && decide (1 ≤ n 88 1) && decide (n 88 1 ≤ 64) &&
  decide (1 ≤ n 89 1) && decide (n 89 1 ≤ 64) && decide (1 ≤ n 90 1) && decide (n 90 1 ≤ 16) && decide (n 91 1 = 0) &&
  decide (n 92 2 ≤ 255) && allZero (bytesAt d 94 34)

/-- The candidates with speculative state: scored, or in flight (Table 7.6). -/
def Session.speculative (x : Session) : List Cand := x.shadow ++ x.settling.flatten ++ ((x.batches.filter Batch.spec).map Batch.cands).flatten

/-- The candidates of a speculative batch being gathered. -/
def Session.gathering (x : Session) : List Nat :=
  match x.gather with
  | some g => if g.spec then g.ids else []
  | none => []

/-- A session's started command: an open session (R178). -/
def isSession (c : Cmd) : Bool := decide (c.cls = 4) && decide (cmdOpcode c.word = 2) && decide (c.phase = .started)

/-- Does the arena lie in SRAM (Table 7.4)? -/
def State.arenaOk (s : State) (a : Agent) (d : List Byte) : Except MemFail Bool :=
  s.regionsOk a true (fun pa => decide (regionOf pa = .coreLocal) || decide (regionOf pa = .shared))
    [(numAt d 40 8, numAt d 90 1 * numAt d 64 4)]

/-- Do a batch's feature rows and scores lie in the slot (Table 7.4)? -/
def slotFits (d : List Byte) (hs : List (Nat × List Byte)) : Bool :=
  decide (numAt d 76 4 + 4 * numAt d 89 1 ≤ numAt d 64 4) &&
  (hs.zipIdx).all (fun e =>
    let h : TableHdr := { raw := e.1.2 }
    decide (numAt d (68 + 4 * e.2) 4 + numAt d 89 1 * (h.dim * h.eb) ≤ numAt d 64 4))

/-- Would every kernel word, patched for every slot, be accepted in its queue, a Peony or Foxglove queue of the group (R77, R180)? -/
def State.kernelOk (s : State) (c : Cmd) : Bool :=
  (List.range (c.sd 88 1)).all (fun i =>
    let k := c.kernel i
    k.2.2.2 && decide (cmdClass k.1 = fld k.2.2.1 12 4) &&
    (List.range c.sSlots).all (fun j =>
      (s.acceptance c.core (fld k.2.2.1 12 4) (fld k.2.2.1 0 12) (patchWord k.1 k.2.1 (j * c.sSlotBytes))).isNone))

/-- AST_RERANK's start (R178, R180, R194). -/
def State.startRerank (s : State) (a : Agent) (c : Cmd) : StartResult :=
  match s.load a (c.n 16 8) 128 with
  | .error f => .fail f
  | .ok d =>
    match s.load a (numAt d 32 8) (80 * Nat.min 64 (numAt d 88 1)) with
    | .error f => .fail f
    | .ok kb =>
      let tabs := (numAt d 48 8) :: (if numAt d 56 8 = 0 then [] else [numAt d 56 8])
      let hdrs : Except MemFail (List (Nat × List Byte)) := tabs.foldl (fun acc va => match acc with
        | .error f => .error f
        | .ok l => match s.load a va 64 with
          | .error f => .error f
          | .ok b => .ok (l ++ [(va, b)])) (.ok [])
      match hdrs with
      | .error f => .fail f
      | .ok hs =>
        let cc : Cmd := { c with descs := [(c.n 16 8, d), (numAt d 32 8, kb)] ++ hs }
        let open' := s.cmds.filter (fun x => isSession x && decide (x.id ≠ c.id))
        match s.arenaOk a d with
        | .error f => .fail f
        | .ok inSram =>
          firstFail [(hs.any (fun e => decide (e.1 % 64 ≠ 0) || !(({ raw := e.2 } : TableHdr).valid)), 0x50),
              (!(sessionClean d) || !inSram || !(slotFits d hs) || !(s.boundGet (numAt d 82 2) c.job) ||
                (decide (numAt d 8 8 ≠ 0) && !(s.boundGet (numAt d 80 2) c.job)), 0x51),
              (!(s.kernelOk cc), 0x52),
              (decide (8 ≤ (open'.filter (fun x => decide (s.groupOfCore x.core = s.groupOfCore c.core))).length) ||
                decide (128 ≤ open'.length), 0x55)]
            (windowCheck (s.regionsOk a true (fun _ => true) [(numAt d 16 8, 16), (numAt d 24 8, 4)]) (.go cc.descs))

/-- Candidates of group g in the shadow score buffer: speculative, scored, in flight or being gathered (R182). -/
def State.shadowUsed (s : State) (g : Nat) : Nat :=
  sumNat (s.sessions.map (fun e => match s.cmd e.1 with
    | none => 0
    | some c => if s.groupOfCore c.core = g then e.2.speculative.length + e.2.gathering.length else 0))

/-- The passage IDs of a list in memory (Table 6.4), at most k. -/
def listIds (bs : List Byte) (k : Nat) : List Nat :=
  (List.range (Nat.min k (numAt bs 0 4))).map (fun i => numAt bs (16 + 16 * i) 8)

/-- Speculative candidates squashed (Table 2.4, source 2); errors they met count (R42). -/
def State.squashCands (s : State) (g : Nat) (cs : List Cand) : State :=
  let t := s.squash 2 g cs.length
  let k := (cs.filter Cand.bad).length
  if k = 0 then t else t.bump Reg.mgdSpecErr k

/-- The session ends with a code and a RESULT: its speculative state is squashed, its kernel commands not yet started
leave their queues (R186). -/
def State.endSession (s : State) (c : Cmd) (x : Session) (code : Byte) (result : BitVec 32) : State :=
  let t := s.squashCands (s.groupOfCore c.core) x.speculative
  let t := t.dropCmds (fun d => decide (d.session = c.id + 1) && decide (d.phase = Phase.queued))
  ({ t with sessions := SMap.erase t.sessions c.id } : State).workDone c code result

/-- The session ends with a fault met on the way (R247). -/
def State.faultSession (s : State) (c : Cmd) (x : Session) (f : MemFail) : State := (s.mmuFault c.job 4 f).endSession c x f.code 0

/-- Is there room for one set of the kernel's commands? -/
def State.kernelRoom (s : State) (c : Cmd) : Bool :=
  let qs := (List.range (c.sd 88 1)).map (fun i => (c.kernel i).2.2.1)
  qs.all (fun q =>
    let cls := fld q 12 4
    let inst := fld q 0 12
    decide ((s.cmds.filter (sameQueue cls inst (s.queueGroup cls c.core))).length + (qs.filter (· = q)).length ≤ 64))

/-- The rows a batch reads, candidate by candidate: of each feature table, by PASSAGE_ID[39:0] (R180). -/
def Cmd.candRows (c : Cmd) (p : Nat) : List (Nat × Nat) :=
  c.feats.map (fun ft => (ft.1, Nat.min (p % 2 ^ 40) ((({ raw := c.captured ft.1 } : TableHdr).rows) - 1)))

/-- A batch whose rows have been read goes out in its slot (R180): rows to their positions, those beyond the count repeating the last
candidate's, the patched kernel into its queues. -/
def State.dispatch (s : State) (c : Cmd) (x : Session) (b : Gather) (r : RowRead) : State :=
  let nf := c.feats.length
  let rowsOf := fun (j : Nat) => (r.got.drop (j * nf)).take nf
  let base := c.sArena + b.slot * c.sSlotBytes
  let t := (List.range c.sBatch).foldl (fun t j => ((c.feats.zip (rowsOf (Nat.min j (b.ids.length - 1))))).foldl (fun t e =>
      let h : TableHdr := { raw := c.captured e.1.1 }
      t.store c.agent c.core c.cls3 (base + e.1.2 + j * (h.dim * h.eb)) (e.2.2.1.take (h.dim * h.eb)) (e.2.2.2 && !b.spec)) t) s
  let cands := (b.ids.zipIdx).map (fun e =>
    ({ id := e.1, versions := (rowsOf e.2).map Prod.fst, bad := (rowsOf e.2).any (fun v => v.2.2), score := 0 } : Cand))
  let n := c.sd 88 1
  let may := if b.spec then some (base, c.sSlotBytes) else none
  let t := (List.range n).foldl (fun t i =>
    let e := c.kernel i
    t.enter c.core c.job e.2.2.1 (patchWord e.1 e.2.1 (b.slot * c.sSlotBytes)) (c.id + 1) may) t
  let batch : Batch := { slot := b.slot, cands := cands, spec := b.spec, cmds := (List.range n).map (fun i => (s.nextCmd + i, none)),
                         stopped := false }
  ({ t with rowReads := SMap.erase t.rowReads c.id } : State).setSession c.id { x with batches := x.batches ++ [batch], gather := none }

/-- Have the rows of a candidate the versions its gather accepted (R44)? -/
def State.versionsHold (s : State) (c : Cmd) (d : Cand) : Bool :=
  ((c.candRows d.id).zip d.versions).all (fun e =>
    match s.load c.agent (({ raw := c.captured e.1.1 } : TableHdr).ctrlAt e.1.2) 8 with
    | .ok bs => decide (BitVec.ofNat 32 (leNat bs) = e.2)
    | .error _ => false)

/-- Where the control words of candidates' rows stand. -/
def Cmd.ctrlRegions (c : Cmd) (cs : List Cand) : List (Nat × Nat) :=
  (cs.map (fun d => (c.candRows d.id).map (fun e => ((({ raw := c.captured e.1 } : TableHdr).ctrlAt e.2, 8))))).flatten

/-- The progress word of R185. -/
def progWord (n tag : Nat) : QWord := wordOfBytes (toLE 4 n ++ toLE 4 tag ++ zeros 24) true

/-- The scores validated so far. -/
def Session.validated (x : Session) : Nat := (x.scores.filter (fun e => e.2.isSome)).length

/-- PROG_EN. -/
def Cmd.progEn (c : Cmd) : Bool := (c.sd 84 2).testBit 15

/-- With PROG_EN, one word goes to PROG_Q after a batch's validation, as a release (R185). -/
def State.progress (s : State) (c : Cmd) (x : Session) : State :=
  if c.progEn then
    s.releasePut { queue := c.sd 84 2 % 4096, core := c.core, job := c.job, cmd := c.id + 1, word := progWord x.validated (cmdTag c.word) }
  else s

/-- The passage IDs of the final list. -/
def Session.finalIds (x : Session) : List Nat :=
  match x.final with
  | some l => listIds l (numAt l 0 4)
  | none => []

/-- A passage's score is validated wherever the final list names it; with PROG_EN also written to OUT_SCORES (R185). -/
def State.validScore (s : State) (c : Cmd) (x : Session) (p : Nat) (sc : BitVec 32) : State × Session :=
  ((x.finalIds.zipIdx).filter (fun e => decide (e.1 = p))).foldl (fun acc e =>
    (if c.progEn then acc.1.store c.agent c.core c.cls3 (c.sd 24 8 + 4 * e.2) (toLE 4 sc.toNat) false else acc.1,
     { acc.2 with scores := SMap.insert acc.2.scores e.2 (some sc) })) (s, x)

/-- Settle one speculative candidate against the final list (Table 7.6): one whose data was poisoned is read again without speculation,
and its error is no squashed one (R42). -/
def State.settle (s : State) (c : Cmd) (x : Session) (d : Cand) : State × Session :=
  let g := s.groupOfCore c.core
  if !(x.finalIds.contains d.id) then (s.squashCands g [d], x)
  else if s.versionsHold c d && !d.bad then
    ((s.validate 2 g 1).bump Reg.astSpecKept 1).validScore c { x with kept := x.kept + 1 } d.id d.score
  else ((s.squash 2 g 1).bump Reg.astStale 1, x)

/-- The candidates of the final list to be scored anew, in its order: those without a validated score that no batch holds (R184). -/
def Session.anew (x : Session) : List Nat :=
  let held := (x.settling.flatten).map Cand.id ++ ((x.batches.map Batch.cands).flatten).map Cand.id ++
    (match x.gather with
     | some g => g.ids
     | none => [])
  (((x.finalIds.zipIdx).filter (fun e => ((SMap.find x.scores e.2).getD none).isNone && !(held.contains e.1))).map Prod.fst).eraseDups

/-- Speculative candidates whose rows' control words have been read are settled together; a progress word follows (R184, R185). -/
def State.settleBatch (s : State) (c : Cmd) (x : Session) (cs : List Cand) : State :=
  let p := cs.foldl (fun acc d => acc.1.settle c acc.2 d) (s, { x with settling := x.settling.drop 1 })
  let y : Session := { p.2 with waiting := p.2.anew }
  ((p.1.progress c y).setSession c.id y).clearPool c.id

/-- The final list is read, or an earlier end of the session found (R184, R186). -/
def State.takeFinal (s : State) (c : Cmd) (x : Session) (status : Byte) (l : List Byte) : State :=
  if status ≠ 0 ∧ !(status = 0x43 ∧ (numAt l 4 2).testBit 2 = false) then s.endSession c x 0x54 0
  else
    match s.pieces c.agent (c.sd 24 8) (4 * numAt l 0 4) true with
    | .error f => s.faultSession c x f
    | .ok _ =>
      let t := if c.progEn then
          s.store c.agent c.core c.cls3 (c.sd 24 8) (f32Bytes (List.replicate (numAt l 0 4) 0xFF800000)) false else s
      let y : Session := { x with final := some l, noticed := 0, shadow := [], settling := if x.shadow.isEmpty then [] else [x.shadow] }
      (t.setSession c.id { y with waiting := y.anew }).clearPool c.id

/-- The provisional list is read: its first PROV_TAKE entries not yet started wait in its order (R182). -/
def State.takeProv (s : State) (c : Cmd) (x : Session) (l : List Byte) : State :=
  let started := x.shadow.map Cand.id ++ ((x.batches.map Batch.cands).flatten).map Cand.id ++ x.squashed ++ x.gathering
  (s.setSession c.id { x with noticed := x.noticed - 1, waiting := (listIds l (c.sd 86 2)).filter (fun p => !(started.contains p)) }).clearPool c.id

/-- When every final-list candidate has a validated score, OUT and OUT_SCORES are written and the command's work is done
(R185). -/
def State.closeSession (s : State) (c : Cmd) (x : Session) (l : List Byte) : State :=
  let a := c.agent
  let n := numAt l 0 4
  let sc := (List.range n).map (fun i => ((SMap.find x.scores i).getD none).getD 0)
  let es := (List.range n).map (fun i => bytesAt l (16 + 16 * i) 8 ++ toLE 4 (sc.getD i 0).toNat ++ bytesAt l (28 + 16 * i) 4)
  let out := bytesAt l 0 6 ++ zeros 2 ++ bytesAt l 8 8 ++ es.flatten
  match s.pieces a (c.sd 16 8) out.length true, s.pieces a (c.sd 24 8) (4 * n) true with
  | .ok _, .ok _ =>
    let t := (s.store a c.core c.cls3 (c.sd 16 8) out false).store a c.core c.cls3 (c.sd 24 8) (f32Bytes sc) false
    ({ t with sessions := SMap.erase t.sessions c.id }).workDone c 0 (BitVec.ofNat 32 (x.kept % 65536))
  | .error f, _ => s.faultSession c x f
  | _, .error f => s.faultSession c x f

/-- A result list in memory (Table 6.4): header first, then its entries. -/
def State.readList (s : State) (a : Agent) (va : Nat) : Except MemFail (List Byte) :=
  match s.load a va 16 with
  | .error f => .error f
  | .ok h => s.load a va (16 + 16 * numAt h 0 4)

/-- A list is read for a session. -/
def State.listLoad (s : State) (c : Cmd) (va : Nat) : RowLoad :=
  match s.readList c.agent va with
  | .error f => if f.awaits.isEmpty then .fail f else .wait (s.fetch c c.cls3 f.awaits)
  | .ok bs => .ok (s.countRegion c.agent va bs.length) bs false

/-- What a session's next act comes to: there is more to do, or it waits (for an answer, a slot, a place in a queue, a word). -/
inductive SessionNext where
  | more (s : State)
  | stop (s : State)

/-- The rows of the batch being gathered are read further; once read the batch goes out, when its queues have room (R180). A speculative
gather that would fault stalls and is not performed (R41). -/
def State.goBatch (s : State) (c : Cmd) (x : Session) (b : Gather) (fuel : Nat) (r : RowRead) : SessionNext :=
  let drop := fun (t : State) => ({ t with rowReads := SMap.erase t.rowReads c.id } : State).setSession c.id
    { x with gather := none, nextSlot := b.slot, waiting := if x.final.isSome then { x with gather := none }.anew else b.ids ++ x.waiting }
  if b.spec && x.final.isSome then
    if s.reqs.any (fun e => decide (e.2.kind = .read) && decide (e.2.cmd = c.id + 1)) then .stop s else .more ((drop s).clearPool c.id)
  else match s.readRows c.id b.spec fuel r with
    | .fail t f => .stop (if b.spec then (drop t).clearPool c.id else ({ t with rowReads := SMap.insert t.rowReads c.id r } : State).faultSession c x f)
    | .more t y => .stop { t with rowReads := SMap.insert t.rowReads c.id y }
    | .stop t y =>
      if y.todo.isEmpty && t.kernelRoom c then .more (t.dispatch c x b y)
      else .stop { t with rowReads := SMap.insert t.rowReads c.id y }

/-- A session's next act (R180–R185): the walk's final list is read; a gather goes on; a notice's provisional list is read; scored
candidates are settled; a batch begins; the session closes. -/
def State.sessionStep (s : State) (c : Cmd) (x : Session) (fuel : Nat) : SessionNext :=
  match x.ended, x.final, x.gather, SMap.find s.rowReads c.id with
  | some status, none, _, _ => match s.listLoad c (c.sd 0 8) with
    | .wait t => .stop t
    | .fail f => .stop (if status ≠ 0 then s.endSession c x 0x54 0 else s.faultSession c x f)
    | .ok t l _ => .more (t.takeFinal c x status l)
  | _, _, some b, some r => s.goBatch c x b fuel r
  | _, final, _, _ =>
    if 0 < x.noticed then
      match s.listLoad c (c.sd 8 8) with
      | .wait t => .stop t
      | .fail _ => .stop (s.setSession c.id { x with noticed := x.noticed - 1 })
      | .ok t l _ => .more (t.takeProv c x l)
    else match x.settling with
    | cs :: _ => (match s.readable c.agent (c.ctrlRegions cs) with
      | .error f => if f.awaits.isEmpty then .more (s.settleBatch c x cs) else .stop (s.fetch c c.cls3 f.awaits)
      | .ok _ => .more (s.settleBatch c x cs))
    | [] =>
      let spec := final.isNone
      let slotBusy := x.batches.any (fun b => b.slot = x.nextSlot)
      let may := !spec || (!(s.specOff 2) && decide (s.shadowUsed (s.groupOfCore c.core) < 4096))
      if !x.waiting.isEmpty && !slotBusy && s.kernelRoom c && may then
        let ids := x.waiting.take c.sBatch
        let b : Gather := { slot := x.nextSlot, spec := spec, ids := ids }
        .more ({ s with rowReads := SMap.insert s.rowReads c.id (RowRead.start (ids.map c.candRows).flatten) }.setSession c.id
          { x with gather := some b, nextSlot := (x.nextSlot + 1) % c.sSlots, waiting := x.waiting.filter (fun p => !(ids.contains p)) })
      else match final with
        | some l =>
          if x.validated < numAt l 0 4 ∨ !(x.batches.isEmpty) then .stop s else .stop (s.closeSession c x l)
        | none => .stop s

/-- A session does what it can now, its row reads at most as many actions as given. -/
def State.advanceSession (s : State) (id : Nat) (actions : Nat) : Nat → State
  | 0 => s
  | fuel + 1 =>
    match s.cmd id, SMap.find s.sessions id with
    | some c, some x =>
      if decide (c.phase ≠ .started) || c.suspended then s
      else match s.sessionStep c x actions with
        | .more t => t.advanceSession id actions fuel
        | .stop t => t
    | _, _ => s

/-- The acts a session may take in one step: more than its final list and its batches need. -/
def sessionFuel : Nat := 256

/-- A session goes on. -/
def State.runSession (s : State) (id : Nat) (ext : Ext) : State := s.advanceSession id (actionsOf ext 128) sessionFuel

/-- The queue is one that Aster consumes (R178, R179). -/
def State.asterQueue (s : State) (q : Nat) : State := s.setQueue q { s.queue q with aster := true }

/-- AST_RERANK: the session opens and Aster consumes its queues (R178, R179); where it is open already, it goes on: gathers whose
answers have come, batches that found no room, the lists, the close. -/
def execAstRerank (id : Nat) (ext : Ext) (s : State) : Host.Outcome State Fault Refusal :=
  match s.working id 4 2 with
  | none => .next s
  | some c =>
    match SMap.find s.sessions c.id with
    | none =>
      let t := s.asterQueue c.sFinalQ
      let t := if c.sd 8 8 = 0 then t else t.asterQueue c.sProvQ
      .next (t.setSession c.id Session.opened)
    | some _ => .next (s.runSession id ext)

/-- The open sessions of jobs that a queue's getting job names, by command. -/
def State.sessionsOn (s : State) (q : Nat) (final : Bool) : List Cmd :=
  s.cmds.filter (fun c => isSession c && !c.suspended && (SMap.find s.sessions c.id).isSome && s.boundGet q c.job &&
    decide ((if final then c.sFinalQ else c.sProvQ) = q))

/-- A provisional notice for query row r reaches the session that reads such notices (R179, R182): not one without a provisional list, or
whose final list is known, and none with DIS_ASTER in effect. -/
def State.deliverNotice (s : State) (ext : Ext) (on : List Cmd) (r : Nat) : State :=
  match on.find? (fun c => decide (c.sd 92 2 = r)) with
  | none => s
  | some c => match SMap.find s.sessions c.id with
    | none => s
    | some x =>
      if x.ended.isSome || decide (c.sd 8 8 = 0) || s.specOff 2 then s
      else (s.setSession c.id { x with noticed := x.noticed + 1 }).runSession c.id ext

/-- PROVISIONAL_NOTICE: Aster takes a notice from queue q and the session whose QROW it names reads the provisional list
and dispatches batches of it (R179, R182); a notice that matches no open session is discarded. -/
def execProvisionalNotice (q : BitVec 12) (ext : Ext) (s : State) : Host.Outcome State Fault Refusal :=
  let k := q.toNat
  match (s.queue k).words with
  | [] => .next s
  | w :: _ =>
    if !(s.queue k).aster || s.tripped || s.fatal || s.stopped then .next s
    else .next ((s.popWord k).deliverNotice ext (s.sessionsOn k false) (fld w.data 0 16))

/-- The walk's notify word reaches one session (R184, R186). -/
def State.deliverFinal (s : State) (ext : Ext) (status : Byte) (c : Cmd) : State :=
  match SMap.find s.sessions c.id with
  | none => s
  | some x => if x.ended.isSome then s else (s.setSession c.id { x with ended := some status }).runSession c.id ext

/-- FINAL_LIST: Aster takes the walk's notify word from queue q and delivers it to every open session whose FINAL_Q it is
(R179, R184). -/
def execFinalList (q : BitVec 12) (ext : Ext) (s : State) : Host.Outcome State Fault Refusal :=
  let k := q.toNat
  match (s.queue k).words with
  | [] => .next s
  | w :: _ =>
    if !(s.queue k).aster || s.tripped || s.fatal || s.stopped then .next s
    else .next ((s.sessionsOn k true).foldl (fun t c => t.deliverFinal ext (BitVec.ofNat 8 (fld w.data 0 8)) c) (s.popWord k))

/-- The scores of a completed batch are taken (R180, R184): before the final list they wait in the shadow buffer; after it a speculative
batch's candidates are settled, another's are validated. -/
def State.takeBatch (s : State) (c : Cmd) (x : Session) (b : Batch) (scores : List (BitVec 32)) : State :=
  let poisoned := b.spec && b.cmds.any (fun k => k.2 = some 0xC0)
  let cs := (b.cands.zip scores).map (fun e => ({ e.1 with score := e.2, bad := e.1.bad || poisoned } : Cand))
  let y : Session := { x with batches := x.batches.filter (fun d => !(d.slot = b.slot)) }
  if b.stopped then
    let g := s.groupOfCore c.core
    let t := (s.squashCands g (cs.filter (fun d => y.final.isNone || !(y.finalIds.contains d.id)))).squash 2 g
      (cs.filter (fun d => y.final.isSome && y.finalIds.contains d.id)).length
    let z : Session := { y with squashed := y.squashed ++ cs.map Cand.id }
    t.setSession c.id (if y.final.isSome then { z with waiting := z.anew } else z)
  else if y.final.isNone then s.setSession c.id { y with shadow := y.shadow ++ cs }
  else if b.spec then s.setSession c.id { y with settling := y.settling ++ [cs] }
  else
    let p := cs.foldl (fun acc d => acc.1.validScore c acc.2 d.id d.score) (s, y)
    (p.1.progress c p.2).setSession c.id p.2

/-- BATCH_COMPLETE: every kernel command of session id's batch in a slot has completed (R180, R184, R186). A code other
than 0x00 ends the session, but for poison met in a speculative batch (R42); a batch stopped before a write outside its
slot is squashed (R183). -/
def execBatchComplete (id : Nat) (slot : BitVec 4) (ext : Ext) (s : State) : Host.Outcome State Fault Refusal :=
  match s.working id 4 2, SMap.find s.sessions id with
  | some c, some x =>
    match x.batches.find? (fun b => b.slot = slot.toNat) with
    | none => .next s
    | some b =>
      if b.cmds.any (fun k => k.2.isNone) then .next s
      else
        match b.cmds.find? (fun k => !b.stopped && !(k.2 = some 0) && !(b.spec && k.2 = some 0xC0)) with
        | some k => .next (s.endSession c x 0x53 (BitVec.ofNat 32 ((k.2.getD 0).toNat)))
        | none =>
          match s.load c.agent (c.sArena + b.slot * c.sSlotBytes + c.sd 76 4) (4 * b.cands.length) with
          | .error f => .next (s.faultSession c x f)
          | .ok sb => .next ((s.takeBatch c x b (f32Words sb)).runSession id ext)
  | _, _ => .next s

/-- ROW_BUSY_RETRY: a row found BUSY is tried again (R171), by the command whose write or read of it waits; after 10 ms without success
the command completes with 0x57. -/
def execRowBusyRetry (id : Nat) (ext : Ext) (s : State) : Host.Outcome State Fault Refusal :=
  match s.working id 4 1, s.working id 4 2, s.working id 4 3, s.working id 4 4, SMap.find s.rowReads id, SMap.find s.rowWork id with
  | some c, _, _, _, some r, _ => .next (if r.step = .lock then s.goGather c (actionsOf ext r.todo.length) r else s)
  | _, some _, _, _, some r, _ => .next (if r.step = .lock then s.runSession id ext else s)
  | _, _, some _, _, _, some w => .next (if w.step = .lock then s.writeRows id (actionsOf ext (w.todo.length + w.later.length)) w else s)
  | _, _, _, some _, _, some w => .next (if w.step = .lock then s.writeRows id (actionsOf ext w.todo.length) w else s)
  | _, _, _, _, _, _ => .next s

/-- A kernel command of a session completed with a code (R180). -/
def State.kernelDone (s : State) (c : Cmd) (code : Byte) : State :=
  match SMap.find s.sessions (c.session - 1) with
  | none => s
  | some x =>
    let bs := x.batches.map (fun b => ({ b with cmds := b.cmds.map (fun k => if k.1 = c.id then (k.1, some code) else k) } : Batch))
    s.setSession (c.session - 1) { x with batches := bs }

/-- The start of an Aster command, by its opcode. -/
def State.startAster (s : State) (a : Agent) (c : Cmd) : StartResult :=
  match cmdOpcode c.word with
  | 1 => s.startGather a c
  | 2 => s.startRerank a c
  | 3 => s.startUpdate a c
  | 4 => s.startReplace a c
  | _ => .go []

end Sys2Proof.Machine
end

