-- ==== Sys2Proof/Machine/Pack.lean ====
section
/-!
DEFINITION. Bouquet (07): passage directories (R187), speculative passage fetch (R188), prompt assembly (R189–R193).
-/

namespace Sys2Proof.Machine

/-- The header at DIR meets R187: VERSION 1, VOCAB 0–15, every unlisted byte zero. -/
def dirValid (h : List Byte) : Bool :=
  decide (numAt h 0 2 = 1) && decide (numAt h 2 2 < 16) && decide (numAt h 4 4 = 0) && allZero (bytesAt h 24 40)

/-- The number of a passage (its PASSAGE_ID[39:0]). -/
def passageNo (id : Nat) : Nat := id % 2 ^ 40

/-- The directory entry of a passage: none where the ID is out of range or the passage absent (BYTES 0). -/
def State.dirEntry (s : State) (a : Agent) (h : List Byte) (id : Nat) : Except MemFail (Option (List Byte)) :=
  if numAt h 8 8 ≤ passageNo id then .ok none
  else match s.load a (numAt h 16 8 + 32 * passageNo id) 32 with
    | .error f => .error f
    | .ok e => .ok (if numAt e 8 4 = 0 then none else some e)

/-- Where an entry's text lies in the flash read window: its offset, contiguous; 0x5A for text outside it or any other value
the entry may not hold (R187); a translation fault its own code. -/
def State.textAt (s : State) (a : Agent) (e : List Byte) : Except MemFail Nat :=
  let bad : MemFail := { code := 0x5A, va := 0 }
  if decide (65536 < numAt e 8 4) || !(allZero (bytesAt e 24 8)) then .error bad
  else match s.pieces a (numAt e 0 8) (numAt e 8 4) false with
    | .error f => .error f
    | .ok ps =>
      if ps.all (fun p => decide (regionOf p.1 = .flash)) then .ok ((ps.headD (flashBase, 0)).1 - flashBase) else .error bad

/-- The flash blocks of an entry's text, as its pages translate. -/
def State.textBlocks (s : State) (a : Agent) (e : List Byte) : List Nat :=
  match s.pieces a (numAt e 0 8) (numAt e 8 4) false with
  | .error _ => []
  | .ok ps => (ps.map (fun p => blocksOf (p.1 - flashBase) p.2)).flatten.eraseDups

/-- The flash-map entries current for a text's blocks (R44, R188). -/
def State.mapEntries (s : State) (bs : List Nat) : List (BitVec 40) := bs.map (fun b => (s.block b).entry)

/-! ### The shadow passage buffer (R45, R46, R188) -/

/-- The bytes of group g's shadow passage buffer in use. -/
def State.shadowBytes (s : State) (g : Nat) : Nat :=
  ((s.passages.filter (fun p => decide (p.group = g))).map (fun p => p.bytes.length)).foldl (· + ·) 0

/-- The passages that f picks are squashed: HUB_SQUASH3 counts them, errors they met count in MGD_SPEC_ERR (R42, R43). -/
def State.squashPassages (s : State) (f : Passage → Bool) : State :=
  (s.passages.filter f).foldl (fun t p =>
    let u := t.squash 3 p.group 1
    if p.bad then u.bump Reg.mgdSpecErr 1 else u) { s with passages := s.passages.filter (fun p => !(f p)) }

/-- BQT_FETCH's start: COUNT (0x59), the directory and the entries its IDs name (0x5A). -/
def State.startFetch (s : State) (a : Agent) (c : Cmd) : StartResult :=
  let n := c.n 32 4
  if n = 0 then .zero
  else if 4096 < n then failWith 0x59
  else match s.load a (c.n 16 8) 64 with
    | .error f => .fail f
    | .ok h =>
      if !(dirValid h) then failWith 0x5A
      else match s.load a (c.n 24 8) (8 * n) with
        | .error f => .fail f
        | .ok ids =>
          let known := ((List.range n).map (fun i => passageNo (numAt ids (8 * i) 8))).filter (fun k => decide (k < numAt h 8 8))
          let waits := match s.readable a (known.map (fun k => (numAt h 16 8 + 32 * k, 32))) with
            | .error f => f.awaits
            | .ok _ => []
          let es := (List.range n).map (fun i => s.dirEntry a h (numAt ids (8 * i) 8))
          let out := es.any (fun e => match e with
            | .ok (some x) => match s.textAt a x with
              | .error f => decide (f.code = 0x5A)
              | .ok _ => false
            | _ => false)
          if !waits.isEmpty then .fail { code := 0xFF, va := 0, awaits := waits }
          else firstFail [(out, 0x5A)] (.go [(c.n 16 8, h), (heldOffs, ids)])

/-- One passage of a fetch: skipped (absent, out of range, no room, DIS_FLASH), or read into the shadow buffer; a read that
would fault is not performed (R41). The state and the count of skipped ones. -/
def State.fetchOne (s : State) (a : Agent) (c : Cmd) (h : List Byte) (id : Nat) : State × Nat :=
  let g := s.groupOfCore c.core
  match s.dirEntry a h id with
  | .error _ => (s, 0)
  | .ok none => (s, 1)
  | .ok (some e) =>
    if s.specOff 3 || decide (16 * mib < s.shadowBytes g + numAt e 8 4) then (s, 1)
    else match s.textAt a e, s.load a (numAt e 0 8) (numAt e 8 4) with
      | .ok off, .ok bs =>
        let blocks := s.textBlocks a e
        let p : Passage := { group := g, job := c.job, fset := c.n 36 1 % 16, id := passageNo id, off := off,
                             entries := s.mapEntries blocks, bytes := bs, bad := blocks.any (fun b => (s.block b).bad) }
        let t := s.countFlashReads blocks
        ({ t with passages := t.passages ++ [p] }, 0)
      | _, _ => (s, 0)

/-- The passages of a fetch in order: the state, and how many were skipped. -/
def State.fetchAll (s : State) (a : Agent) (c : Cmd) (h ids : List Byte) : State × Nat :=
  (List.range (c.n 32 4)).foldl (fun (acc : State × Nat) i =>
    let (u, k) := acc.1.fetchOne a c h (numAt ids (8 * i) 8)
    (u, acc.2 + k)) (s, 0)

/-- BQT_FETCH reads passages into the group's shadow passage buffer (R188). -/
def execBqtFetch (id : Nat) (_ext : Ext) (s : State) : Host.Outcome State Fault Refusal :=
  match s.working id 5 2 with
  | none => .next s
  | some c =>
    let a := c.agent
    let g := s.groupOfCore c.core
    let s1 := s.squashPassages (fun p => decide (p.group = g) && decide (p.fset = c.n 36 1 % 16))
    let (t, skipped) := s1.fetchAll a c (c.captured (c.n 16 8)) (c.captured heldOffs)
    .next (t.workDone c 0 (BitVec.ofNat 32 skipped))

/-! ### Packing (R189–R192) -/

/-- A picked passage: its index in LIST, its ID, its re-rank score and its directory entry. -/
structure Picked where
  idx : Nat
  id : Nat
  score : BitVec 32
  entry : List Byte
deriving DecidableEq, Repr

def Picked.bytes (p : Picked) : Nat := numAt p.entry 8 4
def Picked.tokens (p : Picked) : Nat := numAt p.entry 12 4
def Picked.hash (p : Picked) : Nat := numAt p.entry 16 8

/-- One unit of the prompt: KIND of Table 7.9's list in R192, SOURCE, TRUSTED, TOKENS, its text, and the passage. -/
structure PackUnit where
  kind : Nat
  source : Nat
  trusted : Bool
  tokens : Nat
  va : Nat
  bytes : Nat
  passage : Option Picked
deriving DecidableEq, Repr

/-- A prompt as planned: the kept passages best first, the units in template order, what was dropped and removed. -/
structure PackPlan where
  kept : List Picked
  units : List PackUnit
  droppedPassages : Nat
  droppedMemory : Nat
  duplicates : Nat
deriving DecidableEq, Repr

/-- A failing check of a plan. -/
def packFail {α : Type} (code : Byte) : Except MemFail α := .error { code := code, va := 0 }

/-- Does the pack descriptor keep its ranges (Table 7.7)? -/
def packParams (d : List Byte) : Bool :=
  decide (numAt d 70 2 ≤ 256) && decide (numAt d 76 4 ≤ 65536) && decide (1 ≤ numAt d 80 4) && decide (numAt d 80 4 ≤ 262144) &&
  decide (1 ≤ numAt d 86 1) && decide (numAt d 86 1 ≤ 64) && decide (numAt d 88 2 ≤ 15) && allZero (bytesAt d 90 38)

/-- Do the template items keep Table 7.8: valid types, no second QUERY, MEMORY or PASSAGES, their unused bytes zero? -/
def itemsValid (items : List (List Byte)) : Bool :=
  items.all (fun i => decide (numAt i 0 1 ≤ 3) && (numAt i 0 1 = 0 || numAt i 0 1 = 3 || allZero (bytesAt i 2 14))) &&
  [1, 2, 3].all (fun k => decide ((items.filter (fun i => numAt i 0 1 = k)).length ≤ 1))

/-- The indices of LIST that PSEL picks: a Primrose row's, or every entry (Table 7.7). -/
def State.packIndices (s : State) (a : Agent) (d : List Byte) (count : Nat) : Except MemFail (List Nat) :=
  if numAt d 24 8 = 0 then .ok (List.range count)
  else match s.load a (numAt d 24 8) 4 with
    | .error f => .error f
    | .ok h => match s.load a (numAt d 24 8 + 32) (8 * leNat h) with
      | .error f => .error f
      | .ok es =>
        let is := (List.range (leNat h)).map (fun i => numAt es (8 * i) 4)
        if is.any (fun i => decide (count ≤ i)) then packFail 0x59 else .ok is

/-- The directory entries of the picked passages: 0x5A before 0x5C (R194). -/
def State.pickAll (s : State) (a : Agent) (h list : List Byte) (is : List Nat) : Except MemFail (List Picked) :=
  let es := is.map (fun i => (i, numAt list (16 + 16 * i) 8, BitVec.ofNat 32 (numAt list (24 + 16 * i) 4)))
  es.foldl (fun acc e => match acc with
    | .error f => if f.code = 0x5C then
        match s.dirEntry a h e.2.1 with
        | .ok (some x) => match s.textAt a x with
          | .error g => .error g
          | .ok _ => .error f
        | _ => .error f
      else .error f
    | .ok ps => match s.dirEntry a h e.2.1 with
      | .error f => .error f
      | .ok none => packFail 0x5C
      | .ok (some x) => match s.textAt a x with
        | .error f => .error f
        | .ok _ => .ok (ps ++ [{ idx := e.1, id := e.2.1, score := e.2.2, entry := x }])) (.ok [])

/-- Are two passages duplicates (R190)? -/
def samePassage (byHash : Bool) (p q : Picked) : Bool :=
  decide (p.id = q.id) || (byHash && decide (p.hash = q.hash) && decide (p.bytes = q.bytes))

/-- Duplicates removed: the better score stays, of equal scores the earlier (R190). -/
def dedupe (byHash : Bool) (ps : List Picked) : List Picked :=
  (sortBy (fun p q => scoreAbove p.score q.score) ps).foldl (fun acc p =>
    if acc.any (fun q => samePassage byHash p q) then acc else acc ++ [p]) []

/-- Best first, ties in increasing passage ID, NaN scores last (R190). -/
def rankBefore (p q : Picked) : Bool :=
  scoreAbove p.score q.score || (!(scoreAbove q.score p.score) && decide (p.id < q.id))

/-- A memory segment with its index. -/
abbrev MemSeg := Nat × List Byte

def MemSeg.bytes (m : MemSeg) : Nat := numAt m.2 8 4
def MemSeg.tokens (m : MemSeg) : Nat := numAt m.2 12 2
def MemSeg.prio (m : MemSeg) : Nat := numAt m.2 14 1
def MemSeg.pinned (m : MemSeg) : Bool := numAt m.2 15 1 % 2 = 1
def MemSeg.trusted (m : MemSeg) : Bool := numAt m.2 15 1 / 2 % 2 = 1

/-- Items are dropped from the front while the total exceeds the budget and more than `least` remain: what remains, the
total. -/
def dropWhileOver {α : Type} (cost : α → Nat) (budget least : Nat) : List α → Nat → List α × Nat
  | [], total => ([], total)
  | x :: xs, total =>
    if total ≤ budget ∨ xs.length < least then (x :: xs, total) else dropWhileOver cost budget least xs (total - cost x)

/-- Trimming to the budget (R191): passages best first and memory segments, of which the kept ones stay in their order. -/
def trim (budget least sepTokens fixed : Nat) (ps : List Picked) (ms : List MemSeg) : List Picked × List MemSeg :=
  let cost := fun (p : Picked) => p.tokens + sepTokens
  let free := ms.filter (fun m => !m.pinned)
  let total := fixed + sumNat (ps.map cost) + sumNat (free.map MemSeg.tokens)
  let (p1, t1) := dropWhileOver cost budget least ps.reverse total
  let order := sortBy (fun (x y : MemSeg) => decide (x.prio < y.prio) || (x.prio = y.prio && decide (y.1 < x.1))) free
  let (m1, t2) := dropWhileOver MemSeg.tokens budget 0 order t1
  let (p2, _) := dropWhileOver cost budget 0 p1 t2
  (p2.reverse, ms.filter (fun m => m.pinned || m1.contains m))

/-- The units of one template item (Table 7.8, R192). -/
def itemUnits (d : List Byte) (placed : List Picked) (ms : List MemSeg) (k : Nat) (i : List Byte) : List PackUnit :=
  let trusted := numAt i 1 1 % 2 = 1
  match numAt i 0 1 with
  | 0 => [{ kind := 0, source := k, trusted := trusted, tokens := numAt i 2 2, va := numAt i 8 8, bytes := numAt i 4 4, passage := none }]
  | 1 => [{ kind := 1, source := k, trusted := false, tokens := numAt d 72 2, va := numAt d 40 8, bytes := numAt d 76 4, passage := none }]
  | 2 => ms.map (fun m => { kind := 2, source := m.1, trusted := m.trusted, tokens := m.tokens, va := numAt m.2 0 8,
                            bytes := m.bytes, passage := none })
  | _ => (placed.map (fun p =>
      [({ kind := 3, source := k, trusted := trusted, tokens := numAt i 2 2, va := numAt i 8 8, bytes := numAt i 4 4, passage := none } : PackUnit),
       ({ kind := 4, source := p.idx, trusted := false, tokens := p.tokens, va := numAt p.entry 0 8, bytes := p.bytes, passage := some p } : PackUnit)])).flatten

/-- The plan of a pack from its descriptor (R189–R191, checks in the order of R194). -/
def State.packPlan (s : State) (a : Agent) (d : List Byte) : Except MemFail PackPlan :=
  if !(packParams d) then packFail 0x59
  else match s.load a (numAt d 0 8) (16 * numAt d 86 1) with
  | .error f => .error f
  | .ok tb => match s.load a (numAt d 32 8) (16 * numAt d 70 2) with
  | .error f => .error f
  | .ok mb => match s.readList a (numAt d 16 8) with
  | .error f => .error f
  | .ok list =>
    let items := cut 16 (numAt d 86 1) tb
    let segs : List MemSeg := (cut 16 (numAt d 70 2) mb).zipIdx.map (fun e => (e.2, e.1))
    match s.packIndices a d (numAt list 0 4) with
    | .error f => .error f
    | .ok is =>
      if !(itemsValid items) || segs.any (fun m => decide (65536 < m.bytes)) then packFail 0x59
      else match s.load a (numAt d 8 8) 64 with
      | .error f => .error f
      | .ok h =>
        if !(dirValid h) || decide (numAt h 2 2 ≠ numAt d 88 2) then packFail 0x5A
        else match s.pickAll a h list is with
        | .error f => .error f
        | .ok picked =>
          let has := fun k => items.any (fun i => numAt i 0 1 = k)
          let dd := dedupe ((numAt d 87 1).testBit 1) picked
          let ranked := if has 3 then sortBy rankBefore dd else []
          let ms := if has 2 then segs else []
          let sep := sumNat ((items.filter (fun i => numAt i 0 1 = 3)).map (fun i => numAt i 2 2))
          let fixed := sumNat ((items.filter (fun i => numAt i 0 1 = 0)).map (fun i => numAt i 2 2)) +
            (if has 1 then numAt d 72 2 else 0) + sumNat ((ms.filter MemSeg.pinned).map MemSeg.tokens)
          if numAt d 80 4 < fixed then packFail 0x5B
          else
            let (kept, mem) := trim (numAt d 80 4) (numAt d 84 2) sep fixed ranked ms
            let placed := if (numAt d 87 1).testBit 0 then kept.reverse else kept
            let units := (items.zipIdx.map (fun e => itemUnits d placed mem e.2 e.1)).flatten
            if decide (numAt d 64 4 < sumNat (units.map PackUnit.bytes)) || decide (numAt d 68 2 < units.length) then
              packFail 0x5D
            else
              .ok { kept := kept, units := units, droppedPassages := ranked.length - kept.length,
                    droppedMemory := ms.length - mem.length, duplicates := picked.length - dd.length }

/-- What a pack reads besides its passages, and what it writes. -/
def packRegions (d : List Byte) (p : PackPlan) : List (Nat × Nat) × List (Nat × Nat) :=
  ((p.units.map (fun u => (u.va, u.bytes))) ++ [(numAt d 0 8, 16 * numAt d 86 1), (numAt d 32 8, 16 * numAt d 70 2)],
   [(numAt d 48 8, sumNat (p.units.map PackUnit.bytes)), (numAt d 56 8, 16 + 16 * p.units.length)])

/-- The arrays a pack reads: its template, its memory segments, its list. -/
def packLists (d list : List Byte) : List (Nat × Nat) :=
  [(numAt d 0 8, 16 * numAt d 86 1), (numAt d 32 8, 16 * numAt d 70 2), (numAt d 16 8, list.length)]

/-- BQT_PACK's start (R189–R192, R194). -/
def State.startPack (s : State) (a : Agent) (c : Cmd) : StartResult :=
  match s.load a (c.n 16 8) 128 with
  | .error f => .fail f
  | .ok d => match s.packPlan a d with
    | .error f => .fail f
    | .ok p =>
      let r := packRegions d p
      windowCheck (s.regionsOk a false (fun _ => true) r.1)
        (windowCheck (s.regionsOk a true (fun _ => true) r.2)
          (firstFail [(s.regionsMeet a r.1 r.2, 0x27)] (.go [(c.n 16 8, d)])))

/-- The start of a Bouquet command, by its opcode. -/
def State.startBouquet (s : State) (a : Agent) (c : Cmd) : StartResult :=
  match cmdOpcode c.word with
  | 1 => s.startPack a c
  | 2 => s.startFetch a c
  | _ => .go []

/-- The shadow buffer's passage of set FSET that serves a placed passage: its text, with the flash-map entries unchanged
(R44, R192). -/
def State.shadowPassage (s : State) (a : Agent) (g fset : Nat) (p : Picked) : Option Passage :=
  match s.textAt a p.entry with
  | .error _ => none
  | .ok off =>
    s.passages.find? (fun x => decide (x.group = g) && decide (x.fset = fset) && decide (x.id = passageNo p.id) &&
      decide (x.off = off) && decide (x.bytes.length = p.bytes) && decide (x.entries = s.mapEntries (s.textBlocks a p.entry)))

/-- One unit's text: from the shadow buffer where it serves and met no error (R42, R44), else read in the ordinary way. The
state (with flash reads counted), the bytes, whether validated, whether poisoned. -/
def State.unitText (s : State) (a : Agent) (g : Nat) (fset : Option Nat) (u : PackUnit) :
    Except MemFail (State × List Byte × Bool × Bool) :=
  let plain := match s.load a u.va u.bytes with
    | .error f => Except.error f
    | .ok bs => .ok (s.countRegion a u.va u.bytes, bs, false, s.regionPoisoned a u.va u.bytes)
  match u.passage, fset with
  | some p, some k => match s.shadowPassage a g k p with
    | some x =>
      let t : State := { s with passages := s.passages.erase x }
      if x.bad then
        match plain with
        | .error f => .error f
        | .ok (_, bs, _, bad) => .ok (((t.countRegion a u.va u.bytes).validate 3 g 1).bump Reg.bqtShadowHits 1, bs, true, bad)
      else .ok ((t.validate 3 g 1).bump Reg.bqtShadowHits 1, x.bytes, true, false)
    | none => plain
  | _, _ => plain

/-- The texts of the units in order: the state, the bytes, how many were validated, whether any was poisoned. -/
def State.packText (s : State) (a : Agent) (g : Nat) (fset : Option Nat) (us : List PackUnit) :
    Except MemFail (State × List Byte × Nat × Bool) :=
  us.foldl (fun (acc : Except MemFail (State × List Byte × Nat × Bool)) u => match acc with
    | .error f => .error f
    | .ok (t, bs, v, bad) => match t.unitText a g fset u with
      | .error f => .error f
      | .ok (t1, b, val, bd) => .ok (t1, bs ++ b, v + b2n val, bad || bd)) (.ok (s, [], 0, false))

/-- The entries of OUT_SEG for units whose text begins at an offset (R192). -/
def segEntries : Nat → List PackUnit → List Byte
  | _, [] => []
  | off, u :: us =>
    toLE 4 off ++ toLE 4 u.bytes ++ toLE 4 u.tokens ++ [BitVec.ofNat 8 u.kind] ++ [BitVec.ofNat 8 (b2n u.trusted)] ++
      toLE 2 u.source ++ segEntries (off + u.bytes) us

/-- OUT_SEG (R192). -/
def PackPlan.segments (p : PackPlan) : List Byte :=
  toLE 4 p.units.length ++ toLE 4 (sumNat (p.units.map PackUnit.tokens)) ++ toLE 4 (sumNat (p.units.map PackUnit.bytes)) ++
    toLE 2 p.droppedPassages ++ toLE 2 p.droppedMemory ++ segEntries 0 p.units

/-- BQT_PACK assembles the prompt (R189–R193). -/
def execBqtPack (id : Nat) (_ext : Ext) (s : State) : Host.Outcome State Fault Refusal :=
  match s.working id 5 1 with
  | none => .next s
  | some c =>
    let a := c.agent
    let g := s.groupOfCore c.core
    let d := c.captured (c.n 16 8)
    let fset := if (numAt d 74 2).testBit 15 then some (numAt d 74 2 % 16) else none
    match s.packPlan a d, s.readList a (numAt d 16 8) with
    | .error f, _ => .next (s.failWork c f)
    | _, .error f => .next (s.failWork c f)
    | .ok p, .ok list =>
      match (s.countRegions a (packLists d list)).packText a g fset p.units with
      | .error f => .next (s.failWork c f)
      | .ok (t, bs, v, bad) =>
        let t := (t.store a c.core c.cls3 (numAt d 48 8) bs bad).store a c.core c.cls3 (numAt d 56 8) p.segments bad
        let t := match fset with
          | some k => t.squashPassages (fun x => decide (x.group = g) && decide (x.fset = k))
          | none => t
        let trimmed := p.droppedPassages + p.droppedMemory
        let t := if trimmed = 0 then t else t.bump Reg.bqtTrimmed trimmed
        .next (t.workDone c (poisonStatus bad) (BitVec.ofNat 32 (satNat 16 v + satNat 8 p.duplicates * 2 ^ 16)))

end Sys2Proof.Machine
end

