-- ==== Sys2Proof/Machine/Zinnia.lean ====
section
/-!
DEFINITION. Zinnia (08): vocabulary and grammar slots and their loads (R196–R200, R205–R207), encoding (R201–R204), cursors
and masks (R208–R210), detokenization (R211–R213).
-/

namespace Sys2Proof.Machine

def State.vslot (s : State) (k : Nat) : VocabSlot := SMap.get VocabSlot.empty s.vocab k
def State.gslot (s : State) (k : Nat) : GrammarSlot := SMap.get GrammarSlot.empty s.grammar k
def State.setVslot (s : State) (k : Nat) (v : VocabSlot) : State := { s with vocab := SMap.set VocabSlot.empty s.vocab k v }
def State.setGslot (s : State) (k : Nat) (v : GrammarSlot) : State := { s with grammar := SMap.set GrammarSlot.empty s.grammar k v }

/-- The vocabulary's token count. -/
def VocabSlot.v (x : VocabSlot) : Nat := x.toks.length

/-- May group g name the slot (R199)? -/
def VocabSlot.usable (x : VocabSlot) (g : Nat) : Bool := decide (x.state = .ready) && (x.shared || decide (x.owner = g))
def GrammarSlot.usable (x : GrammarSlot) (g : Nat) : Bool := decide (x.state = .ready) && (x.shared || decide (x.owner = g))

def GrammarSlot.n (x : GrammarSlot) (off k : Nat) : Nat := numAt x.header off k
def GrammarSlot.states (x : GrammarSlot) : Nat := x.n 4 4
def GrammarSlot.v (x : GrammarSlot) : Nat := x.n 12 4

/-- The number of cursors a ZIN_MASK names, and where cursor i is kept among the captured bytes. -/
def Cmd.cursors (c : Cmd) : List Nat := (List.range (c.n 44 2)).map (fun i => numAt (c.captured (c.n 16 8)) (8 * i) 8)

/-- GSLOT, STATE and LOAD_ID of a cursor (Table 8.6). -/
def curSlot (x : Nat) : Nat := bitsOf x 20 6
def curState (x : Nat) : Nat := bitsOf x 0 20
def curLoad (x : Nat) : Nat := bitsOf x 32 32

/-- The vocabulary slots a Zinnia command names; a stream's slot is known once its state has been read. -/
def Cmd.vocabNamed (c : Cmd) : List Nat :=
  match cmdOpcode c.word with
  | 1 => [c.n 52 1 % 16]
  | 2 => if c.bit 48 0 then [c.n 49 1 % 16] else if c.descs.isEmpty then [] else [numAt (c.captured (c.n 16 8)) 4 1]
  | 4 => [c.n 36 1 % 16]
  | 5 => if c.bit 26 1 then [] else [c.n 25 1 % 16]
  | _ => []

/-- The grammar slots a Zinnia command names. -/
def Cmd.grammarNamed (c : Cmd) : List Nat :=
  match cmdOpcode c.word with
  | 3 => if c.descs.isEmpty then [] else c.cursors.map curSlot
  | 5 => [c.n 24 1 % 64]
  | _ => []

/-- The commands that wait in the save areas of pre-empted jobs (R347, R348). -/
def State.savedCmds (s : State) : List Cmd := (s.jobs.map (fun j => match j.saved with
  | some x => if j.isLive then x.cmds else []
  | none => [])).flatten

/-- The started Zinnia commands but command id, those of pre-empted jobs among them. -/
def State.zinStarted (s : State) (id : Nat) : List Cmd :=
  (s.cmds ++ s.savedCmds).filter (fun (d : Cmd) => decide (d.cls = 6) && !(decide (d.phase = Phase.queued)) && decide (d.id ≠ id))

/-- Is the slot in use by a started command other than id (R199)? -/
def State.vocabInUse (s : State) (id k : Nat) : Bool := (s.zinStarted id).any (fun d => d.vocabNamed.contains k)
def State.grammarInUse (s : State) (id k : Nat) : Bool := (s.zinStarted id).any (fun d => d.grammarNamed.contains k)

/-- The group of a command. -/
def State.cmdGroup (s : State) (c : Cmd) : Nat := s.groupOfCore c.core

/-! ### Start checks (R214) -/

/-- ZIN_ENCODE's start (R201). -/
def State.startEncode (s : State) (a : Agent) (c : Cmd) : StartResult :=
  match s.load a (c.n 24 8) 16 with
  | .error f => .fail f
  | .ok h =>
    let n := numAt h 0 4
    if n = 0 then .zero
    else if 16384 < n then failWith 0x66
    else match s.load a (c.n 24 8) (16 + 16 * n) with
      | .error f => .fail f
      | .ok segs =>
        let es := cut 16 n (segs.drop 16)
        let texts := es.map (fun e => (c.n 16 8 + numAt e 0 4, numAt e 4 4))
        let outs := (c.n 32 8, 4 * c.n 48 4) :: (if c.n 40 8 = 0 then [] else [(c.n 40 8, 4 * (n + 1))])
        firstFail [(es.any (fun e => decide (16777216 < numAt e 4 4)), 0x66),
            (!((s.vslot (c.n 52 1 % 16)).usable (s.cmdGroup c)), 0x61),
            (s.regionsMeet a ((c.n 24 8, 16 + 16 * n) :: texts) outs, 0x27)] (.go [(c.n 24 8, segs)])

/-- Does a stream state keep what Table 8.8 asks of its software fields? -/
def streamValid (st : List Byte) : Bool :=
  decide (numAt st 6 1 ≤ 16) && decide (numAt st 7 1 ≤ 8)

/-- Do the stop strings keep Table 8.8? -/
def stopsValid (es : List (List Byte)) : Bool :=
  es.all (fun e => decide (1 ≤ numAt e 0 1) && decide (numAt e 0 1 ≤ 64) && allZero (bytesAt e 1 7))

/-- Key of a stream's captured stop-string table. -/
def heldStops : Nat := 2 ^ 63

/-- ZIN_DETOK's start (R211, R212). -/
def State.startDetok (s : State) (a : Agent) (c : Cmd) : StartResult :=
  let n := c.n 40 4
  let init := c.bit 48 0
  if n = 0 && !(c.bit 48 1) then .zero
  else if decide (65536 < n) || decide (c.n 44 4 < 192) || decide (16777215 < c.n 44 4) then failWith 0x66
  else match s.load a (c.n 16 8) 256 with
    | .error f => .fail f
    | .ok st =>
      let k := if init then c.n 49 1 % 16 else numAt st 4 1
      let x := s.vslot k
      if !(x.usable (s.cmdGroup c)) || decide (16 ≤ k) then failWith 0x61
      else if decide (c.n 16 8 % 64 ≠ 0) || !(streamValid st) || (!init && decide (63 < numAt st 64 1)) then failWith 0x67
      else match s.load a (numAt st 8 8) (72 * numAt st 6 1) with
        | .error f => .fail f
        | .ok tab =>
          let ins := [(c.n 24 8, 4 * n), (numAt st 8 8, 72 * numAt st 6 1)]
          firstFail [(!(stopsValid (cut 72 (numAt st 6 1) tab)), 0x67), (!init && decide (numAt st 0 4 ≠ x.loadId.toNat), 0x68),
              (!init && (numAt st 5 1).testBit 3, 0x6C),
              (s.regionsMeet a ins [(c.n 32 8, c.n 44 4), (c.n 16 8, 256)] ||
                s.regionsMeet a [(c.n 16 8, 256)] [(c.n 32 8, c.n 44 4)], 0x27)]
            (.go [(c.n 16 8, st), (heldStops, tab)])

/-- ZIN_MASK's start (R208). -/
def State.startMask (s : State) (a : Agent) (c : Cmd) : StartResult :=
  let n := c.n 44 2
  let adv := c.bit 46 0
  let noMask := c.bit 46 1
  let init := c.bit 46 2
  if n = 0 then .zero
  else if decide (64 < n) || (init && adv) || (noMask && !adv) || decide (c.n 40 4 % 64 ≠ 0) then failWith 0x66
  else match s.load a (c.n 16 8) (8 * n) with
    | .error f => .fail f
    | .ok bs =>
      let cs := (List.range n).map (fun i => numAt bs (8 * i) 8)
      let g := s.cmdGroup c
      let slot := fun x => s.gslot (curSlot x)
      let outs := (List.range n).map (fun i => (c.n 32 8 + i * c.n 40 4, c.n 40 4))
      firstFail [(cs.any (fun x => decide ((slot x).state = .ready) && decide (c.n 40 4 < ceilDiv (slot x).v 8)), 0x66),
          (cs.any (fun x => !((slot x).usable g)), 0x61),
          (!init && cs.any (fun x => decide (curLoad x ≠ (slot x).loadId.toNat)), 0x68),
          (!init && cs.any (fun x => decide ((slot x).states ≤ curState x)), 0x69),
          ((adv && s.regionsMeet a [(c.n 24 8, 4 * n)] [(c.n 16 8, 8 * n)]) || (!noMask &&
            s.regionsMeet a ([(c.n 16 8, 8 * n)] ++ (if adv then [(c.n 24 8, 4 * n)] else [])) outs), 0x27)]
        (.go [(c.n 16 8, bs)])

/-- ZIN_VOCAB_LOAD's start: the slot EMPTY, or the group's own and not in use (R199). -/
def State.startVocabLoad (s : State) (c : Cmd) : StartResult :=
  let k := c.n 36 1 % 16
  let x := s.vslot k
  firstFail [(!(decide (x.state = .empty)) && (decide (x.owner ≠ s.cmdGroup c) || s.vocabInUse c.id k), 0x62)] (.go [])

/-- ZIN_GRAMMAR_LOAD's start (R199, R205). -/
def State.startGrammarLoad (s : State) (c : Cmd) : StartResult :=
  let k := c.n 24 1 % 64
  let x := s.gslot k
  firstFail [(!(c.bit 26 1) && !((s.vslot (c.n 25 1 % 16)).usable (s.cmdGroup c)), 0x61),
    (!(decide (x.state = .empty)) && (decide (x.owner ≠ s.cmdGroup c) || s.grammarInUse c.id k), 0x62)] (.go [])

/-- The start of a Zinnia command, by its opcode. -/
def State.startZinnia (s : State) (a : Agent) (c : Cmd) : StartResult :=
  match cmdOpcode c.word with
  | 1 => s.startEncode a c
  | 2 => s.startDetok a c
  | 3 => s.startMask a c
  | 4 => s.startVocabLoad c
  | 5 => s.startGrammarLoad c
  | _ => .go []

/-- A load that starts puts its slot in LOADING (R199). -/
def State.zinBegin (s : State) (c : Cmd) : State :=
  match cmdOpcode c.word with
  | 4 =>
    if c.bit 37 1 then s
    else s.setVslot (c.n 36 1 % 16) { VocabSlot.empty with state := .loading, shared := c.bit 37 0, owner := s.cmdGroup c, job := c.job }
  | 5 =>
    if c.bit 26 1 then s
    else s.setGslot (c.n 24 1 % 64) { GrammarSlot.empty with state := .loading, shared := c.bit 26 0, owner := s.cmdGroup c, job := c.job }
  | _ => s

/-- A load that fails leaves its slot EMPTY (R199); an unload, and a command of another kind, changes nothing here. -/
def State.loadFailed (s : State) (c : Cmd) : State :=
  match c.cls, cmdOpcode c.word with
  | 6, 4 => if c.bit 37 1 then s else s.setVslot (c.n 36 1 % 16) VocabSlot.empty
  | 6, 5 => if c.bit 26 1 then s else s.setGslot (c.n 24 1 % 64) GrammarSlot.empty
  | _, _ => s

/-! ### Loads -/

/-- The next load ID is taken (R200): after 0xFFFF_FFFF comes 1. -/
def State.takeLoadId (s : State) : State × BitVec 32 :=
  ({ s with loadNext := if s.loadNext = 0xFFFFFFFF then 1 else s.loadNext + 1 }, s.loadNext)

/-- Does a vocabulary image's header meet Table 8.1? -/
def vocabHeader (h : List Byte) : Bool :=
  let n := fun o k => numAt h o k
  decide (n 0 2 = 1) && decide (n 2 1 ≤ 1) && decide (n 3 1 = 0) && decide (257 ≤ n 4 4) && decide (n 4 4 ≤ 262144) &&
  decide (n 8 4 + 255 < n 4 4) && decide (n 12 4 ≤ (if n 2 1 = 0 then 262143 else 0)) && decide (1 ≤ n 32 4) &&
  decide (n 32 4 ≤ 8388608) && isFinite32 (BitVec.ofNat 32 (n 36 4)) && allZero (bytesAt h 64 64)

/-- One token entry's plain checks (Table 8.2, R197). -/
def tokenEntry (kind strBytes : Nat) (e : List Byte) : Bool :=
  let n := fun o k => numAt e o k
  let unused := n 5 1 / 2 = 1
  decide (n 5 1 < 4) && decide (n 6 2 = 0) && decide (n 12 4 = 0) &&
  (unused || (decide (1 ≤ n 4 1) && decide (n 4 1 ≤ 128) && decide (n 0 4 + n 4 1 ≤ strBytes))) &&
  (if kind = 1 then isFinite32 (BitVec.ofNat 32 (n 8 4)) else decide (n 8 4 = 0))

/-- No element occurs twice. -/
def allDistinct {α : Type} [BEq α] : List α → Bool
  | [] => true
  | x :: xs => !(xs.contains x) && allDistinct xs

/-- Do the tokens, merges and classes meet R197 and R198? -/
def vocabValid (kind byteBase : Nat) (toks : List VTok) (merges : List (Nat × Nat × Nat)) (classes : List Byte) : Bool :=
  let tok := fun i => toks.getD i { str := [], control := false, unused := true, score := 0 }
  let controls := (toks.filter VTok.control).map VTok.str
  ((List.range 256).all (fun b =>
    let t := tok (byteBase + b)
    decide (t.str = [BitVec.ofNat 8 b]) && !t.control && !t.unused)) &&
  decide ((toks.filter VTok.control).length ≤ 1024) && allDistinct controls &&
  (decide (kind = 1) || (merges.all (fun m =>
    decide (m.1 < toks.length) && decide (m.2.1 < toks.length) && decide (m.2.2 < toks.length) &&
    !(tok m.2.2).control && !(tok m.2.2).unused && decide ((tok m.2.2).str = (tok m.1).str ++ (tok m.2.1).str)) &&
    allDistinct (merges.map (fun m => (m.1, m.2.1))))) &&
  classes.all (fun b => decide (b.toNat < 64))

/-- The string of a token entry: the bytes at its OFFSET of STRINGS; an UNUSED token's as far as they can be read. -/
def State.tokStr (s : State) (a : Agent) (strings : List Byte) (base : Nat) (e : List Byte) : List Byte :=
  let off := numAt e 0 4
  let len := numAt e 4 1
  if off + len ≤ strings.length then bytesAt strings off len
  else match s.load a (base + off) len with
    | .ok bs => bs
    | .error _ => []

/-- The regions of a vocabulary image with header h (Table 8.1). -/
def vocabRegions (image : Nat) (h : List Byte) : List (Nat × Nat) :=
  [(image, 128), (numAt h 16 8, 16 * numAt h 4 4), (numAt h 24 8, numAt h 32 4), (numAt h 40 8, 12 * numAt h 12 4), (numAt h 48 8, 256)]

/-- The image of a vocabulary: the slot's tables, or the code that refuses it; it may not overlap the work area (R78). -/
def State.readVocab (s : State) (a : Agent) (image : Nat) (work : Nat × Nat) : Except MemFail VocabSlot :=
  match s.load a image 128 with
  | .error f => .error f
  | .ok h =>
    if !(vocabHeader h) || decide (image % 64 ≠ 0) then packFail 0x60
    else if s.regionsMeet a (vocabRegions image h) [work] then packFail 0x27
    else
      let n := fun o k => numAt h o k
      match s.load a (n 16 8) (16 * n 4 4) with
      | .error f => .error f
      | .ok tb => match s.load a (n 24 8) (n 32 4) with
      | .error f => .error f
      | .ok strings => match s.load a (n 40 8) (12 * n 12 4) with
      | .error f => .error f
      | .ok mb => match s.load a (n 48 8) 256 with
      | .error f => .error f
      | .ok classes =>
        let es := cut 16 (n 4 4) tb
        let toks := es.map (fun e =>
          ({ str := s.tokStr a strings (n 24 8) e, control := numAt e 5 1 % 2 = 1, unused := numAt e 5 1 / 2 = 1,
             score := BitVec.ofNat 32 (numAt e 8 4) } : VTok))
        let merges := (cut 12 (n 12 4) mb).map (fun m => (numAt m 0 4, numAt m 4 4, numAt m 8 4))
        if !(es.all (tokenEntry (n 2 1) (n 32 4))) || !(vocabValid (n 2 1) (n 8 4) toks merges classes) then packFail 0x60
        else
          .ok { VocabSlot.empty with
                state := .ready, unigram := n 2 1 = 1, byteBase := n 8 4, fallback := BitVec.ofNat 32 (n 36 4),
                tag := BitVec.ofNat 64 (n 56 8), toks := toks, merges := merges, classes := classes }

/-- The work area a vocabulary needs, in bytes (R197). -/
def workNeeded (v merges strBytes : Nat) : Nat := up64 (32 * v + 24 * merges + strBytes + mib)

/-- The bytes Zinnia leaves in a work area: its lookup structures, whose form the spec does not give (free values). -/
def workBytes (seed n : Nat) : List Byte := (List.range n).map (fun i => BitVec.ofNat 8 (Config.freeWord (seed + i)).toNat)

/-- ZIN_VOCAB_LOAD loads or unloads a vocabulary slot (R197–R200). -/
def execZinVocabLoad (id : Nat) (_ext : Ext) (s : State) : Host.Outcome State Fault Refusal :=
  match s.working id 6 4 with
  | none => .next s
  | some c =>
    let a := c.agent
    let k := c.n 36 1 % 16
    let clear := s.setVslot k VocabSlot.empty
    if c.bit 37 1 then .next (clear.workDone c 0 0)
    else match s.readVocab a (c.n 16 8) (c.n 24 8, c.n 32 4) with
      | .error f => .next (s.stopWork clear c f)
      | .ok v =>
        let h := match s.load a (c.n 16 8) 128 with
          | .ok h => h
          | .error _ => []
        let need := workNeeded v.v v.merges.length (numAt h 32 4)
        let n := c.n 32 4
        if n < need then .next (clear.workDone c 0x63 (BitVec.ofNat 32 (ceilDiv need 1024 % 2 ^ 24)))
        else match s.pieces a (c.n 24 8) n true with
          | .error f => .next (s.stopWork clear c f)
          | .ok ps =>
            let read := s.countRegions a (vocabRegions (c.n 16 8) h)
            let (t, lid) := (read.store a c.core c.cls3 (c.n 24 8) (workBytes s.free n) false).takeLoadId
            let v := { v with shared := c.bit 37 0, owner := s.cmdGroup c, job := c.job, loadId := lid,
                              work := ps.map (fun p => (s.home p.1, p.2)), seed := s.free }
            .next ((({ t with free := t.free + n } : State).setVslot k v).workDone c 0 0)

/-- Does the work area, all of it, still hold what Zinnia put there (R197)? What a peer holds of it is not watched (log entry 34). -/
def State.workIntact (s : State) (v : VocabSlot) : Bool :=
  (v.work.foldl (fun (acc : Bool × Nat) p =>
    (acc.1 && (!(isRam p.1) || decide (s.bytes p.1 p.2 = workBytes acc.2 p.2)), acc.2 + p.2)) (true, v.seed)).1

/-! ### Grammars -/

/-- Does a grammar image's header keep Table 8.5 (else 0x64)? -/
def grammarHeader (h : List Byte) : Bool :=
  decide (numAt h 0 2 = 1) && decide (numAt h 2 2 = 0) && decide (1 ≤ numAt h 4 4) && decide (numAt h 4 4 ≤ 1048576) &&
  decide (numAt h 8 4 < numAt h 4 4) && allZero (bytesAt h 56 8)

/-- State entry k of a grammar (16 bytes). -/
def State.gState (s : State) (a : Agent) (x : GrammarSlot) (k : Nat) : Except MemFail (List Byte) := s.load a (x.n 24 8 + 16 * k) 16

/-- The transitions of a state entry: (FIRST, LAST, NEXT). -/
def State.gTrans (s : State) (a : Agent) (x : GrammarSlot) (e : List Byte) : Except MemFail (List (Nat × Nat × Nat)) :=
  match s.load a (x.n 32 8 + 12 * numAt e 0 4) (12 * numAt e 4 4) with
  | .error f => .error f
  | .ok bs => .ok ((cut 12 (numAt e 4 4) bs).map (fun t => (numAt t 0 4, numAt t 4 4, numAt t 8 4)))

/-- Bytes of a mask record, and whether its form is one of R206's: the 8-byte head decides how much follows. -/
def State.gMask (s : State) (a : Agent) (x : GrammarSlot) (off : Nat) : Except MemFail (List Byte) :=
  let inside := fun n => decide (off + n ≤ x.n 48 8)
  if decide (off % 8 ≠ 0) || !(inside 8) then packFail 0x64
  else match s.load a (x.n 40 8 + off) 8 with
    | .error f => .error f
    | .ok h => match numAt h 0 1 with
      | 0 => if allZero (bytesAt h 1 7) then .ok h else packFail 0x64
      | 1 => if allZero (bytesAt h 1 7) then .ok h else packFail 0x64
      | 2 =>
        if !(allZero (bytesAt h 1 3)) || !(inside (8 + 8 * numAt h 4 4)) then packFail 0x64
        else s.load a (x.n 40 8 + off) (8 + 8 * numAt h 4 4)
      | 3 =>
        let g := ceilDiv x.v 64
        let sumWords := ceilDiv g 32
        if !(allZero (bytesAt h 1 7)) || !(inside (8 + 8 * sumWords)) then packFail 0x64
        else match s.load a (x.n 40 8 + off) (8 + 8 * sumWords) with
          | .error f => .error f
          | .ok sm =>
            let code := fun i => bitsOf (numAt sm (8 + 8 * (i / 32)) 8) (2 * (i % 32)) 2
            let lits := ((List.range g).filter (fun i => code i = 2)).length
            if (List.range g).any (fun i => code i = 3) || !(inside (8 + 8 * sumWords + 8 * lits)) then packFail 0x64
            else s.load a (x.n 40 8 + off) (8 + 8 * sumWords + 8 * lits)
      | _ => packFail 0x64

/-- Are the pairs of a RUNS record sorted, disjoint and nonempty (R206)? -/
def runsValid : Nat → List (Nat × Nat) → Bool
  | _, [] => true
  | at_, (first, count) :: rs => decide (at_ ≤ first) && decide (0 < count) && runsValid (first + count) rs

/-- The pairs of a RUNS record. -/
def runsOf (m : List Byte) : List (Nat × Nat) :=
  (List.range (numAt m 4 4)).map (fun i => (numAt m (8 + 8 * i) 4, numAt m (12 + 8 * i) 4))

/-- Is the record's content valid? -/
def maskValid (m : List Byte) : Bool := decide (numAt m 0 1 ≠ 2) || runsValid 0 (runsOf m)

/-- Does a mask record allow token t of a vocabulary of v tokens (R206)? -/
def maskAllows (v : Nat) (m : List Byte) (t : Nat) : Bool :=
  decide (t < v) &&
  (match numAt m 0 1 with
   | 0 => false
   | 1 => true
   | 2 => (runsOf m).any (fun r => decide (r.1 ≤ t) && decide (t < r.1 + r.2))
   | _ =>
     let g := ceilDiv v 64
     let code := fun i => bitsOf (numAt m (8 + 8 * (i / 32)) 8) (2 * (i % 32)) 2
     match code (t / 64) with
     | 1 => true
     | 2 =>
       let lit := ((List.range (t / 64)).filter (fun i => code i = 2)).length
       (numAt m (8 + 8 * ceilDiv g 32 + 8 * lit) 8).testBit (t % 64)
     | _ => false)

/-- The transition a token takes, if it is allowed (R205). -/
def stepToken (ts : List (Nat × Nat × Nat)) (t : Nat) : Option Nat :=
  (ts.find? (fun e => decide (e.1 ≤ t) && decide (t ≤ e.2.1))).map (fun e => e.2.2)

/-- Are a state's transitions sorted by FIRST, without overlap, within range (R205)? -/
def transValid (v states : Nat) : Nat → List (Nat × Nat × Nat) → Bool
  | _, [] => true
  | at_, (f, l, n) :: ts =>
    decide (at_ ≤ f) && decide (f ≤ l) && decide (l < v) && decide (n < states) && transValid v states (l + 1) ts

/-- What VERIFY finds at one state: nothing, an invalid entry (0x64), or a mask that differs (0x6D) (R207). -/
def State.verifyState (s : State) (a : Agent) (x : GrammarSlot) (k : Nat) : Except MemFail Bool :=
  match s.gState a x k with
  | .error f => .error f
  | .ok e => match s.gTrans a x e with
    | .error f => .error f
    | .ok ts => match s.gMask a x (numAt e 8 6) with
      | .error f => .error f
      | .ok m =>
        if decide (numAt e 15 1 ≠ 0) || !(transValid x.v x.states 0 ts) || !(maskValid m) then packFail 0x64
        else .ok ((List.range x.v).all (fun t => maskAllows x.v m t == (stepToken ts t).isSome))

/-- The verification of a grammar, state by state: none, or the first fault, or the first state whose mask differs. -/
def State.verifyFrom (s : State) (a : Agent) (x : GrammarSlot) : Nat → Nat → Except MemFail (Option Nat)
  | 0, _ => .ok none
  | fuel + 1, k => match s.verifyState a x k with
    | .error f => .error f
    | .ok false => .ok (some k)
    | .ok true => s.verifyFrom a x fuel (k + 1)

/-- What a load of a grammar image reads: its header, and with VERIFY its tables (R207). -/
def grammarRegions (image : Nat) (x : GrammarSlot) : List (Nat × Nat) :=
  (image, 64) :: (if x.verified then [(x.n 24 8, 16 * x.states), (x.n 40 8, x.n 48 8)] else [])

/-- ZIN_GRAMMAR_LOAD binds a grammar image to a slot, or unloads it (R199, R200, R205, R207). -/
def execZinGrammarLoad (id : Nat) (_ext : Ext) (s : State) : Host.Outcome State Fault Refusal :=
  match s.working id 6 5 with
  | none => .next s
  | some c =>
    let a := c.agent
    let k := c.n 24 1 % 64
    let clear := s.setGslot k GrammarSlot.empty
    if c.bit 26 1 then .next (clear.workDone c 0 0)
    else match s.load a (c.n 16 8) 64 with
      | .error f => .next (s.stopWork clear c f)
      | .ok h =>
        let voc := s.vslot (c.n 25 1 % 16)
        let x : GrammarSlot := { state := .ready, shared := c.bit 26 0, owner := s.cmdGroup c, job := c.job, ended := false,
                                 loadId := 0, verified := c.bit 26 2, header := h }
        if !(grammarHeader h) || decide (c.n 16 8 % 64 ≠ 0) then .next (clear.workDone c 0x64 0)
        else if decide (voc.v ≠ x.v) || decide (numAt h 16 8 ≠ voc.tag.toNat) then .next (clear.workDone c 0x65 0)
        else
          let bind := fun (_ : Unit) =>
            let (t, lid) := (s.countRegions a (grammarRegions (c.n 16 8) x)).takeLoadId
            (t.setGslot k { x with loadId := lid }).workDone c 0 0
          if !x.verified then .next (bind ())
          else match s.verifyFrom a x x.states 0 with
            | .error f => .next (s.stopWork clear c f)
            | .ok (some st) => .next (clear.workDone c 0x6D (BitVec.ofNat 32 st))
            | .ok none => .next (bind ())

/-- At a job's end its Zinnia slots are unloaded once no started command names them (R199). -/
def execSlotUnload (grammar : Bool) (slot : BitVec 6) (s : State) : Host.Outcome State Fault Refusal :=
  if !(Instr.slotUnload grammar slot).wf then .fault .illFormed else
  if grammar then
    let k := slot.toNat
    if (s.gslot k).ended && !(s.grammarInUse s.nextCmd k) then .next (s.setGslot k GrammarSlot.empty) else .next s
  else
    let k := slot.toNat % 16
    if (s.vslot k).ended && !(s.vocabInUse s.nextCmd k) then .next (s.setVslot k VocabSlot.empty) else .next s

/-- The slots job `job` loaded are marked for unloading at its end (R199). -/
def State.endSlots (s : State) (job : BitVec 16) : State :=
  { s with vocab := s.vocab.map (fun e => if e.2.job = job && !(decide (e.2.state = .empty)) then (e.1, { e.2 with ended := true }) else e)
           grammar := s.grammar.map (fun e => if e.2.job = job && !(decide (e.2.state = .empty)) then (e.1, { e.2 with ended := true }) else e) }

/-! ### Encoding (R198, R201–R204) -/

/-- Does a piece boundary fall between bytes p and q (R198)? -/
def boundary (classes : List Byte) (p q : Byte) : Bool :=
  let cp := (classes.getD p.toNat 0).toNat
  let cq := (classes.getD q.toNat 0).toNat
  (decide (cp % 16 ≠ cq % 16) && !(cp.testBit 4)) || cp.testBit 5 || cq.testBit 5

/-- The pieces of a text (R198): the piece so far is given in reverse. -/
def piecesOf (classes : List Byte) : List Byte → List Byte → List (List Byte)
  | cur, [] => if cur.isEmpty then [] else [cur.reverse]
  | [], b :: bs => piecesOf classes [b] bs
  | p :: cur, b :: bs =>
    if boundary classes p b || decide (4096 ≤ (p :: cur).length) then (p :: cur).reverse :: piecesOf classes [b] bs
    else piecesOf classes (b :: p :: cur) bs

/-- The rank and result of a pair's merge. -/
def mergeOf (merges : List (Nat × Nat × Nat)) (l r : Nat) : Option (Nat × Nat) :=
  (merges.zipIdx.find? (fun e => decide (e.1.1 = l) && decide (e.1.2.1 = r))).map (fun e => (e.2, e.1.2.2))

/-- The lowest rank of an adjacent pair's merge. -/
def bestRank (merges : List (Nat × Nat × Nat)) : List Nat → Option Nat
  | x :: y :: ts =>
    match mergeOf merges x y, bestRank merges (y :: ts) with
    | some (r, _), some q => some (Nat.min r q)
    | some (r, _), none => some r
    | none, q => q
  | _ => none

/-- The leftmost pair with the merge rank is replaced by its result. -/
def mergeFirst (merges : List (Nat × Nat × Nat)) (rank : Nat) : List Nat → List Nat
  | x :: y :: ts =>
    match mergeOf merges x y with
    | some (r, res) => if r = rank then res :: ts else x :: mergeFirst merges rank (y :: ts)
    | none => x :: mergeFirst merges rank (y :: ts)
  | ts => ts

/-- Byte-pair encoding of a piece's tokens (R202); each merge shortens the list, so its length bounds the merges. -/
def bpe (merges : List (Nat × Nat × Nat)) : Nat → List Nat → List Nat
  | 0, ts => ts
  | fuel + 1, ts => match bestRank merges ts with
    | none => ts
    | some r => bpe merges fuel (mergeFirst merges r ts)

/-- The unigram candidates that begin a text (R202): token, length, score; of equal strings the lower ID. -/
def candidates (x : VocabSlot) (text : List Byte) : List (Nat × Nat × BitVec 32) :=
  match text with
  | [] => []
  | b :: _ =>
    let plain := (x.toks.zipIdx.filter (fun e => !e.1.control && !e.1.unused &&
        !(decide (x.byteBase ≤ e.2) && decide (e.2 < x.byteBase + 256)) && decide (e.1.str = text.take e.1.str.length) &&
        decide (e.1.str.length ≠ 0))).map (fun e => (e.2, e.1.str.length, e.1.score))
    let all := (x.byteBase + b.toNat, 1, x.fallback) :: plain
    all.filter (fun e => !(all.any (fun o => decide (o.2.1 = e.2.1) && decide (o.1 < e.1))))

/-- A segmentation of the text up to a place: its total so far (none before the first token), its lengths and tokens, last
first. -/
structure Path where
  total : Option (BitVec 32)
  lens : List Nat
  toks : List Nat
deriving DecidableEq, Repr

/-- Is one segmentation's first differing token longer than the other's (R202)? Lengths first to last. -/
def longerFirst : List Nat → List Nat → Bool
  | a :: as_, b :: bs => if a = b then longerFirst as_ bs else decide (b < a)
  | _, _ => false

/-- One path joins the paths to its place: of two with equal totals only the preferred one can win. -/
def addPath (ps : List Path) (p : Path) : List Path :=
  match ps.find? (fun q => decide (q.total = p.total)) with
  | none => ps ++ [p]
  | some q => if longerFirst p.lens.reverse q.lens.reverse then ps.map (fun r => if decide (r.total = p.total) then p else r) else ps

/-- The paths to places 0 … n of a piece, extended from place i on. -/
def extend (x : VocabSlot) (piece : List Byte) : Nat → Nat → SMap (List Path) → SMap (List Path)
  | 0, _, m => m
  | fuel + 1, i, m =>
    let m1 := (candidates x (piece.drop i)).foldl (fun m2 e =>
      (SMap.get [] m i).foldl (fun m3 (p : Path) =>
        let total := match p.total with
          | none => e.2.2
          | some t => (fadd false false t e.2.2).1
        SMap.insert m3 (i + e.2.1) (addPath (SMap.get [] m3 (i + e.2.1))
          { total := some total, lens := e.2.1 :: p.lens, toks := e.1 :: p.toks })) m2) m
    extend x piece fuel (i + 1) m1

/-- Does segmentation p win over q? -/
def pathWins (p q : Path) : Bool :=
  let a := p.total.getD 0
  let b := q.total.getD 0
  scoreAbove a b || (!(scoreAbove b a) && longerFirst p.lens.reverse q.lens.reverse)

/-- The unigram segmentation of a piece (R202). -/
def unigramPiece (x : VocabSlot) (piece : List Byte) : List Nat :=
  let start : SMap (List Path) := [(0, [{ total := none, lens := [], toks := [] }])]
  match SMap.get [] (extend x piece piece.length 0 start) piece.length with
  | [] => []
  | p :: ps => ((ps.foldl (fun best q => if pathWins q best then q else best) p).toks).reverse

/-- The tokens of plain text: its pieces, each by the vocabulary's kind (R202 steps 2 and 3). -/
def VocabSlot.encodeText (x : VocabSlot) (text : List Byte) : List Nat :=
  ((piecesOf x.classes [] text).map (fun p =>
    if x.unigram then unigramPiece x p else bpe x.merges p.length (p.map (fun b => x.byteBase + b.toNat)))).flatten

/-- The longest control string at the start of a text: its token and length. -/
def VocabSlot.controlAt (x : VocabSlot) (text : List Byte) : Option (Nat × Nat) :=
  (x.toks.zipIdx.filter (fun e => e.1.control && !e.1.unused && decide (e.1.str.length ≠ 0) &&
      decide (e.1.str = text.take e.1.str.length))).foldl (fun best e => match best with
    | none => some (e.2, e.1.str.length)
    | some b => if b.2 < e.1.str.length then some (e.2, e.1.str.length) else best) none

/-- A text cut at its control strings, left to right: runs of plain text and control tokens (R202 step 1). -/
def VocabSlot.controlScan (x : VocabSlot) : Nat → List Byte → List Byte → List (List Byte ⊕ Nat)
  | 0, cur, _ => [.inl cur.reverse]
  | _ + 1, cur, [] => [.inl cur.reverse]
  | fuel + 1, cur, b :: bs => match x.controlAt (b :: bs) with
    | some (t, n) => .inl cur.reverse :: .inr t :: x.controlScan fuel [] ((b :: bs).drop n)
    | none => x.controlScan fuel (b :: cur) bs

/-- The occurrences of control strings in a text, each wherever it begins (R203). -/
def VocabSlot.occurrences (x : VocabSlot) : List Byte → Nat
  | [] => 0
  | b :: bs => (x.toks.filter (fun t => t.control && !t.unused && decide (t.str.length ≠ 0) &&
      decide (t.str = (b :: bs).take t.str.length))).length + x.occurrences bs

/-- The tokens of a segment and the control strings escaped in it (R202, R203). -/
def VocabSlot.encodeSegment (x : VocabSlot) (trusted : Bool) (text : List Byte) : List Nat × Nat :=
  if trusted then
    (((x.controlScan (text.length + 1) [] text).map (fun p => match p with
      | .inl t => x.encodeText t
      | .inr k => [k])).flatten, 0)
  else (x.encodeText text, x.occurrences text)

/-- Token choices of a slot whose work area was overwritten: unpredictable, so free values, and still no CONTROL token in an
untrusted segment (R197, R203). -/
def VocabSlot.freeTokens (x : VocabSlot) (seed : Nat) (trusted : Bool) (n : Nat) : List Nat :=
  ((List.range ((Config.freeWord seed).toNat % (n + 1))).map (fun i => (Config.freeWord (seed + 1 + i)).toNat % Nat.max 1 x.v)).filter
    (fun t => trusted || !((x.toks.getD t { str := [], control := true, unused := true, score := 0 }).control))

/-- What an encode has done so far. -/
structure EncRun where
  st : State
  toks : List Nat
  offs : List Nat
  full : Bool
  bytes : Nat
  escaped : Nat
  bad : Bool

/-- One segment of an encode (R201–R204). -/
def State.encodeOne (a : Agent) (c : Cmd) (x : VocabSlot) (intact : Bool) (r : EncRun) (e : List Byte) : Except MemFail EncRun :=
  if r.full then .ok r
  else
    let va := c.n 16 8 + numAt e 0 4
    let n := numAt e 4 4
    match r.st.load a va n with
    | .error f => .error f
    | .ok text =>
      let trusted := numAt e 13 1 % 2 = 1
      let (ts, esc) := x.encodeSegment trusted text
      let ts := if intact || n = 0 then ts else x.freeTokens r.st.free trusted n
      let st := if intact || n = 0 then r.st else { r.st with free := r.st.free + 1 + n }
      if c.n 48 4 < r.toks.length + ts.length then .ok { r with full := true }
      else
        let bad := r.bad || r.st.regionPoisoned a va n
        .ok { st := st.countRegion a va n, toks := r.toks ++ ts, offs := r.offs ++ [r.toks.length + ts.length], full := false,
              bytes := r.bytes + n, escaped := r.escaped + esc, bad := bad }

/-- The segments of an encode in order. -/
def State.encodeAll (s : State) (c : Cmd) (x : VocabSlot) (segs : List Byte) : Except MemFail EncRun :=
  (cut 16 (numAt segs 0 4) (segs.drop 16)).foldl (fun acc e => match acc with
    | .error f => .error f
    | .ok r => State.encodeOne c.agent c x (s.workIntact x) r e)
    (.ok { st := s.countRegion c.agent (c.n 24 8) (16 + 16 * numAt segs 0 4), toks := [], offs := [0], full := false, bytes := 0, escaped := 0,
           bad := false })

/-- ZIN_ENCODE encodes text segments into token IDs (R201–R204). -/
def execZinEncode (id : Nat) (_ext : Ext) (s : State) : Host.Outcome State Fault Refusal :=
  match s.working id 6 1 with
  | none => .next s
  | some c =>
    let a := c.agent
    match s.encodeAll c (s.vslot (c.n 52 1 % 16)) (c.captured (c.n 24 8)) with
    | .error f => .next (s.failWork c f)
    | .ok r =>
      let bytes4 := fun (l : List Nat) => (l.map (toLE 4)).flatten
      match s.pieces a (c.n 32 8) (4 * r.toks.length) true, s.pieces a (c.n 40 8) (4 * r.offs.length) true with
      | .error f, _ => .next (s.failWork c f)
      | .ok _, o =>
        match (if c.n 40 8 = 0 then Except.ok [] else o) with
        | .error f => .next (s.failWork c f)
        | .ok _ =>
          let t := r.st.store a c.core c.cls3 (c.n 32 8) (bytes4 r.toks) r.bad
          let t := if c.n 40 8 = 0 then t else t.store a c.core c.cls3 (c.n 40 8) (bytes4 r.offs) r.bad
          let kib := (t.encRest + r.bytes) / 1024
          let t : State := { t with encRest := (t.encRest + r.bytes) % 1024 }
          let t := if kib = 0 then t else t.bump Reg.zinEncKib kib
          let t := if r.escaped = 0 then t else t.bump Reg.zinEscaped r.escaped
          let code : Byte := if r.full then 0x6B else poisonStatus r.bad
          .next (t.workDone c code (BitVec.ofNat 32 (r.toks.length % 2 ^ 24)))

/-! ### Masks (R208–R210) -/

/-- A cursor's word (Table 8.6). -/
def cursorWord (load : Nat) (accept rejected : Bool) (slot st : Nat) : Nat :=
  load * 2 ^ 32 + b2n accept * 2 ^ 27 + b2n rejected * 2 ^ 26 + slot * 2 ^ 20 + st

/-- The agent that reads a grammar's image: the job that loaded it (R205). -/
def GrammarSlot.agent (x : GrammarSlot) (c : Cmd) : Agent := { job := x.job, cls := 6, cmd := c.id + 1, pool := c.pool }

/-- The expanded mask of a state (R206, R208). -/
def expandMask (v stride : Nat) (m : List Byte) : List Byte :=
  (List.range stride).map (fun b =>
    (List.range 8).foldl (fun (acc : Byte) i => if maskAllows v m (8 * b + i) then acc ||| (1#8 <<< i) else acc) 0)

/-- ACCEPT and MASK_OFF of a state of a grammar, and whether its entry was poisoned. -/
def State.stateInfo (s : State) (ia : Agent) (x : GrammarSlot) (k : Nat) : Except MemFail (Bool × Nat × Bool) :=
  match s.gState ia x k with
  | .error f => .error f
  | .ok e => .ok ((numAt e 14 1).testBit 0, numAt e 8 6, s.regionPoisoned ia (x.n 24 8 + 16 * k) 16)

/-- Where one cursor of ZIN_MASK goes (R208): its new state, or none when the token is refused; with ACCEPT, MASK_OFF and
whether what it read was poisoned. -/
def State.maskStep (s : State) (ia a : Agent) (c : Cmd) (x : GrammarSlot) (i old : Nat) :
    Except MemFail (Option (Nat × Bool × Nat) × Bool) :=
  if c.bit 46 0 then
    match s.load a (c.n 24 8 + 4 * i) 4, s.gState ia x (curState old) with
    | .error f, _ => .error f
    | _, .error f => .error f
    | .ok tb, .ok e => match s.gTrans ia x e with
      | .error f => .error f
      | .ok ts =>
        let bad := s.regionPoisoned a (c.n 24 8 + 4 * i) 4 || s.regionPoisoned ia (x.n 24 8 + 16 * curState old) 16 ||
          s.regionPoisoned ia (x.n 32 8 + 12 * numAt e 0 4) (12 * numAt e 4 4)
        match (if leNat tb < x.v then stepToken ts (leNat tb) else none) with
        | none => .ok (none, bad)
        | some next =>
          if x.states ≤ next then packFail 0x64
          else match s.stateInfo ia x next with
            | .error f => .error f
            | .ok (acc, mo, b) => .ok (some (next, acc, mo), bad || b)
  else
    let k := if c.bit 46 2 then x.n 8 4 else curState old
    match s.stateInfo ia x k with
    | .error f => .error f
    | .ok (acc, mo, b) => .ok (some (k, acc, mo), b)

/-- One cursor of ZIN_MASK (R208): the state, whether it was refused, whether anything it read was poisoned. -/
def State.maskOne (s : State) (c : Cmd) (i : Nat) : Except MemFail (State × Bool × Bool) :=
  let a := c.agent
  let cva := c.n 16 8 + 8 * i
  match s.load a cva 8, s.pieces a cva 8 true with
  | .error f, _ => .error f
  | _, .error f => .error f
  | .ok cb, .ok _ =>
    let old := leNat cb
    let x := s.gslot (curSlot old)
    let ia := x.agent c
    let load := if c.bit 46 2 then x.loadId.toNat else curLoad old
    match s.maskStep ia a c x i old with
    | .error f => .error f
    | .ok (nx, b0) =>
      let bad := b0 || s.regionPoisoned a cva 8
      let put := fun (k : Nat) (acc rej : Bool) =>
        s.store a c.core c.cls3 cva (toLE 8 (cursorWord load acc rej (curSlot old) k)) bad
      match nx with
      | none => .ok (put (curState old) (bitsOf old 27 1 = 1) true, true, bad)
      | some (k, acc, mo) =>
        let t := if c.bit 46 0 || c.bit 46 2 then put k acc false else s
        let t := t.countRegions ia [(x.n 24 8 + 16 * k, 16)]
        if c.bit 46 1 then .ok (t, false, bad)
        else
          let out := c.n 32 8 + i * c.n 40 4
          match s.gMask ia x mo, s.pieces a out (c.n 40 4) true with
          | .error f, _ => .error f
          | _, .error f => .error f
          | .ok m, .ok _ =>
            if !(maskValid m) then packFail 0x64
            else
              let bad := bad || s.regionPoisoned ia (x.n 40 8 + mo) m.length
              .ok (((t.countRegion ia (x.n 40 8 + mo) m.length).store a c.core c.cls3 out (expandMask x.v (c.n 40 4) m) bad).bump Reg.zinMasks 1, false, bad)

/-- The cursors of a ZIN_MASK in order: the state, how many were refused, whether anything read was poisoned, the access that failed. -/
def State.maskAll (s : State) (c : Cmd) : State × Nat × Bool × Option MemFail :=
  (List.range (c.n 44 2)).foldl (fun (acc : State × Nat × Bool × Option MemFail) i =>
    match acc with
    | (_, _, _, some _) => acc
    | (u, k, bad, none) => match u.maskOne c i with
      | .error f => (u, k, bad, some f)
      | .ok (w, rej, b) => (w, k + b2n rej, bad || b, none)) (s, 0, false, none)

/-- ZIN_MASK initializes or advances cursors and writes token masks (R208, R209). -/
def execZinMask (id : Nat) (_ext : Ext) (s : State) : Host.Outcome State Fault Refusal :=
  match s.working id 6 3 with
  | none => .next s
  | some c =>
    let (t, refused, bad, err) := s.maskAll c
    match err with
    | some f => .next (s.stopWork t c f)
    | none => .next (t.workDone c (if refused = 0 then poisonStatus bad else 0x6A) (BitVec.ofNat 32 refused))

/-! ### Detokenization (R211–R213) -/

/-- A stream while a command runs (Table 8.8). -/
structure Stream where
  held : List Byte
  out : List Byte
  consumed : Nat
  stopped : Bool
  which : Nat
deriving DecidableEq, Repr

/-- The first occurrence of a stop string by its end, ties to the lowest number: (string, end) (R211). -/
def stopIn (stops : List (List Byte)) (buf : List Byte) : Option (Nat × Nat) :=
  ((List.range (buf.length + 1)).map (fun e =>
    (stops.zipIdx.find? (fun x => decide (x.1.length ≤ e) && decide (x.1 = bytesAt buf (e - x.1.length) x.1.length))).map
      (fun x => (x.2, e)))).findSome? (fun o => o)

/-- The length of the longest suffix that is a proper prefix of a stop string. -/
def stopSuffix (stops : List (List Byte)) (buf : List Byte) : Nat :=
  ((List.range (buf.length + 1)).filter (fun n =>
    stops.any (fun x => decide (n < x.length) && decide (x.take n = buf.drop (buf.length - n))))).foldl Nat.max 0

/-- How many continuation bytes a lead byte requires; none for a byte that leads nothing. -/
def leadNeeds (b : Byte) : Option Nat :=
  let v := b.toNat
  if 0xC0 ≤ v ∧ v < 0xE0 then some 1 else if 0xE0 ≤ v ∧ v < 0xF0 then some 2 else if 0xF0 ≤ v ∧ v < 0xF8 then some 3 else none

/-- The length of a trailing incomplete UTF-8 sequence. -/
def utf8Suffix (buf : List Byte) : Nat :=
  ([1, 2, 3].filter (fun n =>
    let t := buf.drop (buf.length - n)
    decide (n ≤ buf.length) && (match t with
      | b :: cs => (match leadNeeds b with
        | some k => decide (cs.length < k) && cs.all (fun x => decide (0x80 ≤ x.toNat) && decide (x.toNat < 0xC0))
        | none => false)
      | [] => false))).foldl Nat.max 0

/-- One token of a stream (R211): the new stream, or the code that ends the command before it. -/
def Stream.token (x : VocabSlot) (stops : List (List Byte)) (stopToks : List Nat) (flags cap : Nat) (str : Nat → List Byte)
    (z : Stream) (t : Nat) : Except Byte Stream :=
  let release := fun (out : List Byte) (y : Stream) =>
    if cap < z.out.length + out.length then Except.error (0x6B : Byte)
    else .ok { y with out := z.out ++ out, consumed := z.consumed + 1 }
  match stopToks.findIdx? (fun k => k = t) with
  | some k => release z.held { z with held := [], stopped := true, which := 16 + k }
  | none =>
    if x.v ≤ t then .error 0x66
    else
      let hidden := (x.toks.getD t { str := [], control := false, unused := false, score := 0 }).control && !(flags.testBit 2)
      let buf := z.held ++ (if hidden then [] else str t)
      match stopIn stops buf with
      | some (k, e) =>
        let keep := if flags.testBit 0 then e else e - (stops.getD k []).length
        release (buf.take keep) { z with held := [], stopped := true, which := k }
      | none =>
        let n := Nat.max (stopSuffix stops buf) (if flags.testBit 1 then utf8Suffix buf else 0)
        release (buf.take (buf.length - n)) { z with held := buf.drop (buf.length - n) }

/-- The tokens of a command in order, to the first stop or end (R211, R212). -/
def Stream.run (f : Stream → Nat → Except Byte Stream) : Stream → List Nat → Stream × Byte
  | z, [] => (z, 0)
  | z, t :: ts =>
    if z.stopped then (z, 0)
    else match f z t with
      | .error c => (z, c)
      | .ok y => Stream.run f y ts

/-- ZIN_DETOK detokenizes tokens of a stream (R211, R212). -/
def execZinDetok (id : Nat) (_ext : Ext) (s : State) : Host.Outcome State Fault Refusal :=
  match s.working id 6 2 with
  | none => .next s
  | some c =>
    let a := c.agent
    let init := c.bit 48 0
    let st := c.captured (c.n 16 8)
    let k := if init then c.n 49 1 % 16 else numAt st 4 1
    let x := s.vslot k
    let stops := (cut 72 (numAt st 6 1) (c.captured heldStops)).map (fun e => bytesAt e 8 (numAt e 0 1))
    let stopToks := (List.range (numAt st 7 1)).map (fun i => numAt st (16 + 4 * i) 4)
    let flags := numAt st 5 1
    match s.load a (c.n 24 8) (4 * c.n 40 4) with
    | .error f => .next (s.failWork c f)
    | .ok tb =>
      let toks := (List.range (c.n 40 4)).map (fun i => numAt tb (4 * i) 4)
      let intact := s.workIntact x
      let str := fun t => if intact then (x.toks.getD t { str := [], control := false, unused := false, score := 0 }).str
        else (List.range ((Config.freeWord (s.free + 129 * t)).toNat % 129)).map (fun i =>
          BitVec.ofNat 8 (Config.freeWord (s.free + 129 * t + 1 + i)).toNat)
      let z0 : Stream := { held := if init then [] else bytesAt st 128 (Nat.min 64 (numAt st 64 1)), out := [], consumed := 0,
                           stopped := false, which := if init then 0xFF else numAt st 65 1 }
      let (z, code) := Stream.run (Stream.token x stops stopToks flags (c.n 44 4) str) z0 toks
      let flush := c.bit 48 1 && decide (code = 0)
      let ovr := flush && decide (c.n 44 4 < z.out.length + z.held.length)
      let code : Byte := if ovr then 0x6B else code
      let z := if flush && !ovr then { z with out := z.out ++ z.held, held := [] } else z
      let base := fun off => if init then 0 else numAt st off 8
      let head := if init then toLE 4 x.loadId.toNat ++ [BitVec.ofNat 8 k] else bytesAt st 0 5
      let img := [(0, head ++ [BitVec.ofNat 8 (flags % 8 + flags / 16 * 16 + 8 * b2n z.stopped)]),
        (48, toLE 8 (base 48 + z.out.length) ++ toLE 8 (base 56 + z.consumed) ++ [BitVec.ofNat 8 z.held.length] ++ [BitVec.ofNat 8 z.which]),
        (128, z.held)]
      match s.pieces a (c.n 32 8) z.out.length true, s.pieces a (c.n 16 8) 256 true with
      | .error f, _ => .next (s.failWork c f)
      | _, .error f => .next (s.failWork c f)
      | .ok _, .ok _ =>
        let bad := s.regionsPoisoned a [(c.n 24 8, 4 * c.n 40 4), (c.n 16 8, 256), (numAt st 8 8, 72 * numAt st 6 1)]
        let t := s.countRegions a [(c.n 24 8, 4 * c.n 40 4), (numAt st 8 8, 72 * numAt st 6 1)]
        let t := t.store a c.core c.cls3 (c.n 32 8) z.out bad
        let t := img.foldl (fun u e => u.store a c.core c.cls3 (c.n 16 8 + e.1) e.2 bad) t
        let t := if z.stopped then t.bump Reg.zinStops 1 else t
        let t : State := if intact then t else { t with free := t.free + 129 * 262144 }
        .next (t.workDone c (if code = 0 then poisonStatus bad else code) (BitVec.ofNat 32 (z.out.length % 2 ^ 24)))

end Sys2Proof.Machine
end

