-- ==== Sys2Proof/Machine/Foxglove.lean ====
section
/-!
DEFINITION. Foxglove (10): whole-tensor moves (R252, R253), allocation and eviction (R254–R259); HLY_READ (R274, R444);
invalidation of cached translations (R249).
-/

namespace Sys2Proof.Machine

/-- The bytes of a tensor's elements from its BASE on. -/
def Desc.elemBytes (d : Desc) : Nat :=
  if d.tiled then ceilDiv d.rows 128 * d.tileCols * d.tileBytes else (d.rows - 1) * d.stride + d.rowBytes

/-- The bytes a tensor takes with its scale plane at the next 64-byte boundary (R254). -/
def Desc.allBytes (d : Desc) : Nat := if d.scaled then up64 d.elemBytes + d.rows * d.blocks else d.elemBytes

/-- The tensor moved by off bytes, scale plane and all (R252). -/
def Desc.moved (d : Desc) (off : Nat) : Desc :=
  { d with base := d.base + off, scaleBase := if d.scaled then d.scaleBase + off else d.scaleBase }

/-- The template placed at an address (R254). -/
def Desc.placedAt (d : Desc) (va : Nat) : Desc :=
  { d with base := va, scaleBase := if d.scaled then va + up64 d.elemBytes else 0 }

/-! ### Arenas -/

/-- Is partition p in quota mode (R256)? -/
def State.quotaMode (s : State) (p : Nat) : Bool := bitAt (s.reg Reg.fxgAcctMode) p

/-- Is arena k a home arena of partition p? -/
def homeArena (p k : Nat) : Bool := decide (k = p / 4) || decide (k = 4 + p)

/-- Partition p's quota in arena k, in granules. -/
def State.quotaIn (s : State) (p k : Nat) : Nat :=
  if k < 4 then s.regFld (Reg.fxgQuota p) 16 10 * 16 else s.regFld (Reg.fxgQuota p) 0 5 * 16384

/-- The granules entries hold in arena k, of those a condition picks. -/
def State.granules (s : State) (k : Nat) (f : FxgEntry → Bool) : Nat :=
  sumNat ((s.fxg.filter (fun e => decide (e.2.arena = k) && f e.2)).map (fun e => e.2.granules))

/-- May partition p take n more granules of arena k (R256)? -/
def State.withinLimit (s : State) (p k n : Nat) : Bool :=
  if s.quotaMode p then homeArena p k && decide (s.granules k (fun e => decide (e.partition = p)) + n ≤ s.quotaIn p k)
  else
    let held := sumNat (((List.range 16).filter (fun q => s.quotaMode q && homeArena q k)).map (fun q => s.quotaIn q k))
    decide (s.granules k (fun e => !(s.quotaMode e.partition)) + n + held ≤ (s.arena k).2 / 65536)

/-- First fit from the lowest address, in granules: the offset in bytes (R254). -/
def State.firstFit (s : State) (k n : Nat) : Option Nat :=
  let es := (s.fxg.map Prod.snd).filter (fun e => decide (e.arena = k))
  let starts := sortBy (fun (x y : Nat) => decide (x < y)) (0 :: es.map (fun e => e.offset + e.granules * 65536))
  starts.find? (fun o => decide (o + n * 65536 ≤ (s.arena k).2) &&
    !(es.any (fun e => overlaps o (n * 65536) e.offset (e.granules * 65536))))

/-- Where n granules of arena k go now for partition p. -/
def State.fits (s : State) (p k n : Nat) : Option Nat := if s.withinLimit p k n then s.firstFit k n else none

/-- The entries of arena k that an allocation may evict, in the order of R257. -/
def State.victims (s : State) (k : Nat) : List (Nat × FxgEntry) :=
  sortBy (fun (x y : Nat × FxgEntry) => decide (x.2.unpinTime.toNat < y.2.unpinTime.toNat) ||
      (decide (x.2.unpinTime = y.2.unpinTime) && decide (x.1 < y.1)))
    (s.fxg.filter (fun e => decide (e.2.arena = k) && !e.2.pinned && !(s.quotaMode e.2.partition)))

/-- An entry leaves; byte 38 of its record becomes flags (Table 10.5). -/
def State.dropEntry (s : State) (e : Nat × FxgEntry) (flags : Nat) : State :=
  { s.writePiece { job := e.2.job, cls := 7, cmd := 0, pool := [] } e.2.core 0 0 (e.2.record + 38) [BitVec.ofNat 8 flags] false with
    fxg := SMap.erase s.fxg e.1 }

/-- Entries are evicted in order until the allocation fits (R257). -/
def State.evictFor (s : State) (p k n : Nat) : List (Nat × FxgEntry) → State × Option Nat
  | [] => (s, s.fits p k n)
  | e :: es => match s.fits p k n with
    | some o => (s, some o)
    | none => ((s.dropEntry e 2).bump Reg.fxgEvicted 1).evictFor p k n es

/-- Could evicting make the allocation succeed (R257)? -/
def State.couldFit (s : State) (p k n : Nat) : Bool :=
  let vs := s.victims k
  (({ s with fxg := s.fxg.filter (fun e => !(vs.any (fun v => v.1 = e.1))) } : State).fits p k n).isSome

/-- The space of an allocation, evicting where that helps: the state and the offset, or no space (0x84). -/
def State.takeSpace (s : State) (p k n : Nat) : Option (State × Nat) :=
  if (s.fits p k n).isNone && !(s.couldFit p k n) then none
  else match s.evictFor p k n (s.victims k) with
    | (t, some o) => some (t, o)
    | (_, none) => none

/-- The aperture address of an offset in arena k (R254). -/
def apertureVa (k off : Nat) : Nat :=
  if k < 4 then 0x080000000000 + k * gib + off else 0x080100000000 + (k - 4) * (32 * gib) + off

/-- A free handle (R255): which of them the spec does not say, and a free value chooses (log 35). -/
def State.freeHandle (s : State) : Nat :=
  let k := (Config.freeWord s.free).toNat
  (((List.range 16384).map (fun i => (k + i) % 16384)).find? (fun h => (SMap.find s.fxg h).isNone)).getD 0

/-! ### Starts (R266) -/

def Cmd.fxgAlloc (c : Cmd) : Bool := c.bit 48 0
def Cmd.fxgArena (c : Cmd) : Nat := if c.n 49 1 % 4 = 1 then c.n 50 1 else 4 + c.n 50 1

/-- The descriptors of a move: SRC, and DST with a template's addresses where it allocates. -/
def Cmd.fxgSrc (c : Cmd) : Desc := c.desc (c.n 16 8)
def Cmd.fxgDst (c : Cmd) : Desc :=
  let d := c.desc (c.n 24 8)
  if c.fxgAlloc then d.placedAt (apertureVa c.fxgArena 0) else d

/-- The payload of FXG_MOVE in its ranges (R252, R254, Table 10.4), else 0x83. -/
def State.moveParams (s : State) (c : Cmd) : Bool :=
  decide (c.n 16 8 % 32 = 0) && decide (c.n 24 8 % 32 = 0) &&
  decide (1 ≤ c.n 51 1) && decide (c.n 51 1 ≤ 4) && (decide (c.n 51 1 ≠ 1) || decide (c.n 40 8 = 0)) &&
  (if c.fxgAlloc then
     decide (c.n 51 1 = 1) && decide (c.n 32 8 % 64 = 0) &&
     (match c.n 49 1 % 4 with
      | 1 => decide (c.n 50 1 < 4) && (s.partsOf (s.cmdGroup c)).any (fun p => decide (p / 4 = c.n 50 1))
      | 2 => decide (c.n 50 1 < 16)
      | _ => false)
   else decide (c.n 32 8 = 0))

/-- The regions of copy i of a move that does not allocate. -/
def Cmd.copyRegion (c : Cmd) (i : Nat) : List (Nat × Nat) := (c.fxgDst.moved (i * c.n 40 8)).rowsRegion 0 c.fxgDst.rows

/-- The descriptors of FXG_MOVE as R107, R252 and R254 want them, else 0x83: R89 rejects a TSCALE that is no scale with a code it does not
name (DESIGN CHOICE, log entry 83). -/
def State.moveDescs (s : State) (a : Agent) (c : Cmd) : Bool :=
  let raw := c.desc (c.n 24 8)
  let flash := fun (rs : List (Nat × Nat)) => rs.any (fun r => match s.pieces a r.1 r.2 false with
    | .ok ps => ps.any (fun p => decide (regionOf p.1 = .flash))
    | .error _ => false)
  (!c.fxgAlloc || (decide (raw.base = 0) && decide (raw.scaleBase = 0))) &&
  c.fxgSrc.valid && c.fxgDst.valid && decide (c.fxgSrc.fmt < 12) && decide (c.fxgDst.fmt < 12) &&
  scaleOk c.fxgSrc.tscale && scaleOk c.fxgDst.tscale &&
  (c.fxgAlloc || !((List.range (c.n 51 1)).any (fun i => flash (c.copyRegion i))))

/-- Do SRC and a copy, or two copies, overlap (R252)? -/
def State.copiesOverlap (s : State) (a : Agent) (c : Cmd) : Bool :=
  let src := s.placesOf a false (c.fxgSrc.rowsRegion 0 c.fxgSrc.rows)
  let cps := (List.range (c.n 51 1)).map (fun i => s.placesOf a true (c.copyRegion i))
  cps.any (piecesMeet src) || (List.range (c.n 51 1)).any (fun i => (List.range i).any (fun j =>
    piecesMeet (cps.getD i []) (cps.getD j [])))

/-- FXG_MOVE's start (R266). -/
def State.startMove (s : State) (a : Agent) (c : Cmd) : StartResult :=
  if !(s.moveParams c) then failWith 0x83
  else match s.readDescs a [c.n 16 8, c.n 24 8] with
    | .error f => .fail f
    | .ok ds =>
      let cc : Cmd := { c with descs := ds }
      let x := cc.fxgSrc
      let y := cc.fxgDst
      firstFail [(!(s.moveDescs a cc), 0x83),
          (!(x.rows = y.rows && x.cols = y.cols && x.fmt = y.fmt && x.tscale = y.tscale), 0x86),
          (!c.fxgAlloc && s.copiesOverlap a cc, 0x27), (c.fxgAlloc && decide (16384 ≤ s.fxg.length), 0x88)]
        (windowCheck (s.regionsOk a false (fun _ => true) (x.rowsRegion 0 x.rows))
          (if c.fxgAlloc then
             windowCheck (s.regionsOk a true (fun _ => true) [(c.n 32 8, 64)])
               (let p := partOfCore c.core
                let n := ceilDiv y.allBytes 65536
                match s.barred (s.arena c.fxgArena).1 with
                | some code => failWith code
                | none => firstFail [((s.fits p c.fxgArena n).isNone && !(s.couldFit p c.fxgArena n), 0x84)] (.go ds))
           else
             windowCheck (s.regionsOk a true (fun _ => true) ((List.range (c.n 51 1)).map cc.copyRegion).flatten) (.go ds)))

/-- The entry an FXG_EVICT's record names (R258): its handle and the entry of the issuing group. -/
def State.recordEntry (s : State) (c : Cmd) (r : List Byte) : Option (Nat × FxgEntry) :=
  match SMap.find s.fxg (numAt r 36 2) with
  | none => none
  | some e => if decide (e.gen.toNat = numAt r 32 4) && decide (e.group = s.cmdGroup c) then some (numAt r 36 2, e) else none

/-- FXG_EVICT's start. -/
def State.startEvict (s : State) (a : Agent) (c : Cmd) : StartResult :=
  if decide (c.n 24 1 % 4 = 3) || decide (c.n 16 8 % 64 ≠ 0) then failWith 0x83
  else match s.load a (c.n 16 8) 64 with
    | .error f => .fail f
    | .ok r =>
      if (s.recordEntry c r).isNone then failWith 0x85
      else windowCheck (s.regionsOk a true (fun _ => true) [(c.n 16 8, 64)]) (.go [(c.n 16 8, r)])

/-- The start of a Foxglove command, by its opcode. -/
def State.startFoxglove (s : State) (a : Agent) (c : Cmd) : StartResult :=
  match cmdOpcode c.word with
  | 1 => s.startMove a c
  | 2 => s.startEvict a c
  | _ => .go []

/-! ### The work -/

/-- Row r of a tensor is copied, read from t0 (R252). -/
def State.moveRow (s t0 : State) (a : Agent) (c : Cmd) (x y : Desc) (bad : Bool) (r : Nat) : State :=
  let codes := (List.range x.cols).map (fun j => t0.codeAt a x r j)
  let t := s.storeCodes a c.core c.cls3 y r 0 codes bad
  if x.scaled then
    t.store a c.core c.cls3 (y.scaleBase + r * y.blocks) (t0.vbytes a (x.scaleBase + r * x.blocks) x.blocks) bad
  else t

/-- The whole tensor x, read from t0, is copied to y (R252, R108). -/
def State.moveTensor (s t0 : State) (a : Agent) (c : Cmd) (x y : Desc) (bad : Bool) : State :=
  ((List.range x.rows).foldl (fun t r => t.moveRow t0 a c x y bad r) s).zeroEdges a c.core c.cls3 y 0 y.rows 0 y.cols bad

/-- The copies of a move that does not allocate, its source read from t0. -/
def State.moveCopies (s t0 : State) (c : Cmd) (bad : Bool) : State :=
  (List.range (c.n 51 1)).foldl (fun t i => t.moveTensor t0 c.agent c c.fxgSrc (c.fxgDst.moved (i * c.n 40 8)) bad) s

/-- The 64-byte handle record (Table 10.5). -/
def handleRecord (dst : List Byte) (va : Nat) (y : Desc) (gen handle flags tier granules : Nat) : List Byte :=
  toLE 8 va ++ toLE 8 (if y.scaled then va + up64 y.elemBytes else 0) ++ bytesAt dst 16 16 ++ toLE 4 gen ++ toLE 2 handle ++
    [BitVec.ofNat 8 flags] ++ [BitVec.ofNat 8 tier] ++ toLE 8 (granules * 65536) ++ zeros 16

/-- The work of an allocating FXG_MOVE (R254–R257): nothing happens where the record cannot be written, the module's entries or the
arena's space have run out since the start; after evictions, which stay, the source must still be readable (R247, R258). -/
def State.moveAlloc (s : State) (c : Cmd) (bad : Bool) : State :=
  let a := c.agent
  let x := c.fxgSrc
  let y := c.fxgDst
  let k := c.fxgArena
  let n := ceilDiv y.allBytes 65536
  match s.pieces a (c.n 32 8) 64 true with
  | .error f => s.failWork c f
  | .ok ps =>
    if 16384 ≤ s.fxg.length then s.workDone c 0x88 0
    else match s.takeSpace (partOfCore c.core) k n with
      | none => s.workDone c 0x84 0
      | some (t, off) =>
        t.withReads c (x.rowsRegion 0 x.rows)
          (let h := t.freeHandle
           let pinned := !(c.bit 48 1)
           let e : FxgEntry := { gen := t.fxgGen, arena := k, offset := off, granules := n, group := s.cmdGroup c,
                                 partition := partOfCore c.core, job := c.job, pinned := pinned, unpinTime := s.now, core := c.core,
                                 record := (ps.headD (0, 0)).1 }
           let t : State := { t.drawn with fxg := SMap.insert t.fxg h e, fxgGen := t.fxgGen + 1 }
           let va := apertureVa k off
           let t := t.moveTensor t a c x (y.placedAt va) bad
           let t := t.store a c.core c.cls3 (va + y.allBytes) (zeros (n * 65536 - y.allBytes)) false
           let t := t.store a c.core c.cls3 (c.n 32 8)
             (handleRecord (c.captured (c.n 24 8)) va y e.gen.toNat h (b2n pinned) (c.n 49 1 % 4) n) bad
           t.workDone c (poisonStatus bad) 0)

/-- FXG_MOVE copies a whole tensor, allocating its destination with ALLOC = 1 (R252–R257). -/
def execFxgMove (id : Nat) (_ext : Ext) (s : State) : Host.Outcome State Fault Refusal :=
  match s.working id 7 1 with
  | none => .next s
  | some c =>
    let a := c.agent
    let src := c.fxgSrc.rowsRegion 0 c.fxgSrc.rows
    let bad := s.regionsPoisoned a src
    let s0 := s.countRegions a src
    .next (s.withReads c src
      (if c.fxgAlloc then s0.moveAlloc c bad
       else (s0.moveCopies s c bad).workDone c (poisonStatus bad) 0))

/-- FXG_EVICT releases, unpins or pins an entry (R258). -/
def execFxgEvict (id : Nat) (_ext : Ext) (s : State) : Host.Outcome State Fault Refusal :=
  match s.working id 7 2 with
  | none => .next s
  | some c =>
    let a := c.agent
    match s.recordEntry c (c.captured (c.n 16 8)) with
    | none => .next (s.workDone c 0x85 0)
    | some (h, e) =>
      let mark := fun (t : State) (flags : Nat) => t.store a c.core c.cls3 (c.n 16 8 + 38) [BitVec.ofNat 8 flags] false
      match c.n 24 1 % 4 with
      | 0 => .next ((mark { s with fxg := SMap.erase s.fxg h } (4 + b2n e.pinned)).workDone c 0 0)
      | 1 => .next ((mark { s with fxg := SMap.insert s.fxg h { e with pinned := false, unpinTime := s.now } } 0).workDone c 0 0)
      | _ => .next ((mark { s with fxg := SMap.insert s.fxg h { e with pinned := true } } 1).workDone c 0 0)

/-- The entries of a job that ends are released (R259). -/
def State.releaseEntries (s : State) (job : BitVec 16) : State :=
  (s.fxg.filter (fun e => decide (e.2.job = job))).foldl (fun t e => t.dropEntry e (4 + b2n e.2.pinned)) s

/-! ### HLY_READ (R274, R444) -/

/-- HLY_READ's start, in its own order. -/
def State.startHollyhock (s : State) (a : Agent) (c : Cmd) : StartResult :=
  if cmdOpcode c.word = 0 then .go []
  else
    let n := c.n 32 4
    if 65536 < n then failWith 0x92
    else if n = 0 then .zero
    else firstFail [(decide (flashCapacity ≤ c.n 16 8 + n - 1), 0x90), (!(bitAt (s.reg Reg.hlyStatus) 31), 0x97)]
      (windowCheck (s.regionsOk a true (fun _ => true) [(c.n 24 8, 4096 * n)]) (.go []))

/-- The logical blocks of an HLY_READ, read from s, are stored at its destination. -/
def State.storeBlocks (t s : State) (c : Cmd) : State :=
  (List.range (c.n 32 4)).foldl (fun (t : State) i =>
    t.store c.agent c.core c.cls3 (c.n 24 8 + 4096 * i) (s.blockBytes (c.n 16 8 + i)) (s.block (c.n 16 8 + i)).bad) t

/-- HLY_READ reads logical blocks from flash into memory; uncorrectable blocks are written as poisoned (R274). -/
def execHlyRead (id : Nat) (_ext : Ext) (s : State) : Host.Outcome State Fault Refusal :=
  match s.working id 8 1 with
  | none => .next s
  | some c =>
    let blocks := (List.range (c.n 32 4)).map (fun i => c.n 16 8 + i)
    let bad := (blocks.filter (fun b => (s.block b).bad)).length
    .next (((s.countFlashReads blocks).storeBlocks s c).workDone c (if bad = 0 then 0 else 0x91) (BitVec.ofNat 32 (satNat 16 bad)))

/-! ### Invalidation (R249) -/

/-- Does the invalidation cover virtual address va of a job: its page of SIZE 4 KiB, 2 MiB or 1 GiB, or the whole address space? -/
def MmuInval.covers (i : MmuInval) (job : BitVec 16) (va : Nat) : Bool :=
  let page := 2 ^ (12 + 9 * i.size.toNat)
  decide (job = i.job) && (decide (i.size = 3) || decide (va / page = i.page.toNat * 4096 / page))

/-- A write of HUB_MMU_INVAL starts an invalidation, which waits for the accesses under way through the entries it covers; while one
runs it is ignored and counted (R249). -/
def State.beginInval (s : State) (v : Word) : State :=
  match s.mmuInval with
  | some _ => s.bumpSat Reg.hubMmuInvalStatus 0 16 1
  | none =>
    let i : MmuInval := { job := BitVec.ofNat 16 (fld v 48 16), page := BitVec.ofNat 36 (fld v 12 36), size := BitVec.ofNat 2 (fld v 10 2) }
    { s with mmuInval := some i, reqs := s.reqs.map (fun e => (e.1, { e.2 with inval := i.covers e.2.job e.2.va })) }

/-- A write to HUB_MMU_INVAL. -/
def execMmuInval (v : Word) (s : State) : Host.Outcome State Fault Refusal :=
  if s.stopped || decide (s.start.stage < 1) then .next s else .next (s.beginInval v)

/-- The invalidation ends when every access that was then translated through the covered entries has completed (R249): the fabric
requests among them are the accesses that outlast a command of this model. -/
def execMmuInvalDone (s : State) : Host.Outcome State Fault Refusal :=
  match s.mmuInval with
  | none => .next s
  | some _ => if s.stopped || s.reqs.any (fun r => r.2.inval) then .next s else .next { s with mmuInval := none }

end Sys2Proof.Machine
end

