-- ==== Sys2Proof/Machine/Secure.lean ====
section
/-!
DEFINITION. Signed images (R401–R403): the signature block and the checks, for firmware components and job images.
-/

namespace Sys2Proof.Machine

/-- Are owner key hashes programmed (OWNER_SET)? -/
def Sec.ownerSet (x : Sec) : Bool := decide (x.ownerFused ≠ 0)

/-- The bytes of a SHA-384 digest. -/
def digestBytes (d : BitVec 384) : List Byte := toLE 48 d.toNat

/-- The digest of an image: the SHA-384 of its bytes followed by block bytes 0–63 (R401). -/
def imageDigest (image block : List Byte) : List Byte := digestBytes (Config.sha384 (image ++ block.take 64))

/-- Check 1 of R402: MAGIC, COMPONENT, LENGTH and the reserved bytes. -/
def blockFits (component len : Nat) (b : List Byte) : Bool :=
  decide (b.length = 512) && decide (numAt b 0 4 = 0x4A575347) && decide (numAt b 4 1 = component) && decide (numAt b 12 4 = len) &&
    allZero (bytesAt b 7 1) && allZero (bytesAt b 9 3) && allZero (bytesAt b 16 48) && allZero (bytesAt b 448 64)

/-- Checks 2 and 4: the hash of the public key is the fused hash of its index, not revoked. -/
def keyFits (hashes : SMap (BitVec 384)) (revoked : BitVec 4) (k : Nat) (pub : List Byte) : Bool :=
  decide (k < 4) && !(bitAt revoked k) && decide (SMap.find hashes k = some (Config.sha384 pub))

/-- The owner's checks 4 and 5. -/
def Sec.ownerCheck (x : Sec) (image b : List Byte) : Option Byte :=
  if !(keyFits x.ownerHash x.ownerRevoked (numAt b 6 1) (bytesAt b 352 96)) then some 0xE2
  else if !(Config.signatureOk (Config.sha384 (bytesAt b 352 96)) (imageDigest image b) (bytesAt b 160 96)) then some 0xE0
  else none

/-- The checks of R402 for component c + 1: none, or the rejection code of the first that fails. -/
def Sec.componentCheck (x : Sec) (c : Nat) (bytes : List Byte) : Option Byte :=
  let n := bytes.length - 512
  let len := numAt (bytesAt bytes n 512) 12 4
  let image := bytes.take len
  let b := bytesAt bytes n 512
  if decide (bytes.length < 512) || !(blockFits (c + 1) len b) || decide (ceilDiv len 64 * 64 ≠ n) then some 0xE0
  else if !(keyFits x.vendorHash x.vendorRevoked (numAt b 5 1) (bytesAt b 256 96)) then some 0xE2
  else if !(Config.signatureOk (Config.sha384 (bytesAt b 256 96)) (imageDigest image b) (bytesAt b 64 96)) then some 0xE0
  else match (if x.ownerSet then x.ownerCheck image b else none) with
    | some e => some e
    | none => if numAt b 8 1 < bitsOf x.minSvn.toNat (8 * c) 8 then some 0xE1 else none

/-- What bank b of component c + 1 holds. -/
def Sec.bank (x : Sec) (c b : Nat) : Bank := SMap.get (.factory 0) x.banks (2 * c + b)

/-- Is a bank rejected, and why (R402)? The image a module was made with is accepted but for its SVN. -/
def Sec.bankCheck (x : Sec) (c b : Nat) : Option Byte :=
  match x.bank c b with
  | .factory svn => if svn.toNat < bitsOf x.minSvn.toNat (8 * c) 8 then some 0xE1 else none
  | .written bytes => x.componentCheck c bytes

/-- The SVN of a bank's image. -/
def Sec.bankSvn (x : Sec) (c b : Nat) : Nat :=
  match x.bank c b with
  | .factory svn => svn.toNat
  | .written bytes => numAt (bytesAt bytes (bytes.length - 512) 512) 8 1

/-- The image and block check of a job image (R402): checks 1, 4 and 5; with no owner set every one is rejected. -/
def Sec.jobCheck (x : Sec) (image block : List Byte) : Option Byte :=
  if !x.ownerSet then some 0xE2
  else if !(blockFits 0x10 image.length block) then some 0xE0
  else x.ownerCheck image block

/-- A rejection is recorded in SEC_STATUS (R402). -/
def State.reject (s : State) (component : Nat) (code : Byte) : State :=
  (s.setRegFld Reg.secStatus 16 8 code.toNat).setRegFld Reg.secStatus 8 8 component

end Sys2Proof.Machine
end

