-- ==== Sys2Proof/Machine/Jobs.lean ====
section
/-!
DEFINITION. Jobs (R335–R349): descriptors and their checks, placement and start, pre-emption, save and restore, kill, end,
status records.
-/

namespace Sys2Proof.Machine

/-! ### Device and host memory -/

/-- What a read of n bytes outside the module answers. -/
def answerBytes (h : HostRead) (n : Nat) : Option (List Byte) :=
  match h with
  | .data bs => if n ≤ bs.length then some (bs.take n) else none
  | _ => none

/-- n bytes at a device physical address, for the module's own reads: none where nothing can be read. Of a peer's memory the answer is
the one given (R338; the messages of such a read are not shown: log entry 85). The register window holds no descriptor or image. -/
def State.readDevice (s : State) (pa n : Nat) (peer : HostRead) : Option (List Byte) :=
  match regionOf pa with
  | .flash => if bitAt (s.reg Reg.hlyStatus) 31 then some (s.flashRead (pa - flashBase) n) else none
  | .pool => (match s.poolTarget pa false with
    | .ok (.here p) => if s.poisoned p n then none else some (s.bytes p n)
    | .ok (.there _ _ _ _) => answerBytes peer n
    | .error _ => none)
  | .registers => none
  | .none => none
  | _ =>
    if decide (regionOf (pa + n - 1) ≠ regionOf pa) || (s.barred pa).isSome || s.poisoned pa n then none else some (s.bytes pa n)

/-- An address field of a job descriptor is a device address when bit 63 is 1 (R338). -/
def isDevice (a : Nat) : Bool := a.testBit 63

/-- What a read of n bytes at an address field answers (R338). -/
def State.readField (s : State) (a n : Nat) (host : HostRead) : Option (List Byte) :=
  if isDevice a then s.readDevice (a % 2 ^ 48) n host else answerBytes host n

/-! ### Serving cores and placement (R12, R340, R357) -/

/-- Is control core n in service: its die up, its Peony core good (or its Lupin engine), its partition's HBM not offline? -/
def State.serving (s : State) (n : CoreId) : Bool :=
  let p := partOfCore n
  bitAt (s.reg Reg.hubDieStatus) (8 * (p / 4) + 7) && !(bitAt s.dieOff (p / 4)) && !(bitAt s.hbmOff p) &&
    (if n.toNat < 48 then bitAt (s.reg Reg.hubPeonyMap) (s.physCore n.toNat) else bitAt (s.reg Reg.hubEngineMap) p)

/-- The control cores of a group: its Peony cores' in order, then its Lupin engines'. -/
def State.peonyCoresOf (s : State) (g : Nat) : List CoreId :=
  ((s.partsOf g).map (fun p => [3 * p, 3 * p + 1, 3 * p + 2])).flatten.map (BitVec.ofNat 6)

def State.lupinCoresOf (s : State) (g : Nat) : List CoreId := (s.partsOf g).map (fun p => BitVec.ofNat 6 (48 + p))

/-- The placement of nP Peony ranks and nL Lupin ranks on group g, if enough cores serve (R340). -/
def State.placement (s : State) (g nP nL : Nat) : Option (List CoreId) :=
  let ps := (s.peonyCoresOf g).filter s.serving
  let ls := (s.lupinCoresOf g).filter s.serving
  if nP ≤ ps.length ∧ nL ≤ ls.length then some (ps.take nP ++ ls.take nL) else none

/-! ### Status records (R343) -/

def JobState.code : JobState → Nat
  | .queued => 0
  | .running => 1
  | .saving => 2
  | .preempted => 3
  | .restoring => 4
  | .ended => 5

/-- Time spent waiting for a save area so far (Table 14.2). -/
def Job.waited (j : Job) (now : Word) : Word :=
  match j.waitSince with
  | none => j.waitNs
  | some t => j.waitNs + (now - t)

/-- The status record of Table 14.2. -/
def Job.record (j : Job) (now : Word) : List Byte :=
  toLE 1 j.state.code ++ [j.endCode] ++ toLE 2 j.preempts.toNat ++ toLE 2 j.id.toNat ++ zeros 2 ++ toLE 8 j.tSubmit.toNat ++
    toLE 8 (j.tStart.getD 0).toNat ++ toLE 8 j.tEnd.toNat ++ toLE 8 (j.waited now).toNat ++ toLE 4 j.lastSave.toNat ++
    toLE 4 j.lastRestore.toNat ++ toLE 2 j.landed.toNat ++ toLE 2 j.restarts.toNat ++ zeros 12

/-- A status record is written to the fabric pool (R338, R320). -/
def State.poolRecord (s : State) (j : Job) (pa : Nat) (bs : List Byte) : Option State :=
  match s.poolTarget pa true with
  | .error _ => none
  | .ok (.here p) => some (s.ramWrite j.id p bs false)
  | .ok (.there m slot key off) =>
    match s.request { kind := .record, core := 0, job := 0, cmd := 0, target := BitVec.ofNat 16 m, seg := (pa - poolBase) / gib, sent := 0,
                      va := 0, pa := pa, n := bs.length, home := homeKey m slot off, line := none }
        0x03 2 false (addressWord slot key off ++ bs) with
    | .ok t => some (t.dropHome (homeKey m slot off) bs.length)
    | .error _ => none

/-- The state with the record of j written; none where it cannot be written. -/
def State.writeRecord (s : State) (j : Job) : Option State :=
  let bs := j.record s.now
  if isDevice j.statusAddr.toNat then
    let pa := j.statusAddr.toNat % 2 ^ 48
    if regionOf pa = .pool then s.poolRecord j pa bs
    else if isRam pa && (s.barred pa).isNone then some (s.ramWrite j.id pa bs false) else none
  else some (s.send (.hostWrite j.port j.statusAddr.toNat bs false))

/-- A submission whose descriptor or record cannot be accessed (R339). -/
def State.submitError (s : State) : State := s.bumpSat Reg.hubSchedStatus 11 16 1

/-- The record of j is written; one that cannot be is counted. -/
def State.report (s : State) (j : Job) : State := (s.writeRecord j).getD s.submitError

/-! ### Submission (R338, R339) -/

/-- The job a descriptor describes, queued now (Table 14.1). -/
def jobOf (d : List Byte) (now : Word) (port order : Nat) (host : HostRead) : Job :=
  { id := BitVec.ofNat 16 (numAt d 0 2), group := numAt d 2 1, prio := numAt d 3 1 % 8, imemSave := (numAt d 3 1).testBit 3,
    nPeony := numAt d 4 1, nLupin := numAt d 5 1, faultQ := BitVec.ofNat 12 (numAt d 6 2), faultEn := (numAt d 6 2).testBit 15,
    imageAddr := BitVec.ofNat 64 (numAt d 8 8), imageBytes := numAt d 16 4,
    image := match host with
      | .data bs => bs
      | _ => []
    entry := BitVec.ofNat 18 (numAt d 20 4), root := numAt d 24 8 % 2 ^ 48, statusAddr := BitVec.ofNat 64 (numAt d 32 8),
    live := (List.range (Nat.min 8 (numAt d 40 1))).map (fun i => (numAt d (48 + 8 * i) 6 / 65536 * 65536, numAt d (54 + 8 * i) 2)),
    port := port, state := .queued, endCode := 0, killed := false, preempts := 0, tSubmit := now, tStart := none, tEnd := 0,
    waitNs := 0, waitSince := none, lastSave := 0, lastRestore := 0, landed := 0, restarts := 0, placed := [], order := order,
    phaseSince := now, saved := none, restartTimes := [] }

/-- The partitions of the group that partition p would lie in, by its own SIZE (R335). -/
def State.sizeFor (s : State) (p : Nat) : Nat := if p < 16 then 2 ^ s.groupSize p else 1

/-- The 4 KiB pages of a LIVE region. -/
def livePages (r : Nat × Nat) : List Nat := (List.range (16 * r.2)).map (fun i => r.1 + 4096 * i)

/-- The partition in whose area a page of SRAM is saved: its core's, or the group's lowest on the die (R345). -/
def State.livePart (s : State) (g pa : Nat) : Option Nat :=
  match regionOf pa with
  | .coreLocal => (s.partsOf g).find? (fun p => decide (pa / (128 * mib) / 3 = p))
  | .shared => (s.partsOf g).find? (fun p => decide (dieOfPa pa = p / 4))
  | _ => none

/-- The partitions LIVE's pages are saved in; none where a page does not translate to the group's SRAM (R338). -/
def State.liveParts (s : State) (j : Job) : Option (List Nat) :=
  ((j.live.map livePages).flatten).foldl (fun acc va =>
    match acc with
    | none => none
    | some ps => match s.walk va false 4 0 j.root with
      | .error _ => none
      | .ok (pa, _) => (s.livePart j.group pa).map (fun p => p :: ps)) (some [])

/-- Does the descriptor break Table 14.1 (0xB0)? -/
def State.descBroken (s : State) (d : List Byte) (j : Job) : Bool :=
  let n := s.sizeFor j.group
  let nLive := numAt d 40 1
  decide (j.id = 0) || decide (16 ≤ numAt d 3 1) || decide (numAt d 6 2 / 4096 % 8 ≠ 0) || !(allZero (bytesAt d 41 7)) ||
    decide (8 < nLive) || !(allZero (bytesAt d (48 + 8 * nLive) (80 - 8 * nLive))) || decide (3 * n < j.nPeony) ||
    decide (n < j.nLupin) || decide (j.nPeony + j.nLupin = 0) || decide (j.imageBytes < 4) || decide (262144 < j.imageBytes) ||
    decide (j.imageBytes % 4 ≠ 0) || decide (j.imageBytes ≤ numAt d 20 4) || decide (numAt d 20 4 % 4 ≠ 0) ||
    decide (j.root % 4096 ≠ 0) || !(isRam j.root) || decide (j.statusAddr.toNat % 64 ≠ 0) ||
    (List.range nLive).any (fun i => decide (numAt d (48 + 8 * i) 2 ≠ 0) || decide (numAt d (54 + 8 * i) 2 = 0)) ||
    (s.isGroup j.group && (s.liveParts j).isNone)

/-- The bytes job j saves in partition p (R345): its LIVE pages there, its Peony cores' arrays, instruction memory. -/
def State.saveShare (s : State) (j : Job) (placed : List CoreId) (p : Nat) : Nat :=
  let here := placed.filter (fun n => decide (partOfCore n = p))
  4096 * (((s.liveParts j).getD []).filter (· = p)).length + 1310720 * (here.filter (fun n => decide (n.toNat < 48))).length +
    (if j.imemSave then 262144 * here.length else 0)

/-- AREA_MIB of partition p. -/
def State.areaMib (s : State) (p : Nat) : Nat := s.regFld (Reg.hubSaveCfg p) 0 10

/-- Does a partition's share exceed its area less 1 MiB (0xB3)? AREA_MIB 0 has no areas to exceed. -/
def State.saveTooLarge (s : State) (j : Job) : Bool :=
  match s.placement j.group j.nPeony j.nLupin with
  | none => false
  | some placed => (s.partsOf j.group).any (fun p =>
      decide (s.areaMib p ≠ 0) && decide ((s.areaMib p - 1) * mib < s.saveShare j placed p))

/-- The live jobs. -/
def State.liveJobs (s : State) : List Job := s.jobs.filter Job.isLive

/-- The first check of R339 a submission fails, with what a rejected image records. -/
def State.submitCheck (s : State) (d : List Byte) (j : Job) (host : HostRead) : Option Byte × State :=
  if s.start.stage < 2 then (some 0x01, s)
  else if s.descBroken d j then (some 0xB0, s)
  else if !(s.isGroup j.group) then (some 0xB7, s)
  else if s.isLive j.id then (some 0xB1, s)
  else if decide (64 ≤ (s.liveJobs.filter (fun k => decide (k.group = j.group) && decide (k.state = .queued))).length) ||
      decide (1024 ≤ s.liveJobs.length) then (some 0xB8, s)
  else if s.saveTooLarge j then (some 0xB3, s)
  else if bitAt (s.reg Reg.secPolicy) 0 then
    let n := ceilDiv j.imageBytes 64 * 64
    match s.readField j.imageAddr.toNat (n + 512) host with
    | none => if s.sec.ownerSet then (some 0xB6, s) else (some 0xB6, s.reject 0x10 0xE2)
    | some bs => match s.sec.jobCheck (bs.take j.imageBytes) (bytesAt bs n 512) with
      | none => (none, s)
      | some e => (some 0xB6, s.reject 0x10 e)
  else (none, s)

/-- The waits for a save area of group g's queued jobs are considered anew (R346): a job waits while one of lower priority runs
and a partition has no free area. -/
def State.reconsider (s : State) (g : Nat) : State :=
  let held := (s.liveJobs.filter (fun k => decide (k.group = g) &&
    (k.state = .preempted || k.state = .saving || k.state = .restoring))).length
  let free := (s.partsOf g).all (fun p => decide (s.areaMib p ≠ 0) && decide (held < 4))
  match s.runningJob g with
  | some r =>
    if !(r.state = .running) then s
    else s.liveJobs.foldl (fun t k =>
      if !(decide (k.group = g) && decide (k.state = .queued)) then t
      else
        let wants := decide (r.prio < k.prio) && !free
        match k.waitSince with
        | none => if wants then (t.setJob { k with waitSince := some s.now }).bump Reg.hubSaveWaits 1 else t
        | some _ => if wants then t else t.setJob { k with waitSince := none, waitNs := k.waited s.now }) s
  | none => s

/-- A submission (R338, R339): port none is a control core's, which no PF0 carries to the host. -/
def State.submitJob (s : State) (port : Option Nat) (v : Word) (desc image : HostRead) : State :=
  let a := v.toNat / 64 * 64
  let noHost := port.isNone
  if noHost && !(isDevice a) then s.submitError
  else match s.readField a 128 desc with
    | none => s.submitError
    | some d =>
      let j := jobOf d s.now (port.getD 0) s.nextOrder image
      if noHost && !(isDevice j.statusAddr.toNat) then s.submitError
      else match s.submitCheck d j image with
        | (some code, t) => t.report { j with state := .ended, endCode := code, tEnd := s.now }
        | (none, t) => match t.writeRecord j with
          | none => t.submitError
          | some u => ({ u with jobs := u.jobs ++ [j], nextOrder := u.nextOrder + 1 } : State).reconsider j.group

/-- HUB_JOB_SUBMIT written by PF0 (R339, R385): dropped before STAGE1, but answered 0x01 there by R339. Port 1's write is no
write to its own function window (R292). -/
def execJobSubmit (second : Bool) (v : Word) (desc image : HostRead) (s : State) : Host.Outcome State Fault Refusal :=
  if s.start.stage < 1 ∨ s.stopped ∨ s.fatal then .next s
  else if second then .next (if s.start.bifurc then s.bump Reg.pciBadAccess 1 else s)
  else .next (s.submitJob (some 0) v desc image)

/-! ### Ending a job (R341, R344) -/

/-- A queue loses its binding (R262): its words are discarded, the cores blocked on it fault. -/
def State.unbindQueue (s : State) (q : Nat) : State :=
  let x := s.queue q
  let cores := (x.waiting.filterMap (fun w => match w.who with
    | .core n => some n
    | .unit => none)) ++ x.getters
  let t := s.discardWords q
  let t := t.setQueue q { t.queue q with waiting := [], getters := [], wordNo := 0 }
  cores.foldl (fun u n => u.coreFault n 0x2B 0) t

/-- Every queue that names the job is unbound (R262). -/
def State.unbindJob (s : State) (job : BitVec 16) : State :=
  (s.stem.map Prod.fst).foldl (fun t q =>
    if (kindPuts (s.qKind q) && decide (s.qPutJob q = job)) || (kindGets (s.qKind q) && decide (s.qGetJob q = job)) then t.unbindQueue q
    else t) s

/-- Speculative state of group g's job is squashed: passages, cached lines (R46). -/
def State.squashSpec (s : State) (g : Nat) (job : BitVec 16) : State :=
  let t := ((s.squashPassages (fun p => decide (p.job = job))).forgetFills g).evict (fun l => decide (l.group = g))
  { t with trees := t.trees.filter (fun e => !(decide (e.1 / 2 ^ 48 = job.toNat))) }

/-- Core n's run-ahead is squashed: it stands at its branch again (R46, R65). -/
def State.squashAhead (s : State) (n : CoreId) : State :=
  match (s.core n).runAhead with
  | none => s
  | some r =>
    let t := s.squash 0 (partOfCore n) r.instrs
    let t := if r.errors = 0 then t else t.bump Reg.mgdSpecErr r.errors
    t.setCore n { t.core n with runAhead := none, blocked := none, pc := r.branchPc, g := r.savedG, p := r.savedP }

/-- Core n is idle (R81); a put or get it waited with leaves its queue. -/
def State.idleCore (s : State) (n : CoreId) : State := ((s.squashAhead n).abandon n).setCore n Core.idle

/-- The job's re-rank sessions end with 0xB4 (R186, R347). -/
def State.endSessions (s : State) (job : BitVec 16) : State :=
  s.sessions.foldl (fun t e => match t.cmd e.1 with
    | some c => if c.job = job then t.endSession c e.2 0xB4 0 else t
    | none => t) s

/-- Job j ends with a code: its record says so, its queues are unbound, its Foxglove entries released, its Zinnia slots
unloaded, its speculation discarded, its commands gone (R341), the rows that saved ones hold given back. The cores it was placed on are idle (R81). -/
def State.endJob (s : State) (j : Job) (code : Byte) : State :=
  let k : Job := { j with state := .ended, endCode := code, tEnd := s.now, waitNs := j.waited s.now, waitSince := none, saved := none }
  let t := (((j.saved.map Saved.cmds).getD []).foldl State.endRows s).dropCmds (fun c => decide (c.job = j.id))
  let t : State := { t with jobs := t.jobs.filter (fun x => !(x.id = j.id && x.isLive))
                            recoveries := SMap.erase t.recoveries j.group
                            landing := t.landing.filter (fun l => !(l.req.job = j.id)) }
  let t := (j.placed.filter (fun n => decide ((t.core n).job = j.id))).foldl State.idleCore t
  let t := ((((t.unbindJob j.id).releaseEntries j.id).endSlots j.id).squashSpec j.group j.id)
  (t.report k).reconsider j.group

/-- Is any command of the job accepted and not completed? -/
def State.commandsLeft (s : State) (job : BitVec 16) : Bool := s.cmds.any (fun c => decide (c.job = job))

/-- Does a fabric write of the job await its acknowledgement? The record of the job's end, a release at scope S, comes after it (R34, R343). -/
def State.jobWrites (s : State) (job : BitVec 16) : Bool := s.reqs.any (fun e => decide (e.2.kind = .write) && decide (e.2.job = job))

/-- The job's unstarted commands are discarded (R344). -/
def State.dropUnstarted (s : State) (job : BitVec 16) : State :=
  s.dropCmds (fun c => decide (c.job = job) && decide (c.phase = Phase.queued))

/-- The landed responses of the job are counted as discarded (R344). -/
def State.dropLanded (s : State) (job : BitVec 16) : State :=
  let n := (s.landing.filter (fun l => l.req.job = job)).length
  let t := { s with landing := s.landing.filter (fun l => !(l.req.job = job)) }
  if n = 0 then t else t.bump Reg.hubLandingDiscard n

/-- The kill of a live job in any STATE (R344); of another JOB_ID nothing. -/
def State.killJob (s : State) (id : BitVec 16) : State :=
  match s.job id with
  | none => s
  | some j =>
    let t := (j.placed.filter (fun n => decide ((s.core n).job = id))).foldl State.idleCore s
    let t := ((t.endSessions id).dropUnstarted id).dropLanded id
    if (j.state = .running || j.state = .saving) && (t.commandsLeft id || t.jobWrites id) then t.setJob { j with killed := true, saved := none }
    else t.endJob j 0xB5

/-- HUB_JOB_KILL written (R344, R385). -/
def execJobKill (v : BitVec 32) (s : State) : Host.Outcome State Fault Refusal :=
  if s.start.stage < 2 ∨ s.stopped then .next s else .next (s.killJob (BitVec.ofNat 16 (fld v 0 16)))

/-- Has a core of the job stopped for good? -/
def Core.ended (c : Core) : Bool := c.state = .halted || c.state = .faulted

/-- Group g's job ends once its cores have stopped and its commands completed, a killed one once its started commands have
(R341, R344). -/
def execJobEnd (g : BitVec 4) (s : State) : Host.Outcome State Fault Refusal :=
  match s.runningJob g.toNat with
  | none => .next s
  | some j =>
    if s.commandsLeft j.id || s.jobWrites j.id || s.stopped || (SMap.find s.recoveries g.toNat).isSome then .next s
    else if j.killed then .next (s.endJob j 0xB5)
    else if j.state = .running && j.placed.all (fun n => (s.core n).ended) then
      .next (s.endJob j (if j.placed.any (fun n => decide ((s.core n).state = .faulted)) then 0xB9 else 0))
    else .next s

/-! ### Start (R340, R51) -/

/-- Instruction memory that holds an image. -/
def imageMem (bs : List Byte) : SMap (BitVec 32) :=
  (List.range (bs.length / 4)).foldl (fun m i => SMap.set 0 m i (BitVec.ofNat 32 (numAt bs (4 * i) 4))) []

/-- A core that starts a program: registers zero, slots free (R51). -/
def Core.starting (job : BitVec 16) (pc : BitVec 18) (imem : SMap (BitVec 32)) : Core :=
  { Core.idle with state := .running, job := job, pc := pc, imem := imem }

/-- Core n of a group gets the program state c, its arrays empty (R51, R406). -/
def State.placeCore (s : State) (n : CoreId) (c : Core) : State :=
  let t := s.setCore n c
  if n.toNat < 48 then t.setPeony n.toNat PeonyCore.reset else t

/-- The cores of group g that are not placed stay idle (R340). -/
def State.clearUnplaced (s : State) (g : Nat) (placed : List CoreId) : State :=
  ((s.peonyCoresOf g ++ s.lupinCoresOf g).filter (fun n => !(placed.contains n))).foldl (fun t n => t.setCore n Core.idle) s

/-- The job image, read once (R340). -/
def State.jobImage (s : State) (j : Job) : Option (List Byte) :=
  s.readField j.imageAddr.toNat j.imageBytes (.data j.image)

/-- The job group g takes next (R346): the highest priority, pre-empted before queued, the earliest submitted. -/
def State.nextJob (s : State) (g : Nat) : Option Job :=
  let mine := s.liveJobs.filter (fun k => decide (k.group = g) && (k.state = .queued || k.state = .preempted))
  mine.foldl (fun best k => match best with
    | none => some k
    | some b =>
      let pk := decide (k.state = .preempted)
      let pb := decide (b.state = .preempted)
      if b.prio < k.prio ∨ (b.prio = k.prio ∧ ((pk = true ∧ pb = false) ∨ (pk = pb ∧ k.order < b.order))) then some k else some b) none

/-- The group's watchdog restarts (R423). -/
def State.kickDog (s : State) (g : Nat) : State := { s with wdog := SMap.erase s.wdog g }

/-- A queued job starts (R340): its cores receive the image and start under R51; recovery registers of the group are cleared
(R359). -/
def State.startJob (s : State) (j : Job) : State :=
  match s.jobImage j, s.placement j.group j.nPeony j.nLupin with
  | none, _ => s.endJob j 0xB0
  | some _, none => s.endJob j 0xB2
  | some bs, some placed =>
    let t := (s.clearUnplaced j.group placed)
    let t := placed.foldl (fun u n => u.placeCore n (Core.starting j.id j.entry (imageMem bs))) t
    let t := (t.setReg (Reg.mgdGrpRecover j.group) 0).setReg (Reg.mgdGrpRentry j.group) 0
    let k : Job := { j with state := .running, tStart := some s.now, placed := placed, phaseSince := s.now,
                            waitNs := j.waited s.now, waitSince := none }
    (((t.setJob k).kickDog j.group).report k).reconsider j.group

/-- A pre-empted job begins its restore on the cores it was placed on; 0xB2 where one no longer serves (R347). -/
def State.beginRestore (s : State) (j : Job) : State :=
  if j.placed.all s.serving then
    let k : Job := { j with state := .restoring, phaseSince := s.now }
    (s.setJob k).report k
  else (s.dropLanded j.id).endJob j 0xB2

/-- Group g with no running job takes its next one (R340, R346). -/
def execJobStart (g : BitVec 4) (s : State) : Host.Outcome State Fault Refusal :=
  if !(s.isGroup g.toNat) || (s.runningJob g.toNat).isSome || s.stopped || s.tripped || s.fatal then .next s
  else match s.nextJob g.toNat with
    | none => .next s
    | some j => .next (if j.state = .preempted then s.beginRestore j else s.startJob j)

/-! ### Pre-emption (R346–R348) -/

/-- The save areas in use on a group. -/
def State.areasHeld (s : State) (g : Nat) : Nat :=
  (s.liveJobs.filter (fun k => decide (k.group = g) && (k.state = .preempted || k.state = .saving || k.state = .restoring))).length

/-- Has every partition of group g a free save area (R345, R346)? -/
def State.areaFree (s : State) (g : Nat) : Bool :=
  (s.partsOf g).all (fun p => decide (s.areaMib p ≠ 0)) && decide (s.areasHeld g < 4)

/-- L_sram of a job (R345). -/
def State.liveSram (s : State) (j : Job) : Nat := sumNat ((s.partsOf j.group).map (s.saveShare j j.placed))

/-- Pre-emption of job j begins (R347): issue stops, blocked instructions are abandoned, sessions end with 0xB4, speculation is
squashed. -/
def State.beginPreempt (s : State) (j : Job) : State :=
  let c := (s.cmds.filter (fun d => decide (d.job = j.id))).length
  let t := s.traceTagged j.group 0xF000 0x06 0 j.id 0 (BitVec.ofNat 64 (s.liveSram j)) (BitVec.ofNat 64 c)
  let t := j.placed.foldl (fun u n => (u.squashAhead n).abandon n) t
  let t := (t.endSessions j.id).squashSpec j.group j.id
  let k : Job := { j with state := .saving, phaseSince := s.now }
  (t.setJob k).report k

/-- A queued job of strictly higher priority pre-empts group g's running job when every partition has a free save area
(R346). -/
def execPreempt (g : BitVec 4) (s : State) : Host.Outcome State Fault Refusal :=
  match s.runningJob g.toNat with
  | none => .next s
  | some j =>
    let higher := s.liveJobs.any (fun k => decide (k.group = g.toNat) && decide (k.state = .queued) && decide (j.prio < k.prio))
    if !(j.state = .running) || j.killed || !higher || !(s.areaFree g.toNat) || s.stopped ||
        (SMap.find s.recoveries g.toNat).isSome then .next s
    else
      let t := s.beginPreempt j
      .next (t.liveJobs.foldl (fun u k =>
        if decide (k.group = g.toNat) && k.waitSince.isSome then u.setJob { k with waitSince := none, waitNs := k.waited s.now } else u) t)

/-- The physical pages of a job's LIVE regions. -/
def State.livePagesOf (s : State) (j : Job) : List Nat :=
  ((j.live.map livePages).flatten).filterMap (fun va => match s.walk va false 4 0 j.root with
    | .ok (pa, _) => some (pa / 4096)
    | .error _ => none)

/-- What the save areas take from the module: cores, arrays, LIVE contents, commands (R345, R347). -/
def State.savedOf (s : State) (j : Job) : Saved :=
  let pages := s.livePagesOf j
  let inPages := fun (a : Nat) => pages.contains (a / 4096)
  let keep := fun (c : Core) => if j.imemSave then c else { c with imem := [], imemStores := [] }
  { cores := j.placed.map (fun n => (n.toNat, keep (s.core n)))
    peony := (j.placed.filter (fun n => decide (n.toNat < 48))).map (fun n => (n.toNat, s.peonyAt n.toNat))
    live := s.mem.filter (fun e => inPages e.1 && (decide (sharedBase ≤ e.1) || decide (s.ownerOf (e.1 / 64) = j.id)))
    owned := s.owner.filter (fun e => inPages (64 * e.1) && decide (e.2 = j.id))
    bad := s.poison.filter (fun e => inPages (64 * e.1) && (decide (sharedBase ≤ 64 * e.1) || decide (s.ownerOf e.1 = j.id)))
    cmds := s.cmds.filter (fun c => decide (c.job = j.id)) }

/-- Does the response of a request of this kind land for a pre-empted job (R348): not a host's, nor a fill of speculation (R46)? -/
def ReqKind.lands (k : ReqKind) : Bool :=
  match k with
  | .host => false
  | .hostRead => false
  | .record => false
  | .fill => false
  | _ => true

/-- Does command id still await a response of the fabric pool? -/
def State.awaitsPool (s : State) (id : Nat) : Bool := s.reqs.any (fun r => decide (r.2.cmd = id + 1))

/-- The landing buffer's entries of partition p. -/
def State.landedIn (s : State) (p : Nat) : Nat := (s.landing.filter (fun l => decide (l.partition = p))).length

/-- Do the job's outstanding responses fit the landing buffers (R348)? -/
def State.landingFits (s : State) (j : Job) : Bool :=
  (s.partsOf j.group).all (fun p =>
    decide ((s.reqs.filter (fun r => r.2.kind.lands && decide (r.2.job = j.id) && decide (partOfCore r.2.core = p))).length + s.landedIn p ≤ 256))

/-- The save ends (R347, R348): every command of the job is unstarted, or started and waiting for responses of the fabric pool; the job is
pre-empted, its cores are idle. -/
def execSaveComplete (g : BitVec 4) (s : State) : Host.Outcome State Fault Refusal :=
  match s.runningJob g.toNat with
  | none => .next s
  | some j =>
    let mine := s.cmds.filter (fun c => decide (c.job = j.id))
    let still := mine.all (fun c => decide (c.phase = .queued) || s.awaitsPool c.id)
    if !(j.state = .saving) || j.killed || !still || !(s.landingFits j) || s.stopped then .next s
    else
      let saved0 := s.savedOf j
      let saved : Saved := { saved0 with cmds := saved0.cmds.map (fun c =>
        if decide (c.phase = .queued) then c else { c with suspended := true }) }
      let k : Job := { j with state := .preempted, saved := some saved, preempts := BitVec.ofNat 16 (satNat 16 (j.preempts.toNat + 1)),
                              lastSave := BitVec.ofNat 32 (satNat 32 (s.now - j.phaseSince).toNat), phaseSince := s.now }
      let t : State := { s with cmds := s.cmds.filter (fun c => !(c.job = j.id)) }
      let t := j.placed.foldl (fun u n => u.placeCore n Core.idle) t
      .next (((t.setJob k).bump Reg.hubPreempts 1).report k)

/-- A saved command returns to its queue; an empty hub-engine flow fills (R329, R347). -/
def State.requeue (s : State) (c : Cmd) : State :=
  let empty := !(s.cmds.any (fun d => sameQueue c.cls c.inst c.group d && decide (d.phase = .queued)))
  let t := { s with cmds := s.cmds ++ [{ c with suspended := false, granted := false }] }
  if decide (2 ≤ c.cls) && empty && decide (c.phase = .queued) then
    t.flowFills (1000 * c.cls + 16 * cmdSched c.word + c.group) (100 + c.cls)
  else t

/-- The LIVE contents return (R347): the job's own core-local units as they were, die-shared bytes as saved (R406). -/
def State.restoreLive (s : State) (j : Job) (x : Saved) : State :=
  let pages := s.livePagesOf j
  let shared := fun (a : Nat) => decide (sharedBase ≤ a) && pages.contains (a / 4096)
  let t : State := { s with mem := s.mem.filter (fun e => !(shared e.1)), poison := s.poison.filter (fun e => !(shared (64 * e.1))) }
  let t := x.owned.foldl (fun u e => (u.claim j.id e.1).setPoison e.1 false) t
  let t := { t with mem := x.live.foldl (fun m e => Mem.setByte m e.1 e.2) t.mem }
  x.bad.foldl (fun u e => u.setPoison e.1 true) t

/-- A core's fabric-pool load or AMO completes with its response (R322, R323, R354): the value, sign- or zero-extended, or the
fault of a code or of poisoned data at its address. In run-ahead a code is no fault, the load stalls (R41), and poisoned data is only
marked, with the state before the load, and counted (R42). -/
def State.poolAnswer (s : State) (n : CoreId) (code : Byte) (poison : Bool) (data : List Byte) : State :=
  let c := s.core n
  match c.blocked with
  | some (.pool _ rd bytes sx va off) =>
    let t := s.setCore n { c with blocked := none }
    let w := extendLoad bytes sx (leNat (bytesAt data off bytes))
    match c.runAhead with
    | none =>
      if code ≠ 0 then t.coreFault n code va.toNat
      else if poison then t.coreFault n 0xC0 va.toNat
      else t.writeG n rd w
    | some r =>
      if code ≠ 0 then t
      else if poison then
        let mark := match r.poison with
          | some x => some x
          | none => some (c.pc, c.g, c.p)
        (t.setCore n { t.core n with runAhead := some { r with poison := mark, errors := r.errors + 1 } }).writeG n rd w
      else t.writeG n rd w
  | _ => s

/-- The line a response fills joins the stream or node cache of its die (R146, R250, R251). -/
def State.lineArrives (s : State) (r : Req) (code : Byte) (poison : Bool) (data : List Byte) : State :=
  match r.line with
  | none => s
  | some l =>
    if code ≠ 0 ∨ data.length ≠ 256 then s
    else
      let t := s.fillLine { l with data := data, bad := poison }
      if l.node then t.trimNodes l.group (t.nodeShare l.group / 256) else t.trimStream l.die

/-- A host's read through BAR4 is complete once every piece is answered: its data goes back, with the Poisoned bit where a piece came
poisoned; a piece that failed makes the completion an Unsupported Request (R294, R354). -/
def State.hostReadArrives (s : State) (id : Nat) (p : PoolPart) : State :=
  match SMap.find s.hostReads id with
  | none => s
  | some x =>
    let parts := x.parts ++ [p]
    if parts.length < x.pieces.length then { s with hostReads := SMap.insert s.hostReads id { x with parts := parts } }
    else
      let t : State := { s with hostReads := SMap.erase s.hostReads id }
      let sorted := x.pieces.map (fun q => parts.find? (fun p => decide (p.pa = q.1)))
      if sorted.any (fun p => match p with
          | some p => decide (p.code ≠ 0)
          | none => true) then (t.bump Reg.pciBadAccess 1).send .unsupportedRequest
      else
        let ps := sorted.filterMap (fun p => p)
        t.send (.readData ((ps.map PoolPart.bytes).flatten) (ps.any PoolPart.poison))

/-- The response to a request arrives while its job is placed (R28, R322, R323): a write is acknowledged or has failed, and releases that
waited for it go on; a core's load or AMO completes; a command has its data, or the code that fails its read; a cache its line. -/
def State.respond (s : State) (tag : BitVec 16) (r : Req) (code : Byte) (poison : Bool) (data : List Byte) : State :=
  let part : PoolPart := { pa := r.pa, n := r.n, bytes := data, poison := poison, code := code }
  match r.kind with
  | .write =>
    let t := if code = 0 then s.dropHome r.home r.n
      else if (s.core r.core).job = r.job then s.failedWrite r.core r.cmd r.target code else s
    t.flushHeld
  | .read => s.landPart (r.cmd - 1) part
  | .rowAmo => (s.dropHome r.home r.n).landPart (r.cmd - 1) part
  | .fill => s.lineArrives r code poison data
  | .host => (if code = 0 then s else s.bump Reg.pciBadAccess 1).dropHome r.home r.n
  | .hostRead => s.hostReadArrives (r.cmd - 1) part
  | .record => (if code = 0 then s else s.submitError).dropHome r.home r.n
  | _ =>
    let t := if r.kind = .amo then s.dropHome r.home r.n else s.lineArrives r code poison data
    match (t.core r.core).blocked with
    | some (.pool x _ _ _ _ _) => if x = tag && decide ((t.core r.core).job = r.job) then t.poolAnswer r.core code poison data else t
    | _ => t

/-- A landed response reaches the core or command it was for, as if it had arrived while the job ran (R348). -/
def State.deliver (s : State) (l : Landed) : State := s.respond l.tag l.req l.code l.poison l.data

/-- The restore ends (R347): cores, arrays, LIVE contents and commands return, landed responses are delivered, issue resumes. -/
def execRestoreComplete (g : BitVec 4) (s : State) : Host.Outcome State Fault Refusal :=
  match s.runningJob g.toNat with
  | none => .next s
  | some j => match j.state, j.saved with
    | .restoring, some x =>
      if s.stopped then .next s
      else
        let t := s.restoreLive j x
        let t := t.clearUnplaced j.group j.placed
        let imem := ((s.jobImage j).map imageMem).getD []
        let t := x.cores.foldl (fun u e => u.placeCore (BitVec.ofNat 6 e.1) (if j.imemSave then e.2 else { e.2 with imem := imem })) t
        let t := x.peony.foldl (fun u e => u.setPeony e.1 e.2) t
        let t := x.cmds.foldl State.requeue t
        let ls := t.landing.filter (fun l => l.req.job = j.id)
        let k : Job := { j with state := .running, saved := none, phaseSince := s.now,
                                lastRestore := BitVec.ofNat 32 (satNat 32 (s.now - j.phaseSince).toNat) }
        let t := ({ t with landing := t.landing.filter (fun l => !(l.req.job = j.id)) } : State).setJob k
        let t := ls.foldl State.deliver t
        .next (((t.traceTagged j.group 0xF000 0x07 0 j.id 0 0 0).report k).reconsider g.toNat)
    | _, _ => .next s

end Sys2Proof.Machine
end

