-- ==== Sys2Proof/Machine/Marigold.lean ====
section
/-!
DEFINITION. Marigold (R351–R364): path checks, scrub, unit failure, recovery restart, fatal faults, the loss of peers.
-/

namespace Sys2Proof.Machine

/-! ### Units (Table 15.8) -/

/-- The logical Peony core that runs on physical core n, if one does. -/
def State.logicalOf (s : State) (n : Nat) : Option Nat := (List.range 48).find? (fun k => decide (s.physCore k = n))

/-- The control core a unit is, or is served by. -/
def State.coreOfUnit (s : State) (unit : BitVec 16) : Option CoreId :=
  let n := fld unit 0 12
  match fld unit 12 4 with
  | 0 => (s.logicalOf n).map (BitVec.ofNat 6)
  | 1 => if n < 16 then some (BitVec.ofNat 6 (48 + n)) else none
  | 2 => if n < 64 then some (BitVec.ofNat 6 n) else none
  | _ => none

/-- The job a unit serves; 0 none. -/
def State.jobOfUnit (s : State) (unit : BitVec 16) : BitVec 16 :=
  match s.coreOfUnit unit with
  | some n => (s.core n).job
  | none => 0

/-- The partitions that fail with a unit (Table 15.3): the core's, the pseudo-channel's, the die's four. -/
def State.partsOfUnit (s : State) (unit : BitVec 16) : List Nat :=
  let n := fld unit 0 12
  match fld unit 12 4 with
  | 3 => if n < 256 then [n / 64 * 4 + n % 64 / 16] else []
  | 4 => if n < 4 then (List.range 4).map (fun i => 4 * n + i) else []
  | _ => match s.coreOfUnit unit with
    | some c => [partOfCore c]
    | none => []

/-! ### Path checks (R352) -/

/-- A failed path check: the sender resends the unit once, counted and logged as PATH_RETRY. -/
def execPathRetry (unit : BitVec 16) (s : State) : Host.Outcome State Fault Refusal :=
  let t := s.corrected 0x03 unit (s.jobOfUnit unit) 1
  .next { t with retried := unit :: t.retried.filter (fun u => !(u = unit)) }

/-- A second failure of the transfer fails the sending unit. -/
def execPathFail (unit : BitVec 16) (s : State) : Host.Outcome State Fault Refusal :=
  if !(s.retried.contains unit) then .next s
  else
    let t := s.logEvent 0x04 2 unit (s.jobOfUnit unit) 0
    .next { t with retried := t.retried.filter (fun u => !(u = unit)), failing := unit :: t.failing.filter (fun u => !(u = unit)) }

/-! ### Scrub and calibration (R353, R355) -/

/-- A pass over SRAM takes SCRUB_SRAM_S seconds, in ns (R355). -/
def State.sramPassNs (s : State) : Nat := Nat.max 1 (s.regFld Reg.mgdCfg 8 8) * 1000000000

/-- A pass over HBM takes SCRUB_HBM_H hours, in ns (R355). -/
def State.hbmPassNs (s : State) : Nat := Nat.max 1 (s.regFld Reg.mgdCfg 0 8) * 3600000000000

/-- The rows' error counts begin anew for SRAM, or for HBM. -/
def clearRows (m : SMap RowHealth) (sram : Bool) : SMap RowHealth :=
  m.map (fun e => if (decide (8 * 2 ^ 32 ≤ e.1)) == sram then (e.1, ({ e.2 with errors := 0 } : RowHealth)) else e)

/-- An SRAM pass that has ended begins anew. -/
def State.sramPass (s : State) : State :=
  if s.sramPassNs ≤ (s.now - s.passSram).toNat then { s with passSram := s.now, rows := clearRows s.rows true } else s

/-- An HBM pass that has ended begins anew. -/
def State.hbmPass (s : State) : State :=
  if s.hbmPassNs ≤ (s.now - s.passHbm).toNat then { s with passHbm := s.now, rows := clearRows s.rows false } else s

/-- The scrub passes that have ended begin anew, their rows' counts at zero. -/
def State.scrubPasses (s : State) : State := s.sramPass.hbmPass

/-- The unit that holds a memory address (Table 15.8): the physical Peony core of core-local SRAM, the petal die of die-shared SRAM, the
pseudo-channel of HBM, 256-byte units of a partition's range in turn over its 16 (R11, R242). -/
def State.unitOfPa (s : State) (pa : Nat) : BitVec 16 :=
  match regionOf pa with
  | .coreLocal => BitVec.ofNat 16 (s.physCore (pa / (128 * mib)))
  | .shared => BitVec.ofNat 16 (0x4000 + dieOfPa pa)
  | _ => BitVec.ofNat 16 (0x3000 + 16 * hbmPart pa + (pa - hbmBase) % (24 * gib) / 256 % 16)

/-- The HBM stack that holds an address; 8 for SRAM. -/
def stackOfPa (pa : Nat) : Nat := if regionOf pa = .hbm then hbmPart pa / 2 else 8

/-- Scrub reads one word (R355): a corrected error is counted and written back, an uncorrectable one poisons its unit (R353);
a row with three corrected errors in a pass awaits its repair. -/
def execScrub (pa : BitVec 48) (row : BitVec 32) (result : BitVec 2) (s : State) : Host.Outcome State Fault Refusal :=
  if !(Instr.scrub pa row result).wf then .fault .illFormed else
  if !(isRam pa.toNat) || s.selfRefresh then .next s
  else
    let t := s.scrubPasses
    let job := if regionOf pa.toNat = .coreLocal then t.ownerOf (pa.toNat / 64) else 0
    let unit := t.unitOfPa pa.toNat
    match result.toNat with
    | 1 =>
      let k := 2 ^ 32 * stackOfPa pa.toNat + row.toNat
      let h := SMap.get RowHealth.good t.rows k
      let h : RowHealth := { h with errors := h.errors + 1, awaiting := h.awaiting || decide (3 ≤ h.errors + 1) }
      .next (({ t with rows := SMap.set RowHealth.good t.rows k h } : State).corrected 0x01 unit job (BitVec.setWidth 64 pa))
    | 2 =>
      if SMap.get false t.poison (pa.toNat / 64) then .next t
      else .next (((t.setPoison (pa.toNat / 64) true).bump Reg.mgdUe 1).logEvent 0x02 1 unit job (BitVec.setWidth 64 pa))
    | _ => .next t

/-- A stack's calibration window performs its soft repairs (R355); it pauses while HBM is in self-refresh (R371). -/
def execHbmCalibration (stack : BitVec 3) (s : State) : Host.Outcome State Fault Refusal :=
  if s.selfRefresh then .next s
  else .next { s with rows := s.rows.map (fun e =>
    if decide (e.1 / 2 ^ 32 = stack.toNat) && e.2.awaiting then (e.1, ({ e.2 with awaiting := false, soft := true } : RowHealth)) else e) }

/-! ### Peers and ports -/

/-- The one-word packet that reports a lost peer (R363). -/
def peerWord (peer port : Nat) (now : Word) : QWord :=
  wordOfBytes (toLE 2 peer ++ toLE 1 port ++ zeros 5 ++ toLE 8 now.toNat ++ zeros 16) true

/-- Port p's peer is lost (R363): logged, and put on the queue of MGD_PEER_Q when EN = 1. -/
def State.peerLost (s : State) (p : Nat) : State :=
  let x := s.port p
  if x.lostReported then s
  else
    let t := s.setPort p { x with lostReported := true }
    let t := t.logEvent 0x09 1 (BitVec.ofNat 16 (0x5000 + p)) 0 (BitVec.setWidth 64 x.peer)
    let q := t.reg Reg.mgdPeerQ
    if bitAt q 15 then t.unitPut (fld q 0 12) (peerWord x.peer.toNat p t.now) else t

/-- Port p's recording has ended, complete or not (R366). -/
def State.endRecording (s : State) (p : Nat) (incomplete : Bool) : State :=
  let t := s.setRegFld Reg.mgdCutStatus (8 + p) 1 0
  if incomplete then t.setRegFld Reg.mgdCutStatus (16 + p) 1 1 else t

/-- Is port p still recording? -/
def State.portRecords (s : State) (p : Nat) : Bool := s.stopped && bitAt (s.reg Reg.mgdCutStatus) (8 + p)

/-- Does a received message outlive its link: not what belongs to the link itself, credits, time alignment and answers to words? -/
def Msg.outlives (m : Msg) : Bool := !(m.typ = 0x08 || m.typ = 0x0A || m.typ = 0x0C)

/-- A port without its link: flits in its replay buffer and streams are discarded (R313), credits gone; whole messages received stay, a cut's
channel state among them (R370, R371). -/
def Port.dropped (x : Port) (st : PortState) : Port :=
  { x with state := st, lanes := 0, half := false, version := 0, txSeq := 0, txWraps := 0, rxSeq := 0, rxWraps := 0, replay := [], resends := 0,
           helloHeard := false, rxStream := [], arrived := x.arrived.filter Msg.outlives, txStream := [], credits := [], lock := false, retrain := false,
           syncT1 := none, hops := none, heard := none }

/-- Port p loses its link and goes to a state: words sent on it and not answered are to be sent again (R327), a recording of it ends
INCOMPLETE (R366). -/
def State.dropPort (s : State) (p : Nat) (st : PortState) : State :=
  let u := s.setPort p ((s.port p).dropped st)
  let t := if u.portRecords p then u.endRecording p true else u
  { t with stem := t.stem.map (fun e => (e.1, match e.2.head with
    | none => e.2
    | some h => { e.2 with head := some { h with awaiting := h.awaiting &&& ~~~(BitVec.ofNat 8 (2 ^ p)) } })) }

/-- Every Fjorin port is disabled (R364, R397). -/
def State.disablePorts (s : State) : State := (List.range 8).foldl (fun t p => t.dropPort p .disabled) s

/-! ### Fatal faults (R364) -/

/-- A module-fatal fault: every group stops, the event is logged, the primary log is copied, the ports are disabled. -/
def State.fatalFault (s : State) (arg : Word) : State :=
  if s.fatal then s
  else
    let t := s.logEvent 0x10 3 0xF000 0 arg
    { t.disablePorts with fatal := true, savedLog := some (t.logPrimary, t.reg Reg.mgdLogWr) }

/-- A module-fatal fault (R364). -/
def execFatal (s : State) : Host.Outcome State Fault Refusal := .next (s.fatalFault 0)

/-! ### Unit failure (R357, R358) -/

/-- The SRAM of logical Peony core n is zeroed and owned by nobody (Table 15.3, R406). -/
def State.zeroCoreSram (s : State) (n : Nat) : State :=
  let here := fun (a : Nat) => decide (a / (128 * mib) = n)
  { s with mem := s.mem.filter (fun e => !(here e.1)), owner := s.owner.filter (fun e => !(here (64 * e.1)))
           poison := s.poison.filter (fun e => !(here (64 * e.1))) }

/-- A Peony core, or its control core, fails: the die's spare takes its number, its SRAM zeroed; else the logical core leaves
HUB_PEONY_MAP (R12, Table 15.3). -/
def State.failPeony (s : State) (phys : Nat) : State :=
  let d := phys / 13
  let good := s.reg Reg.hubPeonyMap
  let t := s.setReg Reg.hubPeonyMap (good &&& ~~~(BitVec.ofNat 64 (2 ^ phys)))
  match s.logicalOf phys with
  | none => t
  | some n =>
    if bitAt (s.reg Reg.hubDieStatus) (8 * d + 6) || !(bitAt good (13 * d + 12)) then t
    else
      let t := (t.setRegFld Reg.hubDieStatus (8 * d) 4 (n % 12)).setRegFld Reg.hubDieStatus (8 * d + 6) 1 1
      let t := (t.zeroCoreSram n).setPeony n PeonyCore.reset
      t.logEvent 0x07 1 (BitVec.ofNat 16 phys) (t.core (BitVec.ofNat 6 n)).job (BitVec.ofNat 64 n)

/-- A Lupin engine, or its control core, fails: its LUPIN_GOOD bit is cleared. -/
def State.failLupin (s : State) (e : Nat) : State := s.setRegFld Reg.hubEngineMap e 1 0

/-- What leaves service with a unit (Table 15.3). -/
def State.outOfService (s : State) (unit : BitVec 16) : State :=
  let n := fld unit 0 12
  match fld unit 12 4 with
  | 0 => if n < 52 then s.failPeony n else s
  | 1 => if n < 16 then s.failLupin n else s
  | 2 => if n < 48 then s.failPeony (s.physCore n) else if n < 64 then s.failLupin (n - 48) else s
  | 3 => if n < 256 then { s with hbmOff := s.hbmOff ||| BitVec.ofNat 16 (2 ^ (n / 64 * 4 + n % 64 / 16)) } else s
  | 4 =>
    if n < 4 then { s.setRegFld Reg.hubDieStatus (8 * n + 7) 1 0 with
      dieOff := s.dieOff ||| BitVec.ofNat 4 (2 ^ n), hbmOff := s.hbmOff ||| BitVec.ofNat 16 (15 * 2 ^ (4 * n)) } else s
  | 7 =>
    let cls := n / 256
    if 2 ≤ cls ∧ cls ≤ 8 then { s with unitsLost := SMap.set 0 s.unitsLost n 1 } else s
  | _ => s

/-- Is it a unit of Table 15.3? -/
def unitFails (unit : BitVec 16) : Bool :=
  let n := fld unit 0 12
  match fld unit 12 4 with
  | 0 => decide (n < 52)
  | 1 => decide (n < 16)
  | 2 => decide (n < 64)
  | 3 => decide (n < 256)
  | 4 => decide (n < 4)
  | 7 => decide (2 ≤ n / 256) && decide (n / 256 ≤ 8)
  | 15 => true
  | _ => false

/-- A started command on a failed unit completes with 0xC1 (R358); a re-rank session among them ends with it. -/
def State.failCmd (s : State) (c : Cmd) : State :=
  match SMap.find s.sessions c.id with
  | some x => s.endSession c x 0xC1 0
  | none => (s.loadFailed c).workDone c 0xC1 0

/-- Do the commands of a Peony or Lupin engine run on the failed unit: all those of its instance? -/
def State.runsOn (s : State) (unit : BitVec 16) (c : Cmd) : Bool :=
  match s.coreOfUnit unit with
  | some n => decide (c.cls < 2) && decide (servingCore c.cls c.inst = n)
  | none => false

/-- A unit fails (R357, R358): logged, its started commands complete with 0xC1, it leaves service, its group recovers (R360);
hub logic outside the engines is fatal. A pressing of the hung unit comes first (R424). -/
def execUnitFailed (unit : BitVec 16) (running : List Nat) (s : State) : Host.Outcome State Fault Refusal :=
  let pressed := match s.press with
    | some p => decide (p.cause = 4) && decide (p.hung = unit)
    | none => false
  if !(unitFails unit) || pressed then .next s
  else if fld unit 12 4 = 15 then .next (s.fatalFault 0)
  else
    let groups := (s.partsOfUnit unit).map s.groupOf
    let t := s.logEvent 0x06 2 unit (s.jobOfUnit unit) 0
    let hit := t.cmds.filter (fun c => decide (c.phase = .started) && (s.runsOn unit c || running.contains c.id))
    let t := hit.foldl State.failCmd t
    let t := t.outOfService unit
    let t := groups.foldl (fun u g => u.beginRecovery g 0xC1 unit) t
    .next { t with failing := t.failing.filter (fun u => !(u = unit)) }

/-! ### Recovery restart (R360) -/

/-- Group g's job is lost in its recovery: logged, ended with a code. -/
def State.loseJob (s : State) (j : Job) (r : Recovery) (code : Byte) : State :=
  let t := j.placed.foldl State.idleCore s
  (t.logEvent 0x0E 2 r.unit j.id (BitVec.ofNat 64 code.toNat)).endJob j code

/-- Restarts of the job in the last 10 s. -/
def Job.recent (j : Job) (now : Word) : List Word := j.restartTimes.filter (fun t => decide ((now - t).toNat < 10000000000))

/-- The restart itself: the job is placed again and every core starts at RENTRY with RECORD, the fault code and the unit. -/
def State.restartJob (s : State) (j : Job) (r : Recovery) (placed : List CoreId) (image : List Byte) : State :=
  let entry := BitVec.ofNat 18 (s.regFld (Reg.mgdGrpRentry j.group) 0 18 / 4 * 4)
  let core := (((Core.starting j.id entry (imageMem image)).setG 1 (s.reg (Reg.mgdGrpRecover j.group) &&& 0xFFFFFFFFFFFF)).setG 2
    (BitVec.setWidth 64 r.code)).setG 3 (BitVec.setWidth 64 r.unit)
  let t := j.placed.foldl State.idleCore s
  let t := ({ t with reqs := t.reqs.filter (fun e => !(e.2.job = j.id)), recoveries := SMap.erase t.recoveries j.group } : State).flushHeld
  let t := (t.squashSpec j.group j.id).clearUnplaced j.group placed
  let t := placed.foldl (fun u n => u.placeCore n core) t
  let k : Job := { j with placed := placed, restarts := BitVec.ofNat 16 (satNat 16 (j.restarts.toNat + 1)),
                          restartTimes := s.now :: j.recent s.now }
  let t := ((t.setJob k).kickDog j.group).bump Reg.mgdRecoveries 1
  (t.logEvent 0x0D 1 r.unit j.id (BitVec.setWidth 64 r.code)).report k

/-- After its started commands have completed, the group's job restarts (R360): its open sessions end first; 0xC2 without EN,
0xC3 at a fourth restart within 10 s, 0xB2 with too few cores. -/
def execRecoveryRestart (g : BitVec 4) (s : State) : Host.Outcome State Fault Refusal :=
  match SMap.find s.recoveries g.toNat, s.runningJob g.toNat with
  | some r, some j =>
    if s.stopped || s.tripped || j.killed then .next s
    else if s.sessions.any (fun e => match s.cmd e.1 with
        | some c => decide (c.job = j.id)
        | none => false) then .next (s.endSessions j.id)
    else if s.cmds.any (fun c => decide (c.job = j.id) && !(decide (c.phase = Phase.queued))) then .next s
    else
      let t := s.dropUnstarted j.id
      if !(bitAt (t.reg (Reg.mgdGrpRentry g.toNat)) 31) then .next (t.loseJob j r 0xC2)
      else if 3 ≤ (j.recent t.now).length then .next (t.loseJob j r 0xC3)
      else match t.placement j.group j.nPeony j.nLupin, t.jobImage j with
        | some placed, some image => .next (t.restartJob j r placed image)
        | none, _ => .next (t.loseJob j r 0xB2)
        | _, none => .next (t.loseJob j r 0xB0)
  | some _, none => .next { s with recoveries := SMap.erase s.recoveries g.toNat }
  | _, _ => .next s

/-! ### Pressings and hangs -/

/-- Would a pressing start now? -/
def State.pressFree (s : State) : Bool := s.press.isNone && decide (s.regFld Reg.dbgPressCfg 0 8 ≠ 0)

/-- A pressing starts (R424): one that runs goes on; an area of size 0 disables pressing. -/
def State.startPress (s : State) (cause group : Nat) (job hung : BitVec 16) (follow : Nat) : State :=
  if !s.pressFree then s
  else
    let t := ((s.setRegFld Reg.dbgPressStatus 30 2 1).setRegFld Reg.dbgPressStatus 27 3 cause).setRegFld Reg.dbgPressStatus 0 24 0
    { t with press := some { cause := cause, group := group, job := job, began := s.now, hung := hung, follow := follow } }

/-- Group g's sessions give up their speculative work in progress (R47): candidates go back to be scored in their turn. -/
def State.squashSessions (s : State) : State :=
  s.sessions.foldl (fun t e =>
    let spec := e.2.speculative
    let back := if e.2.final.isSome then [] else spec.map Cand.id ++ e.2.gathering
    let y : Session := { e.2 with shadow := [], settling := [], gather := if e.2.gathering.isEmpty then e.2.gather else none,
                                  batches := e.2.batches.map (fun b => if b.spec then { b with cands := [] } else b) }
    let x : Session := { y with waiting := if y.final.isSome then y.anew else y.waiting ++ back }
    let g := match s.cmd e.1 with
      | some c => s.groupOfCore c.core
      | none => 0
    let t := if e.2.gathering.isEmpty then t else { t with rowReads := SMap.erase t.rowReads e.1 }
    { t.squashCands g spec with sessions := SMap.insert t.sessions e.1 x }) s

/-- The bytes of a CUT_MARK (R366): the CUT_ID. -/
def cutPayload (id : BitVec 32) : List Byte := toLE 4 id.toNat

/-- A global stop starts with a CUT_ID (R365, R366): every unit stops, speculative work is squashed (R47), every up port sends
CUT_MARK and records until its own arrives; a port that is down is INCOMPLETE. A module already stopping goes on (R367). -/
def State.beginStop (s : State) (id : BitVec 32) : State :=
  if s.stopped then s
  else
    let ups := (List.range 8).filter s.portUp
    let mask := fun (ps : List Nat) => (ps.map (fun p => 2 ^ p)).foldl (· + ·) 0
    let t := (List.range 64).foldl (fun u n => u.squashAhead (BitVec.ofNat 6 n)) s
    let t := ((t.squashSessions).squashPassages (fun _ => true)).evict (fun l => !l.used)
    let t := ups.foldl (fun u p => u.sendLink p 0x0B 0 (cutPayload id)) t
    let t := t.setReg Reg.mgdCutStatus (BitVec.ofNat 64 (id.toNat * 2 ^ 32 + (255 - mask ups) * 2 ^ 16 + mask ups * 256 + 1))
    { t with stopped := true, stop := { t.stop with count := t.stop.count + 1, began := s.now } }

/-- The CUT_ID of a stop that starts here (R365). -/
def State.ownCutId (s : State) : BitVec 32 := BitVec.ofNat 32 (s.moduleId * 65536 + s.stop.count % 65536)

/-- Can a unit hang: Peony cores, Lupin engines, control cores, hub-engine units (Table 15.2)? -/
def unitHangs (unit : BitVec 16) : Bool := unitFails unit && [0, 1, 2, 7].contains (fld unit 12 4)

/-- Has a unit had work pending for HANG_MS (R356): a running control core since its job last changed STATE, an engine since it accepted a
command it has not completed? -/
def State.pendingLong (s : State) (unit : BitVec 16) : Bool :=
  let long := fun (t : Word) => decide (s.regFld Reg.mgdCfg 16 8 * 1000000 ≤ (s.now - t).toNat)
  match fld unit 12 4 with
  | 2 => (match s.coreOfUnit unit with
    | some n => decide ((s.core n).state = .running) && (match s.job (s.core n).job with
      | some j => long j.phaseSince
      | none => false)
    | none => false)
  | 7 => s.cmds.any (fun c => decide (c.cls = fld unit 8 4) && long c.since)
  | _ => s.cmds.any (fun c => s.runsOn unit c && long c.since)

/-- A unit is hung (R356), having work pending and completing no handshake for HANG_MS: logged; with PRESS_ON_HANG its group is pressed (R424); with STOP_ON_HANG the module stops, else the unit
has failed (R357). Suspended during a trip (R397) and a stop; a core stopped at BRK is not hung (R428). -/
def execHangDetect (unit : BitVec 16) (s : State) : Host.Outcome State Fault Refusal :=
  let brk := match s.coreOfUnit unit with
    | some n => (s.core n).brkStop || (s.core n).brkDrain
    | none => false
  if s.tripped || s.stopped || s.fatal || brk || !(unitHangs unit) || !(s.pendingLong unit) then .next s
  else
    let t := s.logEvent 0x05 2 unit (s.jobOfUnit unit) (BitVec.ofNat 64 (s.regFld Reg.mgdCfg 16 8))
    let t := if bitAt (t.reg Reg.dbgPressCfg) 63 then
        t.startPress 4 ((((t.partsOfUnit unit).map t.groupOf).head?).getD 16) (t.jobOfUnit unit) unit 0 else t
    if bitAt (t.reg Reg.mgdCfg) 24 then .next (t.beginStop t.ownCutId)
    else .next { t with failing := unit :: t.failing.filter (fun u => !(u = unit)) }

/-- MGD_STOP_CTRL is written (R365): STOP starts a stop; ignored during one (R367). -/
def execStop (v : BitVec 32) (s : State) : Host.Outcome State Fault Refusal :=
  if bitAt v 0 && decide (1 ≤ s.start.stage) then .next (s.beginStop s.ownCutId) else .next s

/-- A marker with a CUT_ID arrives on port p (R365–R367). -/
def State.takeCutMark (s : State) (p : Nat) (id : BitVec 32) : State :=
  if s.stopped then
    let cur := s.regFld Reg.mgdCutStatus 32 32
    let t := if decide (s.regFld Reg.mgdCutStatus 0 2 = 1) && decide (id.toNat < cur) then s.setRegFld Reg.mgdCutStatus 32 32 id.toNat else s
    t.endRecording p false
  else (s.beginStop id).endRecording p false

/-- A port whose marker has not arrived within 10 ms of the start (R366). -/
def execCutMarkTimeout (p : BitVec 3) (s : State) : Host.Outcome State Fault Refusal :=
  if s.portRecords p.toNat && decide (10000000 ≤ (s.now - s.stop.began).toNat) then .next (s.endRecording p.toNat true) else .next s

end Sys2Proof.Machine
end

