-- ==== Sys2Proof/Machine/Fabric.lean ====
section
/-!
DEFINITION. Fjorin ports (R310–R315, R408): training, HELLO, flits and replay, encryption, flow control, the egress scheduler
(R329–R331), time alignment (R332).
-/

namespace Sys2Proof.Machine

/-! ### Link keys and flits (R312, R408) -/

/-- Is LINK_ENC in effect? -/
def State.linkEnc (s : State) : Bool := bitAt (s.reg Reg.secPolicy) 1

/-- The key of one direction of port p's link (R408): sender to receiver, with the nonces of this training. -/
def State.linkKey (s : State) (p : Nat) (sending : Bool) : BitVec 256 :=
  let x := s.port p
  let me := s.moduleId
  let him := x.peer.toNat
  let info := toLE 2 (Nat.min me him) ++ toLE 2 (Nat.max me him) ++ toLE 2 (if sending then me else him) ++
    toLE 8 (if sending then x.nonce else x.peerNonce).toNat ++ toLE 8 (if sending then x.peerNonce else x.nonce).toNat
  Config.hkdf256 (s.sec.key.getD 0) info

/-- The key stream of a flit's bytes 8–251 (R408). -/
def keyStream (key : BitVec 256) (sender port : Nat) (wraps seq : BitVec 32) : List Byte :=
  ((List.range 16).map (fun i =>
    toLE 16 (Config.aes256 key (BitVec.ofNat 128 (leNat (toLE 2 sender ++ toLE 1 port ++ zeros 1 ++ toLE 4 wraps.toNat ++
      toLE 4 seq.toNat ++ toLE 4 i)))).toNat)).flatten.take 244

/-- The bytes of xs changed by a key stream. -/
def xorBytes (xs ks : List Byte) : List Byte := List.zipWith (· ^^^ ·) xs ks

/-- A payload as it stands in a flit, or back, in counter mode. -/
def State.crypt (s : State) (p : Nat) (sending : Bool) (wraps seq : BitVec 32) (payload : List Byte) : List Byte :=
  if s.linkEnc then
    let x := s.port p
    xorBytes payload (keyStream (s.linkKey p sending) (if sending then s.moduleId else x.peer.toNat)
      (if sending then p else x.peerPort.toNat) wraps seq)
  else payload

/-- A flit (Table 13.2). -/
def flitBytes (seq : BitVec 32) (ack : BitVec 32) (kind : Nat) (payload : List Byte) : List Byte :=
  let b := toLE 4 seq.toNat ++ toLE 3 ack.toNat ++ toLE 1 kind ++ payload.take 244 ++ zeros (244 - payload.length)
  b ++ toLE 4 (crc32c b).toNat

/-- Port p sends a flit of a kind. -/
def State.sendFlit (s : State) (p : Nat) (seq : BitVec 32) (kind : Nat) (payload : List Byte) : State :=
  s.send (.flit p (flitBytes seq (s.port p).rxSeq kind payload))

/-- Acknowledged flits leave the replay buffer: ack resolved in the window from the oldest on (R312). -/
def State.acked (s : State) (p : Nat) (ack : BitVec 24) : State :=
  let x := s.port p
  match x.replay with
  | [] => s
  | (oldest, _) :: _ =>
    let d := (BitVec.ofNat 24 ack.toNat - BitVec.setWidth 24 oldest).toNat
    if d = 0 ∨ x.replay.length < d then s
    else s.setPort p { x with replay := x.replay.drop d, resends := 0, progress := s.now }

/-- Every unacknowledged flit is sent again from the oldest on (R312). -/
def State.resend (s : State) (p : Nat) : State :=
  let x := s.port p
  if x.replay.isEmpty then s
  else
    let t := s.setPort p { x with resends := x.resends + 1, progress := s.now }
    (x.replay.foldl (fun u e => u.sendFlit p e.1 0 e.2) t).bump (Reg.fjlPcnt p 2) x.replay.length

/-- A message's bytes are sent in DATA flits, each kept until it is acknowledged; a message begins a flit and zeros fill its last
one (log entry). -/
def State.sendBytes (s : State) (p : Nat) : Nat → List Byte → State
  | 0, _ => s
  | fuel + 1, bs =>
    if bs.isEmpty then s
    else
      let x := s.port p
      let plain := bs.take 244 ++ zeros (244 - bs.length)
      let payload := s.crypt p true x.txWraps x.txSeq plain
      let t := s.sendFlit p x.txSeq 0 payload
      let next := x.txSeq + 1
      let t := t.setPort p { x with txSeq := next, txWraps := if next = 0 then x.txWraps + 1 else x.txWraps,
                                    replay := x.replay ++ [(x.txSeq, payload)],
                                    progress := if x.replay.isEmpty then s.now else x.progress }
      (t.bump (Reg.fjlPcnt p 3) 1).sendBytes p fuel (bs.drop 244)

/-- The message with a header's bytes (Table 13.3). -/
def parseMsg (bs : List Byte) : Msg :=
  { dst := BitVec.ofNat 16 (numAt bs 0 2), src := BitVec.ofNat 16 (numAt bs 2 2), typ := BitVec.ofNat 8 (numAt bs 4 1),
    cls := BitVec.ofNat 3 (numAt bs 5 1), vc := (numAt bs 5 1).testBit 3, ttl := BitVec.ofNat 8 (numAt bs 6 1),
    poison := (numAt bs 7 1).testBit 0, tag := BitVec.ofNat 16 (numAt bs 10 2), payload := bytesAt bs 16 (numAt bs 8 2),
    check := some (BitVec.ofNat 32 (numAt bs 12 4)) }

/-- A message is dropped on arrival at port p: counted, logged (R315). -/
def State.dropMsg (s : State) (p : Nat) (src : BitVec 16) : State :=
  (s.bump (Reg.fjlPcnt p 4) 1).logEvent 0x0B 1 (BitVec.ofNat 16 (0x5000 + p)) 0 (BitVec.setWidth 64 src)

/-- The payload of a LINK_CREDIT: one credit count a byte, by 2 * class + virtual channel (log entry). -/
def creditPayload (i : Nat) : List Byte := (List.range 16).map (fun k => if k = i then 1 else 0)

/-- Must a message have a credit of its class and virtual channel: those that a peer passes on or puts on a queue? -/
def needsCredit (t : Byte) : Bool := decide (t.toNat ≤ 7) || t = 0x09

/-- The credit of message m, which has left port p's buffer, goes back to the peer (R313). -/
def State.returnCredit (s : State) (p : Nat) (m : Msg) : State :=
  if needsCredit m.typ && (s.port p).state = .up then s.sendLink p 0x0C 0 (creditPayload (2 * m.cls.toNat + b2n m.vc)) else s

/-- Whole messages leave the byte stream of port p (R315): one of an invalid TYPE, or for this module with a failed DCHECK, is
dropped, its credit returned; zeros to the stream's end are filling. -/
def State.parseStream (s : State) (p : Nat) : Nat → List Byte → State
  | 0, bs => s.setPort p { s.port p with rxStream := bs }
  | fuel + 1, bs =>
    if allZero bs then s.setPort p { s.port p with rxStream := [] }
    else if bs.length < 16 then s.setPort p { s.port p with rxStream := bs }
    else
      let n := numAt bs 8 2
      if 512 < n then (s.dropMsg p (BitVec.ofNat 16 (numAt bs 2 2))).setPort p { s.port p with rxStream := [] }
      else if bs.length < 16 + n then s.setPort p { s.port p with rxStream := bs }
      else
        let m := parseMsg bs
        let link := decide (7 ≤ m.typ.toNat) && decide (m.typ ≠ 0x09)
        let here := link || decide (m.dst.toNat = s.moduleId)
        let bad := decide (m.typ = 0) || decide (0x0C < m.typ.toNat) ||
          (here && decide (numAt bs 12 4 ≠ (crc32c m.checked).toNat))
        let t := if bad then (s.dropMsg p m.src).returnCredit p m else s.setPort p { s.port p with arrived := (s.port p).arrived ++ [m] }
        t.parseStream p fuel (bs.drop (16 + n))

/-- A flit is received on port p (R312): a DATA flit in sequence is accepted, its messages arrive; any other is answered with a
NAK. -/
def execFlitReceive (p : BitVec 3) (flit : List Byte) (corrected uncorrectable : BitVec 8) (s : State) :
    Host.Outcome State Fault Refusal :=
  if !(Instr.flitReceive p flit corrected uncorrectable).wf then .fault .illFormed else
  let k := p.toNat
  let x := s.port k
  let s1 := if corrected = 0 then s else s.bump (Reg.fjlPcnt k 0) corrected.toNat
  let s1 := if uncorrectable = 0 then s1 else s1.bump (Reg.fjlPcnt k 1) uncorrectable.toNat
  if !(x.state = .up) then .next s1
  else
    let good := decide (flit.length = 256) && decide (numAt flit 252 4 = (crc32c (flit.take 252)).toNat) && decide (numAt flit 7 1 < 4)
    let kind := numAt flit 7 1
    let s2 := if good then s1.acked k (BitVec.ofNat 24 (numAt flit 4 3)) else s1
    let x := s2.port k
    if good && decide (kind = 1) then .next s2
    else if good && decide (2 ≤ kind) then .next s2
    else if good && decide (numAt flit 0 4 = x.rxSeq.toNat) then
      let payload := s2.crypt k false x.rxWraps x.rxSeq (bytesAt flit 8 244)
      let next := x.rxSeq + 1
      let t := s2.setPort k { x with rxSeq := next, rxWraps := if next = 0 then x.rxWraps + 1 else x.rxWraps }
      .next (t.parseStream k 64 (x.rxStream ++ payload))
    else .next (s2.sendFlit k 0 2 [])

/-- A NAK makes the sender resend from the oldest unacknowledged flit (R312). -/
def execNak (p : BitVec 3) (ack : BitVec 24) (s : State) : Host.Outcome State Fault Refusal :=
  if (s.port p.toNat).state = .up then .next ((s.acked p.toNat ack).resend p.toNat) else .next s

/-- After 2 µs without ACK progress the sender resends (R312). -/
def execReplayTimeout (p : BitVec 3) (s : State) : Host.Outcome State Fault Refusal :=
  let x := s.port p.toNat
  if x.state = .up && decide (2000 ≤ (s.now - x.progress).toNat) then .next (s.resend p.toNat) else .next s

/-! ### Training, HELLO, failure (R310–R314, R388) -/

/-- May port p carry a link: enabled, and for ports 6 and 7 with a role (R311)? -/
def State.portEnabled (s : State) (p : Nat) : Bool :=
  bitAt (s.reg (Reg.fjlPortCfg p)) 31 && (decide (p < 6) || decide (s.role p ≠ 3))

/-- Port p begins to train (R388). -/
def State.beginTraining (s : State) (p : Nat) (retrain : Bool) : State :=
  let t := s.dropPort p .training
  t.setPort p { t.port p with retrain := retrain, trainStart := s.now }

/-- A training attempt of port p succeeded: sequence numbers at 0, a fresh nonce (R312, R314), HELLO exchange begins. -/
def State.trained (s : State) (p : Nat) (lanes : BitVec 2) (half : Bool) : State :=
  let t := s.dropPort p .hello
  let x := t.port p
  ({ t with free := t.free + 1 } : State).setPort p
    { x with lanes := lanes, half := half, lock := true, nonce := Config.freeWord t.free, helloAt := s.now, helloSent := false, progress := s.now }

/-- A training attempt succeeds at 20 or 10 lanes (R310). -/
def execPortTrained (p : BitVec 3) (lanes : BitVec 2) (half : Bool) (s : State) : Host.Outcome State Fault Refusal :=
  if !(Instr.portTrained p lanes half).wf then .fault .illFormed else
  let x := s.port p.toNat
  if x.state = .training && !x.retrain && (lanes = 1 || lanes = 2) then .next (s.trained p.toNat lanes half) else .next s

/-- A fast retrain ends (R313): within 5 ms the link is trained again, else the port is down. -/
def execFastRetrain (p : BitVec 3) (lanes : BitVec 2) (half : Bool) (s : State) : Host.Outcome State Fault Refusal :=
  if !(Instr.fastRetrain p lanes half).wf then .fault .illFormed else
  let x := s.port p.toNat
  if !(x.state = .training && x.retrain) then .next s
  else if (lanes = 1 || lanes = 2) && decide ((s.now - x.trainStart).toNat ≤ 5000000) then .next (s.trained p.toNat lanes half)
  else .next ((s.peerLost p.toNat).dropPort p.toNat .failed)

/-- A failed attempt is repeated after 1–16 ms (R388). -/
def execTrainingRetry (p : BitVec 3) (s : State) : Host.Outcome State Fault Refusal :=
  let x := s.port p.toNat
  if x.state = .training && !x.retrain && decide (1000000 ≤ (s.now - x.trainStart).toNat) then
    .next (s.setPort p.toNat { x with trainStart := s.now }) else .next s

/-- The receiver gains or loses flit lock (R313). -/
def execFlitLock (p : BitVec 3) (gained : Bool) (s : State) : Host.Outcome State Fault Refusal :=
  let x := s.port p.toNat
  .next (s.setPort p.toNat (if gained then { x with lock := true } else if x.lock then { x with lock := false, lockLostAt := s.now } else x))

/-- Port p fails and makes one fast retrain (R313). -/
def State.failPort (s : State) (p : Nat) : State :=
  let t := s.logEvent 0x08 2 (BitVec.ofNat 16 (0x5000 + p)) 0 (BitVec.setWidth 64 (s.port p).peer)
  (if (s.port p).state = .up then t.peerLost p else t).beginTraining p true

/-- Has the port trained, so that it holds flit lock? -/
def PortState.linked (x : PortState) : Bool := x = .hello || x = .up || x = .versionFail || x = .peerMismatch

/-- A port is declared failed after 16 resends of one flit, or 1 ms without flit lock (R313). -/
def execPortFail (p : BitVec 3) (s : State) : Host.Outcome State Fault Refusal :=
  let x := s.port p.toNat
  if x.state.linked && (decide (16 ≤ x.resends) || (!x.lock && decide (1000000 ≤ (s.now - x.lockLostAt).toNat))) then
    .next (s.failPort p.toNat) else .next s

/-- The fabric key ID: the first 8 bytes of the key's SHA-384 (R405). -/
def Sec.keyId (x : Sec) : Option (BitVec 64) := x.key.map (fun k => BitVec.ofNat 64 (Config.sha384 (toLE 32 k.toNat)).toNat)

/-- The HELLO port p sends (R314, R408). -/
def State.ownHello (s : State) (p : Nat) : Hello :=
  let x := s.port p
  { module := BitVec.ofNat 16 s.moduleId, port := BitVec.ofNat 3 p, lanes := x.lanes, half := x.half, vmin := 2,
    vmax := if bitAt (s.reg (Reg.fjlPortCfg p)) 28 then 2 else 3, nonce := x.nonce, keyId := if s.linkEnc then s.sec.keyId else none }

/-- Is the peer the one port p must have (R311, R314)? -/
def State.peerFits (s : State) (p : Nat) (peer : Nat) : Bool :=
  match s.role p with
  | 0 => decide (peer = s.neighbour p)
  | 1 => decide (peer = s.regFld (Reg.fjlPortCfg p) 0 16)
  | 2 => decide (peer = s.neighbour (s.regFld (Reg.fjlPortCfg p) 23 3))
  | _ => false

/-- The state a HELLO of the peer settles port p in (R314, R408). -/
def State.settlePort (s : State) (p : Nat) (h : Hello) : PortState :=
  let mine := s.ownHello p
  let v := Nat.min mine.vmax.toNat h.vmax.toNat
  if v < mine.vmin.toNat ∨ v < h.vmin.toNat ∨ (s.linkEnc = true ∧ v = 2) then .versionFail
  else if s.linkEnc && (h.keyId.isNone || s.sec.keyId.isNone || decide (h.keyId ≠ s.sec.keyId)) then .peerMismatch
  else if !(s.peerFits p h.module.toNat) then .peerMismatch
  else .up

/-- Port p settles by a HELLO of its peer (R314). -/
def State.settledBy (s : State) (p : Nat) (h : Hello) : Port :=
  let x := s.port p
  let st := s.settlePort p h
  let v := Nat.min (s.ownHello p).vmax.toNat h.vmax.toNat
  { x with state := st, helloHeard := true, heard := some h, peer := h.module, peerPort := h.port, peerNonce := h.nonce,
           version := if st = .up then BitVec.ofNat 2 v else 0, lostReported := if st = .up then false else x.lostReported,
           half := x.half || h.half, progress := s.now }

/-- A HELLO flit settles the port (R314). -/
def execHello (p : BitVec 3) (h : Hello) (s : State) : Host.Outcome State Fault Refusal :=
  let k := p.toNat
  let x := s.port k
  if !(x.state = .hello || x.state = .versionFail || x.state = .peerMismatch) then .next s
  else .next (s.setPort k { s.settledBy k h with helloAt := s.now })

/-- A HELLO flit is sent at once after training and every 100 µs until the peer's arrives; again 10–100 ms after a version failure or
mismatch, when the port, which stays in that state, settles again by its peer's last HELLO (R314, R388). -/
def execHelloSend (p : BitVec 3) (s : State) : Host.Outcome State Fault Refusal :=
  let k := p.toNat
  let x := s.port k
  let failed := x.state = .versionFail || x.state = .peerMismatch
  let wait : Nat := if failed then 10000000 else if x.helloSent then 100000 else 0
  let may := x.state = .hello || failed || (x.state = .up && !x.helloSent)
  if may && decide (wait ≤ (s.now - x.helloAt).toNat) then
    let t := s.send (.hello k (s.ownHello k))
    let y := match x.heard with
      | some h => if failed then t.settledBy k h else x
      | none => x
    .next (t.setPort k { y with helloAt := s.now, helloSent := true })
  else .next s

/-! ### Flow control (R313) -/

/-- The first message that arrived on port p leaves the port; its credit goes back to the peer (R313). -/
def State.takeMsg (s : State) (p : Nat) : State :=
  let x := s.port p
  match x.arrived with
  | [] => s
  | m :: rest =>
    (s.setPort p { x with arrived := rest }).returnCredit p m

/-- Is the message one that modules pass on (Table 13.4)? -/
def Msg.routed (m : Msg) : Bool := decide (m.typ.toNat ≤ 6) || m.typ = 0x09

/-- The first message that arrived on port p, if it has the type and the module is not stopped; a routed one must be for this module, and
not at the end of its hops (R318). -/
def State.firstMsg (s : State) (p : Nat) (t : Byte) : Option Msg :=
  match (s.port p).arrived with
  | m :: _ =>
    if m.typ = t && !s.stopped && (!m.routed || (decide (m.dst.toNat = s.moduleId) && decide (1 < m.ttl.toNat))) then some m else none
  | [] => none

/-- A LINK_CREDIT returns credits (R313). -/
def execLinkCredit (p : BitVec 3) (s : State) : Host.Outcome State Fault Refusal :=
  match s.firstMsg p.toNat 0x0C with
  | none => .next s
  | some m =>
    let t := s.takeMsg p.toNat
    let x := t.port p.toNat
    let cs := (List.range 16).foldl (fun c i => SMap.set 0 c i (SMap.get 0 c i + numAt m.payload i 1)) x.credits
    .next (t.setPort p.toNat { x with credits := cs })

/-! ### Egress (R329–R331) -/

/-- May port p send the message now: its credit, and in a global stop only markers and time-stamps (R366, R368)? -/
def State.maySend (s : State) (p : Nat) (m : Msg) : Bool :=
  (!(needsCredit m.typ) || decide (0 < SMap.get 0 (s.port p).credits (2 * m.cls.toNat + b2n m.vc))) &&
    (!s.stopped || m.typ = 0x0A || m.typ = 0x0B)

/-- The weight of class c at a port (FJL_CLASS_WEIGHT). -/
def State.classWeight (s : State) (c : Nat) : Nat := Nat.max 1 (s.regFld Reg.fjlClassWeight (8 * (c - 2)) 8)

/-- What port p's egress may serve (R329). -/
def State.portCandidates (s : State) (p : Nat) : List Candidate :=
  (List.range 8).filterMap (fun c => match s.egress p c with
    | [] => none
    | w :: _ => if s.maySend p w.msg then
        some { cls := c, key := 8 * p + c, weight := s.classWeight c, shaper := s.reg (Reg.fjlShape p c),
               bucket := 8 * p + c, item := c } else none)

/-- Port p's egress serves the next flow (R329, R330): the message leaves in flits, at most 4,096 unacknowledged (R312). -/
def execSchedulerServe (p : BitVec 3) (s : State) : Host.Outcome State Fault Refusal :=
  let k := p.toNat
  let x := s.port k
  match s.pick (s.portCandidates k) with
  | none => .next s
  | some c => match s.egress k c.item with
    | [] => .next s
    | w :: rest =>
      let bs := w.msg.bytes
      if !(x.state = .up) || decide (4096 < x.replay.length + ceilDiv bs.length 244) then .next s
      else
        let t := s.setEgress k c.item rest
        let t := t.flowServes c.key c.bucket k (bs.length + s.regFld (Reg.fjlPortCfg k) 16 6) c.weight c.shaper (decide (2 ≤ c.cls))
        let y := t.port k
        let i := 2 * w.msg.cls.toNat + b2n w.msg.vc
        let t := if needsCredit w.msg.typ then t.setPort k { y with credits := SMap.set 0 y.credits i (SMap.get 0 y.credits i - 1) } else t
        .next (t.sendBytes k 8 bs)

/-- Port p samples its queues every SAMPLE_US (R331). -/
def execQueueSample (p : BitVec 3) (s : State) : Host.Outcome State Fault Refusal :=
  let k := p.toNat
  let x := s.port k
  if decide ((s.now - x.sampledAt).toNat < 1000 * s.regFld Reg.fjlSampleCfg 0 16) || s.stopped then .next s
  else
    let t := s.setPort k { x with sampledAt := s.now }
    .next ((List.range 8).foldl (fun u c =>
      let ws := s.egress k c
      let depth := satNat 32 (ws.map (fun w => w.msg.len)).sum
      let delay := match ws with
        | [] => 0
        | w :: _ => satNat 32 (s.now - w.since).toNat
      let v := u.setReg (Reg.fjlQsample k c) (BitVec.ofNat 64 (delay * 2 ^ 32 + depth))
      v.setReg (Reg.fjlQmaxdelay k c) (BitVec.ofNat 64 (Nat.max delay (v.regFld (Reg.fjlQmaxdelay k c) 0 32)))) t)

/-! ### Time alignment (R332) -/

/-- Is this module the time root? -/
def State.isRoot (s : State) : Bool := bitAt (s.reg Reg.fjlTimeCfg) 31

/-- The parent port: PARENT, or the up port whose peer advertises the fewest hops to the root; one that has advertised none is no
candidate. -/
def State.parentPort (s : State) : Option Nat :=
  if s.isRoot then none
  else if bitAt (s.reg Reg.fjlTimeCfg) 30 then
    ((List.range 8).filter (fun p => s.portUp p && (s.port p).hops.isSome)).foldl (fun best p => match best with
      | none => some p
      | some b => if (s.port p).hops.getD 255 < (s.port b).hops.getD 255 then some p else some b) none
  else some (s.regFld Reg.fjlTimeCfg 0 3)

/-- The hops to the root this module advertises. -/
def State.ownHops (s : State) : Nat :=
  if s.isRoot then 0 else match s.parentPort with
    | none => 255
    | some p => Nat.min 255 ((s.port p).hops.getD 255 + 1)

/-- A TIME_SYNC payload (log entry): 0 a request or 1 its answer, the sender's hops, t1, t2, t3 in 1/16 ns. -/
def syncPayload (answer : Bool) (hops t1 t2 t3 : Nat) : List Byte :=
  toLE 1 (b2n answer) ++ toLE 1 hops ++ toLE 8 t1 ++ toLE 8 t2 ++ toLE 8 t3

/-- A time-stamp in 1/16 ns. -/
def State.stamp (s : State) (frac : BitVec 4) : Nat := (16 * s.now.toNat + frac.toNat) % 2 ^ 64

/-- Once per millisecond each up port starts a TIME_SYNC exchange (R332). -/
def execTimeSyncSend (p : BitVec 3) (frac : BitVec 4) (s : State) : Host.Outcome State Fault Refusal :=
  let k := p.toNat
  let x := s.port k
  if x.state = .up && decide (1000000 ≤ (s.now - x.syncAt).toNat) then
    let t := s.setPort k { x with syncT1 := some (s.stamp frac : Nat), syncAt := s.now }
    .next (t.sendLink k 0x0A 0 (syncPayload false s.ownHops (s.stamp frac) 0 0))
  else .next s

/-- Device time is moved toward the parent's (R332): forward at once, or slowed; LOCKED after three offsets within ±2 ns. -/
def State.alignTo (s : State) (k : Nat) (off : Int) : State :=
  let ns := off / 16
  let good := if -32 ≤ off ∧ off ≤ 32 then s.align.good + 1 else 0
  let cl : Int := if 32767 < ns then 32767 else if ns < -32768 then -32768 else ns
  let ahead := decide (ns < 0)
  let v : Nat := b2n (decide (3 ≤ good)) * 2 ^ 31 + b2n ahead * 2 ^ 30 + k * 2 ^ 27 + (cl % 65536).toNat
  let t := s.setReg Reg.fjlTimeStatus (BitVec.ofNat 64 v)
  if 0 ≤ ns then { t with now := t.now + BitVec.ofNat 64 ns.toNat, align := { good := good, slowNs := 0, slowPhase := 0 } }
  else { t with align := { good := good, slowNs := (-ns).toNat, slowPhase := 0 } }

/-- A TIME_SYNC that arrived on port p: a request is answered; an answer gives the offset ((t2 − t1) − (t4 − t3)) / 2, which the
module follows on its parent port (R332). It may stand behind others that a global stop holds. -/
def execTimeSync (p : BitVec 3) (frac : BitVec 4) (s : State) : Host.Outcome State Fault Refusal :=
  let k := p.toNat
  let x := s.port k
  match x.arrived.find? (fun m => m.typ = 0x0A) with
  | none => .next s
  | some m =>
    let t := s.setPort k { x with arrived := x.arrived.erase m, hops := some (numAt m.payload 1 1) }
    let t1 := numAt m.payload 2 8
    if numAt m.payload 0 1 = 0 then
      .next (t.sendLink k 0x0A 0 (syncPayload true s.ownHops t1 (s.stamp frac) (s.stamp frac)))
    else match x.syncT1 with
      | none => .next t
      | some a =>
        if a ≠ t1 then .next t
        else
          let t2 : Int := numAt m.payload 10 8
          let t3 : Int := numAt m.payload 18 8
          let off := ((t2 - t1) - ((s.stamp frac : Int) - t3)) / 2
          let t := t.setPort k { t.port k with syncT1 := none }
          if t.parentPort = some k then .next (t.alignTo k off) else .next t

/-- A CUT_MARK that arrived on port p (R366, R367); it may stand behind the port's recorded items. -/
def execCutMark (p : BitVec 3) (s : State) : Host.Outcome State Fault Refusal :=
  let k := p.toNat
  let x := s.port k
  match x.arrived.find? (fun m => m.typ = 0x0B) with
  | none => .next s
  | some m => .next ((s.setPort k { x with arrived := x.arrived.erase m }).takeCutMark k (BitVec.ofNat 32 (numAt m.payload 0 4)))

end Sys2Proof.Machine
end

