-- ==== Sys2Proof/Machine/PoolMsg.lean ====
section
/-!
DEFINITION. Messages over Fjorin: forwarding (R317, R318), the fabric pool at its target and back at its source (R319–R324),
queue words and multicast (R325–R328).
-/

namespace Sys2Proof.Machine

/-! ### Forwarding -/

/-- An answer to message m, from here to its source. -/
def State.answer (s : State) (m : Msg) (typ : Byte) (poison : Bool) (payload : List Byte) : State :=
  let r : Msg := { dst := m.src, src := BitVec.ofNat 16 s.moduleId, typ := typ, cls := m.cls, vc := false, ttl := 128, poison := poison,
                   tag := m.tag, payload := payload }
  match s.sendRouted r none with
  | .ok t => t
  | .error _ => s

/-- ERR_RSP with a status code; an ERR_RSP is answered with nothing. -/
def State.answerErr (s : State) (m : Msg) (code : Byte) : State := if m.typ = 0x09 then s else s.answer m 0x09 false [code]

/-- A routed message for another module goes on by dimension order (R317, R318); one that arrives with TTL 1, wherever it goes, is
dropped, one that cannot go on is answered with the code. -/
def execMessageForward (p : BitVec 3) (s : State) : Host.Outcome State Fault Refusal :=
  let k := p.toNat
  match (s.port k).arrived with
  | [] => .next s
  | m :: _ =>
    let ends := decide (m.ttl.toNat ≤ 1)
    if !m.routed || (decide (m.dst.toNat = s.moduleId) && !ends) || s.stopped then .next s
    else
      let t := s.takeMsg k
      if ends then .next ((t.bump (Reg.fjlPcnt k 5) 1).answerErr m 0xA6)
      else match t.sendRouted { m with ttl := m.ttl - 1 } (some k) with
        | .ok u => .next u
        | .error code => .next (t.answerErr m code)

/-! ### The pool at its target (R321, R322) -/

/-- The address word of a POOL message: OFFSET, SLOT, KEY (R320). -/
def Msg.poolAddr (m : Msg) : Nat × Nat × Nat :=
  let w := numAt m.payload 0 8
  (bitsOf w 0 30, bitsOf w 30 8, bitsOf w 38 16)

/-- The physical address of a request for n bytes, or the code that refuses it. -/
def State.exported (s : State) (m : Msg) (write : Bool) (n : Nat) : Except Byte Nat :=
  let (off, slot, key) := m.poolAddr
  match s.exportAt slot key write with
  | .error c => .error c
  | .ok base =>
    if gib < off + n then .error 0xA1
    else match s.barred (base + off) with
      | some c => .error c
      | none => .ok (base + off)

/-- A read is answered with its data, poisoned data with POISON (R322, R354). -/
def execPoolRd (p : BitVec 3) (s : State) : Host.Outcome State Fault Refusal :=
  match s.firstMsg p.toNat 0x01 with
  | none => .next s
  | some m =>
    let t := s.takeMsg p.toNat
    let n := numAt m.payload 8 2
    if n = 0 ∨ 256 < n ∨ m.payload.length ≠ 10 then .next (t.dropMsg p.toNat m.src)
    else match t.exported m false n with
      | .error c => .next (t.answerErr m c)
      | .ok pa => .next (t.answer m 0x02 (t.poisoned pa n) (t.bytes pa n))

/-- A write is performed, visible, and acknowledged (R322). -/
def execPoolWr (p : BitVec 3) (s : State) : Host.Outcome State Fault Refusal :=
  match s.firstMsg p.toNat 0x03 with
  | none => .next s
  | some m =>
    let t := s.takeMsg p.toNat
    let bs := m.payload.drop 8
    if bs.isEmpty ∨ 256 < bs.length then .next (t.dropMsg p.toNat m.src)
    else match t.exported m true bs.length with
      | .error c => .next (t.answerErr m c)
      | .ok pa => .next ((t.ramWrite 0 pa bs m.poison).answer m 0x04 false [])

/-- An atomic operation is performed (R60, R322): the old value goes back, with POISON where it was poisoned. -/
def execPoolAmo (p : BitVec 3) (s : State) : Host.Outcome State Fault Refusal :=
  match s.firstMsg p.toNat 0x05 with
  | none => .next s
  | some m =>
    let t := s.takeMsg p.toNat
    let fn := numAt m.payload 8 1
    if m.payload.length ≠ 25 ∨ 7 ≤ fn / 16 ∨ m.poolAddr.1 % 8 ≠ 0 then .next (t.dropMsg p.toNat m.src)
    else match t.exported m true 8 with
      | .error c => .next (t.answerErr m c)
      | .ok pa =>
        let old := BitVec.ofNat 64 (leNat (t.bytes pa 8))
        let new := amoResult (fn / 16) old (BitVec.ofNat 64 (numAt m.payload 9 8)) (BitVec.ofNat 64 (numAt m.payload 17 8))
        let bad := t.poisoned pa 8
        let u := if bad then t else t.ramWrite 0 pa (toLE 8 new.toNat) false
        .next (u.answer m 0x06 bad (toLE 8 old.toNat))

/-! ### Responses at the source (R322–R324, R348) -/

/-- The answer to an outstanding request arrives (R322–R324): at its core, command or cache, for a pre-empted job in the landing buffer;
a TAG without a request is discarded. -/
def State.answered (s : State) (tag : BitVec 16) (code : Byte) (poison : Bool) (data : List Byte) : State :=
  match SMap.find s.reqs tag.toNat with
  | none => s
  | some r =>
    let t := { s with reqs := SMap.erase s.reqs tag.toNat }
    if !r.kind.lands then t.respond tag r code poison data
    else match t.job r.job with
    | none => if r.kind = .write then t.respond tag r code poison data else t
    | some j =>
      if j.state = .preempted ∨ j.state = .restoring then
        let l : Landed := { partition := partOfCore r.core, tag := tag, req := r, code := code, poison := poison, data := data }
        ({ t with landing := t.landing ++ [l] } : State).setJob { j with landed := BitVec.ofNat 16 (satNat 16 (j.landed.toNat + 1)) }
      else t.respond tag r code poison data

/-- May a response of this type answer a request of kind k: POOL_RD_RSP a read, POOL_WR_ACK a write, POOL_AMO_RSP an AMO? -/
def ReqKind.answeredBy (k : ReqKind) (typ : Byte) : Bool :=
  match k with
  | .load => typ = 0x02
  | .read => typ = 0x02
  | .fill => typ = 0x02
  | .hostRead => typ = 0x02
  | .write => typ = 0x04
  | .host => typ = 0x04
  | .record => typ = 0x04
  | .amo => typ = 0x06
  | .rowAmo => typ = 0x06

/-- Does an outstanding request that carries the TAG await a response of this type? -/
def State.awaits (s : State) (tag : BitVec 16) (typ : Byte) : Bool :=
  match SMap.find s.reqs tag.toNat with
  | some r => r.kind.answeredBy typ
  | none => false

/-- A response of type t arrives on port p. -/
def State.takeResponse (s : State) (p : Nat) (t : Byte) : State :=
  match s.firstMsg p t with
  | none => s
  | some m =>
    let u := s.takeMsg p
    if u.awaits m.tag t then u.answered m.tag 0 m.poison m.payload else u

/-- POOL_RD_RSP (R322). -/
def execPoolRdRsp (p : BitVec 3) (s : State) : Host.Outcome State Fault Refusal := .next (s.takeResponse p.toNat 0x02)

/-- POOL_WR_ACK completes a write (R322). -/
def execPoolWrAck (p : BitVec 3) (s : State) : Host.Outcome State Fault Refusal := .next (s.takeResponse p.toNat 0x04)

/-- POOL_AMO_RSP returns the old value (R322). -/
def execPoolAmoRsp (p : BitVec 3) (s : State) : Host.Outcome State Fault Refusal := .next (s.takeResponse p.toNat 0x06)

/-- The codes a module answers with in an ERR_RSP (R317–R323, R354, R358): no other is ever returned (R333). -/
def errCode (c : Nat) : Bool := decide (c = 0x01) || (decide (0xA0 ≤ c) && decide (c ≤ 0xA6)) || decide (c = 0xC0) || decide (c = 0xC1)

/-- ERR_RSP completes its request with the code (R323). -/
def execErrRsp (p : BitVec 3) (s : State) : Host.Outcome State Fault Refusal :=
  match s.firstMsg p.toNat 0x09 with
  | none => .next s
  | some m =>
    let t := s.takeMsg p.toNat
    if m.payload.length ≠ 1 ∨ errCode (numAt m.payload 0 1) = false then .next (t.dropMsg p.toNat m.src)
    else .next (t.answered m.tag (BitVec.ofNat 8 (numAt m.payload 0 1)) false [])

/-- A request without response within RESP_TIMEOUT completes with 0xA5 (R324). -/
def execRespTimeout (tag : BitVec 16) (s : State) : Host.Outcome State Fault Refusal :=
  match SMap.find s.reqs tag.toNat with
  | none => .next s
  | some r =>
    if s.stopped || decide ((s.now - r.sent).toNat < 100000 * s.regFld Reg.fjlTimeouts 16 16) then .next s
    else .next (s.answered tag 0xA5 false [])

/-! ### Segment-table invalidation (R319) -/

/-- FJL_SEG_INVAL is written: BUSY until the accesses then under way through the entries have completed; a write while BUSY is ignored (R249). -/
def State.beginSegInval (s : State) (v : BitVec 32) : State :=
  if s.segInval.isSome then s
  else { s with segInval := some v,
                reqs := s.reqs.map (fun e => (e.1, { e.2 with segInval := bitAt v 16 || decide (e.2.seg = fld v 0 16) })) }

def execFjlSegInval (v : BitVec 32) (s : State) : Host.Outcome State Fault Refusal :=
  if s.start.stage < 1 ∨ s.stopped then .next s else .next (s.beginSegInval v)

/-- No access through an invalidated entry is outstanding: BUSY clears. -/
def execSegInvalDone (s : State) : Host.Outcome State Fault Refusal :=
  match s.segInval with
  | none => .next s
  | some _ =>
    if s.stopped || s.reqs.any (fun e => e.2.segInval) then .next s
    else .next { s with segInval := none }

/-! ### Queue words (R325–R328) -/

/-- The ports a kind-4 queue names: PORT and EXTRA (R325). -/
def State.qPorts (s : State) (q : Nat) : List Nat :=
  let t := s.qTarget q
  (List.range 8).filter (fun p => decide (p = t % 8) || (bitsOf t 3 8).testBit p)

/-- The payload of a QWORD: queue, end mark, word. -/
def qwordPayload (q : Nat) (w : QWord) : List Byte := toLE 2 q ++ toLE 1 (b2n w.last) ++ toLE 32 w.data.toNat

/-- A word arrives for queue RQUEUE (R326): put, refused as busy, or dropped; the answer is a QRSP. -/
def execQword (p : BitVec 3) (s : State) : Host.Outcome State Fault Refusal :=
  let k := p.toNat
  match s.firstMsg k 0x07 with
  | none => .next s
  | some m =>
    let t := s.takeMsg k
    let q := numAt m.payload 0 2
    let w := wordOfBytes (bytesAt m.payload 3 32) (decide (numAt m.payload 2 1 % 2 = 1))
    let bound := decide (q < 4096) && t.qBound q && decide (t.qKind q = 5) && decide (t.qTarget q % 8 = k)
    let qrsp := fun (u : State) (ok : Nat) => u.sendLink k 0x08 2 (toLE 2 q ++ toLE 1 ok)
    if !bound then .next (qrsp (t.bump (Reg.fjlPcnt k 4) 1) 1)
    else if t.wouldEnter q then .next (qrsp (t.unitPut q w) 1)
    else .next (qrsp t 0)

/-- A head word just reached: sent on no port yet. -/
def HeadSend.start : HeadSend := { accepted := 0, failed := 0, awaiting := 0, first := [], last := [] }

/-- The one-word report of a multicast word (R328). -/
def reportWord (wordNo : Word) (q : Nat) (ports delivered failed : BitVec 8) (now : Word) : QWord :=
  wordOfBytes (toLE 8 wordNo.toNat ++ toLE 2 q ++ [ports, delivered, failed] ++ zeros 3 ++ toLE 8 now.toNat ++ zeros 8) true

/-- The mask of a list of ports. -/
def portMask (ps : List Nat) : BitVec 8 := ps.foldl (fun m p => m ||| BitVec.ofNat 8 (2 ^ p)) 0

/-- When queue q's head word is resolved on every named port it leaves the queue; a multicast word is reported (R327, R328). -/
def State.resolveHead (s : State) (q : Nat) : State :=
  let x := s.queue q
  match x.head with
  | none => s
  | some h =>
    let ps := s.qPorts q
    let mask := portMask ps
    if (h.accepted ||| h.failed) &&& mask ≠ mask then s
    else
      let t := (s.setQueue q { x with head := none }).popWord q
      if ps.length ≤ 1 then t
      else
        let r := t.reg (Reg.fjlMcastReport (t.qOwner q))
        let rq := fld r 0 12
        let y := t.queue q
        let t := t.setQueue q { y with wordNo := y.wordNo + 1 }
        if bitAt r 15 && t.qBound rq && kindGets (t.qKind rq) then
          t.unitPut rq (reportWord x.wordNo q mask (h.accepted &&& mask) (mask &&& ~~~h.accepted) t.now)
        else t

/-- Queue q sends its head word on every named port it is due on: at first, and 1 µs after a port was down or BUSY (R327). -/
def State.sendHead (s : State) (q : Nat) : State :=
  let x := s.queue q
  match x.words with
  | [] => s
  | w :: _ =>
    if !(s.qBound q) || decide (s.qKind q ≠ 4) || s.stopped then s
    else
      let h := x.head.getD HeadSend.start
      (s.qPorts q).foldl (fun t p =>
        let y := t.queue q
        let h := y.head.getD h
        let done := bitAt h.accepted p || bitAt h.failed p || bitAt h.awaiting p
        let due := match SMap.find h.last p with
          | none => true
          | some l => decide (1000 ≤ (BitVec.ofNat 64 (t.now.toNat) - BitVec.ofNat 64 l).toNat)
        if done || !due then t
        else
          let first := if (SMap.find h.first p).isSome then h.first else SMap.insert h.first p t.now.toNat
          let up := t.portUp p
          let h2 : HeadSend := { h with first := first, last := SMap.insert h.last p t.now.toNat,
                                        awaiting := if up then h.awaiting ||| BitVec.ofNat 8 (2 ^ p) else h.awaiting }
          let t := t.setQueue q { y with head := some h2 }
          if up then t.sendLink p 0x07 2 (qwordPayload (bitsOf (t.qTarget q) 11 12) w) else t) s

/-- A kind-4 queue sends its head word where it is due (R327). -/
def execQwordRetry (q : BitVec 12) (s : State) : Host.Outcome State Fault Refusal := .next (s.sendHead q.toNat)

/-- The queue whose head word awaits the answer of the peer's queue r on port p. -/
def State.awaitingQueue (s : State) (p r : Nat) : Option Nat :=
  (s.stem.map Prod.fst).find? (fun q => decide (s.qKind q = 4) && decide (bitsOf (s.qTarget q) 11 12 = r) &&
    (match (s.queue q).head with
     | some h => bitAt h.awaiting p
     | none => false))

/-- A QRSP answers a head word on its port (R327). -/
def execQrsp (p : BitVec 3) (s : State) : Host.Outcome State Fault Refusal :=
  let k := p.toNat
  match s.firstMsg k 0x08 with
  | none => .next s
  | some m =>
    let t := s.takeMsg k
    match t.awaitingQueue k (numAt m.payload 0 2) with
    | none => .next t
    | some q =>
      let x := t.queue q
      let h := x.head.getD HeadSend.start
      let bit : BitVec 8 := BitVec.ofNat 8 (2 ^ k)
      let h2 : HeadSend := { h with awaiting := h.awaiting &&& ~~~bit, last := SMap.insert h.last k t.now.toNat,
                                    accepted := if numAt m.payload 2 1 = 1 then h.accepted ||| bit else h.accepted }
      .next ((t.setQueue q { x with head := some h2 }).resolveHead q)

/-- A multicast word unresolved on port p fails there MCAST_TIMEOUT after its first attempt (R327, R328). -/
def execMcastTimeout (q : BitVec 12) (p : BitVec 3) (s : State) : Host.Outcome State Fault Refusal :=
  let k := p.toNat
  let x := s.queue q.toNat
  match x.head with
  | none => .next s
  | some h => match SMap.find h.first k with
    | none => .next s
    | some t0 =>
      let us := s.regFld Reg.fjlTimeouts 0 16
      let ps := s.qPorts q.toNat
      if s.stopped || !(ps.contains k) || decide (ps.length ≤ 1) || bitAt h.accepted k || bitAt h.failed k ||
          decide ((s.now - BitVec.ofNat 64 t0).toNat < 1000 * us) then .next s
      else
        let bit : BitVec 8 := BitVec.ofNat 8 (2 ^ k)
        let t := s.setQueue q.toNat { x with head := some { h with failed := h.failed ||| bit, awaiting := h.awaiting &&& ~~~bit } }
        .next ((t.bump (Reg.fjlPcnt k 6) 1).resolveHead q.toNat)

end Sys2Proof.Machine
end

