-- ==== Sys2Proof/Machine/Flash.lean ====
section
/-!
DEFINITION. Hollyhock's flash translation layer (11): map changes (R269), retirement (R277, R278), refresh, collection and
rebuild (R276, R277). Where a block goes is Hollyhock's own choice and comes with the command.
-/

namespace Sys2Proof.Machine

/-- The erase block, and the page, a slot lies in. -/
def slotBlock (p : FlashSlot) : Nat := fld p 25 8 * 8192 + fld p 12 13
def slotPage (p : FlashSlot) : Nat := fld p 2 31

/-- A map entry that is mapped to slot p (Table 11.2). -/
def mapTo (p : FlashSlot) : BitVec 40 := BitVec.ofNat 40 (2 ^ 39 + p.toNat)

/-- Erase block k. -/
def State.eb (s : State) (k : Nat) : EraseBlock := SMap.get EraseBlock.fresh s.erase k
def State.setEb (s : State) (k : Nat) (x : EraseBlock) : State := { s with erase := SMap.set EraseBlock.fresh s.erase k x }

/-- The logical blocks whose slot lies in erase block k. -/
def State.slotsIn (s : State) (k : Nat) : List Nat :=
  (s.flash.filter (fun e => e.2.mapped && decide (eraseBlockOf e.2.entry = k))).map Prod.fst

/-- The slots may be written: distinct, none in use, none in a retired erase block. -/
def State.slotsFree (s : State) (ps : List FlashSlot) : Bool :=
  allDistinct ps && ps.all (fun p => !(s.flash.any (fun e => decide (e.2.entry = mapTo p))) && !(s.eb (slotBlock p)).retired)

/-- Logical block b becomes x; cached lines of it fall (R25). -/
def State.setBlock (s : State) (b : Nat) (x : FlashBlock) : State :=
  ({ s with flash := SMap.set FlashBlock.unmapped s.flash b x } : State).dropLines (flashBase + 4096 * b) 4096

/-- Mapped blocks get new slots with their data unchanged (R269). -/
def State.moveBlocks (s : State) (ms : List (Nat × FlashSlot)) : State :=
  ms.foldl (fun t m => t.setBlock m.1 { t.block m.1 with entry := mapTo m.2 }) s

/-- Rebuilt blocks get new slots and read as written again (R277). -/
def State.rewriteBlocks (s : State) (ms : List (Nat × FlashSlot)) : State :=
  ms.foldl (fun t m => t.setBlock m.1 { t.block m.1 with entry := mapTo m.2, bad := false }) s

/-- The logical blocks whose slot lies in a page. -/
def State.slotsOfPage (s : State) (page : Nat) : List Nat :=
  (s.flash.filter (fun e => e.2.mapped && decide (fld e.2.entry 2 31 = page))).map Prod.fst

/-- Blocks are unmapped; they read as zeros from now on (R269). -/
def State.unmapBlocks (s : State) (bs : List Nat) : State :=
  bs.foldl (fun t b => if (t.block b).mapped then t.setBlock b FlashBlock.unmapped else t) s

/-- Are the moves exactly those of the valid slots in `from_`, to free slots that lie elsewhere? -/
def State.movesOk (s : State) (from_ : List Nat) (ms : List (Nat × FlashSlot)) (avoid : Nat) : Bool :=
  decide (ms.length = from_.length) && from_.all (fun b => ms.any (fun m => m.1 = b)) && s.slotsFree (ms.map Prod.snd) &&
  ms.all (fun m => decide (slotBlock m.2 ≠ avoid))

/-- A move list as the command carries it. -/
def movesOf (ms : List (BitVec 33 × FlashSlot)) : List (Nat × FlashSlot) := ms.map (fun m => (m.1.toNat, m.2))

/-- Health event of erase block k. -/
def State.healthAt (s : State) (code : Byte) (k arg : Nat) : State := s.health code (BitVec.ofNat 8 (k / 8192)) (k % 8192) arg

/-- Erase block k is retired; the limits of R278. -/
def State.retire (s : State) (k : Nat) : State :=
  let n := s.regFld Reg.hlyRetired 0 17 + 1
  let t := (s.setEb k { s.eb k with retired := true }).setRegFld Reg.hlyRetired 0 17 (Nat.min n 65536)
  if n = 49152 then { t.healthAt 0x06 k n with pf1 := { t.pf1 with warning := t.pf1.warning ||| 1 } }
  else if n = 65536 then
    { (t.healthAt 0x07 k n).setRegFld Reg.hlyStatus 30 1 1 with pf1 := { t.pf1 with warning := t.pf1.warning ||| 8 } }
  else t

/-- A refresh moves every valid slot of a queued block to a new block (R276). -/
def execReadRefresh (block : BitVec 21) (moves : List (BitVec 33 × FlashSlot)) (s : State) : Host.Outcome State Fault Refusal :=
  let k := block.toNat
  let x := s.eb k
  if s.stopped || !(x.refresh || x.hard) || !(s.movesOk (s.slotsIn k) (movesOf moves) k) then .next s
  else
    let t := (s.moveBlocks (movesOf moves)).setEb k { x with refresh := false, hard := false }
    .next (t.bump Reg.hlyRefreshed 1)

/-- A failed program: the block's valid slots move, it is retired and the event logged (R277). -/
def execProgramFail (block : BitVec 21) (moves : List (BitVec 33 × FlashSlot)) (s : State) : Host.Outcome State Fault Refusal :=
  let k := block.toNat
  if s.stopped || (s.eb k).retired || !(s.movesOk (s.slotsIn k) (movesOf moves) k) then .next s
  else .next (((s.moveBlocks (movesOf moves)).healthAt 0x02 k moves.length).retire k)

/-- A failed erase retires the block (R277). -/
def execEraseFail (block : BitVec 21) (s : State) : Host.Outcome State Fault Refusal :=
  let k := block.toNat
  if s.stopped || (s.eb k).retired || !(s.slotsIn k).isEmpty then .next s
  else .next ((s.healthAt 0x03 k (s.eb k).erases).retire k)

/-- A page whose decode fails is rebuilt and rewritten elsewhere; a block whose rebuild fails stays unrecovered (R277). -/
def execParityRebuilt (lba : BitVec 33) (ok : Bool) (moves : List (BitVec 33 × FlashSlot)) (s : State) :
    Host.Outcome State Fault Refusal :=
  let b := lba.toNat
  let x := s.block b
  let k := eraseBlockOf x.entry
  let page := s.slotsOfPage (fld x.entry 2 31)
  if s.stopped || !x.mapped then .next s
  else if ok then
    if !(s.slotsFree (moves.map Prod.snd)) || decide (moves.length ≠ page.length) || !(page.all (fun p => moves.any (fun m => m.1.toNat = p))) ||
        moves.any (fun m => decide (slotPage m.2 = fld x.entry 2 31)) then
      .next s
    else .next ((s.rewriteBlocks (movesOf moves)).healthAt 0x04 k b)
  else if x.bad then .next s
  else .next ((s.setBlock b { x with bad := true }).healthAt 0x05 k b)

/-- The mean erase count over all erase blocks has reached 80 % of 3,000 (Table 11.4). -/
def State.worn (s : State) : Bool := decide (2400 * 2097152 ≤ sumNat (s.erase.map (fun e => e.2.erases)))

/-- Garbage collection moves valid slots; a block without valid slots is erased, which resets its read counter (R269,
R276). -/
def execGarbageCollection (block : BitVec 21) (moves : List (BitVec 33 × FlashSlot)) (erased : Bool) (s : State) :
    Host.Outcome State Fault Refusal :=
  let k := block.toNat
  let ms := movesOf moves
  if s.stopped || (s.eb k).retired || !(s.slotsFree (ms.map Prod.snd)) || !(allDistinct (ms.map Prod.fst)) ||
      !(ms.all (fun m => (s.slotsIn k).contains m.1 && decide (slotBlock m.2 ≠ k))) ||
      (erased && !((s.slotsIn k).all (fun b => ms.any (fun m => m.1 = b)))) then .next s
  else
    let t := s.moveBlocks ms
    if erased then
      let u := t.setEb k { EraseBlock.fresh with erases := (t.eb k).erases + 1 }
      if u.worn && !u.pf1.wear80 then
        .next { u.healthAt 0x08 k 2400 with pf1 := { u.pf1 with wear80 := true } }
      else .next u
    else .next t

end Sys2Proof.Machine
end

