-- ==== Sys2Proof/Machine/Storage.lean ====
section
/-!
DEFINITION. PF1, the storage function (R280–R288): queues and doorbells, fetch order and range locks, the I/O commands, the
admin commands, queue freeze and restart, power states. What R280 leaves to NVMe 2.0 (the places of fields in commands and
completion entries, its status codes) is taken from there.
-/

namespace Sys2Proof.Machine

/-- A change of PF1. -/
def State.withPf1 (s : State) (f : Pf1 → Pf1) : State := { s with pf1 := f s.pf1 }

/-- PF1 serves commands: enabled, the map loaded, STAGE3 reached (R272, 16). -/
def State.pf1Ready (s : State) : Bool := bitAt s.pf1.cc 0 && bitAt (s.reg Reg.hlyStatus) 31 && decide (3 ≤ s.start.stage)

/-- CSTS: RDY bit 0, SHST bits [3:2]. -/
def State.csts (s : State) : BitVec 32 := BitVec.ofNat 32 (b2n s.pf1Ready + 4 * s.pf1.shst)

def NvmeCmd.n (c : NvmeCmd) (off k : Nat) : Nat := numAt c.word off k
def NvmeCmd.op (c : NvmeCmd) : Nat := c.n 0 1
def NvmeCmd.cid (c : NvmeCmd) : Nat := c.n 2 2
def NvmeCmd.ord (c : NvmeCmd) : Bool := (c.n 1 1).testBit 2
def NvmeCmd.lba (c : NvmeCmd) : Nat := c.n 40 8
def NvmeCmd.nlb (c : NvmeCmd) : Nat := c.n 48 2 + 1
def NvmeCmd.cdw (c : NvmeCmd) (k : Nat) : Nat := c.n (4 * k) 4
def NvmeCmd.isDone (c : NvmeCmd) : Bool := match c.phase with
  | .done _ _ _ => true
  | _ => false

/-- The fetched command fid. -/
def State.nvme (s : State) (fid : Nat) : Option NvmeCmd := s.pf1.cmds.find? (fun c => c.fid = fid)

/-- The fetched command with this number becomes c. -/
def State.setNvme (s : State) (c : NvmeCmd) : State :=
  s.withPf1 (fun p => { p with cmds := p.cmds.map (fun d => if d.fid = c.fid then c else d) })

/-- The command is done with a status. The commands done stand behind the others, in the order they were done, which is that of their
completions (R281). -/
def State.nvmeDone (s : State) (c : NvmeCmd) (sct sc : Nat) (dw0 : BitVec 32) : State :=
  s.withPf1 (fun p => { p with cmds := p.cmds.filter (fun d => !(d.fid = c.fid)) ++ [{ c with phase := .done sct sc dw0 }] })

/-- An Asynchronous Event Request that waits for its event, which no row brings. -/
def NvmeCmd.waitsEvent (c : NvmeCmd) : Bool := decide (c.sq = 0) && decide (c.op = 0x0C) && decide (c.phase = .started)

/-- Has every command that will complete completed? -/
def Pf1.drained (p : Pf1) : Bool := p.cmds.all NvmeCmd.waitsEvent

/-! ### Registers and doorbells -/

/-- A controller level reset (R288, 12): queues and commands are gone; an FLR also clears the admin queue registers. -/
def Pf1.cleared (p : Pf1) (all : Bool) : Pf1 :=
  { p with cc := 0, shst := 0, sqs := [], cqs := [], cmds := [], last := 0, ps := 0, entering := none, features := [],
           closing := false,
           aqa := if all then 0 else p.aqa, asq := if all then 0 else p.asq, acq := if all then 0 else p.acq }

/-- FLR of PF1 performs an NVMe Controller Level Reset. -/
def State.pf1Reset (s : State) : State := s.withPf1 (fun p => p.cleared true)

def execControllerLevelReset (s : State) : Host.Outcome State Fault Refusal := .next s.pf1Reset

/-- A shutdown is complete once no command is left (NVMe SHST). -/
def State.pf1Settle (s : State) : State :=
  if decide (s.pf1.shst = 1) && s.pf1.drained && !s.pf1.closing then s.withPf1 (fun p => { p with shst := 2 }) else s

/-- A write of CC: EN 0 to 1 makes the admin queues, EN 1 to 0 resets the controller, SHN requests shutdown. -/
def State.writeCc (s : State) (w : BitVec 32) : State :=
  let v := w &&& 0x01FFFFF1
  let p := s.pf1
  let was := bitAt p.cc 0
  let is_ := bitAt v 0
  if was && !is_ then s.withPf1 (fun q => { q.cleared false with cc := v })
  else
    let p1 : Pf1 := { p with cc := v }
    let p2 : Pf1 := if is_ && !was then
        { p1 with sqs := [(0, { base := fld p.asq 12 52 * 4096, size := fld p.aqa 0 12 + 1, cq := 0, head := 0, tail := 0, frozen := false, logRead := false })]
                  cqs := [(0, { base := fld p.acq 12 52 * 4096, size := fld p.aqa 16 12 + 1, head := 0, tail := 0, phase := true })] }
      else p1
    let p3 : Pf1 := if fld v 14 2 ≠ 0 ∧ fld p.cc 14 2 = 0 then { p2 with shst := 1 } else p2
    ({ s with pf1 := p3 } : State).pf1Settle

/-- A write of CC; held while the module is stopped (R368). -/
def execControllerConfiguration (v : BitVec 32) (s : State) : Host.Outcome State Fault Refusal :=
  .next (if s.start.stage < 1 then s else if s.stopped then s.holdWrite (.reg .pf1 0x14 (toLE 4 v.toNat)) else s.writeCc v)

/-- A submission doorbell: the queue's new tail (R281). -/
def State.sqDoorbell (s : State) (q : BitVec 16) (tail : BitVec 32) : State :=
  match SMap.find s.pf1.sqs q.toNat with
  | none => s
  | some x =>
    if x.size ≤ tail.toNat then s
    else s.withPf1 (fun p => { p with sqs := SMap.insert p.sqs q.toNat { x with tail := tail.toNat } })

/-- A submission doorbell; held while the module is stopped (R368). -/
def execPf1SqDoorbell (q : BitVec 16) (tail : BitVec 32) (s : State) : Host.Outcome State Fault Refusal :=
  .next (if s.stopped then s.holdWrite (.pf1Sq q tail) else s.sqDoorbell q tail)

/-- A completion doorbell: the entries before the new head are free. -/
def State.cqDoorbell (s : State) (q : BitVec 16) (head : BitVec 32) : State :=
  match SMap.find s.pf1.cqs q.toNat with
  | none => s
  | some x =>
    if x.size ≤ head.toNat then s
    else s.withPf1 (fun p => { p with cqs := SMap.insert p.cqs q.toNat { x with head := head.toNat } })

/-- A completion doorbell; held while the module is stopped (R368). -/
def execPf1CqDoorbell (q : BitVec 16) (head : BitVec 32) (s : State) : Host.Outcome State Fault Refusal :=
  .next (if s.stopped then s.holdWrite (.pf1Cq q head) else s.cqDoorbell q head)

/-! ### Fetch -/

/-- The checks made at fetch, before any lock is taken: the status of a command that fails them (Table 11.5, R278). -/
def State.nvmeCheck (s : State) (c : NvmeCmd) (ranges : HostRead) : Option (Nat × Nat) :=
  let ro := bitAt (s.reg Reg.hlyStatus) 30
  if c.sq = 0 then none
  else if decide (c.n 1 1 % 4 ≠ 0) || decide (64 ≤ c.n 1 1) then some (0, 0x02)
  else match c.op with
    | 0x00 => if c.n 4 4 = 1 ∨ c.n 4 4 = 0xFFFFFFFF then none else some (0, 0x0B)
    | 0x01 =>
      if c.n 4 4 ≠ 1 then some (0, 0x0B) else if 64 < c.nlb then some (0, 0x02)
      else if flashCapacity < c.lba + c.nlb then some (0, 0x80) else if ro then some (7, 0x93) else none
    | 0x02 =>
      if c.n 4 4 ≠ 1 then some (0, 0x0B) else if 64 < c.nlb then some (0, 0x02)
      else if flashCapacity < c.lba + c.nlb then some (0, 0x80) else none
    | 0x08 =>
      if c.n 4 4 ≠ 1 then some (0, 0x0B)
      else if flashCapacity < c.lba + c.nlb then some (0, 0x80) else if ro then some (7, 0x93) else none
    | 0x09 =>
      if c.n 4 4 ≠ 1 then some (0, 0x0B)
      else match ranges with
        | .data bs =>
          let rs := (List.range (c.cdw 10 % 256 + 1)).map (fun i => (numAt bs (16 * i + 8) 8, numAt bs (16 * i + 4) 4))
          if !((c.cdw 11).testBit 2) then none
          else if rs.any (fun r => decide (flashCapacity < r.1 + r.2)) then some (0, 0x80)
          else if ro then some (7, 0x93) else none
        | _ => some (0, 0x04)
    | _ => some (0, 0x01)

/-- The LBA ranges a command locks (R282). -/
def nvmeRanges (c : NvmeCmd) (ranges : HostRead) : List (Nat × Nat) :=
  if c.sq = 0 then []
  else match c.op with
    | 0x01 => [(c.lba, c.nlb)]
    | 0x02 => [(c.lba, c.nlb)]
    | 0x08 => [(c.lba, c.nlb)]
    | 0x09 => match ranges with
      | .data bs => if (c.cdw 11).testBit 2 then
          ((List.range (c.cdw 10 % 256 + 1)).map (fun i => (numAt bs (16 * i + 8) 8, numAt bs (16 * i + 4) 4))) else []
      | _ => []
    | _ => []

/-- The entries of the range-lock table in use. -/
def State.locksUsed (s : State) : Nat := sumNat (s.pf1.cmds.map (fun c => c.ranges.length))

/-- May queue q be fetched from: entries, not frozen, the controller ready and not shutting down? -/
def State.sqOpen (s : State) (q : Nat) : Bool :=
  match SMap.find s.pf1.sqs q with
  | none => false
  | some x => decide (x.head ≠ x.tail) && !x.frozen && s.pf1Ready && decide (s.pf1.shst = 0) && !s.pf1.closing

/-- The queue whose turn it is, in round robin after the one fetched from last (R281). -/
def State.sqTurn (s : State) : Option Nat :=
  let open_ := (s.pf1.sqs.map Prod.fst).filter s.sqOpen
  match open_.find? (fun q => decide (s.pf1.last < q)) with
  | some q => some q
  | none => open_.head?

/-- PF1's flow at Hollyhock's arbitration point (R275). -/
def pf1Flow : Nat := 8900

/-- An I/O command that has not taken its turn at the flash. -/
def NvmeCmd.waits (c : NvmeCmd) : Bool := decide (c.phase = .fetched) && decide (c.sq ≠ 0) && !c.granted

/-- Hollyhock fetches queue q's next command once its range-lock entries can be taken (R281, R282). -/
def execNvmeFetch (q : BitVec 16) (entry ranges : HostRead) (s : State) : Host.Outcome State Fault Refusal :=
  match SMap.find s.pf1.sqs q.toNat, entry with
  | some x, .data bs =>
    let c0 : NvmeCmd := { fid := s.pf1.nextFid, sq := q.toNat, word := bs.take 64 ++ zeros (64 - bs.length), ranges := [], reads := false,
                          phase := .fetched, silent := false }
    let fail := s.nvmeCheck c0 ranges
    let rs := if fail.isSome then [] else nvmeRanges c0 ranges
    if s.stopped || decide (s.sqTurn ≠ some q.toNat) || decide (1024 < s.locksUsed + rs.length) then .next s
    else
      let c : NvmeCmd := { c0 with ranges := rs, reads := decide (c0.op = 2), phase := match fail with
        | some (sct, sc) => .done sct sc 0
        | none => .fetched }
      let t := s.withPf1 (fun p => { p with
        sqs := SMap.insert p.sqs q.toNat { x with head := (x.head + 1) % x.size }
        cmds := p.cmds ++ [c], nextFid := p.nextFid + 1, last := q.toNat })
      .next (if c.waits && !(s.pf1.cmds.any NvmeCmd.waits) then t.flowFills pf1Flow 108 else t)
  | _, _ => .next s

/-! ### Start -/

/-- Do two commands' ranges overlap other than as two reads (R282)? -/
def lockHolds (c d : NvmeCmd) : Bool :=
  !(c.reads && d.reads) && c.ranges.any (fun r => d.ranges.any (fun q => overlaps r.1 r.2 q.1 q.2))

/-- Does an earlier command hold back c: an overlapping lock (R282), ORD of c or of an earlier one in its queue (R283)? -/
def State.heldBack (s : State) (c : NvmeCmd) : Bool :=
  s.pf1.cmds.any (fun d => decide (d.fid < c.fid) && (lockHolds c d || (decide (d.sq = c.sq) && (c.ord || d.ord))))

/-- A set feature's plain answer for the features without a row (R280: as NVMe 2.0; 0x06, 0x08 and 0x09 unsupported). -/
def State.setFeature (s : State) (c : NvmeCmd) : State :=
  let fid := c.cdw 10 % 256
  if fid = 7 then s.nvmeDone c 0 0 0x007F007F
  else if [1, 4, 5, 0x0A, 0x0B].contains fid then
    (s.withPf1 (fun p => { p with features := SMap.insert p.features fid (BitVec.ofNat 32 (c.cdw 11)) })).nvmeDone c 0 0 0
  else s.nvmeDone c 0 0x02 0

/-- The feature a Get Features reads. -/
def State.getFeature (s : State) (c : NvmeCmd) : State :=
  let fid := c.cdw 10 % 256
  if fid = 2 then s.nvmeDone c 0 0 (BitVec.ofNat 32 s.pf1.ps)
  else if fid = 7 then s.nvmeDone c 0 0 0x007F007F
  else if [1, 4, 5, 0x0A, 0x0B].contains fid then s.nvmeDone c 0 0 (SMap.get 0 s.pf1.features fid)
  else s.nvmeDone c 0 0x02 0

/-- The bytes of the Identify Namespace data that Table 11.5 settles, at NVMe's places: size and capacity, one LBA format of 4 KiB, no
metadata or protection, no reservations, deallocated blocks as zeros, atomic writes of 64 blocks without boundary. -/
def namespaceFields : List (Nat × List Byte) :=
  [(0, toLE 8 flashCapacity), (8, toLE 8 flashCapacity), (25, zeros 5), (31, [0]), (33, [1]), (34, toLE 2 63), (36, toLE 2 63), (40, zeros 6),
   (128, [0, 0, 12]), (132, zeros 252)]

/-- The same of the Identify Controller data: MDTS, entry sizes, one namespace, no fused commands, no volatile write cache, no SGL. -/
def controllerFields : List (Nat × List Byte) :=
  [(77, [6]), (512, [0x66, 0x44]), (516, toLE 4 1), (522, [0, 0]), (525, [0]), (536, zeros 4)]

/-- The masks and values of the controller's bits that Table 11.5 settles inside a byte: no namespace management, Format NVM; deallocate and
Write Zeroes, no Compare, Write Uncorrectable, reservations, Verify or Copy. -/
def controllerBits : List (Nat × Byte × Byte) := [(256, 0x0A, 0x02), (520, 0xAF, 0x0C), (521, 0x01, 0x00)]

/-- Settled bytes over n free ones. -/
def State.freeOver (s : State) (n : Nat) (fields : List (Nat × List Byte)) (bits : List (Nat × Byte × Byte)) : List Byte :=
  (List.range n).map (fun i =>
    let free := BitVec.ofNat 8 (Config.freeWord (s.free + i)).toNat
    match fields.find? (fun e => decide (e.1 ≤ i) && decide (i < e.1 + e.2.length)) with
    | some e => e.2.getD (i - e.1) 0
    | none => match bits.find? (fun e => decide (e.1 = i)) with
      | some e => (free &&& ~~~e.2.1) ||| e.2.2
      | none => free)

/-- An Identify's data, to PRP1's page and, where that page does not hold all, PRP2's: what Table 11.5 settles, the rest, which the spec
leaves to the module, free values (log entry 37). -/
def State.identify (s : State) (c : NvmeCmd) : State :=
  let drawn : State := { s with free := s.free + 4096 }
  let give := fun (bs : List Byte) =>
    let first := 4096 - c.n 24 8 % 4096
    let t := drawn.send (.hostWrite 0 (c.n 24 8) (bs.take first) false)
    (if first = 4096 then t else t.send (.hostWrite 0 (c.n 32 8) (bs.drop first) false)).nvmeDone c 0 0 0
  match c.cdw 10 % 256 with
  | 0 => if c.n 4 4 = 1 ∨ c.n 4 4 = 0xFFFFFFFF then give (s.freeOver 4096 namespaceFields [(24, 0x02, 0x02)]) else s.nvmeDone c 0 0x0B 0
  | 1 => give (s.freeOver 4096 controllerFields controllerBits)
  | 2 => give (toLE 4 (b2n (decide (c.n 4 4 = 0))) ++ zeros 4092)
  | 3 => if c.n 4 4 = 1 then give (s.freeOver 4096 [] []) else s.nvmeDone c 0 0x0B 0
  | 5 => give (s.freeOver 4096 [] [])
  | 6 => give (s.freeOver 4096 [] [])
  | 8 => give (s.freeOver 4096 [] [])
  | 0x1C => give (s.freeOver 4096 [] [])
  | _ => s.nvmeDone c 0 0x02 0

/-- Delete I/O Completion Queue: refused while a submission queue names it. -/
def State.deleteCq (s : State) (c : NvmeCmd) : State :=
  let q := c.cdw 10 % 65536
  if q = 0 ∨ (SMap.find s.pf1.cqs q).isNone then s.nvmeDone c 1 0x01 0
  else if s.pf1.sqs.any (fun e => decide (e.2.cq = q)) then s.nvmeDone c 1 0x0C 0
  else (s.withPf1 (fun p => { p with cqs := SMap.erase p.cqs q })).nvmeDone c 0 0 0

/-- A started admin command whose effect no other row names ends here, as NVMe 2.0 has it; the others wait for their row. -/
def State.adminStart (s : State) (c : NvmeCmd) : State :=
  match c.op with
  | 0x00 => s
  | 0x01 => s
  | 0x02 => s
  | 0x05 => s
  | 0x09 => if c.cdw 10 % 256 = 2 then s else s.setFeature c
  | 0x80 => s
  | 0xC1 => s
  | 0x04 => s.deleteCq c
  | 0x06 => s.identify c
  | 0x08 => s.nvmeDone c 0 0 1
  | 0x0A => s.getFeature c
  | 0x0C => s
  | 0x18 => s.nvmeDone c 0 0 0
  | _ => s.nvmeDone c 0 0x01 0

/-- May fetched command c start: nothing earlier holds it back, no power-state entry is in progress (R282, R283, R285), PF1 does not shut
down and the module is not stopped? -/
def State.nvmeReady (s : State) (c : NvmeCmd) : Bool :=
  decide (c.phase = .fetched) && !s.heldBack c && s.pf1.entering.isNone && !s.pf1.closing && !s.stopped

/-- A fetched command starts once it may, an I/O command after its turn at the flash (R275); in PS2 an I/O command first returns the
function to PS0 (R285). -/
def execNvmeCommandStart (fid : Nat) (s : State) : Host.Outcome State Fault Refusal :=
  match s.nvme fid with
  | none => .next s
  | some c =>
    if !(s.nvmeReady c) || (decide (c.sq ≠ 0) && !c.granted) then .next s
    else
      let c1 : NvmeCmd := { c with phase := .started, begun := true }
      let t := s.setNvme c1
      if c.sq = 0 then .next (t.adminStart c1)
      else .next (if t.pf1.ps = 2 then t.withPf1 (fun p => { p with ps := 0 }) else t)

/-- The started command fid of an opcode on an I/O queue (io) or the admin queue. -/
def State.nvmeStarted (s : State) (fid : Nat) (io : Bool) (op : Nat) : Option NvmeCmd :=
  match s.nvme fid with
  | none => none
  | some c => if !s.stopped && decide (c.phase = .started) && decide (c.op = op) && (io == decide (c.sq ≠ 0)) then some c else none

/-- The host pages n bytes of a command's data lie in: PRP1, then PRP2 or the PRP list it names (NVMe 2.0). -/
def prpPages (p1 p2 : Nat) (list : List Byte) (n : Nat) : List (Nat × Nat) :=
  let first := Nat.min n (4096 - p1 % 4096)
  let rest := n - first
  if rest = 0 then [(p1, first)]
  else if rest ≤ 4096 then [(p1, first), (p2, rest)]
  else (p1, first) :: (List.range (ceilDiv rest 4096)).map (fun i => (numAt list (8 * i) 8, Nat.min 4096 (rest - 4096 * i)))

/-- The data goes to the host over the command's PRPs; nothing where its list cannot be read. -/
def State.sendPrp (s : State) (c : NvmeCmd) (prps : HostRead) (bs : List Byte) : Option State :=
  let listed := decide (8192 - c.n 24 8 % 4096 < bs.length)
  match prps with
  | .data l => some ((prpPages (c.n 24 8) (c.n 32 8) l bs.length).foldl (fun (acc : State × List Byte) e =>
      (acc.1.send (.hostWrite 0 e.1 (acc.2.take e.2) false), acc.2.drop e.2)) (s, bs)).1
  | _ => if listed then none else
      some ((prpPages (c.n 24 8) (c.n 32 8) [] bs.length).foldl (fun (acc : State × List Byte) e =>
        (acc.1.send (.hostWrite 0 e.1 (acc.2.take e.2) false), acc.2.drop e.2)) (s, bs)).1

/-! ### I/O commands -/

/-- Read returns the data of the current map entries (R273, R282). -/
def execNvmeRead (fid : Nat) (prps : HostRead) (s : State) : Host.Outcome State Fault Refusal :=
  match s.nvmeStarted fid true 2 with
  | none => .next s
  | some c =>
    let bs := (List.range c.nlb).map (fun i => c.lba + i)
    let t := s.countFlashReads bs
    if bs.any (fun b => (s.block b).bad) then .next (t.nvmeDone c 2 0x81 0)
    else match t.sendPrp c prps (bs.map s.blockBytes).flatten with
      | none => .next (s.nvmeDone c 0 0x04 0)
      | some u => .next (u.nvmeDone c 0 0 0)

/-- Write of up to 64 blocks, all in one map update (R284). -/
def execNvmeWrite (fid : Nat) (data : HostRead) (place : List FlashSlot) (s : State) : Host.Outcome State Fault Refusal :=
  match s.nvmeStarted fid true 1 with
  | none => .next s
  | some c =>
    match data with
    | .data bs =>
      if decide (place.length ≠ c.nlb) || !(s.slotsFree place) then .next s
      else
        let t := (place.zipIdx).foldl (fun t e =>
          t.setBlock (c.lba + e.2) { entry := mapTo e.1, data := bytesAt bs (4096 * e.2) 4096, bad := false }) s
        .next (t.nvmeDone c 0 0 0)
    | _ => .next (s.nvmeDone c 0 0x04 0)

/-- Write Zeroes: the blocks read as zeros (R284); they are unmapped. -/
def execWriteZeroes (fid : Nat) (s : State) : Host.Outcome State Fault Refusal :=
  match s.nvmeStarted fid true 8 with
  | none => .next s
  | some c => .next ((s.unmapBlocks ((List.range c.nlb).map (fun i => c.lba + i))).nvmeDone c 0 0 0)

/-- Deallocate unmaps its ranges (R284, Table 11.5). -/
def execDatasetManagement (fid : Nat) (s : State) : Host.Outcome State Fault Refusal :=
  match s.nvmeStarted fid true 9 with
  | none => .next s
  | some c =>
    let bs := (s.flash.map Prod.fst).filter (fun b => c.ranges.any (fun r => decide (r.1 ≤ b) && decide (b < r.1 + r.2)))
    .next ((s.unmapBlocks bs).nvmeDone c 0 0 0)

/-- Flush completes once earlier writes are complete (Table 11.5). -/
def execFlush (fid : Nat) (s : State) : Host.Outcome State Fault Refusal :=
  match s.nvmeStarted fid true 0 with
  | none => .next s
  | some c =>
    if s.pf1.cmds.any (fun d => decide (d.fid < c.fid) && !d.isDone && !d.ranges.isEmpty && !d.reads) then .next s
    else .next (s.nvmeDone c 0 0 0)

/-! ### Completion and freeze (R286) -/

/-- An Error Information log entry (NVMe 2.0): the status stands as in the completion entry. -/
def errorEntry (count : Nat) (c : NvmeCmd) (status : Nat) (phase : Bool) : List Byte :=
  toLE 8 count ++ toLE 2 c.sq ++ toLE 2 c.cid ++ toLE 2 (status * 2 + b2n phase) ++ toLE 2 0xFFFF ++ toLE 8 c.lba ++ toLE 4 (c.n 4 4) ++ zeros 36

/-- The 16 bytes of a completion entry. -/
def completionEntry (dw0 : BitVec 32) (sqHead sq cid status : Nat) (phase : Bool) : List Byte :=
  toLE 4 dw0.toNat ++ zeros 4 ++ toLE 2 sqHead ++ toLE 2 sq ++ toLE 2 cid ++ toLE 2 (status * 2 + b2n phase)

/-- The completion queue of a command, if it can take one more entry. -/
def State.cqFor (s : State) (c : NvmeCmd) : Option (NvmeSq × NvmeCq) :=
  match SMap.find s.pf1.sqs c.sq with
  | none => none
  | some x => match SMap.find s.pf1.cqs x.cq with
    | none => none
    | some y => if (y.tail + 1) % y.size = y.head then none else some (x, y)

/-- The commands that have not started and that p picks end with an aborting code, and log nothing (R286, R288). -/
def Pf1.aborted (x : Pf1) (p : NvmeCmd → Bool) (code : Nat) : List NvmeCmd :=
  let hit := fun (d : NvmeCmd) => p d && !d.begun && !d.silent
  x.cmds.filter (fun d => !(hit d)) ++ (x.cmds.filter hit).map (fun d => { d with phase := .done 7 code 0, silent := true })

/-- Freeze of queue q (R286): later commands not yet started end with 0x96. -/
def State.freeze (s : State) (q fid : Nat) : State :=
  match SMap.find s.pf1.sqs q with
  | none => s
  | some x =>
    s.withPf1 (fun p => { p with
      sqs := SMap.insert p.sqs q { x with frozen := true, logRead := if x.frozen then x.logRead else false }
      cmds := p.aborted (fun d => decide (d.sq = q) && decide (fid < d.fid)) 0x96 })

/-- The command whose completion is next (R281): of those done whose completion queue takes an entry, the one done first. -/
def State.nextPosted (s : State) : Option NvmeCmd := s.pf1.cmds.find? (fun c => c.isDone && (s.cqFor c).isSome)

/-- The next done command's completion is posted, in completion order (R281), after its error log entry and before the freeze of its queue (R286). -/
def execNvmeCompletion (fid : Nat) (s : State) : Host.Outcome State Fault Refusal :=
  match (if s.stopped then none else s.nextPosted.filter (fun c => c.fid = fid)) with
  | none => .next s
  | some c => match c.phase, s.cqFor c with
    | .done sct sc dw0, some (x, y) =>
      let status := sc + sct * 256
      let failed := decide (status ≠ 0) && decide (c.sq ≠ 0) && !c.silent
      let t := if failed then s.withPf1 (fun p => { p with
          errCount := p.errCount + 1, errors := errorEntry (p.errCount + 1) c status y.phase :: p.errors }) else s
      let t := t.send (.hostWrite 0 (y.base + 16 * y.tail) (completionEntry dw0 x.head c.sq c.cid status y.phase) false)
      let z : NvmeCq := { y with tail := (y.tail + 1) % y.size, phase := if y.tail + 1 = y.size then !y.phase else y.phase }
      let logRead := decide (c.sq = 0) && decide (c.op = 2) && decide (c.cdw 10 % 256 = 1) && decide (status = 0)
      let t := t.withPf1 (fun p => { p with
        cqs := SMap.insert p.cqs x.cq z
        cmds := p.cmds.filter (fun d => !(d.fid = fid))
        sqs := if logRead then p.sqs.map (fun e => (e.1, if e.2.frozen then { e.2 with logRead := true } else e.2)) else p.sqs })
      let t := if failed && !x.frozen then t.freeze c.sq fid else t
      .next t.pf1Settle
    | _, _ => .next s

/-- Queue Restart of a frozen queue after its error log was read (R287). -/
def execQueueRestart (fid : Nat) (s : State) : Host.Outcome State Fault Refusal :=
  match s.nvmeStarted fid false 0xC1 with
  | none => .next s
  | some c =>
    let q := c.cdw 10 % 65536
    match SMap.find s.pf1.sqs q with
    | none => .next (s.nvmeDone c 7 0x95 0)
    | some x =>
      if !x.frozen then .next (s.nvmeDone c 7 0x95 0)
      else if !x.logRead then .next (s.nvmeDone c 7 0x94 0)
      else .next ((s.withPf1 (fun p => { p with sqs := SMap.insert p.sqs q { x with frozen := false, logRead := false } })).nvmeDone c 0 0 0)

/-! ### Admin commands -/

/-- The bytes of a log: the errors newest first, the SMART critical warnings with free values for the rest; none for a log
PF1 does not have. -/
def State.logPage (s : State) (lid n : Nat) : Option (List Byte) :=
  let free := fun (k : Nat) => (List.range k).map (fun i => BitVec.ofNat 8 (Config.freeWord (s.free + i)).toNat)
  match lid with
  | 1 => some (s.pf1.errors.flatten)
  | 2 => some (s.pf1.warning :: free 511)
  | 0 => some (free n)
  | 3 => some (free 512)
  | 5 => some (free 4096)
  | _ => none

/-- Get Log Page returns a log (NVMe 2.0; R287). -/
def execGetLogPage (fid : Nat) (prps : HostRead) (s : State) : Host.Outcome State Fault Refusal :=
  match s.nvmeStarted fid false 2 with
  | none => .next s
  | some c =>
    let n := 4 * (c.cdw 10 / 65536 + c.cdw 11 % 65536 * 65536 + 1)
    let off := c.n 48 8
    if 262144 < n then .next (s.nvmeDone c 0 0x02 0)
    else match s.logPage (c.cdw 10 % 256) n with
      | none => .next (s.nvmeDone c 1 0x09 0)
      | some l =>
        let bs := bytesAt l off n
        match ({ s with free := s.free + n } : State).sendPrp c prps (bs ++ zeros (n - bs.length)) with
        | none => .next (s.nvmeDone c 0 0x04 0)
        | some t => .next (t.nvmeDone c 0 0 0)

/-- Create I/O Completion Queue; IEN = 1 is refused (Table 11.5). -/
def execCreateIoCompletionQueue (fid : Nat) (s : State) : Host.Outcome State Fault Refusal :=
  match s.nvmeStarted fid false 5 with
  | none => .next s
  | some c =>
    let q := c.cdw 10 % 65536
    let size := c.cdw 10 / 65536
    if q = 0 ∨ 128 < q ∨ (SMap.find s.pf1.cqs q).isSome then .next (s.nvmeDone c 1 0x01 0)
    else if size = 0 ∨ 4095 < size then .next (s.nvmeDone c 1 0x02 0)
    else if (c.cdw 11).testBit 1 ∨ !((c.cdw 11).testBit 0) then .next (s.nvmeDone c 0 0x02 0)
    else
      let y : NvmeCq := { base := c.n 24 8, size := size + 1, head := 0, tail := 0, phase := true }
      .next ((s.withPf1 (fun p => { p with cqs := SMap.insert p.cqs q y })).nvmeDone c 0 0 0)

/-- Create I/O Submission Queue. -/
def execCreateIoSubmissionQueue (fid : Nat) (s : State) : Host.Outcome State Fault Refusal :=
  match s.nvmeStarted fid false 1 with
  | none => .next s
  | some c =>
    let q := c.cdw 10 % 65536
    let size := c.cdw 10 / 65536
    let cq := c.cdw 11 / 65536
    if q = 0 ∨ 128 < q ∨ (SMap.find s.pf1.sqs q).isSome ∨ cq = 0 ∨ 128 < cq then .next (s.nvmeDone c 1 0x01 0)
    else if (SMap.find s.pf1.cqs cq).isNone then .next (s.nvmeDone c 1 0x00 0)
    else if size = 0 ∨ 4095 < size then .next (s.nvmeDone c 1 0x02 0)
    else if !((c.cdw 11).testBit 0) then .next (s.nvmeDone c 0 0x02 0)
    else
      let x : NvmeSq := { base := c.n 24 8, size := size + 1, cq := cq, head := 0, tail := 0, frozen := false, logRead := false }
      .next ((s.withPf1 (fun p => { p with sqs := SMap.insert p.sqs q x })).nvmeDone c 0 0 0)

/-- Delete I/O Submission Queue ends a freeze too (R287); it waits for the queue's started commands, the others end with it. -/
def execDeleteIoSubmissionQueue (fid : Nat) (s : State) : Host.Outcome State Fault Refusal :=
  match s.nvmeStarted fid false 0 with
  | none => .next s
  | some c =>
    let q := c.cdw 10 % 65536
    if q = 0 ∨ (SMap.find s.pf1.sqs q).isNone then .next (s.nvmeDone c 1 0x01 0)
    else if s.pf1.cmds.any (fun d => decide (d.sq = q) && decide (d.phase = .started)) then .next s
    else
      .next ((s.withPf1 (fun p => { p with sqs := SMap.erase p.sqs q, cmds := p.cmds.filter (fun d => !(d.sq = q)) })).nvmeDone c 0 0 0)

/-- Set Features, Power Management: the entry begins; the command completes with it (R285). -/
def execSetFeaturesPowerManagement (fid : Nat) (s : State) : Host.Outcome State Fault Refusal :=
  match s.nvmeStarted fid false 9 with
  | none => .next s
  | some c =>
    if c.cdw 10 % 256 ≠ 2 ∨ s.pf1.entering.isSome then .next s
    else if 2 < c.cdw 11 % 32 then .next (s.nvmeDone c 0 0x02 0)
    else .next (s.withPf1 (fun p => { p with entering := some (c.cdw 11 % 32, fid) }))

/-- PF1 has entered its new power state: the command completes, held commands may start (R285). -/
def execPowerStateEntry (s : State) : Host.Outcome State Fault Refusal :=
  match (if s.stopped then none else s.pf1.entering) with
  | none => .next s
  | some (k, fid) =>
    let t := s.withPf1 (fun p => { p with ps := k, entering := none })
    match t.nvme fid with
    | some c => .next (t.nvmeDone c 0 0 0)
    | none => .next t

/-- Format NVM: every block unmapped; SES 1 or 2 makes a new flash key (17). -/
def execFormatNvm (fid : Nat) (s : State) : Host.Outcome State Fault Refusal :=
  match s.nvmeStarted fid false 0x80 with
  | none => .next s
  | some c =>
    let ses := c.cdw 10 / 512 % 8
    if c.n 4 4 ≠ 1 ∧ c.n 4 4 ≠ 0xFFFFFFFF then .next (s.nvmeDone c 0 0x0B 0)
    else if c.cdw 10 % 16 ≠ 0 then .next (s.nvmeDone c 1 0x0A 0)
    else if 2 < ses then .next (s.nvmeDone c 0 0x02 0)
    else
      let t := s.unmapBlocks (s.flash.map Prod.fst)
      let t := if ses = 0 then t else t.withPf1 (fun p => { p with keyGen := p.keyGen + 1 })
      .next (t.nvmeDone c 0 0 0)

/-- A warm start begins (R288): no more fetch, SHST 01, commands not started end with 0x98. -/
def State.pf1Quiesce (s : State) : State :=
  s.withPf1 (fun p => { p with
    closing := true, shst := 1
    cmds := p.aborted (fun _ => true) 0x98 })

end Sys2Proof.Machine
end

