-- ==== Sys2Proof/Machine/Start.lean ====
section
/-!
DEFINITION. Starts (R378–R388): what a start resets and keeps, the orderly shutdown before a warm start, the stages and their
failures, PERST# and the PCIe links.
-/

namespace Sys2Proof.Machine

/-! ### Straps and PCIe ports -/

/-- PCIe port p (0, 1). -/
def Start.port (x : Start) (p : Nat) : PciePort := SMap.get PciePort.reset x.pcie p

/-- PCIe port p becomes y. -/
def Start.setPort (x : Start) (p : Nat) (y : PciePort) : Start := { x with pcie := SMap.set PciePort.reset x.pcie p y }

/-- Does the module have this port (R292)? -/
def Start.hasPort (x : Start) (second : Bool) : Bool := !second || x.bifurc

/-- Is host port (second: port 1) up? -/
def State.linkUp (s : State) (second : Bool) : Bool := s.start.hasPort second && (s.start.port (b2n second)).up

/-! ### What a start resets (R9, R300, R382) -/

/-- Registers kept in flash (R290). -/
def flashRegs : List Nat := [Reg.hlyRetired, Reg.hlyHealthWr]

/-- Registers and fields that survive a warm start, with their masks: PHYS_GOOD, SPARE_USED with SPARE_FOR, the failure fields and
FELL_COLD (R400), PERST_WARM, the log failures (R373), a locked policy (R408). -/
def State.warmRegs (s : State) : List (Nat × Word) :=
  [(Reg.hubPeonyMap, 0xFFFFFFFFFFFFF), (Reg.hubDieStatus, 0x4F4F4F4F), (Reg.pwrStartStatus, 0x07FFF000), (Reg.pwrStartCfg, 1),
   (Reg.mgdStatus, 0xC0000000)] ++ (if bitAt (s.reg Reg.secPolicy) 31 then [(Reg.secPolicy, 0x80000003)] else [])

/-- The masked bits of the listed registers in s, over their reset values. -/
def State.keptRegs (s : State) (rs : List (Nat × Word)) : SMap Word :=
  rs.foldl (fun m e => SMap.set (resetOf e.1) m e.1 ((resetOf e.1 &&& ~~~e.2) ||| (s.reg e.1 &&& e.2))) []

/-- The state a start begins in: everything at reset but what flash, fuses and Heather's private memory hold, device time while input
power stays good (R16), and on a warm start the fields stated to survive it (R382) and die-shared SRAM and HBM (R406; DEDUCED, log 14).
Every staged value is its reset value, that of a policy kept by its lock too (R300). -/
def State.restarted (s : State) (warm powerGood : Bool) : State :=
  let keep := flashRegs.map (fun a => (a, (0xFFFFFFFFFFFFFFFF : Word))) ++ (if warm then s.warmRegs else [])
  let now := if powerGood then 0 else s.now
  let start : Start := { s.start with stage := 0, warm := warm, began := now, released := none, closing := false, blocked := false,
                                      losing := false, off := false, record := if warm then s.start.record else none }
  let t : State := { State.reset with
    pending := s.pending, out := s.out, free := s.free, nextCmd := s.nextCmd, now := now, eff := s.keptRegs keep,
    mem := if warm then s.mem.filter (fun e => decide (sharedBase ≤ e.1)) else [],
    poison := if warm then s.poison.filter (fun e => decide (sharedBase ≤ 64 * e.1)) else [],
    flash := s.flash, erase := s.erase, pf1 := s.pf1.cleared true, start := start,
    logSecondary := if powerGood then [] else s.logSecondary, logSecondaryWr := if powerGood then 0 else s.logSecondaryWr,
    sec := { s.sec with key := if warm then s.sec.key else none, keyWords := [] } }
  let t := match s.savedLog with
    | some (l, wr) => { t.setReg Reg.mgdLogWr wr with logPrimary := l }
    | none => t
  let t := (t.stage Reg.secPolicy (t.reg Reg.secPolicy &&& ~~~(3 : Word))).setReg Reg.pwrStartTime now
  if decide (65536 ≤ t.regFld Reg.hlyRetired 0 32) then t.setRegFld Reg.hlyStatus 30 1 1 else t

/-- A start begins: PWR_START_STATUS.WARM, the count of repeated attempts, FELL_COLD (R383). -/
def State.beginStart (s : State) (warm powerGood fell : Bool) (retries : Nat) : State :=
  let t := s.restarted warm powerGood
  let t := (t.setRegFld Reg.pwrStartStatus 27 1 (b2n warm)).setRegFld Reg.pwrStartStatus 25 2 retries
  if fell then t.setRegFld Reg.pwrStartStatus 24 1 1 else t

/-- Every job's 0x01 end, PF1's stop: the orderly shutdown before a warm start begins (R378). -/
def State.beginShutdown (s : State) : State :=
  let t := (s.jobs.filter Job.isLive).foldl (fun u j => match u.job j.id with
    | some k => ((k.placed.filter (fun n => decide ((u.core n).job = k.id))).foldl State.idleCore u).endJob k 0x01
    | none => u) s
  let t := t.pf1Quiesce
  { t with start := { t.start with closing := true } }

/-- A done command's completion is lost while the host link is in reset (R288). -/
def State.pf1Undelivered (s : State) : State :=
  if (s.start.port 0).perst then s.withPf1 (fun p => { p with cmds := p.cmds.filter (fun c => !c.isDone) }) else s

/-- The shutdown goes on: once PF1 has drained, the map and the marker are written and CSTS.SHST shows 0b10 (R288); then the warm record is
written and the warm start begins (R378). -/
def State.endShutdown (s : State) : State :=
  let t := s.pf1Undelivered
  if !t.pf1.drained then t
  else if t.pf1.shst ≠ 2 then { t.withPf1 (fun p => { p with shst := 2 }) with start := { t.start with marker := true } }
  else ({ t with start := { t.start with record := some (BitVec.ofNat 8 (t.regFld Reg.hubEngineMap 16 8)) } } : State).beginStart
      true false false 0

/-- A warm start is asked for: the shutdown comes first. -/
def State.warmStart (s : State) : State :=
  if s.start.off || s.start.losing || s.start.closing then s else s.beginShutdown.endShutdown

/-- A cold start while input power stays good. -/
def State.coldStart (s : State) : State := if s.start.off || s.start.losing then s else s.beginStart false false false 0

/-- PWR_RESTART is written (R378): the key, one bit set. -/
def State.restart (s : State) (v : Nat) : State :=
  if bitsOf v 16 16 ≠ 0xA55A then s
  else match bitsOf v 0 2 with
    | 1 => s.warmStart
    | 2 => s.coldStart
    | _ => s

/-- A write of COLD to PWR_RESTART (R378). -/
def execColdStart (v : BitVec 32) (s : State) : Host.Outcome State Fault Refusal :=
  if s.stopped || decide (s.start.stage < 1) || !(bitAt v 1) then .next s else .next (s.restart v.toNat)

/-- A write of WARM to PWR_RESTART (R378). -/
def execWarmStart (v : BitVec 32) (s : State) : Host.Outcome State Fault Refusal :=
  if s.stopped || decide (s.start.stage < 1) || !(bitAt v 0) then .next s else .next (s.restart v.toNat)

/-! ### Failures (R383) -/

/-- FAIL_STAGE and FAIL_CODE record a failure of the current stage. -/
def State.recordFail (s : State) (code : Nat) : State :=
  (s.setRegFld Reg.pwrStartStatus 20 4 s.start.stage).setRegFld Reg.pwrStartStatus 12 8 code

/-- A warm start fails: recorded and logged; it is repeated at most three times with the same warm record, then the start is cold. -/
def State.failWarm (s : State) (code : Nat) : State :=
  let t := (s.recordFail code).logEvent 0x10 1 0xF000 0 (BitVec.ofNat 64 code)
  let n := s.regFld Reg.pwrStartStatus 25 2
  if n < 3 then t.beginStart true false false (n + 1) else t.beginStart false false true 0

/-- A signature rejected in both banks: a warm start fails, a cold one stops at the stage reached (R383). -/
def State.failSignature (s : State) : State :=
  if s.start.warm then s.failWarm 0x01
  else { s.recordFail 0x01 with start := { s.start with blocked := true } }

/-! ### The stages (R379, R382) -/

/-- Component c + 1 is verified (R403): its active bank, else the other, which is made active with BANK_FALLBACK; each rejection is
recorded. -/
def State.verify (s : State) (c : Nat) : State × Bool :=
  let want := b2n (bitAt s.sec.chosen c)
  let set := fun (t : State) (b : Nat) =>
    let m : BitVec 4 := BitVec.ofNat 4 (2 ^ c)
    let svn := BitVec.ofNat 32 (t.sec.bankSvn c b * 2 ^ (8 * c))
    let clear : BitVec 32 := ~~~(BitVec.ofNat 32 (255 * 2 ^ (8 * c)))
    let put := fun (x : BitVec 4) => if b = 1 then x ||| m else x &&& ~~~m
    { t with sec := { t.sec with active := put t.sec.active, chosen := put t.sec.chosen, runSvn := (t.sec.runSvn &&& clear) ||| svn } }
  match s.sec.bankCheck c want with
  | none => (set s want, true)
  | some e =>
    let t := (s.reject (c + 1) e).logEvent 0x10 1 0xF000 0 (BitVec.setWidth 64 e)
    match t.sec.bankCheck c (1 - want) with
    | none => (set (t.setRegFld Reg.secStatus 29 1 1) (1 - want), true)
    | some e2 => (t.reject (c + 1) e2, false)

/-- Components 0x02–0x04 in turn. -/
def State.verifyAll (s : State) : State × Bool :=
  [1, 2, 3].foldl (fun r c => if r.2 then r.1.verify c else r) (s, true)

/-- The stage is reached: STAGE and its time. -/
def State.enterStage (s : State) (k : Nat) : State :=
  ({ s with start := { s.start with stage := k } } : State).setReg (Reg.pwrStageTime k) s.now

/-- Fjorin leaves electrical idle: ports with EN = 1 train, in a warm start by a fast retrain (R382, R388). -/
def State.releasePorts (s : State) : State :=
  let t : State := { s with start := { s.start with released := some s.now } }
  ((List.range 8).filter t.portEnabled).foldl (fun u p => u.beginTraining p u.start.warm) t

/-- MGMT (stage 1): Heather firmware runs; recovery mode when both banks are rejected (R403). The valve schedule starts (R393). -/
def State.toMgmt (s : State) : State :=
  let (t, ok) := s.verify 0
  if !ok then
    if s.start.warm then t.failSignature else t.failSignature.setRegFld Reg.htrStatus 31 1 1
  else
    let u := t.enterStage 1
    { u with power := { u.power with valveTa := u.now, valveNa := u.power.valveNext } }

/-- The spare of die d takes the number of the first core that failed its self-test (R12). -/
def State.spareAtStart (s : State) (d : Nat) : State :=
  let good := s.reg Reg.hubPeonyMap
  match (List.range 12).find? (fun i => !(bitAt good (13 * d + i))) with
  | none => s
  | some i =>
    if bitAt good (13 * d + 12) && !(bitAt (s.reg Reg.hubDieStatus) (8 * d + 6)) then
      ((s.setRegFld Reg.hubDieStatus (8 * d) 4 i).setRegFld Reg.hubDieStatus (8 * d + 6) 1 1).logEvent 0x07 1 (BitVec.ofNat 16 (13 * d + i)) 0
        (BitVec.ofNat 64 (12 * d + i))
    else s

/-- STAGE1: the self-test or its stored result, firmware of the cores, the engines and the power controller. -/
def State.toStage1 (s : State) (w : StageWork) : State :=
  if s.start.warm && s.start.record.isNone then s.failWarm 0x02
  else
    let (t, ok) := s.verifyAll
    if !ok then t.failSignature
    else
      let t := if s.start.warm then t else t.setReg Reg.hubPeonyMap (BitVec.setWidth 64 w.cores)
      let t := t.setRegFld Reg.hubEngineMap 0 16 w.lupin.toNat
      let t := (List.range 4).foldl (fun u d => u.setRegFld Reg.hubDieStatus (8 * d + 7) 1 (b2n (bitAt w.dies d))) t
      let t := (List.range 4).foldl State.spareAtStart t
      let off := (((List.range 4).filter (fun d => !(bitAt w.dies d))).map (fun d => 15 * 16 ^ d)).foldl (· + ·) 0
      ({ t with dieOff := ~~~w.dies, hbmOff := BitVec.ofNat 16 off } : State).enterStage 2

/-- The HBM of a stack: partitions 2s and 2s + 1 (Table 15.8, R11). -/
def stackParts (good : BitVec 8) : BitVec 16 :=
  BitVec.ofNat 16 (((List.range 8).map (fun i => if bitAt good i then 0 else 3 * 4 ^ i)).foldl (· + ·) 0)

/-- STAGE2: every stack trained, verified or marked failed; a stack of the warm record that does not verify fails the warm start. -/
def State.toStage2 (s : State) (w : StageWork) : State :=
  let known := s.start.record.getD 0xFF
  if s.start.warm && decide (w.hbm &&& known ≠ known) then s.failWarm 0x04
  else
    let good := w.hbm &&& known
    let t := s.setRegFld Reg.hubEngineMap 16 8 good.toNat
    let t := ({ t with hbmOff := t.hbmOff ||| stackParts good } : State).enterStage 3
    if s.start.warm then t.releasePorts else t

/-- STAGE3: the holdup store is charged, the map loaded; without the marker the journal is replayed (R271). A map that cannot be read
fails a warm start, and leaves a cold one without storage. -/
def State.toStage3 (s : State) (w : StageWork) : State :=
  if !(bitAt (s.reg Reg.pwrHoldup) 31) then s
  else if !w.mapOk && s.start.warm then s.failWarm 0x05
  else
    let t := if w.mapOk then s.setRegFld Reg.hlyStatus 31 1 1 else s.recordFail 0x05
    let t := if w.mapOk && !s.start.marker then (t.setRegFld Reg.hlyStatus 28 1 1).health 0x09 0 0 w.replayed else t
    let t := ({ t with start := { t.start with marker := if w.mapOk then false else t.start.marker } } : State).enterStage 4
    if s.start.warm then t else t.releasePorts

/-- R388's fabric condition: every enabled port up or failed, and LOCKED or ROOT. -/
def State.fabricSettled (s : State) : Bool :=
  ((List.range 8).filter s.portEnabled).all (fun p => decide ((s.port p).state = .up) || decide ((s.port p).state = .failed)) &&
    (bitAt (s.reg Reg.fjlTimeStatus) 31 || bitAt (s.reg Reg.fjlTimeCfg) 31)

/-- FULL: the fabric condition, or 15 s after the ports' release (R388). -/
def State.toFull (s : State) : State :=
  match s.start.released with
  | none => s
  | some r => if s.fabricSettled || decide (15000000000 ≤ (s.now - r).toNat) then s.enterStage 5 else s

/-- May the start go on: powered, not in the power-loss sequence, not stopped by a rejection, no trip (R387)? -/
def State.startRuns (s : State) : Bool :=
  !s.start.off && !s.start.losing && !s.start.blocked && !s.tripped

/-- The current stage's work is done: the next stage is reached, or the start fails (R379, R383). While the shutdown before a warm
start runs, its end. -/
def execStageAdvance (w : StageWork) (s : State) : Host.Outcome State Fault Refusal :=
  if !(Instr.stageAdvance w).wf then .fault .illFormed
  else if s.start.closing then .next s.endShutdown
  else if !s.startRuns then .next s
  else match s.start.stage with
    | 0 => .next s.toMgmt
    | 1 => .next (s.toStage1 w)
    | 2 => .next (s.toStage2 w)
    | 3 => .next (s.toStage3 w)
    | 4 => .next s.toFull
    | _ => .next s

/-- The limit, in ns from the start's beginning, within which the next stage must be reached (R383). -/
def stageLimit (k : Nat) : Option Nat :=
  match k with
  | 1 => some 2000000000
  | 2 => some 20000000000
  | 3 => some 30000000000
  | _ => none

/-- A stage exceeds its limit (R383): a warm start fails; a cold one records it and goes on. -/
def execStageTimeout (s : State) : Host.Outcome State Fault Refusal :=
  match stageLimit s.start.stage with
  | none => .next s
  | some n =>
    if !s.startRuns || s.start.closing || decide ((s.now - s.start.began).toNat ≤ n) then .next s
    else if s.start.warm then .next (s.failWarm 0x06) else .next (s.recordFail 0x06)

/-! ### Input power and PERST# -/

/-- Input power becomes good (R378, R16): the timebase leaves reset, the straps are sampled, a cold start begins. -/
def State.powerGood (s : State) (bifurc : Bool) (addrSel : BitVec 3) : State :=
  let t := s.beginStart false true false 0
  { t with start := { t.start with bifurc := bifurc, addrSel := addrSel, pcie := [], stage := 0 } }

/-- Input power becomes good after the module was off (R378). -/
def execInputPowerGood (bifurc : Bool) (addrSel : BitVec 3) (s : State) : Host.Outcome State Fault Refusal :=
  if s.start.off then .next (s.powerGood bifurc addrSel) else .next s

/-- PERST# of a port is asserted: its link is reset; on port 0 a start follows, warm with PERST_WARM = 1 (R378). Ignored in the
power-loss sequence (R434). -/
def execPerstAssert (second : Bool) (s : State) : Host.Outcome State Fault Refusal :=
  if s.start.off || s.start.losing || !(s.start.hasPort second) then .next s
  else
    let t : State := { s with start := s.start.setPort (b2n second) PciePort.reset }
    if second then .next t
    else if bitAt (s.reg Reg.pwrStartCfg) 0 then .next t.warmStart else .next t.coldStart

/-- PERST# of a port is released: link training begins (R434). -/
def execPerstRelease (second : Bool) (s : State) : Host.Outcome State Fault Refusal :=
  if s.start.off || s.start.losing || !(s.start.hasPort second) then .next s
  else .next { s with start := s.start.setPort (b2n second) { s.start.port (b2n second) with perst := false } }

/-- A port's link finishes training at a width and speed (R291): x8 at most when bifurcated, 64 GT/s in flit mode only. -/
def execPcieLinkUp (second flit : Bool) (speed width : BitVec 3) (s : State) : Host.Outcome State Fault Refusal :=
  let p := b2n second
  let most := if s.start.bifurc then 3 else 4
  if s.start.off || s.start.losing || !(s.start.hasPort second) || (s.start.port p).perst ||
      decide (speed.toNat < 1 ∨ 6 < speed.toNat) || (decide (speed = 6) && !flit) || decide (most < width.toNat) then .next s
  else .next { s with start := s.start.setPort p { perst := false, up := true, flit := flit, speed := speed, width := width } }

end Sys2Proof.Machine
end

