-- ==== Sys2Proof/Machine/Power.lean ====
section
/-!
DEFINITION. Power, cooling and the coolant guard (R389–R398), and what time alone does (R415, R332).
-/

namespace Sys2Proof.Machine

/-! ### The power loop (R389, R390) -/

/-- FLOW_LOW holds: the flow, or a sensor that reads out of range (R391). -/
def State.lowFlow (s : State) : Bool := s.power.flowLow || s.power.sensorFail

/-- The effective cap in W (R389). -/
def State.capWatts (s : State) : Nat :=
  let a := s.regFld Reg.pwrLimit 0 11
  let b := if s.lowFlow then Nat.min a 900 else a
  if s.tripped then Nat.min b 150 else b

/-- INPUT_W. -/
def State.inputWatts (s : State) : Nat := s.regFld Reg.pwrStatus 53 11

/-- CAPS: LIMIT, START, THERMAL, FLOW, GUARD (R389). -/
def State.caps (s : State) : Nat :=
  b2n (decide (s.regFld Reg.pwrLimit 0 11 ≤ s.inputWatts)) + 2 * b2n (decide (s.start.stage = 2)) + 4 * b2n (!s.power.offsets.isEmpty) +
    8 * b2n s.lowFlow + 16 * b2n s.tripped

/-- The thermal offset in mV of a die (4: the hub) whose junction reads tj: up 5 mV above 100 °C (and on reaching it), down 5 mV at 98 °C or less (R390). -/
def nextOffset (old tj : Nat) : Nat :=
  if 100 < tj ∨ (tj = 100 ∧ old = 0) then old + 5 else if tj ≤ 98 then old - 5 else old

/-- The supply target in mV the loop sets when it asks for want: at most VMAX_MV and, in STAGE1, 700; at least 720 unless the cap is
reached or STAGE1 limits it, then 600; at most 50 mV from the last in 100 µs; not up while power is above the cap (R19, R381, R389). -/
def State.targetFor (s : State) (want watts : Nat) : Nat :=
  let old := s.regFld Reg.pwrStatus 22 10
  let vmax := s.regFld Reg.pwrLimit 16 10
  let hi := if s.start.stage = 2 then Nat.min vmax 700 else vmax
  let lo := if decide (s.capWatts ≤ watts) || decide (s.start.stage = 2) then 600 else Nat.min 720 hi
  let a := Nat.min hi (Nat.max lo want)
  let b := if old = 0 then a else Nat.max (old - 50) (Nat.min (old + 50) a)
  Nat.min hi (if decide (s.capWatts < watts) && decide (old ≠ 0) then Nat.min old b else b)

/-- Element i of a list of readings. -/
def reading {n : Nat} (xs : List (BitVec n)) (i : Nat) : Nat := ((xs[i]?).getD 0).toNat

/-- The hub supply target the loop sets when it asks for want, in the same steps (R389). -/
def State.hubTarget (s : State) (want : Nat) : Nat :=
  let old := s.power.hub
  if old = 0 then want else Nat.max (old - 50) (Nat.min (old + 50) want)

/-- Die d's thermal offset in mV at a target v: it rises and falls as R390 says, never so that the supply falls below 600 mV, nor lowers it
below 720 mV while the die is under 100 °C and neither the cap nor STAGE1 asks for less (R19). -/
def State.offsetFor (s : State) (d v tj watts : Nat) : Nat :=
  let old := SMap.get 0 s.power.offsets d
  let was := s.regFld (Reg.hubOppoint d) 20 12
  let may := decide (100 ≤ tj) || decide (s.capWatts ≤ watts) || decide (s.start.stage = 2)
  let least := if may then 600 else if was = 0 then 720 else Nat.min 720 was
  Nat.min (v - least) (nextOffset old tj)

/-- The hub die's thermal offset (R390). -/
def State.hubOffset (s : State) (v tj : Nat) : Nat := Nat.min v (nextOffset (SMap.get 0 s.power.offsets 4) tj)

/-- The reference points of Table 1.3: supply in mV, junction in °C, cycle in ps. -/
def referencePoints : List (Nat × Nat × Nat) := [(880, 40, 580), (800, 60, 680), (720, 95, 820)]

/-- Is c ps a cycle that Table 1.3 and R443 allow at a supply of v mV and a junction of tj °C: that of a reference point, between those of two
points that enclose it, at most 820 ps in the operating range at 720 mV or more? -/
def cycleAllowed (v tj c : Nat) : Bool :=
  decide (0 < c) && (decide (v < 720) || decide (95 < tj) || decide (c ≤ 820)) &&
  referencePoints.all (fun p => !(decide (v = p.1) && decide (tj = p.2.1)) || decide (c = p.2.2)) &&
  referencePoints.all (fun p => referencePoints.all (fun q =>
    !(decide (q.1 ≤ v) && decide (v ≤ p.1) && decide (p.2.1 ≤ tj) && decide (tj ≤ q.2.1)) || (decide (p.2.2 ≤ c) && decide (c ≤ q.2.2))))

/-- Does a cycle fit the die's last reading: not longer at a higher supply and a lower junction, not shorter the other way (R443)? -/
def cycleFollows (v tj c v0 tj0 c0 : Nat) : Bool :=
  decide (c0 = 0) || (!(decide (v0 < v) && decide (tj < tj0)) || decide (c ≤ c0)) && (!(decide (v < v0) && decide (tj0 < tj)) || decide (c0 ≤ c))

/-- Die d's supply once the loop has set target v: less its thermal offset (R389). -/
def State.dieSupply (s : State) (x : PowerSample) (d v : Nat) : Nat := v - s.offsetFor d v (reading x.tj d) x.watts.toNat

/-- May the replica paths measure the sample's cycles (R443)? -/
def State.sampleOk (s : State) (x : PowerSample) : Bool :=
  let v := s.targetFor x.target.toNat x.watts.toNat
  (List.range 4).all (fun d =>
    let mv := s.dieSupply x d v
    let last := s.reg (Reg.hubOppoint d)
    !(bitAt (s.reg Reg.hubDieStatus) (8 * d + 7)) ||
      (cycleAllowed mv (reading x.tj d) (reading x.cycle d) &&
       cycleFollows mv (reading x.tj d) (reading x.cycle d) (fld last 20 12) (fld last 12 8) (fld last 0 12)))

/-- The logical control cores in rotation: does core n stop in the turn of k cores from core t on (R389)? -/
def inTurn (t k n : Nat) : Bool := decide (n < 48) && decide ((n + 48 - t) % 48 < k)

/-- Every 100 µs the loop samples and sets the supplies: PWR_STATUS, HUB_OPPOINT, the junctions, the offsets, the hub supply; at the lowest
setting, while the cap is exceeded, it stops issue on at least one control core, in rotation (R19, R389, R390, R415). A cycle that R443
rules out is no reading. -/
def execPowerLoopSample (x : PowerSample) (s : State) : Host.Outcome State Fault Refusal :=
  if !(Instr.powerLoopSample x).wf then .fault .illFormed else
  if s.start.off || decide ((s.now - s.power.sampled).toNat < 100000) then .next s
  else if !(s.sampleOk x) then .fault .illFormed
  else
    let w := x.watts.toNat
    let v := s.targetFor x.target.toNat w
    let hub := s.hubTarget x.hub.toNat
    let offs := (List.range 4).foldl (fun m d => SMap.set 0 m d (s.offsetFor d v (reading x.tj d) w))
      (SMap.set 0 s.power.offsets 4 (s.hubOffset hub (reading x.tj 4)))
    let hot := (List.range 5).foldl (fun m d =>
      if 110 ≤ reading x.tj d then (if (SMap.find m d).isSome then m else SMap.insert m d s.now) else SMap.erase m d) s.power.hot
    let k := if v = 600 ∧ s.capWatts < w then Nat.max 1 x.stops.toNat else 0
    let t := ((s.setRegFld Reg.pwrStatus 53 11 w).setRegFld Reg.pwrStatus 32 16 x.mv.toNat).setRegFld Reg.pwrStatus 22 10 v
    let t := (List.range 4).foldl (fun u d =>
      let up := bitAt (u.reg Reg.hubDieStatus) (8 * d + 7)
      let cyc := if up then reading x.cycle d else 0
      let u := u.setReg (Reg.hubOppoint d) (BitVec.ofNat 64 (s.dieSupply x d v * 2 ^ 20 + reading x.tj d * 2 ^ 12 + cyc))
      u.setRegFld Reg.dbgTjPeak (8 * d) 8 (Nat.max (u.regFld Reg.dbgTjPeak (8 * d) 8) (reading x.tj d))) t
    let t := t.setRegFld Reg.pwrCoolant 8 8 ((List.range 5).foldl (fun m d => Nat.max m (reading x.tj d)) 0)
    let t := (List.range 64).foldl (fun u n =>
      let c := u.core (BitVec.ofNat 6 n)
      u.setCore (BitVec.ofNat 6 n) { c with stopPower := inTurn s.power.turn k n }) t
    .next { t with power := { t.power with offsets := offs, hot := hot, sampled := s.now, hub := hub, turn := (s.power.turn + k) % 48 } }

/-- A junction at 110 °C for 10 ms is fatal to the module (R390). -/
def execJunctionOverheat (die : BitVec 3) (s : State) : Host.Outcome State Fault Refusal :=
  if !(Instr.junctionOverheat die).wf then .fault .illFormed else
  match SMap.find s.power.hot die.toNat with
  | none => .next s
  | some since => if (s.now - since).toNat < 10000000 then .next s else .next (s.fatalFault (BitVec.setWidth 64 die))

/-! ### Coolant (R391–R393) -/

/-- Does a reading lie out of the sensors' ranges, or the valve loop fail (R437, R438)? -/
def coolantBad (c : Coolant) : Bool :=
  decide (c.flow.toNat < 50) || decide (2000 < c.flow.toNat) || decide (800 < c.tIn.toNat) || decide (800 < c.tOut.toNat) || c.loopBad

/-- A reading of the sensors: PWR_COOLANT, SENSOR_FAIL with the valve at 100 %, and FLOW_LOW after 2 s on one side of FLOW_MIN. -/
def State.observe (s : State) (c : Coolant) : State :=
  let t := ((s.setRegFld Reg.pwrCoolant 40 16 c.flow.toNat).setRegFld Reg.pwrCoolant 28 12 c.tIn.toNat).setRegFld Reg.pwrCoolant 16 12 c.tOut.toNat
  if coolantBad c then
    let t := t.setRegFld Reg.pwrCoolant 56 8 100
    { t with power := { t.power with sensorFail := true, flowTurn := none } }
  else
    let below := decide (c.flow.toNat < 10 * s.regFld Reg.pwrValveCfg 0 8)
    let turn : Option (Bool × Word) :=
      if below = s.power.flowLow then none
      else match s.power.flowTurn with
        | some (b, since) => if b = below then some (b, since) else some (below, s.now)
        | none => some (below, s.now)
    match turn with
    | some (b, since) =>
      if 2000000000 ≤ (s.now - since).toNat then { t with power := { t.power with sensorFail := false, flowLow := b, flowTurn := none } }
      else { t with power := { t.power with sensorFail := false, flowTurn := some (b, since) } }
    | none => { t with power := { t.power with sensorFail := false, flowTurn := none } }

/-- The flow is observed (R391). -/
def execFlowLow (c : Coolant) (s : State) : Host.Outcome State Fault Refusal :=
  if s.start.off then .next s else .next (s.observe c)

/-- When valve iteration n is due: D_n = T_A + (n − n_A) * P (R393). -/
def State.valveDue (s : State) : Nat :=
  s.power.valveTa.toNat + (s.power.valveNext - s.power.valveNa) * (s.regFld Reg.pwrValveCfg 16 8 * 1000000)

/-- The earliest start of the next iteration: max(D_n, E + P / 2). -/
def State.valveStart (s : State) : Nat :=
  match s.power.valveEnd with
  | none => s.valveDue
  | some e => Nat.max s.valveDue (e.toNat + s.regFld Reg.pwrValveCfg 16 8 * 500000)

/-- The opening a valve iteration sets when the control asks for pct: at most 10 points from the last, between VALVE_MIN_PCT and 100;
100 while a sensor reads out of range (R391, R392). -/
def State.valveFor (s : State) (pct : Nat) : Nat :=
  let old := s.regFld Reg.pwrCoolant 56 8
  let a := Nat.max (old - 10) (Nat.min (old + 10) pct)
  if s.power.sensorFail then 100 else Nat.min 100 (Nat.max (s.regFld Reg.pwrValveCfg 8 8) a)

/-- A valve iteration (R392, R393), from MGMT on; one that starts after its due time counts in PWR_VALVE_LATE. -/
def execValveIteration (c : Coolant) (pct : Byte) (s : State) : Host.Outcome State Fault Refusal :=
  if !(Instr.valveIteration c pct).wf then .fault .illFormed else
  if s.start.off || decide (s.start.stage < 1) || decide (s.now.toNat < s.valveStart) then .next s
  else
    let t := if s.valveDue < s.now.toNat then s.bump Reg.pwrValveLate 1 else s
    let t := t.observe c
    let t := t.setRegFld Reg.pwrCoolant 56 8 (t.valveFor pct.toNat)
    .next { t with power := { t.power with valveNext := t.power.valveNext + 1, valveEnd := some s.now } }

/-- The current of VALVE_OUT in µA: 4 + 0.16 × VALVE_PCT mA; none, below 1 mA, without power (R437). -/
def State.valveOut (s : State) : Option Nat := if s.start.off then none else some (4000 + 160 * s.regFld Reg.pwrCoolant 56 8)

/-- PWR_VALVE_CFG was set by an APPLY: the schedule starts anew (R393). -/
def State.valveConfigured (s : State) : State :=
  if s.start.stage < 1 then s else { s with power := { s.power with valveTa := s.now, valveNa := s.power.valveNext } }

/-! ### Holdup and loss of input power (R394, R395) -/

/-- Usable energy is measured at each start, until CHARGED, and every 24 h (R394). -/
def execHoldupMeasure (cj : BitVec 16) (s : State) : Host.Outcome State Fault Refusal :=
  let due := match s.power.holdupAt with
    | none => true
    | some t => !(bitAt (s.reg Reg.pwrHoldup) 31) || decide (86400000000000 ≤ (s.now - t).toNat)
  if s.start.off || s.start.losing || !due then .next s
  else
    let t := (s.setRegFld Reg.pwrHoldup 0 16 cj.toNat).setRegFld Reg.pwrHoldup 30 1 (b2n (decide (cj.toNat < 3000)))
    let t := if 3000 ≤ cj.toNat then t.setRegFld Reg.pwrHoldup 31 1 1 else t
    .next { t with power := { t.power with holdupAt := some s.now } }

/-- The power-loss sequence starts (R395): issue stops, Marigold acts under R364. -/
def execPowerLoss (s : State) : Host.Outcome State Fault Refusal :=
  if s.start.off || s.start.losing then .next s
  else
    let t := s.fatalFault 0
    .next { t with fatal := true, start := { t.start with losing := true } }

/-- The module without power: only flash, the fuses and Heather's flash keep anything. -/
def State.unpowered (s : State) : State :=
  let t := s.restarted false true
  { t with start := { t.start with off := true, pcie := [] }, savedLog := s.savedLog }

/-- The drain has ended, or the store fell to 5 J: the module powers down; with input power good again a cold start follows (R395). -/
def execPowerDown (good bifurc : Bool) (addrSel : BitVec 3) (s : State) : Host.Outcome State Fault Refusal :=
  if !s.start.losing then .next s
  else if good then .next (s.unpowered.powerGood bifurc addrSel) else .next s.unpowered

/-! ### The coolant guard (R396–R398) -/

/-- A trip begins (R397): counted once; ports disabled and HBM in self-refresh at once, or while a cut is being taken after it, whose
pending ports are INCOMPLETE at once (R371). -/
def State.beginTrip (s : State) : State :=
  if s.tripped then s
  else
    let t := ({ s with tripped := true } : State).bump Reg.grdTrips 1
    let t := t.setRegFld Reg.grdStatus 31 1 1
    if t.stopped && decide (t.regFld Reg.mgdCutStatus 0 2 = 1) then
      ((List.range 8).filter t.portRecords).foldl (fun u p => u.endRecording p true) t
    else ({ t with selfRefresh := true } : State).disablePorts

/-- Ports with EN = 1 train again after a trip, by a fast retrain, once Heather has released them (R388, R398). -/
def State.retrainPorts (s : State) : State :=
  if s.start.released.isNone then s
  else ((List.range 8).filter s.portEnabled).foldl (fun u p => u.beginTraining p true) s

/-- A trip ends (R398): the latches are cleared, HBM leaves self-refresh, ports retrain, cores go on (a stopped module's only on
RESUME, R371). -/
def State.endTrip (s : State) : State :=
  let t := s.setRegFld Reg.grdStatus 29 3 0
  if s.tripped then ({ t with tripped := false, selfRefresh := false } : State).retrainPorts else t

/-- CLEAR_READY: both channels SAFE for the last 1,000 samples (R398). -/
def State.clearReady (s : State) : Bool := decide (1000 ≤ s.guard.safeRun)

/-- Both channels are sampled every 1 ms (R396): agreement, a run of disagreement, the latches and trips they give rise to. -/
def execGuardSample (a b : Bool) (s : State) : Host.Outcome State Fault Refusal :=
  let early := match s.guard.sampled with
    | none => false
    | some t => decide ((s.now - t).toNat < 1000000)
  if s.start.off || s.start.losing || early then .next s
  else
    let g := s.guard
    let safeA := a
    let safeB := !b
    let disc := s.regFld Reg.grdCfg 0 10
    let t := (s.setRegFld Reg.grdStatus 25 1 (b2n safeA)).setRegFld Reg.grdStatus 24 1 (b2n safeB)
    if safeA != safeB then
      let run := g.run + 1
      let t : State := { t with guard := { g with run := run, safeRun := 0, sampled := some s.now } }
      let t := t.setRegFld Reg.grdStatus 0 10 (Nat.min run 1023)
      if decide (disc ≤ run) && !(bitAt (t.reg Reg.grdStatus) 29) then .next (t.setRegFld Reg.grdStatus 29 1 1).beginTrip else .next t
    else
      let t := if decide (0 < g.run) && decide (g.run < disc) then t.bump Reg.grdDisagree 1 else t
      let t := t.setRegFld Reg.grdStatus 0 10 0
      if safeA then
        let t : State := { t with guard := { safe := true, run := 0, safeRun := Nat.min 1000 (g.safeRun + 1), sampled := some s.now } }
        let auto := t.clearReady && t.tripped && bitAt (t.reg Reg.grdCfg) 16 && bitAt (t.reg Reg.grdStatus) 30 && !(bitAt (t.reg Reg.grdStatus) 29)
        if auto then .next t.endTrip else .next t
      else
        let t : State := { t with guard := { safe := false, run := 0, safeRun := 0, sampled := some s.now } }
        .next (t.setRegFld Reg.grdStatus 30 1 1).beginTrip

/-- A GRD_CLEAR write (R398): with CLEAR = 1, the trip ends when CLEAR_READY is 1, else the write counts in REFUSED. -/
def State.guardWrite (s : State) (v : Nat) : State :=
  if !(v.testBit 0) then s else if s.clearReady then s.endTrip else s.bumpSat Reg.grdClear 16 16 1

/-- GRD_CLEAR is written (R398). -/
def execGuardClear (v : BitVec 32) (s : State) : Host.Outcome State Fault Refusal :=
  if s.stopped || decide (s.start.stage < 1) then .next s else .next (s.guardWrite v.toNat)

/-! ### Time -/

/-- Is a job of partition p's group in STATE 1 (Table 18.1)? -/
def State.busyPart (s : State) (p : Nat) : Bool := s.jobs.any (fun j => decide (j.group = s.groupOf p) && decide (j.state = .running))

/-- Does group g's watchdog run: enabled, the group's job in STATE 1, no core of it stopped at BRK, no trip, no global stop (R423)? -/
def State.watching (s : State) (g : Nat) : Bool :=
  s.isGroup g && bitAt (s.reg (Reg.dbgWdog g)) 31 && !s.tripped && !s.stopped && (match s.runningJob g with
    | some j => decide (j.state = .running) && !(j.placed.any (fun n => (s.core n).brkStop || (s.core n).brkDrain))
    | none => false)

/-- Each running watchdog runs 1 ns. -/
def State.watchdogsRun (s : State) : State :=
  { s with wdog := ((List.range 16).filter s.watching).foldl (fun m g => SMap.set 0 m g (SMap.get 0 m g + 1)) s.wdog }

/-- Device time advances by 1 ns, and with it the time counters of R414 and R415 and the watchdogs (R5). -/
def State.deviceTick (s : State) : State :=
  let t : State := { s with now := s.now + 1 }
  let t := ((List.range 16).filter s.busyPart).foldl (fun u p => u.bump (Reg.dbgPartCnt p 2) 1) t
  let t := if s.caps = 0 then t else t.bump Reg.dbgCappedNs 1
  let t := if (List.range 4).any (fun d => decide (95 ≤ s.regFld (Reg.hubOppoint d) 12 8)) then t.bump Reg.dbgHotNs 1 else t
  t.watchdogsRun

/-- The energy of 1 ns of input power (R415). -/
def State.energyTick (s : State) : State :=
  let e := s.power.nanojoules + s.inputWatts
  let t := if 1000000 ≤ e then s.bump Reg.dbgEnergyMj 1 else s
  { t with power := { t.power with nanojoules := e % 1000000 } }

/-- 1 ns passes on an idle queue (log entry 1): the energy, and device time, but for the ns it is slowed by (1 in 1,000, R332). -/
def State.tick (s : State) : State :=
  if s.start.off then s
  else if decide (0 < s.align.slowNs) && decide (s.align.slowPhase = 999) then
    ({ s with align := { s.align with slowNs := s.align.slowNs - 1, slowPhase := 0 } } : State).energyTick
  else if 0 < s.align.slowNs then
    ({ s with align := { s.align with slowPhase := s.align.slowPhase + 1 } } : State).deviceTick.energyTick
  else s.deviceTick.energyTick

end Sys2Proof.Machine
end

