-- ==== Sys2Proof/Machine/Heather.lean ====
section
/-!
DEFINITION. Heather as an endpoint (R386, R402–R412): MCTP requests in arrival order, SPDM, PLDM sensors and effecters, firmware
update, provisioning; SEC_SVN_COMMIT.
-/

namespace Sys2Proof.Machine

/-- A change of Heather's endpoint state. -/
def State.withHeather (s : State) (f : Heather → Heather) : State := { s with heather := f s.heather }

/-! ### Arrival and order (R386, R410) -/

/-- In recovery mode (R403)? -/
def State.inRecoveryMode (s : State) : Bool := bitAt (s.reg Reg.htrStatus) 31

/-- Does Heather hear this transport: SMBus from 20 ms after input power became good, VDM from MGMT or in recovery mode over a link
that is up (R386, R403)? -/
def State.hears (s : State) (t : Transport) : Bool :=
  !s.start.off && (match t with
    | .smbus => decide (20000000 ≤ s.now.toNat)
    | .vdm second => s.linkUp second && (decide (1 ≤ s.start.stage) || s.inRecoveryMode))

/-- The message types Heather handles: control, PLDM, SPDM (R410). -/
def mctpSupported : MctpMsg → Bool
  | .otherType _ => false
  | _ => true

/-- The request is answered: its reply goes out on its transport. -/
def State.reply (s : State) (t : Transport) (r : MctpReply) : State :=
  ({ s with heather := { s.heather with waiting := s.heather.waiting.drop 1 } } : State).send (.mctp t r)

/-- The Walnex status of a failing reply whose code no rule states: a free one of those its chapter defines, 0xE0–0xE6 (R10, R411, R413;
DESIGN CHOICE, log entry 89). -/
def State.someCode (s : State) : Byte := BitVec.ofNat 8 (0xE0 + (Config.freeWord s.free).toNat % 7)

/-- The reply to a request that no row of its own handles: discovery, what Heather does not support. -/
def State.plainReply (s : State) (m : MctpMsg) : Option (State × MctpReply) :=
  match m with
  | .control c => some (s, .control c 0 [])
  | .spdmOther _ => some (s, if s.start.stage < 1 then .notReady else .spdmError 0x07)
  | .pldmOther _ _ => some (if s.start.stage < 1 then (s, .notReady) else (s.drawn, .unsupported s.someCode))
  | _ => none

/-- Heather answers the requests at the front that need no row of their own, n at most. -/
def State.answerPlain (s : State) : Nat → State
  | 0 => s
  | n + 1 =>
    match s.heather.waiting with
    | [] => s
    | (t, m) :: _ =>
      match s.plainReply m with
      | some (u, r) => (u.reply t r).answerPlain n
      | none => s

/-- After a reply, the plain requests behind it. -/
def State.served (s : State) (t : Transport) (r : MctpReply) : State :=
  let u := s.reply t r
  u.answerPlain u.heather.waiting.length

/-- One of the two transports: SMBus, or PCIe VDM on any host port (R410). -/
def overVdm : Transport → Bool
  | .smbus => false
  | .vdm _ => true

/-- An MCTP message arrives (R410): of another type, or a fifth outstanding on its transport, it is dropped without reply. -/
def execMctpRequest (t : Transport) (m : MctpMsg) (s : State) : Host.Outcome State Fault Refusal :=
  let mine := (s.heather.waiting.filter (fun x => overVdm x.1 == overVdm t)).length
  if !(s.hears t) || !(mctpSupported m) || decide (4 ≤ mine) then .next s
  else
    let u := s.withHeather (fun h => { h with waiting := h.waiting ++ [(t, m)] })
    .next (u.answerPlain u.heather.waiting.length)

/-- The request at the front, when the answer is its kind's: before MGMT every request but control is not ready (R386), except a
firmware update of component 0x01 over SMBus in recovery mode (R403). -/
def State.front (s : State) : Option (Transport × MctpMsg) := s.heather.waiting.head?

/-- Heather may do the work of a request: MGMT reached. -/
def State.ready (s : State) : Bool := decide (1 ≤ s.start.stage)

/-! ### Endpoint control -/

/-- Set Endpoint ID (R410): 0 and 0xFF are no EIDs (DSP0236). -/
def execSetEndpointId (s : State) : Host.Outcome State Fault Refusal :=
  match s.front with
  | some (t, .setEndpointId e) =>
    if e = 0 ∨ e = 0xFF then .next (s.served t (.control 0x01 0x02 []))
    else .next ((s.setRegFld Reg.htrStatus 16 8 e.toNat).served t (.control 0x01 0x00 [e]))
  | _ => .next s

/-! ### SPDM (R409) -/

/-- The running bank of component c + 1. -/
def State.runBank (s : State) (c : Nat) : Nat := b2n (bitAt s.sec.active c)

/-- The digest of the running image of component c + 1 (Table 17.4). -/
def State.runDigest (s : State) (c : Nat) : BitVec 384 :=
  match s.sec.bank c (s.runBank c) with
  | .factory _ => Config.factoryDigest (2 * c + s.runBank c)
  | .written bytes =>
    let n := bytes.length - 512
    let b := bytesAt bytes n 512
    Config.sha384 (bytes.take (numAt b 12 4) ++ b.take 64)

/-- The certificate chain of slot 0. -/
def State.certChain (s : State) : List Byte := Config.certificateChain (s.runDigest 0)

/-- How far the SPDM connection must have come for a request: 1 after GET_VERSION, 2 after GET_CAPABILITIES, 3 after
NEGOTIATE_ALGORITHMS; a reply, or UnexpectedRequest. -/
def State.spdmReply (s : State) (t : Transport) (need : Nat) (f : State × MctpReply) : State :=
  if !s.ready then s.served t .notReady
  else if s.heather.spdm < need then s.served t (.spdmError 0x04)
  else f.1.served t f.2

/-- GET_VERSION: 1.2 and 1.3; the connection begins anew. -/
def execGetVersion (s : State) : Host.Outcome State Fault Refusal :=
  match s.front with
  | some (t, .getVersion) => .next (s.spdmReply t 0 (s.withHeather (fun h => { h with spdm := 1, spdmVersion := 0 }), .versions [0x12, 0x13]))
  | _ => .next s

/-- GET_CAPABILITIES in one of the versions. -/
def execGetCapabilities (s : State) : Host.Outcome State Fault Refusal :=
  match s.front with
  | some (t, .getCapabilities v) =>
    let f := if v = 0x12 ∨ v = 0x13 then (s.withHeather (fun h => { h with spdm := 2, spdmVersion := v }), MctpReply.capabilities v)
      else (s, MctpReply.spdmError 0x01)
    .next (s.spdmReply t 1 f)
  | _ => .next s

/-- NEGOTIATE_ALGORITHMS: ECDSA P-384 with SHA-384. -/
def execNegotiateAlgorithms (s : State) : Host.Outcome State Fault Refusal :=
  match s.front with
  | some (t, .negotiateAlgorithms ok) =>
    let f := if ok then (s.withHeather (fun h => { h with spdm := 3 }), MctpReply.algorithms) else (s, MctpReply.spdmError 0x01)
    .next (s.spdmReply t 2 f)
  | _ => .next s

/-- GET_DIGESTS: of slot 0's chain. -/
def execGetDigests (s : State) : Host.Outcome State Fault Refusal :=
  match s.front with
  | some (t, .getDigests) => .next (s.spdmReply t 3 (s, .digests (Config.sha384 s.certChain)))
  | _ => .next s

/-- GET_CERTIFICATE: part of slot 0's chain and how much is left. -/
def execGetCertificate (s : State) : Host.Outcome State Fault Refusal :=
  match s.front with
  | some (t, .getCertificate slot off len) =>
    let c := s.certChain
    let part := bytesAt c off.toNat len.toNat
    let r := if slot ≠ 0 ∨ c.length ≤ off.toNat then MctpReply.spdmError 0x01 else .certificate part (c.length - off.toNat - part.length)
    .next (s.spdmReply t 3 (s, r))
  | _ => .next s

/-- CHALLENGE of slot 0: the chain's digest, signed with the Alias key over it and the nonce. -/
def execChallenge (s : State) : Host.Outcome State Fault Refusal :=
  match s.front with
  | some (t, .challenge slot nonce) =>
    let h := Config.sha384 s.certChain
    let sig := Config.aliasSignature (s.runDigest 0) (toLE 48 h.toNat ++ toLE 32 nonce.toNat)
    .next (s.spdmReply t 3 (s, if slot ≠ 0 then .spdmError 0x01 else .challengeAuth h sig))
  | _ => .next s

/-- The contents of a measurement index (Table 17.4); none before its stage has produced it. -/
def State.measurement (s : State) (i : Nat) : Option (List Byte) :=
  match i with
  | 1 => if s.start.stage < 1 then none else some (digestBytes (s.runDigest 0))
  | 5 => if s.start.stage < 2 then none else some (toLE 4 s.sec.minSvn.toNat ++ toLE 4 s.sec.runSvn.toNat)
  | 6 => some (toLE 1 (b2n s.sec.ownerSet) ++ ((List.range 4).map (fun k => digestBytes (SMap.get 0 s.sec.ownerHash k))).flatten ++
      toLE 1 s.sec.vendorRevoked.toNat ++ toLE 1 s.sec.ownerRevoked.toNat ++ toLE 4 (s.regFld Reg.secPolicy 0 32))
  | 7 => some (toLE 8 ((s.sec.keyId).getD 0).toNat ++ toLE 1 (b2n s.linkEnc))
  | _ => if 2 ≤ i ∧ i ≤ 4 then (if s.start.stage < 2 then none else some (digestBytes (s.runDigest (i - 1)))) else none

/-- GET_MEASUREMENTS: one index, all, or their number; signed when asked; ResponseNotReady for one not yet produced. -/
def execGetMeasurements (s : State) : Host.Outcome State Fault Refusal :=
  match s.front with
  | some (t, .getMeasurements index signed nonce) =>
    let wanted := match index.toNat with
      | 0 => []
      | 255 => [1, 2, 3, 4, 5, 6, 7]
      | i => [i]
    let got := wanted.map (fun i => (i, s.measurement i))
    let bytes := (got.map (fun e => (e.2).getD [])).flatten
    let sig := if signed then Config.aliasSignature (s.runDigest 0) (bytes ++ toLE 32 nonce.toNat) else []
    let r := if wanted.any (fun i => decide (i < 1 ∨ 7 < i)) then MctpReply.spdmError 0x01
      else if got.any (fun e => e.2.isNone) then .spdmError 0x42
      else .measurements 7 (got.map (fun e => (e.1, (e.2).getD []))) sig
    .next (s.spdmReply t 3 (s, r))
  | _ => .next s

/-! ### PLDM sensors and effecters (R411, Table 17.5) -/

/-- The reading of a sensor. -/
def State.sensor (s : State) (id : Nat) : Option Nat :=
  match id with
  | 1 => some s.inputWatts
  | 2 => some (s.regFld Reg.pwrStatus 32 16)
  | 7 => some (s.regFld Reg.pwrCoolant 40 16)
  | 8 => some (s.regFld Reg.pwrCoolant 28 12)
  | 9 => some (s.regFld Reg.pwrCoolant 16 12)
  | 10 => some (s.regFld Reg.pwrCoolant 56 8)
  | 11 => some (s.regFld Reg.pwrHoldup 0 16 / 100)
  | 12 => some s.start.stage
  | 13 => some (if bitAt (s.reg Reg.grdStatus) 30 then 1 else if bitAt (s.reg Reg.grdStatus) 29 then 2 else 0)
  | k => if 3 ≤ k ∧ k ≤ 6 then some (s.regFld (Reg.hubOppoint (k - 3)) 12 8) else none

/-- A reply of PLDM, or not ready before MGMT. -/
def State.pldmReply (s : State) (t : Transport) (f : State × MctpReply) : State :=
  if s.ready then f.1.served t f.2 else s.served t .notReady

/-- Sensor read. -/
def execGetSensorReading (s : State) : Host.Outcome State Fault Refusal :=
  match s.front with
  | some (t, .getSensorReading id) =>
    .next (s.pldmReply t (s, match s.sensor id.toNat with
      | some v => .reading v
      | none => .failed 0xE5))
  | _ => .next s

/-- Is a guard latch set while CLEAR_READY is 0 (0xD2)? -/
def State.guardActive (s : State) : Bool := decide (s.regFld Reg.grdStatus 29 2 ≠ 0) && !s.clearReady

/-- The power-limit effecter stages LIMIT_W, which takes effect with an APPLY (R7): 0xD1 outside 900–1,600 W, 0xD2 for a raise while the
guard is active. -/
def execSetNumericEffecterValue (s : State) : Host.Outcome State Fault Refusal :=
  match s.front with
  | some (t, .setNumericEffecterValue id v) =>
    let r := if id ≠ 1 then (s, MctpReply.failed 0xE5)
      else if v.toNat < 900 ∨ 1600 < v.toNat then (s, .failed 0xD1)
      else if s.guardActive && decide (s.regFld Reg.pwrLimit 0 11 < v.toNat) then (s, .failed 0xD2)
      else (s.stage Reg.pwrLimit (setFld (s.staged Reg.pwrLimit) 0 11 v.toNat), .done)
    .next (s.pldmReply t r)
  | _ => .next s

/-- The guard-clear effecter: 0xD2 while CLEAR_READY is 0. -/
def execSetStateEffecterStates (s : State) : Host.Outcome State Fault Refusal :=
  match s.front with
  | some (t, .setStateEffecterStates id) =>
    let r := if id ≠ 2 then (s, MctpReply.failed 0xE5) else if s.clearReady then (s.endTrip, .done) else (s, .failed 0xD2)
    .next (s.pldmReply t r)
  | _ => .next s

/-! ### Firmware update and provisioning (R402, R412) -/

/-- May an update request over t be served: in recovery mode only component 0x01 over SMBus (R403)? -/
def State.updateOpen (s : State) (t : Transport) : Bool :=
  s.ready || (s.inRecoveryMode && decide (t = .smbus))

/-- A reply to an update request. -/
def State.updateReply (s : State) (t : Transport) (f : State × MctpReply) : State :=
  if s.updateOpen t then f.1.served t f.2 else s.served t .notReady

/-- UPDATE_ACTIVE follows the update in progress. -/
def State.setUpdate (s : State) (u : Option Update) : State :=
  (s.withHeather (fun h => { h with update := u })).setRegFld Reg.htrStatus 30 1 (b2n u.isSome)

/-- RequestUpdate: 0xE4 during another update. A component outside 0x01–0x04 is unsupported; another than 0x01 in recovery mode is not
ready (R386, R403). -/
def execRequestUpdate (s : State) : Host.Outcome State Fault Refusal :=
  match s.front with
  | some (t, .requestUpdate c) =>
    let bad := decide (c.toNat < 1 ∨ 4 < c.toNat)
    let r := if !s.ready && decide (c ≠ 1) then (s, MctpReply.notReady)
      else if s.heather.update.isSome then (s, .failed 0xE4)
      else if bad then (s.drawn, .unsupported s.someCode)
      else (s.setUpdate (some { component := c.toNat - 1, bytes := [], verified := false }), .done)
    .next (s.updateReply t r)
  | _ => .next s

/-- Bank b of component c + 1 holds x. -/
def Sec.setBank (x : Sec) (c b : Nat) (v : Bank) : Sec := { x with banks := SMap.set (.factory 0) x.banks (2 * c + b) v }

/-- Image data is written to the component's inactive bank. -/
def execFirmwareData (s : State) : Host.Outcome State Fault Refusal :=
  match s.front with
  | some (t, .firmwareData bs) =>
    let r := match s.heather.update with
      | none => (s.drawn, MctpReply.unsupported s.someCode)
      | some u =>
        let v : Update := { u with bytes := u.bytes ++ bs, verified := false }
        ({ s.setUpdate (some v) with sec := s.sec.setBank u.component (1 - s.runBank u.component) (.written v.bytes) }, .done)
    .next (s.updateReply t r)
  | _ => .next s

/-- The written bank is verified under R402; a rejection is recorded and ends the update. -/
def execVerifyComplete (s : State) : Host.Outcome State Fault Refusal :=
  match s.front with
  | some (t, .verifyComplete) =>
    let r := match s.heather.update with
      | none => (s.drawn, MctpReply.unsupported s.someCode)
      | some u =>
        match s.sec.componentCheck u.component u.bytes with
        | none => (s.setUpdate (some { u with verified := true }), .done)
        | some e => ((s.reject (u.component + 1) e).setUpdate none, .failed e)
    .next (s.updateReply t r)
  | _ => .next s

/-- ActivateFirmware: the verified bank runs from the next start. -/
def execActivateFirmware (s : State) : Host.Outcome State Fault Refusal :=
  match s.front with
  | some (t, .activateFirmware) =>
    let r := match s.heather.update with
      | some { component := c, bytes := _, verified := true } =>
        let m : BitVec 4 := BitVec.ofNat 4 (2 ^ c)
        let chosen := if s.runBank c = 0 then s.sec.chosen ||| m else s.sec.chosen &&& ~~~m
        ({ s.setUpdate none with sec := { s.sec with chosen := chosen } }, MctpReply.done)
      | _ => (s.drawn, .unsupported s.someCode)
    .next (s.updateReply t r)
  | _ => .next s

/-- A fuse is programmed once: none if it already is. -/
def Sec.burn (x : Sec) (f : Fuse) : Option Sec :=
  match f with
  | .ownerHash k h =>
    if bitAt x.ownerFused k.toNat then none
    else some { x with ownerFused := x.ownerFused ||| BitVec.ofNat 4 (2 ^ k.toNat), ownerHash := SMap.insert x.ownerHash k.toNat h }
  | .vendorRevoked k =>
    if bitAt x.vendorRevoked k.toNat then none else some { x with vendorRevoked := x.vendorRevoked ||| BitVec.ofNat 4 (2 ^ k.toNat) }
  | .ownerRevoked k =>
    if bitAt x.ownerRevoked k.toNat then none else some { x with ownerRevoked := x.ownerRevoked ||| BitVec.ofNat 4 (2 ^ k.toNat) }

/-- A provisioning request: 0xE3 for a fuse already programmed. -/
def execProvisioning (s : State) : Host.Outcome State Fault Refusal :=
  match s.front with
  | some (t, .provisioning f) =>
    .next (s.pldmReply t (match s.sec.burn f with
      | some x => ({ s with sec := x }, .done)
      | none => (s, .failed 0xE3)))
  | _ => .next s

/-! ### SEC_SVN_COMMIT (R404) -/

/-- COMMIT raises MIN_SVN of each named component to the running image's SVN, never down; the key must be 0x5A3C. -/
def State.svnCommit (s : State) (v : Nat) : State :=
  if bitsOf v 16 16 ≠ 0x5A3C then s
  else
    let m := (List.range 4).foldl (fun (m : BitVec 32) c =>
      let run := bitsOf s.sec.runSvn.toNat (8 * c) 8
      if v.testBit c && decide (bitsOf m.toNat (8 * c) 8 < run) then
        (m &&& ~~~(BitVec.ofNat 32 (255 * 2 ^ (8 * c)))) ||| BitVec.ofNat 32 (run * 2 ^ (8 * c)) else m) s.sec.minSvn
    { s with sec := { s.sec with minSvn := m } }

/-- SEC_SVN_COMMIT is written by PF0 (R404). -/
def execSecSvnCommit (v : BitVec 32) (s : State) : Host.Outcome State Fault Refusal :=
  if s.stopped || decide (s.start.stage < 1) then .next s else .next (s.svnCommit v.toNat)

end Sys2Proof.Machine
end

