-- ==== Sys2Proof/Machine/Views.lean ====
section
/-!
DEFINITION. What a register read shows: fields the module computes from its state (Access RO), APPLY registers (R299), the
fault logs (R377), counters under a hold (R416).
-/

namespace Sys2Proof.Machine

/-- Which of n registers at base, base + stride, … the address is. -/
def nth (a base stride n : Nat) : Option Nat :=
  if base ≤ a ∧ (a - base) % stride = 0 ∧ (a - base) / stride < n then some ((a - base) / stride) else none

/-- The bits of a predicate on 0 … n − 1. -/
def bitsWhere (n : Nat) (f : Nat → Bool) : Nat := ((List.range n).map (fun i => if f i then 2 ^ i else 0)).foldl (· + ·) 0

/-- A register value with some fields (low bit, width, value) computed. -/
def withFields (v : Word) (fs : List (Nat × Nat × Nat)) : Word := fs.foldl (fun w f => setFld w f.1 f.2.1 f.2.2) v

/-- STATE of PNY_CC_STATUS. -/
def CoreState.code : CoreState → Nat
  | .idle => 0
  | .running => 1
  | .halted => 2
  | .faulted => 3

/-- STATE of ZIN_VOCAB_INFO. -/
def SlotState.code : SlotState → Nat
  | .empty => 0
  | .loading => 1
  | .ready => 2

/-- STATE of FJL_PORT_STATUS. -/
def PortState.code : PortState → Nat
  | .disabled => 0
  | .training => 1
  | .hello => 2
  | .up => 3
  | .versionFail => 4
  | .peerMismatch => 5
  | .failed => 6

/-- The commands of a queue: class and instance, accepted and not completed. -/
def State.queued (s : State) (cls inst : Nat) : List Cmd := s.cmds.filter (fun c => decide (c.cls = cls) && decide (c.inst = inst))

/-- Has the command started and not completed? -/
def Cmd.busy (c : Cmd) : Bool := !(decide (c.phase = .queued))

/-- Started commands of a class. -/
def State.busyIn (s : State) (cls : Nat) : Nat := (s.cmds.filter (fun c => decide (c.cls = cls) && c.busy)).length

/-- BUSY and QDEPTH of a Peony or Lupin queue. -/
def State.queueFields (s : State) (cls inst : Nat) : List (Nat × Nat × Nat) :=
  let q := s.queued cls inst
  [(31, 1, b2n (q.any Cmd.busy)), (16, 7, q.length)]

/-- PNY_CC_STATUS of core n. -/
def State.ccStatus (s : State) (n : Nat) : Word :=
  let c := s.core (BitVec.ofNat 6 n)
  let code := if c.state = .faulted then c.faultCode.toNat else 0
  BitVec.ofNat 64 (c.state.code * 2 ^ 30 + b2n c.fsFail * 2 ^ 29 + b2n c.brkStop * 2 ^ 28 + code * 2 ^ 18 + c.pc.toNat / 4 * 4)

/-- The busy slots of core n (PNY_CC_SLOTS). -/
def State.ccSlots (s : State) (n : Nat) : Word :=
  let c := s.core (BitVec.ofNat 6 n)
  BitVec.ofNat 64 (bitsWhere 64 (fun k => decide (c.slot k = .busy)))

/-- PNY_CORE_STATUS of logical core n. -/
def State.peonyStatus (s : State) (n : Nat) : Word :=
  let p := s.peonyAt n
  withFields 0 (s.queueFields 0 n ++ [(30, 1, b2n p.set1.valid), (29, 1, b2n p.set0.valid), (0, 6, s.physCore n)])

/-- LUP_STATUS of engine e. -/
def State.lupinStatus (s : State) (e : Nat) : Word := withFields 0 (s.queueFields 1 e)

/-- FJL_PORT_STATUS of port p. -/
def State.portStatus (s : State) (p : Nat) : Word :=
  let x := s.port p
  BitVec.ofNat 64 (b2n (decide (x.state = .up)) * 2 ^ 31 + x.lanes.toNat * 2 ^ 29 + b2n x.half * 2 ^ 28 + x.version.toNat * 2 ^ 26 +
    x.state.code * 2 ^ 23 + x.peer.toNat)

/-- HUB_GRP_STATUS of partition g (R346); zero for one that is not the lowest of its group. -/
def State.groupStatus (s : State) (g : Nat) : Word :=
  if !(s.isGroup g) then 0
  else
    let mine := fun (st : JobState) => (s.jobs.filter (fun j => decide (j.group = g) && decide (j.state = st))).length
    let run := s.runningJob g
    let id := match run with
      | some j => j.id.toNat
      | none => 0
    let phase := match run with
      | some j => j.state.code
      | none => 0
    let ph := if phase = 1 then 1 else if phase = 2 then 2 else if phase = 4 then 3 else 0
    let waits := s.jobs.any (fun j => decide (j.group = g) && j.waitSince.isSome)
    BitVec.ofNat 64 (id * 2 ^ 48 + mine .queued * 2 ^ 41 + mine .preempted * 2 ^ 38 + b2n waits * 2 ^ 37 + ph * 2 ^ 35)

/-! ### Services (R374, Table 15.6) -/

/-- Partitions with a serving Lupin engine and its pseudo-channels. -/
def State.lupinServes (s : State) (p : Nat) : Bool :=
  bitAt (s.reg Reg.hubEngineMap) p && !(bitAt s.hbmOff p) && !(bitAt s.dieOff (p / 4))

/-- Does stack k serve? -/
def State.stackServes (s : State) (k : Nat) : Bool :=
  bitAt (s.reg Reg.hubEngineMap) (16 + k) && !(bitAt s.hbmOff (2 * k) && bitAt s.hbmOff (2 * k + 1))

/-- The units a hub engine of class cls has lost (Table 15.3). -/
def State.lostUnits (s : State) (cls : Nat) : Nat := (s.unitsLost.filter (fun e => decide (e.1 / 256 = cls))).length

/-- MGD_SERVICE.OFFERED: each service whose stage is reached and whose set serves. -/
def State.services (s : State) : Nat :=
  let k := s.start.stage
  let mgmt := decide (1 ≤ k) && !s.fatal && !s.start.off
  let compute := mgmt && decide (2 ≤ k) && (List.range 48).any (fun n => s.serving (BitVec.ofNat 6 n))
  let retrieval := compute && decide (3 ≤ k) && decide (s.lostUnits 2 < 384) && (List.range 8).any s.stackServes
  let generation := compute && decide (3 ≤ k) && (List.range 16).any s.lupinServes && decide (s.lostUnits 6 < 16) && decide (s.lostUnits 3 < 4)
  let storage := mgmt && decide (4 ≤ k) && bitAt (s.reg Reg.hlyStatus) 31 && decide (s.lostUnits 8 = 0) && (List.range 8).all s.stackServes
  let fabric := mgmt && (List.range 8).any s.portUp && decide (5 ≤ k) && (s.fabricSettled || s.start.released.isNone)
  b2n mgmt + 2 * b2n compute + 4 * b2n retrieval + 8 * b2n generation + 16 * b2n storage + 32 * b2n fabric

/-! ### Foxglove, stem, Zinnia -/

/-- FXG_USED of partition p. -/
def State.fxgUsedOf (s : State) (p : Nat) : Word :=
  let sum := fun (f : FxgEntry → Bool) => (s.fxg.filter (fun e => decide (e.2.partition = p) && f e.2)).foldl (fun n e => n + e.2.granules) 0
  BitVec.ofNat 64 (sum (fun e => decide (4 ≤ e.arena)) * 2 ^ 32 + sum (fun e => decide (e.arena < 4)))

/-- STM_QCNT of queue q (R264). -/
def State.queueCount (s : State) (q : Nat) : Word :=
  let x := s.queue q
  BitVec.ofNat 64 (x.packets * 2 ^ 32 + x.words.length)

/-- ZIN_VOCAB_INFO of slot v. -/
def State.vocabInfo (s : State) (v : Nat) : Word :=
  let x := s.vslot v
  if x.state = .empty then 0
  else BitVec.ofNat 64 (x.loadId.toNat * 2 ^ 32 + x.state.code * 2 ^ 30 + b2n x.shared * 2 ^ 29 + b2n x.unigram * 2 ^ 28 + x.owner * 2 ^ 24 +
    (x.v - 1) % 2 ^ 18)

/-- ZIN_GRAMMAR_INFO of slot g. -/
def State.grammarInfo (s : State) (g : Nat) : Word :=
  let x := s.gslot g
  if x.state = .empty then 0
  else BitVec.ofNat 64 (x.loadId.toNat * 2 ^ 32 + x.state.code * 2 ^ 30 + b2n x.shared * 2 ^ 29 + b2n x.verified * 2 ^ 28 + x.owner * 2 ^ 24 +
    (x.states - 1) % 2 ^ 20)

/-- The cursor masks pending in Zinnia, M of R210. -/
def State.masksPending (s : State) : Nat :=
  ((s.cmds.filter (fun c => decide (c.cls = 6) && decide (cmdOpcode c.word = 3))).map (fun c => c.n 44 2)).foldl (· + ·) 0

/-- Text units at work: the encode and detokenise commands started. -/
def State.textBusy (s : State) : Nat :=
  Nat.min 8 (s.cmds.filter (fun c => decide (c.cls = 6) && c.busy && decide (cmdOpcode c.word = 1 ∨ cmdOpcode c.word = 2))).length

/-! ### Host (12) -/

/-- Ring k of function f. -/
def State.ring (s : State) (f k : Nat) : Ring := SMap.get Ring.reset s.rings (64 * f + k)

/-- Ring k of function f becomes r. -/
def State.setRing (s : State) (f k : Nat) (r : Ring) : State := { s with rings := SMap.set Ring.reset s.rings (64 * f + k) r }

/-- Is tenant t bound to a partition group (R337)? -/
def State.tenantBound (s : State) (t : Nat) : Bool := bitAt (s.reg (Reg.hubTenantBind t)) 31

/-- The stem queue in effect that serves ring number r: kind 3 for a submission ring, kind 2 for a completion ring (R301). -/
def State.ringQueue (s : State) (r : Nat) (completion : Bool) : Option Nat :=
  (s.eff.filterMap (fun e => nth e.1 (Reg.stmQcfg 0) 16 4096)).find? (fun q =>
    decide (s.qKind q = if completion then 2 else 3) && decide (s.qTarget q = r))

/-- Does any queue target ring number r? -/
def State.ringTargeted (s : State) (r : Nat) : Bool := (s.ringQueue r false).isSome || (s.ringQueue r true).isSome

/-- PCI_FN_STATUS of function f. -/
def State.fnStatus (s : State) (f : Nat) : Word :=
  let n := (s.rings.filter (fun e => decide (e.1 / 64 = f) && e.2.active)).length
  let bound := decide (1 ≤ f) && decide (f ≤ 256) && s.tenantBound (f - 1)
  BitVec.ofNat 64 (b2n (decide (2 ≤ s.start.stage)) * 2 ^ 31 + b2n bound * 2 ^ 30 + n)

/-- PCI_RING_STATUS of ring k of function f. NO_QUEUE is what its Description says, 1 while no stem queue targets the ring, so that it reads
1 after a start, where its Reset column has 0 (DESIGN CHOICE, log entry 82). -/
def State.ringStatus (s : State) (f k : Nat) : Word :=
  let r := s.ring f k
  BitVec.ofNat 64 (b2n r.active * 2 ^ 31 + b2n r.err * 2 ^ 30 + b2n (!(s.ringTargeted (64 * f + k))) * 2 ^ 29 + r.code.toNat)

/-- PCI_RING_PTR of ring k of function f. -/
def State.ringPtr (s : State) (f k : Nat) : Word :=
  let r := s.ring f k
  BitVec.ofNat 64 (r.host * 2 ^ 32 + r.index)

/-- PCI_LINK_STATUS. -/
def State.linkStatus (s : State) : Word :=
  let part := fun (second : Bool) =>
    let x := s.start.port (b2n second)
    if s.linkUp second then 128 + b2n x.flit * 64 + x.speed.toNat * 8 + x.width.toNat else 0
  BitVec.ofNat 64 (part false * 2 ^ 24 + part true * 2 ^ 16 + b2n s.start.bifurc)

/-- An APPLY register: APPLY_COUNT as stored, PENDING while a staged value of the block differs (R299). -/
def State.applyValue (s : State) (a : Nat) : Word := setFld (s.reg a) 2 1 (b2n (s.stg.any (fun e =>
  decide (applyOf e.1 = a) && decide ((s.reg e.1 ^^^ e.2) &&& (match regAt e.1 with
    | some r => BitVec.ofNat 64 r.desc.rws
    | none => 0) ≠ 0))))

/-! ### The views -/

/-- The value of a register of the HUB_ window that shows module state. -/
def State.viewHub (s : State) (a : Nat) : Option Word :=
  let v := s.reg a
  if a = Reg.hubEngineMap then
    some (withFields v [(24, 8, bitsWhere 8 s.portUp), (16, 8, bitsWhere 8 s.stackServes)])
  else if a = Reg.hubDeviceTime then some s.now
  else if a = Reg.hubMmuInvalStatus then some (withFields v [(16, 1, b2n s.mmuInval.isSome)])
  else if a = Reg.hubSchedStatus then some (withFields v [(0, 11, s.liveJobs.length)])
  else (nth a (Reg.hubGrpStatus 0) 8 16).map s.groupStatus

/-- Of the PNY_ window. -/
def State.viewPny (s : State) (a : Nat) : Option Word :=
  let coreOf := fun (n : Nat) => s.core (BitVec.ofNat 6 n)
  match nth a (Reg.pnyCcStatus 0) 4096 64 with
  | some n => some (s.ccStatus n)
  | none => match nth a (Reg.pnyCcFaultAddr 0) 4096 64 with
    | some n => some (BitVec.setWidth 64 (coreOf n).faultAddr)
    | none => match nth a (Reg.pnyCcFailModule 0) 4096 64 with
      | some n => some (BitVec.setWidth 64 (coreOf n).failModule)
      | none => match nth a (Reg.pnyCcSlots 0) 4096 64 with
        | some n => some (s.ccSlots n)
        | none => (nth a (Reg.pnyCoreStatus 0) 4096 48).map s.peonyStatus

/-- Of the engine windows: LUP_ to STM_. -/
def State.viewEngines (s : State) (a : Nat) : Option Word :=
  let v := s.reg a
  if a = Reg.clmStatus then some (BitVec.ofNat 64 (Nat.min 384 s.walks.length))
  else if a = Reg.clmCacheUsed then
    let eff := ((List.range 4).map (fun d => (s.carveKib d).1)).foldl (· + ·) 0 / 1024
    some (BitVec.ofNat 64 (eff * 2 ^ 16 + ceilDiv ((s.ahead.filter AheadLine.node).length * 256) mib))
  else if a = Reg.prmStatus then some (BitVec.ofNat 64 (2 ^ Nat.min 4 (s.busyIn 3) - 1))
  else if a = Reg.astStatus then some (BitVec.ofNat 64 (b2n s.mergeHeld * 256 + Nat.min 255 s.sessions.length))
  else if a = Reg.bqtStatus then
    some (BitVec.ofNat 64 (ceilDiv ((s.passages.map (fun p => p.bytes.length)).foldl (· + ·) 0) 1024))
  else if a = Reg.zinStatus then
    some (BitVec.ofNat 64 (bitsWhere 16 (fun k => decide ((s.vslot k).state = .ready)) * 2 ^ 16 + Nat.min 255 s.masksPending * 256 + (2 ^ s.textBusy - 1)))
  else if a = Reg.fxgStatus then
    some (withFields v [(16, 9, ((List.range 4).map s.scacheMib).foldl Nat.min 256), (0, 16, 2 ^ Nat.min 16 (s.busyIn 7) - 1)])
  else if a = Reg.fxgScacheEff then some (BitVec.ofNat 64 (((List.range 4).map (fun d => s.scacheMib d * 65536 ^ d)).foldl (· + ·) 0))
  else if a = Reg.stmStatus then some (withFields v [(0, 19, 262144 - s.cellsUsed)])
  else match nth a (Reg.lupStatus 0) 4096 16 with
    | some e => some (s.lupinStatus e)
    | none => match nth a (Reg.zinVocabInfo 0) 8 16 with
      | some k => some (s.vocabInfo k)
      | none => match nth a (Reg.zinGrammarInfo 0) 8 64 with
        | some k => some (s.grammarInfo k)
        | none => match nth a (Reg.fxgUsed 0) 8 16 with
          | some p => some (s.fxgUsedOf p)
          | none => match nth a (Reg.stmPartQuota 0) 4 16 with
            | some p => some (withFields v [(19, 13, Nat.min 8191 (s.cellsOf p))])
            | none => (nth a (Reg.stmQcnt 0) 8 4096).map s.queueCount

/-- Of the windows of the hub's other blocks. -/
def State.viewOthers (s : State) (a : Nat) : Option Word :=
  let v := s.reg a
  if a = Reg.hlyStatus then
    let frozen := (s.pf1.sqs.filter (fun e => decide (e.1 ≠ 0) && e.2.frozen)).length
    some (withFields v [(26, 2, s.pf1.ps), (8, 8, Nat.min 255 frozen)])
  else if a = Reg.mgdStatus then some (withFields v [(0, 16, bitsWhere 16 (fun g => (SMap.find s.recoveries g).isSome))])
  else if a = Reg.mgdService then some (BitVec.ofNat 64 s.services)
  else if a = Reg.htrStatus then some (withFields v [(8, 7, 0x60 + s.start.addrSel.toNat)])
  else if a = Reg.fjlSegInval then some (BitVec.ofNat 64 (b2n s.segInval.isSome * 2 ^ 31))
  else if a = Reg.fjlTimeStatus then some (withFields v [(30, 1, b2n (decide (0 < s.align.slowNs)))])
  else if a = Reg.pciLinkStatus then some s.linkStatus
  else if a = Reg.pwrStartStatus then some (withFields v [(28, 4, s.start.stage)])
  else if a = Reg.pwrStatus then some (withFields v [(12, 5, s.caps), (0, 12, s.capWatts)])
  else if a = Reg.pwrCoolant then some (withFields v [(7, 1, b2n s.lowFlow), (6, 1, b2n s.power.sensorFail)])
  else if a = Reg.grdStatus then some (withFields v [(28, 1, b2n s.clearReady)])
  else if a = Reg.secStatus then
    some (withFields v [(31, 1, b2n s.sec.ownerSet), (30, 1, b2n s.sec.key.isSome), (4, 4, s.sec.active.toNat)])
  else if a = Reg.secSvn then some (BitVec.ofNat 64 (s.sec.runSvn.toNat * 2 ^ 32 + s.sec.minSvn.toNat))
  else if a = Reg.secLinkKeyId then some ((s.sec.keyId).getD 0)
  else (nth a (Reg.fjlPortStatus 0) 8 8).map s.portStatus

/-- Of function f's window. -/
def State.viewFunction (s : State) (f a : Nat) : Option Word :=
  if a = Reg.pciFnStatus f then some (s.fnStatus f)
  else match nth a (Reg.pciRingStatus f 0) 32 64 with
    | some k => some (s.ringStatus f k)
    | none => (nth a (Reg.pciRingPtr f 0) 32 64).map (s.ringPtr f)

/-- The module state that register a shows, if it shows any. -/
def State.view (s : State) (a : Nat) : Option Word :=
  match fnOf a with
  | some f => s.viewFunction f a
  | none =>
    match a / 0x100000 with
    | 0 => s.viewHub a
    | 1 => s.viewPny a
    | 10 => s.viewOthers a
    | w => if w ≤ 9 then s.viewEngines a else s.viewOthers a

/-- What register a holds, live: WO fields read zero, RWS fields their staged value (R7). -/
def State.readLive (s : State) (a : Nat) (r : RegRef) : Word :=
  let v := match s.view a with
    | some v => v
    | none => s.reg a
  let m := BitVec.ofNat 64 r.desc.rws
  let wo := BitVec.ofNat 64 r.desc.wo
  ((v &&& ~~~m) ||| (s.staged a &&& m)) &&& ~~~wo

/-- What a read of the whole register a returns: a counter under a hold reads its held value (R416). -/
def State.readReg (s : State) (a : Nat) : Word :=
  if isApply a then s.applyValue a
  else match regAt a with
    | none => 0
    | some r =>
      match s.hold with
      | some h =>
        if r.desc.wrap.isSome then (match SMap.find h a with
          | some v => v
          | none => resetOf a)
        else s.readLive a r
      | none => s.readLive a r

end Sys2Proof.Machine
end

