-- ==== Sys2Proof/Machine/Debug.lean ====
section
/-!
DEFINITION. The hold, trace buffers and the trigger, watchdogs, pressings and the records a cut shares with them, breakpoint mode
(R416–R428).
-/

namespace Sys2Proof.Machine

/-- May PF0 write a register now: MGMT reached, no global stop that holds the write (R368, R385)? -/
def State.hostWrites (s : State) : Bool := decide (1 ≤ s.start.stage) && !s.stopped

/-! ### The hold (R416) -/

/-- DBG_CTRL is written: CFG_ERR is W1C; HOLD = 1 takes the time and every counter's value, HOLD = 0 ends the hold. -/
def State.dbgCtrlWrite (s : State) (v : Nat) : State :=
  let t := if v.testBit 31 then s.setRegFld Reg.dbgCtrl 31 1 0 else s
  let t := t.setRegFld Reg.dbgCtrl 0 1 (v % 2)
  if v.testBit 0 then { t.setReg Reg.dbgSnapTime s.now with hold := some t.eff } else { t with hold := none }

/-- HOLD = 1 is written (R416). -/
def execHoldSet (v : BitVec 32) (s : State) : Host.Outcome State Fault Refusal :=
  if s.hostWrites && bitAt v 0 then .next (s.dbgCtrlWrite v.toNat) else .next s

/-- HOLD = 0 is written (R416). -/
def execHoldClear (v : BitVec 32) (s : State) : Host.Outcome State Fault Refusal :=
  if s.hostWrites && !(bitAt v 0) then .next (s.dbgCtrlWrite v.toNat) else .next s

/-! ### Trace buffers (R418–R421) -/

/-- Buffer b: its base, its size in bytes. -/
def State.traceBase (s : State) (b : Nat) : Nat := fld (s.reg (Reg.dbgTraceBase b)) 12 36 * 4096
def State.traceSize (s : State) (b : Nat) : Nat := fld (s.reg (Reg.dbgTraceCfg b)) 32 16 * mib

/-- A record of buffer b is lost: counted in DBG_TRACE_LOST, saturating. -/
def State.traceLost (s : State) (b : Nat) : State := s.bumpSat (Reg.dbgTraceLost b) 0 32 1

/-- A record goes to buffer b: BASE + (WRITTEN mod SIZE); in STOP mode one that would pass SIZE is lost and sets FULL; a frozen
or disabled buffer takes none. -/
def State.tracePut (s : State) (b : Nat) (bs : List Byte) : State × Bool :=
  let cfg := s.reg (Reg.dbgTraceCfg b)
  let w := s.regFld (Reg.dbgTraceStatus b) 0 48
  let size := s.traceSize b
  if !(bitAt cfg 63) || bitAt (s.reg (Reg.dbgTraceStatus b)) 62 then (s, false)
  else if !(bitAt cfg 62) && decide (size < w + bs.length) then ((s.traceLost b).setRegFld (Reg.dbgTraceStatus b) 63 1 1, false)
  else ((s.ramWrite 0 (s.traceBase b + w % size) bs false).setRegFld (Reg.dbgTraceStatus b) 0 48 (w + bs.length), true)

/-- The 8 bytes of an address record (R419). -/
def addrRecord (kind : BitVec 2) (pc : BitVec 18) (n : CoreId) (time : Word) : List Byte :=
  toLE 8 (kind.toNat + pc.toNat / 4 * 4 + n.toNat * 2 ^ 18 + fld time 0 40 * 2 ^ 24)

/-- The 8 bytes of a TIME record (R419). -/
def timeRecord (time : Word) : List Byte := toLE 8 (3 + fld time 0 62 * 4)

/-- TIME records go first in every MiB, and where bits [61:40] of the time differ from the last TIME record's; at most n. -/
def State.traceTimes (s : State) (time : Word) : Nat → State
  | 0 => s
  | n + 1 =>
    let first := decide (s.regFld (Reg.dbgTraceStatus 0) 0 48 % mib = 0)
    let differs := match s.traceTime with
      | none => true
      | some t => decide (fld t 40 22 ≠ fld time 40 22)
    if !first && !differs then s
    else
      let (t, ok) := s.tracePut 0 (timeRecord time)
      if ok then ({ t with traceTime := some time } : State).traceTimes time n else t

/-- An address record is written to buffer 0, after the TIME record it needs. -/
def State.traceAddress (s : State) (kind : BitVec 2) (pc : BitVec 18) (n : CoreId) (time : Word) : State :=
  ((s.traceTimes time 2).tracePut 0 (addrRecord kind pc n time)).1

/-- The 32 bytes of a tagged record (R420). -/
def taggedRecord (time : Word) (unit : BitVec 16) (event status : Byte) (job tag : BitVec 16) (arg0 arg1 : Word) : List Byte :=
  toLE 8 time.toNat ++ toLE 2 unit.toNat ++ [event, status] ++ toLE 2 job.toNat ++ toLE 2 tag.toNat ++ toLE 8 arg0.toNat ++ toLE 8 arg1.toNat

/-- What the trigger does once its further records are in (R422). -/
def State.triggerActs (s : State) : State :=
  let freeze := fun (t : State) => (t.setRegFld (Reg.dbgTraceStatus 0) 62 1 1).setRegFld (Reg.dbgTraceStatus 1) 62 1 1
  let t : State := { s with tracePost := none }
  match t.regFld Reg.dbgTrigger 60 2 with
  | 0 => freeze t
  | 1 => t.beginStop t.ownCutId
  | 2 => (freeze t).beginStop t.ownCutId
  | _ => t.startPress 3 16 0 0 0

/-- Does the armed trigger match a tagged record (R422)? -/
def State.triggerMatches (s : State) (unit : BitVec 16) (event status : Byte) : Bool :=
  let g := s.reg Reg.dbgTrigger
  bitAt g 63 && decide (fld g 16 8 = event.toNat) && (bitAt g 59 || decide (fld g 24 16 = unit.toNat)) &&
    (bitAt g 58 || decide (fld g 8 8 = status.toNat))

/-- A tagged record: written if buffer 1 wants it; the first match fires the trigger, and its action follows the POST further
records (R422). -/
def State.traceTaggedOut (s : State) (wanted : Bool) (unit : BitVec 16) (event status : Byte) (bs : List Byte) : State :=
  let r := if wanted then s.tracePut 1 bs else (s, false)
  if s.triggerMatches unit event status then
    let t := (r.1.setRegFld Reg.dbgTrigger 62 1 1).setRegFld Reg.dbgTrigger 63 1 0
    let post := t.regFld Reg.dbgTrigger 45 13
    if post = 0 then t.triggerActs else { t with tracePost := some post }
  else match r.1.tracePost with
    | none => r.1
    | some n =>
      if !r.2 then r.1
      else if n ≤ 1 then r.1.triggerActs
      else { r.1 with tracePost := some (n - 1) }

/-- The oldest record reaches its buffer, or is lost to the rate of 32 GB/s (R421). -/
def execTraceRecord (lost : Bool) (s : State) : Host.Outcome State Fault Refusal :=
  match s.trace with
  | [] => .next s
  | r :: rest =>
    let t : State := { s with trace := rest }
    match r with
    | .addr k pc n time => .next (if lost then t.traceLost 0 else t.traceAddress k pc n time)
    | .tagged wanted time unit ev st job tag a0 a1 =>
      if lost && wanted then .next ((t.traceLost 1).traceTaggedOut false unit ev st [])
      else .next (t.traceTaggedOut wanted unit ev st (taggedRecord time unit ev st job tag a0 a1))

/-- A MARK record of a unit (R420): a core's, with its partition and job, or PF0's. -/
def State.markBy (s : State) (core : Option CoreId) (v : Word) : State :=
  match core with
  | some n => s.traceTagged (partOfCore n) (coreUnit n) 0x08 0 (s.core n).job 0 v 0
  | none => s.traceTagged 16 0xF000 0x08 0 0 0 v 0

/-- PF0 writes DBG_MARK (R420). -/
def execMark (v : Word) (s : State) : Host.Outcome State Fault Refusal :=
  if s.hostWrites then .next (s.markBy none v) else .next s

/-! ### Unit records (R369, R424, R425) -/

/-- Units of a hub-engine class whose commands are shown one each: text units, selection units, movers; else one (log entry). -/
def hubUnits (cls : Nat) : Nat :=
  match cls with
  | 3 => 4
  | 6 => 16
  | 7 => 16
  | _ => 1

/-- The word of a slot in a record. -/
def slotRecord : Slot → Word
  | .done w => w
  | _ => 0

/-- A control core's 792 bytes (Table 18.3). -/
def State.corePayload (s : State) (n : Nat) : List Byte :=
  let c := s.core (BitVec.ofNat 6 n)
  ((List.range 32).map (fun i => toLE 8 (c.greg (BitVec.ofNat 5 i)).toNat)).flatten ++
    [BitVec.ofNat 8 (bitsWhere 8 (fun i => c.pred (BitVec.ofNat 3 i))), BitVec.ofNat 8 c.state.code, c.faultCode, 0] ++
    toLE 4 c.pc.toNat ++ toLE 8 c.faultAddr.toNat ++
    ((List.range 64).map (fun k => toLE 8 (slotRecord (c.slot k)).toNat)).flatten ++ toLE 8 (s.ccSlots n).toNat

/-- A Peony or Lupin queue's bytes: status, zero, the command words in queue order. -/
def State.queuePayload (s : State) (cls inst : Nat) (status : Word) : List Byte :=
  toLE 4 status.toNat ++ zeros 4 ++ ((s.queued cls inst).map (fun c => c.word.take 64)).flatten

/-- Accumulator rows 0–511 of a Peony core. -/
def State.accPayload (s : State) (n : Nat) : List Byte :=
  ((List.range 262144).map (fun i => toLE 4 (SMap.get 0 (s.peonyAt n).acc i).toNat)).flatten

/-- A port's 16 bytes. -/
def State.portPayload (s : State) (p : Nat) : List Byte :=
  let x := s.port p
  toLE 4 (s.portStatus p).toNat ++ zeros 4 ++ toLE 4 x.replay.length ++ toLE 4 ((x.credits.map Prod.snd).foldl (· + ·) 0)

/-- A hub-engine unit's 72 bytes: busy in byte 0, the class in byte 1, the command that runs there (log entry). -/
def State.hubPayload (s : State) (cls u : Nat) : List Byte :=
  match (s.cmds.filter (fun c => decide (c.cls = cls) && c.busy))[u]? with
  | some c => [1, BitVec.ofNat 8 cls] ++ zeros 6 ++ c.word.take 64
  | none => [0, BitVec.ofNat 8 cls] ++ zeros 6 ++ zeros 64

/-- A unit's payload. -/
def State.unitPayload (s : State) (acc : Bool) (unit : Nat) : List Byte :=
  let n := unit % 4096
  match unit / 4096 with
  | 0 => match s.logicalOf n with
    | some k => s.queuePayload 0 k (s.peonyStatus k) ++ (if acc then s.accPayload k else [])
    | none => s.queuePayload 0 64 0
  | 1 => s.queuePayload 1 n (s.lupinStatus n)
  | 2 => s.corePayload n
  | 5 => s.portPayload n
  | _ => s.hubPayload (n / 256) (n % 256)

/-- The units of a pressing in increasing unit ID: of a group, or every unit (group 16). -/
def State.pressUnits (s : State) (g : Nat) : List Nat :=
  let all := decide (16 ≤ g)
  let mine := fun (p : Nat) => all || decide (s.groupOf p = g)
  ((List.range 52).filter (fun n => match s.logicalOf n with
    | some k => mine (k / 3)
    | none => false)) ++
  ((List.range 16).filter mine).map (fun e => 0x1000 + e) ++
  ((List.range 64).filter (fun n => mine (partOfCore (BitVec.ofNat 6 n)))).map (fun n => 0x2000 + n) ++
  (if all then (List.range 8).map (fun p => 0x5000 + p) ++
    (([2, 3, 4, 5, 6, 7, 8].map (fun c => (List.range (hubUnits c)).map (fun u => 0x7000 + 256 * c + u))).flatten) else [])

/-- The record of a unit: UNIT, FLAGS, LEN, TIME, payload. -/
def State.unitRecord (s : State) (acc : Bool) (hung : Nat) (unreadable : List Nat) (unit : Nat) : List Byte :=
  let bad := unreadable.contains unit
  let body := if bad then [] else s.unitPayload acc unit
  toLE 2 unit ++ toLE 2 (b2n (decide (unit = hung)) + 2 * b2n bad) ++ toLE 4 body.length ++ toLE 8 s.now.toNat ++ body

/-- As many whole records as fit in room bytes, how many, and whether one was left out. -/
def fitRecords : Nat → List (List Byte) → List Byte × Nat × Bool
  | _, [] => ([], 0, false)
  | room, r :: rs =>
    if r.length ≤ room then
      let (bs, n, cut) := fitRecords (room - r.length) rs
      (r ++ bs, n + 1, cut)
    else ([], 0, true)

/-- The 64-byte header of a pressing (R425). -/
def State.pressHeader (s : State) (p : Pressing) (truncated acc : Bool) (records bytes : Nat) : List Byte :=
  let flags := b2n s.stopped + 2 * b2n truncated + 4 * b2n acc
  let cut := if s.stopped then s.regFld Reg.mgdCutStatus 32 32 else 0
  let job := if p.cause = 1 ∨ p.cause = 3 then 0 else p.job.toNat
  toLE 4 0x4A575052 ++ toLE 2 1 ++ [BitVec.ofNat 8 p.cause, BitVec.ofNat 8 flags] ++ toLE 4 cut ++ toLE 4 records ++ toLE 8 p.began.toNat ++
    toLE 8 s.now.toNat ++ toLE 8 bytes ++ toLE 2 job ++ zeros 22

/-- What follows a watchdog's pressing (R423). -/
def State.afterPress (s : State) (follow : Nat) (job : BitVec 16) : State :=
  match follow with
  | 1 => s.killJob job
  | 2 => s.beginStop s.ownCutId
  | _ => s

/-- A pressing ends (R424, R425): its records and header are in its area, truncated at a whole record. -/
def execPressingDone (unreadable : List (BitVec 16)) (s : State) : Host.Outcome State Fault Refusal :=
  match s.press with
  | none => .next s
  | some p =>
    let cfg := s.reg Reg.dbgPressCfg
    let acc := bitAt cfg 62
    let area := fld cfg 20 28 * mib
    let hung := if p.cause = 4 then p.hung.toNat else 65536
    let recs := (s.pressUnits p.group).map (s.unitRecord acc hung (unreadable.map BitVec.toNat))
    let (body, n, cut) := fitRecords (fld cfg 0 8 * mib - 64) recs
    let all := s.pressHeader p cut acc n (64 + body.length) ++ body
    let t := if isRam area && isRam (area + all.length - 1) then s.ramWrite 0 area all false else s
    let t := (t.setRegFld Reg.dbgPressStatus 30 2 (if cut then 3 else 2)).setRegFld Reg.dbgPressStatus 0 24 n
    .next (({ t with press := none } : State).afterPress p.follow p.job)

/-- DBG_PRESS is written: PRESS = 1 presses every unit (R424). -/
def State.pressWrite (s : State) (v : Nat) : State := if v.testBit 0 then s.startPress 1 16 0 0 0 else s

/-- A write of PRESS = 1 (R424). -/
def execPress (v : BitVec 32) (s : State) : Host.Outcome State Fault Refusal :=
  if s.hostWrites then .next (s.pressWrite v.toNat) else .next s

/-! ### Watchdogs (R423) -/

/-- DBG_WDOG_KICK of partition p is written. -/
def State.kickWrite (s : State) (p v : Nat) : State := if v.testBit 0 then s.kickDog p else s

/-- A write of KICK = 1 restarts the group's watchdog (R423). -/
def execWatchdogKick (p : BitVec 4) (v : BitVec 32) (s : State) : Host.Outcome State Fault Refusal :=
  if s.hostWrites then .next (s.kickWrite p.toNat v.toNat) else .next s

/-- Group g's watchdog fires: logged; by ACTION a pressing of the group with CAUSE 2, then the job's kill or a global stop. -/
def execWatchdogFire (g : BitVec 4) (s : State) : Host.Outcome State Fault Refusal :=
  match s.runningJob g.toNat with
  | none => .next s
  | some j =>
    let cfg := s.reg (Reg.dbgWdog g.toNat)
    let ms := fld cfg 0 16
    if !(s.watching g.toNat) || decide (SMap.get 0 s.wdog g.toNat < ms * 1000000) then .next s
    else
      let low := (j.placed.map BitVec.toNat).foldl Nat.min 63
      let t := (s.logEvent 0x05 2 (BitVec.ofNat 16 (0x2000 + low)) j.id (BitVec.ofNat 64 ms)).kickDog g.toNat
      let act := fld cfg 29 2
      if act = 0 then .next t
      else
        let follow := if act = 1 then 1 else if act = 2 then 2 else 0
        if t.pressFree then .next (t.startPress 2 g.toNat j.id 0 follow) else .next (t.afterPress follow j.id)

/-! ### Breakpoint mode (R426–R428) -/

/-- Every command core c enqueued has completed: BRK_STOP is set (R426). -/
def execBrkDrainDone (c : CoreId) (s : State) : Host.Outcome State Fault Refusal :=
  let k := s.core c
  if k.brkDrain && !(s.cmds.any (fun d => decide (d.core = c) && decide (d.job = k.job))) then
    .next (s.setCore c { k with brkDrain := false, brkStop := true }) else .next s

/-- Core n, no longer stopped, fetches its next instruction: where its BRK stood in the last word of instruction memory, the fetch
faults with CC_FETCH_RANGE (R62). -/
def State.fetchOn (s : State) (n : CoreId) : State :=
  if (s.core n).past then (s.setCore n { s.core n with past := false, brkStep := false }).coreFault n 0x2A 0 else s

/-- Core n, stopped at BRK, goes on. -/
def State.brkGo (s : State) (n : CoreId) : State :=
  (s.setCore n { s.core n with brkStop := false, brkDrain := false, brkStep := false }).fetchOn n

/-- The cores a mask names that are stopped. -/
def State.namedStops (s : State) (v : Nat) (f : Core → Bool) : List CoreId :=
  ((List.range 64).filter (fun n => v.testBit n && f (s.core (BitVec.ofNat 6 n)))).map (BitVec.ofNat 6)

/-- DBG_BRK_RESUME is written: every stopped core named goes on. -/
def State.brkResumeWrite (s : State) (v : Nat) : State := (s.namedStops v (fun c => c.brkStop || c.brkDrain)).foldl State.brkGo s

/-- DBG_BRK_STEP is written: each stopped core named issues one instruction. -/
def State.brkStepWrite (s : State) (v : Nat) : State :=
  (s.namedStops v Core.brkStop).foldl (fun t n => (t.setCore n { t.core n with brkStop := false, brkStep := true }).fetchOn n) s

/-- DBG_BRK_RESUME (R427). -/
def execBrkResume (v : Word) (s : State) : Host.Outcome State Fault Refusal :=
  if s.hostWrites then .next (s.brkResumeWrite v.toNat) else .next s

/-- DBG_BRK_STEP (R427). -/
def execBrkStep (v : Word) (s : State) : Host.Outcome State Fault Refusal :=
  if s.hostWrites then .next (s.brkStepWrite v.toNat) else .next s

end Sys2Proof.Machine
end

