-- ==== Sys2Proof/Machine/Apply.lean ====
section
/-!
DEFINITION. Staged fields and APPLY (R7, R299, R300): staging, GO and DISCARD, what each block refuses, what a new set does when
it takes effect, enabling rings (R301).
-/

namespace Sys2Proof.Machine

/-! ### Staging (R7) -/

/-- The RWS bits of the register at address a. -/
def rwsMask (a : Nat) : Word :=
  match regAt a with
  | some r => BitVec.ofNat 64 r.desc.rws
  | none => 0

/-- A field of a value with a function applied. -/
def onField (lo w : Nat) (f : Nat → Nat) (v : Word) : Word := setFld v lo w (f (fld v lo w))

/-- 0 is staged as 1. -/
def atLeast1 (x : Nat) : Nat := Nat.max 1 x

/-- x between lo and hi. -/
def clampTo (lo hi x : Nat) : Nat := Nat.min hi (Nat.max lo x)

/-- Every field of n fields of w bits from bit 0 on, with a function applied. -/
def onFields (n w : Nat) (f : Nat → Nat) (v : Word) : Word := (List.range n).foldl (fun x i => onField (w * i) w f x) v

/-- What a value written to register a's RWS fields is staged as, where a Description says so. -/
def stagedAs (a : Nat) (v : Word) : Word :=
  if a = Reg.clmCacheCtrl then onField 0 12 (Nat.min 2048) v
  else if a = Reg.fxgScacheCtrl then onField 0 9 (Nat.min 256) v
  else if a = Reg.fjlTimeouts then onFields 2 16 atLeast1 v
  else if a = Reg.fjlSampleCfg then onField 0 16 atLeast1 v
  else if a = Reg.fjlClassWeight then onFields 6 8 atLeast1 v
  else if (nth a (Reg.hubPartWeight 0) 4 4).isSome then onFields 4 8 atLeast1 v
  else if a = Reg.mgdCfg then onFields 3 8 atLeast1 v
  else if a = Reg.pwrLimit then onField 16 10 (clampTo 720 880) (onField 0 11 (clampTo 900 1600) v)
  else if a = Reg.pwrValveCfg then onField 24 8 (clampTo 40 90) (onField 16 8 (Nat.max 10) v)
  else if a = Reg.grdCfg then onField 0 10 (clampTo 20 1000) v
  else if (nth a (Reg.dbgTraceCfg 0) 32 2).isSome then onField 32 16 (fun x => Nat.min 16384 (atLeast1 x)) v
  else if (nth a (Reg.dbgWdog 0) 8 16).isSome then onField 0 16 atLeast1 v
  else v

/-- Does an APPLY of the register act even where the staged value equals the one in effect: it restarts a cadence channel's schedule
(R238, R240)? -/
def actsUnchanged (a : Nat) : Bool := (nth a (Reg.lupCadCfg 0) 16 256).isSome

/-- Bits m of register a's RWS fields are staged from v; while a GO of the block waits, and in a register whose APPLY acts in any case, the
staged value stands even where it equals the effective one. -/
def State.stageBits (s : State) (a : Nat) (m v : Word) : State :=
  let r := rwsMask a
  let x := stagedAs a ((s.reg a &&& ~~~r) ||| (s.staged a &&& r &&& ~~~m) ||| (v &&& r &&& m))
  if actsUnchanged a || s.applies.any (fun e => decide (e.1 = applyOf a)) then { s with stg := SMap.insert s.stg a x } else s.stage a x

/-! ### What a block refuses (R300) -/

/-- The state as it would be with a staged set in effect. -/
def State.proposed (s : State) (es : List (Nat × Word)) : State := es.foldl (fun t e => t.setReg e.1 e.2) s

/-- Is the HUB_PGROUP of p refused (R335): sizes that do not match, or another group for a partition that holds a live job? -/
def State.pgroupBad (s p : State) : Bool :=
  (List.range 16).any (fun k => decide (4 < p.groupSize k) || (p.partsOf (p.groupOf k)).any (fun q => decide (p.groupSize q ≠ p.groupSize k))) ||
  s.liveJobs.any (fun j => (s.partsOf j.group).any (fun k => decide (p.groupSize k ≠ s.groupSize k)))

/-- Do partition k's save areas in p break R345: in its HBM range, outside its Hollyhock region and every arena; a size of
Table 14's range? -/
def State.saveBad (p : State) (k : Nat) : Bool :=
  let r := p.saveRange k
  let lo := hbmBase + k * 24 * gib
  decide (r.2 ≠ 0) && (decide (p.areaMib k < 64) || decide (r.1 < lo) || decide (lo + 21 * gib + 768 * mib < r.1 + r.2) ||
    (List.range 20).any (fun a => overlaps r.1 r.2 (p.arena a).1 (p.arena a).2))

/-- Does the FXG_ set of p break R256 or R270: an arena outside its die or over its partition's Hollyhock region, quotas above
their arena? -/
def State.fxgBad (p : State) : Bool :=
  let quotas := fun (k : Nat) => sumNat (((List.range 16).filter (fun q => p.quotaMode q && homeArena q k)).map (fun q => p.quotaIn q k))
  (List.range 20).any (fun k =>
    let a := p.arena k
    let (lo, n) := if k < 4 then (sharedBase + k * 512 * mib, 512 * mib) else (hbmBase + (k - 4) * 24 * gib, 21 * gib + 768 * mib)
    (decide (a.2 ≠ 0) && decide (lo + n < a.1 + a.2)) || decide (a.2 / 65536 < quotas k))

/-- The queues with a binding or staged registers among addresses. -/
def queuesOf (as : List Nat) : List Nat :=
  (as.filterMap (fun a => match nth a (Reg.stmQcfg 0) 16 4096 with
    | some q => some q
    | none => nth a (Reg.stmQtgt 0) 16 4096)).eraseDups

/-- Does a binding target a host ring? -/
def ringKind (k : Nat) : Bool := k = 2 || k = 3

/-- Is queue q's binding in p a new one (R301)? -/
def State.newBinding (s p : State) (q : Nat) : Bool := decide (p.qKind q ≠ s.qKind q) || decide (p.qTarget q ≠ s.qTarget q)

/-- May queue q not have the ring that p gives it, where the queues `refused` keep their bindings in effect (R301): another binding in effect
keeps it, or a new one of a lower queue names it? -/
def State.ringTaken (s p : State) (all refused : List Nat) (q : Nat) : Bool :=
  ringKind (p.qKind q) && s.newBinding p q && all.any (fun o =>
    decide (o ≠ q) && ((ringKind (p.qKind o) && decide (p.qTarget o = p.qTarget q) && (!(s.newBinding p o) || decide (o < q))) ||
      (refused.contains o && ringKind (s.qKind o) && decide (s.qTarget o = p.qTarget q))))

/-- The queues among qs whose new binding in p is refused: kind 6 or 7 (R261); a ring that another binding has, a refused binding's queue
keeping the ring it has (R301). Each round finds at least one more, or none is left to find. -/
def State.refusedQueues (s p : State) (qs : List Nat) : List Nat :=
  let all := (queuesOf (p.eff.map Prod.fst ++ s.eff.map Prod.fst))
  (List.range (qs.length + 1)).foldl (fun refused _ =>
    qs.filter (fun q => decide (6 ≤ p.qKind q) || s.ringTaken p all refused q)) []

/-- Does export slot e of p break R321? -/
def State.exportBad (p : State) (e : Nat) : Bool :=
  let pa := fld (p.reg (Reg.fjlExport e)) 30 18 * gib
  bitAt (p.reg (Reg.fjlExport e)) 63 && (decide (regionOf pa ≠ .hbm) || decide (21 * gib ≤ (pa - hbmBase) % (24 * gib)))

/-- Is trace buffer b of p refused (R418)? -/
def State.traceBad (p : State) (b : Nat) : Bool :=
  let a := p.traceBase b
  let n := p.traceSize b
  bitAt (p.reg (Reg.dbgTraceCfg b)) 63 && (decide (a < hbmBase) || decide (0x7000000000 < a + n) ||
    (List.range 16).any (fun k => overlaps a n (hollyhockRange k).1 (hollyhockRange k).2 || overlaps a n (p.saveRange k).1 (p.saveRange k).2))

/-- Of the changed registers of a block: those refused, and the error bit that shows it. -/
def State.refusals (s p : State) (ap : Nat) (changed : List Nat) : List Nat × Option (Nat × Nat) :=
  let mk := fun (bad : List Nat) (reg bit : Nat) => (bad, if bad.isEmpty then none else some (reg, bit))
  if ap = Reg.winApply 0 then
    if s.pgroupBad p then (changed, some (Reg.hubSchedStatus, 31))
    else mk (changed.filter (fun a => match nth a (Reg.hubSaveCfg 0) 8 16 with
      | some k => p.saveBad k
      | none => false)) Reg.hubSchedStatus 31
  else if ap = Reg.winApply 8 then (if p.fxgBad then (changed, some (Reg.fxgStatus, 31)) else ([], none))
  else if ap = Reg.winApply 9 then
    let qs := s.refusedQueues p (queuesOf changed)
    mk (changed.filter (fun a => (queuesOf [a]).any (fun q => qs.contains q))) Reg.stmStatus 31
  else if ap = Reg.winApply 10 then
    let soft := p.regFld Reg.hlyRdLimits 0 32
    let hard := p.regFld Reg.hlyRdLimits 32 32
    mk (changed.filter (fun a => decide (a = Reg.hlyRdLimits) && (decide (hard ≤ soft) || decide (1000000 < hard)))) Reg.hlyStatus 29
  else if ap = Reg.winApply 13 then
    mk (changed.filter (fun a =>
      (decide (a = Reg.fjlModuleId) && [0, 1, 2].any (fun k => decide (p.dim k ≤ coord p.moduleId k))) ||
      (match nth a (Reg.fjlExport 0) 8 192 with
        | some e => p.exportBad e
        | none => false) ||
      (match nth a (Reg.fjlPortCfg 6) 8 2 with
        | some k => decide (p.regFld (Reg.fjlPortCfg (6 + k)) 26 2 = 3)
        | none => false))) Reg.fjlStatus 31
  else if ap = Reg.winApply 17 then
    mk (changed.filter (fun a => [0, 1].any (fun b => (decide (a = Reg.dbgTraceCfg b) || decide (a = Reg.dbgTraceBase b)) && p.traceBad b)))
      Reg.dbgCtrl 31
  else if ap = Reg.winApply 18 then (changed.filter (fun a => decide (a = Reg.secPolicy) && bitAt (s.reg Reg.secPolicy) 31), none)
  else ([], none)

/-! ### What a new set does (R46, R240, R262, R301, R330, R335, R336, R393, R408, R418, R427) -/

/-- The node and stream caches shrink to their sizes in effect: least recently used lines leave (CLM_CACHE_CTRL, R250). -/
def State.trimCaches (s : State) : State :=
  let t := ((List.range 16).filter s.isGroup).foldl (fun u g => u.trimNodes g (u.nodeShare g / 256)) s
  (List.range 4).foldl State.trimStream t

/-- HUB_PGROUP changed (R46, R336): lines of regrouped groups leave, their flows start at the virtual time. -/
def State.regrouped (s t : State) : State :=
  let moved := (List.range 16).filter (fun k => decide (t.groupSize k ≠ s.groupSize k))
  let olds := moved.map s.groupOf
  let news := (moved.map t.groupOf).eraseDups
  let u := t.evict (fun l => olds.contains l.group)
  let u := u.squashPassages (fun p => olds.contains p.group)
  ([2, 3, 4, 5, 6, 7, 8].map (fun e => ((List.range 8).map (fun c => news.map (fun g => (e, 1000 * e + 16 * c + g)))).flatten)).flatten.foldl
    (fun v x => v.setFlow x.2 { v.flow x.2 with start := v.virt (100 + x.1) }) u

/-- Is the peer of an up port, by its last HELLO, no longer the one the port must have (R311, R314)? -/
def State.misplaced (s : State) (p : Nat) : Bool := s.portUp p && !(s.peerFits p (s.port p).peer.toNat)

/-- Up ports whose configuration no longer fits their peer are in PEER_MISMATCH (R311, R314). -/
def State.judgePorts (s : State) : State :=
  ((List.range 8).filter s.misplaced).foldl (fun t p => t.setPort p { t.port p with state := .peerMismatch, version := 0 }) s

/-- FJL_PORT_CFG of port p changed (R311, R388): a port enabled now trains once the ports are released, a disabled one is down, and a port
that stays enabled is held to its peer. -/
def State.portSwitched (s t : State) (p : Nat) : State :=
  if t.start.released.isNone || t.tripped then t
  else if s.portEnabled p = t.portEnabled p then t.judgePorts
  else if t.portEnabled p then t.beginTraining p t.start.warm
  else t.dropPort p .disabled

/-- Is ring k's configuration acceptable; else its ERR_CODE (R301, R385)? -/
def State.ringCheck (s : State) (f k : Nat) : Option Byte :=
  let cfg := s.reg (Reg.pciRingCfg f k)
  let base := fld (s.reg (Reg.pciRingBase f k)) 12 52 * 4096
  let n := 2 ^ fld cfg 0 5
  if s.start.stage < 2 then some 0x01
  else if !(bitAt (s.reg (Reg.pciIfSelect f)) 31) then some 0x02
  else if decide (fld cfg 0 5 < 4) || decide (16 < fld cfg 0 5) ||
      decide (base % Nat.max 4096 (n * (if bitAt cfg 30 then 32 else 64)) ≠ 0) then some 0x03
  else none

/-- An APPLY of a function window reaches ring k (R301): a changed active ring is disabled; an enabled one that is not active is
judged, and begins at index 0. -/
def State.applyRing (s : State) (f k : Nat) (changed : Bool) : State :=
  let r := s.ring f k
  if r.active && !changed then s
  else
    let t := if r.active then s.setRing f k { r with active := false } else s
    if !(bitAt (t.reg (Reg.pciRingCfg f k)) 31) then t
    else match t.ringCheck f k with
      | none => t.setRing f k { Ring.reset with active := true }
      | some code => t.setRing f k { Ring.reset with err := true, code := code }

/-- What a changed register of the block does once it is in effect; s is the state before, t after. -/
def State.effectOf (s t : State) (a : Nat) : State :=
  if a = Reg.hubPgroup then s.regrouped t
  else if a = Reg.fjlModuleId then t.judgePorts
  else if a = Reg.clmCacheCtrl || a = Reg.fxgScacheCtrl || (nth a (Reg.fxgDsArena 0) 4 4).isSome then t.trimCaches
  else if a = Reg.pwrValveCfg then t.valveConfigured
  else if a = Reg.secPolicy then
    (if s.linkEnc = t.linkEnc then t else ((List.range 8).filter t.portUp).foldl (fun u p => u.beginTraining p true) t)
  else match nth a (Reg.hubEngShape 0 0) 8 128 with
  | some i => t.shaperSet (100000 + 16 * (i % 8 + 2) + i / 8) (t.reg a)
  | none => match nth a (Reg.lupCadCfg 0) 16 256 with
  | some k => t.setCad k { t.cad k with ta := t.now, na := (t.cad k).next }
  | none => match nth a (Reg.fjlShape 0 0) 8 64 with
  | some i => t.shaperSet i (t.reg a)
  | none => match nth a (Reg.fjlPortCfg 0) 8 8 with
  | some p => s.portSwitched t p
  | none => match nth a (Reg.dbgTraceCfg 0) 32 2 with
  | some b =>
    if bitAt (t.reg a) 63 && !(bitAt (s.reg a) 63) then
      let u := t.setReg (Reg.dbgTraceStatus b) 0
      if b = 0 then { u with traceTime := none } else u
    else t
  | none => match nth a (Reg.dbgBrkCfg 0) 4 16 with
  | some p =>
    if bitAt (t.reg a) 31 then t
    else t.brkResumeWrite (bitsWhere 64 (fun n => decide (t.groupOfCore (BitVec.ofNat 6 n) = p)))
  | none => match nth a (Reg.dbgWdog 0) 8 16 with
  | some p => t.kickDog p
  | none => t

/-- The key words staged take effect at SEC_APPLY (R405, R408): a changed key retrains every up port. -/
def State.applyKey (s : State) (words : SMap Word) : State :=
  let ws := (List.range 8).map (fun k => SMap.find words (Reg.secLinkKey k))
  if ws.all Option.isNone then s
  else
    let old := match s.sec.key with
      | some k => k.toNat
      | none => 0
    let new := leNat ((List.range 8).map (fun k => toLE 4 (match SMap.find words (Reg.secLinkKey k) with
      | some w => w.toNat
      | none => bitsOf old (32 * k) 32))).flatten
    let key : Option (BitVec 256) := some (BitVec.ofNat 256 new)
    if s.sec.key = key then s
    else ((List.range 8).filter s.portUp).foldl (fun u p => u.beginTraining p true) { s with sec := { s.sec with key := key } }

/-- The staged set es of block ap takes effect (R299, R300). -/
def State.applySet (s : State) (ap : Nat) (es : SMap Word) : State :=
  let new := fun (e : Nat × Word) => (s.reg e.1 &&& ~~~(rwsMask e.1)) ||| (e.2 &&& rwsMask e.1)
  let cand := (es.map (fun e => (e.1, new e))).filter (fun e => actsUnchanged e.1 || decide (e.2 ≠ s.reg e.1))
  let p := s.proposed cand
  let (bad, flag) := s.refusals p ap (cand.map Prod.fst)
  let good := cand.filter (fun e => !(bad.contains e.1))
  let t := s.proposed good
  let t := { t with stg := t.stg.filter (fun e => bad.contains e.1 || decide ((e.2 &&& rwsMask e.1) ≠ (t.reg e.1 &&& rwsMask e.1))
    || !(es.any (fun x => decide (x.1 = e.1)))) }
  let t := match flag with
    | some (r, b) => t.setRegFld r b 1 1
    | none => t
  let qs := (queuesOf (good.map Prod.fst)).filter (fun q => decide (t.qKind q ≠ s.qKind q) || decide (t.qPutJob q ≠ s.qPutJob q) ||
    decide (t.qGetJob q ≠ s.qGetJob q) || decide (t.qTarget q ≠ s.qTarget q))
  let t := if ap = Reg.winApply 9 then qs.foldl State.unbindQueue t else t
  let t := (good.map Prod.fst).foldl (fun u a => s.effectOf u a) t
  let t := if ap = Reg.winApply 18 then t.applyKey es else t
  let t := match fnOf ap with
    | some f => (List.range 64).foldl (fun (u : State) k =>
        u.applyRing f k ((good.map Prod.fst).any (fun a => decide (Reg.pciRingBase f k ≤ a) && decide (a < Reg.pciRingBase f k + 32)))) t
    | none => t
  t.setRegFld ap 16 16 ((t.regFld ap 16 16 + 1) % 65536)

/-- The oldest GO of block ap takes effect (R299). -/
def State.completeOne (s : State) (ap : Nat) : State :=
  match s.applies.find? (fun e => decide (e.1 = ap)) with
  | none => s
  | some e => ({ s with applies := s.applies.erase e } : State).applySet ap e.2

/-- GO: the block's staged values are taken as they stand (R299); the key words staged with SEC_'s. -/
def State.applyGo (s : State) (ap : Nat) : State :=
  let es := s.stg.filter (fun e => decide (applyOf e.1 = ap))
  let ks := if ap = Reg.winApply 18 then s.sec.keyWords.map (fun e => (Reg.secLinkKey e.1, BitVec.setWidth 64 e.2)) else []
  let t := { s with applies := s.applies ++ [(ap, es ++ ks)] }
  if ks.isEmpty then t else { t with sec := { t.sec with keyWords := [] } }

/-- DISCARD: after the GOs that arrived before it, every staged value of the block is its effective one (R299). -/
def State.applyDiscard (s : State) (ap : Nat) : State :=
  let t := (s.applies.filter (fun e => decide (e.1 = ap))).foldl (fun u _ => u.completeOne ap) s
  let t := { t with stg := t.stg.filter (fun e => !(decide (applyOf e.1 = ap))) }
  if ap = Reg.winApply 18 then { t with sec := { t.sec with keyWords := [] } } else t

/-- A write of an APPLY register: GO and DISCARD together are ignored and counted (R299). -/
def State.applyWrite (s : State) (ap v : Nat) : State :=
  match v % 4 with
  | 1 => s.applyGo ap
  | 2 => s.applyDiscard ap
  | 3 => s.bump Reg.pciNarrowDrop 1
  | _ => s

end Sys2Proof.Machine
end

