-- ==== Sys2Proof/Machine/RegWrite.lean ====
section
/-!
DEFINITION. Register access (R6, R8, R295–R298, Table 12.4): writes of data registers by access code, command registers, reads and
their clearing, what a stage or a global stop holds back (R368, R384, R385).
-/

namespace Sys2Proof.Machine

/-- Who writes a register: PF0 over the host, with what host memory answers, or a control core. -/
inductive Writer where
  | host (reads : List HostRead)
  | core (n : CoreId)
deriving DecidableEq, Repr

/-- The answer to the module's k-th read: host memory's (or a peer's) to a register write of the host's; to a control core's, which no
host serves, a peer's, a free value of number n. -/
def Writer.answer (w : Writer) (n k : Nat) : HostRead :=
  match w with
  | .host rs => (rs[k]?).getD .timeout
  | .core _ => .data ((List.range 262656).map (Config.peerByte (n + k)))

/-- PCI_IF_SELECT of function f holds a pair: it is accepted or rejected. A selection once accepted lasts until FLR: ACCEPTED stays when
a later pair is rejected (R307; DEDUCED, log entry 86). -/
def State.judgeVersion (s : State) (f : Nat) : State :=
  let v := s.reg (Reg.pciIfSelect f)
  let ver := s.reg (Reg.pciIfVersion f)
  let ok := decide (fld v 16 8 = fld ver 24 8) && decide (fld v 8 8 ≤ fld ver 16 8)
  s.setReg (Reg.pciIfSelect f) (withFields v [(31, 1, b2n (ok || bitAt v 31)), (30, 1, b2n (!ok))])

/-- Bits m of data register r are written from v, each field by its access code (Table 0.3). -/
def State.writeBits (s : State) (r : RegRef) (m v : Word) : State :=
  let a := r.addr
  let bv := fun (x : Nat) => (BitVec.ofNat 64 x : Word) &&& m
  let old := s.reg a
  let new := (((old &&& ~~~(bv r.desc.rw)) ||| (v &&& bv r.desc.rw)) &&& ~~~(v &&& bv r.desc.w1c)) ||| (v &&& bv r.desc.w1s)
  let t := if new = old then s else s.setReg a new
  if bv r.desc.rws = 0 then t else t.stageBits a m v

/-- A data register is written in bits m, with what its own rule adds: FS_FAIL (R51), the hold (R416), the trigger (R422), the
restart program counter's low bits (R359), the interface version (R307). -/
def State.writeData (s : State) (r : RegRef) (m v : Word) : State :=
  let a := r.addr
  let t := s.writeBits r m v
  if a = Reg.dbgCtrl then (if bitAt m 0 then s.dbgCtrlWrite (v &&& m).toNat else t)
  else if a = Reg.dbgTrigger then (if bitAt (v &&& m) 63 then t.setRegFld a 62 1 0 else t)
  else match nth a (Reg.pnyCcStatus 0) 4096 64 with
  | some n => if bitAt (v &&& m) 29 then t.setCore (BitVec.ofNat 6 n) { t.core (BitVec.ofNat 6 n) with fsFail := false } else t
  | none => match nth a (Reg.mgdGrpRentry 0) 16 16 with
  | some _ => t.setRegFld a 0 2 0
  | none => match fnOf a with
  | some f => if a = Reg.pciIfSelect f && decide (m &&& 0x00FFFF00 ≠ 0) then t.judgeVersion f else t
  | none => t

/-- MGD_STOP_CTRL is written: STOP starts a stop (R365); RESUME is `State.resumeWrite`. -/
def State.stopWrite (s : State) (v : Nat) : State := if v.testBit 0 then s.beginStop s.ownCutId else s

/-- A command register is written whole (12): a doorbell's own page apart. -/
def State.writeCommand (s : State) (w : Writer) (a v : Nat) : State :=
  let core := match w with
    | .core n => some n
    | .host _ => none
  if a = Reg.hubMmuInval then s.beginInval (BitVec.ofNat 64 v)
  else if a = Reg.hubJobSubmit then
    s.drawn.drawn.submitJob (if core.isNone then some 0 else none) (BitVec.ofNat 64 v) (w.answer s.free 0) (w.answer s.free 1)
  else if a = Reg.hubJobKill then s.killJob (BitVec.ofNat 16 v)
  else if a = Reg.fjlSegInval then s.beginSegInval (BitVec.ofNat 32 v)
  else if a = Reg.mgdStopCtrl then s.stopWrite v
  else if a = Reg.pwrRestart then s.restart v
  else if a = Reg.grdClear then s.guardWrite v
  else if a = Reg.secSvnCommit then (if core.isNone then s.svnCommit v else s)
  else if a = Reg.dbgPress then s.pressWrite v
  else if a = Reg.dbgBrkResume then s.brkResumeWrite v
  else if a = Reg.dbgBrkStep then s.brkStepWrite v
  else if a = Reg.dbgMark then s.markBy core (BitVec.ofNat 64 v)
  else match nth a (Reg.secLinkKey 0) 4 8 with
  | some k => { s with sec := { s.sec with keyWords := SMap.insert s.sec.keyWords k (BitVec.ofNat 32 v) } }
  | none => match nth a (Reg.dbgWdogKick 0) 8 16 with
  | some p => s.kickWrite p v
  | none => s

/-- Does stage 0x1 take a write of the register away (R385): PNY_, LUP_ and the HUB_ job registers; a submission is answered 0x01
(R339)? -/
def jobReg (a : Nat) : Bool :=
  (decide (0x100000 ≤ a) && decide (a < 0x300000)) || (decide (0x1000 ≤ a) && decide (a < 0x2400) && decide (a ≠ Reg.hubJobSubmit))

/-- A write within one register (Table 12.4): data of 1, 2 or 4 bytes at an offset of the register space, or 8 to a 64-bit register. -/
def State.writeOne (s : State) (w : Writer) (off : Nat) (data : List Byte) : State :=
  let a := off / 4 * 4
  let n := data.length
  if s.start.stage < 2 ∧ jobReg a = true then s
  else if isApply a then (if n = 4 then s.applyWrite a (leNat data) else s.bump Reg.pciNarrowDrop 1)
  else match regCovering a with
  | none => s
  | some r =>
    if r.desc.wo ≠ 0 then
      (if decide (n = 8) || (decide (n = 4) && !r.desc.wide) then s.writeCommand w r.addr (leNat data) else s.bump Reg.pciNarrowDrop 1)
    else
      let sh := 8 * (off - r.addr)
      s.writeData r (BitVec.ofNat 64 ((2 ^ (8 * n) - 1) <<< sh)) (BitVec.ofNat 64 (leNat data <<< sh))

/-- Is [off, off + 8) one 64-bit register? -/
def wideAt (off : Nat) : Bool :=
  match regAt off with
  | some r => r.desc.wide
  | none => false

/-- An aligned write of 1, 2, 4 or 8 bytes (R296): 8 bytes over two 32-bit registers are two writes, low address first. -/
def State.writeReg (s : State) (w : Writer) (off : Nat) (data : List Byte) : State :=
  if data.length = 8 ∧ wideAt off = false then (s.writeOne w off (data.take 4)).writeOne w (off + 4) (data.drop 4)
  else s.writeOne w off data

/-! ### Reads -/

/-- The bytes of a log entry (Table 15.7). -/
def LogEntry.bytes (e : LogEntry) : List Byte :=
  toLE 8 e.time.toNat ++ toLE 4 e.seq.toNat ++ [e.code, e.sev] ++ toLE 2 e.unit.toNat ++ toLE 2 e.job.toNat ++ zeros 2 ++
    toLE 8 e.arg.toNat ++ toLE 4 e.seq.toNat

/-- The 4 bytes at a word of the log windows of MGD_: the secondary log, a quarter of the primary (15). -/
def State.logWord (s : State) (off : Nat) : Option (List Byte) :=
  if 0xB30000 ≤ off ∧ off < 0xB32000 then
    let i := (off - 0xB30000) / 32
    some (bytesAt (SMap.get LogEntry.blank s.logSecondary i).bytes (off % 32) 4)
  else if 0xB40000 ≤ off ∧ off < 0xBC0000 then
    let i := (off - 0xB40000) / 32 + 16384 * s.regFld Reg.mgdLogPage 0 2
    some (bytesAt (SMap.get LogEntry.blank s.logPrimary i).bytes (off % 32) 4)
  else none

/-- The 4 bytes a read of the 32-bit word at an offset of the register space returns (R295, R296). -/
def State.readWord (s : State) (off : Nat) : List Byte :=
  match s.logWord off with
  | some bs => bs
  | none =>
    if isApply off then toLE 4 (s.readReg off).toNat
    else match regCovering off with
    | none => zeros 4
    | some r => toLE 4 (bitsOf (s.readReg r.addr).toNat (8 * (off - r.addr)) 32)

/-- The n bytes an aligned read of the register space returns. -/
def State.readBytes (s : State) (off n : Nat) : List Byte :=
  if n = 8 then s.readWord off ++ s.readWord (off + 4) else bytesAt (s.readWord (off / 4 * 4)) (off % 4) n

/-- The RC fields that a read of [off, off + n) covers whole clear (R297). -/
def State.readClears (s : State) (off n : Nat) : State :=
  let one := fun (t : State) (a : Nat) => match regCovering a with
    | none => t
    | some r =>
      let lo := Nat.max off r.addr - r.addr
      let hi := off + n - r.addr
      let m : Word := BitVec.ofNat 64 ((2 ^ (8 * hi) - 1) - (2 ^ (8 * lo) - 1))
      let gone := (r.desc.rc.map (fun x => (BitVec.ofNat 64 x : Word))).filter (fun f => decide (f &&& ~~~m = 0))
      gone.foldl (fun u f => u.setReg r.addr (u.reg r.addr &&& ~~~f)) t
  if n = 8 ∧ wideAt off = false then one (one s (off / 4 * 4)) (off / 4 * 4 + 4) else one s (off / 4 * 4)

/-! ### Host accesses -/

/-- Is an access aligned (12): 1, 2, 4 or 8 bytes at a multiple of its size? -/
def alignedAccess (off n : Nat) : Bool := [1, 2, 4, 8].contains n && decide (off % n = 0)

/-- Does function f exist (Table 12.2)? -/
def State.hasFunction (s : State) (f : Nat) : Bool := decide (f < 257) || (decide (f = 257) && s.start.bifurc)

/-- Where an offset of function f's BAR0 lies in the register space: none for port 1's PF0 outside its own function window, which
reads as PF0's does (R292, R295). The second: may it be written? -/
def barOffset (f off : Nat) : Nat × Bool :=
  if f = 0 then (off, true)
  else if f = 257 then (if 0xE00000 ≤ off ∧ off < 0xE10000 then (Reg.fnBase 257 + (off - 0xE00000), true) else (off, false))
  else (Reg.fnBase f + off, true)

/-- The size of what an access names: BAR0 of a function, PF1's registers, BAR2 (Table 12.2). -/
def barSize (w : RegPort) : Nat :=
  match w with
  | .pf1 => 16384
  | .fn f => if f.toNat = 0 ∨ f.toNat = 257 then 0x4000000 else 0x10000
  | .page f => if f.toNat = 0 ∨ f.toNat = 257 then 0x200000 else 0x1000

/-- The number of a function in the configuration registers held: f, or 258 for PF1. -/
def portNumber : RegPort → Nat
  | .fn f => f.toNat
  | .page f => f.toNat
  | .pf1 => 258

/-- Is the function in D3hot: its power state is 3 (R291)? -/
def State.asleep (s : State) (w : RegPort) : Bool := SMap.get 0 s.config (64 * portNumber w + 10) = (3 : BitVec 32)

/-- Does the function take memory requests: it exists, and is not in D3hot (R291, R293)? -/
def State.serves (s : State) (w : RegPort) : Bool :=
  (match w with
   | .pf1 => true
   | .fn f => s.hasFunction f.toNat
   | .page f => s.hasFunction f.toNat) && !s.asleep w

/-- Is the register in the MGD_ or HTR_ window, which a stopped module serves (R368)? -/
def servedStopped (a : Nat) : Bool := decide (a / 0x100000 = 11) || decide (a / 0x100000 = 12)

/-! ### PF1's registers (R280, NVMe 2.0) -/

/-- PF1's CC (0x14), AQA (0x24), ASQ (0x28) and ACQ (0x30) are written. -/
def State.writePf1 (s : State) (off : Nat) (data : List Byte) : State :=
  let v := leNat data
  if data.length = 4 then
    match off with
    | 0x14 => s.writeCc (BitVec.ofNat 32 v)
    | 0x24 => s.withPf1 (fun p => { p with aqa := BitVec.ofNat 32 v &&& 0x0FFF0FFF })
    | 0x28 => s.withPf1 (fun p => { p with asq := setFld p.asq 0 32 (v / 4096 * 4096) })
    | 0x2C => s.withPf1 (fun p => { p with asq := setFld p.asq 32 32 v })
    | 0x30 => s.withPf1 (fun p => { p with acq := setFld p.acq 0 32 (v / 4096 * 4096) })
    | 0x34 => s.withPf1 (fun p => { p with acq := setFld p.acq 32 32 v })
    | _ => s
  else if data.length = 8 then
    match off with
    | 0x28 => s.withPf1 (fun p => { p with asq := BitVec.ofNat 64 (v / 4096 * 4096) })
    | 0x30 => s.withPf1 (fun p => { p with acq := BitVec.ofNat 64 (v / 4096 * 4096) })
    | _ => s
  else s

/-- The 64 bytes of PF1's registers: CAP with MQES 4,095, AMS 0, stride 4 bytes, 4 KiB pages (Table 11.5, Table 12.2), its reserved bits
zero (R8), its other fields free; VS 2.0; CC, CSTS, AQA, ASQ, ACQ; what NVMe leaves reserved is zero. -/
def State.pf1Bytes (s : State) : List Byte :=
  let cap : Word := withFields Config.nvmeCap [(0, 16, 4095), (17, 2, 0), (19, 5, 0), (32, 4, 0), (48, 4, 0), (61, 3, 0)]
  toLE 8 cap.toNat ++ toLE 4 0x00020000 ++ zeros 8 ++ toLE 4 s.pf1.cc.toNat ++ zeros 4 ++ toLE 4 s.csts.toNat ++ zeros 4 ++
    toLE 4 s.pf1.aqa.toNat ++ toLE 8 s.pf1.asq.toNat ++ toLE 8 s.pf1.acq.toNat ++ zeros 8

/-! ### A host write of a register -/

/-- A host write of an offset of a function's BAR0 or of PF1's registers, once it is not held. -/
def State.hostReg (s : State) (w : RegPort) (off : Nat) (data : List Byte) (reads : List HostRead) : State :=
  match w with
  | .pf1 => s.writePf1 off data
  | .page _ => s
  | .fn f =>
    let (a, may) := barOffset f.toNat off
    if !may then s.bump Reg.pciBadAccess 1
    else s.writeReg (.host reads) a data

/-- Is the write of a function's BAR0 held (R368)? -/
def heldReg (w : RegPort) (off : Nat) : Bool :=
  match w with
  | .pf1 => true
  | .page _ => true
  | .fn f => !(decide (f.toNat = 0 ∨ f.toNat = 257) && servedStopped off)

/-- A function's BAR0 is written (R296, R368, R384): before STAGE1 an Unsupported Request; unaligned or longer than 8 bytes, discarded. -/
def State.hostWrite (s : State) (w : RegPort) (off : Nat) (data : List Byte) (reads : List HostRead) : State :=
  if s.start.stage < 1 then s.send .aerUnsupported
  else if !(alignedAccess off data.length) then (s.bump Reg.pciBadAccess 1).send .aerUnsupported
  else if s.stopped && heldReg w off then s.holdWrite (.reg w off data)
  else s.hostReg w off data reads

/-- A function's BAR0 is read (R296, R297, R384): the data, RC fields covered whole cleared; a stopped module's reads change nothing
(R368). Doorbell pages hold command registers, and nothing else: they read as zero (Table 0.3, R293, R295). -/
def execReadClear (w : RegPort) (off : BitVec 26) (n : Nat) (s : State) : Host.Outcome State Fault Refusal :=
  if !(Instr.readClear w off n).wf then .fault .illFormed else
  let o := off.toNat
  if !(s.serves w) || decide (s.start.stage < 1) || decide (barSize w < o + n) then .next (s.send .unsupportedRequest)
  else if !(alignedAccess o n) then .next ((s.bump Reg.pciBadAccess 1).send .unsupportedRequest)
  else match w with
    | .pf1 => .next (s.send (.readData (bytesAt (s.pf1Bytes ++ zeros 16384) o n) false))
    | .page _ => .next (s.send (.readData (zeros n) false))
    | .fn f =>
      let a := (barOffset f.toNat o).1
      let t := if s.stopped then s else s.readClears a n
      .next (t.send (.readData (s.readBytes a n) false))

/-- COUNTER_WRAP: a counter whose COUNT is at its highest value counts one event more: COUNT 0, EPOCH one higher, WRAPPED set (R134). -/
def execCounterWrap (off : BitVec 26) (s : State) : Host.Outcome State Fault Refusal :=
  match regAt off.toNat with
  | none => .next s
  | some r =>
    if r.desc.wrap.isSome && decide (s.regFld off.toNat 0 48 = 2 ^ 48 - 1) then .next (s.bump off.toNat 1) else .next s

/-- The function and BAR0 offset at which the host finds an offset of the register space (R295). -/
def hostPlace (a : Nat) : RegPort × Nat :=
  match fnOf a with
  | some f => if f = 0 then (.fn 0, a) else if f = 257 then (.fn 257, 0xE00000 + (a - Reg.fnBase 257)) else (.fn (BitVec.ofNat 9 f), a - Reg.fnBase f)
  | none => (.fn 0, a)

/-- The host writes v to an APPLY register. -/
def State.hostApply (s : State) (ap v : Nat) : State :=
  if isApply ap then s.hostWrite (hostPlace ap).1 (hostPlace ap).2 (toLE 4 v) [] else s

/-- APPLY_GO: GO alone is written to an APPLY register (R299, R385). -/
def execApplyGo (ap : BitVec 27) (s : State) : Host.Outcome State Fault Refusal := .next (s.hostApply ap.toNat 1)

/-- APPLY_DISCARD: DISCARD alone is written (R299). -/
def execApplyDiscard (ap : BitVec 27) (s : State) : Host.Outcome State Fault Refusal := .next (s.hostApply ap.toNat 2)

/-- APPLY_COMPLETE: the oldest GO of a block takes effect, and APPLY_COUNT increments (R299, R300). -/
def execApplyComplete (ap : BitVec 27) (s : State) : Host.Outcome State Fault Refusal :=
  if s.stopped then .next s else .next (s.completeOne ap.toNat)

end Sys2Proof.Machine
end

