-- ==== Sys2Proof/Machine/Rings.lean ====
section
/-!
DEFINITION. Doorbells and rings (R301–R306), BAR4 (R294), the interface version (R307), function level reset, D3hot, configuration
requests (R384).
-/

namespace Sys2Proof.Machine

/-- The PCIe port that carries function f (Table 12.2). -/
def State.fnPort (s : State) (f : Nat) : Nat := if f = 257 then 1 else if s.start.bifurc && decide (129 ≤ f) then 1 else 0

/-- The entries of ring k of function f, N. -/
def State.ringN (s : State) (f k : Nat) : Nat := 2 ^ s.regFld (Reg.pciRingCfg f k) 0 5

/-- Is ring k a completion ring? -/
def State.ringDir (s : State) (f k : Nat) : Bool := bitAt (s.reg (Reg.pciRingCfg f k)) 30

/-- Ring k stops on an error (R305, R306). -/
def State.stopRing (s : State) (f k : Nat) (code : Byte) : State :=
  s.setRing f k { s.ring f k with active := false, err := true, code := code }

/-! ### Doorbells (R302, R303, R305) -/

/-- Doorbell k of function f receives a value (R305, R385). -/
def State.doorbell (s : State) (f k v : Nat) : State :=
  if !(s.ring f k).active || decide (s.start.stage < 2) then s.bump Reg.pciDbDrop 1
  else if s.ringN f k ≤ v then s.stopRing f k 0x04
  else s.setRing f k { s.ring f k with host := v }

/-- The function whose doorbell page lies at an offset of function f's BAR2 (R293): a PF0's page 0 is its own, its page t + 1
aliases tenant t's page when the tenant is its port's; the other pages belong to none. -/
def State.doorbellPage (s : State) (f off : Nat) : Option Nat :=
  let page := off / 4096
  if page = 0 then some f
  else if (f = 0 || f = 257) && decide (page ≤ 256) && decide (s.fnPort page = s.fnPort f) then some page else none

/-- A write at a byte of a doorbell page (Table 12.4): doorbell k is the 32-bit command register at 64 × k, and no other byte belongs
to one. -/
def State.pageWrite (s : State) (f off : Nat) (data : List Byte) : State :=
  if 4 ≤ off % 64 then s
  else if data.length < 4 then s.bump Reg.pciNarrowDrop 1
  else s.doorbell f (off % 4096 / 64) (leNat (data.take 4))

/-- A host write in function f's BAR2. -/
def State.doorbellWrite (s : State) (f off : Nat) (data : List Byte) : State :=
  if !(s.serves (.page (BitVec.ofNat 9 f))) || decide (s.start.stage < 1) then s.send .aerUnsupported
  else if !([1, 2, 4, 8].contains data.length) || decide (off % data.length ≠ 0) then (s.bump Reg.pciBadAccess 1).send .aerUnsupported
  else match s.doorbellPage f off with
    | none => s
    | some g => if s.stopped then s.holdWrite (.doorbell g (off % 4096) data) else s.pageWrite g (off % 4096) data

/-- SUBMISSION_DOORBELL (R302): the index of the next entry the host will write. -/
def execSubmissionDoorbell (f : BitVec 9) (off : BitVec 21) (data : List Byte) (s : State) : Host.Outcome State Fault Refusal :=
  if !(Instr.submissionDoorbell f off data).wf then .fault .illFormed else
  .next (s.doorbellWrite f.toNat off.toNat data)

/-- COMPLETION_DOORBELL (R303): the index of the next record the host will read. -/
def execCompletionDoorbell (f : BitVec 9) (off : BitVec 21) (data : List Byte) (s : State) : Host.Outcome State Fault Refusal :=
  if !(Instr.completionDoorbell f off data).wf then .fault .illFormed else
  .next (s.doorbellWrite f.toNat off.toNat data)

/-! ### Fetch and records (R302–R304, R337) -/

/-- May a function use a job's address space and queues (R337): PF0s any; a tenant only a live job of the group it is bound to? -/
def State.tenantMay (s : State) (f : Nat) (job : BitVec 16) : Bool :=
  decide (f = 0) || decide (f = 257) ||
    (s.tenantBound (f - 1) && decide (s.groupOfJob job = some (s.regFld (Reg.hubTenantBind (f - 1)) 0 4)))

/-- The queue that serves ring k of function f now (R302, R303, R337): bound, its job allowed. -/
def State.servedQueue (s : State) (f k : Nat) (completion : Bool) : Option Nat :=
  match s.ringQueue (64 * f + k) completion with
  | none => none
  | some q => if s.qBound q && s.tenantMay f (if completion then s.qPutJob q else s.qGetJob q) then some q else none

/-- Ring k's index passes one entry; PASSES counts its wraps (R304). -/
def State.ringStep (s : State) (f k : Nat) : State :=
  let r := s.ring f k
  let i := (r.index + 1) % s.ringN f k
  s.setRing f k { r with index := i, passes := if i = 0 then r.passes + 1 else r.passes }

/-- The write-back word is written (R304). -/
def State.writeBack (s : State) (f k : Nat) : State :=
  let r := s.ring f k
  s.send (.hostWrite (s.fnPort f) (fld (s.reg (Reg.pciRingWb f k)) 3 61 * 8) (toLE 4 r.index ++ toLE 4 r.passes.toNat) false)

/-- A descriptor with bytes 56–63 stamped: f, the ring number, the ring's fetch count (R302). -/
def stampDescriptor (f ring : Nat) (count : BitVec 32) (d : List Byte) : List Byte :=
  d.take 56 ++ toLE 2 f ++ toLE 2 ring ++ toLE 4 count.toNat

/-- Descriptors go to the queue, each as two words, whole or not at all (R302, R305); the rest are left for a later read. -/
def State.deliverDescriptors (s : State) (f k q : Nat) : List (List Byte) → State
  | [] => s
  | d :: ds =>
    let r := s.ring f k
    let bs := stampDescriptor f (64 * f + k) r.fetched d
    if !(s.wouldEnter q) then s
    else
      let t := s.unitPut q (wordOfBytes (bs.take 32) false)
      if !(t.wouldEnter q) then s
      else
        let u := (t.unitPut q (wordOfBytes (bs.drop 32) true)).ringStep f k
        (u.setRing f k { u.ring f k with fetched := r.fetched + 1 }).deliverDescriptors f k q ds

/-- n bytes cut into descriptors of 64. -/
def descriptorsOf (bs : List Byte) : List (List Byte) := (List.range (bs.length / 64)).map (fun i => bytesAt bs (64 * i) 64)

/-- DESCRIPTOR_FETCH: a read of up to four entries, never past the ring's end, returns (R302, R305); ring fetch waits during a
trip (R397), a stop, and while no queue is bound or it is full. -/
def execDescriptorFetch (f : BitVec 9) (k : BitVec 6) (read : HostRead) (s : State) : Host.Outcome State Fault Refusal :=
  if !(Instr.descriptorFetch f k read).wf then .fault .illFormed else
  let (g, j) := (f.toNat, k.toNat)
  let r := s.ring g j
  let n := s.ringN g j
  let cnt := Nat.min 4 (Nat.min ((r.host + n - r.index) % n) (n - r.index))
  match s.servedQueue g j false with
  | none => .next s
  | some q =>
    if !r.active || s.ringDir g j || s.tripped || s.stopped || s.fatal || decide (cnt = 0) || !(s.wouldEnter q) then .next s
    else match read with
    | .data bs =>
      if decide (bs.length % 64 ≠ 0) || decide (bs.length = 0) || decide (64 * cnt < bs.length) then .next s
      else
        let t := s.deliverDescriptors g j q (descriptorsOf bs)
        .next (if (t.ring g j).fetched = r.fetched then t else t.writeBack g j)
    | .poisoned => .next (s.stopRing g j 0x06)
    | _ => .next (s.stopRing g j 0x05)

/-- RING_RECORD_WRITE: the first word of a completion ring's queue is written at the module's index, unless the ring is full, and the
write-back follows (R303, R304). -/
def execRingRecordWrite (f : BitVec 9) (k : BitVec 6) (s : State) : Host.Outcome State Fault Refusal :=
  if !(Instr.ringRecordWrite f k).wf then .fault .illFormed else
  let (g, j) := (f.toNat, k.toNat)
  let r := s.ring g j
  match s.servedQueue g j true with
  | none => .next s
  | some q => match (s.queue q).words with
    | [] => .next s
    | w :: _ =>
      if !r.active || !(s.ringDir g j) || s.stopped || s.fatal || decide ((r.index + 1) % s.ringN g j = r.host) then .next s
      else
        let t := s.popWord q
        let a := fld (s.reg (Reg.pciRingBase g j)) 12 52 * 4096 + 32 * r.index
        .next (((t.send (.hostWrite (s.fnPort g) a (toLE 32 w.data.toNat) false)).ringStep g j).writeBack g j)

/-! ### BAR4 (R294) -/

/-- A BAR4 access is refused: a read completes with Unsupported Request, a write is discarded. -/
def State.bar4Refused (s : State) (write : Bool) : State := if write then s else s.send .unsupportedRequest

/-- The host as an agent: a job's address space, no command. -/
def hostAgent (job : BitVec 16) : Agent := { job := job, cls := 0xE, cmd := 0, pool := [] }

/-- A request of the host's to a peer's memory, whose failure is counted (R294, R320). -/
def State.hostRequest (s : State) (kind : ReqKind) (id : Nat) (job : BitVec 16) (m slot key off va pa n : Nat) (payload : List Byte) :
    Except Byte State :=
  s.request { kind := kind, core := 0, job := job, cmd := id, target := BitVec.ofNat 16 m, seg := (pa - poolBase) / gib, sent := 0, va := va,
              pa := pa, n := n, home := homeKey m slot off, line := none }
    (if kind = .host then 0x03 else 0x01) 2 false (addressWord slot key off ++ payload)

/-- One piece of a BAR4 write: pool pieces are requests of the host's, failures counted. -/
def State.bar4Piece (s : State) (job : BitVec 16) (reads : List HostRead) (va pa : Nat) (bs : List Byte) : State :=
  match regionOf pa with
  | .pool => match s.poolTarget pa true with
    | .error _ => s.bump Reg.pciBadAccess 1
    | .ok (.here p) => s.ramWrite job p bs false
    | .ok (.there m slot key off) =>
      (runs256 (bs.length / 256 + 1) 0 bs).foldl (fun t e =>
        match t.hostRequest .host 0 job m slot key (off + e.1) (va + e.1) (pa + e.1) e.2.length e.2 with
        | .ok u => u
        | .error _ => t.bump Reg.pciBadAccess 1) s
  | .registers =>
    if alignedAccess pa bs.length then s.writeReg (.host reads) (pa - regBase) bs else s.bump Reg.pciBadAccess 1
  | _ => s.writePiece (hostAgent job) 0 2 va pa bs false

/-- What a BAR4 read finds: the bytes and whether they are poisoned, a failure, or pieces that peers still have to answer. -/
def State.bar4Read (s : State) (a : Agent) (va n : Nat) : Except MemFail (List Byte × Bool) :=
  match s.pieces a va n false with
  | .error f => .error f
  | .ok ps =>
    if ps.any (fun e => decide (regionOf e.1 = .registers)) then
      match ps with
      | [(pa, k)] => if alignedAccess pa k then .ok (s.readBytes (pa - regBase) k, false) else .error { code := 0, va := va }
      | _ => .error { code := 0, va := va }
    else match s.load a va n with
      | .error f => .error f
      | .ok bs => .ok (bs, s.piecesPoisoned a ps)

/-- The physical pieces of a host's read, a peer's cut to reads of at most 256 bytes (R320). -/
def hostPieces (ps : List (Nat × Nat)) : List (Nat × Nat) :=
  (ps.map (fun e => if regionOf e.1 = .pool then (spans256 e.2).map (fun x => (e.1 + x.1, x.2)) else [e])).flatten

/-- One piece of a host's read that reaches peers: asked for, or its bytes as they stand. -/
def State.hostFetch (s : State) (id : Nat) (job : BitVec 16) (va : Nat) (e : Nat × Nat) : State :=
  let a := hostAgent job
  let part := fun (bs : List Byte) (code : Byte) =>
    ({ pa := e.1, n := e.2, bytes := bs, poison := s.piecesPoisoned a [e], code := code } : PoolPart)
  let here := match s.readPiece a e.1 e.2 with
    | .ok bs => s.hostReadArrives id (part bs 0)
    | .error c => s.hostReadArrives id (part [] c)
  if regionOf e.1 = .pool then
    match s.poolTarget e.1 false with
    | .error c => s.hostReadArrives id (part [] c)
    | .ok (.here _) => here
    | .ok (.there m slot key off) =>
      match s.hostRequest .hostRead (id + 1) job m slot key off va e.1 e.2 (toLE 2 e.2) with
      | .ok t => t
      | .error c => s.hostReadArrives id (part [] c)
  else here

/-- A host's read that reaches peers' memory begins (R294, R320): its completion waits for their answers. -/
def State.beginHostRead (s : State) (job : BitVec 16) (va n : Nat) : State :=
  match s.pieces (hostAgent job) va n false with
  | .error _ => s
  | .ok ps =>
    let es := hostPieces ps
    let id := s.nextCmd
    let t : State := { s with nextCmd := s.nextCmd + 1, hostReads := SMap.insert s.hostReads id { pieces := es, parts := [] } }
    es.foldl (fun u e => u.hostFetch id job va e) t

/-- A failure of a BAR4 access: recorded under R248 with AGENT 0xE, or counted (R294). -/
def State.bar4Fault (s : State) (job : BitVec 16) (f : MemFail) : State :=
  if (decide (0x80 ≤ f.code.toNat) && decide (f.code.toNat ≤ 0x82)) || f.code = 0x2C then s.mmuFault job 0xE f else s.bump Reg.pciBadAccess 1

/-- The virtual address that offset off of function f's BAR4 names. -/
def State.bar4Va (s : State) (f off : Nat) : Nat :=
  let v := fld (s.reg (Reg.pciFnBar4 f)) 32 16
  (if f = 0 ∨ f = 257 then v / 16 * 16 else v) * 2 ^ 32 + off

/-- An access through BAR4, once it is not held (R294, R337). -/
def State.bar4 (s : State) (f off n : Nat) (data : Option (List Byte)) (reads : List HostRead) : State :=
  let cfg := s.reg (Reg.pciFnBar4 f)
  let job := BitVec.ofNat 16 (fld cfg 48 16)
  let va := s.bar4Va f off
  let write := data.isSome
  let a := hostAgent job
  if !(bitAt cfg 0) || !(s.isLive job) || !(s.tenantMay f job) then (s.bump Reg.pciBadAccess 1).bar4Refused write
  else match data with
  | none => match s.bar4Read a va n with
    | .error e =>
      if e.awaits.isEmpty then (s.bar4Fault job e).bar4Refused false
      else (if s.stopped then s else s.countRegion a va n).beginHostRead job va n
    | .ok (bs, bad) =>
      let t := if s.stopped then s else match s.pieces a va n false with
        | .ok [(pa, k)] => if regionOf pa = .registers then s.readClears (pa - regBase) k else s.countRegion a va n
        | _ => s.countRegion a va n
      t.send (.readData bs bad)
  | some bs =>
    if !(bitAt cfg 1) then s.mmuFault job 0xE { code := 0x81, va := va }
    else match s.pieces a va bs.length true with
    | .error e => s.bar4Fault job e
    | .ok ps => (ps.foldl (fun (acc : State × Nat × List Byte) e =>
        (acc.1.bar4Piece job reads acc.2.1 e.1 (acc.2.2.take e.2), acc.2.1 + e.2, acc.2.2.drop e.2)) (s, va, bs)).1

/-- The size of function f's BAR4 (Table 12.2). -/
def bar4Size (f : Nat) : Nat := if f = 0 ∨ f = 257 then 64 * gib else 4 * gib

/-- BAR4_ACCESS (R294, R368, R384). -/
def execBar4Access (f : BitVec 9) (off : BitVec 36) (n : Nat) (data : Option (List Byte)) (s : State) :
    Host.Outcome State Fault Refusal :=
  if !(Instr.bar4Access f off n data).wf then .fault .illFormed else
  let g := f.toNat
  if !(s.serves (.fn f)) || decide (s.start.stage < 1) || decide (bar4Size g < off.toNat + n) then
    .next (s.send (if data.isSome then .aerUnsupported else .unsupportedRequest))
  else match data with
  | some bs => if s.stopped then .next (s.holdWrite (.bar4 g off.toNat bs)) else .next (s.bar4 g off.toNat n data [])
  | none => .next (s.bar4 g off.toNat n none [])

/-! ### Versions, resets, power states, configuration (R306, R307, R384) -/

/-- IF_SELECT: PCI_IF_SELECT is written whole (R307). -/
def execIfSelect (f : BitVec 9) (v : BitVec 32) (s : State) : Host.Outcome State Fault Refusal :=
  if !(Instr.ifSelect f v).wf then .fault .illFormed else
  if !(s.hasFunction f.toNat) then .next s
  else .next (s.hostWrite (hostPlace (Reg.pciIfSelect f.toNat)).1 (hostPlace (Reg.pciIfSelect f.toNat)).2 (toLE 4 v.toNat) [])

/-- Every ring of function f is disabled (R306). -/
def State.disableRings (s : State) (f : Nat) : State :=
  { s with rings := s.rings.map (fun e => if e.1 / 64 = f then (e.1, { e.2 with active := false }) else e) }

/-- The configuration registers of a function are as at reset (R291). -/
def State.resetConfig (s : State) (k : Nat) : State := { s with config := s.config.filter (fun e => decide (e.1 / 64 ≠ k)) }

/-- FLR of function f alone (R306): its rings disabled, its window reset, the words of its completion queues discarded. -/
def State.resetFunction (s : State) (f : Nat) : State :=
  let t := (List.range 64).foldl (fun u k => match u.ringQueue (64 * f + k) true with
    | some q => u.discardWords q
    | none => u) s
  let keep := fun (a : Nat) => decide (fnOf a ≠ some f)
  { t.resetConfig f with
           rings := t.rings.filter (fun e => decide (e.1 / 64 ≠ f)), eff := t.eff.filter (fun e => keep e.1),
           stg := t.stg.filter (fun e => keep e.1), applies := t.applies.filter (fun e => keep e.1) }

/-- The functions an FLR of function f reaches: a PF0's, every function of its port. -/
def State.flrSet (s : State) (f : Nat) : List Nat :=
  if f = 0 ∨ f = 257 then f :: ((List.range 257).filter (fun g => decide (1 ≤ g) && decide (s.fnPort g = s.fnPort f))) else [f]

/-- A function level reset (R306); PF1's is a controller level reset (R294). -/
def State.functionReset (s : State) (w : RegPort) : State :=
  match w with
  | .pf1 => s.pf1Reset.resetConfig 258
  | .page _ => s
  | .fn f => if s.hasFunction f.toNat then (s.flrSet f.toNat).foldl State.resetFunction s else s

/-- FLR (R306). -/
def execFlr (w : RegPort) (s : State) : Host.Outcome State Fault Refusal :=
  if !(Instr.flr w).wf then .fault .illFormed else .next (s.functionReset w)

/-- A function enters D3hot: its power state shows it, its rings are disabled; PF1 has none (R291, R306). -/
def State.enterD3hot (s : State) (w : RegPort) : State :=
  let t : State := { s with config := SMap.set 0 s.config (64 * (portNumber w) + 10) 3 }
  match w with
  | .fn f => t.disableRings f.toNat
  | _ => t

/-- D3HOT_ENTRY (R306). -/
def execD3hotEntry (w : RegPort) (s : State) : Host.Outcome State Fault Refusal :=
  if !(Instr.d3hotEntry w).wf then .fault .illFormed else .next (s.enterD3hot w)

/-! ### Configuration space (R291, R293) -/

/-- A field of a function's configuration space: its doubleword, its place, its value, and for a writable field the number of the register
that holds it. -/
structure ConfigField where
  dword : Nat
  lo : Nat
  width : Nat
  val : Nat
  reg : Option Nat
deriving DecidableEq, Repr

/-- A field that only reads. -/
def fixedField (dword lo width val : Nat) : ConfigField := { dword := dword, lo := lo, width := width, val := val, reg := none }

/-- A writable field, with its value at reset. -/
def heldField (dword lo width val reg : Nat) : ConfigField := { dword := dword, lo := lo, width := width, val := val, reg := some reg }

/-- A 64-bit BAR of 2^k bytes at a doubleword (Table 12.2): its address bits are held, its type reads as it is. -/
def barFields (dword reg k : Nat) (prefetch : Bool) : List ConfigField :=
  fixedField dword 0 4 (4 + 8 * b2n prefetch) ::
    (if k < 32 then [fixedField dword 4 (k - 4) 0, heldField dword k (32 - k) 0 reg, heldField (dword + 1) 0 32 0 (reg + 1)]
     else [fixedField dword 4 28 0, fixedField (dword + 1) 0 (k - 32) 0, heldField (dword + 1) (k - 32) (64 - k) 0 (reg + 1)])

/-- A function's kind: 0 a PF0, 1 PF1, 2 a VF. -/
def portKind : RegPort → Nat
  | .pf1 => 1
  | .fn f => if f.toNat = 0 ∨ f.toNat = 257 then 0 else 2
  | .page _ => 2

/-- The header (Tables 12.1, 12.2): Device ID, class code, BARs, Interrupt Pin 0, the list of capabilities. The layout is PCIe's
(PRESUMED, log entry 87). -/
def headerFields (kind : Nat) : List ConfigField :=
  let id := match kind with
    | 0 => 0x4A96
    | 1 => 0x4A97
    | _ => 0x4A98
  let cls := match kind with
    | 0 => [fixedField 2 8 24 0x120000]
    | 1 => [fixedField 2 8 24 0x010802]
    | _ => []
  let bars := match kind with
    | 0 => barFields 4 1 26 false ++ barFields 6 3 21 false ++ barFields 8 5 36 true
    | 1 => barFields 4 1 14 false ++ (List.range 4).map (fun i => fixedField (6 + i) 0 32 0)
    | _ => (List.range 6).map (fun i => fixedField (4 + i) 0 32 0)
  [fixedField 0 16 16 id, heldField 1 1 2 0 0, fixedField 1 19 2 2, fixedField 13 0 8 (4 * (Config.capabilityAt kind 0).toNat),
   fixedField 15 8 8 0] ++ cls ++ bars

/-- The PCI Express and power-management capabilities (Table 12.1): payloads of 128 to 512 bytes, read requests of 128 to 4,096 bytes,
10-bit tags, FLR, 64 GT/s, the width, no No Snoop, no ASPM, no TPH, no IDO; D0 and D3hot. No MSI or MSI-X follows them. -/
def State.linkFields (s : State) (kind : Nat) (second : Bool) : List ConfigField :=
  let c := (Config.capabilityAt kind 0).toNat
  let m := (Config.capabilityAt kind 1).toNat
  let x := s.start.pcie
  let p := SMap.get PciePort.reset x (b2n second)
  [fixedField c 0 8 0x10, fixedField c 8 8 (4 * m), fixedField (c + 1) 0 3 2, fixedField (c + 1) 28 1 1, fixedField (c + 2) 11 1 0,
   fixedField (c + 2) 15 1 0, heldField (c + 2) 5 3 0 7, heldField (c + 2) 12 3 2 8, fixedField (c + 3) 0 4 6,
   fixedField (c + 3) 4 6 (if s.start.bifurc then 8 else 16), fixedField (c + 3) 10 2 0, fixedField (c + 4) 0 2 0,
   fixedField (c + 4) 16 4 p.speed.toNat, fixedField (c + 4) 20 6 (2 ^ p.width.toNat), fixedField (c + 9) 12 2 0,
   fixedField (c + 9) 16 2 3, fixedField (c + 10) 8 2 0, fixedField m 0 8 1, fixedField m 8 8 0, fixedField m 25 2 0,
   heldField (m + 1) 0 2 0 10]

/-- The extended capabilities (Table 12.1, R293): AER, ARI, and a PF0's SR-IOV with TotalVFs, First VF Offset 2, VF Stride 1, the VFs'
Device ID and BARs. No ATS, PRI or PASID follows them. -/
def State.extendedFields (s : State) (kind : Nat) : List ConfigField :=
  let a := (Config.capabilityAt kind 2).toNat
  let v := (Config.capabilityAt kind 3).toNat
  let vfs := if s.start.bifurc then 128 else 256
  [fixedField 64 0 16 1, fixedField 64 20 12 (4 * a), fixedField a 0 16 0x0E, fixedField a 20 12 (if kind = 0 then 4 * v else 0)] ++
    (if kind = 0 then
      [fixedField v 0 16 0x10, fixedField v 20 12 0, heldField (v + 2) 0 1 0 11, heldField (v + 2) 3 2 0 12, fixedField (v + 3) 0 16 vfs,
       fixedField (v + 3) 16 16 vfs, heldField (v + 4) 0 16 0 14, fixedField (v + 5) 0 16 2, fixedField (v + 5) 16 16 1,
       fixedField (v + 6) 16 16 0x4A98] ++ barFields (v + 9) 15 16 false ++ barFields (v + 11) 17 12 false ++ barFields (v + 13) 19 32 true
     else [])

/-- The fields of a function's configuration space that the spec gives; the first that lies at a place holds. -/
def State.configFields (s : State) (second : Bool) (w : RegPort) : List ConfigField :=
  headerFields (portKind w) ++ s.linkFields (portKind w) second ++ s.extendedFields (portKind w)

/-- The value of a field of function number k. -/
def State.fieldValue (s : State) (k : Nat) (x : ConfigField) : Nat :=
  match x.reg with
  | none => x.val
  | some r => (SMap.get (BitVec.ofNat 32 x.val) s.config (64 * k + r)).toNat

/-- A doubleword of configuration space: the fields the spec gives (R291, R293), the rest a constant it leaves open. -/
def State.configWord (s : State) (second : Bool) (w : RegPort) (o : Nat) : BitVec 32 :=
  let mine := (s.configFields second w).filter (fun x => decide (x.dword = o / 4))
  BitVec.setWidth 32 (withFields (BitVec.setWidth 64 (Config.configWord (portKind w) o)) (mine.reverse.map (fun x => (x.lo, x.width, s.fieldValue (portNumber w) x))))

/-- May a held field take a value (Table 12.1): payloads up to 512 bytes, read requests up to 4,096, D0 or D3hot? -/
def configTakes (reg v : Nat) : Bool :=
  match reg with
  | 7 => decide (v ≤ 2)
  | 8 => decide (v ≤ 5)
  | 10 => v = 0 || v = 3
  | _ => true

/-- A held field of function w is written. -/
def State.writeField (s : State) (w : RegPort) (x : ConfigField) (v : Nat) : State :=
  match x.reg with
  | none => s
  | some r =>
    if !(configTakes r v) then s
    else if r = 10 ∧ v = 3 then s.enterD3hot w
    else { s with config := SMap.set (BitVec.ofNat 32 x.val) s.config (64 * (portNumber w) + r) (BitVec.ofNat 32 v) }

/-- A doubleword of configuration space is written: its held fields; a function level reset where it is initiated there (R291, R306). -/
def State.configWrite (s : State) (second : Bool) (w : RegPort) (o : Nat) (v : BitVec 32) : State :=
  let mine := (s.configFields second w).filter (fun x => decide (x.dword = o / 4))
  let t := mine.foldl (fun u x => u.writeField w x (fld v x.lo x.width)) s
  if decide (o / 4 = (Config.capabilityAt (portKind w) 0).toNat + 2) && bitAt v 15 then t.functionReset w else t

/-- Does a port present the function (Table 12.2)? -/
def State.presents (s : State) (second : Bool) (w : RegPort) : Bool :=
  match w with
  | .pf1 => !second
  | .page _ => false
  | .fn f => s.hasFunction f.toNat && decide (s.fnPort f.toNat = b2n second)

/-- CONFIG_REQUEST (R384, R403): retried before STAGE1, but in recovery mode; completed after, a request to a function that the port does
not present as unsupported. -/
def execConfigRequest (second : Bool) (w : RegPort) (off : BitVec 12) (data : Option (BitVec 32)) (s : State) :
    Host.Outcome State Fault Refusal :=
  if !(Instr.configRequest second w off data).wf then .fault .illFormed else
  let o := off.toNat / 4 * 4
  if !(s.linkUp second) then .next s
  else if decide (s.start.stage < 1) && !s.inRecoveryMode then .next (s.send .configRetry)
  else if !(s.presents second w) then .next (s.send .unsupportedRequest)
  else match data with
  | some v => .next (s.configWrite second w o v)
  | none => .next (s.send (.configData (s.configWord second w o)))

end Sys2Proof.Machine
end

