-- ==== Sys2Proof/Machine/Resume.lean ====
section
/-!
DEFINITION. The cut of a global stop (R366, R369, R371), RESUME with the replay of held writes (R368, R370), and the host's register
writes as a whole (R296), the lock of SEC_POLICY (R408).
-/

namespace Sys2Proof.Machine

/-! ### The cut (R369) -/

/-- n free bytes, whose value the spec does not give. -/
def State.freeBytes (s : State) (n : Nat) : List Byte := (List.range n).map (fun i => BitVec.setWidth 8 (Config.freeWord (s.free + i)))

/-- The bytes of the messages recorded on ports, the channels' state (R366). -/
def State.channelBytes (s : State) : Nat := sumNat ((List.range 8).map (fun p => sumNat ((s.port p).arrived.map Msg.len)))

/-- The 64-byte header of the cut (R369). -/
def State.cutHeader (s : State) (bytes : Nat) : List Byte :=
  toLE 4 (s.regFld Reg.mgdCutStatus 32 32) ++ [2] ++ toLE 1 (s.regFld Reg.mgdCutStatus 16 8) ++ zeros 2 ++ toLE 8 s.stop.began.toNat ++
    toLE 8 s.now.toNat ++ toLE 8 bytes ++ zeros 32

/-- The cut is written: the header, unit states in the format of a pressing, channel states, whose form the spec does not give; cut
short where the area ends, with TRUNCATED; an area of size 0 receives the header only. -/
def State.writeCut (s : State) : State :=
  let cfg := s.reg Reg.mgdCutBase
  let area := fld cfg 20 28 * mib
  let size := fld cfg 0 8 * mib
  let n := s.channelBytes
  let recs := (s.pressUnits 16).map (s.unitRecord false 65536 []) ++ (if n = 0 then [] else [s.freeBytes n])
  let (body, _, cut) := fitRecords (size - 64) recs
  let all := s.cutHeader (64 + body.length) ++ body
  let t : State := { s with free := s.free + n }
  let t := if decide (regionOf area = .hbm) && decide (regionOf (area + all.length - 1) = .hbm) then
      t.ramWrite 0 area all false else t
  if cut && decide (size ≠ 0) then t.setRegFld Reg.mgdStatus 29 1 1 else t

/-- CUT_TAKEN: every port's recording has ended; the cut is written, unless HBM is in self-refresh (R371), and the module is stopped. A
trip that came meanwhile then takes its actions. -/
def execCutTaken (s : State) : Host.Outcome State Fault Refusal :=
  if !s.stopped || decide (s.regFld Reg.mgdCutStatus 0 2 ≠ 1) || decide (s.regFld Reg.mgdCutStatus 8 8 ≠ 0) || s.selfRefresh then .next s
  else
    let t := s.writeCut
    let t := t.logEvent 0x0C 0 0xF000 0 (BitVec.ofNat 64 (t.regFld Reg.mgdCutStatus 32 32))
    let t := t.setRegFld Reg.mgdCutStatus 0 2 2
    let t : State := { t with stop := { t.stop with done := s.now } }
    .next (if t.tripped then ({ t with selfRefresh := true } : State).disablePorts else t)

/-! ### RESUME (R370, R371) -/

/-- A held write reaches its unit, and how many answers of host memory it used. -/
def State.replay (s : State) (h : HeldWrite) (reads : List HostRead) : State × Nat :=
  match h with
  | .reg w off data => (s.hostReg w off data reads, if w = .fn 0 ∧ off = Reg.hubJobSubmit then 2 else 0)
  | .doorbell f off data => (s.pageWrite f off data, 0)
  | .pf1Sq q v => (s.sqDoorbell q v, 0)
  | .pf1Cq q v => (s.cqDoorbell q v, 0)
  | .bar4 f off data => (s.bar4 f off data.length (some data) reads, 0)

/-- The held writes are replayed in the order they arrived. -/
def State.replayAll (s : State) (hs : List HeldWrite) (reads : List HostRead) : State :=
  (hs.foldl (fun (acc : State × List HostRead) h =>
    let (t, n) := acc.1.replay h acc.2
    (t, acc.2.drop n)) (s, reads)).1

/-- Recorded channels are replayed, then every unit goes on (R370). What ports recorded waits in their `arrived`. -/
def State.resumeNow (s : State) (reads : List HostRead) : State :=
  let t := s.setRegFld Reg.mgdCutStatus 0 2 0
  let t : State := { t with stopped := false, stop := { t.stop with held := [], resume := false } }
  t.replayAll s.stop.held reads

/-- RESUME is written: during a trip it is recorded (R371). -/
def State.resumeWrite (s : State) (reads : List HostRead) : State :=
  if !s.stopped || decide (s.regFld Reg.mgdCutStatus 0 2 ≠ 2) then s
  else if s.tripped then { s with stop := { s.stop with resume := true } }
  else s.resumeNow reads

/-- RESUME (R370): written with RESUME = 1; with no bit set, a RESUME recorded during a trip takes effect now that the trip has ended
(R371). -/
def execResume (v : BitVec 32) (reads : List HostRead) (s : State) : Host.Outcome State Fault Refusal :=
  if s.start.stage < 1 then .next s
  else if bitAt v 1 then .next (s.resumeWrite reads)
  else .next (if s.stop.resume && !s.tripped then s.resumeWrite reads else s)

/-! ### Host register writes -/

/-- A host write of BAR0 or of PF1's registers, with RESUME where it writes MGD_STOP_CTRL. -/
def State.hostWord (s : State) (w : RegPort) (o : Nat) (data : List Byte) (reads : List HostRead) : State :=
  let t := s.hostWrite w o data reads
  if decide (w = .fn 0) && decide (o = Reg.mgdStopCtrl) && decide (data.length = 4) && (leNat data).testBit 1 && decide (1 ≤ s.start.stage) then
    t.resumeWrite reads
  else t

/-- REGISTER_WRITE (R292, R295, R296): a host write of a function's BAR0, of PF1's registers or of a doorbell page; 8 bytes that hold
MGD_STOP_CTRL are two writes, low address first. -/
def execRegisterWrite (w : RegPort) (off : BitVec 26) (data : List Byte) (reads : List HostRead) (s : State) :
    Host.Outcome State Fault Refusal :=
  if !(Instr.registerWrite w off data reads).wf then .fault .illFormed else
  let o := off.toNat
  if !(s.serves w) || decide (barSize w < o + data.length) then .next (s.send .aerUnsupported)
  else match w with
    | .page f => .next (s.doorbellWrite f.toNat o data)
    | _ =>
      if decide (data.length = 8) && decide (o % 8 = 0) && decide (o = Reg.mgdStopCtrl / 8 * 8) && decide (1 ≤ s.start.stage) then
        .next ((s.hostWord w o (data.take 4) reads).hostWord w (o + 4) (data.drop 4) reads)
      else .next (s.hostWord w o data reads)

/-- POLICY_LOCK: SEC_POLICY is written with LOCK = 1 (R408): LINK_ENC and JOB_SIG keep their effective values until a cold start. -/
def execPolicyLock (v : BitVec 32) (s : State) : Host.Outcome State Fault Refusal :=
  if bitAt v 31 then .next (s.hostWrite (.fn 0) Reg.secPolicy (toLE 4 v.toNat) []) else .next s

end Sys2Proof.Machine
end

