-- ==== Sys2Proof/Machine/CoreMem.lean ====
section
/-!
DEFINITION. Loads, stores and atomics of a control core (R58–R60, R243–R248, R320–R323, R354), the stream cache and its prefetch (R250,
R251).
-/

namespace Sys2Proof.Machine

/-- What an address of a control core leads to. -/
inductive Place where
  /-- word i of its instruction memory (R50) -/
  | own (i : Nat)
  /-- SRAM or HBM at physical address `at_` = pa, or a GiB this module exports to itself: its pool address and where it lies; may the
  stream cache hold it -/
  | ram (pa at_ : Nat) (owned cache : Bool)
  | flash (pa : Nat) (cache : Bool)
  | remote (pa mod slot key off : Nat) (cache : Bool)
  /-- an offset of the register space -/
  | regs (off : Nat)
deriving DecidableEq, Repr

/-- Does va lead into the flash read window, whatever it permits? -/
def State.inFlash (s : State) (job : BitVec 16) (va : Nat) : Bool :=
  match s.translate job va false with
  | .ok (pa, _) => decide (regionOf pa = .flash)
  | .error _ => false

/-- Where an access of n bytes at va by a core of the job leads, or the code it faults with, first to last: misaligned (R58), beyond 48
bits (R59), the core-private window's width (R59), a write or AMO to the flash window whatever WR says (R59), translation (R244–R246),
the registers' rules (R59), memory not served (R358, R380), the fabric pool's checks (R320). -/
def State.place (s : State) (job : BitVec 16) (va : Word) (n : Nat) (write amo : Bool) : Except Byte Place :=
  let a := va.toNat
  if a % n ≠ 0 then .error 0x29
  else if 2 ^ 48 ≤ a then .error 0x80
  else if isPrivate a then (if n = 4 ∧ amo = false then .ok (.own ((a - 0xFFFF00000000) / 4)) else .error 0x2C)
  else if write && s.inFlash job a then .error 0x2C
  else match s.translate job a write with
  | .error c => .error c
  | .ok (pa, cache) =>
    match s.barred pa with
    | some c => .error c
    | none => match regionOf pa with
      | .flash => .ok (.flash pa cache)
      | .registers => if amo || !(n = 4 || n = 8) then .error 0x2C else .ok (.regs (pa - regBase))
      | .pool => match s.poolTarget pa write with
        | .error c => .error c
        | .ok (.here p) => .ok (.ram pa p false cache)
        | .ok (.there m slot key off) => .ok (.remote pa m slot key off cache)
      | .none => .error 0x82
      | .hbm => .ok (.ram pa pa true cache)
      | _ => .ok (.ram pa pa true false)

/-- Core n's access at va faults (R74, R248). -/
def State.accessFault (s : State) (n : CoreId) (va : Word) (code : Byte) : State :=
  (s.mmuFault (s.core n).job 0xF { code := code, va := va.toNat }).coreFault n code (va.toNat % 2 ^ 48)

/-! ### The stream cache (R250, R251) -/

/-- The line of the stream cache of core n's die that holds the byte of this home address for core n's group. -/
def State.streamLine (s : State) (n : CoreId) (home : Nat) : Option AheadLine :=
  s.ahead.find? (fun l => decide (l.line = home / 256) && decide (l.group = s.groupOfCore n) && !l.node && decide (l.die = dieOfCore n))

/-- Does the stream cache of core n's die hold the byte of this home address for its group? -/
def State.streamHit (s : State) (n : CoreId) (home : Nat) : Bool := (s.streamLine n home).isSome

/-- Core n's load of physical address pa misses: its stream detector remembers the line (R251). -/
def State.missed (s : State) (n : CoreId) (pa : Nat) : State :=
  let c := s.core n
  s.setCore n { c with lastMiss := pa / 256 :: c.lastMiss.take 1 }

/-- A load of core n uses the line of pa, in this module's memory at `home`, in its die's stream cache, or misses and fills it. -/
def State.streamUse (s : State) (n : CoreId) (pa home : Nat) : State :=
  let g := s.groupOfCore n
  let d := dieOfCore n
  if s.scacheMib d = 0 then s
  else if s.streamHit n home then s.useLines g home 1 false
  else
    let t := s.missed n pa
    let l : AheadLine := { aheadLine (home / 256) g d false false with used := true }
    ({ t with ahead := t.ahead ++ [l] } : State).trimStream d

/-- Is a 256-byte line of this module's memory uncorrectable or poisoned? -/
def State.lineBad (s : State) (pa : Nat) : Bool :=
  match regionOf pa with
  | .flash => (s.block ((pa - flashBase) / 4096)).bad
  | _ => s.poisoned pa 256

/-- STREAM_PREFETCH: after misses to two consecutive lines, one of the next eight in their direction is filled ahead, in the same
4 KiB (R251), not with DIS_PREFETCH (R48): from HBM, flash, or the fabric pool, whose lines of peers' memory are asked for (R40). -/
def execStreamPrefetch (c : CoreId) (k : BitVec 3) (s : State) : Host.Outcome State Fault Refusal :=
  let d := dieOfCore c
  match (s.core c).lastMiss with
  | [a, b] =>
    let up := decide (a = b + 1)
    let line := if up then a + (k.toNat + 1) else a - (k.toNat + 1)
    let inPage := decide (line / 16 = a / 16) && (up || decide (k.toNat + 1 ≤ a))
    let pa := 256 * line
    let home := s.home pa
    if !(up || decide (b = a + 1)) || !inPage || s.specOff 1 || s.stopped || s.fatal || decide (s.scacheMib d = 0) then .next s
    else if s.streamHit c home then .next s
    else match regionOf pa with
      | .hbm => .next ((s.fillLine (aheadLine line (s.groupOfCore c) d false (s.lineBad pa))).trimStream d)
      | .flash => .next (((s.countFlashReads [(pa - flashBase) / 4096]).fillLine (aheadLine line (s.groupOfCore c) d false (s.lineBad pa))).trimStream d)
      | .pool => match s.poolTarget pa false with
        | .ok (.here p) => .next ((s.fillLine (aheadLine (p / 256) (s.groupOfCore c) d false (s.lineBad p))).trimStream d)
        | .ok (.there _ _ _ _) =>
          .next (s.fetchLine c (s.core c).job 2 pa (aheadLine (home / 256) (s.groupOfCore c) d false false))
        | .error _ => .next s
      | _ => .next s
  | _ => .next s

/-! ### Loads -/

/-- Has core n a fabric write or AMO of its own to this home address without acknowledgement? Its own accesses to one location take
effect in program order (R23). -/
def State.ownWriteAt (s : State) (n : CoreId) (home bytes : Nat) : Bool :=
  s.reqs.any (fun r => decide (r.2.kind = .write) && decide (r.2.core = n) && decide (r.2.cmd = 0) &&
    overlaps home bytes r.2.home r.2.n)

/-- Does a load of some bytes stall (R23, R41, R64, R272): in run-ahead a fault, the registers, the core-private window; flash before
its map is loaded; a peer's memory that an own store is still on its way to? -/
def State.loadStalls (s : State) (n : CoreId) (bytes : Nat) (p : Except Byte Place) : Bool :=
  let ahead := (s.core n).runAhead.isSome
  match p with
  | .error _ => ahead
  | .ok (.own _) => ahead
  | .ok (.regs _) => ahead
  | .ok (.remote _ m slot _ off _) => s.ownWriteAt n (homeKey m slot off) bytes
  | .ok (.flash _ _) => !(bitAt (s.reg Reg.hlyStatus) 31)
  | .ok (.ram _ _ _ _) => false

/-- Core n's load found v, poisoned or not: poison faults it with 0xC0 (R354); in run-ahead it is only marked, with the state before
the load, and counted (R42). -/
def State.loaded (s : State) (n : CoreId) (rd : GReg) (va v : Word) (bad : Bool) : State :=
  let c := s.core n
  match bad, c.runAhead with
  | false, _ => s.writeG n rd v
  | true, none => s.accessFault n va 0xC0
  | true, some r =>
    let mark := match r.poison with
      | some x => some x
      | none => some (c.pc, c.g, c.p)
    (s.setCore n { c with runAhead := some { r with poison := mark, errors := r.errors + 1 } }).writeG n rd v

/-- The word a load of the core-private window reads: its own stores are seen at once (R50). -/
def Core.ownWord (c : Core) (i : Nat) : BitVec 32 :=
  match c.imemStores.reverse.find? (fun e => decide (e.1 = i)) with
  | some e => e.2
  | none => SMap.get 0 c.imem i

/-- A request of core n to a peer's memory; its response completes the instruction (R322), or the code it cannot be sent with. In
run-ahead such a code is no fault: the load stalls (R41). -/
def State.askPool (s : State) (n : CoreId) (kind : ReqKind) (rd : GReg) (bytes : Nat) (sx : Bool) (va : Word) (off : Nat) (r : Req)
    (typ : Byte) (payload : List Byte) : State :=
  let tag := s.nextTag
  match s.request { r with kind := kind, core := n, job := (s.core n).job } typ 2 false payload with
  | .error c => if (s.core n).runAhead.isSome then s else s.accessFault n va c
  | .ok t => t.setCore n { t.core n with blocked := some (.pool tag rd bytes sx va off) }

/-- The request record of an access at pool address pa of n bytes, held by module m. -/
def poolReq (va pa n m slot off : Nat) (line : Option AheadLine) : Req :=
  { kind := .load, core := 0, job := 0, cmd := 0, target := BitVec.ofNat 16 m, seg := (pa - poolBase) / gib, sent := 0, va := va, pa := pa,
    n := n, home := homeKey m slot off, line := line }

/-- A load of a peer's memory: from the stream cache where it holds the line; else the bytes are asked for, on a page with CACHE = 1 the
whole 256-byte line, which the stream cache then holds (R250, R322). -/
def State.loadRemote (s : State) (c : CoreId) (rd : GReg) (va : Word) (n : Nat) (sx cache : Bool) (pa m slot key off : Nat) : State :=
  let home := homeKey m slot off
  let d := dieOfCore c
  if cache && decide (s.scacheMib d ≠ 0) then
    match s.streamLine c home with
    | some l =>
      if l.bad then s.askPool c .load rd n sx va 0 (poolReq va.toNat pa n m slot off none) 0x01 (addressWord slot key off ++ toLE 2 n)
      else (s.useLines (s.groupOfCore c) home 1 false).loaded c rd va (extendLoad n sx (leNat (bytesAt l.data (home % 256) n))) false
    | none =>
      let t := s.missed c pa
      let l : AheadLine := { aheadLine (home / 256) (s.groupOfCore c) d false false with used := true }
      let at_ := off % 256
      t.askPool c .load rd n sx va at_ (poolReq va.toNat (pa - at_) 256 m slot (off - at_) (if s.lineFree home then some l else none))
        0x01 (addressWord slot key (off - at_) ++ toLE 2 256)
  else s.askPool c .load rd n sx va 0 (poolReq va.toNat pa n m slot off none) 0x01 (addressWord slot key off ++ toLE 2 n)

/-- A load of n bytes at va takes effect on core c. -/
def State.loadAt (s : State) (c : CoreId) (rd : GReg) (va : Word) (n : Nat) (sx : Bool) (p : Except Byte Place) : State :=
  let job := (s.core c).job
  match p with
  | .error code => s.accessFault c va code
  | .ok (.own i) => s.writeG c rd (extendLoad 4 sx ((s.core c).ownWord i).toNat)
  | .ok (.regs off) => (s.readClears off n).writeG c rd (extendLoad n sx (leNat (s.readBytes off n)))
  | .ok (.ram pa at_ owned cache) =>
    let bs := if owned then s.ramRead job at_ n else s.bytes at_ n
    let t := if cache then s.streamUse c pa at_ else s
    t.loaded c rd va (extendLoad n sx (leNat bs)) (s.poisoned at_ n)
  | .ok (.flash pa cache) =>
    let b := (pa - flashBase) / 4096
    let t := if cache && s.streamHit c pa then s else s.countFlashReads [b]
    let t := if cache then t.streamUse c pa pa else t
    t.loaded c rd va (extendLoad n sx (leNat (s.flashRead (pa - flashBase) n))) (s.block b).bad
  | .ok (.remote pa m slot key off cache) => s.loadRemote c rd va n sx cache pa m slot key off

/-- LD: 2^SZ bytes at rs1 + sign_extend(imm9) * 2^SZ, zero- or sign-extended into rd; SX = 1 with SZ = 0b11 is illegal (R58). -/
def execLd (c : CoreId) (gd : Guard) (rd rs1 : GReg) (sz : BitVec 2) (sx : Bool) (imm : BitVec 9) (s : State) :
    Host.Outcome State Fault Refusal :=
  let k := s.core c
  let va := memAddress (k.greg rs1) imm sz
  let n := 2 ^ sz.toNat
  let legal := !(sx && decide (sz = 3))
  let p := s.place k.job va n false false
  if legal && k.guard gd && s.loadStalls c n p then .next s
  else .next (s.issue c gd .load legal (fun t => t.loadAt c rd va n sx p))

/-! ### Stores and atomics -/

/-- Core c goes on after a store, unless what it stored took it off its program. -/
def State.advanceIf (s : State) (c : CoreId) (job : BitVec 16) : State :=
  if (s.core c).state = .running ∧ (s.core c).job = job then s.advance c else s

/-- A store of bytes at va takes effect on core c: a failed pool store is reported only through FENCE.S (R323). -/
def State.storeAt (s : State) (c : CoreId) (va : Word) (bs : List Byte) (p : Except Byte Place) : State :=
  let job := (s.core c).job
  match p with
  | .error code =>
    if (decide (0xA0 ≤ code.toNat) && decide (code.toNat ≤ 0xAF)) then
      (s.setCore c { s.core c with writeFailed := some (BitVec.ofNat 16 s.moduleId) }).advance c
    else s.accessFault c va code
  | .ok (.own i) =>
    (s.setCore c { s.core c with imemStores := (s.core c).imemStores ++ [(i, BitVec.ofNat 32 (leNat bs))] }).advance c
  | .ok (.regs off) => (s.writeReg (.core c) off bs).advanceIf c job
  | .ok (.ram _ pa _ _) => (s.ramWrite job pa bs false).advance c
  | .ok (.flash _ _) => s.accessFault c va 0x2C
  | .ok (.remote pa _ _ _ _ _) => (s.poolWrite c job 0 2 va.toNat pa bs false).advance c

/-- ST: the low 2^SZ bytes of rs2 at rs1 + sign_extend(imm9) * 2^SZ; SX = 1 is illegal (R58). -/
def execSt (c : CoreId) (gd : Guard) (rs2 rs1 : GReg) (sz : BitVec 2) (sx : Bool) (imm : BitVec 9) (s : State) :
    Host.Outcome State Fault Refusal :=
  let k := s.core c
  let va := memAddress (k.greg rs1) imm sz
  let n := 2 ^ sz.toNat
  .next (s.issue c gd .never (!sx) (fun t => t.storeAt c va (toLE n (k.greg rs2).toNat) (t.place k.job va n true false)))

/-- An atomic operation at va takes effect on core c (R60): at the location's home, the old value to rd. -/
def State.amoAt (s : State) (c : CoreId) (rd : GReg) (va : Word) (fn : Nat) (b old0 : Word) (p : Except Byte Place) : State :=
  let job := (s.core c).job
  match p with
  | .error code => s.accessFault c va code
  | .ok (.ram _ pa owned _) =>
    if s.poisoned pa 8 then s.accessFault c va 0xC0
    else
      let old := BitVec.ofNat 64 (leNat (if owned then s.ramRead job pa 8 else s.bytes pa 8))
      (s.ramWrite job pa (toLE 8 (amoResult (fn / 16) old b old0).toNat) false).writeG c rd old
  | .ok (.remote pa m slot key off _) =>
    (s.dropHome (homeKey m slot off) 8).askPool c .amo rd 8 false va 0 (poolReq va.toNat pa 8 m slot off none) 0x05
      (addressWord slot key off ++ toLE 1 fn ++ toLE 8 b.toNat ++ toLE 8 old0.toNat)
  | .ok _ => s.accessFault c va 0x2C

/-- Does an AMO wait: with release, for the core's earlier fabric writes, whatever its location (R60: scope D for SRAM and HBM, S for
the fabric pool); at a peer's location, for its own earlier store there (R23)? -/
def State.amoWaits (s : State) (c : CoreId) (fn : BitVec 7) (p : Except Byte Place) : Bool :=
  match p with
  | .ok (.ram _ _ _ _) => bitAt fn 2 && s.writesPending c
  | .ok (.remote _ m slot _ off _) => (bitAt fn 2 && s.writesPending c) || s.ownWriteAt c (homeKey m slot off) 8
  | _ => false

/-- AMO: an 8-byte read-modify-write at rs1, the operation in FN[6:4] (R60); FN[1:0] nonzero and FN[6:4] = 0b111 are illegal. -/
def execAmo (c : CoreId) (gd : Guard) (rd rs1 rs2 : GReg) (fn : BitVec 7) (s : State) : Host.Outcome State Fault Refusal :=
  let k := s.core c
  let va := k.greg rs1
  let legal := decide (fld fn 0 2 = 0) && decide (fld fn 4 3 ≠ 7)
  let p := s.place k.job va 8 true true
  if legal && k.guard gd && s.amoWaits c fn p then .next s
  else .next (s.issue c gd .never legal (fun t => t.amoAt c rd va fn.toNat (k.greg rs2) (k.greg rd) p))

end Sys2Proof.Machine
end

