-- ==== Sys2Proof/Machine/Lupin.lean ====
section
/-!
DEFINITION. The Lupin decode engines (05, 09): LUP_GEMV, LUP_ATTN, LUP_TREE_VERIFY, LUP_KV_DISCARD, the KV cache's
layout (R216–R220), and the cadence unit (R238, R239).
-/

namespace Sys2Proof.Machine

/-- Physical memory a Lupin operand may lie in (R124): HBM, or the shared SRAM of the engine's die. -/
def lupinWindow (e pa : Nat) : Bool :=
  decide (regionOf pa = .hbm) ||
  decide (sharedBase + e / 4 * 512 * mib ≤ pa ∧ pa < sharedBase + (e / 4 + 1) * 512 * mib)

/-- LUP_GEMV's start (R127, R131). -/
def State.startGemv (s : State) (a : Agent) (c : Cmd) : StartResult :=
  match s.readDescs a [c.n 16 8, c.n 24 8, c.n 32 8] with
  | .error f => .fail f
  | .ok ds =>
    let cc : Cmd := { c with descs := ds }
    let w := cc.desc (c.n 16 8)
    let x := cc.desc (c.n 24 8)
    let y := cc.desc (c.n 32 8)
    let win := lupinWindow c.inst
    firstFail [(!w.valid || !x.valid || !y.valid, 0x39),
        (!(scaleOk w.tscale) || !(scaleOk x.tscale) || !(scaleOk y.tscale) ||
          (usesRcp y.fmt && !(scaleOk (c.f32 40))), 0x34),
        (!(arrayFmt w.fmt) || !(arrayFmt x.fmt) || !(storeFmt y.fmt) || (c.bit 44 3 && decide (y.fmt ≠ 0)), 0x31),
        (isIntFmt w.fmt != isIntFmt x.fmt, 0x32)]
      (windowCheck (s.regionsOk a false win (w.readRegion 0 w.rows ++ x.readRegion 0 x.rows))
        (windowCheck (s.regionsOk a true win (y.writeRegion 0 y.rows))
          (firstFail [(decide (256 < x.rows) || decide (x.cols ≠ w.cols) || decide (y.rows ≠ x.rows) ||
              decide (y.cols ≠ w.rows), 0x33),
            (s.regionsMeet a (w.readRegion 0 w.rows ++ x.readRegion 0 x.rows) (y.writeRegion 0 y.rows), 0x27)] (.go ds))))

/-- The Lupin counters a command's timing adds to. -/
def State.lupinCount (s : State) (c : Cmd) (ext : Ext) : State :=
  ((s.bump (Reg.lupArrayActive c.inst) (ext.nums.getD 0 0)).bump (Reg.lupFreezeHbm c.inst) (ext.nums.getD 1 0)).bump
    (Reg.lupHbmKib c.inst) (ext.nums.getD 2 0)

/-- LUP_GEMV computes Y[r, n] = Σk X[r, k] · W[n, k] (R127). With ACCUM the old element of Y is its FP32 code: Y's TSCALE is not
applied to it (DESIGN CHOICE, log entry 77). -/
def execLupGemv (id : Nat) (ext : Ext) (s : State) : Host.Outcome State Fault Refusal :=
  match s.working id 1 1 with
  | none => .next s
  | some c =>
    let a := c.agent
    let w := c.desc (c.n 16 8)
    let x := c.desc (c.n 24 8)
    let y := c.desc (c.n 32 8)
    let (p, fp) := fmul false false w.tscale x.tscale
    let ws := (List.range w.rows).map (fun n => s.arrayRow a w n 0 w.cols)
    let res := (List.range x.rows).map (fun r =>
      let xs := s.arrayRow a x r 0 x.cols
      collect ((ws.zipIdx).map (fun wn =>
        let (acc, f) := accumulate x.fmt w.fmt (x.cols / 32 + 1) 0 (xs.zip wn.1)
        let (u, g) := storeValue y.fmt (isIntFmt x.fmt) p (c.f32 40) acc
        if c.bit 44 3 then
          let old := BitVec.ofNat 32 (s.codeAt a y r wn.2)
          let (t, h) := fadd false false u old
          (t, f ||| g ||| h ||| readFlags (val32 old))
        else (u, f ||| g))))
    let reads := w.readRegion 0 w.rows ++ x.readRegion 0 x.rows ++ (if c.bit 44 3 then y.readRegion 0 y.rows else [])
    let bad := s.regionsPoisoned a reads
    let (t, f, _) := s.storeRows a c.core c.cls3 y (c.bit 44 0) (c.bit 44 1) (c.bit 44 2) 0 0 (res.map Prod.fst) bad
    .next (s.withReads c reads ((t.lupinCount c ext).workDone c (poisonStatus bad)
      (flagsResult ((res.map Prod.snd).foldl (· ||| ·) (fp ||| f)) 0)))

/-! ### The KV cache -/

/-- A sequence record (Table 9.2). -/
structure SeqRec where
  len : Nat
  alloc : Nat
  pageTab : Nat
  pool : Nat
  srow0 : Nat
  poolRows : Nat
  stride : Nat
  layers : Nat
  hkv : Nat
  d : Nat
  fmt : Nat
  kscale : BitVec 32
  vscale : BitVec 32
  zeros : Bool
deriving DecidableEq, Repr

/-- The record in 64 bytes. -/
def parseSeq (bs : List Byte) : SeqRec :=
  { len := numAt bs 0 4, alloc := numAt bs 4 4, pageTab := numAt bs 8 8, pool := numAt bs 16 8, srow0 := numAt bs 24 4,
    poolRows := numAt bs 28 4, stride := numAt bs 32 8, layers := numAt bs 40 2, hkv := numAt bs 42 2, d := numAt bs 44 2,
    fmt := numAt bs 46 1 % 16, kscale := BitVec.ofNat 32 (numAt bs 48 4), vscale := BitVec.ofNat 32 (numAt bs 52 4),
    zeros := decide (numAt bs 46 1 < 16) && decide (numAt bs 47 1 = 0) && decide (numAt bs 56 8 = 0) }

/-- RB: the bytes of one row of K or V (R217). -/
def SeqRec.rb (q : SeqRec) : Nat := q.hkv * q.d * Machine.ebits q.fmt / 8

/-- Scale bytes of one row (R217). -/
def SeqRec.sb (q : SeqRec) : Nat := if q.fmt = 5 then q.hkv * q.d / 32 else 0

/-- The size of an area of r rows (R217). -/
def SeqRec.areaBytes (q : SeqRec) (r : Nat) : Nat := r * 2 * (q.rb + q.sb)

/-- Where row i's elements and scale bytes of K (or V) lie in an area of r rows at base (R217). -/
def SeqRec.rowPlace (q : SeqRec) (base r : Nat) (v : Bool) (i : Nat) : Nat × Nat :=
  (base + (if v then r * q.rb else 0) + i * q.rb, base + 2 * r * q.rb + (if v then r * q.sb else 0) + i * q.sb)

/-- Layer l of the pool: its base (R217). -/
def SeqRec.poolArea (q : SeqRec) (l : Nat) : Nat := q.pool + l * (q.stride * q.poolRows / 64)

/-- The bytes the command read at its start at va. -/
def Cmd.held (c : Cmd) (va : Nat) : List Byte :=
  match c.descs.find? (fun e => e.1 = va) with
  | some e => e.2
  | none => []

/-- The address of the sequence record of entry i of the KV table (R218). -/
def Cmd.seqAddr (c : Cmd) (kvt i : Nat) : Nat := numAt (c.held kvt) (32 + 16 * i) 8

/-- Sequence i of the command's KV table. -/
def Cmd.seq (c : Cmd) (kvt i : Nat) : SeqRec := parseSeq (c.held (c.seqAddr kvt i))

/-- The header of a KV table is well formed: VERSION 1, zero reserved bytes, entries' too (R218). -/
def kvtClean (bs : List Byte) : Bool :=
  decide (numAt bs 0 2 = 1) && allZero (bytesAt bs 6 26) &&
  (List.range (numAt bs 2 2)).all (fun i => allZero (bytesAt bs (40 + 16 * i) 8))

/-- Read a KV table and every sequence record it names (R216, R218). -/
def State.readKvt (s : State) (a : Agent) (kvt : Nat) : Except MemFail (List (Nat × List Byte)) :=
  match s.load a kvt 32 with
  | .error f => .error f
  | .ok h =>
    match s.load a kvt (32 + 16 * Nat.min (numAt h 2 2) 256) with
    | .error f => .error f
    | .ok t =>
      (List.range (Nat.min (numAt h 2 2) 256)).foldl (fun acc i =>
        match acc with
        | .error f => .error f
        | .ok l =>
          let ra := numAt t (32 + 16 * i) 8
          match s.load a ra 64 with
          | .error f => .error f
          | .ok b => .ok (l ++ [(ra, b)])) (.ok [(kvt, t)])

/-- A format of Table 9.2. -/
def kvFmt (f : Nat) : Bool := [1, 2, 3, 5].contains f

/-- The physical address page p of a sequence begins at, from PAGE_TAB. -/
def State.pageAddr (s : State) (a : Agent) (q : SeqRec) (p : Nat) : Nat := leNat (s.vbytes a (q.pageTab + 8 * p) 8)

/-- Rows i to i + n − 1 of an area of r rows at base: K, V and their scales (R217). -/
def SeqRec.rowsAt (q : SeqRec) (base r i n : Nat) : List (Nat × Nat) :=
  ([false, true].map (fun v =>
    let p := q.rowPlace base r v i
    (p.1, n * q.rb) :: (if q.sb = 0 then [] else [(p.2, n * q.sb)]))).flatten

/-- The base of the page area of layer l that holds position p (R217). -/
def State.pageArea (s : State) (a : Agent) (q : SeqRec) (l p : Nat) : Nat := s.pageAddr a q (p / 64) + l * q.stride

/-- The memory of positions 0 to n − 1 of a sequence in layer l (R217). -/
def State.kvPages (s : State) (a : Agent) (q : SeqRec) (l n : Nat) : List (Nat × Nat) :=
  ((List.range (ceilDiv n 64)).map (fun p => q.rowsAt (s.pageArea a q l (64 * p)) 64 0 (Nat.min 64 (n - 64 * p)))).flatten

/-- The memory of nodes 0 to n − 1 of a sequence's tree in layer l (R217). -/
def SeqRec.kvNodes (q : SeqRec) (l n : Nat) : List (Nat × Nat) := q.rowsAt (q.poolArea l) q.poolRows q.srow0 n

/-- The part of PAGE_TAB that names the pages of the first n positions. -/
def SeqRec.tabRegion (q : SeqRec) (n : Nat) : Nat × Nat := (q.pageTab, 8 * ceilDiv n 64)

/-- Does the allocation hold n more positions, and the pool n nodes (R218)? -/
def SeqRec.holds (q : SeqRec) (n : Nat) : Bool := decide (q.len + n ≤ q.alloc * 64) && decide (q.srow0 + n ≤ q.poolRows)

/-- What attention reads for layer l of a sequence with n nodes. -/
def State.kvReads (s : State) (a : Agent) (q : SeqRec) (l n : Nat) : List (Nat × Nat) := s.kvPages a q l q.len ++ q.kvNodes l n

/-- The regions of a KV table and its sequence records. -/
def Cmd.kvtRegions (c : Cmd) (kvt : Nat) : List (Nat × Nat) :=
  (kvt, 32 + 16 * Nat.min (numAt (c.held kvt) 2 2) 256) :: (List.range (Nat.min (numAt (c.held kvt) 2 2) 256)).map (fun i => (c.seqAddr kvt i, 64))

/-- The K (or V) element j of KV head h at position i: a committed position, or (pool) pool row i (R217, R219). -/
def State.kvElem (s : State) (a : Agent) (q : SeqRec) (l : Nat) (v pool : Bool) (i h j : Nat) : Num :=
  let (base, r, row) := if pool then (q.poolArea l, q.poolRows, i) else (s.pageArea a q l i, 64, i % 64)
  let (ea, sa) := q.rowPlace base r v row
  let e := h * q.d + j
  let eb := Machine.ebits q.fmt / 8
  elemNum q.fmt (leNat (s.vbytes a (ea + e * eb) eb)) (if q.fmt = 5 then s.vbyte a (sa + e / 32) else 127)

/-- Marks a command's captured flag (DIS_DRAFT at its start) among what it read. -/
def heldFlag : Nat := 2 ^ 60

/-- The shared checks of an attention command over Q, KVT and O with trees of t nodes (R128, R131, R218); more: what else it reads. -/
def State.startAttn (s : State) (a : Agent) (c : Cmd) (t : Nat) (treeBad : Bool) (more : List (Nat × Nat)) : StartResult :=
  let hq := c.n 44 2
  let hkv := c.n 46 2
  let dd := c.n 48 2
  let kvt := c.n 24 8
  match s.readDescs a [c.n 16 8, c.n 32 8] with
  | .error f => .fail f
  | .ok ds =>
    match s.readKvt a kvt with
    | .error f => .fail f
    | .ok ks =>
      let cc : Cmd := { c with descs := ds ++ ks }
      let q := cc.desc (c.n 16 8)
      let o := cc.desc (c.n 32 8)
      let h := cc.held kvt
      let nseq := numAt h 2 2
      let layer := numAt h 4 2
      let seqs := (List.range (Nat.min nseq 256)).map (cc.seq kvt)
      let win := lupinWindow c.inst
      let want := if cmdOpcode c.word = 2 then q.rows else 1
      let okSeqs := seqs.filter (fun e => e.holds t)
      let tabs := okSeqs.map (fun e => e.tabRegion e.len)
      let small := cc.kvtRegions kvt ++ tabs ++ more
      let kvr := (okSeqs.map (fun e => s.kvReads a e layer t)).flatten
      let reads := q.readRegion 0 q.rows ++ small ++ kvr
      firstFail [(!q.valid || !o.valid, 0x39),
          (!(scaleOk q.tscale) || !(scaleOk o.tscale) || seqs.any (fun e => !(scaleOk e.kscale) || !(scaleOk e.vscale)), 0x34),
          (!(arrayFmt q.fmt) || !(storeFmt o.fmt) || seqs.any (fun e => !(kvFmt e.fmt)), 0x31),
          (isIntFmt q.fmt, 0x32)]
        (windowCheck (s.regionsOk a false win small) (match s.readable a tabs with
          | .error f => .fail f
          | .ok _ => windowCheck (s.regionsOk a false win reads)
            (windowCheck (s.regionsOk a true win (o.writeRegion 0 o.rows)) (firstFail [(hq = 0 || hkv = 0 || decide (128 < hq) || decide (hq % hkv ≠ 0) || decide (dd % 32 ≠ 0) || decide (dd < 32) ||
                decide (256 < dd) || decide (q.cols ≠ hq * dd) || decide (o.rows ≠ q.rows) || decide (o.cols ≠ q.cols) ||
                decide (nseq ≠ want) || decide (256 < nseq) || !(kvtClean h) ||
                seqs.any (fun e => decide (e.layers ≤ layer) || decide (e.hkv ≠ hkv) || decide (e.d ≠ dd) || !e.zeros ||
                  decide (e.stride < e.areaBytes 64)), 0x33),
              (treeBad || (decide (cmdOpcode c.word = 3) && decide (q.rows ≠ t)), 0x38),
              (seqs.any (fun e => !(e.holds t)), 0x3A),
              (s.regionsMeet a reads (o.writeRegion 0 o.rows), 0x27)]
              (.go (ds ++ ks))))))

/-- The parent array at TREE (R129). -/
def State.readTree (s : State) (a : Agent) (va t : Nat) : Except MemFail (List Nat) :=
  match s.load a va (2 * t) with
  | .error f => .error f
  | .ok bs => .ok ((List.range t).map (fun i => numAt bs (2 * i) 2))

/-- Is the parent array a tree (R129)? -/
def treeOk (ps : List Nat) : Bool :=
  decide (ps.length ≠ 0) && decide (ps.length ≤ 256) && decide (ps.head? = some 0xFFFF) &&
  ((ps.zipIdx).drop 1).all (fun e => decide (e.1 < e.2))

/-- The path from node 0 to node i. -/
def treePath (ps : List Nat) : Nat → Nat → List Nat
  | 0, i => [i]
  | fuel + 1, i => if i = 0 then [0] else treePath ps fuel (ps.getD i 0) ++ [i]

/-- LUP_ATTN's start: rows are trees of one node (R219). -/
def State.startLupAttn (s : State) (a : Agent) (c : Cmd) : StartResult := s.startAttn a c 1 false []

/-- LUP_TREE_VERIFY's start (R129). -/
def State.startVerify (s : State) (a : Agent) (c : Cmd) : StartResult :=
  let t := c.n 60 2
  match s.readTree a (c.n 52 8) (Nat.min t 256) with
  | .error f => .fail f
  | .ok ps =>
    match s.startAttn a c t (decide (256 < t) || !(treeOk ps)) [(c.n 52 8, 2 * Nat.min t 256)] with
    | .go ds => .go (ds ++ [(heldFlag, (ps.map (toLE 2)).flatten)])
    | r => r

/-- Attention of one query head: the scores over positions, SCALE, SOFTMAX, the weighted sum of V (R128, R219). Positions
are (pool, index) in increasing order. -/
def State.attnHead (s : State) (a : Agent) (c : Cmd) (q : Desc) (e : SeqRec) (layer r h : Nat) (pos : List (Bool × Nat)) :
    List (BitVec 32) × NFlags :=
  let dd := e.d
  let hk := h / (c.n 44 2 / c.n 46 2)
  let qs := (s.arrayRow a q r (h * dd) dd).map (fun x => elemNum q.fmt x.1.toNat x.2)
  let (tk, f0) := fmul false false q.tscale e.kscale
  let (xs, f1) := collect (pos.map (fun p =>
    let ks := (List.range dd).map (fun j => s.kvElem a e layer false p.1 p.2 hk j)
    let (y, f) := addGroups (dd / 32 + 1) 0 (qs.zip ks)
    let (u, g) := fmul false false y tk
    let (v, k) := fmul false false u (c.f32 40)
    (v, f ||| g ||| k)))
  let (ws, f2) := vecSoftmax false 0x3F800000 xs
  let (os, f3) := collect ((List.range dd).map (fun j =>
    let vs := pos.map (fun p => s.kvElem a e layer true p.1 p.2 hk j)
    let (y, f) := addGroups (pos.length / 32 + 1) 0 ((ws.map val32).zip vs)
    let (u, g) := fmul false false y e.vscale
    (u, f ||| g)))
  (os, f0 ||| f1 ||| f2 ||| f3)

/-- The nodes of an attention command: 1, or those of the tree it read. -/
def Cmd.attnNodes (c : Cmd) : Nat := if cmdOpcode c.word = 2 then 1 else (c.held heldFlag).length / 2

/-- The KV memory an attention command reads. -/
def State.attnReads (s : State) (c : Cmd) : List (Nat × Nat) :=
  let kvt := c.n 24 8
  ((List.range (numAt (c.held kvt) 2 2)).map (fun i => (c.seq kvt i).tabRegion (c.seq kvt i).len ::
    s.kvReads c.agent (c.seq kvt i) (numAt (c.held kvt) 4 2) c.attnNodes)).flatten

/-- The work of an attention command: row r of Q against its sequence and positions. -/
def State.attention (s : State) (c : Cmd) (ext : Ext) (rowSeq : Nat → Nat) (positions : SeqRec → Nat → List (Bool × Nat)) :
    State :=
  let a := c.agent
  let q := c.desc (c.n 16 8)
  let o := c.desc (c.n 32 8)
  let kvt := c.n 24 8
  let layer := numAt (c.held kvt) 4 2
  let res := (List.range q.rows).map (fun r =>
    let e := c.seq kvt (rowSeq r)
    let hs := (List.range (c.n 44 2)).map (fun h => s.attnHead a c q e layer r h (positions e r))
    ((hs.map Prod.fst).flatten, (hs.map Prod.snd).foldl (· ||| ·) 0))
  let reads := q.readRegion 0 q.rows ++ s.attnReads c
  let bad := s.regionsPoisoned a reads
  let (t, f, _) := s.storeRows a c.core c.cls3 o (c.bit 50 0) (c.bit 50 1) false 0 0 (res.map Prod.fst) bad
  (t.lupinCount c ext).workDone c (poisonStatus bad)
    (flagsResult ((res.map Prod.snd).foldl (· ||| ·) (f ||| readFlags (val32 (c.f32 40)))) 0)

/-- The committed positions, then pool rows. -/
def positionsOf (e : SeqRec) (nodes : List Nat) : List (Bool × Nat) :=
  (List.range e.len).map (fun i => (false, i)) ++ nodes.map (fun i => (true, e.srow0 + i))

/-- The key of a sequence's last verified tree. -/
def treeKey (job : BitVec 16) (ra : Nat) : Nat := job.toNat * 2 ^ 48 + ra

/-- LUP_ATTN runs decode attention, one query row a sequence (R128, R219). -/
def execLupAttn (id : Nat) (ext : Ext) (s : State) : Host.Outcome State Fault Refusal :=
  match s.working id 1 2 with
  | none => .next s
  | some c =>
    let t := s.attention c ext (fun r => r) (fun e _ => positionsOf e [0])
    let kvt := c.n 24 8
    .next (s.withReads c ((c.desc (c.n 16 8)).readRegion 0 (c.desc (c.n 16 8)).rows ++ s.attnReads c)
      ((List.range (numAt (c.held kvt) 2 2)).foldl (fun u i =>
        { u with trees := SMap.set [] u.trees (treeKey c.job (c.seqAddr kvt i)) [0xFFFF] }) t))

/-- LUP_TREE_VERIFY runs attention for every node of one draft tree (R129, R219). -/
def execLupTreeVerify (id : Nat) (ext : Ext) (s : State) : Host.Outcome State Fault Refusal :=
  match s.working id 1 3 with
  | none => .next s
  | some c =>
    let bs := c.held heldFlag
    let ps := (List.range (bs.length / 2)).map (fun i => numAt bs (2 * i) 2)
    let t := s.attention c ext (fun _ => 0) (fun e r => positionsOf e (treePath ps ps.length r))
    let t := t.bump Reg.lupDraftNodes ps.length
    .next (s.withReads c ((c.desc (c.n 16 8)).readRegion 0 (c.desc (c.n 16 8)).rows ++ s.attnReads c)
      { t with trees := SMap.set [] t.trees (treeKey c.job (c.seqAddr (c.n 24 8) 0)) ps })

/-- The nodes of a KEEP mask. -/
def keepNodes (bs : List Byte) : List Nat := (List.range 256).filter (fun i => (bs.getD (i / 8) 0).toNat.testBit (i % 8))

/-- Do the kept nodes form a path from node 0 of the tree (R130)? -/
def pathOk (ps : List Nat) (t : Nat) : List Nat → Bool
  | [] => true
  | k :: ks =>
    decide (k = 0) && (k :: ks).all (fun i => decide (i < ps.length) && decide (i < t)) &&
    ((k :: ks).zip ks).all (fun e => decide (ps.getD e.2 0 = e.1))

/-- What a sequence keeps of a tree: the nodes of KEEP, under DIS_DRAFT node 0 alone if KEEP has it (R130). -/
def keptNodes (off : Bool) (keep : List Byte) : List Nat := if off then (keepNodes keep).filter (· = 0) else keepNodes keep

/-- The pool rows that LUP_KV_DISCARD reads and the positions it writes, in layer l (R220). -/
def SeqRec.discardReads (q : SeqRec) (l : Nat) (nodes : List Nat) : List (Nat × Nat) :=
  (nodes.map (fun n => q.rowsAt (q.poolArea l) q.poolRows (q.srow0 + n) 1)).flatten

def State.discardWrites (s : State) (a : Agent) (q : SeqRec) (l k : Nat) : List (Nat × Nat) :=
  ((List.range k).map (fun i => q.rowsAt (s.pageArea a q l (q.len + i)) 64 ((q.len + i) % 64) 1)).flatten

/-- LUP_KV_DISCARD's start (R130, R131, R218); DIS_DRAFT is read now (R130). A T outside 1–256 is 0x38, a T of 0 among them (DESIGN
CHOICE, log entry 79). -/
def State.startDiscard (s : State) (a : Agent) (c : Cmd) : StartResult :=
  let kvt := c.n 16 8
  let t := c.n 32 2
  match s.readKvt a kvt with
  | .error f => .fail f
  | .ok ks =>
    match s.load a (c.n 24 8) 32 with
    | .error f => .fail f
    | .ok kb =>
      let cc : Cmd := { c with descs := ks }
      let h := cc.held kvt
      let e := cc.seq kvt 0
      let ps := SMap.get [] s.trees (treeKey c.job (cc.seqAddr kvt 0))
      let nodes := keptNodes (s.specOff 4) kb
      let kept := nodes.length
      let fits := e.holds kept && (keepNodes kb).all (fun n => decide (e.srow0 + n < e.poolRows))
      let tab := if fits then [e.tabRegion (e.len + kept)] else []
      let layers := List.range (if fits then e.layers else 0)
      let win := lupinWindow c.inst
      firstFail [(!(scaleOk e.kscale) || !(scaleOk e.vscale), 0x34), (!(kvFmt e.fmt), 0x31)]
        (windowCheck (s.regionsOk a false win (cc.kvtRegions kvt ++ (c.n 24 8, 32) :: tab)) (match s.readable a tab with
          | .error f => .fail f
          | .ok _ => windowCheck (s.regionsOk a false win (layers.map (fun l => e.discardReads l nodes)).flatten)
            (windowCheck (s.regionsOk a true win ((cc.seqAddr kvt 0, 4) :: (layers.map (fun l => s.discardWrites a e l kept)).flatten))
              (firstFail [(decide (numAt h 2 2 ≠ 1) || !(kvtClean h) || decide (e.layers ≤ numAt h 4 2) || !e.zeros ||
                  decide (e.stride < e.areaBytes 64), 0x33),
                (t = 0 || decide (256 < t) || !(pathOk ps t (keepNodes kb)), 0x38), (!(e.holds kept), 0x3A)]
                (.go (ks ++ [(heldFlag, [BitVec.ofNat 8 (b2n (s.specOff 4))] ++ kb)]))))))

/-- LUP_KV_DISCARD commits the kept nodes and discards the rest of the tree (R130, R220). DRAFT_OFF says that DIS_DRAFT was in effect,
whether or not a node is kept (DESIGN CHOICE, log entry 79). -/
def execLupKvDiscard (id : Nat) (ext : Ext) (s : State) : Host.Outcome State Fault Refusal :=
  match s.working id 1 4 with
  | none => .next s
  | some c =>
    let a := c.agent
    let kvt := c.n 16 8
    let e := c.seq kvt 0
    let hb := c.held heldFlag
    let off := decide (numAt hb 0 1 = 1)
    let nodes := keptNodes off (hb.drop 1)
    let k := nodes.length
    let reads := e.tabRegion (e.len + k) :: ((List.range e.layers).map (fun l => e.discardReads l nodes)).flatten
    let bad := s.regionsPoisoned a reads
    let copyRow := fun (u : State) (l i n : Nat) (v : Bool) =>
      let src := e.rowPlace (e.poolArea l) e.poolRows v (e.srow0 + n)
      let dst := e.rowPlace (s.pageArea a e l (e.len + i)) 64 v ((e.len + i) % 64)
      let u := u.store a c.core c.cls3 dst.1 (s.vbytes a src.1 e.rb) bad
      if e.sb = 0 then u else u.store a c.core c.cls3 dst.2 (s.vbytes a src.2 e.sb) bad
    let t := (List.range e.layers).foldl (fun u l =>
      (nodes.zipIdx).foldl (fun u n => copyRow (copyRow u l n.2 n.1 false) l n.2 n.1 true) u) s
    let t := t.store a c.core c.cls3 (c.seqAddr kvt 0) (toLE 4 (e.len + k)) bad
    let g := s.groupOfCore c.core
    let t := ((t.bump Reg.lupKvCommitted k).squash 4 g (c.n 32 2 - k)).validate 4 g (k - 1)
    .next (s.withReads c reads ((t.lupinCount c ext).workDone c (poisonStatus bad) (BitVec.ofNat 32 (k + 2 ^ 16 * b2n off))))

/-- The start of a Lupin command, by its opcode. -/
def State.startLupin (s : State) (a : Agent) (c : Cmd) : StartResult :=
  match cmdOpcode c.word with
  | 1 => s.startGemv a c
  | 2 => s.startLupAttn a c
  | 3 => s.startVerify a c
  | 4 => s.startDiscard a c
  | _ => .go []

/-! ### Cadence (R238, R239) -/

/-- The tick word of R239, which does not state its end mark. -/
def tickWord (n due put : Word) (ch : Nat) (last : Bool) : QWord :=
  { data := BitVec.ofNat 256 (leNat (toLE 8 n.toNat ++ toLE 8 due.toNat ++ toLE 8 put.toNat ++ toLE 2 ch ++ zeros 6)),
    last := last, tick := ch + 1 }

/-- CADENCE_TICK: the next tick of channel ch is due and is put on its queue (R238): enabled with a period, a queue that
the job of the channel's partition takes from, no tick waiting, not before max(D_n, G + P_S). Its end mark is a free value (log 24). -/
def execCadenceTick (ch : BitVec 8) (s : State) : Host.Outcome State Fault Refusal :=
  let k := ch.toNat
  let cfg := s.reg (Reg.lupCadCfg k)
  let x := s.cad k
  let q := fld cfg 48 12
  let bound := match s.runningJob (s.groupOf (k / 16)) with
    | some j => s.boundGet q j.id
    | none => false
  let p := 1000 * fld cfg 0 20
  let sh := if fld cfg 60 3 = 0 then 4 else fld cfg 60 3
  let due := x.ta + BitVec.ofNat 64 ((x.next - x.na).toNat * p)
  let floor := if x.next = x.na then x.ta else x.taken + BitVec.ofNat 64 (p * sh / 8)
  if !(bitAt cfg 63) || p = 0 || !bound || x.waiting || s.stopped || s.now.ult due || s.now.ult floor then .next s
  else
    let t := s.drawn.unitPut q (tickWord x.next due s.now k (bitAt (Config.freeWord s.free) 0))
    let t := if due.ult s.now then t.bump (Reg.lupCadLate k) 1 else t
    .next (t.setCad k { x with next := x.next + 1, waiting := s.qBound q })

end Sys2Proof.Machine
end

