-- ==== Sys2Proof/Machine/Select.lean ====
section
/-!
DEFINITION. Primrose selection (06): keys (R156), approximate and exact top k (R157–R159), sums (R160), rows (R161),
merging and refining lists (R163), sampling (R164).
-/

namespace Sys2Proof.Machine

/-- An element of a row: its index, its value as an entry holds it (FP32 or INT32 bits), whether it is a NaN. -/
structure PElem where
  idx : Nat
  w : BitVec 32
  nan : Bool
deriving DecidableEq, Repr

/-- How a Primrose command reads and ranks: format, DIR, EXACT, SUM_MODE, SUM_SCALE. -/
structure PMode where
  fmt : Nat
  dir : Bool
  exact : Bool
  sum : Nat
  scale : BitVec 32
deriving DecidableEq, Repr

/-- The mode in payload bytes 52 and 56–59 (Table 6.11). -/
def Cmd.pmode (c : Cmd) : PMode :=
  { fmt := c.n 52 1 % 16, dir := c.bit 52 4, exact := c.bit 52 5, sum := c.n 52 1 / 64, scale := c.f32 56 }

/-- Is the format accepted (else 0x49)? -/
def primFmt (f : Nat) : Bool := [0, 1, 2, 9, 11].contains f

/-- The key of a value that is no NaN (R156). -/
def PMode.key (m : PMode) (w : BitVec 32) : Nat :=
  let k := if isIntFmt m.fmt then w ^^^ 0x80000000
    else
      let v := if w = 0x80000000 then 0 else w
      if bitAt v 31 then ~~~v else v ||| 0x80000000
  (if m.dir then ~~~k else k).toNat

/-- The element with index i whose code is given in a format. -/
def elemOf (fmt i code : Nat) : PElem :=
  if isIntFmt fmt then { idx := i, w := BitVec.ofInt 32 (signedOf (Machine.ebits fmt) code), nan := false }
  else
    let v := decodeF (fmtOf fmt) code
    { idx := i, w := (to32 false false v).1, nan := decide (v = .nan) }

/-- An entry's value read back from a row (R163); a NaN is the canonical one (R92). -/
def entryElem (fmt i : Nat) (w : BitVec 32) : PElem :=
  { idx := i, w := if isIntFmt fmt then w else canon32 w, nan := !(isIntFmt fmt) && isNan32 w }

/-- The flags of reading elements (R156). -/
def PMode.readFlags (m : PMode) (es : List PElem) : NFlags :=
  if isIntFmt m.fmt then 0 else es.foldl (fun f e => f ||| Machine.readFlags (val32 e.w)) 0

/-- The value of an element as FP32 (R160). -/
def PMode.f32 (m : PMode) (w : BitVec 32) : BitVec 32 := if isIntFmt m.fmt then (to32 false false (numOfInt w.toInt)).1 else w

/-- Best first by key, ties in the order given. -/
def PMode.sorted (m : PMode) (es : List PElem) : List PElem := sortBy (fun x y => decide (m.key y.w < m.key x.w)) es

/-- The elements without NaNs, and the NaNs. -/
def nonNan (es : List PElem) : List PElem := es.filter (fun e => !e.nan)

/-- The threshold bucket of the approximate selection: the highest with fewer than k above and at least k in and above
(R157); none where fewer than k elements have keys. -/
def PMode.threshold (m : PMode) (es : List PElem) (k : Nat) : Option Nat :=
  if (nonNan es).length < k then none
  else ((m.sorted (nonNan es)).getD (k - 1) { idx := 0, w := 0, nan := false } |> fun e => some (m.key e.w / 2 ^ 20))

/-- One selection pass: the top k of a piece (R157, R158). -/
def PMode.select (m : PMode) (es : List PElem) (k : Nat) : List PElem :=
  let nn := nonNan es
  let nans := es.filter PElem.nan
  if m.exact then (m.sorted nn ++ nans).take k
  else match m.threshold es k with
    | none => (nn ++ nans).take k
    | some t =>
      let above := (nn.filter (fun e => decide (t < m.key e.w / 2 ^ 20))).length
      (nn.foldl (fun (acc : List PElem × Nat) e =>
        let b := m.key e.w / 2 ^ 20
        if t < b then (acc.1 ++ [e], acc.2)
        else if b = t ∧ acc.2 < k - above then (acc.1 ++ [e], acc.2 + 1)
        else acc) ([], 0)).1

/-- Pieces of at most 1,048,576 elements (R159). -/
def pieces20 : Nat → List PElem → List (List PElem)
  | 0, _ => []
  | fuel + 1, es => if es.isEmpty then [] else es.take 1048576 :: pieces20 fuel (es.drop 1048576)

/-- The top k of a row, in pieces where it is long (R159), and the elements the last pass chose from. -/
def PMode.topk (m : PMode) (es : List PElem) (k : Nat) : List PElem × List PElem :=
  if es.length ≤ 1048576 then (m.select es k, es)
  else
    let parts := (pieces20 (es.length / 1048576 + 1) es).map (fun p => m.select p k)
    (m.select parts.flatten k, parts.flatten)

/-- THRESH_KEY (Table 6.8). -/
def PMode.threshKey (m : PMode) (sel last : List PElem) (k : Nat) : Nat :=
  let low := fun (es : List PElem) => match (m.sorted (nonNan es)).getLast? with
    | some e => m.key e.w
    | none => 0
  if m.exact then low sel
  else match m.threshold last k with
    | some t => t
    | none => low last / 2 ^ 20

/-- The largest value of a list (R160): its FP32 or INT32 bits, the first of equals. -/
def PMode.xmax (m : PMode) (es : List PElem) : Option (BitVec 32) :=
  ((({ m with dir := false } : PMode).sorted (nonNan es)).head?).map PElem.w

/-- The SUM_MODE 2 term of x relative to a maximum (R160). -/
def PMode.term (m : PMode) (xmax x : BitVec 32) : BitVec 32 × NFlags :=
  let (d, f) := fsub (m.f32 x) (m.f32 xmax)
  let (e, g) := fexp d m.scale false
  (e, f ||| g)

/-- The terms a sum adds for elements, relative to xmax in mode 2. -/
def PMode.terms (m : PMode) (xmax : BitVec 32) (es : List PElem) : List (BitVec 32) × NFlags :=
  match m.sum with
  | 1 => ((nonNan es).map (fun e => m.f32 e.w), 0)
  | 2 => collect ((nonNan es).map (fun e => m.term xmax e.w))
  | _ => ([], 0)

/-- A sum over some of a row's elements in input order (R160): in mode 2 each piece from its own maximum, rescaled. -/
def PMode.sumOf (m : PMode) (row : List PElem) (xmax : BitVec 32) (inSum : PElem → Bool) : BitVec 32 × NFlags :=
  if m.sum = 2 ∧ 1048576 < row.length then
    let (ps, f) := collect ((pieces20 (row.length / 1048576 + 1) row).map (fun p =>
      let pm := (m.xmax p).getD xmax
      let (ts, f) := m.terms pm (p.filter inSum)
      let (t, g) := treeSum ts
      let (r, h) := m.term xmax pm
      let (v, k) := fmul false false t r
      (v, f ||| g ||| h ||| k)))
    let (t, g) := treeSum ps
    (t, f ||| g)
  else
    let (ts, f) := m.terms xmax (row.filter inSum)
    let (t, g) := treeSum ts
    (t, f ||| g)

/-- A Primrose row (Table 6.8). -/
def rowBytes (nanCount thresh nIn : Nat) (sSel sOut xmax : BitVec 32) (sel : List PElem) : List Byte :=
  toLE 4 sel.length ++ toLE 4 nanCount ++ toLE 4 thresh ++ toLE 4 nIn ++ toLE 4 sSel.toNat ++ toLE 4 sOut.toNat ++
    toLE 4 xmax.toNat ++ zeros 4 ++ (sel.map (fun e => toLE 4 e.idx ++ toLE 4 e.w.toNat)).flatten

/-- One row's result (R157–R161): its bytes, its flags, its NaNs, the passes it took. -/
def PMode.rowResult (m : PMode) (es : List PElem) (k : Nat) : List Byte × NFlags × Nat × Nat :=
  let (sel, last) := m.topk es k
  let xm := (m.xmax es).getD 0
  let isSel := fun (e : PElem) => sel.any (fun x => x.idx = e.idx)
  let (ss, f) := m.sumOf es xm isSel
  let (so, g) := m.sumOf es xm (fun e => !(isSel e))
  let nans := (es.filter PElem.nan).length
  let passes := if es.length ≤ 1048576 then 1 else ceilDiv es.length 1048576 + 1
  (rowBytes nans (m.threshKey sel last k) es.length ss so xm sel, m.readFlags es ||| f ||| g, nans, passes)

/-! ### Starts (R165, R166) -/

/-- Bytes of one element. -/
def primBytes (fmt : Nat) : Nat := Machine.ebits fmt / 8

/-- The memory checks of a Primrose command: what it reads and writes translates, and does not overlap (R78). -/
def State.primRegions (s : State) (a : Agent) (rs ws : List (Nat × Nat)) (inPlace : Bool) : StartResult :=
  windowCheck (s.regionsOk a false (fun _ => true) rs)
    (windowCheck (s.regionsOk a true (fun _ => true) ws)
      (firstFail [(!inPlace && s.regionsMeet a rs ws, 0x27)] (.go [])))

/-- The rows PRM_TOPK reads and writes. -/
def Cmd.topkRegions (c : Cmd) : List (Nat × Nat) × List (Nat × Nat) :=
  let n := c.n 32 4
  ((List.range (c.n 36 2)).map (fun r => (c.n 16 8 + r * c.n 40 4, n * primBytes c.pmode.fmt)),
   (List.range (c.n 36 2)).map (fun r => (c.n 24 8 + r * c.n 44 4, 32 + 8 * Nat.min (c.n 48 4) n)))

/-- PRM_TOPK's start. -/
def State.startTopk (s : State) (a : Agent) (c : Cmd) : StartResult :=
  let m := c.pmode
  let n := c.n 32 4
  let k := c.n 48 4
  if !(primFmt m.fmt) then failWith 0x49
  else if n = 0 || c.n 36 2 = 0 then .zero
  else
    firstFail [(decide (2 ^ 30 < n) || k = 0 || decide (65536 < k) || decide (c.n 44 4 < 32 + 8 * Nat.min k n) || m.sum = 3 ||
        !(isFinite32 m.scale), 0x48)]
      (s.primRegions a c.topkRegions.1 c.topkRegions.2 false)

/-- The list lengths in entries of PRM_MERGE's inputs, from their headers. -/
def State.listCounts (s : State) (a : Agent) (c : Cmd) : Except MemFail (List Nat) :=
  (List.range (c.n 32 4)).foldl (fun acc i => match acc with
    | .error f => .error f
    | .ok l => match s.load a (c.n 16 8 + i * c.n 40 4) 4 with
      | .error f => .error f
      | .ok b => .ok (l ++ [leNat b])) (.ok [])

/-- Header and entry bytes of a list: Primrose rows (KIND 0), Clematis lists (KIND 1). -/
def listSize (clm : Bool) (n : Nat) : Nat := if clm then 16 + 16 * n else 32 + 8 * n

/-- PRM_MERGE's start. -/
def State.startPrmMerge (s : State) (a : Agent) (c : Cmd) : StartResult :=
  let m := c.pmode
  let clm := c.bit 36 0
  let l := c.n 32 4
  let k := c.n 48 4
  if !clm && !(primFmt m.fmt) then failWith 0x49
  else if l = 0 then .zero
  else if l < 2 || decide (4096 < l) || k = 0 || decide (65536 < k) || (!clm && (m.sum = 3 || !(isFinite32 m.scale))) then
    failWith 0x48
  else match s.listCounts a c with
    | .error f => .fail f
    | .ok ns =>
      if ns.any (fun n => decide (c.n 40 4 < listSize clm n)) then failWith 0x4A
      else
        s.primRegions a ((ns.zipIdx).map (fun e => (c.n 16 8 + e.2 * c.n 40 4, listSize clm e.1)))
          [(c.n 24 8, listSize clm (Nat.min k (ns.foldl (· + ·) 0)))] false

/-- PRM_REFINE's start. K has the range 1–65,536 that Table 6.11 gives the field (DEDUCED, log 13). -/
def State.startRefine (s : State) (a : Agent) (c : Cmd) : StartResult :=
  let m := c.pmode
  let k := c.n 48 4
  if !(primFmt m.fmt) then failWith 0x49
  else if k = 0 || decide (65536 < k) || m.sum = 3 || !(isFinite32 m.scale) then failWith 0x48
  else match s.load a (c.n 16 8) 4 with
    | .error f => .fail f
    | .ok b =>
      if leNat b < k then failWith 0x4A
      else s.primRegions a [(c.n 16 8, 32 + 8 * leNat b)] [(c.n 24 8, 32 + 8 * k)] (decide (c.n 16 8 = c.n 24 8))

/-- Is a value finite and above zero? -/
def posFinite (w : BitVec 32) : Bool := isFinite32 w && numLt (.fin false 0 0) (val32 w)

/-- The memory PRM_SAMPLE reads: logits and mask. -/
def Cmd.sampleReads (c : Cmd) : List (Nat × Nat) :=
  (c.n 16 8, c.n 40 4 * primBytes (c.n 54 1 % 16)) :: (if c.n 24 8 = 0 then [] else [(c.n 24 8, ceilDiv (c.n 40 4) 8)])

/-- PRM_SAMPLE's start (R164). -/
def State.startSample (s : State) (a : Agent) (c : Cmd) : StartResult :=
  let fmt := c.n 54 1 % 16
  let n := c.n 40 4
  if 2 < fmt then failWith 0x49
  else if n = 0 then .zero
  else if decide (1048576 < n) || !(posFinite (c.f32 44)) || !(posFinite (c.f32 48)) || numLt (.fin false 1 0) (val32 (c.f32 48)) then
    failWith 0x48
  else s.primRegions a c.sampleReads [(c.n 32 8, 16)] false

/-- The start of a Primrose command, by its opcode. -/
def State.startPrimrose (s : State) (a : Agent) (c : Cmd) : StartResult :=
  match cmdOpcode c.word with
  | 1 => s.startTopk a c
  | 2 => s.startPrmMerge a c
  | 3 => s.startRefine a c
  | 4 => s.startSample a c
  | _ => .go []

/-! ### The work -/

/-- The elements of n codes of a format in bytes. -/
def elemsOf (fmt : Nat) (n : Nat) (bs : List Byte) : List PElem :=
  (List.range n).map (fun i => elemOf fmt i (numAt bs (i * primBytes fmt) (primBytes fmt)))

/-- Row r of a PRM_TOPK's source, selected. -/
def State.topkRow (s : State) (c : Cmd) (r : Nat) : List Byte × NFlags × Nat × Nat :=
  c.pmode.rowResult (elemsOf c.pmode.fmt (c.n 32 4)
    (s.vbytes c.agent (c.n 16 8 + r * c.n 40 4) (c.n 32 4 * primBytes c.pmode.fmt))) (c.n 48 4)

/-- PRM_TOPK selects the top k of each row (R157–R161). -/
def execPrmTopk (id : Nat) (_ext : Ext) (s : State) : Host.Outcome State Fault Refusal :=
  match s.working id 3 1 with
  | none => .next s
  | some c =>
    let a := c.agent
    let bad := s.regionsPoisoned a c.topkRegions.1
    let rows := (List.range (c.n 36 2)).map (s.topkRow c)
    let t := (rows.zipIdx).foldl (fun (t : State) e => t.store a c.core c.cls3 (c.n 24 8 + e.2 * c.n 44 4) e.1.1 bad)
      (s.countRegions a c.topkRegions.1)
    let nans := sumNat (rows.map (fun e => e.2.2.1))
    let t := t.bump Reg.prmRows (sumNat (rows.map (fun e => e.2.2.2)))
    let t := if nans = 0 then t else t.bump Reg.prmNan nans
    .next (s.withReads c c.topkRegions.1 (t.workDone c (poisonStatus bad) (flagsResult ((rows.map (fun e => e.2.1)).foldl (· ||| ·) 0) 0)))

/-- A Primrose row as read: its header numbers and its entries. -/
structure PRow where
  nanCount : Nat
  nIn : Nat
  sOut : BitVec 32
  xmax : BitVec 32
  elems : List PElem
deriving DecidableEq, Repr

/-- Parse a row's bytes. -/
def parseRow (fmt : Nat) (bs : List Byte) : PRow :=
  { nanCount := numAt bs 4 4, nIn := numAt bs 12 4, sOut := BitVec.ofNat 32 (numAt bs 20 4),
    xmax := BitVec.ofNat 32 (numAt bs 24 4),
    elems := (List.range (numAt bs 0 4)).map (fun i =>
      entryElem fmt (numAt bs (32 + 8 * i) 4) (BitVec.ofNat 32 (numAt bs (36 + 8 * i) 4))) }

/-- The exact top k of the union of rows and the recomputed header (R163): the bytes and the flags. Ties go to the lower index in
PRM_MERGE, and stay in input order (R156) otherwise. -/
def PMode.mergeRows (m : PMode) (byIndex : Bool) (rows : List PRow) (k : Nat) : List Byte × NFlags :=
  let all := (rows.map PRow.elems).flatten
  let tagged := all.zipIdx
  let before := fun (x y : PElem × Nat) =>
    decide (m.key y.1.w < m.key x.1.w) || (byIndex && decide (m.key y.1.w = m.key x.1.w) && decide (x.1.idx < y.1.idx))
  let order := sortBy before (tagged.filter (fun e => !e.1.nan)) ++ tagged.filter (fun e => e.1.nan)
  let sel := order.take k
  let isSel := fun (e : PElem × Nat) => sel.any (fun x => x.2 = e.2)
  let hx := rows.map (fun r => ({ idx := 0, w := r.xmax, nan := !(isIntFmt m.fmt) && isNan32 r.xmax } : PElem))
  let xm := (m.xmax hx).getD 0
  let (ts, f1) := m.terms xm ((tagged.filter isSel).map Prod.fst)
  let (ss, f2) := treeSum ts
  let (ts2, f3) := m.terms xm ((tagged.filter (fun e => !(isSel e))).map Prod.fst)
  let (dr, f4) := treeSum ts2
  let (outs, f5) := collect (rows.map (fun r =>
    if m.sum = 2 then
      let (t, f) := m.term xm r.xmax
      let (v, g) := fmul false false r.sOut t
      (v, f ||| g)
    else (r.sOut, 0)))
  let (os, f6) := treeSum outs
  let (so, f7) := fadd false false os dr
  let thresh := match (sel.filter (fun e => !e.1.nan)).getLast? with
    | some e => m.key e.1.w
    | none => 0
  let sum := fun (g : PRow → Nat) => satNat 32 ((rows.map g).foldl (· + ·) 0)
  let sums := decide (m.sum = 1) || decide (m.sum = 2)
  (rowBytes (sum PRow.nanCount) thresh (sum PRow.nIn) (if sums then ss else 0) (if sums then so else 0) xm (sel.map Prod.fst),
   m.readFlags all ||| (if sums then f1 ||| f2 ||| f3 ||| f4 ||| f5 ||| f6 ||| f7 else 0))

/-- A Clematis list's entry as read. -/
def parseEntry (bs : List Byte) : WalkEntry :=
  { id := numAt bs 0 8, score := BitVec.ofNat 32 (numAt bs 8 4), leaf := numAt bs 12 4, seq := 0 }

/-- The exact top k of the union of Clematis lists (R163, KIND 1). -/
def mergeLists (lists : List (List Byte)) (k : Nat) : List Byte × NFlags :=
  let es := (lists.map (fun b => (cut 16 (numAt b 0 4) (b.drop 16)).map parseEntry)).flatten
  let best := es.foldl (fun acc e => keepEntry k acc e) []
  let flag := fun (i : Nat) => lists.any (fun b => (numAt b 4 2).testBit i)
  let leaves := satNat 32 ((lists.map (fun b => numAt b 8 4)).foldl (· + ·) 0)
  let flags := b2n (flag 0) + 2 * b2n (flag 1) + 4 * b2n (flag 2) + 16 * b2n (decide (best.length < k))
  (listBytes best.length flags 0 leaves 0 (best.map WalkEntry.bytes),
   es.foldl (fun f e => f ||| readFlags (val32 e.score)) 0)

/-- PRM_MERGE merges several lists into the exact top k (R163). -/
def execPrmMerge (id : Nat) (_ext : Ext) (s : State) : Host.Outcome State Fault Refusal :=
  match s.working id 3 2 with
  | none => .next s
  | some c =>
    let a := c.agent
    let clm := c.bit 36 0
    let res : Except MemFail (List (List Byte)) := match s.listCounts a c with
      | .error f => .error f
      | .ok ns => (ns.zipIdx).foldl (fun acc e => match acc with
        | .error f => .error f
        | .ok l => match s.load a (c.n 16 8 + e.2 * c.n 40 4) (listSize clm e.1) with
          | .error f => .error f
          | .ok b => .ok (l ++ [b])) (.ok [])
    match res with
    | .error f => .next (s.failWork c f)
    | .ok ls =>
      let reads := (ls.zipIdx).map (fun e => (c.n 16 8 + e.2 * c.n 40 4, e.1.length))
      let bad := s.regionsPoisoned a reads
      let t := s.countRegions a reads
      let (out, fl) := if clm then mergeLists ls (c.n 48 4) else c.pmode.mergeRows true (ls.map (parseRow c.pmode.fmt)) (c.n 48 4)
      .next (((t.store a c.core c.cls3 (c.n 24 8) out bad).bump Reg.prmRows 1).workDone c (poisonStatus bad) (flagsResult fl 0))

/-- PRM_REFINE writes the exact top k of one row in key order (R163). -/
def execPrmRefine (id : Nat) (_ext : Ext) (s : State) : Host.Outcome State Fault Refusal :=
  match s.working id 3 3 with
  | none => .next s
  | some c =>
    let a := c.agent
    match s.load a (c.n 16 8) 4 with
    | .error f => .next (s.failWork c f)
    | .ok h => match s.load a (c.n 16 8) (32 + 8 * leNat h) with
      | .error f => .next (s.failWork c f)
      | .ok bs =>
        let bad := s.regionPoisoned a (c.n 16 8) bs.length
        let (out, fl) := c.pmode.mergeRows false [parseRow c.pmode.fmt bs] (c.n 48 4)
        .next ((((s.countRegion a (c.n 16 8) bs.length).store a c.core c.cls3 (c.n 24 8) out bad).bump Reg.prmRows 1).workDone c (poisonStatus bad) (flagsResult fl 0))

/-! ### Sampling (R164) -/

/-- The mixed seed z of R164. -/
def sampleMix (seed : Word) : Word :=
  let z := seed + 0x9E3779B97F4A7C15
  let z := (z ^^^ (z >>> 30)) * 0xBF58476D1CE4E5B9
  let z := (z ^^^ (z >>> 27)) * 0x94D049BB133111EB
  z ^^^ (z >>> 31)

/-- Running sums of weights in order, each rounded. -/
def runSums : BitVec 32 → List (BitVec 32) → List (BitVec 32) × NFlags
  | _, [] => ([], 0)
  | acc, w :: ws =>
    let (t, f) := fadd false false acc w
    let (rest, g) := runSums t ws
    (t :: rest, f ||| g)

/-- a / b rounded to FP32. -/
def fdiv (a b : BitVec 32) : BitVec 32 × NFlags :=
  match val32 a, val32 b with
  | .fin s m e, .fin t n g =>
    if n = 0 then (nan32, fNanGen)
    else
      let (r, f) := to32 false false ((Num.fin (s ^^ t) m e).dy.div (Num.fin false n g).dy).num
      (r, f)
  | _, _ => (nan32, 0)

/-- The draw (R164): token, PROB, S_SEL, S_OUT, flags; the token is none where no running sum exceeds u, which only NaN
weights bring about. -/
def samplePick (allowed : List PElem) (rcpT topP : BitVec 32) (topk : Nat) (seed : Word) :
    Option Nat × BitVec 32 × BitVec 32 × BitVec 32 × NFlags :=
  let m : PMode := { fmt := 0, dir := false, exact := true, sum := 2, scale := rcpT }
  let order := m.sorted allowed
  let xm := (order.head?.map PElem.w).getD 0
  let (ws, f1) := collect (order.map (fun e => m.term xm e.w))
  let keep := if topk = 0 then order.length else Nat.min topk order.length
  let kw := ws.take keep
  let (sums, f2) := runSums 0 kw
  let total := sums.getLast?.getD 0
  let (goal, f3) := fmul false false topP total
  let n := match (sums.zipIdx).find? (fun e => !(numLt (val32 e.1) (val32 goal)) && !(isNan32 e.1) && !(isNan32 goal)) with
    | some e => e.2 + 1
    | none => keep
  let wc := sums.getD (n - 1) 0
  let u01 := (to32 false false (.fin false ((sampleMix seed).toNat / 2 ^ 40) (-24))).1
  let (u, f4) := fmul false false u01 wc
  let pick := ((sums.take n).zipIdx).find? (fun e => numLt (val32 u) (val32 e.1))
  let (rest, f5) := runSums 0 (ws.drop n)
  let out := rest.getLast?.getD 0
  match pick with
  | some e =>
    let (p, f6) := fdiv (kw.getD e.2 0) wc
    (some (order.getD e.2 { idx := 0, w := 0, nan := false }).idx, p, wc, out, f1 ||| f2 ||| f3 ||| f4 ||| f5 ||| f6)
  | none => (none, 0, wc, out, f1 ||| f2 ||| f3 ||| f4 ||| f5)

/-- PRM_SAMPLE draws one token (R164). Where the weights are NaN the spec states no token and no PROB: free values (log
entry 6). -/
def execPrmSample (id : Nat) (_ext : Ext) (s : State) : Host.Outcome State Fault Refusal :=
  match s.working id 3 4 with
  | none => .next s
  | some c =>
    let a := c.agent
    let fmt := c.n 54 1 % 16
    let n := c.n 40 4
    let mask := if c.n 24 8 = 0 then Except.ok [] else s.load a (c.n 24 8) (ceilDiv n 8)
    match s.load a (c.n 16 8) (n * primBytes fmt), mask with
    | .error f, _ => .next (s.failWork c f)
    | _, .error f => .next (s.failWork c f)
    | .ok bs, .ok mk =>
      let es := elemsOf fmt n bs
      let bit := fun (i : Nat) => c.n 24 8 = 0 || (mk.getD (i / 8) 0).toNat.testBit (i % 8)
      let allowed := es.filter (fun e => bit e.idx && !e.nan)
      let nans := (es.filter PElem.nan).length
      let bad := s.regionsPoisoned a c.sampleReads
      let rf := es.foldl (fun f e => f ||| readFlags (val32 e.w)) 0
      let t := (s.countRegions a c.sampleReads).bump Reg.prmRows 1
      let t := if nans = 0 then t else t.bump Reg.prmNan nans
      if allowed.isEmpty then .next (t.workDone c (if bad then 0xC0 else 0x4B) (flagsResult rf 0))
      else
        let out := fun (t : State) (tok : Nat) (p ss so : BitVec 32) (f : NFlags) =>
          (t.store a c.core c.cls3 (c.n 32 8) (toLE 4 tok ++ toLE 4 p.toNat ++ toLE 4 ss.toNat ++ toLE 4 so.toNat) bad).workDone c
            (poisonStatus bad) (flagsResult (rf ||| f) 0)
        if c.bit 54 4 then
          let m : PMode := { fmt := 0, dir := false, exact := true, sum := 0, scale := 0 }
          let xm := (m.xmax allowed).getD 0
          let tok := match allowed.find? (fun e => decide (m.key e.w = m.key xm)) with
            | some e => e.idx
            | none => 0
          .next (out t tok 0x3F800000 0 0 0)
        else
          match samplePick allowed (c.f32 44) (c.f32 48) (c.n 52 2) (BitVec.ofNat 64 (c.n 56 8)) with
          | (some tok, p, ss, so, f) => .next (out t tok p ss so f)
          | (none, _, ss, so, f) =>
            let v := Config.freeWord t.free
            .next (out t.drawn (v.toNat % 2 ^ 32) (BitVec.ofNat 32 (v.toNat / 2 ^ 32)) ss so f)

end Sys2Proof.Machine
end

