-- ==== Sys2Proof/Machine/EngineLife.lean ====
section
/-!
DEFINITION. The life of an engine command around its work: the hub engines' scheduler (R336), its start with its checks (R31,
R78, R131, R380, R381), its completion (R79, R102, R103), the command NOP (R77).
-/

namespace Sys2Proof.Machine

/-- Do the module and the command's job let an unstarted command start: no trip (R397), stop (R366), fatal fault (R364), kill (R344),
pre-emption (R347) or recovery (R360)? -/
def State.mayStart (s : State) (c : Cmd) : Bool :=
  !s.tripped && !s.stopped && !s.fatal && (SMap.find s.recoveries (s.groupOfCore c.core)).isNone &&
    (match s.job c.job with
     | some j => decide (j.state = .running) && !j.killed
     | none => false)

/-- Do queue order and ORD let command c start (R31)? -/
def State.orderAllows (s : State) (c : Cmd) : Bool :=
  !(s.cmds.any (fun d => sameQueue c.cls c.inst c.group d && decide (d.id < c.id) &&
    (decide (d.phase = Phase.queued) || cmdOrd c.word)))

/-- The commands of a class and opcode that have taken a unit, or started, and whose work is not done. -/
def State.underWay (s : State) (cls op : Nat) : Nat :=
  (s.cmds.filter (fun d => decide (d.cls = cls) && decide (cmdOpcode d.word = op) &&
    (decide (d.phase = .started) || (decide (d.phase = .queued) && d.granted)))).length

/-- The units of a hub engine whose number the spec gives: 384 walkers (R147), four selection units, eight text and eight mask units, 16
movers (R253). -/
def engineUnits (cls : Nat) : Option Nat :=
  match cls with
  | 2 => some 384
  | 3 => some 4
  | 6 => some 16
  | 7 => some 16
  | _ => none

/-- Can a unit be free for command c? At most 16 moves (R253) and 64 HLY_READs (R444) are under way, less the units lost; of the other
engines the items of a command share the units with the next command's (R336), so that only an engine without a unit takes none. -/
def State.unitFree (s : State) (c : Cmd) : Bool :=
  if c.cls = 7 ∧ cmdOpcode c.word = 1 then decide (s.underWay 7 1 + s.lostUnits 7 < 16)
  else if c.cls = 8 ∧ cmdOpcode c.word = 1 then decide (s.underWay 8 1 < 64)
  else match engineUnits c.cls with
    | some n => decide (s.lostUnits c.cls < n)
    | none => true

/-! ### The scheduler of the hub engines (R336) -/

/-- The earliest command of group g's queue to engine class e that no unit has taken. -/
def State.headOf (s : State) (e g : Nat) : Option Cmd :=
  s.cmds.find? (fun c => sameQueue e 0 g c && decide (c.phase = Phase.queued) && !c.granted)

/-- The scheduler class of PF1's commands: 0 and 1 count as 2 (R275). -/
def State.pf1Class (s : State) : Nat := Nat.max 2 (s.regFld Reg.hlyPf1Class 0 3)

/-- PF1's flow at Hollyhock: the first I/O command in fetch order that may start, in the class of HLY_PF1_CLASS. The spec gives this flow no
weight, a free value here, and no shaper (R275; DESIGN CHOICE, log entry 88). -/
def State.pf1Candidate (s : State) : List Candidate :=
  match s.pf1.cmds.find? (fun c => c.waits && s.nvmeReady c) with
  | none => []
  | some c => [{ cls := s.pf1Class, key := pf1Flow, weight := 1 + (Config.freeWord s.free).toNat % 255, shaper := 0, bucket := pf1Flow,
                 item := c.fid, pf1 := true }]

/-- Engine class e's candidates: of each group the earliest command not yet started, in the flow of its own class; at Hollyhock PF1's flow
too. -/
def State.hubCandidates (s : State) (e : Nat) : List Candidate :=
  (if e = 8 then s.pf1Candidate else []) ++ (List.range 16).filterMap (fun g => match s.headOf e g with
    | none => none
    | some c =>
      if s.mayStart c && s.orderAllows c && s.unitFree c then
        some { cls := cmdSched c.word, key := 1000 * e + 16 * cmdSched c.word + g, weight := s.groupWeight g,
               shaper := s.reg (Reg.hubEngShape g (e - 2)), bucket := 100000 + 16 * e + g, item := c.id }
      else none)

/-- The bytes a command moves as the scheduler counts them (R330): a flash read's blocks, a move's extent once for each copy; of the other
engines' commands the spec does not say which bytes count, and the number is a free value (DESIGN CHOICE, log entry 88). -/
def State.itemBytes (s : State) (c : Cmd) : Nat :=
  let free := fld (Config.freeWord s.free) 0 32
  if c.cls = 8 then 4096 * c.n 32 4
  else if c.cls = 7 ∧ cmdOpcode c.word = 1 then
    match s.readDescs c.agent [c.n 16 8] with
    | .error _ => free
    | .ok ds =>
      let d := ({ c with descs := ds } : Cmd).fxgSrc
      c.n 51 1 * sumNat ((d.rowsRegion 0 d.rows).map Prod.snd)
  else free

/-- The scheduler's choice takes a unit: its command may start; the group's next command, of another class, fills its own flow. -/
def State.grant (s : State) (e : Nat) (k : Candidate) (c : Cmd) : State :=
  let t := (s.drawn.setCmd { c with granted := true }).flowServes k.key k.bucket (100 + e) (s.itemBytes c) (Nat.max 1 k.weight) k.shaper true
  match t.headOf e c.group with
  | none => t
  | some d =>
    if cmdSched d.word = cmdSched c.word then t
    else t.flowFills (1000 * e + 16 * cmdSched d.word + c.group) (100 + e)

/-- PF1's I/O command takes its turn at the flash (R275); it counts the blocks it moves (R330). -/
def State.grantPf1 (s : State) (k : Candidate) (c : NvmeCmd) : State :=
  let moved := if c.op = 1 ∨ c.op = 2 then 4096 * c.nlb else 0
  (s.drawn.setNvme { c with granted := true }).flowServes k.key k.bucket 108 moved k.weight k.shaper true

/-- ENGINE_DISPATCH: a free unit of hub engine class e takes the next item the weighted scheduler chooses. -/
def execEngineDispatch (e : BitVec 4) (s : State) : Host.Outcome State Fault Refusal :=
  if !(Instr.engineDispatch e).wf then .fault .illFormed else
  let k := e.toNat
  match s.pick (s.hubCandidates k) with
    | none => .next s
    | some x =>
      if x.pf1 then match s.nvme x.item with
        | none => .next s
        | some c => .next (s.grantPf1 x c)
      else match s.cmd x.item with
        | none => .next s
        | some c => .next (s.grant k x c)

/-! ### Start -/

/-- What a stage not yet reached makes of a command: HLY_READ and the Clematis, Aster, Bouquet and Foxglove commands complete with 0x01
before STAGE2 (R380). -/
def State.beforeStage (s : State) (c : Cmd) : Bool :=
  decide (s.start.stage < 3) && !(decide (cmdOpcode c.word = 0)) && [2, 4, 5, 7, 8].contains c.cls

/-- The descriptors of Peony array operands, store destinations and vector operands in memory, with whether FP32 is accepted too
(R381). -/
def Cmd.stagedDescs (c : Cmd) : List Nat × Bool :=
  match cmdOpcode c.word with
  | 1 => ([c.n 16 8], false)
  | 2 => (if c.n 38 2 = 0 ∨ c.n 40 2 = 0 ∨ c.n 42 2 = 0 then [] else c.mmaDescs, false)
  | 3 => (if c.n 30 2 = 0 ∨ c.n 34 2 = 0 then [] else [c.n 16 8], false)
  | 4 => (if c.n 44 2 = 0 ∨ c.n 46 2 = 0 then [] else (c.vecOps.filter (fun i => !(c.inAcc i))).map (fun i => c.n (16 + 8 * i) 8), true)
  | _ => ([], false)

/-- Before STAGE2 a Peony command names a format other than PF4 (the vector unit: FP32 or PF4): 0xD0 (R381). -/
def State.formatStaged (s : State) (a : Agent) (c : Cmd) : Bool :=
  decide (s.start.stage < 3) && decide (c.cls = 0) &&
    (match s.readDescs a c.stagedDescs.1 with
     | .error _ => false
     | .ok ds =>
       let cc : Cmd := { c with descs := ds }
       c.stagedDescs.1.any (fun va => !((cc.desc va).fmt = 8) && !(c.stagedDescs.2 && decide ((cc.desc va).fmt = 0))))

/-- The start checks of a command, by its engine. -/
def State.startCheck (s : State) (a : Agent) (c : Cmd) : StartResult :=
  if cmdOpcode c.word = 0 then .go []
  else if s.beforeStage c then failWith 0x01
  else if s.formatStaged a c then failWith 0xD0
  else match c.cls with
    | 0 => s.startPeony a c
    | 1 => s.startLupin a c
    | 2 => s.startClematis a c
    | 3 => s.startPrimrose a c
    | 4 => s.startAster a c
    | 5 => s.startBouquet a c
    | 6 => s.startZinnia a c
    | 7 => s.startFoxglove a c
    | _ => s.startHollyhock a c

/-- Where a kernel command writes memory (R183): its regions, none for an allocating move, whose destination no slot holds. -/
def Cmd.kernelWrites (c : Cmd) : Option (List (Nat × Nat)) :=
  match c.cls, cmdOpcode c.word with
  | 0, 3 => some ((c.desc (c.n 16 8)).writeRegion (c.n 24 2) (if c.bit 48 0 then c.n 34 2 else c.n 30 2))
  | 0, 4 => some (if c.inAcc 2 then [] else (c.desc (c.n 32 8)).writeRegion (c.vecOrigin 2).1 (c.vecDims 2).1)
  | 0, 5 => some [(c.n 24 8, c.n 32 4)]
  | 7, 1 => if c.fxgAlloc then none else some ((List.range (c.n 51 1)).map c.copyRegion).flatten
  | 7, 2 => some [(c.n 16 8 + 38, 1)]
  | _, _ => some []

/-- Would the command write outside the slot its batch may write (R183)? -/
def Cmd.writesOutside (c : Cmd) : Bool :=
  match c.mayWrite with
  | none => false
  | some (lo, n) => match c.kernelWrites with
    | none => true
    | some rs => rs.any (fun r => decide (0 < r.2) && !(decide (lo ≤ r.1) && decide (r.1 + r.2 ≤ lo + n)))

/-- The command starts: what its checks find (R31, R78, R131). A speculative kernel command raises no translation fault and makes no
write outside its slot: it stops there (R41, R183). Where its checks need what peers' memory holds, it asks for it and starts once the
answers are there (R320). -/
def State.begin (s0 : State) (c0 : Cmd) : State :=
  let a := c0.agent
  let c : Cmd := { c0 with phase := .started, started := s0.now }
  let s := s0.setCmd c
  match s.startCheck a c with
  | .fail f =>
    if !f.awaits.isEmpty then s0.fetch c0 c0.cls3 f.awaits
    else if c.mayWrite.isSome && f.isFault then (s.kernelStopped c).workDone c 0 0
    else s.failWork c f
  | .zero => s.workDone c 0 0
  | .go ds =>
    let cc : Cmd := { c with descs := ds }
    if cc.writesOutside then (s.kernelStopped cc).workDone cc 0 0
    else
      let t := s.setCmd cc
      match cc.cls, cmdOpcode cc.word with
      | 6, _ => t.zinBegin cc
      | 2, 4 => t.beginMerge cc
      | _, _ => t

/-- Does a Peony MMA's stationary set await no earlier load of its queue (R115)? -/
def State.setLoaded (s : State) (c : Cmd) : Bool :=
  !(decide (c.cls = 0) && decide (cmdOpcode c.word = 2) && !(c.df = 1)) ||
    !(s.cmds.any (fun d => decide (d.cls = 0) && decide (cmdOpcode d.word = 1) && decide (d.inst = c.inst) && decide (d.id < c.id) &&
      (d.phase = .queued || d.phase = .started) && (d.bit 32 0 == c.bit 46 2)))

/-- Are the issuing core's stores before the ENQ visible: no fabric write of the core from then on is unacknowledged (R30)? -/
def State.storesSeen (s : State) (c : Cmd) : Bool :=
  !(s.reqs.any (fun e => decide (e.2.kind = .write) && decide (e.2.core = c.core) && decide (e.2.job = c.job) && decide (e.2.cmd = 0) &&
    decide (e.2.sent.toNat ≤ c.since.toNat)))

/-- May the queued command c start: the module, its job and the order of its queue let it (R31), a hub engine's scheduler has chosen it
(R336), what it must see is there (R30, R115), and no other append to its index is at work (R150)? -/
def State.startable (s : State) (c : Cmd) : Bool :=
  decide (c.phase = Phase.queued) && s.mayStart c && s.orderAllows c && (decide (c.cls < 2) || c.granted) && s.storesSeen c &&
    s.setLoaded c && s.appendFree c

/-- COMMAND_START: the engine starts the queued command id once it may. -/
def execCommandStart (id : Nat) (_ext : Ext) (s : State) : Host.Outcome State Fault Refusal :=
  match s.cmd id with
  | none => .next s
  | some c => if s.startable c then .next (s.begin c) else .next s

/-! ### Completion -/

/-- A completed command's numeric flags reach HUB_NUMF_STICKY, and HUB_NUMF_NAN where it reported NAN_IN or NAN_GEN (R102, R103). -/
def State.numericEvents (s : State) (result : BitVec 32) : State :=
  let flags := fld (BitVec.setWidth 64 result) 25 7
  let s1 := if flags = 0 then s
    else s.setReg Reg.hubNumfSticky (s.reg Reg.hubNumfSticky ||| BitVec.ofNat 64 (flags * 2))
  if flags.testBit 6 || flags.testBit 1 then s1.bump Reg.hubNumfNan 1 else s1

/-- ZIN_MASK commands that complete more than 20 µs after their acceptance count (R210). -/
def State.maskTime (s : State) (c : Cmd) : State :=
  if decide (c.cls = 6) && decide (cmdOpcode c.word = 3) && decide (20000 < (s.now - c.since).toNat) then s.bump Reg.zinMaskLate 1 else s

/-- Command c completes with a status and a RESULT and leaves its queue (R79): where one of its writes has failed, with that code
(R247, R323); a kernel command of a re-rank session reports to Aster (R180). -/
def State.complete (s : State) (c : Cmd) (status : Byte) (result : BitVec 32) : State :=
  let code := if status = 0 then (SMap.find s.writeFail c.id).getD 0 else status
  let t := ((s.numericEvents result).maskTime c).dropCmd c.id
  if c.session = 0 then t.finish c.core c.job (s.engineUnit c.cls c.inst) c.started c.word code result
  else t.kernelDone c code

/-- Does a fabric write of command id, or its row operation, await its acknowledgement (R79)? -/
def State.writesOpen (s : State) (id : Nat) : Bool :=
  s.reqs.any (fun e => decide (e.2.cmd = id + 1) && (decide (e.2.kind = .write) || decide (e.2.kind = .rowAmo)))

/-- Does command c still hold row reads or writes in progress? -/
def State.rowsOpen (s : State) (c : Cmd) : Bool := (SMap.find s.rowReads c.id).isSome || (SMap.find s.rowWork c.id).isSome

/-- COMMAND_COMPLETE: command id, its work done, completes; its writes are visible before its slot shows DONE (R79), and a row it still
locked is given back first (R171). -/
def execCommandComplete (id : Nat) (s : State) : Host.Outcome State Fault Refusal :=
  match s.cmd id with
  | none => .next s
  | some c => match c.phase with
    | .done status result =>
      if s.stopped || s.fatal || s.writesOpen id then .next s
      else if s.rowsOpen c then .next (s.endRows c)
      else .next (s.complete c status result)
    | _ => .next s

/-- ENGINE_NOP: the started engine command NOP completes with 0x00 and does nothing else (R77). -/
def execEngineNop (id : Nat) (s : State) : Host.Outcome State Fault Refusal :=
  match s.cmd id with
  | none => .next s
  | some c =>
    if decide (c.phase = .started) && decide (cmdOpcode c.word = 0) && !c.suspended && !s.stopped && !s.fatal then
      .next (s.complete c 0 0)
    else .next s

end Sys2Proof.Machine
end

