-- ==== Sys2Proof/Machine/Dispatch.lean ====
section
/-!
DEFINITION. The dispatch: one arm per command, each one direct call of the command's meaning.
-/

namespace Sys2Proof.Machine

/-- The effect of a command on everything but the queue. -/
def exec (i : Instr) (s : State) : Host.Outcome State Fault Refusal :=
  match i with
  -- Fjor control-core instructions (03_fjor_instruction_set.md): core c issues the instruction at its program counter
  | .add c gd rd rs1 rs2 => Sys2Proof.Machine.execAdd c gd rd rs1 rs2 s
  | .sub c gd rd rs1 rs2 => Sys2Proof.Machine.execSub c gd rd rs1 rs2 s
  | .and c gd rd rs1 rs2 => Sys2Proof.Machine.execAnd c gd rd rs1 rs2 s
  | .or c gd rd rs1 rs2 => Sys2Proof.Machine.execOr c gd rd rs1 rs2 s
  | .xor c gd rd rs1 rs2 => Sys2Proof.Machine.execXor c gd rd rs1 rs2 s
  | .sll c gd rd rs1 rs2 => Sys2Proof.Machine.execSll c gd rd rs1 rs2 s
  | .srl c gd rd rs1 rs2 => Sys2Proof.Machine.execSrl c gd rd rs1 rs2 s
  | .sra c gd rd rs1 rs2 => Sys2Proof.Machine.execSra c gd rd rs1 rs2 s
  | .mul c gd rd rs1 rs2 => Sys2Proof.Machine.execMul c gd rd rs1 rs2 s
  | .mulh c gd rd rs1 rs2 => Sys2Proof.Machine.execMulh c gd rd rs1 rs2 s
  | .mulhu c gd rd rs1 rs2 => Sys2Proof.Machine.execMulhu c gd rd rs1 rs2 s
  | .min c gd rd rs1 rs2 => Sys2Proof.Machine.execMin c gd rd rs1 rs2 s
  | .max c gd rd rs1 rs2 => Sys2Proof.Machine.execMax c gd rd rs1 rs2 s
  | .minu c gd rd rs1 rs2 => Sys2Proof.Machine.execMinu c gd rd rs1 rs2 s
  | .maxu c gd rd rs1 rs2 => Sys2Proof.Machine.execMaxu c gd rd rs1 rs2 s
  | .addi c gd rd rs1 imm => Sys2Proof.Machine.execAddi c gd rd rs1 imm s
  | .andi c gd rd rs1 imm => Sys2Proof.Machine.execAndi c gd rd rs1 imm s
  | .ori c gd rd rs1 imm => Sys2Proof.Machine.execOri c gd rd rs1 imm s
  | .xori c gd rd rs1 imm => Sys2Proof.Machine.execXori c gd rd rs1 imm s
  | .shi c gd rd rs1 imm => Sys2Proof.Machine.execShi c gd rd rs1 imm s
  | .movz c gd rd hw imm => Sys2Proof.Machine.execMovz c gd rd hw imm s
  | .movkL c gd rd hw imm => Sys2Proof.Machine.execMovkL c gd rd hw imm s
  | .movkH c gd rd hw imm => Sys2Proof.Machine.execMovkH c gd rd hw imm s
  | .cmp c gd rd rs1 rs2 fn => Sys2Proof.Machine.execCmp c gd rd rs1 rs2 fn s
  | .cmpi c gd cc pd rs1 imm => Sys2Proof.Machine.execCmpi c gd cc pd rs1 imm s
  | .plog c gd rd rs1 rs2 fn => Sys2Proof.Machine.execPlog c gd rd rs1 rs2 fn s
  | .ld c gd rd rs1 sz sx imm => Sys2Proof.Machine.execLd c gd rd rs1 sz sx imm s
  | .st c gd rs2 rs1 sz sx imm => Sys2Proof.Machine.execSt c gd rs2 rs1 sz sx imm s
  | .amo c gd rd rs1 rs2 fn => Sys2Proof.Machine.execAmo c gd rd rs1 rs2 fn s
  | .b c gd h off resolved => Sys2Proof.Machine.execB c gd h off resolved s
  | .bl c gd h off resolved => Sys2Proof.Machine.execBl c gd h off resolved s
  | .br c gd rd rs1 rs2 fn => Sys2Proof.Machine.execBr c gd rd rs1 rs2 fn s
  | .qput c gd rg rq oq e nb pe ps z => Sys2Proof.Machine.execQput c gd rg rq oq e nb pe ps z s
  | .qget c gd rg rq oq e nb pe ps z => Sys2Proof.Machine.execQget c gd rg rq oq e nb pe ps z s
  | .qcnt c gd rd rs1 rs2 fn => Sys2Proof.Machine.execQcnt c gd rd rs1 rs2 fn s
  | .enq c gd rg re nb ps z => Sys2Proof.Machine.execEnq c gd rg re nb ps z s
  | .wait c gd rd slot nb ps z => Sys2Proof.Machine.execWait c gd rd slot nb ps z s
  | .nop c gd rd rs1 z pd => Sys2Proof.Machine.execNop c gd rd rs1 z pd s
  | .halt c gd rd rs1 z pd => Sys2Proof.Machine.execHalt c gd rd rs1 z pd s
  | .brk c gd rd rs1 z pd => Sys2Proof.Machine.execBrk c gd rd rs1 z pd s
  | .time c gd rd rs1 z pd => Sys2Proof.Machine.execTime c gd rd rs1 z pd s
  | .coreid c gd rd rs1 z pd => Sys2Proof.Machine.execCoreid c gd rd rs1 z pd s
  | .fenceL c gd rd rs1 z pd => Sys2Proof.Machine.execFenceL c gd rd rs1 z pd s
  | .fenceP c gd rd rs1 z pd => Sys2Proof.Machine.execFenceP c gd rd rs1 z pd s
  | .fenceD c gd rd rs1 z pd => Sys2Proof.Machine.execFenceD c gd rd rs1 z pd s
  | .fenceS c gd rd rs1 z pd => Sys2Proof.Machine.execFenceS c gd rd rs1 z pd s
  | .illegalInstruction c w => Sys2Proof.Machine.execIllegalInstruction c w s
  | .branchResolve c => Sys2Proof.Machine.execBranchResolve c s
  | .fenceComplete c => Sys2Proof.Machine.execFenceComplete c s
  | .enqAccept c => Sys2Proof.Machine.execEnqAccept c s
  | .waitReturn c => Sys2Proof.Machine.execWaitReturn c s
  | .qputUnblock q => Sys2Proof.Machine.execQputUnblock q s
  | .qgetUnblock c => Sys2Proof.Machine.execQgetUnblock c s
  | .commandStart id ext => Sys2Proof.Machine.execCommandStart id ext s
  | .commandComplete id => Sys2Proof.Machine.execCommandComplete id s
  | .engineDispatch e => Sys2Proof.Machine.execEngineDispatch e s
  | .engineNop id => Sys2Proof.Machine.execEngineNop id s
  -- Peony and Lupin commands: the started command id does its work; ext carries what only the hardware's timing knows
  | .pnyLoadW id ext => Sys2Proof.Machine.execPnyLoadW id ext s
  | .pnyMma id ext => Sys2Proof.Machine.execPnyMma id ext s
  | .pnyStore id ext => Sys2Proof.Machine.execPnyStore id ext s
  | .pnyVec id ext => Sys2Proof.Machine.execPnyVec id ext s
  | .pnyCopy id ext => Sys2Proof.Machine.execPnyCopy id ext s
  | .pnyAccClear id ext => Sys2Proof.Machine.execPnyAccClear id ext s
  | .lupGemv id ext => Sys2Proof.Machine.execLupGemv id ext s
  | .lupAttn id ext => Sys2Proof.Machine.execLupAttn id ext s
  | .lupTreeVerify id ext => Sys2Proof.Machine.execLupTreeVerify id ext s
  | .lupKvDiscard id ext => Sys2Proof.Machine.execLupKvDiscard id ext s
  | .cadenceTick ch => Sys2Proof.Machine.execCadenceTick ch s
  | .clmWalk id ext => Sys2Proof.Machine.execClmWalk id ext s
  | .provisionalList id r ext => Sys2Proof.Machine.execProvisionalList id r ext s
  | .clmInsert id ext => Sys2Proof.Machine.execClmInsert id ext s
  | .clmDelete id ext => Sys2Proof.Machine.execClmDelete id ext s
  | .clmMerge id ext => Sys2Proof.Machine.execClmMerge id ext s
  | .mergeFinish id ext => Sys2Proof.Machine.execMergeFinish id ext s
  | .clmFilter id ext => Sys2Proof.Machine.execClmFilter id ext s
  | .nodeCachePrefetch id va die ext => Sys2Proof.Machine.execNodeCachePrefetch id va die ext s
  | .prmTopk id ext => Sys2Proof.Machine.execPrmTopk id ext s
  | .prmMerge id ext => Sys2Proof.Machine.execPrmMerge id ext s
  | .prmRefine id ext => Sys2Proof.Machine.execPrmRefine id ext s
  | .prmSample id ext => Sys2Proof.Machine.execPrmSample id ext s
  | .astGather id ext => Sys2Proof.Machine.execAstGather id ext s
  | .astRerank id ext => Sys2Proof.Machine.execAstRerank id ext s
  | .provisionalNotice q ext => Sys2Proof.Machine.execProvisionalNotice q ext s
  | .finalList q ext => Sys2Proof.Machine.execFinalList q ext s
  | .batchComplete id slot ext => Sys2Proof.Machine.execBatchComplete id slot ext s
  | .astUpdate id ext => Sys2Proof.Machine.execAstUpdate id ext s
  | .astRowReplace id ext => Sys2Proof.Machine.execAstRowReplace id ext s
  | .rowBusyRetry id ext => Sys2Proof.Machine.execRowBusyRetry id ext s
  | .bqtFetch id ext => Sys2Proof.Machine.execBqtFetch id ext s
  | .bqtPack id ext => Sys2Proof.Machine.execBqtPack id ext s
  | .zinEncode id ext => Sys2Proof.Machine.execZinEncode id ext s
  | .zinDetok id ext => Sys2Proof.Machine.execZinDetok id ext s
  | .zinMask id ext => Sys2Proof.Machine.execZinMask id ext s
  | .zinVocabLoad id ext => Sys2Proof.Machine.execZinVocabLoad id ext s
  | .zinGrammarLoad id ext => Sys2Proof.Machine.execZinGrammarLoad id ext s
  | .slotUnload grammar slot => Sys2Proof.Machine.execSlotUnload grammar slot s
  | .fxgMove id ext => Sys2Proof.Machine.execFxgMove id ext s
  | .fxgEvict id ext => Sys2Proof.Machine.execFxgEvict id ext s
  | .hlyRead id ext => Sys2Proof.Machine.execHlyRead id ext s
  | .mmuInval v => Sys2Proof.Machine.execMmuInval v s
  | .mmuInvalDone => Sys2Proof.Machine.execMmuInvalDone s
  -- PF1, the storage function: fid is a command's place in fetch order
  | .pf1SqDoorbell q tail => Sys2Proof.Machine.execPf1SqDoorbell q tail s
  | .pf1CqDoorbell q head => Sys2Proof.Machine.execPf1CqDoorbell q head s
  | .nvmeFetch q entry ranges => Sys2Proof.Machine.execNvmeFetch q entry ranges s
  | .nvmeCommandStart fid => Sys2Proof.Machine.execNvmeCommandStart fid s
  | .nvmeRead fid prps => Sys2Proof.Machine.execNvmeRead fid prps s
  | .nvmeWrite fid data place => Sys2Proof.Machine.execNvmeWrite fid data place s
  | .writeZeroes fid => Sys2Proof.Machine.execWriteZeroes fid s
  | .datasetManagement fid => Sys2Proof.Machine.execDatasetManagement fid s
  | .flush fid => Sys2Proof.Machine.execFlush fid s
  | .nvmeCompletion fid => Sys2Proof.Machine.execNvmeCompletion fid s
  | .queueRestart fid => Sys2Proof.Machine.execQueueRestart fid s
  | .getLogPage fid prps => Sys2Proof.Machine.execGetLogPage fid prps s
  | .createIoCompletionQueue fid => Sys2Proof.Machine.execCreateIoCompletionQueue fid s
  | .createIoSubmissionQueue fid => Sys2Proof.Machine.execCreateIoSubmissionQueue fid s
  | .deleteIoSubmissionQueue fid => Sys2Proof.Machine.execDeleteIoSubmissionQueue fid s
  | .setFeaturesPowerManagement fid => Sys2Proof.Machine.execSetFeaturesPowerManagement fid s
  | .powerStateEntry => Sys2Proof.Machine.execPowerStateEntry s
  | .formatNvm fid => Sys2Proof.Machine.execFormatNvm fid s
  | .controllerLevelReset => Sys2Proof.Machine.execControllerLevelReset s
  | .controllerConfiguration v => Sys2Proof.Machine.execControllerConfiguration v s
  -- flash maintenance: moves name the logical blocks that get new slots, in an erase block (die * 8192 + block)
  | .readRefresh block moves => Sys2Proof.Machine.execReadRefresh block moves s
  | .programFail block moves => Sys2Proof.Machine.execProgramFail block moves s
  | .eraseFail block => Sys2Proof.Machine.execEraseFail block s
  | .parityRebuilt lba ok moves => Sys2Proof.Machine.execParityRebuilt lba ok moves s
  | .garbageCollection block moves erased => Sys2Proof.Machine.execGarbageCollection block moves erased s
  -- Host interface (12)
  | .registerWrite w off data reads => Sys2Proof.Machine.execRegisterWrite w off data reads s
  | .readClear w off n => Sys2Proof.Machine.execReadClear w off n s
  | .counterWrap off => Sys2Proof.Machine.execCounterWrap off s
  | .applyGo ap => Sys2Proof.Machine.execApplyGo ap s
  | .applyDiscard ap => Sys2Proof.Machine.execApplyDiscard ap s
  | .applyComplete ap => Sys2Proof.Machine.execApplyComplete ap s
  | .submissionDoorbell f off data => Sys2Proof.Machine.execSubmissionDoorbell f off data s
  | .completionDoorbell f off data => Sys2Proof.Machine.execCompletionDoorbell f off data s
  | .descriptorFetch f k read => Sys2Proof.Machine.execDescriptorFetch f k read s
  | .ringRecordWrite f k => Sys2Proof.Machine.execRingRecordWrite f k s
  | .bar4Access f off n data => Sys2Proof.Machine.execBar4Access f off n data s
  | .ifSelect f v => Sys2Proof.Machine.execIfSelect f v s
  | .flr w => Sys2Proof.Machine.execFlr w s
  | .d3hotEntry w => Sys2Proof.Machine.execD3hotEntry w s
  | .configRequest second w off data => Sys2Proof.Machine.execConfigRequest second w off data s
  -- Core-side prefetch (10)
  | .streamPrefetch c k => Sys2Proof.Machine.execStreamPrefetch c k s
  -- Fjorin (13)
  | .flitReceive p flit corrected uncorrectable => Sys2Proof.Machine.execFlitReceive p flit corrected uncorrectable s
  | .nak p ack => Sys2Proof.Machine.execNak p ack s
  | .replayTimeout p => Sys2Proof.Machine.execReplayTimeout p s
  | .portFail p => Sys2Proof.Machine.execPortFail p s
  | .fastRetrain p lanes half => Sys2Proof.Machine.execFastRetrain p lanes half s
  | .trainingRetry p => Sys2Proof.Machine.execTrainingRetry p s
  | .helloSend p => Sys2Proof.Machine.execHelloSend p s
  | .hello p h => Sys2Proof.Machine.execHello p h s
  | .messageForward p => Sys2Proof.Machine.execMessageForward p s
  | .poolRd p => Sys2Proof.Machine.execPoolRd p s
  | .poolRdRsp p => Sys2Proof.Machine.execPoolRdRsp p s
  | .poolWr p => Sys2Proof.Machine.execPoolWr p s
  | .poolWrAck p => Sys2Proof.Machine.execPoolWrAck p s
  | .poolAmo p => Sys2Proof.Machine.execPoolAmo p s
  | .poolAmoRsp p => Sys2Proof.Machine.execPoolAmoRsp p s
  | .errRsp p => Sys2Proof.Machine.execErrRsp p s
  | .respTimeout tag => Sys2Proof.Machine.execRespTimeout tag s
  | .qword p => Sys2Proof.Machine.execQword p s
  | .qrsp p => Sys2Proof.Machine.execQrsp p s
  | .qwordRetry q => Sys2Proof.Machine.execQwordRetry q s
  | .mcastTimeout q p => Sys2Proof.Machine.execMcastTimeout q p s
  | .linkCredit p => Sys2Proof.Machine.execLinkCredit p s
  | .timeSyncSend p frac => Sys2Proof.Machine.execTimeSyncSend p frac s
  | .timeSync p frac => Sys2Proof.Machine.execTimeSync p frac s
  | .schedulerServe p => Sys2Proof.Machine.execSchedulerServe p s
  | .queueSample p => Sys2Proof.Machine.execQueueSample p s
  | .fjlSegInval v => Sys2Proof.Machine.execFjlSegInval v s
  | .segInvalDone => Sys2Proof.Machine.execSegInvalDone s
  | .portTrained p lanes half => Sys2Proof.Machine.execPortTrained p lanes half s
  | .flitLock p gained => Sys2Proof.Machine.execFlitLock p gained s
  -- Jobs (14)
  | .jobSubmit second v desc image => Sys2Proof.Machine.execJobSubmit second v desc image s
  | .jobStart g => Sys2Proof.Machine.execJobStart g s
  | .preempt g => Sys2Proof.Machine.execPreempt g s
  | .saveComplete g => Sys2Proof.Machine.execSaveComplete g s
  | .restoreComplete g => Sys2Proof.Machine.execRestoreComplete g s
  | .jobKill v => Sys2Proof.Machine.execJobKill v s
  | .jobEnd g => Sys2Proof.Machine.execJobEnd g s
  -- Marigold (15)
  | .pathRetry unit => Sys2Proof.Machine.execPathRetry unit s
  | .pathFail unit => Sys2Proof.Machine.execPathFail unit s
  | .scrub pa row result => Sys2Proof.Machine.execScrub pa row result s
  | .hbmCalibration stack => Sys2Proof.Machine.execHbmCalibration stack s
  | .hangDetect unit => Sys2Proof.Machine.execHangDetect unit s
  | .unitFailed unit running => Sys2Proof.Machine.execUnitFailed unit running s
  | .recoveryRestart g => Sys2Proof.Machine.execRecoveryRestart g s
  | .fatal => Sys2Proof.Machine.execFatal s
  | .stop v => Sys2Proof.Machine.execStop v s
  | .cutMark p => Sys2Proof.Machine.execCutMark p s
  | .cutMarkTimeout p => Sys2Proof.Machine.execCutMarkTimeout p s
  | .cutTaken => Sys2Proof.Machine.execCutTaken s
  | .resume v reads => Sys2Proof.Machine.execResume v reads s
  -- Start and power (16)
  | .inputPowerGood bifurc addrSel => Sys2Proof.Machine.execInputPowerGood bifurc addrSel s
  | .coldStart v => Sys2Proof.Machine.execColdStart v s
  | .warmStart v => Sys2Proof.Machine.execWarmStart v s
  | .stageAdvance work => Sys2Proof.Machine.execStageAdvance work s
  | .stageTimeout => Sys2Proof.Machine.execStageTimeout s
  | .powerLoopSample x => Sys2Proof.Machine.execPowerLoopSample x s
  | .junctionOverheat die => Sys2Proof.Machine.execJunctionOverheat die s
  | .flowLow c => Sys2Proof.Machine.execFlowLow c s
  | .valveIteration c pct => Sys2Proof.Machine.execValveIteration c pct s
  | .holdupMeasure cj => Sys2Proof.Machine.execHoldupMeasure cj s
  | .powerLoss => Sys2Proof.Machine.execPowerLoss s
  | .powerDown good bifurc addrSel => Sys2Proof.Machine.execPowerDown good bifurc addrSel s
  | .guardSample a b => Sys2Proof.Machine.execGuardSample a b s
  | .guardClear v => Sys2Proof.Machine.execGuardClear v s
  | .perstAssert second => Sys2Proof.Machine.execPerstAssert second s
  | .perstRelease second => Sys2Proof.Machine.execPerstRelease second s
  | .pcieLinkUp second flit speed width => Sys2Proof.Machine.execPcieLinkUp second flit speed width s
  -- Security and Heather (17)
  | .mctpRequest t m => Sys2Proof.Machine.execMctpRequest t m s
  | .setEndpointId => Sys2Proof.Machine.execSetEndpointId s
  | .getVersion => Sys2Proof.Machine.execGetVersion s
  | .getCapabilities => Sys2Proof.Machine.execGetCapabilities s
  | .negotiateAlgorithms => Sys2Proof.Machine.execNegotiateAlgorithms s
  | .getDigests => Sys2Proof.Machine.execGetDigests s
  | .getCertificate => Sys2Proof.Machine.execGetCertificate s
  | .challenge => Sys2Proof.Machine.execChallenge s
  | .getMeasurements => Sys2Proof.Machine.execGetMeasurements s
  | .getSensorReading => Sys2Proof.Machine.execGetSensorReading s
  | .setNumericEffecterValue => Sys2Proof.Machine.execSetNumericEffecterValue s
  | .setStateEffecterStates => Sys2Proof.Machine.execSetStateEffecterStates s
  | .requestUpdate => Sys2Proof.Machine.execRequestUpdate s
  | .firmwareData => Sys2Proof.Machine.execFirmwareData s
  | .verifyComplete => Sys2Proof.Machine.execVerifyComplete s
  | .activateFirmware => Sys2Proof.Machine.execActivateFirmware s
  | .provisioning => Sys2Proof.Machine.execProvisioning s
  | .secSvnCommit v => Sys2Proof.Machine.execSecSvnCommit v s
  | .policyLock v => Sys2Proof.Machine.execPolicyLock v s
  -- Counters, traces, pressing, breakpoints (18)
  | .holdSet v => Sys2Proof.Machine.execHoldSet v s
  | .holdClear v => Sys2Proof.Machine.execHoldClear v s
  | .traceRecord lost => Sys2Proof.Machine.execTraceRecord lost s
  | .mark v => Sys2Proof.Machine.execMark v s
  | .press v => Sys2Proof.Machine.execPress v s
  | .pressingDone unreadable => Sys2Proof.Machine.execPressingDone unreadable s
  | .watchdogKick p v => Sys2Proof.Machine.execWatchdogKick p v s
  | .watchdogFire g => Sys2Proof.Machine.execWatchdogFire g s
  | .brkDrainDone c => Sys2Proof.Machine.execBrkDrainDone c s
  | .brkResume v => Sys2Proof.Machine.execBrkResume v s
  | .brkStep v => Sys2Proof.Machine.execBrkStep v s

end Sys2Proof.Machine
end

