-- ==== Sys2Proof/Safety.lean ====
section
/-!
DEFINITION. What counts as a sound state, and the conditions and frames the statements share.
-/

namespace Sys2Proof.Machine

/-- The module's memory is in its canonical form: addresses strictly rising, no byte listed that an unlisted one reads as. -/
def State.sound (s : State) : Bool := Memory.wf s.mem

/-- The command completes: exec answers a next state. -/
def Completes (i : Instr) (s : State) : Prop := ∃ t, exec i s = .next t

/-! ### Control cores -/

/-- Core n can issue an instruction of this kind now whose guard holds (R53, R64), not at the last word (R62). -/
structure Ready (s : State) (n : CoreId) (gd : Guard) (kind : AheadKind) : Prop where
  issues : s.canIssue n = true
  ahead : (s.core n).aheadOk kind = true
  guard : (s.core n).guard gd = true
  inside : (s.core n).pc ≠ lastPc

/-- The registers an issue of core n counts in (R134, R414): its partition's counter of issued instructions and the WRAPPED
register of the partition's counters. -/
def issueRegs (n : CoreId) : List Nat := [Reg.dbgPartCnt (partOfCore n) 0, Reg.dbgPartWrap (partOfCore n)]

/-- From s to t the registers keep their values but those in as. -/
def KeepsRegs (as : List Nat) (s t : State) : Prop := ∀ a, a ∉ as → t.reg a = s.reg a

/-- Is b a counter of R134, or the register that holds a counter's WRAPPED bit? -/
def CounterReg (b : Nat) : Prop :=
  ∃ a r w, regAt a = some r ∧ r.desc.wrap = some w ∧
    (b = a ∨ b = w.base + w.s1 * r.i + 4 * ((w.bit + w.b1 * r.i + w.b2 * r.j) / 32))

/-- From s to t every register but the counters keeps its value. -/
def KeepsButCounters (s t : State) : Prop := ∀ a, ¬ CounterReg a → t.reg a = s.reg a

/-- From s to t every register below the DBG_ window but the counters keeps its value. -/
def KeepsWindows (s t : State) : Prop := ∀ a, a < 0x1100000 → ¬ CounterReg a → t.reg a = s.reg a

/-- The other cores keep all they hold. -/
def KeepsCores (n : CoreId) (s t : State) : Prop := ∀ m, m ≠ n → t.core m = s.core m

/-- One instruction of core n counts as issued; no register else changes. -/
def CountsIssue (n : CoreId) (s t : State) : Prop :=
  KeepsRegs (issueRegs n) s t ∧ t.reg (Reg.dbgPartCnt (partOfCore n) 0) = s.reg (Reg.dbgPartCnt (partOfCore n) 0) + 1

/-- Only core n changes, and one instruction of it counts as issued. -/
def OnlyCore (n : CoreId) (s t : State) : Prop :=
  t = { s with eff := t.eff, cores := t.cores } ∧ KeepsCores n s t ∧ CountsIssue n s t

/-- Core n after the bookkeeping of one issue: run-ahead counts the instruction (R45), a stepped core stops again, draining
first where DBG_BRK_CFG says so (R427). -/
def State.issued (s : State) (n : CoreId) (load : Bool) : Core :=
  let k := s.core n
  let drain := bitAt (s.reg (Reg.dbgBrkCfg (s.groupOfCore n))) 30
  { k with runAhead := (k.ranAhead load).runAhead, brkStep := false, brkDrain := k.brkStep && drain, brkStop := k.brkStep && !drain }

/-- The instruction completes; all it does is write v to general register rd of core n, a write of g0 being discarded, and go on. -/
def WritesG (i : Instr) (s : State) (n : CoreId) (rd : GReg) (v : Word) : Prop :=
  ∃ t, exec i s = .next t ∧ OnlyCore n s t ∧
    t.core n = { s.issued n false with g := (t.core n).g, pc := (s.core n).pc + 4 } ∧
    ∀ r, (t.core n).greg r = if r = rd ∧ rd ≠ 0 then v else (s.core n).greg r

/-- The instruction completes; all it does is write v to predicate pd of core n, a write of p0 being discarded, and go on. -/
def WritesP (i : Instr) (s : State) (n : CoreId) (pd : PReg) (v : Bool) : Prop :=
  ∃ t, exec i s = .next t ∧ OnlyCore n s t ∧
    t.core n = { s.issued n false with p := (t.core n).p, pc := (s.core n).pc + 4 } ∧
    ∀ r, (t.core n).pred r = if r = pd ∧ pd ≠ 0 then v else (s.core n).pred r

/-- The instruction completes; all it does is go on. -/
def GoesOn (i : Instr) (s : State) (n : CoreId) : Prop :=
  ∃ t, exec i s = .next t ∧ OnlyCore n s t ∧ t.core n = { s.issued n false with pc := (s.core n).pc + 4 }

/-- The core faults with the code and address (R74): the program counter stays at the instruction; the fault word may enter a queue
(R342), or be counted in STM_DISCARD. -/
def FaultsWith (i : Instr) (s : State) (n : CoreId) (code : Byte) (va : Nat) : Prop :=
  ∃ t, exec i s = .next t ∧ t = { s with eff := t.eff, cores := t.cores, stem := t.stem, trace := t.trace } ∧ KeepsCores n s t ∧
    KeepsButCounters s t ∧ (∀ a, a ∉ issueRegs n → a ≠ Reg.stmDiscard → a ≠ Reg.stmCntWrap → t.reg a = s.reg a) ∧
    t.core n = { s.issued n false with
      state := .faulted, faultCode := code, faultAddr := BitVec.ofNat 48 va, blocked := none, runAhead := none }

/-- The core, the guard and the run-ahead kind (R64) of a control-core instruction, and whether its encoding is legal: every field the
chapter requires to be zero is, and no value is one it marks as illegal (R54–R72). -/
def coreForm : Instr → Option (CoreId × Guard × AheadKind × Bool)
  | .add c gd _ _ _ => some (c, gd, .plain, true)
  | .sub c gd _ _ _ => some (c, gd, .plain, true)
  | .and c gd _ _ _ => some (c, gd, .plain, true)
  | .or c gd _ _ _ => some (c, gd, .plain, true)
  | .xor c gd _ _ _ => some (c, gd, .plain, true)
  | .sll c gd _ _ _ => some (c, gd, .plain, true)
  | .srl c gd _ _ _ => some (c, gd, .plain, true)
  | .sra c gd _ _ _ => some (c, gd, .plain, true)
  | .mul c gd _ _ _ => some (c, gd, .plain, true)
  | .mulh c gd _ _ _ => some (c, gd, .plain, true)
  | .mulhu c gd _ _ _ => some (c, gd, .plain, true)
  | .min c gd _ _ _ => some (c, gd, .plain, true)
  | .max c gd _ _ _ => some (c, gd, .plain, true)
  | .minu c gd _ _ _ => some (c, gd, .plain, true)
  | .maxu c gd _ _ _ => some (c, gd, .plain, true)
  | .addi c gd _ _ _ => some (c, gd, .plain, true)
  | .andi c gd _ _ _ => some (c, gd, .plain, true)
  | .ori c gd _ _ _ => some (c, gd, .plain, true)
  | .xori c gd _ _ _ => some (c, gd, .plain, true)
  | .shi c gd _ _ imm => some (c, gd, .plain, decide (imm.extractLsb' 8 4 = 0))
  | .movz c gd _ _ _ => some (c, gd, .plain, true)
  | .movkL c gd _ _ _ => some (c, gd, .plain, true)
  | .movkH c gd _ _ _ => some (c, gd, .plain, true)
  | .cmp c gd rd _ _ fn => some (c, gd, .plain, decide (rd.extractLsb' 3 2 = 0 ∧ fn.toNat ≤ 5))
  | .cmpi c gd cc _ _ _ => some (c, gd, .plain, decide (cc.toNat ≤ 5))
  | .plog c gd rd rs1 rs2 fn => some (c, gd, .plain,
      decide (rd.extractLsb' 3 2 = 0 ∧ rs1.extractLsb' 3 2 = 0 ∧ rs2.extractLsb' 3 2 = 0 ∧ fn.toNat ≤ 3))
  | .ld c gd _ _ sz sx _ => some (c, gd, .load, decide ¬(sx = true ∧ sz = 3))
  | .st c gd _ _ _ sx _ => some (c, gd, .never, decide (sx = false))
  | .amo c gd _ _ _ fn => some (c, gd, .never, decide (fn.extractLsb' 0 2 = 0 ∧ fn.extractLsb' 4 3 ≠ 7))
  | .b c gd _ _ _ => some (c, gd, .never, true)
  | .bl c gd _ _ _ => some (c, gd, .never, true)
  | .br c gd _ _ rs2 fn => some (c, gd, .never, decide (rs2 = 0 ∧ fn = 0))
  | .qput c gd rg _ oq _ nb pe ps z => some (c, gd, .never,
      decide (rg.toNat % 4 = 0 ∧ rg ≠ 0 ∧ oq ≠ 3 ∧ pe = 0 ∧ (nb = true ∨ ps = 0) ∧ z = 0))
  | .qget c gd rg _ oq e _ _ _ z => some (c, gd, .never, decide (rg.toNat % 4 = 0 ∧ rg ≠ 0 ∧ oq ≠ 3 ∧ e = false ∧ z = 0))
  | .qcnt c gd _ _ rs2 fn => some (c, gd, .never, decide (rs2 = 0 ∧ fn = 0))
  | .enq c gd rg _ _ _ z => some (c, gd, .never, decide ((rg = 8 ∨ rg = 16 ∨ rg = 24) ∧ z = 0))
  | .wait c gd _ _ _ _ z => some (c, gd, .never, decide (z = 0))
  | .nop c gd rd rs1 z pd => some (c, gd, .plain, decide (rd = 0 ∧ rs1 = 0 ∧ z = 0 ∧ pd = 0))
  | .halt c gd rd rs1 z pd => some (c, gd, .never, decide (rd = 0 ∧ rs1 = 0 ∧ z = 0 ∧ pd = 0))
  | .brk c gd rd rs1 z pd => some (c, gd, .never, decide (rd = 0 ∧ rs1 = 0 ∧ z = 0 ∧ pd = 0))
  | .time c gd _ rs1 z pd => some (c, gd, .plain, decide (rs1 = 0 ∧ z = 0 ∧ pd = 0))
  | .coreid c gd _ rs1 z pd => some (c, gd, .plain, decide (rs1 = 0 ∧ z = 0 ∧ pd = 0))
  | .fenceL c gd rd rs1 z pd => some (c, gd, .never, decide (rd = 0 ∧ rs1 = 0 ∧ z = 0 ∧ pd = 0))
  | .fenceP c gd rd rs1 z pd => some (c, gd, .never, decide (rd = 0 ∧ rs1 = 0 ∧ z = 0 ∧ pd = 0))
  | .fenceD c gd rd rs1 z pd => some (c, gd, .never, decide (rd = 0 ∧ rs1 = 0 ∧ z = 0 ∧ pd = 0))
  | .fenceS c gd rd rs1 z _ => some (c, gd, .never, decide (rd = 0 ∧ rs1 = 0 ∧ z = 0))
  | _ => none

/-- Is the guard of a B or BL not yet available (R63)? An unguarded branch never waits. -/
def unresolvedBranch : Instr → Bool
  | .b _ gd _ _ resolved => !resolved && decide (gd.pg ≠ 0)
  | .bl _ gd _ _ resolved => !resolved && decide (gd.pg ≠ 0)
  | _ => false

/-! ### Engine commands -/

/-- The work of command c is done in t with a status and a RESULT, still to be written to its slot; the other commands are as in s. -/
def WorkEnds (s t : State) (c : Cmd) (status : Byte) (result : BitVec 32) : Prop :=
  t.cmd c.id = some { c with phase := .done status result } ∧ ∀ j, j ≠ c.id → t.cmd j = s.cmd j

/-- The registers the work of command c may change: counters, HUB_MMU_FAULT of its job's group, the flash health log's pointers. -/
def KeepsEngineRegs (s t : State) (c : Cmd) : Prop :=
  ∀ a, a < 0x1100000 → ¬ CounterReg a → (∀ j, s.job c.job = some j → a ≠ Reg.hubMmuFault j.group) → a ≠ Reg.hlyHealthWr →
    a ≠ Reg.hlyHealthLost → t.reg a = s.reg a

/-- What the work of command c may change: the memory it writes, with its ownership and poison, what it held before (R32), the cached lines
over it, the read counters of the flash it reads, its own command, the requests it sends to the fabric pool and the flows they fill, the
record of a failed write in its core (R28) and beside the commands (R247), registers. -/
def EngineFrame (s t : State) (c : Cmd) : Prop :=
  t = { s with mem := t.mem, owner := t.owner, poison := t.poison, old := t.old, eff := t.eff, cores := t.cores, cmds := t.cmds
               writeFail := t.writeFail, flows := t.flows, ports := t.ports, reqs := t.reqs, nextTag := t.nextTag, ahead := t.ahead
               erase := t.erase } ∧
  KeepsCores c.core s t ∧ t.core c.core = { s.core c.core with writeFailed := (t.core c.core).writeFailed } ∧ KeepsEngineRegs s t c

/-- n actions of the row writes of command id lead from s, with w to write, on to t, with x (R171); none of them waits, fails or ends. -/
def WriteSteps (id : Nat) : Nat → State → RowWork → State → RowWork → Prop
  | 0, s, w, t, x => s = t ∧ w = x
  | n + 1, s, w, t, x => ∃ c u v, s.cmd id = some c ∧ s.writeStep c w = .more u v ∧
      WriteSteps id n { u with rowWork := SMap.insert u.rowWork id v } v t x

/-- What the acts of Aster's re-rank sessions may change (R178–R186): memory and what goes with a write of it, commands, sessions and rows
being read, fabric requests and flows, queues, releases that wait, registers. -/
def SessionFrame (s t : State) : Prop :=
  t = { s with mem := t.mem, owner := t.owner, poison := t.poison, old := t.old, eff := t.eff, cores := t.cores, cmds := t.cmds
               nextCmd := t.nextCmd, writeFail := t.writeFail, sessions := t.sessions, rowReads := t.rowReads, rowWork := t.rowWork
               stem := t.stem, held := t.held, cadence := t.cadence, flows := t.flows, ports := t.ports, reqs := t.reqs
               nextTag := t.nextTag, ahead := t.ahead, erase := t.erase } ∧
  ∀ n, t.core n = { s.core n with writeFailed := (t.core n).writeFailed }

/-- A started command's status: done, or 0xC0 where its operands were poisoned (R354). -/
def doneOrPoisoned (bad : Bool) : Byte := if bad then 0xC0 else 0x00

/-! ### Storage -/

/-- Of PF1's fetched commands only c changes: it is done with a status (SCT, SC) and a result word, the last one done (R281). -/
def NvmeEnds (s t : State) (c : NvmeCmd) (sct sc : Nat) (dw0 : BitVec 32) : Prop :=
  t.pf1.cmds = s.pf1.cmds.filter (fun d => !(d.fid = c.fid)) ++ [{ c with phase := .done sct sc dw0 }]

/-- The submission or completion queues of PF1 other than queue q are as in s. -/
def KeepsSqs (q : Nat) (s t : State) : Prop := ∀ j, j ≠ q → SMap.find t.pf1.sqs j = SMap.find s.pf1.sqs j

/-! ### Ports and the log -/

/-- Of the Fjorin ports only p changes, to x. -/
def PortIs (s t : State) (p : Nat) (x : Port) : Prop := ∀ k, t.port k = if k = p then x else s.port k

/-- Every register but the counters and those of the fault log keeps its value. -/
def KeepsButLog (s t : State) : Prop :=
  ∀ a, ¬ CounterReg a → a ≠ Reg.mgdLogWr → a ≠ Reg.mgdLastCode → t.reg a = s.reg a

/-- The last event logged has this code, severity and unit (MGD_LAST_CODE). -/
def LastLogged (t : State) (code sev unit : Nat) : Prop := t.reg Reg.mgdLastCode = BitVec.ofNat 64 (unit * 65536 + sev * 256 + code)

end Sys2Proof.Machine
end

