-- ==== Sys2Proof/Certificates/Slice0/Obligations.lean ====
section
/-!
DEFINITION. The statements: what the commands do, by family, and what every step keeps.
-/

open Sys2Proof Sys2Proof.Machine

/-! ### Control cores -/

/-- R55, R56, Table 3.4: every function of the ALU, the immediate forms and MOVZ, MOVK.L and MOVK.H write their result to rd, modulo 2^64,
shift amounts taking the low 6 bits; nothing else but the program counter and the count of issued instructions changes. -/
def Obligations.AluResults : Prop :=
  (∀ (c : CoreId) (gd : Guard) (rd rs1 rs2 : GReg) (s : State), Ready s c gd .plain →
    let a := (s.core c).greg rs1
    let b := (s.core c).greg rs2
    WritesG (.add c gd rd rs1 rs2) s c rd (BitVec.ofNat 64 (a.toNat + b.toNat)) ∧
    WritesG (.sub c gd rd rs1 rs2) s c rd (BitVec.ofInt 64 (a.toInt - b.toInt)) ∧
    WritesG (.and c gd rd rs1 rs2) s c rd (a &&& b) ∧
    WritesG (.or c gd rd rs1 rs2) s c rd (a ||| b) ∧
    WritesG (.xor c gd rd rs1 rs2) s c rd (a ^^^ b) ∧
    WritesG (.sll c gd rd rs1 rs2) s c rd (a <<< (b.toNat % 64)) ∧
    WritesG (.srl c gd rd rs1 rs2) s c rd (a >>> (b.toNat % 64)) ∧
    WritesG (.sra c gd rd rs1 rs2) s c rd (a.sshiftRight (b.toNat % 64)) ∧
    WritesG (.mul c gd rd rs1 rs2) s c rd (BitVec.ofNat 64 (a.toNat * b.toNat)) ∧
    WritesG (.mulh c gd rd rs1 rs2) s c rd (BitVec.ofInt 64 (a.toInt * b.toInt / 2 ^ 64)) ∧
    WritesG (.mulhu c gd rd rs1 rs2) s c rd (BitVec.ofNat 64 (a.toNat * b.toNat / 2 ^ 64)) ∧
    WritesG (.min c gd rd rs1 rs2) s c rd (if a.toInt ≤ b.toInt then a else b) ∧
    WritesG (.max c gd rd rs1 rs2) s c rd (if a.toInt ≤ b.toInt then b else a) ∧
    WritesG (.minu c gd rd rs1 rs2) s c rd (if a.toNat ≤ b.toNat then a else b) ∧
    WritesG (.maxu c gd rd rs1 rs2) s c rd (if a.toNat ≤ b.toNat then b else a)) ∧
  (∀ (c : CoreId) (gd : Guard) (rd rs1 : GReg) (imm : BitVec 12) (s : State), Ready s c gd .plain →
    let a := (s.core c).greg rs1
    WritesG (.addi c gd rd rs1 imm) s c rd (BitVec.ofInt 64 (a.toInt + imm.toInt)) ∧
    WritesG (.andi c gd rd rs1 imm) s c rd (a &&& BitVec.ofInt 64 imm.toInt) ∧
    WritesG (.ori c gd rd rs1 imm) s c rd (a ||| BitVec.ofInt 64 imm.toInt) ∧
    WritesG (.xori c gd rd rs1 imm) s c rd (a ^^^ BitVec.ofInt 64 imm.toInt) ∧
    (imm.extractLsb' 8 4 = 0 → imm.extractLsb' 6 2 = 0 → WritesG (.shi c gd rd rs1 imm) s c rd (a <<< (imm.toNat % 64))) ∧
    (imm.extractLsb' 8 4 = 0 → imm.extractLsb' 6 2 = 1 → WritesG (.shi c gd rd rs1 imm) s c rd (a >>> (imm.toNat % 64))) ∧
    (imm.extractLsb' 8 4 = 0 → imm.extractLsb' 6 2 = 2 →
      WritesG (.shi c gd rd rs1 imm) s c rd (a.sshiftRight (imm.toNat % 64))) ∧
    (imm.extractLsb' 8 4 = 0 → imm.extractLsb' 6 2 = 3 → WritesG (.shi c gd rd rs1 imm) s c rd (a.rotateRight (imm.toNat % 64))) ∧
    ∀ (hw : Bool) (k : BitVec 16),
      WritesG (.movz c gd rd hw k) s c rd (BitVec.ofNat 64 (k.toNat * 2 ^ (if hw then 16 else 0))) ∧
      (∃ v, WritesG (.movkL c gd rd hw k) s c rd v ∧ ∀ j < 64, v.getLsbD j =
        if (if hw then 16 else 0) ≤ j ∧ j < (if hw then 16 else 0) + 16 then k.getLsbD (j - (if hw then 16 else 0))
        else ((s.core c).greg rd).getLsbD j) ∧
      (∃ v, WritesG (.movkH c gd rd hw k) s c rd v ∧ ∀ j < 64, v.getLsbD j =
        if (if hw then 48 else 32) ≤ j ∧ j < (if hw then 48 else 32) + 16 then k.getLsbD (j - (if hw then 48 else 32))
        else ((s.core c).greg rd).getLsbD j))

/-- Tables 3.5 and 3.6, R73: CMP, CMPI and PLOG write their condition to pd; NOP only goes on, TIME writes device time, COREID the core's
identity word. -/
def Obligations.PredicatesAndSystemReads : Prop :=
  (∀ (c : CoreId) (gd : Guard) (s : State), Ready s c gd .plain →
    (∀ (rd rs1 rs2 : GReg) (fn : BitVec 7), rd.extractLsb' 3 2 = 0 → fn.toNat ≤ 5 →
      let a := (s.core c).greg rs1
      let b := (s.core c).greg rs2
      WritesP (.cmp c gd rd rs1 rs2 fn) s c (rd.extractLsb' 0 3)
        (decide ((fn = 0 ∧ a = b) ∨ (fn = 1 ∧ a ≠ b) ∨ (fn = 2 ∧ a.toInt < b.toInt) ∨ (fn = 3 ∧ b.toInt ≤ a.toInt) ∨
          (fn = 4 ∧ a.toNat < b.toNat) ∨ (fn = 5 ∧ b.toNat ≤ a.toNat)))) ∧
    (∀ (cc : BitVec 3) (pd : PReg) (rs1 : GReg) (imm : BitVec 11), cc.toNat ≤ 5 →
      let a := (s.core c).greg rs1
      let b : Word := BitVec.ofInt 64 imm.toInt
      WritesP (.cmpi c gd cc pd rs1 imm) s c pd
        (decide ((cc = 0 ∧ a = b) ∨ (cc = 1 ∧ a ≠ b) ∨ (cc = 2 ∧ a.toInt < b.toInt) ∨ (cc = 3 ∧ b.toInt ≤ a.toInt) ∨
          (cc = 4 ∧ a.toNat < b.toNat) ∨ (cc = 5 ∧ b.toNat ≤ a.toNat)))) ∧
    (∀ (rd rs1 rs2 : GReg) (fn : BitVec 7), rd.extractLsb' 3 2 = 0 → rs1.extractLsb' 3 2 = 0 → rs2.extractLsb' 3 2 = 0 →
      fn.toNat ≤ 3 →
      let a := (s.core c).pred (rs1.extractLsb' 0 3)
      let b := (s.core c).pred (rs2.extractLsb' 0 3)
      WritesP (.plog c gd rd rs1 rs2 fn) s c (rd.extractLsb' 0 3)
        (decide ((fn = 0 ∧ a = true ∧ b = true) ∨ (fn = 1 ∧ (a = true ∨ b = true)) ∨ (fn = 2 ∧ a ≠ b) ∨
          (fn = 3 ∧ a = true ∧ b = false))))) ∧
  (∀ (c : CoreId) (gd : Guard) (rd : GReg) (s : State), Ready s c gd .plain →
    GoesOn (.nop c gd 0 0 0 0) s c ∧
    WritesG (.time c gd rd 0 0 0) s c rd s.now ∧
    WritesG (.coreid c gd rd 0 0 0) s c rd
      (BitVec.ofNat 64 ((s.core c).job.toNat * 2 ^ 32 + s.moduleId * 2 ^ 16 +
        (if c.toNat < 48 then c.toNat / 3 else c.toNat - 48) * 2 ^ 8 + c.toNat)))

/-- R53: an instruction whose guard is false counts as issued and does nothing else, whichever instruction it is and whatever its operands
name. -/
def Obligations.FalseGuardOnlyGoesOn : Prop :=
  ∀ (i : Instr) (c : CoreId) (gd : Guard) (kind : AheadKind) (s : State), coreForm i = some (c, gd, kind, true) →
    unresolvedBranch i = false → s.canIssue c = true → (s.core c).aheadOk kind = true → (s.core c).guard gd = false →
    (s.core c).pc ≠ lastPc → GoesOn i s c

/-- R54: a word with no definition, and a defined encoding with a nonzero field that must be zero or a value marked illegal, fault with
CC_ILLEGAL_INSTRUCTION (0x28) whatever the guard. -/
def Obligations.IllegalEncodingsFault : Prop :=
  ∀ (c : CoreId) (s : State), s.canIssue c = true → (s.core c).runAhead = none →
    (∀ w : BitVec 32, fjorInstr c w true = none → FaultsWith (.illegalInstruction c w) s c 0x28 0) ∧
    (∀ (i : Instr) (gd : Guard) (kind : AheadKind), coreForm i = some (c, gd, kind, false) → FaultsWith i s c 0x28 0)

/-- R61, R62, R419: a branch whose guard holds jumps to its target, BL and BR writing the next instruction's address; a target outside
instruction memory faults with CC_FETCH_RANGE (0x2A), a misaligned one of BR with CC_MISALIGNED (0x29), at the branch. R63, R64: a B whose
guard is not available, with run-ahead enabled, saves the registers and goes on along the predicted path: taken when off21 is negative,
the other way with H = 1. R65: a branch that resolves as predicted makes the run-ahead results architectural; otherwise every general
register and predicate returns to its value at the branch, the core goes on along the other path (a BL that is taken linking), and the
squashed instructions are added to HUB_SQUASH0. -/
def Obligations.Branches : Prop :=
  (∀ (c : CoreId) (gd : Guard) (s : State), Ready s c gd .never →
    let pc := (s.core c).pc
    (∀ (h resolved : Bool) (off : BitVec 21), resolved = true ∨ gd.pg = 0 →
      let target : Int := (pc.toNat : Int) + 4 * off.toInt
      (0 ≤ target ∧ target ≤ 0x3FFFC →
        (∃ t, exec (.b c gd h off resolved) s = .next t ∧ OnlyCore c { s with trace := t.trace } t ∧
          t.core c = { s.issued c false with pc := BitVec.ofNat 18 target.toNat } ∧
          t.trace = s.trace ++ (if s.traces 0 (partOfCore c) then [.addr 0 (BitVec.ofNat 18 target.toNat) c s.now] else [])) ∧
        (∃ t, exec (.bl c gd h off resolved) s = .next t ∧ OnlyCore c { s with trace := t.trace } t ∧
          t.core c = { s.issued c false with g := (t.core c).g, pc := BitVec.ofNat 18 target.toNat } ∧
          (∀ r, (t.core c).greg r = if r = 31 then BitVec.ofNat 64 (pc.toNat + 4) else (s.core c).greg r) ∧
          t.trace = s.trace ++ (if s.traces 0 (partOfCore c) then [.addr 0 (BitVec.ofNat 18 target.toNat) c s.now] else []))) ∧
      (target < 0 ∨ 0x3FFFC < target →
        FaultsWith (.b c gd h off resolved) s c 0x2A 0 ∧ FaultsWith (.bl c gd h off resolved) s c 0x2A 0)) ∧
    (∀ rd rs1 : GReg,
      let v := (s.core c).greg rs1
      (v.toNat % 4 = 0 →
        ∃ t, exec (.br c gd rd rs1 0 0) s = .next t ∧ OnlyCore c { s with trace := t.trace } t ∧
          t.core c = { s.issued c false with g := (t.core c).g, pc := v.extractLsb' 0 18 } ∧
          (∀ r, (t.core c).greg r = if r = rd ∧ rd ≠ 0 then BitVec.ofNat 64 (pc.toNat + 4) else (s.core c).greg r) ∧
          t.trace = s.trace ++ (if s.traces 0 (partOfCore c) then [.addr 0 (v.extractLsb' 0 18) c s.now] else [])) ∧
      (v.toNat % 4 ≠ 0 → FaultsWith (.br c gd rd rs1 0 0) s c 0x29 0))) ∧
  (∀ (c : CoreId) (gd : Guard) (h : Bool) (off : BitVec 21) (s : State), s.canIssue c = true → (s.core c).runAhead = none →
    gd.pg ≠ 0 → s.specOff 0 = false →
    let k := s.core c
    let target : Int := (k.pc.toNat : Int) + 4 * off.toInt
    let guess := decide (off.toInt < 0) != h
    let next : Int := if guess then target else k.pc.toNat + 4
    0 ≤ next → next ≤ 0x3FFFC →
    ∃ t, exec (.b c gd h off false) s = .next t ∧ OnlyCore c s t ∧
      t.core c = { s.issued c false with
        pc := BitVec.ofNat 18 next.toNat
        runAhead := some { taken := k.guard gd, predicted := guess, branchPc := k.pc, target := target, link := false, savedG := k.g,
                           savedP := k.p, instrs := 0, loads := 0, poison := none, errors := 0 } }) ∧
  (∀ (c : CoreId) (s : State) (r : RunAhead), (s.core c).runAhead = some r →
    (r.taken = r.predicted → r.poison = none →
      ∃ t, exec (.branchResolve c) s = .next t ∧ t = { s with eff := t.eff, cores := t.cores, trace := t.trace } ∧
        KeepsCores c s t ∧ t.core c = { s.core c with runAhead := none }) ∧
    (r.taken = false → r.predicted = true → r.branchPc ≠ lastPc →
      ∃ t, exec (.branchResolve c) s = .next t ∧ t = { s with eff := t.eff, cores := t.cores } ∧ KeepsCores c s t ∧
        t.core c = { s.core c with runAhead := none, blocked := none, g := r.savedG, p := r.savedP, pc := r.branchPc + 4 } ∧
        t.reg (Reg.hubSquash 0) = s.reg (Reg.hubSquash 0) + BitVec.ofNat 64 r.instrs) ∧
    (r.taken = true → r.predicted = false → 0 ≤ r.target → r.target ≤ 0x3FFFC →
      ∃ t, exec (.branchResolve c) s = .next t ∧ t = { s with eff := t.eff, cores := t.cores, trace := t.trace } ∧
        KeepsCores c s t ∧
        t.core c = { s.core c with runAhead := none, blocked := none, g := (t.core c).g, p := r.savedP, pc := BitVec.ofNat 18 r.target.toNat } ∧
        (∀ x : GReg, (t.core c).greg x =
          if x = 31 ∧ r.link = true then BitVec.ofNat 64 (r.branchPc.toNat + 4) else ({ s.core c with g := r.savedG } : Core).greg x) ∧
        t.reg (Reg.hubSquash 0) = s.reg (Reg.hubSquash 0) + BitVec.ofNat 64 r.instrs))

/-- Table 3.6, R426, R427: HALT ends the program with the program counter at the next instruction; BRK goes on like NOP where its group's
DBG_BRK_CFG has EN = 0, else stops the core at the next instruction, draining first with DRAIN = 1; with GROUP_STOP = 1 every other placed
core of the job stops too. R26–R28, R72: a fence whose conditions are met goes on at once, the core's stores to its instruction memory
taking effect for fetch; FENCE.S sets its predicate where no fabric write failed, else clears it, sets FS_FAIL and names the peer. FENCE.P,
FENCE.D and FENCE.S wait while a fabric write of the core is unacknowledged, FENCE.D and FENCE.S also while a command the core enqueued has
not completed, FENCE.S also while a record such a command caused is still on its way to a host ring; FENCE_COMPLETE ends the wait. After
FENCE.S no cached line of a peer's memory is used any longer (the model's reading, log entry 69). -/
def Obligations.HaltBrkAndFences : Prop :=
  (∀ (c : CoreId) (gd : Guard) (s : State), Ready s c gd .never →
    let pc := (s.core c).pc
    let cfg := s.reg (Reg.dbgBrkCfg (s.groupOfCore c))
    let record := if s.traces 0 (partOfCore c) then [TraceRec.addr 2 pc c s.now] else []
    (∃ t, exec (.halt c gd 0 0 0 0) s = .next t ∧ OnlyCore c { s with trace := t.trace } t ∧
      t.core c = { s.issued c false with state := .halted, pc := pc + 4 } ∧ t.trace = s.trace ++ record) ∧
    (cfg.getLsbD 31 = false →
      ∃ t, exec (.brk c gd 0 0 0 0) s = .next t ∧ OnlyCore c { s with trace := t.trace } t ∧
        t.core c = { s.issued c false with pc := pc + 4 } ∧ t.trace = s.trace ++ record) ∧
    (cfg.getLsbD 31 = true → cfg.getLsbD 29 = false →
      ∃ t, exec (.brk c gd 0 0 0 0) s = .next t ∧ OnlyCore c { s with trace := t.trace } t ∧
        t.core c = { s.issued c false with
          pc := pc + 4
          brkStop := (s.issued c false).brkStop || !(cfg.getLsbD 30)
          brkDrain := (s.issued c false).brkDrain || cfg.getLsbD 30 } ∧
        t.trace = s.trace ++ record) ∧
    (cfg.getLsbD 31 = true → cfg.getLsbD 29 = true → ∀ j, s.job (s.core c).job = some j →
      ∃ t, exec (.brk c gd 0 0 0 0) s = .next t ∧
        t = { s with eff := t.eff, cores := t.cores, stem := t.stem, trace := s.trace ++ record } ∧ CountsIssue c s t ∧
        t.core c = { s.issued c false with
          pc := pc + 4
          brkStop := (s.issued c false).brkStop || !(cfg.getLsbD 30)
          brkDrain := (s.issued c false).brkDrain || cfg.getLsbD 30 } ∧
        ∀ m, m ≠ c →
          (m ∈ j.placed ∧ (s.core m).state = .running →
            ((t.core m).brkStop = true ∨ (t.core m).brkDrain = true) ∧ (t.core m).g = (s.core m).g ∧ (t.core m).p = (s.core m).p ∧
              (t.core m).pc = (s.core m).pc ∧ (t.core m).state = .running) ∧
          (¬ (m ∈ j.placed ∧ (s.core m).state = .running) → t.core m = s.core m))) ∧
  (∀ (c : CoreId) (gd : Guard) (pd : PReg) (s : State),
    let busy := ∃ d ∈ s.cmds, d.core = c
    let writes := ∃ e ∈ s.reqs, e.2.kind = .write ∧ e.2.core = c ∧ e.2.job = (s.core c).job ∧ e.2.cmd = 0
    let records := s.recordsPending c = true
    let kept := fun (k : Core) => { k with
      imem := k.imemStores.foldl (fun m e => SMap.set 0 m e.1 e.2) k.imem, imemStores := [], pc := k.pc + 4 }
    let done := fun (i : Instr) (k : Core) (frame : State → Prop) => ∃ t, exec i s = .next t ∧ frame t ∧ t.core c = kept k
    let doneS := fun (i : Instr) (k : Core) => ∃ t, exec i s = .next t ∧
      t = { s with eff := t.eff, cores := t.cores, ahead := t.ahead, reqs := t.reqs } ∧ KeepsCores c s t ∧ KeepsButCounters s t ∧
      t.ahead = s.ahead.filter (fun l => !(decide (l.group = s.groupOfCore c) && !l.data.isEmpty)) ∧
      (∀ r e, SMap.find t.reqs r = some e → ∃ d, SMap.find s.reqs r = some d ∧ e = { d with line := e.line }) ∧
      t.core c = { kept k with
        p := (t.core c).p, writeFailed := none
        fsFail := k.fsFail || k.writeFailed.isSome, failModule := k.writeFailed.getD k.failModule } ∧
      ∀ r, (t.core c).pred r = if r = pd ∧ pd ≠ 0 then k.writeFailed.isNone else k.pred r
    let ends := fun (t : State) => t = { s with cores := t.cores } ∧ KeepsCores c s t
    let waits := fun (i : Instr) (sc : Scope) (x : PReg) => ∃ t, exec i s = .next t ∧ OnlyCore c s t ∧
      t.core c = { s.issued c false with blocked := some (.fence sc x) }
    (Ready s c gd .never →
      done (.fenceL c gd 0 0 0 0) { s.issued c false with blocked := none } (OnlyCore c s) ∧
      (¬ writes → done (.fenceP c gd 0 0 0 0) { s.issued c false with blocked := none } (OnlyCore c s)) ∧
      (writes → waits (.fenceP c gd 0 0 0 0) .p 0) ∧
      (¬ busy → ¬ writes → done (.fenceD c gd 0 0 0 0) { s.issued c false with blocked := none } (OnlyCore c s)) ∧
      (busy ∨ writes → waits (.fenceD c gd 0 0 0 0) .d 0) ∧
      (¬ busy → ¬ writes → ¬ records → doneS (.fenceS c gd 0 0 0 pd) { s.issued c false with blocked := none }) ∧
      (busy ∨ writes ∨ records → waits (.fenceS c gd 0 0 0 pd) .s pd)) ∧
    (s.issueHeld c = false → (s.core c).pc ≠ lastPc →
      (∀ x, (s.core c).blocked = some (.fence .p x) → ¬ writes → done (.fenceComplete c) { s.core c with blocked := none } ends) ∧
      (∀ x, (s.core c).blocked = some (.fence .d x) → ¬ busy → ¬ writes → done (.fenceComplete c) { s.core c with blocked := none } ends) ∧
      ((s.core c).blocked = some (.fence .s pd) → ¬ busy → ¬ writes → ¬ records →
        doneS (.fenceComplete c) { s.core c with blocked := none })))

/-- R58, R60, R406: a load, a store and an atomic operation at an address of SRAM or HBM. LD extends the 2^SZ bytes there into rd, ST
stores the low 2^SZ bytes of rs2, AMO writes FN's operation of the old value and rs2 and returns the old value in rd. A 64-byte unit of
core-local SRAM that the job does not own reads zeros, and becomes the job's, the rest of it zeros, by a write; every other byte of memory
reads as before. R58, R59: a misaligned access faults with CC_MISALIGNED (0x29), one beyond the 48-bit space with 0x80. -/
def Obligations.MemoryAccesses : Prop :=
  (∀ (c : CoreId) (gd : Guard) (s : State),
    let k := s.core c
    let ram := fun (va : Word) (n : Nat) (write : Bool) (pa : Nat) => va.toNat % n = 0 ∧ va.toNat < 2 ^ 48 ∧
      isPrivate va.toNat = false ∧ (∃ cache, s.translate k.job va.toNat write = .ok (pa, cache)) ∧ s.barred pa = none ∧ isRam pa = true
    let lost := fun (pa a : Nat) => pa < sharedBase ∧ a / 64 = pa / 64 ∧ s.ownerOf (pa / 64) ≠ k.job
    let val := fun (pa n : Nat) => if lost pa pa then 0 else leNat ((List.range n).map (fun j => s.byte (pa + j)))
    let stores := fun (t : State) (pa n : Nat) (v : Word) =>
      t = { s with eff := t.eff, cores := t.cores, mem := t.mem, owner := t.owner, ahead := t.ahead } ∧ KeepsCores c s t ∧
      KeepsWindows s t ∧
      (∀ a, t.byte a = if pa ≤ a ∧ a < pa + n then BitVec.ofNat 8 (v.toNat >>> (8 * (a - pa))) else if lost pa a then 0 else s.byte a) ∧
      ∀ u, t.ownerOf u = if lost pa pa ∧ u = pa / 64 then k.job else s.ownerOf u
    (∀ (rd rs1 : GReg) (sz : BitVec 2) (sx : Bool) (imm : BitVec 9) (pa : Nat), Ready s c gd .load → ¬ (sx = true ∧ sz = 3) →
      let n : Nat := 2 ^ sz.toNat
      ram (k.greg rs1 + BitVec.ofInt 64 (imm.toInt * n)) n false pa → s.poisoned pa n = false →
      ∃ t, exec (.ld c gd rd rs1 sz sx imm) s = .next t ∧ t = { s with eff := t.eff, cores := t.cores, ahead := t.ahead } ∧
        KeepsCores c s t ∧ KeepsWindows s t ∧
        t.core c = { s.issued c true with g := (t.core c).g, pc := k.pc + 4, lastMiss := (t.core c).lastMiss } ∧
        ∀ r, (t.core c).greg r = if r = rd ∧ rd ≠ 0 then
          (if sx then BitVec.ofInt 64 (BitVec.ofNat (8 * n) (val pa n)).toInt else BitVec.ofNat 64 (val pa n)) else k.greg r) ∧
    (∀ (rs2 rs1 : GReg) (sz : BitVec 2) (imm : BitVec 9) (pa : Nat), Ready s c gd .never →
      let n : Nat := 2 ^ sz.toNat
      ram (k.greg rs1 + BitVec.ofInt 64 (imm.toInt * n)) n true pa →
      ∃ t, exec (.st c gd rs2 rs1 sz false imm) s = .next t ∧ stores t pa n (k.greg rs2) ∧
        t.core c = { s.issued c false with pc := k.pc + 4 }) ∧
    (∀ (rd rs1 rs2 : GReg) (fn : BitVec 7) (pa : Nat), Ready s c gd .never → fn.extractLsb' 0 2 = 0 → fn.extractLsb' 4 3 ≠ 7 →
      ram (k.greg rs1) 8 true pa → s.poisoned pa 8 = false → (fn.getLsbD 2 = true → s.writesPending c = false) →
      let old := BitVec.ofNat 64 (val pa 8)
      let b := k.greg rs2
      let op := fn.toNat / 16
      let new := if op = 0 then b else if op = 1 then old + b else if op = 2 then old &&& b else if op = 3 then old ||| b
        else if op = 4 then (if old.toNat ≤ b.toNat then b else old) else if op = 5 then (if b.toNat ≤ old.toNat then b else old)
        else if old = k.greg rd then b else old
      ∃ t, exec (.amo c gd rd rs1 rs2 fn) s = .next t ∧ stores t pa 8 new ∧
        t.core c = { s.issued c false with g := (t.core c).g, pc := k.pc + 4 } ∧
        ∀ r, (t.core c).greg r = if r = rd ∧ rd ≠ 0 then old else k.greg r)) ∧
  (∀ (c : CoreId) (gd : Guard) (s : State), Ready s c gd .never →
    let k := s.core c
    let faults := fun (i : Instr) (va : Word) (n : Nat) =>
      (va.toNat % n ≠ 0 → FaultsWith i s c 0x29 (va.toNat % 2 ^ 48)) ∧
      (va.toNat % n = 0 → 2 ^ 48 ≤ va.toNat → ∃ t, exec i s = .next t ∧
        t = { s with eff := t.eff, cores := t.cores, stem := t.stem, trace := t.trace } ∧ KeepsCores c s t ∧
        (t.core c).state = .faulted ∧ (t.core c).faultCode = 0x80 ∧ (t.core c).faultAddr = va.extractLsb' 0 48 ∧
        (t.core c).g = k.g ∧ (t.core c).p = k.p ∧ (t.core c).pc = k.pc)
    (∀ (rd rs1 : GReg) (sz : BitVec 2) (sx : Bool) (imm : BitVec 9), ¬ (sx = true ∧ sz = 3) →
      faults (.ld c gd rd rs1 sz sx imm) (k.greg rs1 + BitVec.ofInt 64 (imm.toInt * 2 ^ sz.toNat)) (2 ^ sz.toNat)) ∧
    (∀ (rs2 rs1 : GReg) (sz : BitVec 2) (imm : BitVec 9),
      faults (.st c gd rs2 rs1 sz false imm) (k.greg rs1 + BitVec.ofInt 64 (imm.toInt * 2 ^ sz.toNat)) (2 ^ sz.toNat)) ∧
    (∀ (rd rs1 rs2 : GReg) (fn : BitVec 7), fn.extractLsb' 0 2 = 0 → fn.extractLsb' 4 3 ≠ 7 →
      faults (.amo c gd rd rs1 rs2 fn) (k.greg rs1) 8))

/-- R66–R68, R260: QPUT appends the word of g[rg] to g[rg+3] to its queue, QGET takes the queue's first word, its end mark to pe; QCNT
counts the words and the end marks. A queue whose other job is not live discards the word and counts it (R262). A word of a cadence
channel is seen taken (R238). R66, R67: on a queue that is not bound to the job, or bound for the other direction, QPUT and QGET fault
with CC_QUEUE_UNBOUND (0x2B); where the word cannot move now, the form with NB = 1 clears ps alone and goes on, the other waits in the
queue's line. R35: a QPUT with REL also waits for the core's fabric writes; after a QGET with ACQ on a queue of scope S no cached line of a
peer's memory is used (log entry 69). That the write of ps stands where ps = pe is the model's choice (log entry 70), as is that QCNT counts
an unbound queue (log entry 71). -/
def Obligations.QueueInstructions : Prop :=
  (∀ (c : CoreId) (gd : Guard) (rg rq : GReg) (s : State), Ready s c gd .never →
    let k := s.core c
    let q := (k.greg rq).toNat % 2 ^ 12
    let x := s.queue q
    let word : BitVec 256 := k.greg (rg + 3) ++ k.greg (rg + 2) ++ k.greg (rg + 1) ++ k.greg rg
    let moved := fun (t : State) => KeepsCores c s t ∧ CountsIssue c s t ∧ (∀ n, n ≠ q → t.queue n = s.queue n)
    (∀ (oq : BitVec 2) (e nb : Bool) (ps : PReg), rg.toNat % 4 = 0 → rg ≠ 0 → oq ≠ 3 → (nb = true ∨ ps = 0) →
      s.boundPut q k.job = true → s.qBound q = true → x.waiting = [] → s.hasRoom q = true →
      (oq = 1 → s.writesPending c = false) →
      ∃ t, exec (.qput c gd rg rq oq e nb 0 ps 0) s = .next t ∧
        t = { s with eff := t.eff, cores := t.cores, stem := t.stem, trace := t.trace } ∧ moved t ∧
        t.core c = { s.issued c false with p := (t.core c).p, pc := k.pc + 4 } ∧
        (∀ r, (t.core c).pred r = if nb = true ∧ r = ps ∧ ps ≠ 0 then true else k.pred r) ∧
        t.queue q = { x with words := x.words ++ [{ data := word, last := e, tick := 0 }]
                             pos := if x.words = [] ∨ 8 ≤ x.pos then 1 else x.pos + 1 }) ∧
    (∀ (oq : BitVec 2) (e nb : Bool) (ps : PReg), rg.toNat % 4 = 0 → rg ≠ 0 → oq ≠ 3 → (nb = true ∨ ps = 0) →
      s.boundPut q k.job = true → s.qBound q = false → x.waiting = [] →
      (oq = 1 → s.writesPending c = false) →
      ∃ t, exec (.qput c gd rg rq oq e nb 0 ps 0) s = .next t ∧
        t = { s with eff := t.eff, cores := t.cores, trace := t.trace } ∧ KeepsCores c s t ∧
        t.core c = { s.issued c false with p := (t.core c).p, pc := k.pc + 4 } ∧
        (∀ r, (t.core c).pred r = if nb = true ∧ r = ps ∧ ps ≠ 0 then true else k.pred r) ∧
        t.reg Reg.stmDiscard = s.reg Reg.stmDiscard + 1) ∧
    (∀ (oq : BitVec 2) (nb : Bool) (pe ps : PReg) (w : QWord) (rest : List QWord), rg.toNat % 4 = 0 → rg ≠ 0 → oq ≠ 3 →
      s.boundGet q k.job = true → x.words = w :: rest → x.getters = [] →
      ∃ t, exec (.qget c gd rg rq oq false nb pe ps 0) s = .next t ∧
        t = { s with eff := t.eff, cores := t.cores, stem := t.stem, cadence := t.cadence, trace := t.trace, ahead := t.ahead, reqs := t.reqs } ∧
        KeepsCores c s t ∧ KeepsButCounters s t ∧ (∀ n, n ≠ q → t.queue n = s.queue n) ∧
        (¬(oq = 2 ∧ s.qScope q = .s) → t.ahead = s.ahead ∧ t.reqs = s.reqs ∧ CountsIssue c s t) ∧
        (oq = 2 → s.qScope q = .s → t.ahead = s.ahead.filter (fun l => !(decide (l.group = s.groupOfCore c) && !l.data.isEmpty))) ∧
        t.core c = { s.issued c false with g := (t.core c).g, p := (t.core c).p, pc := k.pc + 4 } ∧
        (∀ r : GReg, (t.core c).greg r =
          if rg.toNat ≤ r.toNat ∧ r.toNat < rg.toNat + 4 then w.data.extractLsb' (64 * (r.toNat - rg.toNat)) 64 else k.greg r) ∧
        (∀ r, (t.core c).pred r = if nb = true ∧ r = ps ∧ ps ≠ 0 then true else if r = pe ∧ pe ≠ 0 then w.last else k.pred r) ∧
        t.queue q = { x with words := rest } ∧
        ∀ ch, t.cad ch = if w.tick = ch + 1 then { s.cad ch with waiting := false, taken := s.now } else s.cad ch) ∧
    (∀ rd : GReg, WritesG (.qcnt c gd rd rq 0 0) s c rd
      (BitVec.ofNat 64 (x.words.length + (x.words.filter (fun w => w.last)).length * 2 ^ 32)))) ∧
  (∀ (c : CoreId) (gd : Guard) (rg rq : GReg) (oq : BitVec 2) (s : State), Ready s c gd .never → rg.toNat % 4 = 0 → rg ≠ 0 → oq ≠ 3 →
    let k := s.core c
    let q := (k.greg rq).toNat % 2 ^ 12
    let x := s.queue q
    let word : BitVec 256 := k.greg (rg + 3) ++ k.greg (rg + 2) ++ k.greg (rg + 1) ++ k.greg rg
    (s.boundPut q k.job = false → ∀ (e nb : Bool) (ps : PReg), (nb = true ∨ ps = 0) →
      FaultsWith (.qput c gd rg rq oq e nb 0 ps 0) s c 0x2B 0) ∧
    (s.boundGet q k.job = false → ∀ (nb : Bool) (pe ps : PReg), FaultsWith (.qget c gd rg rq oq false nb pe ps 0) s c 0x2B 0) ∧
    (s.boundPut q k.job = true → x.waiting ≠ [] ∨ s.hasRoom q = false ∨ (oq = 1 ∧ s.writesPending c = true) →
      ∀ (e : Bool) (ps : PReg), WritesP (.qput c gd rg rq oq e true 0 ps 0) s c ps false ∧
        ∃ t, exec (.qput c gd rg rq oq e false 0 0 0) s = .next t ∧
          t = { s with eff := t.eff, cores := t.cores, stem := t.stem } ∧ KeepsCores c s t ∧ CountsIssue c s t ∧
          t.core c = { s.issued c false with blocked := some (.qput (BitVec.ofNat 12 q) (decide (oq = 1))) } ∧
          t.queue q = { x with waiting := x.waiting ++ [{ who := .core c, word := { data := word, last := e, tick := 0 } }] } ∧
          ∀ n, n ≠ q → t.queue n = s.queue n) ∧
    (s.boundGet q k.job = true → x.words = [] ∨ x.getters ≠ [] →
      ∀ pe ps : PReg, WritesP (.qget c gd rg rq oq false true pe ps 0) s c ps false ∧
        ∃ t, exec (.qget c gd rg rq oq false false pe ps 0) s = .next t ∧
          t = { s with eff := t.eff, cores := t.cores, stem := t.stem } ∧ KeepsCores c s t ∧ CountsIssue c s t ∧
          t.core c = { s.issued c false with blocked := some (.qget (BitVec.ofNat 12 q) rg pe (decide (oq = 2))) } ∧
          t.queue q = { x with getters := x.getters ++ [c] } ∧ ∀ n, n ≠ q → t.queue n = s.queue n))

/-- R67, R260, R263: the first waiting put of a queue enters when it has room; the core whose QGET waits first receives the first word.
Both cores go on. -/
def Obligations.WaitingQueueInstructions : Prop :=
  ∀ (c : CoreId) (q : BitVec 12) (s : State),
    let k := s.core c
    let x := s.queue q.toNat
    (s.core c).pc ≠ lastPc → s.issueHeld c = false →
    (∀ (rel : Bool) (w : QWord) (rest : List PutWait), k.blocked = some (.qput q rel) → x.waiting = { who := .core c, word := w } :: rest →
      s.qBound q.toNat = true → s.hasRoom q.toNat = true → (rel = true → s.writesPending c = false) → s.stopped = false →
      ∃ t, exec (.qputUnblock q) s = .next t ∧ t = { s with cores := t.cores, stem := t.stem, trace := t.trace } ∧ KeepsCores c s t ∧
        t.core c = { k with blocked := none, pc := k.pc + 4 } ∧
        t.queue q.toNat = { x with waiting := rest, words := x.words ++ [w], pos := if x.words = [] ∨ 8 ≤ x.pos then 1 else x.pos + 1 } ∧
        ∀ n, n ≠ q.toNat → t.queue n = s.queue n) ∧
    (∀ (rg : GReg) (pe : PReg) (acq : Bool) (w : QWord) (rest : List QWord) (others : List CoreId), k.blocked = some (.qget q rg pe acq) →
      x.words = w :: rest → x.getters = c :: others → 0 < rg.toNat → rg.toNat ≤ 28 →
      ∃ t, exec (.qgetUnblock c) s = .next t ∧
        t = { s with eff := t.eff, cores := t.cores, stem := t.stem, cadence := t.cadence, trace := t.trace, ahead := t.ahead, reqs := t.reqs } ∧
        KeepsButCounters s t ∧ (¬(acq = true ∧ s.qScope q.toNat = .s) → t.eff = s.eff ∧ t.ahead = s.ahead ∧ t.reqs = s.reqs) ∧
        KeepsCores c s t ∧ t.core c = { k with g := (t.core c).g, p := (t.core c).p, blocked := none, pc := k.pc + 4 } ∧
        (∀ r : GReg, (t.core c).greg r =
          if rg.toNat ≤ r.toNat ∧ r.toNat < rg.toNat + 4 then w.data.extractLsb' (64 * (r.toNat - rg.toNat)) 64 else k.greg r) ∧
        (∀ r, (t.core c).pred r = if r = pe ∧ pe ≠ 0 then w.last else k.pred r) ∧
        t.queue q.toNat = { x with words := rest, getters := others } ∧ (∀ n, n ≠ q.toNat → t.queue n = s.queue n) ∧
        ∀ ch, t.cad ch = if w.tick = ch + 1 then { s.cad ch with waiting := false, taken := s.now } else s.cad ch)

/-- R69, R70, R77: ENQ takes the 64 bytes of g[rg] to g[rg+7] where the engine queue has a free entry and the named slot holds no
uncompleted command. A command that passes the acceptance checks makes its slot busy and enters the queue; one that fails completes at
once with the first failing check's code in its slot. Otherwise ENQ with NB = 1 clears ps, and without it waits; ENQ_ACCEPT ends the wait.
R71: WAIT reads a slot into rd: zero of a free slot, the status word of a completed command. On a slot whose command has not completed,
WAIT with NB = 1 goes on with DONE = 0 and ps = 0, the other bits free (the model's reading, log entry 11), and the blocking form waits;
WAIT_RETURN ends the wait. A slot keeps what it holds. -/
def Obligations.EnqueueingAndWaiting : Prop :=
  (∀ (c : CoreId) (s : State), (s.core c).pc ≠ lastPc →
    let k := s.core c
    let taken := fun (i : Instr) (qid : BitVec 16) (word : List Byte) (nb : Bool) (ps : PReg) (k' : Core) =>
      let slot := cmdSlot word
      let gone := { k' with slots := k'.slots, p := k'.p, pc := k'.pc + 4 }
      (s.acceptance c (qid.toNat / 4096) (qid.toNat % 4096) word = none →
        ∃ t d, exec i s = .next t ∧
          t = { s with eff := t.eff, cores := t.cores, cmds := s.cmds ++ [d], nextCmd := s.nextCmd + 1, flows := t.flows, trace := t.trace } ∧
          d.id = s.nextCmd ∧ d.cls = qid.toNat / 4096 ∧ d.inst = qid.toNat % 4096 ∧ d.core = c ∧ d.job = k.job ∧ d.word = word ∧
          d.phase = .queued ∧ d.since = s.now ∧ d.granted = false ∧ KeepsCores c s t ∧ KeepsRegs (issueRegs c) s t ∧
          t.core c = { gone with slots := (t.core c).slots, p := (t.core c).p } ∧
          (∀ j, (t.core c).slot j = if j = slot then .busy else k.slot j) ∧
          ∀ r, (t.core c).pred r = if nb = true ∧ r = ps ∧ ps ≠ 0 then true else k.pred r) ∧
      (∀ code, s.acceptance c (qid.toNat / 4096) (qid.toNat % 4096) word = some code →
        ∃ t, exec i s = .next t ∧ t = { s with eff := t.eff, cores := t.cores, stem := t.stem, trace := t.trace } ∧ KeepsCores c s t ∧
          KeepsButCounters s t ∧ t.core c = { gone with slots := (t.core c).slots, p := (t.core c).p } ∧
          (∀ j, (t.core c).slot j =
            if j = slot then .done (BitVec.ofNat 64 (cmdTag word * 2 ^ 16 + 2 ^ 8 + code.toNat)) else k.slot j) ∧
          ∀ r, (t.core c).pred r = if nb = true ∧ r = ps ∧ ps ≠ 0 then true else k.pred r)
    (∀ (gd : Guard) (rg re : GReg) (nb : Bool) (ps : PReg), Ready s c gd .never → rg = 8 ∨ rg = 16 ∨ rg = 24 →
      let qid := (k.greg re).extractLsb' 0 16
      let word := ((List.range 8).map (fun i => toLE 8 (k.greg (rg + BitVec.ofNat 5 i)).toNat)).flatten
      (s.canAccept c qid word = true → taken (.enq c gd rg re nb ps 0) qid word nb ps (s.issued c false)) ∧
      (s.canAccept c qid word = false →
        WritesP (.enq c gd rg re true ps 0) s c ps false ∧
        ∃ t, exec (.enq c gd rg re false ps 0) s = .next t ∧ OnlyCore c s t ∧
          t.core c = { s.issued c false with blocked := some (.enq qid word) })) ∧
    (∀ (qid : BitVec 16) (word : List Byte), k.blocked = some (.enq qid word) → s.canAccept c qid word = true → s.issueHeld c = false →
      taken (.enqAccept c) qid word false 0 { k with blocked := none })) ∧
  (∀ (c : CoreId) (s : State), (s.core c).pc ≠ lastPc →
    let k := s.core c
    let reads := fun (i : Instr) (k' : Core) (rd : GReg) (v : Word) (nb : Bool) (ps : PReg) (b : Bool) (fr : Nat) =>
      ∃ t, exec i s = .next t ∧ t = { s with eff := t.eff, cores := t.cores, free := fr } ∧ KeepsCores c s t ∧
        KeepsRegs (issueRegs c) s t ∧ t.core c = { k' with g := (t.core c).g, p := (t.core c).p, pc := k.pc + 4 } ∧
        (∀ r, (t.core c).greg r = if r = rd ∧ rd ≠ 0 then v else k.greg r) ∧
        ∀ r, (t.core c).pred r = if nb = true ∧ r = ps ∧ ps ≠ 0 then b else k.pred r
    (∀ (gd : Guard) (rd : GReg) (slot : BitVec 6) (nb : Bool) (ps : PReg), Ready s c gd .never →
      (k.slot slot.toNat = .free → reads (.wait c gd rd slot nb ps 0) (s.issued c false) rd 0 nb ps false s.free) ∧
      (∀ w, k.slot slot.toNat = .done w → reads (.wait c gd rd slot nb ps 0) (s.issued c false) rd w nb ps true s.free) ∧
      (k.slot slot.toNat = .busy →
        (∃ v : Word, v.getLsbD 8 = false ∧
          reads (.wait c gd rd slot true ps 0) (s.issued c false) rd v true ps false (s.free + 1)) ∧
        ∃ t, exec (.wait c gd rd slot false ps 0) s = .next t ∧ OnlyCore c s t ∧
          t.core c = { s.issued c false with blocked := some (.wait slot rd) })) ∧
    (∀ (rd : GReg) (slot : BitVec 6) (w : Word), k.blocked = some (.wait slot rd) → k.slot slot.toNat = .done w →
      s.issueHeld c = false → reads (.waitReturn c) { k with blocked := none } rd w false 0 false s.free))

/-! ### Engine commands -/

/-- R31, R77, R78: a queued command that queue order, ORD, the module, the issuing core's earlier stores and (for a hub engine) the
scheduler let start leaves its phase for the start checks' outcome: it is done with the code of the first failing check, done with 0x00
where its operands leave nothing to do, or started with the descriptors it read, a merge's MERGING set; a NOP always starts; where the
checks need peers' memory it asks for that and stays queued. R183: a kernel command that may not write where it would ends without doing
so. R79, Table 3.11: a command whose work is done and whose fabric writes are acknowledged completes: it leaves its queue, its status word,
DONE set, stands in the issuing core's slot while the core still runs the command's job, HUB_NUMF_STICKY takes its numeric flags, and with
NOTIFY_EN = 1 the notify word enters a bound NOTIFY_Q that has room and no line; a failed write's code takes the place of 0x00 (R247). An
engine NOP completes so with 0x00. -/
def Obligations.CommandsStartAndComplete : Prop :=
  (∀ (id : Nat) (ext : Ext) (c : Cmd) (s : State), s.cmd id = some c → s.startable c = true →
    let d := { c with phase := .started, started := s.now }
    let found := (s.setCmd d).startCheck c.agent d
    let becomes := fun (e : Cmd) => ∃ t, exec (.commandStart id ext) s = .next t ∧
      t = { s with eff := t.eff, vocab := t.vocab, grammar := t.grammar, cmds := t.cmds } ∧ t.cmd id = some e ∧
      (∀ j, j ≠ id → t.cmd j = s.cmd j) ∧ ∀ a, (∀ j, s.job c.job = some j → a ≠ Reg.hubMmuFault j.group) → t.reg a = s.reg a
    (cmdOpcode c.word = 0 → c.mayWrite = none → becomes { d with descs := [] }) ∧
    (∀ f, found = .fail f → f.awaits = [] → (c.mayWrite = none ∨ f.isFault = false) → becomes { d with phase := .done f.code 0 }) ∧
    (∀ f, found = .fail f → f.awaits ≠ [] → exec (.commandStart id ext) s = .next (s.fetch c c.cls3 f.awaits)) ∧
    (found = .zero → becomes { d with phase := .done 0 0 }) ∧
    (∀ ds, found = .go ds → ({ d with descs := ds } : Cmd).writesOutside = false → ¬(c.cls = 2 ∧ cmdOpcode c.word = 4) →
      becomes { d with descs := ds }) ∧
    (∀ ds, found = .go ds → ({ d with descs := ds } : Cmd).writesOutside = true →
      ∃ t, exec (.commandStart id ext) s = .next t ∧ t = { s with sessions := t.sessions, cmds := t.cmds } ∧
        t.cmd id = some { d with descs := ds, phase := .done 0 0 } ∧ ∀ j, j ≠ id → t.cmd j = s.cmd j) ∧
    (∀ ds, found = .go ds → c.cls = 2 → cmdOpcode c.word = 4 → c.mayWrite = none →
      ∃ t, exec (.commandStart id ext) s = .next t ∧ EngineFrame s t c ∧ t.cmd id = some { d with descs := ds } ∧
        t.mem = ((s.setCmd { d with descs := ds }).store c.agent c.core c.cls3 (c.n 16 8 + 80) [1] false).mem)) ∧
  (∀ (id : Nat) (c : Cmd) (s : State), s.cmd id = some c → s.stopped = false → s.fatal = false → s.writesOpen id = false →
    s.rowsOpen c = false →
    let done := fun (i : Instr) (status : Byte) (result : BitVec 32) =>
      let code := if status = 0 then (SMap.find s.writeFail id).getD 0 else status
      let st : Word := result ++ BitVec.ofNat 16 (cmdTag c.word) ++ (1 : BitVec 8) ++ code
      let slot := cmdSlot c.word
      let q := cmdNotifyQ c.word
      let gone := fun (t : State) => t.cmd id = none ∧ (∀ j, j ≠ id → t.cmd j = s.cmd j) ∧ SMap.find t.writeFail id = none ∧
        (∀ o ∈ t.old, o.cmd ≠ id + 1) ∧
        (∀ b < 8, (t.reg Reg.hubNumfSticky).getLsbD b =
          ((s.reg Reg.hubNumfSticky).getLsbD b || (decide (0 < b) && result.getLsbD (24 + b)))) ∧
        ∀ a, a ≠ Reg.hubNumfSticky → ¬ CounterReg a → t.reg a = s.reg a
      (c.session ≠ 0 →
        ∃ t, exec i s = .next t ∧ gone t ∧
          t = { s with eff := t.eff, cmds := t.cmds, writeFail := t.writeFail, old := t.old, rowWork := t.rowWork
                       rowReads := t.rowReads, sessions := t.sessions }) ∧
      (c.session = 0 →
        ∃ t, exec i s = .next t ∧ gone t ∧
          t = { s with eff := t.eff, cores := t.cores, cmds := t.cmds, writeFail := t.writeFail, old := t.old, rowWork := t.rowWork
                       rowReads := t.rowReads, stem := t.stem, trace := t.trace } ∧
          KeepsCores c.core s t ∧ t.core c.core = { s.core c.core with slots := (t.core c.core).slots } ∧
          (∀ j, (t.core c.core).slot j =
            if j = slot ∧ (s.core c.core).job = c.job then .done st else (s.core c.core).slot j) ∧
          (cmdNotifyEn c.word = true → s.boundPut q c.job = true → s.qBound q = true → (s.queue q).waiting = [] → s.hasRoom q = true →
            (t.queue q).words = (s.queue q).words ++
              [{ data := BitVec.ofNat 256 (st.toNat + slot * 2 ^ 64 + c.core.toNat * 2 ^ 72), last := true, tick := 0
                 origin := c.core.toNat + 1 }]) ∧
          ((cmdNotifyEn c.word = false ∨ s.boundPut q c.job = false) → t.stem = s.stem))
    (∀ (status : Byte) (result : BitVec 32), c.phase = .done status result → done (.commandComplete id) status result) ∧
    (c.phase = .started → c.suspended = false → cmdOpcode c.word = 0 → done (.engineNop id) 0 0))

/-- R329, R336: where the scheduler of a hub engine chooses, one item is chosen: of class 0 if one is eligible, else of class 1 if one is;
its command may start, its flow's start tag becomes the engine's virtual time. At Hollyhock PF1's I/O commands are candidates too (R275). -/
def Obligations.SchedulerGrants : Prop :=
  ∀ (e : BitVec 4) (s : State), 2 ≤ e.toNat → e.toNat ≤ 8 →
    let cs := s.hubCandidates e.toNat
    let eligible := fun (x : Candidate) => x ∈ cs ∧ shaperOpen x.shaper (s.flow x.bucket) s.now = true
    (∃ x, eligible x) →
    ∃ x, s.pick cs = some x ∧ eligible x ∧ ((∃ y, eligible y ∧ y.cls = 0) → x.cls = 0) ∧ ((∃ y, eligible y ∧ y.cls = 1) → x.cls ≤ 1) ∧
      (x.pf1 = true → e = 8) ∧
      (∀ c, x.pf1 = false → s.cmd x.item = some c →
        ∃ t, exec (.engineDispatch e) s = .next t ∧ t = { s with free := s.free + 1, cmds := t.cmds, flows := t.flows, vtime := t.vtime } ∧
          t.cmd x.item = some { c with granted := true } ∧ (∀ j, j ≠ x.item → t.cmd j = s.cmd j) ∧
          t.virt (100 + e.toNat) = (s.flow x.key).start ∧ ∀ k, k ≠ 100 + e.toNat → t.virt k = s.virt k) ∧
      ∀ c, x.pf1 = true → s.nvme x.item = some c →
        ∃ t, exec (.engineDispatch e) s = .next t ∧ t = { s with free := s.free + 1, pf1 := { s.pf1 with cmds := t.pf1.cmds }, flows := t.flows, vtime := t.vtime } ∧
          (∀ j, t.nvme j = if j = x.item then some { c with granted := true } else s.nvme j) ∧ t.virt 108 = (s.flow x.key).start

/-- R113, R115, R116, R121: PNY_LOAD_W fills one stationary set from its descriptor; PNY_MMA adds Σk A[m, k] · B[n, k], in groups of 32
(R97), into each accumulator element of its window, or starts it from +0 with OVERWRITE = 1; PNY_ACC_CLEAR writes +0 into its window.
Other accumulators, sets and cores keep what they hold, and memory is not written. -/
def Obligations.PeonyArrayCommands : Prop :=
  ∀ (id : Nat) (ext : Ext) (c : Cmd) (s : State), s.peonyTurn c = true → c.inst < 48 →
    let a := c.agent
    let p := s.peonyAt c.inst
    let frame := fun (t : State) => t = { s with eff := t.eff, peony := t.peony, cmds := t.cmds } ∧ KeepsWindows s t ∧
      ∀ n, n ≠ c.inst → t.peonyAt n = s.peonyAt n
    (s.working id 0 1 = some c →
      let d := c.desc (c.n 16 8)
      let rows := c.n 28 2
      let k := c.n 30 2
      let reads := d.readRegion (c.n 24 2) rows
      s.readable a reads = .ok () →
      ∃ t, exec (.pnyLoadW id ext) s = .next t ∧ frame t ∧ t.eff = s.eff ∧ WorkEnds s t c (doneOrPoisoned (s.regionsPoisoned a reads)) 0 ∧
        (t.peonyAt c.inst).acc = p.acc ∧ (t.peonyAt c.inst).set (!(c.bit 32 0)) = p.set (!(c.bit 32 0)) ∧
        let st := (t.peonyAt c.inst).set (c.bit 32 0)
        st.valid = true ∧ st.fmt = d.fmt ∧ st.rows = rows ∧ st.kext = k ∧ st.scale = d.tscale ∧
        ∀ r < rows, st.row r k = (List.range k).map (fun j => s.arrayElem a d (c.n 24 2 + r) (c.n 26 2 + j))) ∧
    (s.working id 0 2 = some c → c.df ≤ 2 →
      let m := c.n 38 2
      let n := c.n 40 2
      let k := c.n 42 2
      let st := p.set (c.bit 46 2)
      let da := c.desc (c.n 16 8)
      let db := c.desc (c.n 24 8)
      let rowA := fun i => if c.df = 2 then st.row i k else s.arrayRow a da (c.n 32 2 + i) (c.n 36 2) k
      let rowB := fun j => if c.df = 0 then st.row j k else s.arrayRow a db (c.n 34 2 + j) (c.n 36 2) k
      let place := fun i j => if c.df = 2 then (c.n 44 2 + j, i) else (c.n 44 2 + i, j)
      let reads := (if c.df = 2 then [] else da.readRegion (c.n 32 2) m) ++ (if c.df = 0 then [] else db.readRegion (c.n 34 2) n)
      (if c.df = 2 then m else n) ≤ 512 → s.readable a reads = .ok () →
      ∃ t r, exec (.pnyMma id ext) s = .next t ∧ frame t ∧ WorkEnds s t c (doneOrPoisoned (s.regionsPoisoned a reads)) r ∧
        (t.peonyAt c.inst).set0 = p.set0 ∧ (t.peonyAt c.inst).set1 = p.set1 ∧
        (∀ i < m, ∀ j < n, (t.peonyAt c.inst).at (place i j).1 (place i j).2 =
          (accumulate (if c.df = 2 then st.fmt else da.fmt) (if c.df = 0 then st.fmt else db.fmt) (k / 32 + 1)
            (if c.bit 46 3 then 0 else p.at (place i j).1 (place i j).2) ((rowA i).zip (rowB j))).1) ∧
        ∀ row col, col < 512 → (∀ i < m, ∀ j < n, place i j ≠ (row, col)) → (t.peonyAt c.inst).at row col = p.at row col) ∧
    (s.working id 0 6 = some c → c.n 20 2 + c.n 22 2 ≤ 512 →
      ∃ t, exec (.pnyAccClear id ext) s = .next t ∧ frame t ∧ t.eff = s.eff ∧ WorkEnds s t c 0x00 0 ∧
        (t.peonyAt c.inst).set0 = p.set0 ∧ (t.peonyAt c.inst).set1 = p.set1 ∧
        ∀ row col, col < 512 → (t.peonyAt c.inst).at row col =
          if c.n 16 2 ≤ row ∧ row < c.n 16 2 + c.n 18 2 ∧ c.n 20 2 ≤ col ∧ col < c.n 20 2 + c.n 22 2 then 0 else p.at row col)

/-- R106, R117, R119: PNY_STORE stores the accumulators of its window, converted, and clears them with CLEAR_AFTER = 1; PNY_VEC writes Z
in the accumulators or in memory, row by row its function of X and Y, ADD of accumulator windows giving the rounded sums; PNY_COPY stores
at its destination the bytes it reads at its source. Each command completes with 0x00, or 0xC0 where what it read was poisoned. -/
def Obligations.PeonyMemoryCommands : Prop :=
  ∀ (id : Nat) (ext : Ext) (c : Cmd) (s : State), c.inst < 48 →
    let a := c.agent
    let p := s.peonyAt c.inst
    (s.working id 0 3 = some c → s.peonyTurn c = true → c.n 32 2 + c.n 34 2 ≤ 512 →
      let d := c.desc (c.n 16 8)
      let scale := (fmul false false (c.f32 36) (c.f32 40)).1
      let val := fun r k => (storeValue d.fmt (c.bit 48 5) scale (c.f32 44) (p.at (c.n 28 2 + r) (c.n 32 2 + k))).1
      let win := if c.bit 48 0 then (List.range (c.n 34 2)).map (fun k => (List.range (c.n 30 2)).map (fun r => val r k))
        else (List.range (c.n 30 2)).map (fun r => (List.range (c.n 34 2)).map (fun k => val r k))
      ∃ t q r, exec (.pnyStore id ext) s = .next t ∧ EngineFrame { s with peony := t.peony } t c ∧ WorkEnds s t c 0x00 r ∧
        t.mem = ((s.setPeony c.inst q).storeRows a c.core c.cls3 d (c.bit 48 1) (c.bit 48 2) (c.bit 48 3) (c.n 24 2) (c.n 26 2) win
          false).1.mem ∧
        (∀ n, t.peonyAt n = if n = c.inst then q else s.peonyAt n) ∧ q.set0 = p.set0 ∧ q.set1 = p.set1 ∧
        ∀ row col, col < 512 → q.at row col =
          if c.bit 48 4 = true ∧ c.n 28 2 ≤ row ∧ row < c.n 28 2 + c.n 30 2 ∧ c.n 32 2 ≤ col ∧ col < c.n 32 2 + c.n 34 2 then 0
          else p.at row col) ∧
    (s.working id 0 4 = some c → s.peonyTurn c = true → s.readable a c.vecReads = .ok () →
      let rows := c.n 44 2
      let cols := c.n 46 2
      let func := c.n 48 1
      let x := fun r => (s.vecRow a c 0 r cols).map Prod.fst
      let y := fun r => (s.vecRow a c 1 r cols).map Prod.fst
      let out := fun r => (vecRowFn c (x r) (if vecPairwise func then y r else []) (if func = 0x13 ∨ func = 0x14 then y 0 else [])
        (if func = 0x14 then y 1 else [])).1
      let z := c.vecOrigin 2
      let w := (c.vecDims 2).2
      let bad := s.regionsPoisoned a c.vecReads
      (c.inAcc 2 = true → z.2 + w ≤ 512 →
        ∃ t r, exec (.pnyVec id ext) s = .next t ∧ t = { s with eff := t.eff, peony := t.peony, cmds := t.cmds } ∧ KeepsWindows s t ∧
          WorkEnds s t c (doneOrPoisoned bad) r ∧ (∀ n, n ≠ c.inst → t.peonyAt n = s.peonyAt n) ∧
          (t.peonyAt c.inst).set0 = p.set0 ∧ (t.peonyAt c.inst).set1 = p.set1 ∧
          (∀ i < rows, ∀ j < w, (t.peonyAt c.inst).at (z.1 + i) (z.2 + j) = (out i).getD j 0) ∧
          ∀ row col, col < 512 → ¬ (z.1 ≤ row ∧ row < z.1 + rows ∧ z.2 ≤ col ∧ col < z.2 + w) → (t.peonyAt c.inst).at row col = p.at row col) ∧
      (c.inAcc 2 = false →
        let d := c.desc (c.n 32 8)
        let scaled := fun r => if usesRcp d.fmt then (out r).map (fun v => (fmul false false v (c.f32 60)).1) else out r
        ∃ t r, exec (.pnyVec id ext) s = .next t ∧ EngineFrame s t c ∧ WorkEnds s t c (doneOrPoisoned bad) r ∧
          t.mem = (s.storeRows a c.core c.cls3 d (c.bit 49 0) (c.bit 49 1) (c.bit 49 2) z.1 z.2 ((List.range rows).map scaled) bad).1.mem) ∧
      (func = 0x01 → c.inAcc 0 = true → c.inAcc 1 = true → c.bit 49 3 = false → ∀ r < rows,
        out r = (List.range cols).map (fun j => (fadd (c.bit 49 0) (c.bit 49 1) (p.at (c.n 16 2 + r) (c.n 18 2 + j))
          (p.at (c.n 24 2 + r) (c.n 26 2 + j))).1))) ∧
    (∀ bs, s.working id 0 5 = some c → s.load a (c.n 16 8) (c.n 32 4) = .ok bs →
      let bad := s.regionPoisoned a (c.n 16 8) (c.n 32 4)
      ∃ t, exec (.pnyCopy id ext) s = .next t ∧ EngineFrame s t c ∧ WorkEnds s t c (doneOrPoisoned bad) 0 ∧
        t.mem = (s.store a c.core c.cls3 (c.n 24 8) bs bad).mem ∧
        ∀ pa pb, s.pieces a (c.n 16 8) (c.n 32 4) false = .ok [(pa, c.n 32 4)] → s.pieces a (c.n 24 8) bs.length true = .ok [(pb, c.n 32 4)] →
          regionOf pa = .shared → regionOf pb = .shared → s.old = [] →
          ∀ x, t.byte x = if pb ≤ x ∧ x < pb + c.n 32 4 then s.byte (pa + (x - pb)) else s.byte x)

/-- R122–R130: LUP_GEMV stores Y = X · W with its epilogue; LUP_ATTN and LUP_TREE_VERIFY store the attention of each query row over its
sequence's positions, a verification over its node's path, and record the tree, a plain attention one node; LUP_KV_DISCARD commits the
flagged nodes and reports their number. Each completes with 0x00, or 0xC0 where what it read was poisoned. That ACCUM = 1 takes the old
element of Y without Y's TSCALE, and that DRAFT_OFF is set under DIS_DRAFT whatever KEEP holds, are the model's choices (log entries 77
and 79). -/
def Obligations.LupinCommands : Prop :=
  ∀ (id : Nat) (ext : Ext) (c : Cmd) (s : State), c.inst < 16 →
    let a := c.agent
    (s.working id 1 1 = some c →
      let w := c.desc (c.n 16 8)
      let x := c.desc (c.n 24 8)
      let y := c.desc (c.n 32 8)
      let reads := w.readRegion 0 w.rows ++ x.readRegion 0 x.rows ++ (if c.bit 44 3 then y.readRegion 0 y.rows else [])
      let bad := s.regionsPoisoned a reads
      let scale := (fmul false false w.tscale x.tscale).1
      let out := fun r n =>
        let u := (storeValue y.fmt (isIntFmt x.fmt) scale (c.f32 40)
          (accumulate x.fmt w.fmt (x.cols / 32 + 1) 0 ((s.arrayRow a x r 0 x.cols).zip (s.arrayRow a w n 0 w.cols))).1).1
        if c.bit 44 3 then (fadd false false u (BitVec.ofNat 32 (s.codeAt a y r n))).1 else u
      s.readable a reads = .ok () →
      ∃ t r, exec (.lupGemv id ext) s = .next t ∧ EngineFrame s t c ∧ WorkEnds s t c (doneOrPoisoned bad) r ∧
        t.mem = (s.storeRows a c.core c.cls3 y (c.bit 44 0) (c.bit 44 1) (c.bit 44 2) 0 0
          ((List.range x.rows).map (fun r => (List.range w.rows).map (out r))) bad).1.mem) ∧
    (let q := c.desc (c.n 16 8)
     let o := c.desc (c.n 32 8)
     let kvt := c.n 24 8
     let reads := q.readRegion 0 q.rows ++ s.attnReads c
     let bad := s.regionsPoisoned a reads
     let stored := fun (rowSeq : Nat → Nat) (nodes : Nat → List Nat) =>
       (s.storeRows a c.core c.cls3 o (c.bit 50 0) (c.bit 50 1) false 0 0
         ((List.range q.rows).map (fun r =>
           let e := c.seq kvt (rowSeq r)
           let pos := (List.range e.len).map (fun i => (false, i)) ++ (nodes r).map (fun n => (true, e.srow0 + n))
           ((List.range (c.n 44 2)).map (fun h => (s.attnHead a c q e (numAt (c.held kvt) 4 2) r h pos).1)).flatten)) bad).1.mem
     s.readable a reads = .ok () →
     (s.working id 1 2 = some c →
       let n := numAt (c.held kvt) 2 2
       ∃ t r, exec (.lupAttn id ext) s = .next t ∧ EngineFrame { s with trees := t.trees } t c ∧ WorkEnds s t c (doneOrPoisoned bad) r ∧
         t.mem = stored (fun r => r) (fun _ => [0]) ∧
         (∀ i < n, SMap.get [] t.trees (treeKey c.job (c.seqAddr kvt i)) = [0xFFFF]) ∧
         ∀ k, (∀ i < n, k ≠ treeKey c.job (c.seqAddr kvt i)) → SMap.get [] t.trees k = SMap.get [] s.trees k) ∧
     (s.working id 1 3 = some c →
       let ps := (List.range ((c.held heldFlag).length / 2)).map (fun i => numAt (c.held heldFlag) (2 * i) 2)
       ∃ t r, exec (.lupTreeVerify id ext) s = .next t ∧ EngineFrame { s with trees := t.trees } t c ∧ WorkEnds s t c (doneOrPoisoned bad) r ∧
         t.mem = stored (fun _ => 0) (treePath ps ps.length) ∧
         ∀ k, SMap.get [] t.trees k = if k = treeKey c.job (c.seqAddr kvt 0) then ps else SMap.get [] s.trees k)) ∧
    (s.working id 1 4 = some c →
      let e := c.seq (c.n 16 8) 0
      let off := decide (numAt (c.held heldFlag) 0 1 = 1)
      let all := keepNodes ((c.held heldFlag).drop 1)
      let nodes := if off then all.filter (· = 0) else all
      let k := nodes.length
      let reads := e.tabRegion (e.len + k) :: ((List.range e.layers).map (fun l => e.discardReads l nodes)).flatten
      let bad := s.regionsPoisoned a reads
      s.readable a reads = .ok () →
      ∃ t u, exec (.lupKvDiscard id ext) s = .next t ∧ EngineFrame s t c ∧
        WorkEnds s t c (doneOrPoisoned bad) (BitVec.ofNat 32 (k + if off then 2 ^ 16 else 0)) ∧
        EngineFrame s u c ∧ t.mem = (u.store a c.core c.cls3 (c.seqAddr (c.n 16 8) 0) (toLE 4 (e.len + k)) bad).mem ∧
        (nodes = [] ∨ e.layers = 0 → u.mem = s.mem))

/-- R236–R239: an enabled channel whose queue is bound puts its next tick once it is due and at least SHORTEST eighths of a period have
passed since the last was taken, and not while a tick waits; a tick put late counts. The word's end mark is a free value (log 24). -/
def Obligations.CadenceTicks : Prop :=
  ∀ (ch : BitVec 8) (s : State) (j : Job),
    let cfg := s.reg (Reg.lupCadCfg ch.toNat)
    let x := s.cad ch.toNat
    let q := (cfg.extractLsb' 48 12).toNat
    let period := 1000 * (cfg.extractLsb' 0 20).toNat
    let short := if cfg.extractLsb' 60 3 = 0 then 4 else (cfg.extractLsb' 60 3).toNat
    let due := x.ta + BitVec.ofNat 64 ((x.next - x.na).toNat * period)
    cfg.getLsbD 63 = true → period ≠ 0 → s.runningJob (s.groupOf (ch.toNat / 16)) = some j → s.boundGet q j.id = true →
    s.qBound q = true → x.waiting = false → s.stopped = false → due.toNat ≤ s.now.toNat →
    (x.next = x.na ∨ (x.taken + BitVec.ofNat 64 (period * short / 8)).toNat ≤ s.now.toNat) → (x.next = x.na → x.ta.toNat ≤ s.now.toNat) →
    (s.queue q).waiting = [] → s.hasRoom q = true →
    ∃ t, exec (.cadenceTick ch) s = .next t ∧ t = { s with free := t.free, eff := t.eff, stem := t.stem, cadence := t.cadence } ∧ KeepsButCounters s t ∧
      (s.now = due → t.eff = s.eff) ∧
      (∀ n, n ≠ q → t.queue n = s.queue n) ∧ (t.queue q).words = (s.queue q).words ++ [tickWord x.next due s.now ch.toNat (bitAt (Config.freeWord s.free) 0)] ∧
      ∀ k, t.cad k = if k = ch.toNat then { x with next := x.next + 1, waiting := true } else s.cad k

/-- R141–R145: a walk whose reads all succeed writes each query's final list, its walks gone, and completes with 0x43 where a node was
corrupt, 0xC0 where what it read was poisoned, else 0x00, the queries cut short counted in RESULT; of one query it writes that query's
list. R144: in a walk with PROV_VA ≠ 0, a query that has PROV_LEAVES leaves to come scans them and writes its next provisional list, whose
notice may be put on PROV_Q. -/
def Obligations.ClematisWalks : Prop :=
  ∀ (id : Nat) (ext : Ext) (c : Cmd) (s : State), s.working id 2 1 = some c →
    let a := c.agent
    let g := s.groupOfCore c.core
    let frame := fun (t : State) => EngineFrame { s with walks := t.walks, stem := t.stem, held := t.held } t c
    (∀ (h : IndexHdr) book fb u ws, s.indexHdr a (c.n 16 8) = .ok h → s.codebook a h = .ok (book, fb) →
      s.walkAll a c h book = (u, ws, none) →
      let reads := [(c.n 16 8, 256), (h.codebook, 16 * h.d * Machine.ebits h.cbFmt / 8)]
      let short := ws.filter (fun w => w.qbad || w.corrupt || decide (w.best.length < c.n 48 2))
      let code : Byte := if ws.any Walk.bad || s.regionPoisoned a (c.n 16 8) 256 then 0xC0 else if ws.any Walk.corrupt then 0x43 else 0x00
      ∃ t, exec (.clmWalk id ext) s = .next t ∧ frame t ∧
        WorkEnds s t c code (flagsResult (ws.foldl (fun f w => f ||| w.flags) fb) short.length) ∧
        t.mem = ((u.countRegions a reads).countRegions a ((c.desc (c.n 24 8)).readRegion 0 c.walkRows)).mem ∧
        (∀ k, SMap.find t.walks k = if k / 256 = c.id then none else SMap.find s.walks k) ∧
        (c.walkRows = 1 → ∀ v w, s.finishWalk a c h book 0 = .ok (v, w) → u = v ∧ ws = [w])) ∧
    (∀ (r : BitVec 8) (h : IndexHdr) book fb (w w1 : Walk) rds rds1, r.toNat < c.walkRows → s.indexHdr a (c.n 16 8) = .ok h →
      s.codebook a h = .ok (book, fb) → s.walkOf a c h r.toNat = .ok (w, rds) → c.n 40 8 ≠ 0 → w.corrupt = false → w.qbad = false →
      w.next + c.n 52 2 ≤ w.leaves.length → (s.walkerReads a g rds).scanMore a h book c (c.n 52 2) w = .ok (w1, rds1) → w1.corrupt = false →
      let w2 := { w1 with updates := w1.updates + 1 }
      let u := ((s.walkerReads a g rds).walkerReads a g rds1).bump Reg.clmLeaves (w1.next - w.next)
      ∃ t, exec (.provisionalList id r ext) s = .next t ∧ frame t ∧ t.cmds = s.cmds ∧
        t.mem = (u.store a c.core c.cls3 (c.n 40 8 + r.toNat * 16 * (c.n 48 2 + 1)) (w2.list w2.updates (c.n 48 2)) w2.bad).mem ∧
        ((c.n 54 2).testBit 15 = false → t.stem = s.stem ∧ t.held = s.held) ∧
        ∀ k, SMap.find t.walks k = if k = 256 * c.id + r.toNat then some w2 else SMap.find s.walks k)

/-- R150, R151: CLM_INSERT and CLM_DELETE append their records, in order, as side entries, a delete as tombstones. R154, R155: CLM_FILTER
writes the entries whose attributes hold, up to WANT of them, and reports any shortfall. Each ends with 0x00, or 0xC0 where what it read
was poisoned; nothing but memory, and the read counters of flash that is read, changes. -/
def Obligations.ClematisAppendsAndFilters : Prop :=
  ∀ (id : Nat) (ext : Ext) (c : Cmd) (s : State),
    let a := c.agent
    (∀ (tomb : Bool) (bs : List Byte), s.working id 2 (if tomb then 3 else 2) = some c →
      let n := c.n 32 4 * c.recBytes
      let bad := s.regionPoisoned a (c.n 24 8) n || s.regionPoisoned a (c.n 16 8) 256
      s.load a (c.n 24 8) n = .ok bs →
      let done := fun (u : State) => ∃ t, exec (if tomb then .clmDelete id ext else .clmInsert id ext) s = .next t ∧ EngineFrame s t c ∧
        WorkEnds s t c (doneOrPoisoned bad) 0 ∧ t.mem = (u.countRegions a [(c.n 16 8, 256), (c.n 24 8, n)]).mem
      (∀ u, s.appendRecords c tomb bs bad = (u, none) → done u) ∧
      ∀ (h : IndexHdr) (u : State), c.n 32 4 = 1 → s.indexHdr a (c.n 16 8) = .ok h →
        let r := c.record bs 0
        s.appendSide a c (c.n 16 8) { code := r.1, id := r.2.1, leaf := r.2.2, tomb := tomb, seq := h.nextSeq, next := 0 } bad = .ok u →
        done (u.store a c.core c.cls3 (c.n 16 8 + 64) (toLE 8 (h.nextSeq + 1)) bad)) ∧
    (∀ (hd bs : List Byte), s.working id 2 5 = some c → s.load a (c.n 24 8) 16 = .ok hd →
      s.load a (c.n 24 8 + 16) (16 * numAt hd 0 4) = .ok bs →
      let n := numAt hd 0 4
      let want := c.n 58 2
      let es := cut 16 n bs
      let attr := fun (e : List Byte) => c.n 16 8 + 8 * (numAt e 0 8 % 2 ^ 40)
      let word := fun (e : List Byte) => s.load a (attr e) 8
      (∀ e ∈ es, ∃ w, word e = .ok w) →
      let live := es.filter (fun e => match word e with
        | .ok w => c.filterHolds (leNat w)
        | .error _ => false)
      let k := live.length
      let bad := s.regionPoisoned a (c.n 24 8) (16 + 16 * n) || es.any (fun e => s.regionPoisoned a (attr e) 8)
      let flags := numAt hd 4 2 &&& 0xFFEF
      let u := s.countRegions a ((c.n 24 8, 16 + 16 * n) :: es.map (fun e => (attr e, 8)))
      ∃ t, exec (.clmFilter id ext) s = .next t ∧ EngineFrame s t c ∧
        (want ≤ k → WorkEnds s t c (doneOrPoisoned bad) 0 ∧
          t.mem = (u.store a c.core c.cls3 (c.n 32 8)
            (listBytes want flags (numAt hd 6 2) (numAt hd 8 4) 0 (live.take want)) bad).mem) ∧
        (k < want → WorkEnds s t c (doneOrPoisoned bad)
            (BitVec.ofNat 32 (want - k + Nat.min 255 (ceilDiv (4 * want) (Nat.max k 1)) * 65536)) ∧
          t.mem = (u.store a c.core c.cls3 (c.n 32 8)
            (listBytes k (flags + 16) (numAt hd 6 2) (numAt hd 8 4) (Nat.min 4096 (ceilDiv (n * want) (Nat.max k 1))) live) bad).mem))

/-- R152, R153: CLM_MERGE rewrites its leaves in order and records the walks that started before its last swap, its completion still to
come; MERGE_FINISH, once those walks are done, sets SIDE_FREE and MERGE_MARK, clears MERGING and ends the merge. R146: the node cache's
prefetch adds one line for the walk's group on its die, of a node the prefetchers may fill, to stay where its level is below CACHE_LEVELS;
a line of a peer's memory is asked for; lines beyond the group's share leave; no memory changes but the flash health log's. -/
def Obligations.ClematisMergesAndPrefetches : Prop :=
  ∀ (id : Nat) (ext : Ext) (c : Cmd) (s : State),
    let a := c.agent
    (∀ h : IndexHdr, s.working id 2 4 = some c → SMap.find s.merges c.id = none → s.indexHdr a (c.n 16 8) = .ok h →
      let m := s.mergeLeaves c h
      let r : Merge := { waits := s.walksNow, free := h.sideTail, mark := m.mark, status := m.stop.getD 0
                         result := BitVec.ofNat 32 (m.rewritten % 65536 + Nat.min 255 m.overfull * 65536) }
      m.err = none →
      ∃ t, exec (.clmMerge id ext) s = .next t ∧ EngineFrame { s with merges := t.merges } t c ∧ t.cmds = s.cmds ∧
        t.mem = (m.st.countRegions a [(c.n 16 8, 256), (h.leafTable, 8 * h.leafCount)]).mem ∧
        ∀ k, SMap.find t.merges k = if k = c.id then some r else SMap.find s.merges k) ∧
    (∀ m : Merge, s.working id 2 4 = some c → SMap.find s.merges c.id = some m → (∀ w ∈ m.waits, w ∉ s.walksNow) →
      let put := fun (t : State) (o n v : Nat) => t.store a c.core c.cls3 (c.n 16 8 + o) (toLE n v) false
      ∃ t, exec (.mergeFinish id ext) s = .next t ∧ EngineFrame { s with merges := t.merges } t c ∧ WorkEnds s t c m.status m.result ∧
        t.mem = (put (put (put s 56 8 m.free) 72 8 m.mark) 80 1 0).mem ∧
        ∀ k, SMap.find t.merges k = if k = c.id then none else SMap.find s.merges k) ∧
    (∀ (va : BitVec 48) (die : BitVec 2) (pa : Nat) (h : IndexHdr) (stays : Bool), s.working id 2 1 = some c →
      s.indexHdr a (c.n 16 8) = .ok h → s.specOff 1 = false →
      s.pieces a (va.toNat / 256 * 256) 256 false = .ok [(pa, 256)] → regionOf pa ≠ .registers →
      let g := s.groupOfCore c.core
      let share := s.nodeShare g / 256
      let l : AheadLine := { line := s.home pa / 256, group := g, die := die.toNat, node := true, used := false
                             bad := s.piecesPoisoned a [(pa, 256)], stays := stays }
      s.prefetchable a c h g (va.toNat / 256) = some stays → share ≠ 0 →
      (s.hasLine l = true → exec (.nodeCachePrefetch id va die ext) s = .next s) ∧
      (s.hasLine l = false → s.unanswered { a with pool := [] } pa 256 = true →
        exec (.nodeCachePrefetch id va die ext) s = .next (s.fetchLine c.core c.job c.cls3 pa { l with bad := false })) ∧
      (s.hasLine l = false → s.unanswered { a with pool := [] } pa 256 = false →
        ∃ t, exec (.nodeCachePrefetch id va die ext) s = .next t ∧ EngineFrame s t c ∧ t.cmds = s.cmds ∧
          (regionOf pa ≠ .flash → t = { s with eff := t.eff, ahead := t.ahead }) ∧
          (∀ k ∈ t.ahead, k ∈ s.ahead ∨ k = l) ∧
          (t.ahead.filter (fun k => k.node && decide (k.group = g))).length ≤ share))

/-- R156–R158: an exact selection gives min(k, n) elements, non-NaN keys best first, ties in input order, no element left out ranking
above one taken; an approximate one gives min(k, n) elements, of the buckets of no lesser key than any left out, in input order where k
elements have keys; NaNs come last. -/
def Obligations.PrimroseSelects : Prop :=
  ∀ (m : PMode) (es : List PElem) (k : Nat), es.Pairwise (fun x y => x.idx < y.idx) →
    let sel := m.select es k
    sel.length = Nat.min k es.length ∧ (∀ e ∈ sel, e ∈ es) ∧
    (m.exact = true →
      sel.Pairwise (fun x y => (x.nan = true → y.nan = true) ∧ (x.nan = false → y.nan = false → m.key y.w ≤ m.key x.w) ∧
        (x.nan = y.nan → (x.nan = true ∨ m.key x.w = m.key y.w) → x.idx < y.idx)) ∧
      ∀ x ∈ sel, ∀ y ∈ es, y ∉ sel → (y.nan = false → x.nan = false ∧ m.key y.w ≤ m.key x.w) ∧
        (x.nan = true → x.idx < y.idx)) ∧
    (m.exact = false →
      (k ≤ (nonNan es).length →
        List.Sublist sel es ∧ (∀ e ∈ sel, e.nan = false) ∧
        (∀ x ∈ sel, ∀ y ∈ nonNan es, y ∉ sel → m.key y.w / 2 ^ 20 ≤ m.key x.w / 2 ^ 20 ∧
          (m.key y.w / 2 ^ 20 = m.key x.w / 2 ^ 20 → x.idx < y.idx))) ∧
      ((nonNan es).length < k → sel = (nonNan es ++ es.filter PElem.nan).take k))

/-- R157–R161: PRM_TOPK writes each row's selection and header. R163: PRM_MERGE writes the merge of its lists, PRM_REFINE the exact top k
of one row, each with its flags in RESULT and 0xC0 where what it read was poisoned. R164: PRM_SAMPLE with no allowed token ends with 0x4B;
with GREEDY it draws the lowest allowed index of the largest logit, PROB 1.0 and both sums +0; else the token, PROB, S_SEL and S_OUT of the
draw where it picks one (that no token may be picked is log entry 6's). -/
def Obligations.PrimroseRowsAndSampling : Prop :=
  (∀ (id : Nat) (ext : Ext) (c : Cmd) (s : State),
    let a := c.agent
    let m := c.pmode
    let k := c.n 48 4
    (s.working id 3 1 = some c → s.readable a c.topkRegions.1 = .ok () →
      let bad := s.regionsPoisoned a c.topkRegions.1
      let rows := (List.range (c.n 36 2)).map (s.topkRow c)
      ∃ t, exec (.prmTopk id ext) s = .next t ∧ EngineFrame s t c ∧
        WorkEnds s t c (doneOrPoisoned bad) (flagsResult ((rows.map (fun e => e.2.1)).foldl (· ||| ·) 0) 0) ∧
        t.mem = ((rows.zipIdx).foldl (fun (u : State) e => u.store a c.core c.cls3 (c.n 24 8 + e.2 * c.n 44 4) e.1.1 bad)
          (s.countRegions a c.topkRegions.1)).mem) ∧
    (∀ (ns : List Nat) (ls : List (List Byte)), s.working id 3 2 = some c → s.listCounts a c = .ok ns → ls.length = ns.length →
      (∀ i < ns.length, s.load a (c.n 16 8 + i * c.n 40 4) (listSize (c.bit 36 0) (ns.getD i 0)) = .ok (ls.getD i [])) →
      let reads := (ls.zipIdx).map (fun e => (c.n 16 8 + e.2 * c.n 40 4, e.1.length))
      let bad := s.regionsPoisoned a reads
      let out := if c.bit 36 0 then mergeLists ls k else m.mergeRows true (ls.map (parseRow m.fmt)) k
      ∃ t, exec (.prmMerge id ext) s = .next t ∧ EngineFrame s t c ∧ WorkEnds s t c (doneOrPoisoned bad) (flagsResult out.2 0) ∧
        t.mem = ((s.countRegions a reads).store a c.core c.cls3 (c.n 24 8) out.1 bad).mem) ∧
    (∀ (h bs : List Byte), s.working id 3 3 = some c → s.load a (c.n 16 8) 4 = .ok h → s.load a (c.n 16 8) (32 + 8 * leNat h) = .ok bs →
      let bad := s.regionPoisoned a (c.n 16 8) bs.length
      let out := m.mergeRows false [parseRow m.fmt bs] k
      ∃ t, exec (.prmRefine id ext) s = .next t ∧ EngineFrame s t c ∧ WorkEnds s t c (doneOrPoisoned bad) (flagsResult out.2 0) ∧
        t.mem = ((s.countRegion a (c.n 16 8) bs.length).store a c.core c.cls3 (c.n 24 8) out.1 bad).mem)) ∧
  (∀ (id : Nat) (ext : Ext) (c : Cmd) (s : State) (bs mk : List Byte), s.working id 3 4 = some c →
    let a := c.agent
    let fmt := c.n 54 1 % 16
    let n := c.n 40 4
    s.load a (c.n 16 8) (n * primBytes fmt) = .ok bs →
    (c.n 24 8 ≠ 0 → s.load a (c.n 24 8) (ceilDiv n 8) = .ok mk) →
    let es := elemsOf fmt n bs
    let allowed := es.filter (fun e => (c.n 24 8 = 0 || (mk.getD (e.idx / 8) 0).toNat.testBit (e.idx % 8)) && !e.nan)
    let nans := (es.filter PElem.nan).length
    let rf := es.foldl (fun f e => f ||| readFlags (val32 e.w)) 0
    let bad := s.regionsPoisoned a c.sampleReads
    let m : PMode := { fmt := 0, dir := false, exact := true, sum := 0, scale := 0 }
    let v := (s.countRegions a c.sampleReads).bump Reg.prmRows 1
    let u := if nans = 0 then v else v.bump Reg.prmNan nans
    let draws := fun (t : State) (tok : Nat) (p ss so : BitVec 32) (f : NFlags) =>
      WorkEnds s t c (doneOrPoisoned bad) (flagsResult (rf ||| f) 0) ∧
      t.mem = (u.store a c.core c.cls3 (c.n 32 8) (toLE 4 tok ++ toLE 4 p.toNat ++ toLE 4 ss.toNat ++ toLE 4 so.toNat) bad).mem
    ∃ t, exec (.prmSample id ext) s = .next t ∧ EngineFrame { s with free := t.free } t c ∧
      (allowed = [] → t.mem = u.mem ∧ WorkEnds s t c (if bad then 0xC0 else 0x4B) (flagsResult rf 0)) ∧
      (allowed ≠ [] → c.bit 54 4 = true → ∃ e ∈ allowed, (∀ y ∈ allowed, m.key y.w ≤ m.key e.w ∧ (m.key y.w = m.key e.w → e.idx ≤ y.idx)) ∧
        draws t e.idx 0x3F800000 0 0 0) ∧
      (∀ tok p ss so f, allowed ≠ [] → c.bit 54 4 = false →
        samplePick allowed (c.f32 44) (c.f32 48) (c.n 52 2) (BitVec.ofNat 64 (c.n 56 8)) = (some tok, p, ss, so, f) → draws t tok p ss so f))

/-- R170, R173, R174: AST_GATHER, its indices and rows read, stores what they give and sets EDGE where an index is at or above ROWS; OUT
over the rows read gives 0x27 (log entry 83). A row is read between two reads of its control word, and accepted where the VERSION stood or
rose by 1 with BUSY clear; else it is tried again, after 15 retries under its lock. R171: a row is written by setting BUSY with CAS,
writing its other slot and then its control word with VERSION + 1, LIVE inverted, BUSY clear; a BUSY row is waited for, 10 ms at most, and
then the command ends with 0x57. R175–R177: AST_UPDATE and AST_ROW_REPLACE, their rows so written, end with their flags, DROPPED and the
rows skipped in RESULT. -/
def Obligations.AsterRows : Prop :=
  ∀ (id : Nat) (ext : Ext) (c : Cmd) (s : State),
    let a := c.agent
    let h : TableHdr := { raw := c.captured heldTable }
    let written := fun (i : Instr) (u : State) (w : RowWork) (fuel : Nat) => ∀ n v x, WriteSteps id n u w v x → x.todo = [] → x.later = [] →
      n < fuel →
      ∃ t p, exec i s = .next t ∧ EngineFrame { s with rowWork := t.rowWork } t c ∧
        WorkEnds s t { c with pool := p } (doneOrPoisoned x.bad) (flagsResult x.flags (2 ^ 23 * b2n x.dropped + Nat.min 65535 x.skipped)) ∧
        t.mem = v.mem ∧ SMap.find t.rowWork c.id = none
    let gathered := fun (i : Instr) (u : State) (r : RowRead) (fuel : Nat) => ∀ v x, u.readRows c.id false fuel r = .stop v x → x.todo = [] →
      ∃ t fl, exec i s = .next t ∧ EngineFrame { s with rowReads := t.rowReads } t c ∧
        WorkEnds s t c (doneOrPoisoned (r.bad || x.got.any (fun e => e.2.2))) (flagsResult fl (2 ^ 23 * b2n r.edge)) ∧
        t.mem = (v.writeGather c x).mem
    (∀ u ib bad, s.working id 4 1 = some c → SMap.find s.rowReads id = none → s.rowLoad c (c.n 24 8) (8 * c.n 40 4) = .ok u ib bad →
      let n := c.n 40 4
      let ixs := (List.range n).map (fun i => c.gatherRow (numAt ib (8 * i) 8))
      let rows := ixs.map (fun i => Nat.min i (h.rows - 1))
      let out := (c.desc (c.n 32 8)).writeRegion 0 (if c.n 56 1 % 4 = 0 then n else c.n 44 4)
      (s.regionsMeet a (h.rowRegions rows.eraseDups) out = true →
        ∃ t, exec (.astGather id ext) s = .next t ∧ EngineFrame s t c ∧ t.mem = s.mem ∧ WorkEnds s t c 0x27 0) ∧
      (s.regionsMeet a (h.rowRegions rows.eraseDups) out = false →
        gathered (.astGather id ext) u { RowRead.start (rows.map (fun r => (heldTable, r))) with
          bad := bad, edge := ixs.any (fun i => decide (h.rows ≤ i)) } (actionsOf ext n))) ∧
    (∀ r, s.working id 4 1 = some c → SMap.find s.rowReads id = some r → r.step = .lock →
      gathered (.rowBusyRetry id ext) s r (actionsOf ext r.todo.length)) ∧
    (s.working id 4 4 = some c → SMap.find s.rowWork id = none →
      let n := c.n 40 4
      let reads := [(c.n 24 8, 8 * n), (c.n 32 8, n * h.stride)]
      let ib := s.vbytes a (c.n 24 8) (8 * n)
      let sb := s.vbytes a (c.n 32 8) (n * h.stride)
      let rows := ((List.range n).map (fun i => (numAt ib (8 * i) 8, bytesAt sb (i * h.stride) h.stride))).filter
        (fun e => decide (e.1 < h.rows))
      s.readable a reads = .ok () → s.regionsMeet a reads (h.rowRegions (rows.map Prod.fst).eraseDups) = false →
      written (.astRowReplace id ext) ((s.countRegions a reads).clearPool id)
        { later := [], todo := rows, update := false, step := .lock, since := s.now, dropped := decide (rows.length < n), skipped := 0
          flags := 0, bad := s.regionsPoisoned a reads } (actionsOf ext n)) ∧
    (s.working id 4 3 = some c → SMap.find s.rowWork id = none → s.mergeHeld = false →
      let n := c.n 48 4
      let g := c.desc (c.n 32 8)
      let reads := (c.n 24 8, 8 * n) :: g.readRegion 0 n
      let ib := s.vbytes a (c.n 24 8) (8 * n)
      let rows := ((List.range n).map (fun i => (numAt ib (8 * i) 8, i))).filter (fun e => decide (e.1 < h.rows))
      let grads := rows.map (fun e => (e.1, collect ((List.range h.dim).map (fun j => s.vecElem a g e.2 j))))
      let table := h.rowRegions (rows.map Prod.fst).eraseDups
      s.readable a reads = .ok () → s.regionsMeet a reads table = false →
      s.regionsMeet a table [(c.n 40 8, Nat.min n 65536 * h.dim * 4)] = false →
      written (.astUpdate id ext) ((s.countRegions a reads).clearPool id)
        { later := grads.map (fun e => (e.1, e.2.1)), todo := [], update := true, step := .lock, since := s.now
          dropped := decide (rows.length < n), skipped := 0, flags := (grads.map (fun e => e.2.2)).foldl (· ||| ·) 0
          bad := s.regionsPoisoned a reads } (actionsOf ext n)) ∧
    (∀ (upd : Bool) (w : RowWork), s.working id 4 (if upd then 3 else 4) = some c → SMap.find s.rowWork id = some w → w.step = .lock →
      written (.rowBusyRetry id ext) s w (actionsOf ext (w.todo.length + if upd then w.later.length else 0)) ∧
      ∀ r img rest wb, w.todo = (r, img) :: rest → s.load a (h.ctrlAt r) 8 = .ok wb → s.regionPoisoned a (h.ctrlAt r) 8 = false →
        (leNat wb).testBit 33 = true → (upd = true → ∀ x ∈ f32Words img, readFlags (val32 x) = 0) →
        ((s.now - w.since).toNat < 10000000 →
          ∃ t, exec (.rowBusyRetry id ext) s = .next t ∧ t = { s with cmds := t.cmds, rowWork := t.rowWork } ∧
            t.cmd id = some { c with pool := [] } ∧ (∀ j, j ≠ id → t.cmd j = s.cmd j) ∧
            ∀ k, SMap.find t.rowWork k = SMap.find s.rowWork k) ∧
        (10000000 ≤ (s.now - w.since).toNat →
          ∃ t, exec (.rowBusyRetry id ext) s = .next t ∧ t = { s with cmds := t.cmds } ∧
            WorkEnds s t c 0x57 (flagsResult w.flags (2 ^ 23 * b2n w.dropped + Nat.min 65535 w.skipped)))) ∧
    (∀ (spec : Bool) (r : RowRead) (k n : Nat) (rest : List (Nat × Nat)) (t : State) (bs : List Byte) (b : Bool),
      r.todo = (k, n) :: rest →
      let h : TableHdr := { raw := c.captured k }
      let w2 := leNat bs
      (r.step = .first → s.rowLoad c (h.ctrlAt n) 8 = .ok t bs b → s.readStep c spec r = .more t { r with step := .slot w2 b }) ∧
      (∀ w bad, r.step = .slot w bad → s.rowLoad c (h.slot n (bitsOf w 32 1)) h.stride = .ok t bs b →
        s.readStep c spec r = .more t { r with step := .second w bs (bad || b) }) ∧
      (∀ w data bad, r.step = .second w data bad → s.rowLoad c (h.ctrlAt n) 8 = .ok t bs b →
        let same := w2 % 2 ^ 32 = w % 2 ^ 32 ∨ (w2 % 2 ^ 32 = (w + 1) % 2 ^ 32 ∧ w2.testBit 33 = false)
        (same → s.readStep c spec r =
          .more t { r with todo := rest, got := r.got ++ [(BitVec.ofNat 32 w, data, bad || b)], step := .first, tries := 0 }) ∧
        (¬ same → r.tries < 15 → s.readStep c spec r = .more (t.bump Reg.astRowRetry 1) { r with step := .first, tries := r.tries + 1 }) ∧
        (¬ same → 15 ≤ r.tries → spec = false → s.readStep c spec r = .more t { r with step := .lock, since := s.now })) ∧
      (∀ w, r.step = .held w → s.rowLoad c (h.slot n (bitsOf w 32 1)) h.stride = .ok t bs b →
        s.readStep c spec r = .more t { r with got := r.got ++ [(BitVec.ofNat 32 w, bs, b)], step := .finish w w })) ∧
    (∀ (va : Nat) (wb : List Byte), s.load a va 8 = .ok wb → s.regionPoisoned a va 8 = false →
      let w := leNat wb
      (w.testBit 33 = true → s.lockStep c va .lock = .busy (s.clearPool c.id)) ∧
      ∀ ps, w.testBit 33 = false → (s.clearPool c.id).pieces a va 8 true = .ok ps → regionOf (ps.headD (0, 0)).1 ≠ .pool →
        s.lockStep c va .lock = .on ((s.clearPool c.id).store a c.core c.cls3 va (toLE 8 (w + 2 ^ 33)) false) (.held w)) ∧
    (∀ (va w v : Nat) (ps : List (Nat × Nat)), s.writesOf c.core c.job (c.id + 1) = false → SMap.find s.writeFail c.id = none →
      s.pieces a va 8 true = .ok ps → regionOf (ps.headD (0, 0)).1 ≠ .pool →
      s.lockStep c va (.finish w v) = .on (s.store a c.core c.cls3 va (toLE 8 v) false) .first) ∧
    ∀ (w : RowWork) (r v : Nat) (img : List Byte) (rest : List (Nat × List Byte)), w.todo = (r, img) :: rest →
      (cmdOpcode c.word = 3 → w.step = .lock → (∃ x ∈ f32Words img, readFlags (val32 x) ≠ 0) →
        ∃ f, s.writeStep c w = .more s { w with todo := rest, since := s.now, skipped := w.skipped + 1, flags := f }) ∧
      (w.step = .held v →
        let live := bitsOf v 32 1
        let next := (v + 1) % 2 ^ 32 + (1 - live) * 2 ^ 32
        let puts := fun (t : State) (new : List Byte) (fl : NFlags) (bad : Bool) =>
          s.writeStep c w = .more (t.store a c.core c.cls3 (h.slot r (1 - live)) new bad)
            { w with step := .finish v next, flags := w.flags ||| fl, bad := bad }
        (cmdOpcode c.word ≠ 3 → c.bit 44 0 = false → ∀ ps, s.pieces a (h.slot r (1 - live)) h.stride true = .ok ps → puts s img 0 w.bad) ∧
        ∀ t old b ps, s.rowLoad c (h.slot r live) h.stride = .ok t old b → t.pieces a (h.slot r (1 - live)) h.stride true = .ok ps →
          (cmdOpcode c.word ≠ 3 → c.bit 44 0 = true →
            puts t (overlay img h.stateOff (bytesAt old h.stateOff h.stateBytes)) 0 (w.bad || b)) ∧
          (cmdOpcode c.word = 3 →
            let new := updateRow h (c.n 60 1 % 4) (c.f32 52) (c.f32 56) (f32Words img) old
            puts t new.1 new.2 (w.bad || b)))

/-- R178, R179, R182: AST_RERANK opens a session that holds nothing and consumes its queues; a notice leaves its queue, and the session
whose QROW it names reads the provisional list, whose first PROV_TAKE entries not yet started wait to be started; a notice that names none
is discarded. R184–R186: a walk's notify word reaches the open sessions whose FINAL_Q the queue is; a session ends with 0x54 where the
walk's status says so and with 0x00 and an empty OUT where the list is empty; a batch whose commands are done has its scores taken, a
failed kernel command ending its session with 0x53. -/
def Obligations.AsterSessions : Prop :=
  ∀ (id : Nat) (q : BitVec 12) (slot : BitVec 4) (ext : Ext) (c : Cmd) (s : State),
    let k := q.toNat
    let runs := fun (i : Instr) (u : State) (d : Nat) => exec i s = .next (u.runSession d ext) ∧ SessionFrame u (u.runSession d ext)
    let idle := fun (x : Session) => x.gather = none ∧ x.noticed = 0 ∧ x.settling = [] ∧ x.waiting = []
    (s.working id 4 2 = some c →
      (SMap.find s.sessions c.id = none →
        ∃ t, exec (.astRerank id ext) s = .next t ∧ t = { s with sessions := t.sessions, stem := t.stem } ∧
          (∀ j, SMap.find t.sessions j = if j = c.id then some Session.opened else SMap.find s.sessions j) ∧
          ∀ j, t.queue j = { s.queue j with
            aster := (s.queue j).aster || decide (j = c.sFinalQ ∨ (c.sd 8 8 ≠ 0 ∧ j = c.sProvQ)) }) ∧
      (∀ x, SMap.find s.sessions c.id = some x →
        runs (.astRerank id ext) s id ∧
        (x.ended = none → x.final = none → idle x → exec (.astRerank id ext) s = .next s))) ∧
    (∀ w ws, (s.queue k).words = w :: ws → s.tripped = false → s.fatal = false → s.stopped = false →
      let u := s.popWord k
      ((s.queue k).aster = false →
        exec (.provisionalNotice q ext) s = .next s ∧ exec (.finalList q ext) s = .next s) ∧
      ((s.queue k).aster = true → (∀ d ∈ s.sessionsOn k false, d.sd 92 2 ≠ fld w.data 0 16) →
        exec (.provisionalNotice q ext) s = .next u ∧ (u.queue k).words = ws) ∧
      (∀ x, (s.queue k).aster = true → (s.sessionsOn k false).find? (fun d => decide (d.sd 92 2 = fld w.data 0 16)) = some c →
        SMap.find s.sessions c.id = some x → x.ended = none → c.sd 8 8 ≠ 0 → s.specOff 2 = false →
        runs (.provisionalNotice q ext) (u.setSession c.id { x with noticed := x.noticed + 1 }) c.id) ∧
      ((s.queue k).aster = true → s.sessionsOn k true = [] → exec (.finalList q ext) s = .next u) ∧
      (∀ x, (s.queue k).aster = true → s.sessionsOn k true = [c] → SMap.find s.sessions c.id = some x → x.ended = none →
        let status := BitVec.ofNat 8 (fld w.data 0 8)
        let y : Session := { x with ended := some status }
        let e : Cmd := { c with pool := [] }
        runs (.finalList q ext) (u.setSession c.id y) c.id ∧
        ∀ v l b, s.cmd c.id = some c → c.phase = .started → c.suspended = false → x.final = none →
          (u.setSession c.id y).listLoad c (c.sd 0 8) = .ok v l b →
          (status ≠ 0 → ¬(status = 0x43 ∧ (numAt l 4 2).testBit 2 = false) →
            ∃ t, exec (.finalList q ext) s = .next t ∧ t.mem = v.mem ∧ SMap.find t.sessions c.id = none ∧
              t.cmd c.id = some { c with phase := .done 0x54 0 }) ∧
          (∀ ps qs, status = 0 → numAt l 0 4 = 0 → l.length = 16 → x.shadow = [] → x.batches = [] → x.gather = none → x.scores = [] →
            c.progEn = false →
            v.pieces c.agent (c.sd 24 8) 0 true = .ok qs → v.pieces e.agent (c.sd 16 8) 16 true = .ok ps →
            v.pieces e.agent (c.sd 24 8) 0 true = .ok qs →
            ∃ t, exec (.finalList q ext) s = .next t ∧ SMap.find t.sessions c.id = none ∧
              WorkEnds s t e 0x00 (BitVec.ofNat 32 (x.kept % 65536)) ∧
              t.mem = ((v.store e.agent c.core c.cls3 (c.sd 16 8) (bytesAt l 0 6 ++ zeros 2 ++ bytesAt l 8 8) false).store e.agent c.core
                c.cls3 (c.sd 24 8) [] false).mem))) ∧
    (∀ (x : Session) (b : Batch), s.working id 4 2 = some c → SMap.find s.sessions id = some x →
      x.batches.find? (fun b => b.slot = slot.toNat) = some b → (∀ e ∈ b.cmds, e.2 ≠ none) →
      let hurt := fun (e : Nat × Option Byte) => !b.stopped && !(e.2 = some 0) && !(b.spec && e.2 = some 0xC0)
      (∀ e code, b.cmds.find? hurt = some e → e.2 = some code →
        ∃ t, exec (.batchComplete id slot ext) s = .next t ∧ t.mem = s.mem ∧ SMap.find t.sessions c.id = none ∧
          t.cmd c.id = some { c with phase := .done 0x53 (BitVec.ofNat 32 code.toNat) }) ∧
      (∀ sb, b.cmds.find? hurt = none → s.load c.agent (c.sArena + b.slot * c.sSlotBytes + c.sd 76 4) (4 * b.cands.length) = .ok sb →
        runs (.batchComplete id slot ext) (s.takeBatch c x b (f32Words sb)) id ∧
        (b.stopped = false → b.spec = true → (∀ e ∈ b.cmds, e.2 = some 0) → x.ended = none → x.final = none → idle x →
          ∃ t, exec (.batchComplete id slot ext) s = .next t ∧ t = { s with sessions := t.sessions } ∧
            ∀ j, SMap.find t.sessions j = if j = id then
              some { x with batches := x.batches.filter (fun d => !(d.slot = b.slot))
                            shadow := x.shadow ++ (b.cands.zip (f32Words sb)).map (fun e => ({ e.1 with score := e.2 } : Cand)) }
              else SMap.find s.sessions j))) ∧
    ∀ (x : Session) (l : List Byte),
      let started := x.shadow.map Cand.id ++ ((x.batches.map Batch.cands).flatten).map Cand.id ++ x.squashed ++ x.gathering
      SMap.find (s.takeProv c x l).sessions c.id = some { x with
        noticed := x.noticed - 1, waiting := (listIds l (c.sd 86 2)).filter (fun p => !(started.contains p)) }

/-- R188: BQT_FETCH drops the set's passages of its group and holds, for that group and set, passages it read, within 16 MiB, the skipped
ones counted in RESULT. R192: BQT_PACK writes its units' bytes and the segment table, with the passages validated and the duplicates in
RESULT, and drops its fetch set's passages. -/
def Obligations.BouquetCommands : Prop :=
  ∀ (id : Nat) (ext : Ext) (c : Cmd) (s : State),
    let a := c.agent
    let g := s.groupOfCore c.core
    let kept := fun (f : Nat) => s.passages.filter (fun p => !(decide (p.group = g) && decide (p.fset = f)))
    (s.working id 5 2 = some c →
      let f := c.n 36 1 % 16
      let u := (s.squashPassages (fun p => decide (p.group = g) && decide (p.fset = f))).fetchAll a c (c.captured (c.n 16 8))
        (c.captured heldOffs)
      ∃ t new, exec (.bqtFetch id ext) s = .next t ∧ EngineFrame { s with passages := t.passages } t c ∧
        WorkEnds s t c 0x00 (BitVec.ofNat 32 u.2) ∧ t.mem = u.1.mem ∧ u.2 + new.length ≤ c.n 32 4 ∧ t.passages = kept f ++ new ∧
        (∀ p ∈ new, p.group = g ∧ p.job = c.job ∧ p.fset = f) ∧ (s.specOff 3 = true → new = []) ∧
        (({ s with passages := kept f } : State).shadowBytes g ≤ 2 ^ 24 → t.shadowBytes g ≤ 2 ^ 24)) ∧
    (∀ p list u bs v bad, s.working id 5 1 = some c →
      let d := c.captured (c.n 16 8)
      let fset := if (numAt d 74 2).testBit 15 then some (numAt d 74 2 % 16) else none
      s.packPlan a d = .ok p → s.readList a (numAt d 16 8) = .ok list →
      (s.countRegions a (packLists d list)).packText a g fset p.units = .ok (u, bs, v, bad) →
      ∃ t, exec (.bqtPack id ext) s = .next t ∧ EngineFrame { s with passages := t.passages } t c ∧
        WorkEnds s t c (doneOrPoisoned bad) (BitVec.ofNat 32 (satNat 16 v + satNat 8 p.duplicates * 2 ^ 16)) ∧
        t.mem = ((u.store a c.core c.cls3 (numAt d 48 8) bs bad).store a c.core c.cls3 (numAt d 56 8) p.segments bad).mem ∧
        (∀ x ∈ t.passages, x ∈ s.passages) ∧
        (∀ k, fset = some k → ∀ x ∈ t.passages, ¬(x.group = g ∧ x.fset = k)) ∧ (fset = none → t.passages = s.passages))

/-- R190–R192: the units of an accepted pack fit the token budget and the output sizes, and no passage is placed twice. -/
def Obligations.PacksFitTheirBudget : Prop :=
  ∀ (s : State) (a : Agent) (d : List Byte) (p : PackPlan), s.packPlan a d = .ok p →
    sumNat (p.units.map PackUnit.tokens) ≤ numAt d 80 4 ∧ sumNat (p.units.map PackUnit.bytes) ≤ numAt d 64 4 ∧
    p.units.length ≤ numAt d 68 2 ∧ p.kept.Pairwise (fun x y => x.id ≠ y.id)

/-- R201–R204: ZIN_ENCODE writes the tokens of its segments and their offsets; R211, R212: ZIN_DETOK, on an intact slot, the text of its
tokens and the stream's new state; R208: ZIN_MASK its cursors and masks; each with its status and count; a full output gives 0x6B, a
refused cursor 0x6A. -/
def Obligations.ZinniaTokens : Prop :=
  ∀ (id : Nat) (ext : Ext) (c : Cmd) (s : State),
    let a := c.agent
    let put := fun (t : State) (va : Nat) (bs : List Byte) (bad : Bool) => t.store a c.core c.cls3 va bs bad
    (∀ r ps, s.working id 6 1 = some c → s.encodeAll c (s.vslot (c.n 52 1 % 16)) (c.captured (c.n 24 8)) = .ok r →
      s.pieces a (c.n 32 8) (4 * r.toks.length) true = .ok ps →
      (c.n 40 8 ≠ 0 → ∃ qs, s.pieces a (c.n 40 8) (4 * r.offs.length) true = .ok qs) →
      let bytes4 := fun (l : List Nat) => (l.map (toLE 4)).flatten
      let u := put r.st (c.n 32 8) (bytes4 r.toks) r.bad
      ∃ t, exec (.zinEncode id ext) s = .next t ∧ EngineFrame { s with free := t.free, encRest := t.encRest } t c ∧
        WorkEnds s t c (if r.full then 0x6B else doneOrPoisoned r.bad) (BitVec.ofNat 32 (r.toks.length % 2 ^ 24)) ∧
        t.free = r.st.free ∧ t.encRest = (s.encRest + r.bytes) % 1024 ∧
        t.mem = (if c.n 40 8 = 0 then u else put u (c.n 40 8) (bytes4 r.offs) r.bad).mem) ∧
    (∀ tb ps qs, s.working id 6 2 = some c → s.load a (c.n 24 8) (4 * c.n 40 4) = .ok tb →
      let init := c.bit 48 0
      let st := c.captured (c.n 16 8)
      let k := if init then c.n 49 1 % 16 else numAt st 4 1
      let x := s.vslot k
      let stops := (cut 72 (numAt st 6 1) (c.captured heldStops)).map (fun e => bytesAt e 8 (numAt e 0 1))
      let stopToks := (List.range (numAt st 7 1)).map (fun i => numAt st (16 + 4 * i) 4)
      let flags := numAt st 5 1
      let toks := (List.range (c.n 40 4)).map (fun i => numAt tb (4 * i) 4)
      let str := fun t => (x.toks.getD t { str := [], control := false, unused := false, score := 0 }).str
      let run := Stream.run (Stream.token x stops stopToks flags (c.n 44 4) str)
        { held := if init then [] else bytesAt st 128 (Nat.min 64 (numAt st 64 1)), out := [], consumed := 0, stopped := false
          which := if init then 0xFF else numAt st 65 1 } toks
      let flush := c.bit 48 1 && decide (run.2 = 0)
      let tooMany := flush && decide (c.n 44 4 < run.1.out.length + run.1.held.length)
      let z : Stream := if flush && !tooMany then { run.1 with out := run.1.out ++ run.1.held, held := [] } else run.1
      let code := if tooMany then 0x6B else run.2
      let base := fun off => if init then 0 else numAt st off 8
      let reads := [(c.n 24 8, 4 * c.n 40 4), (numAt st 8 8, 72 * numAt st 6 1)]
      let bad := s.regionsPoisoned a [(c.n 24 8, 4 * c.n 40 4), (c.n 16 8, 256), (numAt st 8 8, 72 * numAt st 6 1)]
      s.workIntact x = true → s.pieces a (c.n 32 8) z.out.length true = .ok ps → s.pieces a (c.n 16 8) 256 true = .ok qs →
      let u := put (s.countRegions a reads) (c.n 32 8) z.out bad
      let u := put u (c.n 16 8) ((if init then toLE 4 x.loadId.toNat ++ [BitVec.ofNat 8 k] else bytesAt st 0 5) ++
        [BitVec.ofNat 8 (flags % 8 + flags / 16 * 16 + 8 * b2n z.stopped)]) bad
      let u := put u (c.n 16 8 + 48) (toLE 8 (base 48 + z.out.length) ++ toLE 8 (base 56 + z.consumed) ++ [BitVec.ofNat 8 z.held.length] ++
        [BitVec.ofNat 8 z.which]) bad
      ∃ t, exec (.zinDetok id ext) s = .next t ∧ EngineFrame s t c ∧
        WorkEnds s t c (if code = 0 then doneOrPoisoned bad else code) (BitVec.ofNat 32 (z.out.length % 2 ^ 24)) ∧
        t.mem = (put u (c.n 16 8 + 128) z.held bad).mem) ∧
    (∀ u n bad, s.working id 6 3 = some c → s.maskAll c = (u, n, bad, none) →
      ∃ t, exec (.zinMask id ext) s = .next t ∧ EngineFrame s t c ∧ t.mem = u.mem ∧
        WorkEnds s t c (if n = 0 then doneOrPoisoned bad else 0x6A) (BitVec.ofNat 32 n))

/-- R197–R200, R206, R207: a load fills its slot with what its image holds, under a new load ID, or leaves it empty with a code: 0x63 and
the KiB needed where the work area is short, what refuses the image, 0x6D and the state where verification finds a mask that differs; an
unload empties it; a slot whose job has ended is emptied once no command uses it. -/
def Obligations.ZinniaSlots : Prop :=
  ∀ (id : Nat) (ext : Ext) (c : Cmd) (s : State),
    let a := c.agent
    let nextId := if s.loadNext = 0xFFFFFFFF then 1 else s.loadNext + 1
    let k := c.n 36 1 % 16
    let image := c.n 16 8
    let empties := fun (status : Byte) (r : BitVec 32) => ∃ t, exec (.zinVocabLoad id ext) s = .next t ∧
      t = { s with eff := t.eff, vocab := t.vocab, cmds := t.cmds } ∧ KeepsEngineRegs s t c ∧ WorkEnds s t c status r ∧
      ∀ j, t.vslot j = if j = k then VocabSlot.empty else s.vslot j
    (s.working id 6 4 = some c →
      (c.bit 37 1 = true → empties 0x00 0) ∧
      (∀ f, c.bit 37 1 = false → c.mayWrite = none → s.readVocab a image (c.n 24 8, c.n 32 4) = .error f → f.awaits = [] → empties f.code 0) ∧
      ∀ v h, c.bit 37 1 = false → s.readVocab a image (c.n 24 8, c.n 32 4) = .ok v → s.load a image 128 = .ok h →
        let n := c.n 32 4
        let need := workNeeded v.v v.merges.length (numAt h 32 4)
        (n < need → empties 0x63 (BitVec.ofNat 32 (ceilDiv need 1024 % 2 ^ 24))) ∧
        ∀ ps, need ≤ n → s.pieces a (c.n 24 8) n true = .ok ps →
          ∃ t, exec (.zinVocabLoad id ext) s = .next t ∧
            EngineFrame { s with free := s.free + n, vocab := t.vocab, loadNext := nextId } t c ∧ WorkEnds s t c 0x00 0 ∧
            t.mem = ((s.countRegions a (vocabRegions image h)).store a c.core c.cls3 (c.n 24 8) (workBytes s.free n) false).mem ∧
            ∀ j, t.vslot j = if j = k then
                { v with shared := c.bit 37 0, owner := s.cmdGroup c, job := c.job, loadId := s.loadNext
                         work := ps.map (fun p => (s.home p.1, p.2)), seed := s.free }
              else s.vslot j) ∧
    (s.working id 6 5 = some c →
      let k := c.n 24 1 % 64
      let voc := s.vslot (c.n 25 1 % 16)
      let empties := fun (status : Byte) (r : BitVec 32) => ∃ t, exec (.zinGrammarLoad id ext) s = .next t ∧
        t = { s with grammar := t.grammar, cmds := t.cmds } ∧ WorkEnds s t c status r ∧
        ∀ j, t.gslot j = if j = k then GrammarSlot.empty else s.gslot j
      (c.bit 26 1 = true → empties 0x00 0) ∧
      ∀ h, c.bit 26 1 = false → s.load a image 64 = .ok h →
        let x : GrammarSlot := { state := .ready, shared := c.bit 26 0, owner := s.cmdGroup c, job := c.job, ended := false, loadId := 0
                                 verified := c.bit 26 2, header := h }
        (grammarHeader h = false ∨ image % 64 ≠ 0 → empties 0x64 0) ∧
        (grammarHeader h = true → image % 64 = 0 →
          (voc.v ≠ numAt h 12 4 ∨ numAt h 16 8 ≠ voc.tag.toNat → empties 0x65 0) ∧
          (voc.v = numAt h 12 4 → numAt h 16 8 = voc.tag.toNat →
            (∀ n, c.bit 26 2 = true → s.verifyFrom a x x.states 0 = .ok (some n) → empties 0x6D (BitVec.ofNat 32 n)) ∧
            ((c.bit 26 2 = true → s.verifyFrom a x x.states 0 = .ok none) →
              ∃ t, exec (.zinGrammarLoad id ext) s = .next t ∧
                EngineFrame { s with grammar := t.grammar, loadNext := nextId } t c ∧ WorkEnds s t c 0x00 0 ∧
                t.mem = (s.countRegions a (grammarRegions image x)).mem ∧
                ∀ j, t.gslot j = if j = k then { x with loadId := s.loadNext } else s.gslot j)))) ∧
    (∀ (g : Bool) (slot : BitVec 6), (Instr.slotUnload g slot).wf = true →
      ∃ t, exec (.slotUnload g slot) s = .next t ∧ t = { s with vocab := t.vocab, grammar := t.grammar } ∧
        (∀ j, t.vslot j = if g = false ∧ j = slot.toNat ∧ (s.vslot j).ended = true ∧ s.vocabInUse s.nextCmd j = false then VocabSlot.empty
          else s.vslot j) ∧
        ∀ j, t.gslot j = if g = true ∧ j = slot.toNat ∧ (s.gslot j).ended = true ∧ s.grammarInUse s.nextCmd j = false then GrammarSlot.empty
          else s.gslot j)

/-- R252–R257: FXG_MOVE stores the source tensor at each destination; with ALLOC it takes first-fit space that no other entry of the arena
meets, under a free handle that a free value chooses (log 35), zero-fills the rest and writes its record, or ends with 0x88 where no entry
is free, with 0x84 where there is no space, and then changes nothing but flash read counters. R258: FXG_EVICT frees, unpins or pins the
entry its record names and writes the record's flags; where the record names none any more it ends with 0x85. -/
def Obligations.FoxgloveCommands : Prop :=
  ∀ (id : Nat) (ext : Ext) (c : Cmd) (s : State),
    let a := c.agent
    let x := c.fxgSrc
    let y := c.fxgDst
    let src := x.rowsRegion 0 x.rows
    let s0 := s.countRegions a src
    let bad := s.regionsPoisoned a src
    let k := c.fxgArena
    let n := ceilDiv y.allBytes 65536
    (s.working id 7 1 = some c → s.readable a src = .ok () →
      (c.fxgAlloc = false →
        ∃ t, exec (.fxgMove id ext) s = .next t ∧ EngineFrame s t c ∧ WorkEnds s t c (doneOrPoisoned bad) 0 ∧
          t.mem = (s0.moveCopies s c bad).mem) ∧
      ∀ ps, c.fxgAlloc = true → s0.pieces a (c.n 32 8) 64 true = .ok ps →
        (16384 ≤ s.fxg.length → ∃ t, exec (.fxgMove id ext) s = .next t ∧ EngineFrame s t c ∧ t.mem = s0.mem ∧ WorkEnds s t c 0x88 0) ∧
        (s.fxg.length < 16384 → s0.takeSpace (partOfCore c.core) k n = none →
          ∃ t, exec (.fxgMove id ext) s = .next t ∧ EngineFrame s t c ∧ t.mem = s0.mem ∧ WorkEnds s t c 0x84 0) ∧
        ∀ u off, s.fxg.length < 16384 → s0.takeSpace (partOfCore c.core) k n = some (u, off) → u.readable a src = .ok () →
          let e : FxgEntry := { gen := s.fxgGen, arena := k, offset := off, granules := n, group := s.cmdGroup c
                                partition := partOfCore c.core, job := c.job, pinned := !(c.bit 48 1), unpinTime := s.now, core := c.core
                                record := (ps.headD (0, 0)).1 }
          let v : State := { u.drawn with fxg := SMap.insert u.fxg u.freeHandle e, fxgGen := s.fxgGen + 1 }
          let va := apertureVa k off
          ∃ t, exec (.fxgMove id ext) s = .next t ∧
            EngineFrame { s with free := s.free + 1, cores := t.cores, fxg := t.fxg, fxgGen := s.fxgGen + 1 } t c ∧
            (∀ m, t.core m = { s.core m with writeFailed := (t.core m).writeFailed }) ∧ WorkEnds s t c (doneOrPoisoned bad) 0 ∧
            off + n * 65536 ≤ (s.arena k).2 ∧ (∀ e ∈ u.fxg, e.2.arena = k → overlaps off (n * 65536) e.2.offset (e.2.granules * 65536) = false) ∧
            (∀ h, SMap.find u.fxg h ≠ none → SMap.find s.fxg h = SMap.find u.fxg h) ∧
            (∀ h, SMap.find t.fxg h = if h = u.freeHandle then some e else SMap.find u.fxg h) ∧
            t.mem = (((v.moveTensor v a c x (y.placedAt va) bad).store a c.core c.cls3 (va + y.allBytes) (zeros (n * 65536 - y.allBytes))
              false).store a c.core c.cls3 (c.n 32 8)
                (handleRecord (c.captured (c.n 24 8)) va y s.fxgGen.toNat u.freeHandle (b2n (!(c.bit 48 1))) (c.n 49 1 % 4) n) bad).mem) ∧
    (s.working id 7 2 = some c →
      let r := c.captured (c.n 16 8)
      (s.recordEntry c r = none → ∃ t, exec (.fxgEvict id ext) s = .next t ∧ t = { s with cmds := t.cmds } ∧ WorkEnds s t c 0x85 0) ∧
      ∀ h e, s.recordEntry c r = some (h, e) →
        let op := c.n 24 1 % 4
        let flags := if op = 0 then 4 + b2n e.pinned else if op = 1 then 0 else 1
        ∃ t, exec (.fxgEvict id ext) s = .next t ∧ EngineFrame { s with fxg := t.fxg } t c ∧ WorkEnds s t c 0x00 0 ∧
          t.mem = (({ s with fxg := t.fxg } : State).store a c.core c.cls3 (c.n 16 8 + 38) [BitVec.ofNat 8 flags] false).mem ∧
          ∀ j, SMap.find t.fxg j = if j = h then
            (if op = 0 then none else if op = 1 then some { e with pinned := false, unpinTime := s.now } else some { e with pinned := true })
            else SMap.find s.fxg j)

/-! ### Flash and storage -/

/-- R249, R273, R277: HLY_READ stores the blocks it reads and ends with 0x91 and their number where blocks are unrecovered; an
invalidation runs until the accesses it covers and that were then under way have completed, a second one meanwhile being counted and
otherwise ignored. R269, R276–R278: a refresh, a failed program, garbage collection and a rebuilt page move mapped blocks to free slots,
their data unchanged, those of a rebuilt page to other pages, where they read without error; a failed program or erase retires the erase
block; an erase clears its read counter and counts; a failed rebuild leaves its block unrecovered. -/
def Obligations.FlashAndInvalidations : Prop :=
  (∀ (id : Nat) (ext : Ext) (c : Cmd) (s : State),
    (s.working id 8 1 = some c →
      let blocks := (List.range (c.n 32 4)).map (fun i => c.n 16 8 + i)
      let bad := (blocks.filter (fun b => (s.block b).bad)).length
      ∃ t, exec (.hlyRead id ext) s = .next t ∧ EngineFrame s t c ∧
        WorkEnds s t c (if bad = 0 then 0x00 else 0x91) (BitVec.ofNat 32 (satNat 16 bad)) ∧
        t.mem = ((s.countFlashReads blocks).storeBlocks s c).mem) ∧
    (∀ v : Word, s.stopped = false → 1 ≤ s.start.stage →
      let i : MmuInval := { job := v.extractLsb' 48 16, page := v.extractLsb' 12 36, size := v.extractLsb' 10 2 }
      let page := 2 ^ (12 + 9 * i.size.toNat)
      (s.mmuInval = none →
        exec (.mmuInval v) s = .next { s with
          mmuInval := some i
          reqs := s.reqs.map (fun e => (e.1, { e.2 with
            inval := decide (e.2.job = i.job ∧ (i.size = 3 ∨ e.2.va / page = i.page.toNat * 4096 / page)) })) }) ∧
      (s.mmuInval ≠ none →
        ∃ t, exec (.mmuInval v) s = .next t ∧ t = { s with eff := t.eff } ∧ (∀ a, a ≠ Reg.hubMmuInvalStatus → t.reg a = s.reg a) ∧
          t.regFld Reg.hubMmuInvalStatus 0 16 = Nat.min 65535 (s.regFld Reg.hubMmuInvalStatus 0 16 + 1) ∧
          (t.reg Reg.hubMmuInvalStatus).extractLsb' 16 48 = (s.reg Reg.hubMmuInvalStatus).extractLsb' 16 48)) ∧
    (∀ i, s.mmuInval = some i → s.stopped = false →
      ((∀ r ∈ s.reqs, r.2.inval = false) → exec .mmuInvalDone s = .next { s with mmuInval := none }) ∧
      ((∃ r ∈ s.reqs, r.2.inval = true) → exec .mmuInvalDone s = .next s))) ∧
  (∀ (block : BitVec 21) (lba : BitVec 33) (moves : List (BitVec 33 × FlashSlot)) (erased : Bool) (s : State), s.stopped = false →
    let k := block.toNat
    let ms := movesOf moves
    let x := s.eb k
    let frame := fun (t : State) =>
      t = { s with mem := t.mem, owner := t.owner, poison := t.poison, eff := t.eff, flash := t.flash, erase := t.erase, pf1 := t.pf1, ahead := t.ahead } ∧
      (∀ a, a < 0x1100000 → ¬ CounterReg a → a ≠ Reg.hlyHealthWr → a ≠ Reg.hlyHealthLost → a ≠ Reg.hlyRetired → a ≠ Reg.hlyStatus →
        t.reg a = s.reg a) ∧ ∀ j, j ≠ k → t.eb j = s.eb j
    let moved := fun (t : State) (rebuilt : Bool) => ∀ b,
      ((∀ m ∈ ms, m.1 ≠ b) → t.block b = s.block b) ∧
      ((∃ m ∈ ms, m.1 = b) → t.block b = { s.block b with entry := (t.block b).entry, bad := (s.block b).bad && !rebuilt } ∧
        ∃ m ∈ ms, m.1 = b ∧ (t.block b).entry = mapTo m.2)
    let retired := fun (t : State) => t.eb k = { x with retired := true } ∧
      t.regFld Reg.hlyRetired 0 17 = Nat.min 65536 (s.regFld Reg.hlyRetired 0 17 + 1)
    ((x.refresh = true ∨ x.hard = true) → s.movesOk (s.slotsIn k) ms k = true →
      ∃ t, exec (.readRefresh block moves) s = .next t ∧ frame t ∧ moved t false ∧ t.mem = s.mem ∧
        t.eb k = { x with refresh := false, hard := false }) ∧
    (x.retired = false → s.movesOk (s.slotsIn k) ms k = true →
      ∃ t, exec (.programFail block moves) s = .next t ∧ frame t ∧ moved t false ∧ retired t) ∧
    (x.retired = false → s.slotsIn k = [] → ∃ t, exec (.eraseFail block) s = .next t ∧ frame t ∧ t.flash = s.flash ∧ retired t) ∧
    (x.retired = false → s.slotsFree (ms.map Prod.snd) = true → allDistinct (ms.map Prod.fst) = true →
      (∀ m ∈ ms, m.1 ∈ s.slotsIn k ∧ slotBlock m.2 ≠ k) → (erased = true → ∀ b ∈ s.slotsIn k, ∃ m ∈ ms, m.1 = b) →
      ∃ t, exec (.garbageCollection block moves erased) s = .next t ∧ frame t ∧ moved t false ∧
        t.eb k = if erased then { EraseBlock.fresh with erases := x.erases + 1 } else x) ∧
    ((s.block lba.toNat).mapped = true →
      let b := lba.toNat
      let page := s.slotsOfPage (fld (s.block b).entry 2 31)
      (s.slotsFree (moves.map Prod.snd) = true → moves.length = page.length → (∀ p ∈ page, ∃ m ∈ moves, m.1.toNat = p) →
        (∀ m ∈ moves, slotPage m.2 ≠ fld (s.block b).entry 2 31) →
        ∃ t, exec (.parityRebuilt lba true moves) s = .next t ∧ t.erase = s.erase ∧ frame t ∧ moved t true) ∧
      ((s.block b).bad = false →
        ∃ t, exec (.parityRebuilt lba false moves) s = .next t ∧ t.erase = s.erase ∧ frame t ∧
          ∀ j, t.block j = if j = b then { s.block b with bad := true } else s.block j)))

/-- R8, R275, R281–R283, R285, R288, NVMe's doorbells and CC: outside a stop a doorbell with a value the queue has moves its pointer; a fetch
takes the entry of the queue whose turn it is, with its lock ranges, or done with the status of the check it fails; a command that nothing
earlier holds back starts, an I/O command only once Hollyhock's arbitration has granted it, then leaving PS2; a write of CC leaves its
reserved bits zero; one that enables makes the admin queues, one that disables, and a controller level reset, drops queues and commands;
one that requests shutdown sets SHST. -/
def Obligations.StorageController : Prop :=
  ∀ (q : BitVec 16) (v : BitVec 32) (s : State), s.stopped = false →
    (exec .controllerLevelReset s = .next { s with pf1 := s.pf1.cleared true } ∧ (s.pf1.cleared true).sqs = [] ∧ (s.pf1.cleared true).cmds = []) ∧
    (1 ≤ s.start.stage → ∃ t, exec (.controllerConfiguration v) s = .next t ∧ t = { s with pf1 := t.pf1 } ∧ t.pf1.cc = v &&& 0x01FFFFF1 ∧
      (v.getLsbD 0 = false → s.pf1.cc.getLsbD 0 = true → t.pf1 = { s.pf1.cleared false with cc := v &&& 0x01FFFFF1 }) ∧
      (v.getLsbD 0 = true → v.extractLsb' 14 2 ≠ 0 → s.pf1.cc.extractLsb' 14 2 = 0 →
        t.pf1.shst = if s.pf1.drained = true ∧ s.pf1.closing = false then 2 else 1) ∧
      (v.getLsbD 0 = true → s.pf1.cc.getLsbD 0 = false →
        t.pf1.sqs = [(0, { base := (s.pf1.asq.extractLsb' 12 52).toNat * 4096, size := (s.pf1.aqa.extractLsb' 0 12).toNat + 1, cq := 0
                           head := 0, tail := 0, frozen := false, logRead := false })] ∧
        t.pf1.cqs = [(0, { base := (s.pf1.acq.extractLsb' 12 52).toNat * 4096, size := (s.pf1.aqa.extractLsb' 16 12).toNat + 1
                           head := 0, tail := 0, phase := true })])) ∧
    (∀ x, SMap.find s.pf1.sqs q.toNat = some x → v.toNat < x.size →
      ∃ t, exec (.pf1SqDoorbell q v) s = .next t ∧ t = { s with pf1 := { s.pf1 with sqs := t.pf1.sqs } } ∧ KeepsSqs q.toNat s t ∧
        SMap.find t.pf1.sqs q.toNat = some { x with tail := v.toNat }) ∧
    (∀ y, SMap.find s.pf1.cqs q.toNat = some y → v.toNat < y.size →
      ∃ t, exec (.pf1CqDoorbell q v) s = .next t ∧ t = { s with pf1 := { s.pf1 with cqs := t.pf1.cqs } } ∧
        ∀ j, SMap.find t.pf1.cqs j = if j = q.toNat then some { y with head := v.toNat } else SMap.find s.pf1.cqs j) ∧
    (∀ x bs ranges, SMap.find s.pf1.sqs q.toNat = some x → s.sqTurn = some q.toNat →
      let c : NvmeCmd := { fid := s.pf1.nextFid, sq := q.toNat, word := bs.take 64 ++ zeros (64 - bs.length), ranges := [], reads := false
                           phase := .fetched, silent := false }
      let takes := fun (d : NvmeCmd) => ∃ t, exec (.nvmeFetch q (.data bs) ranges) s = .next t ∧
        t = { s with flows := t.flows, pf1 := { s.pf1 with
          sqs := t.pf1.sqs, nextFid := s.pf1.nextFid + 1, last := q.toNat, cmds := s.pf1.cmds ++ [d] } } ∧
        ((d.phase ≠ .fetched ∨ d.sq = 0 ∨ ∃ e ∈ s.pf1.cmds, e.waits = true) → t.flows = s.flows) ∧
        (d.phase = .fetched → d.sq ≠ 0 → (∀ e ∈ s.pf1.cmds, e.waits = false) → (t.flow pf1Flow).start = s.virt 108) ∧
        KeepsSqs q.toNat s t ∧ SMap.find t.pf1.sqs q.toNat = some { x with head := (x.head + 1) % x.size }
      (s.nvmeCheck c ranges = none → s.locksUsed + (nvmeRanges c ranges).length ≤ 1024 →
        takes { c with ranges := nvmeRanges c ranges, reads := decide (c.op = 2) }) ∧
      (s.nvmeCheck c ranges = none → 1024 < s.locksUsed + (nvmeRanges c ranges).length →
        exec (.nvmeFetch q (.data bs) ranges) s = .next s) ∧
      ∀ sct sc, s.nvmeCheck c ranges = some (sct, sc) → s.locksUsed ≤ 1024 →
        takes { c with reads := decide (c.op = 2), phase := .done sct sc 0 }) ∧
    (∀ c fid, s.nvme fid = some c → s.nvmeReady c = true → c.sq ≠ 0 →
      (c.granted = false → exec (.nvmeCommandStart fid) s = .next s) ∧
      (c.granted = true →
        ∃ t, exec (.nvmeCommandStart fid) s = .next t ∧
          t = { s with pf1 := { s.pf1 with cmds := t.pf1.cmds, ps := if s.pf1.ps = 2 then 0 else s.pf1.ps } } ∧
          ∀ j, t.nvme j = if j = fid then some { c with phase := .started, begun := true } else s.nvme j)) ∧
    (∀ c fid, s.nvme fid = some c → s.nvmeReady c = true → c.sq = 0 → c.op ∈ [0x00, 0x01, 0x02, 0x05, 0x80, 0xC1] →
      ∃ t, exec (.nvmeCommandStart fid) s = .next t ∧ t = { s with pf1 := { s.pf1 with cmds := t.pf1.cmds } } ∧
        ∀ j, t.nvme j = if j = fid then some { c with phase := .started, begun := true } else s.nvme j)

/-- R273, R282, R284, Table 11.5: a read returns its blocks' data, or ends with an unrecovered read error; a write maps its blocks to the
slots with the host's data, all at once; Write Zeroes and a deallocate leave their blocks unmapped, which read as zeros; Flush waits for
earlier writes. Other blocks keep their mapping and data. -/
def Obligations.StorageReadsAndWrites : Prop :=
  ∀ (fid : Nat) (c : NvmeCmd) (s : State),
    let reads := (List.range c.nlb).map (fun i => c.lba + i)
    let frame := fun (t : State) => t = { s with eff := t.eff, flash := t.flash, pf1 := { s.pf1 with cmds := t.pf1.cmds }, ahead := t.ahead } ∧
      KeepsWindows s t ∧ NvmeEnds s t c 0 0 0
    (∀ prps, s.nvmeStarted fid true 2 = some c →
      let u := s.countFlashReads reads
      ((∃ b ∈ reads, (s.block b).bad = true) →
        ∃ t, exec (.nvmeRead fid prps) s = .next t ∧ t = { u with pf1 := { u.pf1 with cmds := t.pf1.cmds } } ∧ NvmeEnds s t c 2 0x81 0) ∧
      ((∀ b ∈ reads, (s.block b).bad = false ∧ (s.block b).data.length ≤ 4096) → c.n 24 8 % 4096 + 4096 * c.nlb ≤ 8192 →
        ∃ t outs, exec (.nvmeRead fid prps) s = .next t ∧
          t = { u with out := s.out ++ outs, pf1 := { u.pf1 with cmds := t.pf1.cmds } } ∧ NvmeEnds s t c 0 0 0 ∧
          (c.nlb = 1 → c.n 24 8 % 4096 = 0 → outs = [.hostWrite 0 (c.n 24 8) (s.blockBytes c.lba) false]))) ∧
    (∀ bs place, s.nvmeStarted fid true 1 = some c → place.length = c.nlb → s.slotsFree place = true →
      ∃ t, exec (.nvmeWrite fid (.data bs) place) s = .next t ∧ frame t ∧
        (∀ i < c.nlb, t.block (c.lba + i) = { entry := mapTo (place.getD i 0), data := bytesAt bs (4096 * i) 4096, bad := false }) ∧
        ∀ b, ¬(c.lba ≤ b ∧ b < c.lba + c.nlb) → t.block b = s.block b) ∧
    (s.nvmeStarted fid true 8 = some c →
      ∃ t, exec (.writeZeroes fid) s = .next t ∧ frame t ∧
        (∀ b, c.lba ≤ b → b < c.lba + c.nlb → (t.block b).mapped = false ∧ t.blockBytes b = zeros 4096) ∧
        ∀ b, ¬(c.lba ≤ b ∧ b < c.lba + c.nlb) → t.block b = s.block b) ∧
    (s.nvmeStarted fid true 9 = some c →
      let picked := fun b => ∃ r ∈ c.ranges, r.1 ≤ b ∧ b < r.1 + r.2
      ∃ t, exec (.datasetManagement fid) s = .next t ∧ frame t ∧ (∀ b, picked b → (t.block b).mapped = false ∧ t.blockBytes b = zeros 4096) ∧
        ∀ b, ¬ picked b → t.block b = s.block b) ∧
    (s.nvmeStarted fid true 0 = some c →
      ((∀ d ∈ s.pf1.cmds, d.fid < c.fid → d.reads = false → d.ranges ≠ [] → d.isDone = true) →
        ∃ t, exec (.flush fid) s = .next t ∧ frame t ∧ t.flash = s.flash) ∧
      ((∃ d ∈ s.pf1.cmds, d.fid < c.fid ∧ d.reads = false ∧ d.ranges ≠ [] ∧ d.isDone = false) → exec (.flush fid) s = .next s))

/-- R281, R286, R287: the completion whose turn it is, of the commands done whose completion queue has room the one done first, is posted,
after an error log entry where an I/O command failed, whose queue then freezes and whose later commands not started end with 0x96; no
other is posted before it; Queue Restart unfreezes a queue whose error log was read, and fails
with 0x94 or 0x95 otherwise; Get Log Page returns the error log. -/
def Obligations.StorageErrorHandling : Prop :=
  ∀ (fid : Nat) (c : NvmeCmd) (s : State),
    (s.stopped = false → (∀ d, s.nextPosted = some d → d.fid ≠ fid) → exec (.nvmeCompletion fid) s = .next s) ∧
    (∀ sct sc dw0 x y, s.stopped = false → s.nextPosted = some c → c.fid = fid → c.phase = .done sct sc dw0 → s.cqFor c = some (x, y) →
      let rest := s.pf1.cmds.filter (fun d => !(d.fid = fid))
      let hit := fun (d : NvmeCmd) => decide (d.sq = c.sq) && decide (fid < d.fid) && !d.begun && !d.silent
      let failed := decide (sc + sct * 256 ≠ 0) && decide (c.sq ≠ 0) && !c.silent
      let freezes := failed && !x.frozen
      ∃ t, exec (.nvmeCompletion fid) s = .next t ∧ t = { s with out := t.out, pf1 := t.pf1 } ∧
        t.out = s.out ++ [.hostWrite 0 (y.base + 16 * y.tail)
          (completionEntry dw0 x.head c.sq c.cid (sc + sct * 256) y.phase) false] ∧
        t.pf1.errors = (if failed then [errorEntry (s.pf1.errCount + 1) c (sc + sct * 256) y.phase] else []) ++ s.pf1.errors ∧
        (∀ j, SMap.find t.pf1.cqs j = if j = x.cq then
          some { y with tail := (y.tail + 1) % y.size, phase := if y.tail + 1 = y.size then !y.phase else y.phase }
          else SMap.find s.pf1.cqs j) ∧
        t.pf1.cmds = (if freezes then rest.filter (fun d => !(hit d)) ++
          (rest.filter hit).map (fun d => { d with phase := .done 7 0x96 0, silent := true }) else rest) ∧
        (∀ z, SMap.find t.pf1.sqs c.sq = some z → z.frozen = (x.frozen || freezes)) ∧
        ∀ j z, j ≠ c.sq → SMap.find t.pf1.sqs j = some z → ∃ z0, SMap.find s.pf1.sqs j = some z0 ∧ z = { z0 with logRead := z.logRead }) ∧
    (s.nvmeStarted fid false 0xC1 = some c →
      let q := c.cdw 10 % 65536
      (SMap.find s.pf1.sqs q = none → ∃ t, exec (.queueRestart fid) s = .next t ∧ NvmeEnds s t c 7 0x95 0 ∧ t.pf1.sqs = s.pf1.sqs) ∧
      ∀ x, SMap.find s.pf1.sqs q = some x →
        ∃ t, exec (.queueRestart fid) s = .next t ∧ t = { s with pf1 := { s.pf1 with cmds := t.pf1.cmds, sqs := t.pf1.sqs } } ∧
          KeepsSqs q s t ∧
          (x.frozen = false → NvmeEnds s t c 7 0x95 0 ∧ t.pf1.sqs = s.pf1.sqs) ∧
          (x.frozen = true → x.logRead = false → NvmeEnds s t c 7 0x94 0 ∧ t.pf1.sqs = s.pf1.sqs) ∧
          (x.frozen = true → x.logRead = true → NvmeEnds s t c 0 0 0 ∧
            SMap.find t.pf1.sqs q = some { x with frozen := false, logRead := false })) ∧
    (∀ prps, s.nvmeStarted fid false 2 = some c → c.cdw 10 % 256 = 1 →
      let n := 4 * (c.cdw 10 / 65536 + c.cdw 11 % 65536 * 65536 + 1)
      let bs := bytesAt s.pf1.errors.flatten (c.n 48 8) n
      n ≤ 4096 → c.n 24 8 % 4096 = 0 →
      ∃ t, exec (.getLogPage fid prps) s = .next t ∧ NvmeEnds s t c 0 0 0 ∧
        t = { s with free := s.free + n, out := s.out ++ [.hostWrite 0 (c.n 24 8) (bs ++ zeros (n - bs.length)) false]
                     pf1 := { s.pf1 with cmds := t.pf1.cmds } })

/-- Table 11.5, R285, R287: Create I/O Completion Queue and Create I/O Submission Queue make a queue the number, the size and the flags
allow, and refuse IEN = 1; Delete I/O Submission Queue drops a queue with its waiting commands; a power-state entry ends its Set Features;
Format NVM unmaps every block. -/
def Obligations.StorageAdministration : Prop :=
  ∀ (fid : Nat) (c : NvmeCmd) (s : State),
    let q := c.cdw 10 % 65536
    let size := c.cdw 10 / 65536
    let cmdsOnly := fun (t : State) => t = { s with pf1 := { s.pf1 with cmds := t.pf1.cmds } }
    (s.nvmeStarted fid false 5 = some c → q ≠ 0 → q ≤ 128 → SMap.find s.pf1.cqs q = none → size ≠ 0 → size ≤ 4095 →
      ((c.cdw 11).testBit 1 = true → ∃ t, exec (.createIoCompletionQueue fid) s = .next t ∧ cmdsOnly t ∧ NvmeEnds s t c 0 0x02 0) ∧
      ((c.cdw 11).testBit 1 = false → (c.cdw 11).testBit 0 = true →
        ∃ t, exec (.createIoCompletionQueue fid) s = .next t ∧ t = { s with pf1 := { s.pf1 with cmds := t.pf1.cmds, cqs := t.pf1.cqs } } ∧
          NvmeEnds s t c 0 0 0 ∧ ∀ j, SMap.find t.pf1.cqs j = if j = q then
            some { base := c.n 24 8, size := size + 1, head := 0, tail := 0, phase := true } else SMap.find s.pf1.cqs j)) ∧
    (s.nvmeStarted fid false 1 = some c → q ≠ 0 → q ≤ 128 → SMap.find s.pf1.sqs q = none → size ≠ 0 → size ≤ 4095 →
      (c.cdw 11).testBit 0 = true →
      let cq := c.cdw 11 / 65536
      cq ≠ 0 → cq ≤ 128 →
      (SMap.find s.pf1.cqs cq = none → ∃ t, exec (.createIoSubmissionQueue fid) s = .next t ∧ cmdsOnly t ∧ NvmeEnds s t c 1 0x00 0) ∧
      (SMap.find s.pf1.cqs cq ≠ none →
        ∃ t, exec (.createIoSubmissionQueue fid) s = .next t ∧ t = { s with pf1 := { s.pf1 with cmds := t.pf1.cmds, sqs := t.pf1.sqs } } ∧
          NvmeEnds s t c 0 0 0 ∧ KeepsSqs q s t ∧ SMap.find t.pf1.sqs q =
            some { base := c.n 24 8, size := size + 1, cq := cq, head := 0, tail := 0, frozen := false, logRead := false })) ∧
    (s.nvmeStarted fid false 0 = some c → q ≠ 0 → c.sq ≠ q →
      (SMap.find s.pf1.sqs q = none → ∃ t, exec (.deleteIoSubmissionQueue fid) s = .next t ∧ cmdsOnly t ∧ NvmeEnds s t c 1 0x01 0) ∧
      (SMap.find s.pf1.sqs q ≠ none → (∃ d ∈ s.pf1.cmds, d.sq = q ∧ d.phase = .started) → exec (.deleteIoSubmissionQueue fid) s = .next s) ∧
      (SMap.find s.pf1.sqs q ≠ none → (∀ d ∈ s.pf1.cmds, d.sq = q → d.phase ≠ .started) →
        ∃ t, exec (.deleteIoSubmissionQueue fid) s = .next t ∧ t = { s with pf1 := { s.pf1 with cmds := t.pf1.cmds, sqs := t.pf1.sqs } } ∧
          KeepsSqs q s t ∧ SMap.find t.pf1.sqs q = none ∧ (∀ d ∈ t.pf1.cmds, d.sq ≠ q) ∧
          t.nvme c.fid = some { c with phase := .done 0 0 0 })) ∧
    (s.nvmeStarted fid false 9 = some c → c.cdw 10 % 256 = 2 → s.pf1.entering = none →
      (c.cdw 11 % 32 ≤ 2 →
        exec (.setFeaturesPowerManagement fid) s = .next { s with pf1 := { s.pf1 with entering := some (c.cdw 11 % 32, fid) } }) ∧
      (2 < c.cdw 11 % 32 → ∃ t, exec (.setFeaturesPowerManagement fid) s = .next t ∧ cmdsOnly t ∧ NvmeEnds s t c 0 0x02 0)) ∧
    (∀ k, s.stopped = false → s.pf1.entering = some (k, fid) → s.nvme fid = some c →
      ∃ t, exec .powerStateEntry s = .next t ∧ t = { s with pf1 := { s.pf1 with cmds := t.pf1.cmds, ps := k, entering := none } } ∧
        NvmeEnds s t c 0 0 0) ∧
    (s.nvmeStarted fid false 0x80 = some c → c.n 4 4 = 1 ∨ c.n 4 4 = 0xFFFFFFFF → c.cdw 10 % 16 = 0 → c.cdw 10 / 512 % 8 ≤ 2 →
      ∃ t, exec (.formatNvm fid) s = .next t ∧ (∀ b, (t.block b).mapped = false ∧ t.blockBytes b = zeros 4096) ∧ NvmeEnds s t c 0 0 0 ∧
        t.pf1 = { s.pf1 with cmds := t.pf1.cmds, keyGen := if c.cdw 10 / 512 % 8 = 0 then s.pf1.keyGen else s.pf1.keyGen + 1 } ∧
        t = { s with eff := t.eff, flash := t.flash, pf1 := t.pf1, ahead := t.ahead })

/-! ### Host interface -/

/-- R6, R291, R295–R297, R368, R384, R134: before STAGE1, in D3hot, out of range or unaligned, a host access is answered as an error; a write of a whole
data register changes its RW, W1C and W1S bits by their access code and stages its RWS bits; a stopped module holds it outside MGD_ and
HTR_; a read returns the register's bytes and clears the RC fields it covers whole; a counter that wraps advances EPOCH and sets WRAPPED.
-/
def Obligations.HostRegisterAccess : Prop :=
  ∀ (off : BitVec 26) (data : List Byte) (reads : List HostRead) (r : RegRef) (s : State),
    let a := off.toNat
    let outs := fun (i : Instr) (o : Out) => exec i s = .next (s.send o)
    (s.start.stage = 0 → data.length ≤ 8 → outs (.registerWrite (.fn 0) off data reads) .aerUnsupported) ∧
    (s.start.stage = 0 → outs (.readClear (.fn 0) off 4) .unsupportedRequest) ∧
    (1 ≤ s.start.stage → a % 4 ≠ 0 → ∃ t, exec (.readClear (.fn 0) off 4) s = .next t ∧ t = { s with eff := t.eff, out := t.out } ∧
      t.out = s.out ++ [.unsupportedRequest] ∧ KeepsButCounters s t) ∧
    (s.asleep (.fn 0) = true → outs (.readClear (.fn 0) off 4) .unsupportedRequest ∧ outs (.registerWrite (.fn 0) off data reads) .aerUnsupported) ∧
    (s.asleep (.fn 0) = false → regAt a = some r → r.desc.wo = 0 → isApply a = false → a % 4 = 0 → data.length = (if r.desc.wide then 8 else 4) → a % data.length = 0 →
      a + data.length ≤ 0x4000000 → a ≠ Reg.mgdStopCtrl → a ≠ Reg.dbgCtrl → a ≠ Reg.dbgTrigger → nth a (Reg.pnyCcStatus 0) 4096 64 = none →
      nth a (Reg.mgdGrpRentry 0) 16 16 = none → fnOf a = none → 2 ≤ s.start.stage →
      let m : Word := BitVec.ofNat 64 (2 ^ (8 * data.length) - 1)
      let v : Word := BitVec.ofNat 64 (leNat data)
      let bits := fun (x : Nat) => BitVec.ofNat 64 x &&& m
      (s.stopped = true → servedStopped a = false → s.stop.held.length < 4096 →
        exec (.registerWrite (.fn 0) off data reads) s =
          .next { s with stop := { s.stop with held := s.stop.held ++ [.reg (.fn 0) a data] } }) ∧
      (s.stopped = false ∨ servedStopped a = true →
        ∃ t, exec (.registerWrite (.fn 0) off data reads) s = .next t ∧ t = { s with eff := t.eff, stg := t.stg } ∧
          (∀ b, b ≠ a → t.reg b = s.reg b ∧ SMap.find t.stg b = SMap.find s.stg b) ∧
          t.reg a = ((((s.reg a &&& ~~~(bits r.desc.rw)) ||| (v &&& bits r.desc.rw)) &&& ~~~(v &&& bits r.desc.w1c)) |||
            (v &&& bits r.desc.w1s)) ∧
          (r.desc.rws = 0 → t.stg = s.stg))) ∧
    (s.asleep (.fn 0) = false → regAt a = some r → a % 4 = 0 → a % (if r.desc.wide then 8 else 4) = 0 → a < 0x4000000 → fnOf a = none → 1 ≤ s.start.stage →
      let n := if r.desc.wide then 8 else 4
      ∃ t, exec (.readClear (.fn 0) off n) s = .next t ∧ t = { s with eff := t.eff, out := t.out } ∧
        t.out = s.out ++ [.readData (s.readBytes a n) false] ∧ (∀ b, b ≠ a → t.reg b = s.reg b) ∧
        (s.stopped = true → t.eff = s.eff) ∧
        (s.stopped = false → ∀ i, (t.reg a).getLsbD i = ((s.reg a).getLsbD i &&
          !(r.desc.rc.any (fun f => decide ((BitVec.ofNat 64 f : Word) &&& ~~~(BitVec.ofNat 64 (2 ^ (8 * n) - 1)) = 0) &&
            (BitVec.ofNat 64 f : Word).getLsbD i))))) ∧
    (∀ w, regAt a = some r → r.desc.wrap = some w → (s.reg a).extractLsb' 0 48 = 0xFFFFFFFFFFFF#48 →
      let wa := w.base + w.s1 * r.i + 4 * ((w.bit + w.b1 * r.i + w.b2 * r.j) / 32)
      wa ≠ a →
      ∃ t, exec (.counterWrap off) s = .next t ∧ t = { s with eff := t.eff } ∧ (∀ b, b ≠ a → b ≠ wa → t.reg b = s.reg b) ∧
        (t.reg a).extractLsb' 0 48 = 0 ∧ (t.reg a).extractLsb' 48 16 = (s.reg a).extractLsb' 48 16 + 1 ∧
        ∀ i, (t.reg wa).getLsbD i = ((s.reg wa).getLsbD i || decide (i = (w.bit + w.b1 * r.i + w.b2 * r.j) % 32)))

/-- R7, R299, R300, R307: GO takes a block's staged values, which take effect later, a refused one not, and count in APPLY_COUNT; DISCARD
drops them; a write of PCI_IF_SELECT is accepted or rejected by its MAJOR and MINOR, a selection once accepted lasting (log entry 86). -/
def Obligations.StagedSets : Prop :=
  ∀ (ap : BitVec 27) (s : State), s.stopped = false →
    let block := fun (e : Nat × Word) => decide (applyOf e.1 = ap.toNat)
    (isApply ap.toNat = true → 2 ≤ s.start.stage → ap.toNat ≠ Reg.winApply 18 →
      exec (.applyGo ap) s = .next { s with applies := s.applies ++ [(ap.toNat, s.stg.filter block)] } ∧
      ((∀ e ∈ s.applies, e.1 ≠ ap.toNat) →
        exec (.applyDiscard ap) s = .next { s with stg := s.stg.filter (fun e => !(block e)) })) ∧
    (∀ e, s.applies.find? (fun e => decide (e.1 = ap.toNat)) = some e →
      ∃ t, exec (.applyComplete ap) s = .next t ∧ t.applies = s.applies.erase e ∧ t.mem = s.mem ∧ t.jobs = s.jobs ∧ t.cmds = s.cmds) ∧
    (∀ v, s.applies.find? (fun e => decide (e.1 = ap.toNat)) = some (ap.toNat, [(Reg.hlyRdLimits, v)]) → ap.toNat = Reg.winApply 10 →
      let soft := (v.extractLsb' 0 32).toNat
      let hard := (v.extractLsb' 32 32).toNat
      let good := soft < hard ∧ hard ≤ 1000000
      ∃ t, exec (.applyComplete ap) s = .next t ∧ t = { s with eff := t.eff, stg := t.stg, applies := t.applies } ∧
        (good → t.reg Reg.hlyRdLimits = v) ∧
        (¬ good → v ≠ s.reg Reg.hlyRdLimits → t.reg Reg.hlyRdLimits = s.reg Reg.hlyRdLimits ∧ (t.reg Reg.hlyStatus).getLsbD 29 = true) ∧
        (∀ b, b ≠ Reg.hlyRdLimits → b ≠ Reg.hlyStatus → b ≠ ap.toNat → t.reg b = s.reg b) ∧
        (t.reg ap.toNat).extractLsb' 16 16 = (s.reg ap.toNat).extractLsb' 16 16 + 1) ∧
    (∀ (f : BitVec 9) (v : BitVec 32), f.toNat ≤ 257 → s.hasFunction f.toNat = true → 1 ≤ s.start.stage →
      let a := Reg.pciIfSelect f.toNat
      let ver := s.reg (Reg.pciIfVersion f.toNat)
      let ok := decide (v.extractLsb' 16 8 = ver.extractLsb' 24 8 ∧ (v.extractLsb' 8 8).toNat ≤ (ver.extractLsb' 16 8).toNat)
      ∃ t, exec (.ifSelect f v) s = .next t ∧ t = { s with eff := t.eff } ∧ (∀ b, b ≠ a → t.reg b = s.reg b) ∧
        (t.reg a).getLsbD 31 = (ok || (s.reg a).getLsbD 31) ∧ (t.reg a).getLsbD 30 = !ok ∧ (t.reg a).extractLsb' 8 16 = v.extractLsb' 8 16)

/-- R302–R305, R385: a doorbell of an active ring moves its host index, one out of range stops the ring, one of an inactive ring counts; a
fetched descriptor, stamped, enters the ring's queue as two words and the write-back follows; a failed read stops the ring; a record is
written at the module's index. -/
def Obligations.RingTraffic : Prop :=
  ∀ (f : BitVec 9) (k : BitVec 6) (s : State), f.toNat ≤ 257 → s.stopped = false →
    let g := f.toNat
    let j := k.toNat
    let r := s.ring g j
    let n := s.ringN g j
    let cnt := Nat.min 4 (Nat.min ((r.host + n - r.index) % n) (n - r.index))
    let ringOnly := fun (t : State) (x : Ring) => t = { s with rings := t.rings } ∧
      ∀ h i, i < 64 → t.ring h i = if h = g ∧ i = j then x else s.ring h i
    (∀ (i : Instr) (off : BitVec 21) (data : List Byte), bar2Offset f off = true → off.toNat = 64 * j → data.length = 4 →
      i = .submissionDoorbell f off data ∨ i = .completionDoorbell f off data → s.serves (.page f) = true → 1 ≤ s.start.stage →
      (r.active = true → 2 ≤ s.start.stage → leNat data < n → ∃ t, exec i s = .next t ∧ ringOnly t { r with host := leNat data }) ∧
      (r.active = true → 2 ≤ s.start.stage → n ≤ leNat data →
        ∃ t, exec i s = .next t ∧ ringOnly t { r with active := false, err := true, code := 0x04 }) ∧
      (r.active = false ∨ s.start.stage = 1 →
        ∃ t, exec i s = .next t ∧ t = { s with eff := t.eff } ∧ KeepsButCounters s t ∧
          t.regFld Reg.pciDbDrop 0 48 = (s.regFld Reg.pciDbDrop 0 48 + 1) % 2 ^ 48)) ∧
    (∀ q, s.servedQueue g j false = some q → r.active = true → s.ringDir g j = false → s.tripped = false → s.fatal = false → cnt ≠ 0 →
      s.wouldEnter q = true →
      (∃ t, exec (.descriptorFetch f k .poisoned) s = .next t ∧ ringOnly t { r with active := false, err := true, code := 0x06 }) ∧
      (∃ t, exec (.descriptorFetch f k .abort) s = .next t ∧ ringOnly t { r with active := false, err := true, code := 0x05 }) ∧
      ∀ bs, bs.length = 64 →
        let w1 := wordOfBytes (bs.take 32) false
        let w2 := wordOfBytes (((bs.drop 32).take 24) ++ toLE 2 g ++ toLE 2 (64 * g + j) ++ toLE 4 r.fetched.toNat) true
        let i := (r.index + 1) % n
        let p := if i = 0 then r.passes + 1 else r.passes
        (s.unitPut q w1).wouldEnter q = true →
        ∃ t, exec (.descriptorFetch f k (.data bs)) s = .next t ∧ t = { s with out := t.out, eff := t.eff, stem := t.stem, rings := t.rings } ∧
          t.eff = s.eff ∧
          (t.queue q).words = (s.queue q).words ++ [w1, w2] ∧ (∀ m, m ≠ q → t.queue m = s.queue m) ∧
          t.ring g j = { r with index := i, passes := p, fetched := r.fetched + 1 } ∧
          t.out = s.out ++ [.hostWrite (s.fnPort g) (((s.reg (Reg.pciRingWb g j)).extractLsb' 3 61).toNat * 8) (toLE 4 i ++ toLE 4 p.toNat) false]) ∧
    (∀ q w ws, s.servedQueue g j true = some q → (s.queue q).words = w :: ws → r.active = true → s.ringDir g j = true → s.fatal = false →
      (r.index + 1) % n ≠ r.host →
      let i := (r.index + 1) % n
      let p := if i = 0 then r.passes + 1 else r.passes
      ∃ t, exec (.ringRecordWrite f k) s = .next t ∧ t = { s with out := t.out, stem := t.stem, cadence := t.cadence, rings := t.rings } ∧
        (t.queue q).words = ws ∧ (∀ m, m ≠ q → t.queue m = s.queue m) ∧ t.ring g j = { r with index := i, passes := p } ∧
        t.out = s.out ++ [.hostWrite (s.fnPort g) (((s.reg (Reg.pciRingBase g j)).extractLsb' 12 52).toNat * 4096 + 32 * r.index) (toLE 32 w.data.toNat) false,
          .hostWrite (s.fnPort g) (((s.reg (Reg.pciRingWb g j)).extractLsb' 3 61).toNat * 8) (toLE 4 i ++ toLE 4 p.toNat) false])

/-- R291, R293, R294, R306, R384: BAR4 reads return, and writes store, what its address translates to, and are refused where BAR4 is not
enabled or its job is not live; a function reset clears the function's window, rings and configuration; D3hot shows in the function's power
state and disables its rings; a configuration request is retried before STAGE1 and completed after, a read with the doubleword, whose
Device ID is Table 12.2's, a write into the fields that hold what is written (that their places are PCIe's is log entry 87's). -/
def Obligations.HostFunctions : Prop :=
  ∀ (f : BitVec 9) (s : State), f.toNat ≤ 257 →
    let g := f.toNat
    let cfg := s.reg (Reg.pciFnBar4 g)
    let job := cfg.extractLsb' 48 16
    (∀ (off : BitVec 36) (bs : List Byte), s.serves (.fn f) = true → 1 ≤ s.start.stage → off.toNat + bs.length ≤ bar4Size g →
      s.stopped = false →
      let a : Agent := { job := job, cls := 0xE, cmd := 0, pool := [] }
      let va := s.bar4Va g off.toNat
      (cfg.getLsbD 0 = false ∨ s.isLive job = false ∨ s.tenantMay g job = false →
        (∃ t, exec (.bar4Access f off bs.length (some bs)) s = .next t ∧ t = { s with eff := t.eff } ∧ KeepsButCounters s t) ∧
        ∃ t, exec (.bar4Access f off bs.length none) s = .next t ∧ t = { s with eff := t.eff, out := t.out } ∧ KeepsButCounters s t ∧
          t.out = s.out ++ [.unsupportedRequest]) ∧
      (cfg.getLsbD 0 = true → s.isLive job = true → s.tenantMay g job = true → cfg.getLsbD 1 = true →
        ∀ pa, s.pieces a va bs.length true = .ok [(pa, bs.length)] → regionOf pa = .hbm ∨ regionOf pa = .shared →
        ∃ t, exec (.bar4Access f off bs.length (some bs)) s = .next t ∧
          t = { s with mem := t.mem, owner := t.owner, poison := t.poison, old := t.old, eff := t.eff, ahead := t.ahead } ∧ KeepsWindows s t ∧
          ∀ x, t.byte x = if pa ≤ x ∧ x < pa + bs.length then bs.getD (x - pa) 0 else s.byte x) ∧
      (cfg.getLsbD 0 = true → s.isLive job = true → s.tenantMay g job = true →
        ∀ pa bad d, s.pieces a va bs.length false = .ok [(pa, bs.length)] → regionOf pa = .hbm → s.bar4Read a va bs.length = .ok (d, bad) →
          exec (.bar4Access f off bs.length none) s = .next (s.send (.readData d bad)))) ∧
    (g ≠ 0 → g ≠ 257 →
      ∃ t, exec (.flr (.fn f)) s = .next t ∧
        t = { s with eff := t.eff, stg := t.stg, applies := t.applies, stem := t.stem, cadence := t.cadence, rings := t.rings
                     config := s.config.filter (fun e => decide (e.1 / 64 ≠ g)) } ∧
        (∀ a, fnOf a = some g → t.reg a = resetOf a) ∧ (∀ k, k < 64 → t.ring g k = Ring.reset) ∧
        (∀ h k, h ≠ g → k < 64 → t.ring h k = s.ring h k) ∧ ∀ e ∈ t.applies, fnOf e.1 ≠ some g) ∧
    (∃ t, exec (.d3hotEntry (.fn f)) s = .next t ∧ t = { s with rings := t.rings, config := t.config } ∧ t.asleep (.fn f) = true ∧
      (∀ k, SMap.get 0 t.config k = if k = 64 * g + 10 then 3 else SMap.get 0 s.config k) ∧
      ∀ h k, k < 64 → t.ring h k = if h = g then { s.ring h k with active := false } else s.ring h k) ∧
    (∀ (second : Bool) (off : BitVec 12), s.linkUp second = true →
      (s.start.stage = 0 → s.inRecoveryMode = false → ∀ data, exec (.configRequest second (.fn f) off data) s = .next (s.send .configRetry)) ∧
      (1 ≤ s.start.stage → s.presents second (.fn f) = false →
        ∀ data, exec (.configRequest second (.fn f) off data) s = .next (s.send .unsupportedRequest)) ∧
      (1 ≤ s.start.stage → s.presents second (.fn f) = true →
        (∃ v, exec (.configRequest second (.fn f) off none) s = .next (s.send (.configData v)) ∧
          (off.toNat < 4 → v.extractLsb' 16 16 = if g = 0 ∨ g = 257 then 0x4A96#16 else 0x4A98#16)) ∧
        ∀ v : BitVec 32, v.getLsbD 15 = false →
          ∃ t, exec (.configRequest second (.fn f) off (some v)) s = .next t ∧ t = { s with config := t.config, rings := t.rings } ∧
            ∀ k r, k ≠ g → SMap.get 0 t.config (64 * k + r % 64) = SMap.get 0 s.config (64 * k + r % 64)))

/-! ### Fjorin -/

/-- R310, R312–R314, R388: a port whose training succeeds begins its HELLO exchange with sequence numbers at 0; a fast retrain that fails
loses the port; a HELLO brings the port up with the peer, version and nonce it gives, or to a failure state, in which it stays until its
next HELLO settles it again; a port declared failed makes one fast retrain. What a recording of the port becomes with its link is R366's. -/
def Obligations.FjorinTraining : Prop :=
  ∀ (p : BitVec 3) (lanes : BitVec 2) (half : Bool) (s : State),
    let k := p.toNat
    let x := s.port k
    let others := fun (t : State) => ∀ j, j ≠ k → t.port j = s.port j
    let lost := fun (t : State) => t = { s with eff := t.eff, stem := t.stem, ports := t.ports, logPrimary := t.logPrimary
                                                logSecondary := t.logSecondary, logSecondaryWr := t.logSecondaryWr } ∧ others t
    let hello := fun (t : State) => t = { s with free := s.free + 1, eff := t.eff, stem := t.stem, ports := t.ports } ∧ others t ∧
      (s.portRecords k = false → t.eff = s.eff) ∧
      t.port k = { x.dropped .hello with lanes := lanes, half := half, lock := true, nonce := (t.port k).nonce, helloAt := s.now
                                         helloSent := false, progress := s.now }
    let sends := fun (t : State) => t = { s with ports := t.ports, out := s.out ++ [.hello k (s.ownHello k)] } ∧ others t
    let settled := fun (t : State) (h : Hello) =>
      let v := Nat.min (s.ownHello k).vmax.toNat h.vmax.toNat
      let st := (t.port k).state
      (t.port k).peer = h.module ∧ (t.port k).peerNonce = h.nonce ∧ (t.port k).helloHeard = true ∧ (t.port k).heard = some h ∧
      (st = .up ∨ st = .versionFail ∨ st = .peerMismatch) ∧
      (st = .versionFail ↔ v < (s.ownHello k).vmin.toNat ∨ v < h.vmin.toNat ∨ (s.linkEnc = true ∧ v = 2)) ∧
      (st = .up → ¬(s.linkEnc = true ∧ (h.keyId = none ∨ s.sec.keyId = none ∨ h.keyId ≠ s.sec.keyId)) ∧ s.peerFits k h.module.toNat = true ∧
        (t.port k).version = BitVec.ofNat 2 v) ∧
      (st = .peerMismatch → (s.linkEnc = true ∧ (h.keyId = none ∨ s.sec.keyId = none ∨ h.keyId ≠ s.sec.keyId)) ∨
        s.peerFits k h.module.toNat = false)
    (lanes = 1 ∨ lanes = 2 → x.state = .training → x.retrain = false → ∃ t, exec (.portTrained p lanes half) s = .next t ∧ hello t) ∧
    (lanes = 1 ∨ lanes = 2 → x.state = .training → x.retrain = true → (s.now - x.trainStart).toNat ≤ 5000000 →
      ∃ t, exec (.fastRetrain p lanes half) s = .next t ∧ hello t) ∧
    (lanes ≠ 3 → x.state = .training → x.retrain = true → lanes = 0 ∨ 5000000 < (s.now - x.trainStart).toNat →
      ∃ t, exec (.fastRetrain p lanes half) s = .next t ∧ lost t ∧ (t.port k).state = .failed ∧ (t.port k).lostReported = true) ∧
    (x.state = .training → x.retrain = false → 1000000 ≤ (s.now - x.trainStart).toNat →
      ∃ t, exec (.trainingRetry p) s = .next t ∧ t = { s with ports := t.ports } ∧ PortIs s t k { x with trainStart := s.now }) ∧
    (∀ gained, ∃ t, exec (.flitLock p gained) s = .next t ∧ t = { s with ports := t.ports } ∧
      PortIs s t k (if gained then { x with lock := true } else if x.lock then { x with lock := false, lockLostAt := s.now } else x)) ∧
    (x.state = .hello ∨ x.state = .up ∨ x.state = .versionFail ∨ x.state = .peerMismatch →
      16 ≤ x.resends ∨ (x.lock = false ∧ 1000000 ≤ (s.now - x.lockLostAt).toNat) →
      ∃ t, exec (.portFail p) s = .next t ∧ lost t ∧ (t.port k).state = .training ∧ (t.port k).retrain = true ∧
        (t.port k).trainStart = s.now ∧ (t.port k).replay = [] ∧ (t.port k).lostReported = (decide (x.state = .up) || x.lostReported)) ∧
    ((x.state = .hello ∧ 100000 ≤ (s.now - x.helloAt).toNat) ∨ ((x.state = .hello ∨ x.state = .up) ∧ x.helloSent = false) →
      ∃ t, exec (.helloSend p) s = .next t ∧ sends t ∧ PortIs s t k { x with helloAt := s.now, helloSent := true }) ∧
    (x.state = .versionFail ∨ x.state = .peerMismatch → 10000000 ≤ (s.now - x.helloAt).toNat →
      ∃ t, exec (.helloSend p) s = .next t ∧ sends t ∧ (t.port k).helloAt = s.now ∧ (t.port k).helloSent = true ∧
        (x.heard = none → (t.port k).state = x.state) ∧ ∀ h, x.heard = some h → settled t h) ∧
    (∀ h : Hello, x.state = .hello ∨ x.state = .versionFail ∨ x.state = .peerMismatch →
      ∃ t, exec (.hello p h) s = .next t ∧ t = { s with ports := t.ports } ∧ others t ∧ settled t h)

/-- R312, R313, R329, R331: a DATA flit in sequence is accepted and its message arrives, any other flit that is not sound is answered with
a NAK; a NAK and 2 µs without progress make the sender resend; the egress sends a message's flits and keeps them for replay, its credit
used; a LINK_CREDIT adds credits; every SAMPLE_US a port's queues are sampled. -/
def Obligations.FjorinFlits : Prop :=
  ∀ (p : BitVec 3) (s : State),
    let k := p.toNat
    let x := s.port k
    let others := fun (t : State) => ∀ j, j ≠ k → t.port j = s.port j
    let resent := fun (u t : State) => t = { s with out := t.out, eff := t.eff, ports := t.ports } ∧ KeepsButCounters s t ∧
      t.out = s.out ++ (u.port k).replay.map (fun e => .flit k (flitBytes e.1 x.rxSeq 0 e.2)) ∧
      PortIs s t k { u.port k with resends := (u.port k).resends + 1, progress := s.now }
    (∀ (flit : List Byte), flit.length = 256 → x.state = .up → numAt flit 252 4 ≠ (crc32c (flit.take 252)).toNat →
      exec (.flitReceive p flit 0 0) s = .next { s with out := s.out ++ [.flit k (flitBytes 0 x.rxSeq 2 [])] }) ∧
    (∀ (flit : List Byte), flit.length = 256 → x.state = .up → numAt flit 252 4 = (crc32c (flit.take 252)).toNat → numAt flit 7 1 = 0 →
      numAt flit 0 4 = x.rxSeq.toNat → s.linkEnc = false → x.rxStream = [] →
      let body := bytesAt flit 8 244
      let m := parseMsg body
      let n := numAt body 8 2
      n ≤ 228 → allZero (body.drop (16 + n)) = true → allZero body = false → 1 ≤ m.typ.toNat → m.typ.toNat ≤ 6 → m.dst.toNat ≠ s.moduleId →
      ∃ t, exec (.flitReceive p flit 0 0) s = .next t ∧ t = { s with ports := t.ports } ∧ others t ∧ (t.port k).rxSeq = x.rxSeq + 1 ∧
        (t.port k).arrived = x.arrived ++ [m] ∧ (t.port k).txSeq = x.txSeq ∧ (t.port k).rxStream = []) ∧
    (∀ ack : BitVec 24, x.state = .up → ((s.acked k ack).port k).replay ≠ [] →
      ∃ t, exec (.nak p ack) s = .next t ∧ resent (s.acked k ack) t) ∧
    (x.state = .up → 2000 ≤ (s.now - x.progress).toNat → x.replay ≠ [] → ∃ t, exec (.replayTimeout p) s = .next t ∧ resent s t) ∧
    (∀ c w ws, s.pick (s.portCandidates k) = some c → s.egress k c.item = w :: ws → x.state = .up → w.msg.payload.length ≤ 512 →
      let n := ceilDiv (16 + w.msg.payload.length) 244
      x.replay.length + n ≤ 4096 →
      let i := 2 * w.msg.cls.toNat + b2n w.msg.vc
      ∃ (t : State) (fl : List (List Byte)), exec (.schedulerServe p) s = .next t ∧
        t = { s with out := s.out ++ fl.map (fun f => .flit k f), eff := t.eff, flows := t.flows, vtime := t.vtime, ports := t.ports } ∧
        others t ∧ KeepsButCounters s t ∧ fl.length = n ∧ t.egress k c.item = ws ∧ (t.port k).txSeq = x.txSeq + BitVec.ofNat 32 n ∧
        (t.port k).replay.length = x.replay.length + n ∧
        SMap.get 0 (t.port k).credits i = SMap.get 0 x.credits i - (if needsCredit w.msg.typ then 1 else 0)) ∧
    (∀ m rest, s.firstMsg k 0x0C = some m → x.arrived = m :: rest →
      ∃ t, exec (.linkCredit p) s = .next t ∧ t = { s with ports := t.ports } ∧
        PortIs s t k { x with arrived := rest, credits := (t.port k).credits } ∧
        ∀ i, SMap.get 0 (t.port k).credits i = SMap.get 0 x.credits i + if i < 16 then numAt m.payload i 1 else 0) ∧
    (s.stopped = false → 1000 * s.regFld Reg.fjlSampleCfg 0 16 ≤ (s.now - x.sampledAt).toNat →
      ∃ t, exec (.queueSample p) s = .next t ∧ t = { s with eff := t.eff, ports := t.ports } ∧ PortIs s t k { x with sampledAt := s.now } ∧
        (∀ a, (∀ c < 8, a ≠ Reg.fjlQsample k c ∧ a ≠ Reg.fjlQmaxdelay k c) → t.reg a = s.reg a) ∧
        ∀ c < 8,
          let delay := match s.egress k c with
            | [] => 0
            | w :: _ => satNat 32 (s.now - w.since).toNat
          t.reg (Reg.fjlQsample k c) = BitVec.ofNat 64 (delay * 2 ^ 32 + satNat 32 ((s.egress k c).map (fun w => w.msg.len)).sum) ∧
          t.reg (Reg.fjlQmaxdelay k c) = BitVec.ofNat 64 (Nat.max delay (s.regFld (Reg.fjlQmaxdelay k c) 0 32)))

/-- R317–R322, R354: a routed message that arrives with TTL 1 is dropped and counted, wherever it goes, one for another module goes on with
TTL lower by 1; a pool request for memory this
module exports is performed and answered, a refused one is answered with its code. Memory changes only where a write or an atomic
operation stores. -/
def Obligations.FjorinRequests : Prop :=
  ∀ (p : BitVec 3) (s : State),
    let k := p.toNat
    let u := s.takeMsg k
    let frame := fun (t : State) => t = { s with eff := t.eff, flows := t.flows, ports := t.ports }
    let stores := fun (t : State) (pa : Nat) (bs : List Byte) =>
      t = { s with mem := t.mem, owner := t.owner, poison := t.poison, eff := t.eff, flows := t.flows, ports := t.ports, ahead := t.ahead } ∧
      ∀ y, t.byte y = if pa ≤ y ∧ y < pa + bs.length then bs.getD (y - pa) 0 else s.byte y
    (∀ m rest, (s.port k).arrived = m :: rest → m.typ.toNat ≤ 6 ∨ m.typ = 0x09 → s.stopped = false →
      (m.ttl.toNat ≤ 1 → ∃ t, exec (.messageForward p) s = .next t ∧ frame t ∧ t = (u.bump (Reg.fjlPcnt k 5) 1).answerErr m 0xA6) ∧
      (1 < m.ttl.toNat → m.dst.toNat ≠ s.moduleId → ∃ t, exec (.messageForward p) s = .next t ∧ frame t ∧
        (∀ v, u.sendRouted { m with ttl := m.ttl - 1 } (some k) = .ok v → t = v) ∧
        ∀ c, u.sendRouted { m with ttl := m.ttl - 1 } (some k) = .error c → t = u.answerErr m c)) ∧
    (∀ m, s.firstMsg k 0x01 = some m → m.payload.length = 10 →
      let n := numAt m.payload 8 2
      1 ≤ n → n ≤ 256 →
      ∃ t, exec (.poolRd p) s = .next t ∧ frame t ∧
        (∀ pa, u.exported m false n = .ok pa → t = u.answer m 0x02 (s.poisoned pa n) (s.bytes pa n)) ∧
        ∀ c, u.exported m false n = .error c → t = u.answerErr m c) ∧
    (∀ m, s.firstMsg k 0x03 = some m →
      let bs := m.payload.drop 8
      1 ≤ bs.length → bs.length ≤ 256 →
      (∀ pa, u.exported m true bs.length = .ok pa → regionOf pa = .hbm →
        ∃ t, exec (.poolWr p) s = .next t ∧ t = (u.ramWrite 0 pa bs m.poison).answer m 0x04 false [] ∧ stores t pa bs) ∧
      ∀ c, u.exported m true bs.length = .error c → ∃ t, exec (.poolWr p) s = .next t ∧ frame t ∧ t = u.answerErr m c) ∧
    (∀ m, s.firstMsg k 0x05 = some m → m.payload.length = 25 →
      let fn := numAt m.payload 8 1 / 16
      fn < 7 → m.poolAddr.1 % 8 = 0 →
      (∀ pa, u.exported m true 8 = .ok pa → regionOf pa = .hbm → s.poisoned pa 8 = false →
        let old : Word := BitVec.ofNat 64 (leNat (s.bytes pa 8))
        let new := amoResult fn old (BitVec.ofNat 64 (numAt m.payload 9 8)) (BitVec.ofNat 64 (numAt m.payload 17 8))
        ∃ t, exec (.poolAmo p) s = .next t ∧ t = (u.ramWrite 0 pa (toLE 8 new.toNat) false).answer m 0x06 false (toLE 8 old.toNat) ∧
          stores t pa (toLE 8 new.toNat)) ∧
      ∀ c, u.exported m true 8 = .error c → ∃ t, exec (.poolAmo p) s = .next t ∧ frame t ∧ t = u.answerErr m c)

/-- R28, R35, R41, R74, R322–R324, R348: a response completes the request its TAG names: a waiting load or atomic operation takes its value
and goes on, a command's read has its bytes, a write is acknowledged and the releases that waited for it are put; an error code or a timeout
(0xA5) marks a write's core, and its command, or faults a load's at its address, but not in run-ahead; for a pre-empted job the response
lands. -/
def Obligations.FjorinResponses : Prop :=
  ∀ (p : BitVec 3) (tag : BitVec 16) (r : Req) (j : Job) (s : State), SMap.find s.reqs tag.toNat = some r → s.job r.job = some j →
    let k := p.toNat
    let n := r.core
    let c := s.core n
    let bare := fun (q : Option Req) => q.map (fun q => ({ q with line := none } : Req))
    let gone := fun (t : State) => SMap.find t.reqs tag.toNat = none ∧
      ∀ i, i ≠ tag.toNat → bare (SMap.find t.reqs i) = bare (SMap.find s.reqs i)
    let placed := j.state ≠ .preempted ∧ j.state ≠ .restoring
    let frame := fun (t : State) => t = { s with eff := t.eff, cores := t.cores, cmds := t.cmds, stem := t.stem, held := t.held
                                                 writeFail := t.writeFail, ahead := t.ahead, flows := t.flows, ports := t.ports
                                                 reqs := t.reqs } ∧ gone t ∧ KeepsButCounters s t ∧ KeepsCores n s t
    let value := fun (i : Instr) (m : Msg) => ∀ rd bytes sx va off, placed → c.job = r.job → c.blocked = some (.pool tag rd bytes sx va off) →
      m.poison = false → c.pc ≠ lastPc →
      let v := leNat (bytesAt m.payload off bytes)
      let w : Word := if sx then BitVec.ofInt 64 (signedOf (8 * bytes) v) else BitVec.ofNat 64 v
      ∃ t, exec i s = .next t ∧ frame t ∧ t.cmds = s.cmds ∧ t.stem = s.stem ∧ t.held = s.held ∧
        t.core n = { c with g := (t.core n).g, blocked := none, pc := c.pc + 4 } ∧
        ∀ x, (t.core n).greg x = if x = rd ∧ rd ≠ 0 then w else c.greg x
    let failed := fun (i : Instr) (code : Byte) => ∃ t, exec i s = .next t ∧ frame t ∧ t.cmds = s.cmds ∧ t.ahead = s.ahead ∧
      t.core n = { c with writeFailed := some r.target } ∧
      (r.cmd = 0 → t.writeFail = s.writeFail) ∧
      (r.cmd ≠ 0 → SMap.find s.writeFail (r.cmd - 1) = none → SMap.find t.writeFail (r.cmd - 1) = some code)
    let faults := fun (i : Instr) (code : Byte) => ∀ rd bytes sx va off, r.kind = .load ∨ r.kind = .amo → placed → c.job = r.job →
      c.blocked = some (.pool tag rd bytes sx va off) → ∃ t, exec i s = .next t ∧ gone t ∧ t.mem = s.mem ∧ KeepsCores n s t ∧
        t.core n = if c.runAhead = none then { c with state := .faulted, faultCode := code, faultAddr := BitVec.ofNat 48 va.toNat
                                                      blocked := none } else { c with blocked := none }
    (∀ m, s.firstMsg k 0x02 = some m → m.tag = tag → r.kind = .load → value (.poolRdRsp p) m) ∧
    (∀ m d, s.firstMsg k 0x02 = some m → m.tag = tag → r.kind = .read → placed → s.cmd (r.cmd - 1) = some d →
      ∃ t, exec (.poolRdRsp p) s = .next t ∧ frame t ∧ t.cores = s.cores ∧ t.stem = s.stem ∧ t.cmd (r.cmd - 1) =
        some { d with pool := d.pool ++ [{ pa := r.pa, n := r.n, bytes := m.payload, poison := m.poison, code := 0 }] }) ∧
    (∀ m, s.firstMsg k 0x06 = some m → m.tag = tag → r.kind = .amo → value (.poolAmoRsp p) m) ∧
    (∀ m, s.firstMsg k 0x04 = some m → m.tag = tag → r.kind = .write → placed →
      (s.held = [] → ∃ t, exec (.poolWrAck p) s = .next t ∧ frame t ∧ t.cores = s.cores ∧ t.cmds = s.cmds ∧ t.stem = s.stem ∧ t.held = [] ∧
        t.writeFail = s.writeFail) ∧
      ∀ h, s.held = [h] →
        let last := ∀ e ∈ s.reqs, e.1 ≠ tag.toNat → ¬(e.2.kind = .write ∧ e.2.core = h.core ∧ e.2.job = h.job ∧ e.2.cmd = h.cmd)
        ∃ t, exec (.poolWrAck p) s = .next t ∧ frame t ∧ t.cores = s.cores ∧ t.cmds = s.cmds ∧
          (last → t.held = [] ∧ (s.qBound h.queue = true → s.wouldEnter h.queue = true → ∀ q, (t.queue q).words =
            if q = h.queue then (s.queue q).words ++ [h.word] else (s.queue q).words)) ∧
          (¬ last → t.held = [h] ∧ t.stem = s.stem)) ∧
    (∀ e ∈ [((0x02#8 : Byte), Instr.poolRdRsp p), (0x04#8, .poolWrAck p), (0x06#8, .poolAmoRsp p)],
      ∀ m, s.firstMsg k e.1 = some m → m.tag = tag → r.kind.answeredBy e.1 = true → r.kind.lands = true → ¬ placed →
      ∃ t, exec e.2 s = .next t ∧
        t = { s with jobs := t.jobs, landing := t.landing, flows := t.flows, ports := t.ports, reqs := t.reqs } ∧ gone t ∧
        t.landing = s.landing ++ [{ partition := partOfCore n, tag := tag, req := r, code := 0, poison := m.poison, data := m.payload }]) ∧
    (∀ m, s.firstMsg k 0x09 = some m → m.tag = tag → m.payload.length = 1 →
      let code := numAt m.payload 0 1
      code = 0x01 ∨ (0xA0 ≤ code ∧ code ≤ 0xA6) ∨ code = 0xC0 ∨ code = 0xC1 →
      (r.kind = .write → placed → c.job = r.job → failed (.errRsp p) (BitVec.ofNat 8 code)) ∧ faults (.errRsp p) (BitVec.ofNat 8 code)) ∧
    (s.stopped = false → 100000 * s.regFld Reg.fjlTimeouts 16 16 ≤ (s.now - r.sent).toNat →
      (r.kind = .write → placed → c.job = r.job → failed (.respTimeout tag) 0xA5) ∧ faults (.respTimeout tag) 0xA5)

/-- R325–R328: an arriving word enters its queue and is answered ACCEPTED, or BUSY where a put would wait; a kind-4 queue sends its head
word on a port that is up and due, drops it from the queue once it is accepted, and fails it on a port of a multicast after MCAST_TIMEOUT.
-/
def Obligations.QueueWordsOnLinks : Prop :=
  ∀ (p : BitVec 3) (q : BitVec 12) (s : State),
    let k := p.toNat
    let n := q.toNat
    let x := s.queue n
    let u := s.takeMsg k
    let sent := fun (v t : State) (payload : List Byte) => (t.egress k 2).map (fun w => w.msg.payload) =
      (v.egress k 2).map (fun w => w.msg.payload) ++ [payload]
    let bit : BitVec 8 := BitVec.ofNat 8 (2 ^ k)
    let keeps := fun (t : State) => ∀ m, m ≠ n → t.queue m = s.queue m
    (∀ m, s.firstMsg k 0x07 = some m → numAt m.payload 0 2 = n →
      let w := wordOfBytes (bytesAt m.payload 3 32) (decide (numAt m.payload 2 1 % 2 = 1))
      let bound := s.qBound n = true ∧ s.qKind n = 5 ∧ s.qTarget n % 8 = k
      (bound → s.wouldEnter n = true → ∃ t, exec (.qword p) s = .next t ∧ t = { s with stem := t.stem, flows := t.flows, ports := t.ports } ∧
        keeps t ∧ (t.queue n).words = x.words ++ [w] ∧ sent u t (toLE 2 n ++ [1])) ∧
      (bound → s.wouldEnter n = false → ∃ t, exec (.qword p) s = .next t ∧ t = { s with flows := t.flows, ports := t.ports } ∧
        sent u t (toLE 2 n ++ [0])) ∧
      (¬ bound → ∃ t, exec (.qword p) s = .next t ∧ t = { s with eff := t.eff, flows := t.flows, ports := t.ports } ∧ KeepsButCounters s t ∧
        sent u t (toLE 2 n ++ [1]) ∧ t.reg (Reg.fjlPcnt k 4) = s.reg (Reg.fjlPcnt k 4) + 1)) ∧
    (∀ w ws h, x.words = w :: ws → s.qBound n = true → s.qKind n = 4 → s.stopped = false → s.qPorts n = [k] → s.portUp k = true →
      x.head = none ∨ (x.head = some h ∧ (h.accepted ||| h.failed ||| h.awaiting) &&& bit = 0 ∧
        ∀ l, SMap.find h.last k = some l → 1000 ≤ (s.now - BitVec.ofNat 64 l).toNat) →
      ∃ t h2, exec (.qwordRetry q) s = .next t ∧ t = { s with stem := t.stem, flows := t.flows, ports := t.ports } ∧ keeps t ∧
        t.queue n = { x with head := some h2 } ∧ h2.awaiting &&& bit = bit ∧ SMap.find h2.last k = some s.now.toNat ∧
        sent s t (qwordPayload (s.qTarget n / 2 ^ 11 % 2 ^ 12) w)) ∧
    (∀ m h, s.firstMsg k 0x08 = some m → s.awaitingQueue k (numAt m.payload 0 2) = some n → x.head = some h → s.qPorts n = [k] →
      ((h.accepted ||| h.failed) &&& bit = 0) →
      ∃ t, exec (.qrsp p) s = .next t ∧ t = { s with stem := t.stem, cadence := t.cadence, flows := t.flows, ports := t.ports } ∧ keeps t ∧
        (numAt m.payload 2 1 = 1 → t.queue n = { x with words := x.words.drop 1, head := none }) ∧
        (numAt m.payload 2 1 ≠ 1 → t.queue n = { x with head := some { h with awaiting := h.awaiting &&& ~~~bit
                                                                              last := SMap.insert h.last k s.now.toNat } })) ∧
    (∀ h t0, x.head = some h → SMap.find h.first k = some t0 → s.stopped = false → k ∈ s.qPorts n → 1 < (s.qPorts n).length →
      (h.accepted ||| h.failed) &&& bit = 0 → 1000 * s.regFld Reg.fjlTimeouts 0 16 ≤ (s.now - BitVec.ofNat 64 t0).toNat →
      ∃ t, exec (.mcastTimeout q p) s = .next t ∧ t = { s with eff := t.eff, stem := t.stem, cadence := t.cadence } ∧ KeepsButCounters s t ∧
        t.reg (Reg.fjlPcnt k 6) = s.reg (Reg.fjlPcnt k 6) + 1 ∧
        ((h.accepted ||| h.failed ||| bit) &&& portMask (s.qPorts n) ≠ portMask (s.qPorts n) →
          t.queue n = { x with head := some { h with failed := h.failed ||| bit, awaiting := h.awaiting &&& ~~~bit } }) ∧
        ((h.accepted ||| h.failed ||| bit) &&& portMask (s.qPorts n) = portMask (s.qPorts n) → x.words ≠ [] →
          (t.queue n).head = none ∧ (t.queue n).wordNo = x.wordNo + 1))

/-- R16, R319, R332: an up port starts a TIME_SYNC exchange each millisecond; a request is answered; an answer on the parent port moves
device time forward at once by a positive offset and never back; an invalidation of segment entries lasts while a request through them is
outstanding. -/
def Obligations.TimeAndSegments : Prop :=
  ∀ (p : BitVec 3) (frac : BitVec 4) (s : State),
    let k := p.toNat
    let x := s.port k
    let sent := fun (t : State) (payload : List Byte) => (t.egress k 0).map (fun w => w.msg.payload) =
      (s.egress k 0).map (fun w => w.msg.payload) ++ [payload]
    (x.state = .up → 1000000 ≤ (s.now - x.syncAt).toNat →
      ∃ t, exec (.timeSyncSend p frac) s = .next t ∧ t = { s with flows := t.flows, ports := t.ports } ∧ (∀ j, j ≠ k → t.port j = s.port j) ∧
        (t.port k).syncT1 = some (s.stamp frac : Int) ∧ (t.port k).syncAt = s.now ∧ sent t (syncPayload false s.ownHops (s.stamp frac) 0 0)) ∧
    (∀ m, x.arrived.find? (fun m => m.typ = 0x0A) = some m →
      let t1 := numAt m.payload 2 8
      (numAt m.payload 0 1 = 0 →
        ∃ t, exec (.timeSync p frac) s = .next t ∧ t = { s with flows := t.flows, ports := t.ports } ∧ (t.port k).arrived = x.arrived.erase m ∧
          sent t (syncPayload true s.ownHops t1 (s.stamp frac) (s.stamp frac))) ∧
      (numAt m.payload 0 1 ≠ 0 → x.syncT1 = some (t1 : Int) → s.isRoot = false → bitAt (s.reg Reg.fjlTimeCfg) 30 = false →
        s.regFld Reg.fjlTimeCfg 0 3 = k →
        let off : Int := (((numAt m.payload 10 8 : Int) - t1) - ((s.stamp frac : Int) - (numAt m.payload 18 8 : Int))) / 2
        ∃ t, exec (.timeSync p frac) s = .next t ∧ t = { s with now := t.now, eff := t.eff, ports := t.ports, align := t.align } ∧
          (∀ a, a ≠ Reg.fjlTimeStatus → t.reg a = s.reg a) ∧ (t.port k).hops = some (numAt m.payload 1 1) ∧ (t.port k).syncT1 = none ∧
          t.now = (if 0 ≤ off / 16 then s.now + BitVec.ofNat 64 (off / 16).toNat else s.now) ∧
          t.align.slowNs = (if 0 ≤ off / 16 then 0 else (-(off / 16)).toNat) ∧
          t.align.good = (if -32 ≤ off ∧ off ≤ 32 then s.align.good + 1 else 0))) ∧
    (∀ v : BitVec 32, 1 ≤ s.start.stage → s.stopped = false →
      (s.segInval = none → exec (.fjlSegInval v) s = .next { s with
        segInval := some v
        reqs := s.reqs.map (fun e => (e.1, { e.2 with
          segInval := v.getLsbD 16 || decide (e.2.seg = (v.extractLsb' 0 16).toNat) })) }) ∧
      (s.segInval ≠ none → exec (.fjlSegInval v) s = .next s) ∧
      (s.segInval = some v →
        ((∃ e ∈ s.reqs, e.2.segInval = true) → exec .segInvalDone s = .next s) ∧
        ((∀ e ∈ s.reqs, e.2.segInval = false) → exec .segInvalDone s = .next { s with segInval := none })))

/-! ### Jobs -/

/-- R338–R341, R343, R344: a job is submitted, refused with its record or counted where its descriptor is unreadable; the next one of a
group starts on its cores; one ends when its cores have stopped, its commands completed and its fabric writes been acknowledged, or by a kill;
the cores it was placed on are then idle (R81). -/
def Obligations.JobsRun : Prop :=
  ∀ (second : Bool) (v : Word) (k32 : BitVec 32) (desc image : HostRead) (g : BitVec 4) (s : State),
    let told := fun (t : State) (k : Job) => Out.hostWrite k.port k.statusAddr.toNat (k.record s.now) false ∈ t.out
    let gone := fun (j : Job) (code : Byte) => { j with
      state := .ended, endCode := code, tEnd := s.now, waitNs := j.waited s.now, waitSince := none, saved := none }
    let inHost := fun (j : Job) => isDevice j.statusAddr.toNat = false
    let noFxg := fun (id : BitVec 16) => ∀ e ∈ s.fxg, e.2.job ≠ id
    let unqueued := fun (n : CoreId) => ∀ q, (∀ w ∈ (s.queue q).waiting, w.who ≠ .core n) ∧ n ∉ (s.queue q).getters
    let ends := fun (i : Instr) (j : Job) (code : Byte) => ∃ t, exec i s = .next t ∧ t.job j.id = none ∧ (inHost j → told t (gone j code)) ∧
      (∀ c ∈ t.cmds, c.job ≠ j.id) ∧ (∀ l ∈ t.landing, l.req.job ≠ j.id) ∧ (∀ n ∈ j.placed, (s.core n).job = j.id → unqueued n → t.core n = Core.idle) ∧
      (inHost j → noFxg j.id → (j.saved.map Saved.cmds).getD [] = [] → t.mem = s.mem)
    -- submission (R338, R339)
    (1 ≤ s.start.stage → s.stopped = false → s.fatal = false →
      (s.start.bifurc = false → exec (.jobSubmit true v desc image) s = .next s) ∧
      (s.start.bifurc = true → ∃ t, exec (.jobSubmit true v desc image) s = .next t ∧ t = { s with eff := t.eff } ∧ KeepsButCounters s t ∧
        t.reg Reg.pciBadAccess = s.reg Reg.pciBadAccess + 1) ∧
      (v.getLsbD 63 = false → second = false →
        ((∀ bs, desc = .data bs → bs.length < 128) → ∃ t, exec (.jobSubmit second v desc image) s = .next t ∧ t = { s with eff := t.eff } ∧
          KeepsRegs [Reg.hubSchedStatus] s t ∧
          t.regFld Reg.hubSchedStatus 11 16 = Nat.min 65535 (s.regFld Reg.hubSchedStatus 11 16 + 1)) ∧
        (∀ d, desc = .data d → d.length = 128 →
          let j := jobOf d s.now 0 s.nextOrder image
          let refused := fun (code : Byte) => ∃ t, exec (.jobSubmit second v desc image) s = .next t ∧
            t = { s with out := t.out, eff := t.eff } ∧ told t { j with state := .ended, endCode := code, tEnd := s.now }
          inHost j →
          (s.start.stage < 2 → refused 0x01) ∧
          (2 ≤ s.start.stage → s.descBroken d j = true → refused 0xB0) ∧
          (2 ≤ s.start.stage → s.descBroken d j = false → s.isGroup j.group = false → refused 0xB7) ∧
          (2 ≤ s.start.stage → s.descBroken d j = false → s.isGroup j.group = true → s.isLive j.id = true → refused 0xB1) ∧
          (s.submitCheck d j image = (none, s) →
            ∃ t x, exec (.jobSubmit second v desc image) s = .next t ∧ told t j ∧ t.job j.id = some { j with waitSince := x } ∧
              t = { s with out := t.out, eff := t.eff, jobs := t.jobs, nextOrder := t.nextOrder } ∧ t.nextOrder = s.nextOrder + 1 ∧
              KeepsButCounters s t)))) ∧
    -- start (R340)
    (s.isGroup g.toNat = true → s.runningJob g.toNat = none → s.stopped = false → s.tripped = false → s.fatal = false →
      ∀ j, s.nextJob g.toNat = some j →
        (j.state ≠ .preempted → ∀ bs ps, s.jobImage j = some bs → s.placement j.group j.nPeony j.nLupin = some ps →
          let k : Job := { j with state := .running, tStart := some s.now, placed := ps, phaseSince := s.now
                                  waitNs := j.waited s.now, waitSince := none }
          ∃ t, exec (.jobStart g) s = .next t ∧ t.job j.id = some k ∧ (inHost j → told t k) ∧
            (∀ n ∈ ps, t.core n = Core.starting j.id j.entry (imageMem bs) ∧ (n.toNat < 48 → t.peonyAt n.toNat = PeonyCore.reset)) ∧
            (∀ n, n ∉ ps → n ∈ s.peonyCoresOf g.toNat ++ s.lupinCoresOf g.toNat → t.core n = Core.idle) ∧
            (∀ n, n ∉ ps → n ∉ s.peonyCoresOf g.toNat ++ s.lupinCoresOf g.toNat → t.core n = s.core n) ∧
            t.reg (Reg.mgdGrpRecover g.toNat) = 0 ∧ t.reg (Reg.mgdGrpRentry g.toNat) = 0 ∧
            (inHost j → t = { s with out := t.out, eff := t.eff, cores := t.cores, peony := t.peony, jobs := t.jobs, wdog := t.wdog } ∧
              ∀ a, ¬ CounterReg a → a ≠ Reg.mgdGrpRecover g.toNat → a ≠ Reg.mgdGrpRentry g.toNat → t.reg a = s.reg a)) ∧
        (j.state ≠ .preempted → s.jobImage j = none → ends (.jobStart g) j 0xB0) ∧
        (∀ bs, j.state ≠ .preempted → s.jobImage j = some bs → s.placement j.group j.nPeony j.nLupin = none → ends (.jobStart g) j 0xB2) ∧
        (j.state = .preempted → (∃ n ∈ j.placed, s.serving n = false) → ends (.jobStart g) j 0xB2) ∧
        (j.state = .preempted → (∀ n ∈ j.placed, s.serving n = true) →
          let k : Job := { j with state := .restoring, phaseSince := s.now }
          ∃ t, exec (.jobStart g) s = .next t ∧ t.job j.id = some k ∧
            (inHost j → told t k ∧ t = { s with out := t.out, jobs := t.jobs }))) ∧
    -- end (R341, R344)
    (∀ j, s.runningJob g.toNat = some j → s.stopped = false → SMap.find s.recoveries g.toNat = none → (∀ c ∈ s.cmds, c.job ≠ j.id) →
      (s.jobWrites j.id = true → exec (.jobEnd g) s = .next s) ∧
      (s.jobWrites j.id = false →
      (j.killed = true → ends (.jobEnd g) j 0xB5) ∧
      (j.killed = false → j.state = .running → (∀ n ∈ j.placed, (s.core n).state = .halted) → ends (.jobEnd g) j 0) ∧
      (j.killed = false → j.state = .running → (∀ n ∈ j.placed, (s.core n).state = .halted ∨ (s.core n).state = .faulted) →
        (∃ n ∈ j.placed, (s.core n).state = .faulted) → ends (.jobEnd g) j 0xB9) ∧
      (j.killed = false → (∃ n ∈ j.placed, (s.core n).state = .running) → exec (.jobEnd g) s = .next s))) ∧
    -- kill (R344)
    (2 ≤ s.start.stage → s.stopped = false →
      let id : BitVec 16 := k32.extractLsb' 0 16
      (s.job id = none → exec (.jobKill k32) s = .next s) ∧
      (∀ j, s.job id = some j →
        ((∀ c ∈ s.cmds, c.job ≠ id) → s.jobWrites id = false → ends (.jobKill k32) j 0xB5) ∧
        (j.state = .running ∨ j.state = .saving → (∃ c ∈ s.cmds, c.job = id ∧ c.phase ≠ .queued) ∨ s.jobWrites id = true →
          ∃ t, exec (.jobKill k32) s = .next t ∧ t.job id = some { j with killed := true, saved := none } ∧ t.mem = s.mem ∧
            (∀ c ∈ t.cmds, c.job = id → c.phase ≠ .queued) ∧ (∀ l ∈ t.landing, l.req.job ≠ id)) ∧
        (∃ t, exec (.jobKill k32) s = .next t ∧ ∀ n ∈ j.placed, (s.core n).job = id → unqueued n → t.core n = Core.idle)))

/-- R345–R348: a queued job of higher priority pre-empts the group's running one where every partition has a free save area; the save ends
when no command of the job runs on, and takes all that R345 names; the restore brings it back, with the responses that landed meanwhile.
-/
def Obligations.PreemptionAndRestore : Prop :=
  ∀ (g : BitVec 4) (j : Job) (s : State), s.runningJob g.toNat = some j → s.stopped = false →
    isDevice j.statusAddr.toNat = false → s.job j.id = some j →
    let told := fun (t : State) (k : Job) => Out.hostWrite k.port k.statusAddr.toNat (k.record s.now) false ∈ t.out
    let higher := ∃ k ∈ s.jobs, k.isLive = true ∧ k.group = g.toNat ∧ k.state = .queued ∧ j.prio < k.prio
    let may := j.state = .running ∧ j.killed = false ∧ higher ∧ s.areaFree g.toNat = true ∧ SMap.find s.recoveries g.toNat = none
    let quiet := ∀ c ∈ s.cmds, c.job = j.id → c.phase = .queued ∨ s.awaitsPool c.id = true
    (may → j.waitSince = none →
      ∃ t, exec (.preempt g) s = .next t ∧ t.job j.id = some { j with state := .saving, phaseSince := s.now } ∧
        told t { j with state := .saving, phaseSince := s.now } ∧
        (∀ n ∈ j.placed, (t.core n).runAhead = none ∧
          ((t.core n).blocked = none ∨ ∃ tag rd b sx va off, (t.core n).blocked = some (.pool tag rd b sx va off))) ∧
        (∀ n, n ∉ j.placed → t.core n = s.core n) ∧ (∀ c ∈ t.cmds, c.job = j.id → c.phase = .started → c ∈ s.cmds) ∧
        t.mem = s.mem ∧ t.owner = s.owner ∧ t.peony = s.peony ∧ KeepsWindows s t) ∧
    (¬ may → exec (.preempt g) s = .next s) ∧
    (j.state = .saving → j.killed = false → quiet → s.landingFits j = true →
      ∃ t k x, exec (.saveComplete g) s = .next t ∧ t.job j.id = some k ∧ told t k ∧
        k = { j with state := .preempted, saved := some x, preempts := k.preempts, lastSave := k.lastSave, phaseSince := s.now } ∧
        k.preempts.toNat = Nat.min 65535 (j.preempts.toNat + 1) ∧ k.lastSave.toNat = Nat.min 4294967295 (s.now - j.phaseSince).toNat ∧
        x.live = (s.savedOf j).live ∧ x.owned = (s.savedOf j).owned ∧ x.peony = (s.savedOf j).peony ∧
        x.cores = j.placed.map (fun n => (n.toNat, if j.imemSave then s.core n else { s.core n with imem := [], imemStores := [] })) ∧
        x.cmds = (s.cmds.filter (fun c => c.job = j.id)).map (fun c => if c.phase = .queued then c else { c with suspended := true }) ∧
        t.cmds = s.cmds.filter (fun c => c.job ≠ j.id) ∧
        (∀ n ∈ j.placed, t.core n = Core.idle ∧ (n.toNat < 48 → t.peonyAt n.toNat = PeonyCore.reset)) ∧ (∀ n, n ∉ j.placed → t.core n = s.core n) ∧
        t = { s with out := t.out, eff := t.eff, cores := t.cores, peony := t.peony, cmds := t.cmds, jobs := t.jobs } ∧
        KeepsButCounters s t ∧ t.reg Reg.hubPreempts = s.reg Reg.hubPreempts + 1) ∧
    (¬ (j.state = .saving ∧ j.killed = false ∧ quiet ∧ s.landingFits j = true) → exec (.saveComplete g) s = .next s) ∧
    (j.state = .restoring → ∀ x, j.saved = some x → (∀ e ∈ x.cores, e.1 < 64) → (x.cores.map Prod.fst).Nodup →
      ∃ t k, exec (.restoreComplete g) s = .next t ∧ t.job j.id = some k ∧ told t k ∧
        k = { j with state := .running, saved := none, phaseSince := s.now, lastRestore := k.lastRestore } ∧
        k.lastRestore.toNat = Nat.min 4294967295 (s.now - j.phaseSince).toNat ∧ (∀ l ∈ t.landing, l.req.job ≠ j.id) ∧
        (∀ l, s.landing = [l] → l.req.job = j.id → l.req.kind = .write → l.code ≠ 0 → j.imemSave = true →
          ∀ e ∈ x.cores, BitVec.ofNat 6 e.1 = l.req.core → e.2.job = j.id → t.core l.req.core = { e.2 with writeFailed := some l.req.target }) ∧
        ((x.live.map Prod.fst).Nodup → ∀ e ∈ x.live, t.byte e.1 = e.2) ∧
        ((∀ l ∈ s.landing, l.req.job ≠ j.id) →
          (∀ e ∈ x.cores, j.imemSave = true → t.core (BitVec.ofNat 6 e.1) = e.2) ∧
          (∀ e ∈ x.cores, ∀ bs, j.imemSave = false → s.jobImage j = some bs →
            t.core (BitVec.ofNat 6 e.1) = { e.2 with imem := imageMem bs }) ∧
          t.cmds = s.cmds ++ x.cmds.map (fun c => { c with suspended := false, granted := false }))) ∧
    (j.state ≠ .restoring → exec (.restoreComplete g) s = .next s)

/-! ### Reliability, start and power -/

/-- R352, R353, R355–R358, R364, R372: failed path checks and scrub errors are counted and logged; a third error of a row in a pass awaits
the calibration window; a hung unit fails, presses or stops the module; what a failed unit leaves, and a fatal fault. -/
def Obligations.UnitHealth : Prop :=
  ∀ (unit : BitVec 16) (pa : BitVec 48) (stack : BitVec 3) (row : BitVec 32) (running : List Nat) (s : State),
    let wr := (s.reg Reg.mgdLogWr).toNat
    let loggedAt := fun (unit : BitVec 16) (t : State) (code sev : Byte) (job : BitVec 16) (arg : Word) =>
      LastLogged t code.toNat sev.toNat unit.toNat ∧
        (bitAt (s.reg Reg.mgdStatus) 31 = false → t.reg Reg.mgdLogWr = BitVec.ofNat 64 ((wr + 1) % 2 ^ 32) ∧
          SMap.get LogEntry.blank t.logPrimary (wr % 65536) =
            { time := s.now, seq := BitVec.ofNat 32 wr, code := code, sev := sev, unit := unit, job := job, arg := arg })
    let logged := loggedAt unit
    let job := s.jobOfUnit unit
    let due := fun (unit : BitVec 16) => ∀ t0, SMap.find s.ceLogged unit.toNat = some t0 → 1000000000 ≤ (s.now - t0).toNat
    -- the unit that holds pa: core-local SRAM of a core, die-shared SRAM, or the pseudo-channel of HBM (R242, Table 15.8)
    let hbm := pa.toNat - hbmBase
    let holder : BitVec 16 := if regionOf pa.toNat = .coreLocal then BitVec.ofNat 16 (s.physCore (pa.toNat / (128 * 2 ^ 20)))
      else if regionOf pa.toNat = .shared then BitVec.ofNat 16 (0x4000 + dieOfPa pa.toNat)
      else BitVec.ofNat 16 (0x3000 + 16 * (hbm / (24 * 2 ^ 30)) + hbm % (24 * 2 ^ 30) / 256 % 16)
    let owner : BitVec 16 := if regionOf pa.toNat = .coreLocal then s.ownerOf (pa.toNat / 64) else 0
    let scrub := fun (r : BitVec 2) => Instr.scrub pa row r
    let held := s.tripped = true ∨ s.stopped = true ∨ s.fatal = true ∨ unitFails unit = false ∨ unit.toNat / 4096 ∉ [0, 1, 2, 7] ∨
      s.pendingLong unit = false ∨ ∃ n, s.coreOfUnit unit = some n ∧ ((s.core n).brkStop = true ∨ (s.core n).brkDrain = true)
    -- path checks (R352)
    (∃ t, exec (.pathRetry unit) s = .next t ∧ unit ∈ t.retried ∧ t.reg Reg.mgdCe = s.reg Reg.mgdCe + 1 ∧ KeepsButLog s t ∧
      (due unit → logged t 0x03 0 job 1) ∧ (¬ due unit → t.logPrimary = s.logPrimary ∧ t.reg Reg.mgdLastCode = s.reg Reg.mgdLastCode) ∧
      t = { s with eff := t.eff, logPrimary := t.logPrimary, logSecondary := t.logSecondary, logSecondaryWr := t.logSecondaryWr
                   ceLogged := t.ceLogged, retried := t.retried }) ∧
    (unit ∉ s.retried → exec (.pathFail unit) s = .next s) ∧
    (unit ∈ s.retried → ∃ t, exec (.pathFail unit) s = .next t ∧ logged t 0x04 2 job 0 ∧ unit ∉ t.retried ∧ unit ∈ t.failing ∧ KeepsButLog s t ∧
      t = { s with eff := t.eff, logPrimary := t.logPrimary, logSecondary := t.logSecondary, logSecondaryWr := t.logSecondaryWr
                   retried := t.retried, failing := t.failing }) ∧
    -- scrub and calibration (R353, R355)
    (∀ r, (scrub r).wf = true → isRam pa.toNat = false ∨ s.selfRefresh = true → exec (scrub r) s = .next s) ∧
    ((scrub 0).wf = true → isRam pa.toNat = true → s.selfRefresh = false →
      (∃ t, exec (scrub 0) s = .next t ∧ t = { s with rows := t.rows, passSram := t.passSram, passHbm := t.passHbm } ∧
        (s.sramPassNs ≤ (s.now - s.passSram).toNat → t.passSram = s.now ∧
          ∀ k, 8 * 2 ^ 32 ≤ k → (SMap.get RowHealth.good t.rows k).errors = 0) ∧
        (s.hbmPassNs ≤ (s.now - s.passHbm).toNat → t.passHbm = s.now ∧
          ∀ k, k < 8 * 2 ^ 32 → (SMap.get RowHealth.good t.rows k).errors = 0)) ∧
      ((s.now - s.passSram).toNat < s.sramPassNs → (s.now - s.passHbm).toNat < s.hbmPassNs →
        exec (scrub 0) s = .next s ∧
        (let k := 2 ^ 32 * (if regionOf pa.toNat = .hbm then hbm / (24 * 2 ^ 30) / 2 else 8) + row.toNat
          let h := SMap.get RowHealth.good s.rows k
          ∃ t, exec (scrub 1) s = .next t ∧ t.reg Reg.mgdCe = s.reg Reg.mgdCe + 1 ∧ KeepsButLog s t ∧
            t = { s with eff := t.eff, rows := t.rows, logPrimary := t.logPrimary, logSecondary := t.logSecondary
                         logSecondaryWr := t.logSecondaryWr, ceLogged := t.ceLogged } ∧
            (due holder → loggedAt holder t 0x01 0 owner (BitVec.setWidth 64 pa)) ∧
            ∀ i, SMap.get RowHealth.good t.rows i = if i = k then { h with errors := h.errors + 1, awaiting := h.awaiting || decide (2 ≤ h.errors) }
              else SMap.get RowHealth.good s.rows i) ∧
        (SMap.get false s.poison (pa.toNat / 64) = true → exec (scrub 2) s = .next s) ∧
          (SMap.get false s.poison (pa.toNat / 64) = false → ∃ t, exec (scrub 2) s = .next t ∧ loggedAt holder t 0x02 1 owner (BitVec.setWidth 64 pa) ∧
            t.reg Reg.mgdUe = s.reg Reg.mgdUe + 1 ∧ KeepsButLog s t ∧
            (∀ i, SMap.get false t.poison i = if i = pa.toNat / 64 then true else SMap.get false s.poison i) ∧
            t = { s with eff := t.eff, poison := t.poison, logPrimary := t.logPrimary, logSecondary := t.logSecondary
                         logSecondaryWr := t.logSecondaryWr }))) ∧
    (s.selfRefresh = true → exec (.hbmCalibration stack) s = .next s) ∧
    (s.selfRefresh = false → ∃ t, exec (.hbmCalibration stack) s = .next t ∧ t = { s with rows := t.rows } ∧
      ∀ k, let h := SMap.get RowHealth.good s.rows k
        SMap.get RowHealth.good t.rows k =
          if k / 2 ^ 32 = stack.toNat ∧ h.awaiting = true then { h with awaiting := false, soft := true } else h) ∧
    -- hangs (R356)
    (held → exec (.hangDetect unit) s = .next s) ∧
    (¬ held → ∃ t, exec (.hangDetect unit) s = .next t ∧ logged t 0x05 2 job (BitVec.ofNat 64 (s.regFld Reg.mgdCfg 16 8)) ∧ t.mem = s.mem ∧
      (∀ a, ¬ CounterReg a → a ≠ Reg.mgdLogWr → a ≠ Reg.mgdLastCode → a ≠ Reg.mgdCutStatus → a ≠ Reg.dbgPressStatus → t.reg a = s.reg a) ∧
      (bitAt (s.reg Reg.mgdCfg) 24 = true → t.stopped = true ∧ t.failing = s.failing) ∧
      (bitAt (s.reg Reg.mgdCfg) 24 = false → t.stopped = false ∧ unit ∈ t.failing ∧ t.cores = s.cores) ∧
      (bitAt (s.reg Reg.dbgPressCfg) 63 = false ∨ s.pressFree = false → t.press = s.press) ∧
      (bitAt (s.reg Reg.dbgPressCfg) 63 = true → s.pressFree = true → ∃ x, t.press = some x ∧ x.cause = 4 ∧ x.hung = unit ∧ x.job = job ∧
        x.began = s.now)) ∧
    -- a unit fails (R357, R358)
    (unitFails unit = false → exec (.unitFailed unit running) s = .next s) ∧
    (∀ x, s.press = some x → x.cause = 4 → x.hung = unit → exec (.unitFailed unit running) s = .next s) ∧
    (unitFails unit = true → (∀ x, s.press = some x → ¬ (x.cause = 4 ∧ x.hung = unit)) → unit.toNat / 4096 ≠ 15 →
      let n := unit.toNat % 4096
      let hit := fun (c : Cmd) => c.phase = .started ∧ (s.runsOn unit c = true ∨ c.id ∈ running)
      ∃ t, exec (.unitFailed unit running) s = .next t ∧ unit ∉ t.failing ∧ t.cores = s.cores ∧ t.jobs = s.jobs ∧
        (∀ a, unit.toNat / 4096 ∉ [0, 2] ∨ 48 * 128 * 2 ^ 20 ≤ a → t.byte a = s.byte a) ∧
        (∀ c ∈ s.cmds, hit c → ∃ d ∈ t.cmds, d.id = c.id ∧ ∃ r, d.phase = .done 0xC1 r) ∧
        (∀ c ∈ s.cmds, c.phase = .started → (∀ d ∈ s.cmds, hit d → d.id ≠ c.id) → c ∈ t.cmds) ∧
        (∀ q ∈ s.partsOfUnit unit, ∀ j ∈ s.jobs, j.group = s.groupOf q → j.state = .running → j.killed = false →
          (SMap.find t.recoveries (s.groupOf q)).isSome = true) ∧
        (unit.toNat / 4096 = 0 → bitAt (t.reg Reg.hubPeonyMap) n = false) ∧
        (unit.toNat / 4096 = 1 → t.regFld Reg.hubEngineMap n 1 = 0 ∧ LastLogged t 0x06 2 unit.toNat) ∧
        (unit.toNat / 4096 = 3 → t.hbmOff = s.hbmOff ||| BitVec.ofNat 16 (2 ^ (n / 64 * 4 + n % 64 / 16)) ∧ LastLogged t 0x06 2 unit.toNat) ∧
        (unit.toNat / 4096 = 4 → t.dieOff = s.dieOff ||| BitVec.ofNat 4 (2 ^ n) ∧ t.regFld Reg.hubDieStatus (8 * n + 7) 1 = 0)) ∧
    (unit.toNat / 4096 = 15 → (∀ x, s.press = some x → ¬ (x.cause = 4 ∧ x.hung = unit)) →
      exec (.unitFailed unit running) s = exec .fatal s) ∧
    -- fatal faults (R364)
    (s.fatal = true → exec .fatal s = .next s) ∧
    (s.fatal = false → ∃ t, exec .fatal s = .next t ∧ t.fatal = true ∧ (∀ k, k < 8 → (t.port k).state = .disabled) ∧ LastLogged t 0x10 3 0xF000 ∧
      t.savedLog = some (t.logPrimary, t.reg Reg.mgdLogWr) ∧
      (∀ a, ¬ CounterReg a → a ≠ Reg.mgdLogWr → a ≠ Reg.mgdLastCode → a ≠ Reg.mgdCutStatus → t.reg a = s.reg a) ∧
      t = { s with eff := t.eff, stem := t.stem, ports := t.ports, fatal := t.fatal, logPrimary := t.logPrimary, logSecondary := t.logSecondary
                   logSecondaryWr := t.logSecondaryWr, savedLog := t.savedLog })

/-- R359, R360, R365–R371: a recovery restarts its group's job at RENTRY on serving cores, or ends it; a global stop squashes speculation
and marks its ports; the cut is taken when every recording has ended; RESUME lets the module go on. -/
def Obligations.RecoveryAndGlobalStop : Prop :=
  ∀ (g : BitVec 4) (v : BitVec 32) (p : BitVec 3) (reads : List HostRead) (s : State),
    let k := p.toNat
    let x := s.port k
    let state := fun (t : State) => t.regFld Reg.mgdCutStatus 0 2
    let ups := (List.range 8).filter s.portUp
    let begins := fun (i : Instr) (id : BitVec 32) (own : Bool) => ∃ t, exec i s = .next t ∧ t.stopped = true ∧ state t = 1 ∧
      t.regFld Reg.mgdCutStatus 32 32 = id.toNat ∧ t.stop = { s.stop with count := s.stop.count + 1, began := s.now } ∧
      (∀ n, (t.core n).runAhead = none) ∧ t.passages = [] ∧ (∀ l ∈ t.ahead, l.used = true ∧ l ∈ s.ahead) ∧
      (∀ c y, SMap.find t.sessions c = some y → y.shadow = []) ∧
      (∀ q, q < 8 → bitAt (t.reg Reg.mgdCutStatus) (16 + q) = decide (q ∉ ups) ∧
        bitAt (t.reg Reg.mgdCutStatus) (8 + q) = decide (q ∈ ups ∧ (own = true ∨ q ≠ k)) ∧
        (t.egress q 0).map (fun w => w.msg.payload) =
          (s.egress q 0).map (fun w => w.msg.payload) ++ (if q ∈ ups then [toLE 4 id.toNat] else [])) ∧
      t.mem = s.mem ∧ ∀ a, ¬ CounterReg a → a ≠ Reg.mgdCutStatus → t.reg a = s.reg a
    -- recovery (R359, R360)
    (∀ r, SMap.find s.recoveries g.toNat = some r →
      (s.runningJob g.toNat = none → exec (.recoveryRestart g) s = .next { s with recoveries := SMap.erase s.recoveries g.toNat }) ∧
      (∀ j, s.runningJob g.toNat = some j → s.job j.id = some j → s.stopped = false → s.tripped = false → j.killed = false → j.saved = none →
        (∀ e ∈ s.sessions, ∀ c, s.cmd e.1 = some c → c.job ≠ j.id) →
        let entry := s.reg (Reg.mgdGrpRentry g.toNat)
        let recent := j.restartTimes.filter (fun t => decide ((s.now - t).toNat < 10000000000))
        let quiet := ∀ c ∈ s.cmds, c.job = j.id → c.phase = .queued
        let told := fun (t : State) (y : Job) => isDevice j.statusAddr.toNat = false →
          Out.hostWrite j.port j.statusAddr.toNat (y.record s.now) false ∈ t.out
        let lost := fun (code : Byte) => ∃ t, exec (.recoveryRestart g) s = .next t ∧ t.job j.id = none ∧ LastLogged t 0x0E 2 r.unit.toNat ∧
          (∀ c ∈ t.cmds, c.job ≠ j.id) ∧
          told t { j with state := .ended, endCode := code, tEnd := s.now, waitNs := j.waited s.now, waitSince := none }
        (¬ quiet → exec (.recoveryRestart g) s = .next s) ∧
        (quiet → bitAt entry 31 = false → lost 0xC2) ∧
        (quiet → bitAt entry 31 = true → 3 ≤ recent.length → lost 0xC3) ∧
        (quiet → bitAt entry 31 = true → recent.length < 3 → s.placement j.group j.nPeony j.nLupin = none → lost 0xB2) ∧
        (∀ ps bs, quiet → bitAt entry 31 = true → recent.length < 3 → s.placement j.group j.nPeony j.nLupin = some ps → s.jobImage j = some bs →
          ∃ t y, exec (.recoveryRestart g) s = .next t ∧ t.job j.id = some y ∧ told t y ∧
            y = { j with placed := ps, restarts := y.restarts, restartTimes := s.now :: recent } ∧
            y.restarts.toNat = Nat.min 65535 (j.restarts.toNat + 1) ∧ LastLogged t 0x0D 1 r.unit.toNat ∧
            t.reg Reg.mgdRecoveries = s.reg Reg.mgdRecoveries + 1 ∧ SMap.find t.recoveries g.toNat = none ∧
            (∀ n ∈ ps, t.core n = { Core.starting j.id (BitVec.ofNat 18 (s.regFld (Reg.mgdGrpRentry g.toNat) 0 18 / 4 * 4)) (imageMem bs) with
                g := (t.core n).g } ∧
              ∀ i, (t.core n).greg i = if i = 1 then s.reg (Reg.mgdGrpRecover g.toNat) &&& 0xFFFFFFFFFFFF
                else if i = 2 then BitVec.setWidth 64 r.code else if i = 3 then BitVec.setWidth 64 r.unit else 0) ∧
            (∀ n ∈ j.placed, n ∉ ps → t.core n = Core.idle) ∧
            (isDevice j.statusAddr.toNat = false → t.mem = s.mem)))) ∧
    -- the stop (R365–R367)
    (1 ≤ s.start.stage → s.stopped = false → v.getLsbD 0 = true →
      begins (.stop v) (BitVec.ofNat 32 (s.moduleId * 65536 + s.stop.count % 65536)) true) ∧
    (s.stopped = true ∨ v.getLsbD 0 = false → exec (.stop v) s = .next s) ∧
    (∀ m, x.arrived.find? (fun m => m.typ = 0x0B) = some m →
      let id : BitVec 32 := BitVec.ofNat 32 (numAt m.payload 0 4)
      (s.stopped = false → begins (.cutMark p) id false) ∧
      (s.stopped = true → ∃ t, exec (.cutMark p) s = .next t ∧ t = { s with eff := t.eff, ports := t.ports } ∧
        PortIs s t k { x with arrived := x.arrived.erase m } ∧ (∀ a, a ≠ Reg.mgdCutStatus → t.reg a = s.reg a) ∧
        bitAt (t.reg Reg.mgdCutStatus) (8 + k) = false ∧ state t = state s ∧
        t.regFld Reg.mgdCutStatus 32 32 = if state s = 1 then Nat.min id.toNat (s.regFld Reg.mgdCutStatus 32 32)
          else s.regFld Reg.mgdCutStatus 32 32)) ∧
    (let late := s.stopped = true ∧ bitAt (s.reg Reg.mgdCutStatus) (8 + k) = true ∧ 10000000 ≤ (s.now - s.stop.began).toNat;
      (¬ late → exec (.cutMarkTimeout p) s = .next s) ∧
      (late → ∃ t, exec (.cutMarkTimeout p) s = .next t ∧ t = { s with eff := t.eff } ∧ (∀ a, a ≠ Reg.mgdCutStatus → t.reg a = s.reg a) ∧
        ∀ i, bitAt (t.reg Reg.mgdCutStatus) i =
          if i = 8 + k then false else if i = 16 + k then true else bitAt (s.reg Reg.mgdCutStatus) i)) ∧
    -- the cut (R366, R369)
    (let ready := s.stopped = true ∧ state s = 1 ∧ s.regFld Reg.mgdCutStatus 8 8 = 0 ∧ s.selfRefresh = false;
      (¬ ready → exec .cutTaken s = .next s) ∧
      (ready → s.tripped = false → ∃ t, exec .cutTaken s = .next t ∧ state t = 2 ∧ t.stop = { s.stop with done := s.now } ∧
        LastLogged t 0x0C 0 0xF000 ∧
        (∀ a, a < s.regFld Reg.mgdCutBase 20 28 * mib ∨
            s.regFld Reg.mgdCutBase 20 28 * mib + Nat.max 64 (s.regFld Reg.mgdCutBase 0 8 * mib) ≤ a →
          t.byte a = s.byte a) ∧
        (∀ a, ¬ CounterReg a → a ≠ Reg.mgdLogWr → a ≠ Reg.mgdLastCode → a ≠ Reg.mgdCutStatus → a ≠ Reg.mgdStatus → t.reg a = s.reg a) ∧
        t.cores = s.cores ∧ t.ports = s.ports ∧ t.cmds = s.cmds)) ∧
    -- RESUME (R370, R371)
    (1 ≤ s.start.stage → s.stopped = true → state s = 2 →
      (s.tripped = true → v.getLsbD 1 = true → exec (.resume v reads) s = .next { s with stop := { s.stop with resume := true } }) ∧
      (s.tripped = true → v.getLsbD 1 = false → exec (.resume v reads) s = .next s) ∧
      (s.tripped = false → v.getLsbD 1 = true ∨ s.stop.resume = true → s.stop.held = [] →
        ∃ t, exec (.resume v reads) s = .next t ∧ t = { s with eff := t.eff, stopped := false, stop := { s.stop with resume := false } } ∧
          state t = 0 ∧ ∀ a, a ≠ Reg.mgdCutStatus → t.reg a = s.reg a)) ∧
    (s.stopped = false → s.stop.resume = false → exec (.resume v reads) s = .next s)

/-- R9, R16, R378, R382, R434: input power, a write of PWR_RESTART with its key, or PERST# of port 0 start the module: a cold start leaves
every register at reset but those that live in flash and memory empty; a warm start comes after the orderly shutdown, which ends every job
and, once PF1 has drained, shows SHST 0b10, and keeps die-shared SRAM and HBM (the model's reading, log 14). PERST# and a trained link change
their port alone. -/
def Obligations.Starts : Prop :=
  ∀ (bifurc second flit : Bool) (addrSel speed width : BitVec 3) (v : BitVec 32) (w : StageWork) (s : State), w.replayed ≤ 2 ^ 30 →
    let fresh := fun (t : State) (warm : Bool) => t = { State.reset with
        pending := s.pending, free := s.free, flash := s.flash, erase := s.erase
        out := t.out, nextCmd := t.nextCmd, now := t.now, eff := t.eff, mem := t.mem, poison := t.poison, pf1 := t.pf1, start := t.start
        stg := t.stg, logPrimary := t.logPrimary, logSecondary := t.logSecondary, logSecondaryWr := t.logSecondaryWr, sec := t.sec } ∧
      t.start.stage = 0 ∧ t.start.warm = warm ∧ t.start.off = false ∧ t.start.losing = false ∧ t.start.closing = false ∧
      t.regFld Reg.pwrStartStatus 27 1 = b2n warm ∧ t.regFld Reg.pwrStartStatus 25 2 = 0 ∧ t.reg Reg.pwrStartTime = t.now ∧
      t.reg Reg.hlyRetired = s.reg Reg.hlyRetired ∧
      ∀ a, SMap.get (t.reg a) t.stg a = if a = Reg.secPolicy then t.reg a &&& ~~~3 else t.reg a
    let cold := fun (i : Instr) (now : Word) => ∃ t, exec i s = .next t ∧ fresh t false ∧ t.now = now ∧ t.mem = [] ∧ t.poison = [] ∧
      ∀ a, a ∉ [Reg.pwrStartStatus, Reg.pwrStartTime, Reg.hlyStatus, Reg.mgdLogWr, Reg.hlyRetired, Reg.hlyHealthWr] → t.reg a = resetOf a
    let warm := fun (i : Instr) => ∃ t, exec i s = .next t ∧ (∀ j ∈ t.jobs, j.isLive = false) ∧ t.start.closing = true ∧ t.pf1.closing = true ∧
      ((∀ j ∈ s.jobs, j.isLive = false) → s.pf1.cmds = [] →
        t = { s with pf1 := { s.pf1 with closing := true, shst := 2 }
                     start := { s.start with closing := true, marker := true, pcie := t.start.pcie } })
    let there := s.start.off = false ∧ s.start.losing = false ∧ (second = true → s.start.bifurc = true)
    (s.start.off = false → exec (.inputPowerGood bifurc addrSel) s = .next s) ∧
    (s.start.off = true → cold (.inputPowerGood bifurc addrSel) 0 ∧
      ∃ t, exec (.inputPowerGood bifurc addrSel) s = .next t ∧ t.start.bifurc = bifurc ∧ t.start.addrSel = addrSel ∧ t.logSecondary = []) ∧
    (s.stopped = false → 1 ≤ s.start.stage → s.start.off = false → s.start.losing = false →
      (v.extractLsb' 16 16 ≠ 0xA55A ∨ v.extractLsb' 0 2 = 3 ∨ v.extractLsb' 0 2 = 0 →
        exec (.coldStart v) s = .next s ∧ exec (.warmStart v) s = .next s) ∧
      (v.extractLsb' 16 16 = 0xA55A → v.extractLsb' 0 2 = 2 → cold (.coldStart v) s.now ∧ exec (.warmStart v) s = .next s) ∧
      (v.extractLsb' 16 16 = 0xA55A → v.extractLsb' 0 2 = 1 → exec (.coldStart v) s = .next s ∧
        (s.start.closing = false → warm (.warmStart v)))) ∧
    (s.stopped = true ∨ s.start.stage = 0 → exec (.coldStart v) s = .next s ∧ exec (.warmStart v) s = .next s) ∧
    (s.start.closing = true → s.pf1.cmds = [] →
      (s.pf1.shst ≠ 2 → exec (.stageAdvance w) s =
        .next { s with pf1 := { s.pf1 with shst := 2 }, start := { s.start with marker := true } }) ∧
      (s.pf1.shst = 2 → ∃ t, exec (.stageAdvance w) s = .next t ∧ fresh t true ∧ t.now = s.now ∧
        (∀ a, t.byte a = if sharedBase ≤ a then s.byte a else 0) ∧
        t.reg Reg.hubPeonyMap = (resetOf Reg.hubPeonyMap &&& ~~~0xFFFFFFFFFFFFF) ||| (s.reg Reg.hubPeonyMap &&& 0xFFFFFFFFFFFFF))) ∧
    (¬ there → exec (.perstAssert second) s = .next s ∧ exec (.perstRelease second) s = .next s ∧
      exec (.pcieLinkUp second flit speed width) s = .next s) ∧
    (there →
      (second = true → exec (.perstAssert second) s = .next { s with start := s.start.setPort 1 PciePort.reset }) ∧
      (second = false → s.reg Reg.pwrStartCfg &&& 1 = 0 → cold (.perstAssert second) s.now) ∧
      (second = false → s.reg Reg.pwrStartCfg &&& 1 = 1 → s.start.closing = false → warm (.perstAssert second)) ∧
      (∃ t, exec (.perstRelease second) s = .next t ∧ t = { s with start := { s.start with pcie := t.start.pcie } } ∧
        t.start.port (b2n second) = { s.start.port (b2n second) with perst := false } ∧
        t.start.port (1 - b2n second) = s.start.port (1 - b2n second)) ∧
      ((s.start.port (b2n second)).perst = false → 1 ≤ speed.toNat → speed.toNat ≤ 6 → width.toNat ≤ (if s.start.bifurc then 3 else 4) →
        (speed = 6 → flit = true) →
        ∃ t, exec (.pcieLinkUp second flit speed width) s = .next t ∧ t = { s with start := { s.start with pcie := t.start.pcie } } ∧
          t.start.port (b2n second) = { perst := false, up := true, flit := flit, speed := speed, width := width } ∧
          t.start.port (1 - b2n second) = s.start.port (1 - b2n second)))

/-- R12, R271, R379, R382, R383, R388, R403: a stage whose work is done is reached, with its time; a failed one ends a warm start, which
is repeated at most three times before a cold one, and is recorded by a cold one, as is a stage that takes too long. -/
def Obligations.StartStages : Prop :=
  ∀ (w : StageWork) (s : State), w.replayed ≤ 2 ^ 30 → s.startRuns = true → s.start.closing = false →
    let k := s.start.stage
    let reaches := fun (t : State) => t.start.stage = k + 1 ∧ t.reg (Reg.pwrStageTime (k + 1)) = s.now ∧ t.mem = s.mem ∧ t.now = s.now
    let banks := ∀ c ∈ [1, 2, 3], s.sec.bankCheck c (b2n (bitAt s.sec.chosen c)) = none
    let known := s.start.record.getD 0xFF
    let hlyWarns := fun (t : State) => bitAt (t.reg Reg.hlyStatus) 28
    let recorded := fun (t : State) (code : Nat) => t.regFld Reg.pwrStartStatus 20 4 = k % 16 ∧ t.regFld Reg.pwrStartStatus 12 8 = code
    let again := fun (i : Instr) (code : Nat) => ∃ t, exec i s = .next t ∧ t.start.stage = 0 ∧ t.cores = [] ∧ t.jobs = [] ∧
      (s.regFld Reg.pwrStartStatus 25 2 < 3 → recorded t code ∧ t.start.warm = true ∧ t.start.record = s.start.record ∧
        t.regFld Reg.pwrStartStatus 25 2 = s.regFld Reg.pwrStartStatus 25 2 + 1) ∧
      (s.regFld Reg.pwrStartStatus 25 2 = 3 → t.start.warm = false ∧ t.mem = [] ∧ t.regFld Reg.pwrStartStatus 24 1 = 1 ∧
        t.regFld Reg.pwrStartStatus 25 2 = 0 ∧ t.regFld Reg.pwrStartStatus 20 4 = 0 ∧ t.regFld Reg.pwrStartStatus 12 8 = 0)
    (k = 0 → s.sec.bankCheck 0 (b2n (bitAt s.sec.chosen 0)) = none →
      ∃ t, exec (.stageAdvance w) s = .next t ∧ reaches t ∧ t.power.valveTa = s.now ∧ t.start.blocked = s.start.blocked) ∧
    (k = 0 → s.start.warm = false → s.sec.bankCheck 0 0 ≠ none → s.sec.bankCheck 0 1 ≠ none →
      ∃ t, exec (.stageAdvance w) s = .next t ∧ t.start = { s.start with blocked := true } ∧ recorded t 0x01 ∧
        t.regFld Reg.htrStatus 31 1 = 1) ∧
    (k = 0 → s.start.warm = true → s.sec.bankCheck 0 0 ≠ none → s.sec.bankCheck 0 1 ≠ none → again (.stageAdvance w) 0x01) ∧
    (k = 1 → s.start.warm = false → banks →
      ∃ t, exec (.stageAdvance w) s = .next t ∧ reaches t ∧ t.reg Reg.hubPeonyMap = BitVec.setWidth 64 w.cores ∧
        t.regFld Reg.hubEngineMap 0 16 = w.lupin.toNat ∧ t.dieOff = ~~~w.dies ∧
        ∀ d, d < 4 → bitAt (t.reg Reg.hubDieStatus) (8 * d + 7) = bitAt w.dies d) ∧
    (k = 1 → s.start.warm = true → s.start.record = none → again (.stageAdvance w) 0x02) ∧
    (k = 2 → s.start.warm = false ∨ w.hbm &&& known = known →
      ∃ t, exec (.stageAdvance w) s = .next t ∧ reaches t ∧ t.regFld Reg.hubEngineMap 16 8 = (w.hbm &&& known).toNat ∧
        (s.start.warm = true → t.start.released = some s.now) ∧ (s.start.warm = false → t.ports = s.ports)) ∧
    (k = 2 → s.start.warm = true → w.hbm &&& known ≠ known → again (.stageAdvance w) 0x04) ∧
    (k = 3 → bitAt (s.reg Reg.pwrHoldup) 31 = false → exec (.stageAdvance w) s = .next s) ∧
    (k = 3 → bitAt (s.reg Reg.pwrHoldup) 31 = true →
      (w.mapOk = true → ∃ t, exec (.stageAdvance w) s = .next t ∧ reaches t ∧ bitAt (t.reg Reg.hlyStatus) 31 = true ∧ t.start.marker = false ∧
        (s.start.marker = false → hlyWarns t = true) ∧ (s.start.marker = true → hlyWarns t = hlyWarns s) ∧
        (s.start.warm = false → t.start.released = some s.now)) ∧
      (w.mapOk = false → s.start.warm = false →
        ∃ t, exec (.stageAdvance w) s = .next t ∧ reaches t ∧ recorded t 0x05 ∧ t.reg Reg.hlyStatus = s.reg Reg.hlyStatus) ∧
      (w.mapOk = false → s.start.warm = true → again (.stageAdvance w) 0x05)) ∧
    (k = 4 → ∀ r, s.start.released = some r →
      (s.fabricSettled = true ∨ 15000000000 ≤ (s.now - r).toNat →
        ∃ t, exec (.stageAdvance w) s = .next t ∧ reaches t ∧ t = { s with eff := t.eff, start := { s.start with stage := 5 } }) ∧
      (s.fabricSettled = false → (s.now - r).toNat < 15000000000 → exec (.stageAdvance w) s = .next s)) ∧
    (5 ≤ k → exec (.stageAdvance w) s = .next s) ∧ (k = 0 ∨ 4 ≤ k → exec .stageTimeout s = .next s) ∧
    (∀ n, (k, n) ∈ [(1, 2000000000), (2, 20000000000), (3, 30000000000)] →
      ((s.now - s.start.began).toNat ≤ n → exec .stageTimeout s = .next s) ∧
      (n < (s.now - s.start.began).toNat →
        (s.start.warm = true → again .stageTimeout 0x06) ∧
        (s.start.warm = false → ∃ t, exec .stageTimeout s = .next t ∧ t = { s with eff := t.eff } ∧ recorded t 0x06 ∧
          ∀ a, a ≠ Reg.pwrStartStatus → t.reg a = s.reg a)))

/-- R19, R389–R393, R415, R443: a power sample sets PWR_STATUS and the petal dies' operating points, the supply target and the dies' thermal
offsets within their bounds, and at the lowest setting above the cap stops at least one control core, in rotation; its cycles are those R443
allows; a hot junction is fatal; the coolant's reading sets PWR_COOLANT, and a valve iteration moves the valve within its bounds. -/
def Obligations.PowerAndCooling : Prop :=
  ∀ (x : PowerSample) (c : Coolant) (pct : Byte) (die : BitVec 3) (s : State), s.start.off = false →
    let old := s.regFld Reg.pwrStatus 22 10
    let vmax := s.regFld Reg.pwrLimit 16 10
    let w := x.watts.toNat
    let cap := s.capWatts
    let frame := fun (t : State) (as : List Nat) => t = { s with eff := t.eff, power := t.power } ∧ KeepsRegs as s t
    let shows := fun (t : State) => t.regFld Reg.pwrCoolant 40 16 = c.flow.toNat ∧ t.regFld Reg.pwrCoolant 28 12 = c.tIn.toNat ∧
      t.regFld Reg.pwrCoolant 16 12 = c.tOut.toNat
    let bad := c.flow.toNat < 50 ∨ 2000 < c.flow.toNat ∨ 800 < c.tIn.toNat ∨ 800 < c.tOut.toNat ∨ c.loopBad = true
    let below := decide (c.flow.toNat < 10 * s.regFld Reg.pwrValveCfg 0 8)
    let flows := fun (t : State) =>
      (bad → t.power.sensorFail = true ∧ t.power.flowLow = s.power.flowLow) ∧
      (¬ bad → t.power.sensorFail = false ∧
        (below = s.power.flowLow → t.power.flowLow = s.power.flowLow ∧ t.power.flowTurn = none) ∧
        (∀ since, below ≠ s.power.flowLow → s.power.flowTurn = some (below, since) →
          (2000000000 ≤ (s.now - since).toNat → t.power.flowLow = below) ∧
          ((s.now - since).toNat < 2000000000 → t.power.flowLow = s.power.flowLow ∧ t.power.flowTurn = some (below, since))) ∧
        (below ≠ s.power.flowLow → s.power.flowTurn = none → t.power.flowLow = s.power.flowLow ∧ t.power.flowTurn = some (below, s.now)))
    -- the power loop (R19, R389, R390, R415, R443)
    ((Instr.powerLoopSample x).wf = true →
      ((s.now - s.power.sampled).toNat < 100000 → exec (.powerLoopSample x) s = .next s) ∧
      (100000 ≤ (s.now - s.power.sampled).toNat → s.sampleOk x = false → exec (.powerLoopSample x) s = .fault .illFormed) ∧
      (100000 ≤ (s.now - s.power.sampled).toNat → s.sampleOk x = true → 600 ≤ vmax → ∃ t, exec (.powerLoopSample x) s = .next t ∧
        t = { s with eff := t.eff, cores := t.cores, power := t.power } ∧
        KeepsRegs ([Reg.pwrStatus, Reg.pwrCoolant, Reg.dbgTjPeak] ++ (List.range 4).map Reg.hubOppoint) s t ∧
        t.regFld Reg.pwrStatus 53 11 = w ∧ t.regFld Reg.pwrStatus 32 16 = x.mv.toNat ∧ t.power.sampled = s.now ∧
        (let v := t.regFld Reg.pwrStatus 22 10;
          v ≤ vmax ∧ (s.start.stage = 2 → v ≤ 700) ∧ (old = 0 ∨ 600 ≤ old → 600 ≤ v) ∧ 
            (old ≠ 0 → old - 50 ≤ v ∨ v = vmax ∨ s.start.stage = 2) ∧ (old ≠ 0 → v ≤ old + 50) ∧
            (old ≠ 0 → cap < w → v ≤ old) ∧ (w < cap → s.start.stage ≠ 2 → 720 ≤ vmax → old = 0 ∨ 720 ≤ old → 720 ≤ v) ∧
            (∀ n, t.core n = { s.core n with stopPower := decide (v = 600 ∧ cap < w ∧ n.toNat < 48 ∧
              (n.toNat + 48 - s.power.turn) % 48 < Nat.max 1 x.stops.toNat) }) ∧
            (v = 600 → cap < w → s.power.turn < 48 → ∃ n, (t.core n).stopPower = true)) ∧
        (∀ d, d < 4 → let tj := reading x.tj d;
          t.regFld (Reg.hubOppoint d) 12 8 = tj ∧
          t.regFld (Reg.hubOppoint d) 0 12 = (if bitAt (s.reg Reg.hubDieStatus) (8 * d + 7) then reading x.cycle d else 0) ∧
          (let v := t.regFld Reg.pwrStatus 22 10;
            let mv := t.regFld (Reg.hubOppoint d) 20 12;
            let cyc := reading x.cycle d;
            let was := s.regFld (Reg.hubOppoint d) 20 12;
            let o := SMap.get 0 s.power.offsets d;
            let least := if 100 ≤ tj ∨ cap ≤ w ∨ s.start.stage = 2 then 600 else if was = 0 then 720 else Nat.min 720 was;
            mv = v - SMap.get 0 t.power.offsets d ∧
            SMap.get 0 t.power.offsets d =
              Nat.min (v - least) (if 100 < tj ∨ (tj = 100 ∧ o = 0) then o + 5 else if tj ≤ 98 then o - 5 else o) ∧
            (bitAt (s.reg Reg.hubDieStatus) (8 * d + 7) = true → 0 < cyc ∧ (720 ≤ mv → tj ≤ 95 → cyc ≤ 820) ∧ (mv = 880 → tj = 40 → cyc = 580) ∧
              (mv = 800 → tj = 60 → cyc = 680) ∧ (mv = 720 → tj = 95 → cyc = 820))) ∧
          t.regFld Reg.dbgTjPeak (8 * d) 8 = Nat.max (s.regFld Reg.dbgTjPeak (8 * d) 8) tj) ∧
        (∀ d, d < 5 → let tj := reading x.tj d;
          tj ≤ t.regFld Reg.pwrCoolant 8 8 ∧ (tj < 110 → SMap.find t.power.hot d = none) ∧
          (110 ≤ tj → SMap.find t.power.hot d = some ((SMap.find s.power.hot d).getD s.now))))) ∧
    ((Instr.junctionOverheat die).wf = true →
      ((SMap.find s.power.hot die.toNat = none ∨ ∃ a, SMap.find s.power.hot die.toNat = some a ∧ (s.now - a).toNat < 10000000) →
        exec (.junctionOverheat die) s = .next s) ∧
      (∀ a, SMap.find s.power.hot die.toNat = some a → 10000000 ≤ (s.now - a).toNat → s.fatal = false →
        ∃ t, exec (.junctionOverheat die) s = .next t ∧ t.fatal = true ∧ (∀ k, k < 8 → (t.port k).state = .disabled) ∧
          LastLogged t 0x10 3 0xF000 ∧ t.mem = s.mem)) ∧
    -- coolant (R391–R393)
    (∃ t, exec (.flowLow c) s = .next t ∧ frame t [Reg.pwrCoolant] ∧ shows t ∧ flows t ∧
      (bad → t.regFld Reg.pwrCoolant 56 8 = 100) ∧ (¬ bad → t.regFld Reg.pwrCoolant 56 8 = s.regFld Reg.pwrCoolant 56 8)) ∧
    ((Instr.valveIteration c pct).wf = true →
      let due := s.power.valveTa.toNat + (s.power.valveNext - s.power.valveNa) * (s.regFld Reg.pwrValveCfg 16 8 * 1000000)
      let rested := ∀ e, s.power.valveEnd = some e → e.toNat + s.regFld Reg.pwrValveCfg 16 8 * 500000 ≤ s.now.toNat
      (s.start.stage = 0 ∨ s.now.toNat < due ∨ ¬ rested → exec (.valveIteration c pct) s = .next s) ∧
      (1 ≤ s.start.stage → due ≤ s.now.toNat → rested → ∃ t, exec (.valveIteration c pct) s = .next t ∧
        t = { s with eff := t.eff, power := t.power } ∧ (∀ a, ¬ CounterReg a → a ≠ Reg.pwrCoolant → t.reg a = s.reg a) ∧ shows t ∧ flows t ∧
        t.power.valveNext = s.power.valveNext + 1 ∧ t.power.valveEnd = some s.now ∧
        t.reg Reg.pwrValveLate = (if due < s.now.toNat then s.reg Reg.pwrValveLate + 1 else s.reg Reg.pwrValveLate) ∧
        (let v := t.regFld Reg.pwrCoolant 56 8;
          let was := s.regFld Reg.pwrCoolant 56 8;
          let least := s.regFld Reg.pwrValveCfg 8 8;
          (bad → v = 100) ∧ (¬ bad → v ≤ 100 ∧ (least ≤ 100 → least ≤ v) ∧ (least ≤ was + 10 → v ≤ was + 10) ∧
            (was ≤ 110 → was - 10 ≤ v) ∧ (was ≤ pct.toNat + 10 → pct.toNat ≤ was + 10 → least ≤ pct.toNat → pct.toNat ≤ 100 → v = pct.toNat)))))

/-- R16, R364, R371, R394–R398: usable energy is measured; loss of input power is a fatal fault and ends in power off, which flash and
fuses alone outlive; the guard's two channels latch a disagreement and a trip; the trip disables the ports and puts HBM in self-refresh
until it is cleared. -/
def Obligations.PowerLossAndGuard : Prop :=
  ∀ (cj : BitVec 16) (good bifurc a b : Bool) (sel : BitVec 3) (v : BitVec 32) (s : State),
    let on := s.start.off = false ∧ s.start.losing = false
    let frame := fun (t : State) (as : List Nat) => ∀ x, ¬ CounterReg x → x ∉ as → t.reg x = s.reg x
    let bit := fun (t : State) (r i : Nat) => bitAt (t.reg r) i
    -- holdup and loss of power (R394, R395)
    (let due := on ∧ ∀ t, s.power.holdupAt = some t → bit s Reg.pwrHoldup 31 = false ∨ 86400000000000 ≤ (s.now - t).toNat;
      (¬ due → exec (.holdupMeasure cj) s = .next s) ∧
      (due → ∃ t, exec (.holdupMeasure cj) s = .next t ∧ t = { s with eff := t.eff, power := { s.power with holdupAt := some s.now } } ∧
        frame t [Reg.pwrHoldup] ∧ t.regFld Reg.pwrHoldup 0 16 = cj.toNat ∧ bit t Reg.pwrHoldup 30 = decide (cj.toNat < 3000) ∧
        bit t Reg.pwrHoldup 31 = (bit s Reg.pwrHoldup 31 || decide (3000 ≤ cj.toNat)))) ∧
    (¬ on → exec .powerLoss s = .next s) ∧
    (on → ∃ t, exec .powerLoss s = .next t ∧ t.fatal = true ∧ t.start = { s.start with losing := true } ∧ t.mem = s.mem ∧ t.flash = s.flash ∧
      (s.fatal = false → (∀ k, k < 8 → (t.port k).state = .disabled) ∧ LastLogged t 0x10 3 0xF000)) ∧
    (s.start.losing = false → exec (.powerDown good bifurc sel) s = .next s) ∧
    (s.start.losing = true → ∃ t, exec (.powerDown good bifurc sel) s = .next t ∧ t.start.off = !good ∧ t.start.losing = false ∧ t.start.stage = 0 ∧
      t.mem = [] ∧ t.cores = [] ∧ t.jobs = [] ∧ t.flash = s.flash ∧ t.erase = s.erase ∧ t.now = 0 ∧
      (good = true → t.start.bifurc = bifurc ∧ t.start.addrSel = sel)) ∧
    -- the guard (R396, R397)
    (let run := s.guard.run;
      let disc := s.regFld Reg.grdCfg 0 10;
      let early := ∃ t, s.guard.sampled = some t ∧ (s.now - t).toNat < 1000000;
      let differ := a = b;
      let trips := fun (t : State) => t.tripped = true ∧ t.reg Reg.grdTrips = s.reg Reg.grdTrips + (if s.tripped then 0 else 1) ∧
        (s.tripped = false → bit t Reg.grdStatus 31 = true ∧
          (s.stopped = false → t.selfRefresh = true ∧ ∀ k, k < 8 → (t.port k).state = .disabled) ∧
          (s.stopped = true → s.regFld Reg.mgdCutStatus 0 2 = 1 → t.selfRefresh = s.selfRefresh ∧ t.regFld Reg.mgdCutStatus 8 8 = 0))
      let stays := fun (t : State) => t.tripped = s.tripped ∧ t.selfRefresh = s.selfRefresh ∧ t.ports = s.ports ∧ t.reg Reg.grdTrips = s.reg Reg.grdTrips
      (¬ on ∨ early → exec (.guardSample a b) s = .next s) ∧
      (on → ¬ early → ∃ t, exec (.guardSample a b) s = .next t ∧ frame t [Reg.grdStatus, Reg.mgdCutStatus] ∧ t.mem = s.mem ∧ t.cores = s.cores ∧
        t.guard.sampled = some s.now ∧ bit t Reg.grdStatus 25 = a ∧ bit t Reg.grdStatus 24 = !b ∧
        (differ → t.guard.run = run + 1 ∧ t.guard.safeRun = 0 ∧ t.guard.safe = s.guard.safe ∧ t.regFld Reg.grdStatus 0 10 = Nat.min (run + 1) 1023 ∧
          (disc ≤ run + 1 → bit s Reg.grdStatus 29 = false → bit t Reg.grdStatus 29 = true ∧ trips t) ∧
          (run + 1 < disc ∨ bit s Reg.grdStatus 29 = true → stays t)) ∧
        (¬ differ → t.guard.run = 0 ∧ t.guard.safe = a ∧ t.regFld Reg.grdStatus 0 10 = 0 ∧
          t.reg Reg.grdDisagree = s.reg Reg.grdDisagree + (if 0 < run ∧ run < disc then 1 else 0) ∧
          (a = true → t.guard.safeRun = Nat.min 1000 (s.guard.safeRun + 1) ∧
            (let auto := 999 ≤ s.guard.safeRun ∧ s.tripped = true ∧ bit s Reg.grdCfg 16 = true ∧ bit s Reg.grdStatus 30 = true ∧
              bit s Reg.grdStatus 29 = false;
              (auto → t.tripped = false ∧ t.selfRefresh = false ∧ t.regFld Reg.grdStatus 29 3 = 0) ∧ (¬ auto → stays t))) ∧
          (a = false → t.guard.safeRun = 0 ∧ bit t Reg.grdStatus 30 = true ∧ trips t)))) ∧
    -- the end of a trip (R398)
    (s.stopped = true ∨ s.start.stage = 0 ∨ v.getLsbD 0 = false → exec (.guardClear v) s = .next s) ∧
    (s.stopped = false → 1 ≤ s.start.stage → v.getLsbD 0 = true →
      (s.guard.safeRun < 1000 → ∃ t, exec (.guardClear v) s = .next t ∧ t = { s with eff := t.eff } ∧ frame t [Reg.grdClear] ∧
        t.regFld Reg.grdClear 16 16 = Nat.min 65535 (s.regFld Reg.grdClear 16 16 + 1)) ∧
      (1000 ≤ s.guard.safeRun → ∃ t, exec (.guardClear v) s = .next t ∧ t.tripped = false ∧ t.regFld Reg.grdStatus 29 3 = 0 ∧
        frame t [Reg.grdStatus] ∧ t.mem = s.mem ∧ t.cores = s.cores ∧
        (s.tripped = true → t.selfRefresh = false ∧
          (s.start.released ≠ none → ∀ k, k < 8 → s.portEnabled k = true → (t.port k).state = .training ∧ (t.port k).retrain = true)) ∧
        (s.tripped = false → t = { s with eff := t.eff })))

/-! ### Heather, debug -/

/-- R386, R403, R409, R410: a request Heather hears waits in order of arrival, a fifth outstanding on a transport is dropped; control and
SPDM requests at the front are answered, by kind, each once the negotiation has come as far as it needs. The premise on what waits behind
says that no request of that kind is answered with it. -/
def Obligations.EndpointRequests : Prop :=
  ∀ (tr : Transport) (m : MctpMsg) (ws : List (Transport × MctpMsg)) (s : State), (∀ y, ws.head? = some y → s.plainReply y.2 = none) →
    let answers := fun (i : Instr) (u : State) (r : MctpReply) =>
      exec i s = .next (({ u with heather := { u.heather with waiting := ws } } : State).send (.mctp tr r))
    let ready := 1 ≤ s.start.stage
    let h := s.heather
    -- arrival (R386, R410)
    (let heard := s.hears tr = true ∧ (∀ x, m ≠ .otherType x) ∧
        (h.waiting.filter (fun x => decide (x.1 = .smbus) == decide (tr = .smbus))).length < 4;
      (¬ heard → exec (.mctpRequest tr m) s = .next s) ∧
      (heard → h.waiting = ws → ws ≠ [] →
        exec (.mctpRequest tr m) s = .next { s with heather := { h with waiting := ws ++ [(tr, m)] } }) ∧
      (heard → h.waiting = [] → s.plainReply m = none → exec (.mctpRequest tr m) s = .next { s with heather := { h with waiting := [(tr, m)] } }) ∧
      (∀ c, heard → h.waiting = [] → m = .control c → exec (.mctpRequest tr m) s = .next (s.send (.mctp tr (.control c 0 []))))) ∧
    -- the front (R409, R410)
    (h.waiting = (tr, m) :: ws →
      let spdm := fun (i : Instr) (need : Nat) (u : Heather) (r : MctpReply) =>
        (¬ ready → answers i s .notReady) ∧ (ready → h.spdm < need → answers i s (.spdmError 0x04)) ∧
        (ready → need ≤ h.spdm → answers i { s with heather := u } r)
      let chain := s.certChain
      (∀ e, m = .setEndpointId e →
        (e = 0 ∨ e = 0xFF → answers .setEndpointId s (.control 0x01 0x02 [])) ∧
        (e ≠ 0 → e ≠ 0xFF → ∃ u, answers .setEndpointId u (.control 0x01 0x00 [e]) ∧ u = { s with eff := u.eff } ∧
          KeepsRegs [Reg.htrStatus] s u ∧ u.regFld Reg.htrStatus 16 8 = e.toNat)) ∧
      (m = .getVersion → spdm .getVersion 0 { h with spdm := 1, spdmVersion := 0 } (.versions [0x12, 0x13])) ∧
      (∀ v, m = .getCapabilities v →
        (v = 0x12 ∨ v = 0x13 → spdm .getCapabilities 1 { h with spdm := 2, spdmVersion := v } (.capabilities v)) ∧
        (v ≠ 0x12 → v ≠ 0x13 → spdm .getCapabilities 1 h (.spdmError 0x01))) ∧
      (∀ offered, m = .negotiateAlgorithms offered →
        spdm .negotiateAlgorithms 2 (if offered then { h with spdm := 3 } else h) (if offered then .algorithms else .spdmError 0x01)) ∧
      (m = .getDigests → spdm .getDigests 3 h (.digests (Config.sha384 chain))) ∧
      (∀ slot off len, m = .getCertificate slot off len →
        let part := bytesAt chain off.toNat len.toNat
        (slot = 0 → off.toNat < chain.length → spdm .getCertificate 3 h (.certificate part (chain.length - off.toNat - part.length))) ∧
        (slot ≠ 0 ∨ chain.length ≤ off.toNat → spdm .getCertificate 3 h (.spdmError 0x01))) ∧
      (∀ slot nonce, m = .challenge slot nonce →
        let d := Config.sha384 chain
        (slot = 0 → spdm .challenge 3 h (.challengeAuth d (Config.aliasSignature (s.runDigest 0) (toLE 48 d.toNat ++ toLE 32 nonce.toNat)))) ∧
        (slot ≠ 0 → spdm .challenge 3 h (.spdmError 0x01))) ∧
      (∀ index signed nonce, m = .getMeasurements index signed nonce →
        let sig := fun (bs : List Byte) => if signed then Config.aliasSignature (s.runDigest 0) (bs ++ toLE 32 nonce.toNat) else []
        (index = 0 → spdm .getMeasurements 3 h (.measurements 7 [] (sig []))) ∧
        (8 ≤ index.toNat → index ≠ 0xFF → spdm .getMeasurements 3 h (.spdmError 0x01)) ∧
        (index ≠ 0 → index.toNat < 8 →
          (s.measurement index.toNat = none → spdm .getMeasurements 3 h (.spdmError 0x42)) ∧
          ∀ bs, s.measurement index.toNat = some bs → spdm .getMeasurements 3 h (.measurements 7 [(index.toNat, bs)] (sig bs)))))

/-- R386, R402–R404, R408, R411, R412: sensors are read, the power limit is staged and a trip cleared through Heather; a firmware update writes the inactive bank,
verifies it and chooses it for the next start; provisioning burns a fuse once; COMMIT raises MIN_SVN; LOCK of SEC_POLICY stays set. -/
def Obligations.SensorsUpdatesAndSecurity : Prop :=
  ∀ (tr : Transport) (m : MctpMsg) (ws : List (Transport × MctpMsg)) (v : BitVec 32) (s : State),
    (∀ y, ws.head? = some y → s.plainReply y.2 = none) →
    let h := s.heather
    let ready := 1 ≤ s.start.stage
    let answers := fun (i : Instr) (u : State) (r : MctpReply) =>
      exec i s = .next (({ u with heather := { u.heather with waiting := ws } } : State).send (.mctp tr r))
    (h.waiting = (tr, m) :: ws →
      let pldm := fun (i : Instr) (u : State) (r : MctpReply) => (¬ ready → answers i s .notReady) ∧ (ready → answers i u r)
      let upd := fun (i : Instr) (u : State) (r : MctpReply) =>
        (s.updateOpen tr = false → answers i s .notReady) ∧ (s.updateOpen tr = true → answers i u r)
      let unsupported := fun (i : Instr) => s.updateOpen tr = true → ∃ st : Byte, 0xE0 ≤ st.toNat ∧ st.toNat ≤ 0xE6 ∧
        answers i { s with free := s.free + 1 } (.unsupported st)
      -- sensors and effecters (R411)
      (∀ id, m = .getSensorReading id →
        (id = 1 → pldm .getSensorReading s (.reading (s.regFld Reg.pwrStatus 53 11))) ∧
        (∀ d, d < 4 → id.toNat = 3 + d → pldm .getSensorReading s (.reading (s.regFld (Reg.hubOppoint d) 12 8))) ∧
        (id = 12 → pldm .getSensorReading s (.reading s.start.stage)) ∧
        (id = 0 ∨ 14 ≤ id.toNat → pldm .getSensorReading s (.failed 0xE5))) ∧
      (∀ id x, m = .setNumericEffecterValue id x →
        let i : Instr := .setNumericEffecterValue
        let raise := s.regFld Reg.pwrLimit 0 11 < x.toNat
        (id ≠ 1 → pldm i s (.failed 0xE5)) ∧
        (id = 1 → x.toNat < 900 ∨ 1600 < x.toNat → pldm i s (.failed 0xD1)) ∧
        (id = 1 → 900 ≤ x.toNat → x.toNat ≤ 1600 →
          (s.guardActive = true → raise → pldm i s (.failed 0xD2)) ∧
          (s.guardActive = false ∨ ¬ raise → ∃ u, pldm i u .done ∧ u = { s with stg := u.stg } ∧
            (∀ a, a ≠ Reg.pwrLimit → u.staged a = s.staged a) ∧ fld (u.staged Reg.pwrLimit) 0 11 = x.toNat ∧
            (u.staged Reg.pwrLimit) >>> 11 = (s.staged Reg.pwrLimit) >>> 11))) ∧
      (∀ id, m = .setStateEffecterStates id →
        let i : Instr := .setStateEffecterStates
        (id ≠ 2 → pldm i s (.failed 0xE5)) ∧
        (id = 2 → s.guard.safeRun < 1000 → pldm i s (.failed 0xD2)) ∧
        (id = 2 → 1000 ≤ s.guard.safeRun → ∃ u, pldm i u .done ∧ u.tripped = false ∧ u.regFld Reg.grdStatus 29 3 = 0 ∧
          KeepsRegs [Reg.grdStatus] s u ∧ u.heather = h ∧ u.mem = s.mem)) ∧
      -- firmware update and provisioning (R402, R403, R412)
      (∀ c, m = .requestUpdate c →
        let i : Instr := .requestUpdate
        (¬ ready → c ≠ 1 → upd i s .notReady) ∧
        (h.update ≠ none → ready ∨ c = 1 → upd i s (.failed 0xE4)) ∧
        (h.update = none → ready → c.toNat < 1 ∨ 4 < c.toNat → unsupported i) ∧
        (h.update = none → 1 ≤ c.toNat → c.toNat ≤ 4 → ready ∨ c = 1 → ∃ u, upd i u .done ∧ KeepsRegs [Reg.htrStatus] s u ∧
          u = { s with eff := u.eff, heather := { h with update := some { component := c.toNat - 1, bytes := [], verified := false } } } ∧
          bitAt (u.reg Reg.htrStatus) 30 = true)) ∧
      (∀ bs, m = .firmwareData bs →
        (h.update = none → unsupported .firmwareData) ∧
        (∀ x, h.update = some x → ∃ u, upd .firmwareData u .done ∧ KeepsRegs [Reg.htrStatus] s u ∧
          u.heather = { h with update := some { x with bytes := x.bytes ++ bs, verified := false } } ∧
          u.sec = { s.sec with banks := u.sec.banks } ∧ u.sec.bank x.component (1 - s.runBank x.component) = .written (x.bytes ++ bs) ∧
          ∀ c b, b < 2 → ¬ (c = x.component ∧ b = 1 - s.runBank c) → u.sec.bank c b = s.sec.bank c b)) ∧
      (m = .verifyComplete →
        (h.update = none → unsupported .verifyComplete) ∧
        (∀ x, h.update = some x →
          (s.sec.componentCheck x.component x.bytes = none → ∃ u, upd .verifyComplete u .done ∧ u.sec = s.sec ∧
            u.heather = { h with update := some { x with verified := true } }) ∧
          ∀ e, s.sec.componentCheck x.component x.bytes = some e → ∃ u, upd .verifyComplete u (.failed e) ∧ u.sec = s.sec ∧
            u.heather = { h with update := none } ∧ u.regFld Reg.secStatus 16 8 = e.toNat ∧ u.regFld Reg.secStatus 8 8 = (x.component + 1) % 256 ∧
            bitAt (u.reg Reg.htrStatus) 30 = false)) ∧
      (m = .activateFirmware →
        (h.update = none → unsupported .activateFirmware) ∧
        (∀ x, h.update = some x → x.verified = false → unsupported .activateFirmware) ∧
        (∀ x, h.update = some x → x.verified = true → x.component < 4 → ∃ u, upd .activateFirmware u .done ∧
          u.heather = { h with update := none } ∧ u.sec = { s.sec with chosen := u.sec.chosen } ∧
          ∀ k, k < 4 → bitAt u.sec.chosen k = if k = x.component then decide (s.runBank k = 0) else bitAt s.sec.chosen k)) ∧
      (∀ k d, m = .provisioning (.ownerHash k d) →
        (bitAt s.sec.ownerFused k.toNat = true → pldm .provisioning s (.failed 0xE3)) ∧
        (bitAt s.sec.ownerFused k.toNat = false → ∃ u, pldm .provisioning u .done ∧ u = { s with sec := u.sec } ∧
          bitAt u.sec.ownerFused k.toNat = true ∧ SMap.find u.sec.ownerHash k.toNat = some d)) ∧
      (∀ k, m = .provisioning (.vendorRevoked k) →
        (bitAt s.sec.vendorRevoked k.toNat = true → pldm .provisioning s (.failed 0xE3)) ∧
        (bitAt s.sec.vendorRevoked k.toNat = false → ∃ u, pldm .provisioning u .done ∧ u = { s with sec := u.sec } ∧
          bitAt u.sec.vendorRevoked k.toNat = true))) ∧
    -- SEC_SVN_COMMIT and the lock of SEC_POLICY (R404, R408)
    (s.stopped = true ∨ s.start.stage = 0 ∨ v.extractLsb' 16 16 ≠ 0x5A3C → exec (.secSvnCommit v) s = .next s) ∧
    (s.stopped = false → 1 ≤ s.start.stage → v.extractLsb' 16 16 = 0x5A3C → ∃ t, exec (.secSvnCommit v) s = .next t ∧
      t = { s with sec := { s.sec with minSvn := t.sec.minSvn } } ∧
      ∀ c, c < 4 → fld t.sec.minSvn (8 * c) 8 =
        if v.getLsbD c = true then Nat.max (fld s.sec.minSvn (8 * c) 8) (fld s.sec.runSvn (8 * c) 8) else fld s.sec.minSvn (8 * c) 8) ∧
    (v.getLsbD 31 = false → exec (.policyLock v) s = .next s) ∧
    (v.getLsbD 31 = true → s.stopped = false → 2 ≤ s.start.stage → ∃ t, exec (.policyLock v) s = .next t ∧
      t = { s with eff := t.eff, stg := t.stg } ∧ KeepsRegs [Reg.secPolicy] s t ∧ t.reg Reg.secPolicy = s.reg Reg.secPolicy ||| 0x80000000)

/-- R134, R416, R418–R422: a hold shows the counters as they were; a record goes to its buffer, is lost to a full one or to the rate, and
may fire the armed trigger; a mark becomes a record. R40, R250, R251: after two misses in a row a line is filled ahead, or, of a peer's
memory, asked for. -/
def Obligations.HoldTracesAndPrefetch : Prop :=
  ∀ (v : BitVec 32) (w : Word) (core : CoreId) (k : BitVec 3) (lost : Bool) (s : State),
    let writes := 1 ≤ s.start.stage ∧ s.stopped = false
    let bit := fun (t : State) (r i : Nat) => bitAt (t.reg r) i
    let written := fun (t : State) (b : Nat) => t.regFld (Reg.dbgTraceStatus b) 0 48
    let size := fun (b : Nat) => s.regFld (Reg.dbgTraceCfg b) 32 16 * mib
    let place := fun (b : Nat) => s.regFld (Reg.dbgTraceBase b) 12 36 * 4096 + written s b % size b
    let takes := fun (b n : Nat) => bit s (Reg.dbgTraceCfg b) 63 = true ∧ bit s (Reg.dbgTraceStatus b) 62 = false ∧
      (bit s (Reg.dbgTraceCfg b) 62 = true ∨ written s b + n ≤ size b) ∧ regionOf (place b) = .hbm
    let puts := fun (t : State) (b : Nat) (bs : List Byte) (rest : List TraceRec) => t.trace = rest ∧ written t b = (written s b + bs.length) % 2 ^ 48 ∧
      (∀ a, t.byte a = if place b ≤ a ∧ a < place b + bs.length then bs.getD (a - place b) 0 else s.byte a) ∧ t.cores = s.cores ∧
      t.stopped = s.stopped ∧ t.press = s.press
    -- the hold (R416)
    (¬ writes → exec (.holdSet v) s = .next s ∧ exec (.holdClear v) s = .next s ∧ exec (.mark w) s = .next s) ∧
    (v.getLsbD 0 = false → exec (.holdSet v) s = .next s) ∧ (v.getLsbD 0 = true → exec (.holdClear v) s = .next s) ∧
    (writes → v.getLsbD 0 = true → ∃ t, exec (.holdSet v) s = .next t ∧ t = { s with eff := t.eff, hold := t.hold } ∧
      KeepsRegs [Reg.dbgCtrl, Reg.dbgSnapTime] s t ∧ t.reg Reg.dbgSnapTime = s.now ∧ bit t Reg.dbgCtrl 0 = true ∧
      ∀ a r, regAt a = some r → r.desc.wrap ≠ none → isApply a = false → ∀ u : State, u.hold = t.hold → u.readReg a = s.reg a) ∧
    (writes → v.getLsbD 0 = false → ∃ t, exec (.holdClear v) s = .next t ∧ t = { s with eff := t.eff, hold := none } ∧
      KeepsRegs [Reg.dbgCtrl] s t ∧ bit t Reg.dbgCtrl 0 = false) ∧
    -- traces (R418–R422)
    (s.trace = [] → exec (.traceRecord lost) s = .next s) ∧
    (∀ kind pc n time rest, s.trace = .addr kind pc n time :: rest →
      (∃ t, exec (.traceRecord true) s = .next t ∧ t = { s with eff := t.eff, trace := rest } ∧ KeepsRegs [Reg.dbgTraceLost 0] s t ∧
        t.regFld (Reg.dbgTraceLost 0) 0 32 = Nat.min (2 ^ 32 - 1) (s.regFld (Reg.dbgTraceLost 0) 0 32 + 1)) ∧
      (∀ last, takes 0 8 → written s 0 % mib ≠ 0 → s.traceTime = some last → fld last 40 22 = fld time 40 22 →
        ∃ t, exec (.traceRecord false) s = .next t ∧
          puts t 0 (toLE 8 (kind.toNat + pc.toNat / 4 * 4 + n.toNat * 2 ^ 18 + time.toNat % 2 ^ 40 * 2 ^ 24)) rest)) ∧
    (∀ time unit event status job tag a0 a1 rest, s.trace = .tagged true time unit event status job tag a0 a1 :: rest →
      let g := s.reg Reg.dbgTrigger
      let fires := bitAt g 63 = true ∧ fld g 16 8 = event.toNat ∧ (bitAt g 59 = true ∨ fld g 24 16 = unit.toNat) ∧
        (bitAt g 58 = true ∨ fld g 8 8 = status.toNat)
      let bs := toLE 8 time.toNat ++ toLE 2 unit.toNat ++ [event, status] ++ toLE 2 job.toNat ++ toLE 2 tag.toNat ++ toLE 8 a0.toNat ++ toLE 8 a1.toNat
      (takes 1 32 → ¬ fires → s.tracePost = none → ∃ t, exec (.traceRecord false) s = .next t ∧ puts t 1 bs rest) ∧
      (¬ fires → s.tracePost = none → bit s (Reg.dbgTraceCfg 1) 63 = true → bit s (Reg.dbgTraceStatus 1) 62 = false →
        bit s (Reg.dbgTraceCfg 1) 62 = false → size 1 < written s 1 + 32 → ∃ t, exec (.traceRecord false) s = .next t ∧ t.trace = rest ∧ t.mem = s.mem ∧
          bit t (Reg.dbgTraceStatus 1) 63 = true ∧ t.regFld (Reg.dbgTraceLost 1) 0 32 = Nat.min (2 ^ 32 - 1) (s.regFld (Reg.dbgTraceLost 1) 0 32 + 1)) ∧
      (takes 1 32 → fires → fld g 45 13 = 0 → fld g 60 2 = 0 → ∃ t, exec (.traceRecord false) s = .next t ∧ puts t 1 bs rest ∧
        bit t Reg.dbgTrigger 62 = true ∧ bit t Reg.dbgTrigger 63 = false ∧ bit t (Reg.dbgTraceStatus 0) 62 = true ∧
        bit t (Reg.dbgTraceStatus 1) 62 = true) ∧
      (takes 1 32 → fires → fld g 45 13 ≠ 0 → ∃ t, exec (.traceRecord false) s = .next t ∧ puts t 1 bs rest ∧
        t.tracePost = some (fld g 45 13) ∧ bit t Reg.dbgTrigger 62 = true ∧ bit t Reg.dbgTrigger 63 = false)) ∧
    (writes →
      let wanted := bit s (Reg.dbgTraceCfg 1) 63 && bit s (Reg.dbgTraceCfg 1) 7
      ((wanted || bit s Reg.dbgTrigger 63) = true →
        exec (.mark w) s = .next { s with trace := s.trace ++ [.tagged wanted s.now 0xF000 0x08 0 0 0 w 0] }) ∧
      ((wanted || bit s Reg.dbgTrigger 63) = false → exec (.mark w) s = .next s)) ∧
    -- the stream cache's prefetcher (R250, R251)
    (∀ a b, (s.core core).lastMiss = [a, b] →
      let line := if a = b + 1 then a + (k.toNat + 1) else a - (k.toNat + 1)
      let may := (a = b + 1 ∨ b = a + 1) ∧ line / 16 = a / 16 ∧ (a = b + 1 ∨ k.toNat + 1 ≤ a) ∧ s.specOff 1 = false ∧ s.stopped = false ∧
        s.fatal = false ∧ s.scacheMib (dieOfCore core) ≠ 0 ∧ s.streamHit core (s.home (256 * line)) = false
      let filled := fun (t : State) (at_ : Nat) => (∃ l ∈ t.ahead, l.line = at_ ∧ l.group = s.groupOfCore core ∧ l.die = dieOfCore core ∧
        l.used = false ∧ l.node = false) ∧ t.cores = s.cores
      (¬ may → exec (.streamPrefetch core k) s = .next s) ∧
      (may → regionOf (256 * line) = .hbm ∨ regionOf (256 * line) = .flash → ∃ t, exec (.streamPrefetch core k) s = .next t ∧
        filled t line ∧ (regionOf (256 * line) = .hbm → t = { s with eff := t.eff, ahead := t.ahead } ∧ KeepsButCounters s t)) ∧
      (may → regionOf (256 * line) = .pool →
        (∀ pa, s.poolTarget (256 * line) false = .ok (.here pa) → ∃ t, exec (.streamPrefetch core k) s = .next t ∧ filled t (pa / 256) ∧
          t = { s with eff := t.eff, ahead := t.ahead } ∧ KeepsButCounters s t) ∧
        (∀ m slot key off, s.poolTarget (256 * line) false = .ok (.there m slot key off) → s.reqs = [] →
          let msg : Msg := { dst := BitVec.ofNat 16 m, src := BitVec.ofNat 16 s.moduleId, typ := 0x01, cls := 2, vc := false, ttl := 128
                             poison := false, tag := s.nextTag, payload := addressWord slot key off ++ toLE 2 256 }
          ∀ u, s.sendRouted msg none = .ok u → ∃ r, r.kind = .fill ∧ r.pa = 256 * line ∧ r.n = 256 ∧
            exec (.streamPrefetch core k) s =
              .next { u with reqs := SMap.insert u.reqs s.nextTag.toNat r, nextTag := s.nextTag + 1 })))

/-- R62, R423–R428: a pressing runs until its records are in its area; a watchdog that fires is logged and acts by ACTION; a core stopped at
BRK goes on, or issues one instruction more, when the host says so, and faults where its BRK was the last word of instruction memory. -/
def Obligations.PressingsWatchdogsBreakpoints : Prop :=
  ∀ (v : BitVec 32) (mask : Word) (p g : BitVec 4) (core : CoreId) (unreadable : List (BitVec 16)) (s : State),
    let writes := 1 ≤ s.start.stage ∧ s.stopped = false
    let status := fun (t : State) => (t.regFld Reg.dbgPressStatus 30 2, t.regFld Reg.dbgPressStatus 27 3, t.regFld Reg.dbgPressStatus 0 24)
    -- pressings (R424, R425)
    (¬ (writes ∧ v.getLsbD 0 = true ∧ s.press = none ∧ s.regFld Reg.dbgPressCfg 0 8 ≠ 0) → exec (.press v) s = .next s) ∧
    (writes → v.getLsbD 0 = true → s.press = none → s.regFld Reg.dbgPressCfg 0 8 ≠ 0 →
      ∃ t, exec (.press v) s = .next t ∧ KeepsRegs [Reg.dbgPressStatus] s t ∧ status t = (1, 1, 0) ∧
        t = { s with eff := t.eff, press := some { cause := 1, group := 16, job := 0, began := s.now, hung := 0, follow := 0 } }) ∧
    (s.press = none → exec (.pressingDone unreadable) s = .next s) ∧
    (∀ x, s.press = some x → x.follow = 0 →
      let area := s.regFld Reg.dbgPressCfg 20 28 * mib
      let room := s.regFld Reg.dbgPressCfg 0 8 * mib
      ∃ t, exec (.pressingDone unreadable) s = .next t ∧ t.press = none ∧ ((status t).1 = 2 ∨ (status t).1 = 3) ∧ (status t).2.1 = (status s).2.1 ∧
        (∀ a, ¬ CounterReg a → a ≠ Reg.dbgPressStatus → t.reg a = s.reg a) ∧
        t = { s with eff := t.eff, mem := t.mem, owner := t.owner, poison := t.poison, ahead := t.ahead, press := none } ∧
        (room ≠ 0 → (∀ a, area ≤ a → a < area + room → regionOf a = .hbm) →
          (∀ i, i < 4 → t.byte (area + i) = [0x52, 0x50, 0x57, 0x4A].getD i 0) ∧ t.byte (area + 6) = BitVec.ofNat 8 x.cause ∧
          ∀ a, a < area ∨ area + room ≤ a → t.byte a = s.byte a)) ∧
    -- watchdogs (R423)
    (¬ writes ∨ v.getLsbD 0 = false → exec (.watchdogKick p v) s = .next s) ∧
    (writes → v.getLsbD 0 = true → exec (.watchdogKick p v) s = .next { s with wdog := SMap.erase s.wdog p.toNat }) ∧
    (∀ j, s.runningJob g.toNat = some j →
      let cfg := s.reg (Reg.dbgWdog g.toNat)
      let ms := fld cfg 0 16
      let late := s.watching g.toNat = true ∧ ms * 1000000 ≤ SMap.get 0 s.wdog g.toNat
      (¬ late → exec (.watchdogFire g) s = .next s) ∧
      (late → ∃ t, exec (.watchdogFire g) s = .next t ∧ LastLogged t 0x05 2 (0x2000 + (j.placed.map BitVec.toNat).foldl Nat.min 63) ∧
        (fld cfg 29 2 = 0 → t.press = s.press ∧ t.stopped = s.stopped ∧ KeepsButLog s t ∧ t.wdog = SMap.erase s.wdog g.toNat) ∧
        (fld cfg 29 2 ≠ 0 → s.press = none → s.regFld Reg.dbgPressCfg 0 8 ≠ 0 →
          t.press = some { cause := 2, group := g.toNat, job := j.id, began := s.now, hung := 0
                           follow := if fld cfg 29 2 = 3 then 0 else fld cfg 29 2 } ∧ t.mem = s.mem) ∧
        (fld cfg 29 2 = 2 → s.press ≠ none ∨ s.regFld Reg.dbgPressCfg 0 8 = 0 → t.stopped = true))) ∧
    -- breakpoint mode (R426–R428)
    (let k := s.core core;
      let drained := ∀ d ∈ s.cmds, d.core = core → d.job ≠ k.job;
      (k.brkDrain = false ∨ ¬ drained → exec (.brkDrainDone core) s = .next s) ∧
      (k.brkDrain = true → drained → ∃ t, exec (.brkDrainDone core) s = .next t ∧ t = { s with cores := t.cores } ∧ KeepsCores core s t ∧
        t.core core = { k with brkDrain := false, brkStop := true })) ∧
    (¬ writes → exec (.brkResume mask) s = .next s ∧ exec (.brkStep mask) s = .next s) ∧
    -- a core whose BRK stood in the last word of its memory faults as it goes on (R62)
    (let goesOn := fun (t : State) => t = { s with eff := t.eff, cores := t.cores, stem := t.stem, held := t.held, trace := t.trace } ∧
        KeepsButCounters s t ∧ ((∀ n, (s.core n).past = false) → t = { s with cores := t.cores })
      let fetched := fun (c : Core) => if c.past then { c with
        past := false, brkStep := false, state := .faulted, faultCode := 0x2A, faultAddr := 0, blocked := none, runAhead := none } else c
      (writes → ∃ t, exec (.brkResume mask) s = .next t ∧ goesOn t ∧ ∀ n : CoreId,
        t.core n = if mask.getLsbD n.toNat = true ∧ ((s.core n).brkStop = true ∨ (s.core n).brkDrain = true) then
          fetched { s.core n with brkStop := false, brkDrain := false, brkStep := false } else s.core n) ∧
      (writes → ∃ t, exec (.brkStep mask) s = .next t ∧ goesOn t ∧ ∀ n : CoreId,
        t.core n = if mask.getLsbD n.toNat = true ∧ (s.core n).brkStop = true then
          fetched { s.core n with brkStop := false, brkStep := true } else s.core n))

/-! ### The machine as a whole -/

/-- The queue and the idle block (the model's rule, logs 1 and 10): a step runs the command at the front on the state with the queue's
rest; on an empty queue 1 ns of device time passes, unless the module is off or the ns is one that a slowed clock (R332) leaves out. -/
def Obligations.StepRunsTheFront : Prop :=
  ∀ (c : Instr) (rest : List Instr) (s : State),
    (s.pending = c :: rest → step s = exec c { s with pending := rest }) ∧
    (s.pending = [] → s.start.off = true → step s = .next s) ∧
    (s.pending = [] → s.start.off = false → ∃ t, step s = .next t ∧ t.pending = [] ∧
      t = { s with now := t.now, eff := t.eff, align := t.align, power := t.power, wdog := t.wdog } ∧ KeepsButCounters s t ∧
      t.now = (if 0 < s.align.slowNs ∧ s.align.slowPhase = 999 then s.now else s.now + 1) ∧ (t.now = s.now → t.wdog = s.wdog) ∧
      (s.align.slowNs = 0 → t.align = s.align))

/-- R9, R16, R51, R80, R300, R378: right after a cold start device time and every register stand at their reset values, no core runs, no
job, no command and no word waits. -/
def Obligations.ResetValues : Prop :=
  let s := State.reset
  (∀ a v, (a, v) ∈ [(Reg.hubId, 0x4A960000), (Reg.hubPeonyMap, 0), (Reg.hubPgroup, 0), (Reg.hubSpecDisable, 0), (Reg.clmCacheCtrl, 0x100),
      (Reg.hlyRdLimits, 0x61A80000186A0), (Reg.fjlTimeouts, 0x640032), (Reg.mgdCfg, 0x23C18), (Reg.mgdStatus, 0), (Reg.pwrLimit, 0x3200578),
      (Reg.pwrValveCfg, 0x4B64140C), (Reg.grdCfg, 0xC8), (Reg.secPolicy, 0)] → s.reg a = v) ∧
  (∀ i, i < 16 → s.reg (Reg.stmPartQuota i) = 0x4000 ∧ s.reg (Reg.dbgWdog i) = 0x3E8 ∧ s.reg (Reg.dbgBrkCfg i) = 0x60000000 ∧
    s.reg (Reg.mgdGrpRentry i) = 0) ∧
  (∀ i, i < 4096 → s.reg (Reg.stmQcfg i) = 0 ∧ s.queue i = StemQ.empty) ∧
  (∀ f, f ≤ 257 → s.reg (Reg.pciIfVersion f) = 0x1000000) ∧
  s.pending = [] ∧ s.now = 0 ∧ s.start.stage = 0 ∧ s.jobs = [] ∧ s.cmds = [] ∧ s.fxg = [] ∧ s.stg = [] ∧ s.stopped = false ∧ s.tripped = false ∧
  s.fatal = false ∧ ∀ n, (s.core n).state = .idle ∧ (∀ k, (s.core n).slot k = Slot.free) ∧ (s.core n).failModule = 0

/-- At reset the memory is in its canonical form (the model's invariant). -/
def Obligations.ResetIsSound : Prop :=  State.reset.sound = true

/-- Every step keeps the memory in its canonical form: addresses strictly rising, no byte listed that an unlisted one reads as. -/
def Obligations.StepKeepsMemorySound : Prop :=  ∀ s t : State, s.sound = true → step s = .next t → t.sound = true

/-- R402, R404: whatever command runs, a programmed owner key hash stays as it is, a revocation stays, and MIN_SVN of no component falls.
-/
def Obligations.FusesOnlyBurn : Prop :=
  ∀ s t : State, step s = .next t →
    t.sec.vendorHash = s.sec.vendorHash ∧
    (∀ k, bitAt s.sec.vendorRevoked k = true → bitAt t.sec.vendorRevoked k = true) ∧
    (∀ k, bitAt s.sec.ownerRevoked k = true → bitAt t.sec.ownerRevoked k = true) ∧
    (∀ k, bitAt s.sec.ownerFused k = true →
      bitAt t.sec.ownerFused k = true ∧ SMap.find t.sec.ownerHash k = SMap.find s.sec.ownerHash k) ∧
    ∀ c, c < 4 → fld s.sec.minSvn (8 * c) 8 ≤ fld t.sec.minSvn (8 * c) 8
end

