-- ==== Sys2Proof/Laws/Maps.lean ====
section
/-!
SUPPORT. Sparse maps: what a key holds after a write, an erasure, an insertion; their canonical form and what keeps it.
-/

namespace Sys2Proof.Machine

variable {α : Type}

@[simp] theorem SMap.get_nil (d : α) (k : Nat) : SMap.get d [] k = d := rfl
@[simp] theorem SMap.find_nil (k : Nat) : SMap.find ([] : SMap α) k = none := rfl

theorem SMap.find_erase (m : SMap α) (k j : Nat) : SMap.find (SMap.erase m k) j = if j = k then none else SMap.find m j := by
  induction m with
  | nil => simp [SMap.erase, SMap.find]
  | cons e m ih =>
    obtain ⟨a, v⟩ := e
    by_cases h : a = k
    · subst h
      by_cases hj : j = a
      · subst hj; simp [SMap.erase, ih]
      · simp [SMap.erase, SMap.find, ih, hj, Ne.symm hj]
    · by_cases hj : a = j
      · subst hj; simp [SMap.erase, SMap.find, h]
      · simp [SMap.erase, SMap.find, h, hj, ih]

theorem SMap.find_insert (m : SMap α) (k j : Nat) (v : α) :
    SMap.find (SMap.insert m k v) j = if j = k then some v else SMap.find m j := by
  induction m with
  | nil => by_cases h : j = k <;> simp [SMap.insert, SMap.find, h, Ne.symm]
  | cons e m ih =>
    obtain ⟨a, w⟩ := e
    by_cases h1 : k < a
    · by_cases h : j = k
      · simp [SMap.insert, SMap.find, h1, h]
      · simp [SMap.insert, SMap.find, h1, h, Ne.symm h]
    · by_cases h2 : a = k
      · subst h2
        by_cases h : j = a
        · simp [SMap.insert, SMap.find, h]
        · simp [SMap.insert, SMap.find, h, Ne.symm h]
      · by_cases h : a = j
        · subst h; simp [SMap.insert, SMap.find, h1, h2]
        · simp [SMap.insert, SMap.find, h1, h2, h, ih]

theorem SMap.get_eq_find (d : α) (m : SMap α) (k : Nat) : SMap.get d m k = (SMap.find m k).getD d := by
  induction m with
  | nil => rfl
  | cons e m ih =>
    obtain ⟨a, v⟩ := e
    by_cases h : a = k <;> simp [SMap.get, SMap.find, h, ih]

/-- Reading key j after v is written at key k. -/
theorem SMap.get_set [DecidableEq α] (d : α) (m : SMap α) (k j : Nat) (v : α) :
    SMap.get d (SMap.set d m k v) j = if j = k then v else SMap.get d m j := by
  by_cases hv : v = d
  · by_cases h : j = k <;> simp [SMap.set, SMap.get_eq_find, SMap.find_erase, hv, h]
  · by_cases h : j = k <;> simp [SMap.set, SMap.get_eq_find, SMap.find_insert, hv, h]

@[simp] theorem SMap.get_set_same [DecidableEq α] (d : α) (m : SMap α) (k : Nat) (v : α) : SMap.get d (SMap.set d m k v) k = v := by
  simp [SMap.get_set]

theorem SMap.get_set_other [DecidableEq α] (d : α) (m : SMap α) {k j : Nat} (v : α) (h : j ≠ k) :
    SMap.get d (SMap.set d m k v) j = SMap.get d m j := by simp [SMap.get_set, h]

/-- The canonical form, said of all entries: keys strictly rising, no entry holding the default. -/
theorem SMap.wf_iff [DecidableEq α] (d : α) (m : SMap α) :
    SMap.wf d m = true ↔ m.Pairwise (fun x y => x.1 < y.1) ∧ ∀ e ∈ m, e.2 ≠ d := by
  induction m with
  | nil => simp [SMap.wf]
  | cons e m ih =>
    cases m with
    | nil => obtain ⟨a, v⟩ := e; simp [SMap.wf]
    | cons e2 m =>
      obtain ⟨a, v⟩ := e
      obtain ⟨b, w⟩ := e2
      have : SMap.wf d ((a, v) :: (b, w) :: m) = (decide (v ≠ d) && decide (a < b) && SMap.wf d ((b, w) :: m)) := rfl
      rw [this, Bool.and_eq_true, Bool.and_eq_true, ih]
      simp only [decide_eq_true_eq, List.pairwise_cons, List.mem_cons, forall_eq_or_imp]
      constructor
      · rintro ⟨⟨hv, hab⟩, ⟨hb, hp⟩, hw, hm⟩
        exact ⟨⟨⟨hab, fun e he => Nat.lt_trans hab (hb e he)⟩, hb, hp⟩, hv, hw, hm⟩
      · rintro ⟨⟨⟨hab, -⟩, hb, hp⟩, hv, hw, hm⟩
        exact ⟨⟨hv, hab⟩, ⟨hb, hp⟩, hw, hm⟩

theorem SMap.erase_eq_filter (m : SMap α) (k : Nat) : SMap.erase m k = m.filter (fun e => decide (e.1 ≠ k)) := by
  induction m with
  | nil => rfl
  | cons e m ih =>
    obtain ⟨a, v⟩ := e
    by_cases h : a = k <;> simp [SMap.erase, h, ih]

/-- Leaving entries out keeps the canonical form. -/
theorem SMap.filter_wf [DecidableEq α] (d : α) (m : SMap α) (p : Nat × α → Bool) (h : SMap.wf d m = true) :
    SMap.wf d (m.filter p) = true := by
  rw [SMap.wf_iff] at h ⊢
  exact ⟨h.1.filter p, fun e he => h.2 e (List.mem_filter.1 he).1⟩

theorem SMap.mem_insert (m : SMap α) (k : Nat) (v : α) (e : Nat × α) (h : e ∈ SMap.insert m k v) : e = (k, v) ∨ e ∈ m := by
  induction m with
  | nil => simpa [SMap.insert] using h
  | cons x m ih =>
    obtain ⟨a, w⟩ := x
    unfold SMap.insert at h
    split at h
    · simpa using h
    · split at h
      · rcases List.mem_cons.1 h with h | h
        · exact .inl h
        · exact .inr (List.mem_cons_of_mem _ h)
      · rcases List.mem_cons.1 h with h | h
        · exact .inr (h ▸ List.mem_cons_self)
        · exact (ih h).imp_right (List.mem_cons_of_mem _)

theorem SMap.insert_sorted (m : SMap α) (k : Nat) (v : α) (h : m.Pairwise (fun x y => x.1 < y.1)) :
    (SMap.insert m k v).Pairwise (fun x y => x.1 < y.1) := by
  induction m with
  | nil => simp [SMap.insert]
  | cons x m ih =>
    obtain ⟨a, w⟩ := x
    have hc := List.pairwise_cons.1 h
    unfold SMap.insert
    split
    · next hk => exact List.pairwise_cons.2 ⟨fun e he => by
        rcases List.mem_cons.1 he with he | he
        · exact he ▸ hk
        · exact Nat.lt_trans hk (hc.1 e he), h⟩
    · split
      · next hk => exact List.pairwise_cons.2 ⟨fun e he => hk ▸ hc.1 e he, hc.2⟩
      · next h1 h2 =>
        refine List.pairwise_cons.2 ⟨fun e he => ?_, ih hc.2⟩
        rcases SMap.mem_insert m k v e he with he | he
        · simp only [he]; omega
        · exact hc.1 e he

/-- A write keeps the canonical form. -/
theorem SMap.set_wf [DecidableEq α] (d : α) (m : SMap α) (k : Nat) (v : α) (h : SMap.wf d m = true) :
    SMap.wf d (SMap.set d m k v) = true := by
  unfold SMap.set
  split
  · rw [SMap.erase_eq_filter]; exact SMap.filter_wf d m _ h
  · next hv =>
    rw [SMap.wf_iff] at h ⊢
    refine ⟨SMap.insert_sorted m k v h.1, fun e he => ?_⟩
    rcases SMap.mem_insert m k v e he with he | he
    · exact he ▸ hv
    · exact h.2 e he

end Sys2Proof.Machine
end

