-- ==== Sys2Proof/Laws/State.lean ====
section
/-!
SUPPORT. The named updates of the state, field by field: what each writes, and that it leaves every other field alone.
-/

namespace Sys2Proof.Machine

variable (s : State)

/-! ### setReg -/

section
variable (a : Nat) (v : Word)
@[simp] theorem State.setReg_eff : (s.setReg a v).eff = SMap.set (resetOf a) s.eff a v := rfl
@[simp] theorem State.setReg_pending : (s.setReg a v).pending = s.pending := rfl
@[simp] theorem State.setReg_out : (s.setReg a v).out = s.out := rfl
@[simp] theorem State.setReg_free : (s.setReg a v).free = s.free := rfl
@[simp] theorem State.setReg_nextCmd : (s.setReg a v).nextCmd = s.nextCmd := rfl
@[simp] theorem State.setReg_now : (s.setReg a v).now = s.now := rfl
@[simp] theorem State.setReg_mem : (s.setReg a v).mem = s.mem := rfl
@[simp] theorem State.setReg_owner : (s.setReg a v).owner = s.owner := rfl
@[simp] theorem State.setReg_poison : (s.setReg a v).poison = s.poison := rfl
@[simp] theorem State.setReg_stg : (s.setReg a v).stg = s.stg := rfl
@[simp] theorem State.setReg_applies : (s.setReg a v).applies = s.applies := rfl
@[simp] theorem State.setReg_cores : (s.setReg a v).cores = s.cores := rfl
@[simp] theorem State.setReg_peony : (s.setReg a v).peony = s.peony := rfl
@[simp] theorem State.setReg_trees : (s.setReg a v).trees = s.trees := rfl
@[simp] theorem State.setReg_walks : (s.setReg a v).walks = s.walks := rfl
@[simp] theorem State.setReg_merges : (s.setReg a v).merges = s.merges := rfl
@[simp] theorem State.setReg_sessions : (s.setReg a v).sessions = s.sessions := rfl
@[simp] theorem State.setReg_rowWork : (s.setReg a v).rowWork = s.rowWork := rfl
@[simp] theorem State.setReg_passages : (s.setReg a v).passages = s.passages := rfl
@[simp] theorem State.setReg_vocab : (s.setReg a v).vocab = s.vocab := rfl
@[simp] theorem State.setReg_grammar : (s.setReg a v).grammar = s.grammar := rfl
@[simp] theorem State.setReg_loadNext : (s.setReg a v).loadNext = s.loadNext := rfl
@[simp] theorem State.setReg_encRest : (s.setReg a v).encRest = s.encRest := rfl
@[simp] theorem State.setReg_cmds : (s.setReg a v).cmds = s.cmds := rfl
@[simp] theorem State.setReg_stem : (s.setReg a v).stem = s.stem := rfl
@[simp] theorem State.setReg_cadence : (s.setReg a v).cadence = s.cadence := rfl
@[simp] theorem State.setReg_fxg : (s.setReg a v).fxg = s.fxg := rfl
@[simp] theorem State.setReg_fxgGen : (s.setReg a v).fxgGen = s.fxgGen := rfl
@[simp] theorem State.setReg_mmuInval : (s.setReg a v).mmuInval = s.mmuInval := rfl
@[simp] theorem State.setReg_jobs : (s.setReg a v).jobs = s.jobs := rfl
@[simp] theorem State.setReg_nextOrder : (s.setReg a v).nextOrder = s.nextOrder := rfl
@[simp] theorem State.setReg_landing : (s.setReg a v).landing = s.landing := rfl
@[simp] theorem State.setReg_flows : (s.setReg a v).flows = s.flows := rfl
@[simp] theorem State.setReg_vtime : (s.setReg a v).vtime = s.vtime := rfl
@[simp] theorem State.setReg_flash : (s.setReg a v).flash = s.flash := rfl
@[simp] theorem State.setReg_erase : (s.setReg a v).erase = s.erase := rfl
@[simp] theorem State.setReg_pf1 : (s.setReg a v).pf1 = s.pf1 := rfl
@[simp] theorem State.setReg_ports : (s.setReg a v).ports = s.ports := rfl
@[simp] theorem State.setReg_reqs : (s.setReg a v).reqs = s.reqs := rfl
@[simp] theorem State.setReg_nextTag : (s.setReg a v).nextTag = s.nextTag := rfl
@[simp] theorem State.setReg_segInval : (s.setReg a v).segInval = s.segInval := rfl
@[simp] theorem State.setReg_align : (s.setReg a v).align = s.align := rfl
@[simp] theorem State.setReg_start : (s.setReg a v).start = s.start := rfl
@[simp] theorem State.setReg_power : (s.setReg a v).power = s.power := rfl
@[simp] theorem State.setReg_guard : (s.setReg a v).guard = s.guard := rfl
@[simp] theorem State.setReg_hbmOff : (s.setReg a v).hbmOff = s.hbmOff := rfl
@[simp] theorem State.setReg_dieOff : (s.setReg a v).dieOff = s.dieOff := rfl
@[simp] theorem State.setReg_tripped : (s.setReg a v).tripped = s.tripped := rfl
@[simp] theorem State.setReg_stopped : (s.setReg a v).stopped = s.stopped := rfl
@[simp] theorem State.setReg_fatal : (s.setReg a v).fatal = s.fatal := rfl
@[simp] theorem State.setReg_logPrimary : (s.setReg a v).logPrimary = s.logPrimary := rfl
@[simp] theorem State.setReg_logSecondary : (s.setReg a v).logSecondary = s.logSecondary := rfl
@[simp] theorem State.setReg_logSecondaryWr : (s.setReg a v).logSecondaryWr = s.logSecondaryWr := rfl
@[simp] theorem State.setReg_ceLogged : (s.setReg a v).ceLogged = s.ceLogged := rfl
@[simp] theorem State.setReg_recoveries : (s.setReg a v).recoveries = s.recoveries := rfl
@[simp] theorem State.setReg_ahead : (s.setReg a v).ahead = s.ahead := rfl
@[simp] theorem State.setReg_retried : (s.setReg a v).retried = s.retried := rfl
@[simp] theorem State.setReg_failing : (s.setReg a v).failing = s.failing := rfl
@[simp] theorem State.setReg_unitsLost : (s.setReg a v).unitsLost = s.unitsLost := rfl
@[simp] theorem State.setReg_rows : (s.setReg a v).rows = s.rows := rfl
@[simp] theorem State.setReg_passSram : (s.setReg a v).passSram = s.passSram := rfl
@[simp] theorem State.setReg_passHbm : (s.setReg a v).passHbm = s.passHbm := rfl
@[simp] theorem State.setReg_stop : (s.setReg a v).stop = s.stop := rfl
@[simp] theorem State.setReg_selfRefresh : (s.setReg a v).selfRefresh = s.selfRefresh := rfl
@[simp] theorem State.setReg_press : (s.setReg a v).press = s.press := rfl
@[simp] theorem State.setReg_savedLog : (s.setReg a v).savedLog = s.savedLog := rfl
@[simp] theorem State.setReg_sec : (s.setReg a v).sec = s.sec := rfl
@[simp] theorem State.setReg_heather : (s.setReg a v).heather = s.heather := rfl
@[simp] theorem State.setReg_rings : (s.setReg a v).rings = s.rings := rfl
@[simp] theorem State.setReg_hold : (s.setReg a v).hold = s.hold := rfl
@[simp] theorem State.setReg_wdog : (s.setReg a v).wdog = s.wdog := rfl
@[simp] theorem State.setReg_trace : (s.setReg a v).trace = s.trace := rfl
@[simp] theorem State.setReg_traceTime : (s.setReg a v).traceTime = s.traceTime := rfl
@[simp] theorem State.setReg_tracePost : (s.setReg a v).tracePost = s.tracePost := rfl
@[simp] theorem State.setReg_rowReads : (s.setReg a v).rowReads = s.rowReads := rfl
@[simp] theorem State.setReg_writeFail : (s.setReg a v).writeFail = s.writeFail := rfl
@[simp] theorem State.setReg_held : (s.setReg a v).held = s.held := rfl
@[simp] theorem State.setReg_old : (s.setReg a v).old = s.old := rfl
@[simp] theorem State.setReg_hostReads : (s.setReg a v).hostReads = s.hostReads := rfl
@[simp] theorem State.setReg_config : (s.setReg a v).config = s.config := rfl
end

/-! ### stage -/

section
variable (a : Nat) (v : Word)
@[simp] theorem State.stage_stg : (s.stage a v).stg = SMap.set (s.reg a) s.stg a v := rfl
@[simp] theorem State.stage_pending : (s.stage a v).pending = s.pending := rfl
@[simp] theorem State.stage_out : (s.stage a v).out = s.out := rfl
@[simp] theorem State.stage_free : (s.stage a v).free = s.free := rfl
@[simp] theorem State.stage_nextCmd : (s.stage a v).nextCmd = s.nextCmd := rfl
@[simp] theorem State.stage_now : (s.stage a v).now = s.now := rfl
@[simp] theorem State.stage_mem : (s.stage a v).mem = s.mem := rfl
@[simp] theorem State.stage_owner : (s.stage a v).owner = s.owner := rfl
@[simp] theorem State.stage_poison : (s.stage a v).poison = s.poison := rfl
@[simp] theorem State.stage_eff : (s.stage a v).eff = s.eff := rfl
@[simp] theorem State.stage_applies : (s.stage a v).applies = s.applies := rfl
@[simp] theorem State.stage_cores : (s.stage a v).cores = s.cores := rfl
@[simp] theorem State.stage_peony : (s.stage a v).peony = s.peony := rfl
@[simp] theorem State.stage_trees : (s.stage a v).trees = s.trees := rfl
@[simp] theorem State.stage_walks : (s.stage a v).walks = s.walks := rfl
@[simp] theorem State.stage_merges : (s.stage a v).merges = s.merges := rfl
@[simp] theorem State.stage_sessions : (s.stage a v).sessions = s.sessions := rfl
@[simp] theorem State.stage_rowWork : (s.stage a v).rowWork = s.rowWork := rfl
@[simp] theorem State.stage_passages : (s.stage a v).passages = s.passages := rfl
@[simp] theorem State.stage_vocab : (s.stage a v).vocab = s.vocab := rfl
@[simp] theorem State.stage_grammar : (s.stage a v).grammar = s.grammar := rfl
@[simp] theorem State.stage_loadNext : (s.stage a v).loadNext = s.loadNext := rfl
@[simp] theorem State.stage_encRest : (s.stage a v).encRest = s.encRest := rfl
@[simp] theorem State.stage_cmds : (s.stage a v).cmds = s.cmds := rfl
@[simp] theorem State.stage_stem : (s.stage a v).stem = s.stem := rfl
@[simp] theorem State.stage_cadence : (s.stage a v).cadence = s.cadence := rfl
@[simp] theorem State.stage_fxg : (s.stage a v).fxg = s.fxg := rfl
@[simp] theorem State.stage_fxgGen : (s.stage a v).fxgGen = s.fxgGen := rfl
@[simp] theorem State.stage_mmuInval : (s.stage a v).mmuInval = s.mmuInval := rfl
@[simp] theorem State.stage_jobs : (s.stage a v).jobs = s.jobs := rfl
@[simp] theorem State.stage_nextOrder : (s.stage a v).nextOrder = s.nextOrder := rfl
@[simp] theorem State.stage_landing : (s.stage a v).landing = s.landing := rfl
@[simp] theorem State.stage_flows : (s.stage a v).flows = s.flows := rfl
@[simp] theorem State.stage_vtime : (s.stage a v).vtime = s.vtime := rfl
@[simp] theorem State.stage_flash : (s.stage a v).flash = s.flash := rfl
@[simp] theorem State.stage_erase : (s.stage a v).erase = s.erase := rfl
@[simp] theorem State.stage_pf1 : (s.stage a v).pf1 = s.pf1 := rfl
@[simp] theorem State.stage_ports : (s.stage a v).ports = s.ports := rfl
@[simp] theorem State.stage_reqs : (s.stage a v).reqs = s.reqs := rfl
@[simp] theorem State.stage_nextTag : (s.stage a v).nextTag = s.nextTag := rfl
@[simp] theorem State.stage_segInval : (s.stage a v).segInval = s.segInval := rfl
@[simp] theorem State.stage_align : (s.stage a v).align = s.align := rfl
@[simp] theorem State.stage_start : (s.stage a v).start = s.start := rfl
@[simp] theorem State.stage_power : (s.stage a v).power = s.power := rfl
@[simp] theorem State.stage_guard : (s.stage a v).guard = s.guard := rfl
@[simp] theorem State.stage_hbmOff : (s.stage a v).hbmOff = s.hbmOff := rfl
@[simp] theorem State.stage_dieOff : (s.stage a v).dieOff = s.dieOff := rfl
@[simp] theorem State.stage_tripped : (s.stage a v).tripped = s.tripped := rfl
@[simp] theorem State.stage_stopped : (s.stage a v).stopped = s.stopped := rfl
@[simp] theorem State.stage_fatal : (s.stage a v).fatal = s.fatal := rfl
@[simp] theorem State.stage_logPrimary : (s.stage a v).logPrimary = s.logPrimary := rfl
@[simp] theorem State.stage_logSecondary : (s.stage a v).logSecondary = s.logSecondary := rfl
@[simp] theorem State.stage_logSecondaryWr : (s.stage a v).logSecondaryWr = s.logSecondaryWr := rfl
@[simp] theorem State.stage_ceLogged : (s.stage a v).ceLogged = s.ceLogged := rfl
@[simp] theorem State.stage_recoveries : (s.stage a v).recoveries = s.recoveries := rfl
@[simp] theorem State.stage_ahead : (s.stage a v).ahead = s.ahead := rfl
@[simp] theorem State.stage_retried : (s.stage a v).retried = s.retried := rfl
@[simp] theorem State.stage_failing : (s.stage a v).failing = s.failing := rfl
@[simp] theorem State.stage_unitsLost : (s.stage a v).unitsLost = s.unitsLost := rfl
@[simp] theorem State.stage_rows : (s.stage a v).rows = s.rows := rfl
@[simp] theorem State.stage_passSram : (s.stage a v).passSram = s.passSram := rfl
@[simp] theorem State.stage_passHbm : (s.stage a v).passHbm = s.passHbm := rfl
@[simp] theorem State.stage_stop : (s.stage a v).stop = s.stop := rfl
@[simp] theorem State.stage_selfRefresh : (s.stage a v).selfRefresh = s.selfRefresh := rfl
@[simp] theorem State.stage_press : (s.stage a v).press = s.press := rfl
@[simp] theorem State.stage_savedLog : (s.stage a v).savedLog = s.savedLog := rfl
@[simp] theorem State.stage_sec : (s.stage a v).sec = s.sec := rfl
@[simp] theorem State.stage_heather : (s.stage a v).heather = s.heather := rfl
@[simp] theorem State.stage_rings : (s.stage a v).rings = s.rings := rfl
@[simp] theorem State.stage_hold : (s.stage a v).hold = s.hold := rfl
@[simp] theorem State.stage_wdog : (s.stage a v).wdog = s.wdog := rfl
@[simp] theorem State.stage_trace : (s.stage a v).trace = s.trace := rfl
@[simp] theorem State.stage_traceTime : (s.stage a v).traceTime = s.traceTime := rfl
@[simp] theorem State.stage_tracePost : (s.stage a v).tracePost = s.tracePost := rfl
@[simp] theorem State.stage_rowReads : (s.stage a v).rowReads = s.rowReads := rfl
@[simp] theorem State.stage_writeFail : (s.stage a v).writeFail = s.writeFail := rfl
@[simp] theorem State.stage_held : (s.stage a v).held = s.held := rfl
@[simp] theorem State.stage_old : (s.stage a v).old = s.old := rfl
@[simp] theorem State.stage_hostReads : (s.stage a v).hostReads = s.hostReads := rfl
@[simp] theorem State.stage_config : (s.stage a v).config = s.config := rfl
end

/-! ### setCore -/

section
variable (n : CoreId) (c : Core)
@[simp] theorem State.setCore_cores : (s.setCore n c).cores = SMap.set Core.idle s.cores n.toNat c := rfl
@[simp] theorem State.setCore_pending : (s.setCore n c).pending = s.pending := rfl
@[simp] theorem State.setCore_out : (s.setCore n c).out = s.out := rfl
@[simp] theorem State.setCore_free : (s.setCore n c).free = s.free := rfl
@[simp] theorem State.setCore_nextCmd : (s.setCore n c).nextCmd = s.nextCmd := rfl
@[simp] theorem State.setCore_now : (s.setCore n c).now = s.now := rfl
@[simp] theorem State.setCore_mem : (s.setCore n c).mem = s.mem := rfl
@[simp] theorem State.setCore_owner : (s.setCore n c).owner = s.owner := rfl
@[simp] theorem State.setCore_poison : (s.setCore n c).poison = s.poison := rfl
@[simp] theorem State.setCore_eff : (s.setCore n c).eff = s.eff := rfl
@[simp] theorem State.setCore_stg : (s.setCore n c).stg = s.stg := rfl
@[simp] theorem State.setCore_applies : (s.setCore n c).applies = s.applies := rfl
@[simp] theorem State.setCore_peony : (s.setCore n c).peony = s.peony := rfl
@[simp] theorem State.setCore_trees : (s.setCore n c).trees = s.trees := rfl
@[simp] theorem State.setCore_walks : (s.setCore n c).walks = s.walks := rfl
@[simp] theorem State.setCore_merges : (s.setCore n c).merges = s.merges := rfl
@[simp] theorem State.setCore_sessions : (s.setCore n c).sessions = s.sessions := rfl
@[simp] theorem State.setCore_rowWork : (s.setCore n c).rowWork = s.rowWork := rfl
@[simp] theorem State.setCore_passages : (s.setCore n c).passages = s.passages := rfl
@[simp] theorem State.setCore_vocab : (s.setCore n c).vocab = s.vocab := rfl
@[simp] theorem State.setCore_grammar : (s.setCore n c).grammar = s.grammar := rfl
@[simp] theorem State.setCore_loadNext : (s.setCore n c).loadNext = s.loadNext := rfl
@[simp] theorem State.setCore_encRest : (s.setCore n c).encRest = s.encRest := rfl
@[simp] theorem State.setCore_cmds : (s.setCore n c).cmds = s.cmds := rfl
@[simp] theorem State.setCore_stem : (s.setCore n c).stem = s.stem := rfl
@[simp] theorem State.setCore_cadence : (s.setCore n c).cadence = s.cadence := rfl
@[simp] theorem State.setCore_fxg : (s.setCore n c).fxg = s.fxg := rfl
@[simp] theorem State.setCore_fxgGen : (s.setCore n c).fxgGen = s.fxgGen := rfl
@[simp] theorem State.setCore_mmuInval : (s.setCore n c).mmuInval = s.mmuInval := rfl
@[simp] theorem State.setCore_jobs : (s.setCore n c).jobs = s.jobs := rfl
@[simp] theorem State.setCore_nextOrder : (s.setCore n c).nextOrder = s.nextOrder := rfl
@[simp] theorem State.setCore_landing : (s.setCore n c).landing = s.landing := rfl
@[simp] theorem State.setCore_flows : (s.setCore n c).flows = s.flows := rfl
@[simp] theorem State.setCore_vtime : (s.setCore n c).vtime = s.vtime := rfl
@[simp] theorem State.setCore_flash : (s.setCore n c).flash = s.flash := rfl
@[simp] theorem State.setCore_erase : (s.setCore n c).erase = s.erase := rfl
@[simp] theorem State.setCore_pf1 : (s.setCore n c).pf1 = s.pf1 := rfl
@[simp] theorem State.setCore_ports : (s.setCore n c).ports = s.ports := rfl
@[simp] theorem State.setCore_reqs : (s.setCore n c).reqs = s.reqs := rfl
@[simp] theorem State.setCore_nextTag : (s.setCore n c).nextTag = s.nextTag := rfl
@[simp] theorem State.setCore_segInval : (s.setCore n c).segInval = s.segInval := rfl
@[simp] theorem State.setCore_align : (s.setCore n c).align = s.align := rfl
@[simp] theorem State.setCore_start : (s.setCore n c).start = s.start := rfl
@[simp] theorem State.setCore_power : (s.setCore n c).power = s.power := rfl
@[simp] theorem State.setCore_guard : (s.setCore n c).guard = s.guard := rfl
@[simp] theorem State.setCore_hbmOff : (s.setCore n c).hbmOff = s.hbmOff := rfl
@[simp] theorem State.setCore_dieOff : (s.setCore n c).dieOff = s.dieOff := rfl
@[simp] theorem State.setCore_tripped : (s.setCore n c).tripped = s.tripped := rfl
@[simp] theorem State.setCore_stopped : (s.setCore n c).stopped = s.stopped := rfl
@[simp] theorem State.setCore_fatal : (s.setCore n c).fatal = s.fatal := rfl
@[simp] theorem State.setCore_logPrimary : (s.setCore n c).logPrimary = s.logPrimary := rfl
@[simp] theorem State.setCore_logSecondary : (s.setCore n c).logSecondary = s.logSecondary := rfl
@[simp] theorem State.setCore_logSecondaryWr : (s.setCore n c).logSecondaryWr = s.logSecondaryWr := rfl
@[simp] theorem State.setCore_ceLogged : (s.setCore n c).ceLogged = s.ceLogged := rfl
@[simp] theorem State.setCore_recoveries : (s.setCore n c).recoveries = s.recoveries := rfl
@[simp] theorem State.setCore_ahead : (s.setCore n c).ahead = s.ahead := rfl
@[simp] theorem State.setCore_retried : (s.setCore n c).retried = s.retried := rfl
@[simp] theorem State.setCore_failing : (s.setCore n c).failing = s.failing := rfl
@[simp] theorem State.setCore_unitsLost : (s.setCore n c).unitsLost = s.unitsLost := rfl
@[simp] theorem State.setCore_rows : (s.setCore n c).rows = s.rows := rfl
@[simp] theorem State.setCore_passSram : (s.setCore n c).passSram = s.passSram := rfl
@[simp] theorem State.setCore_passHbm : (s.setCore n c).passHbm = s.passHbm := rfl
@[simp] theorem State.setCore_stop : (s.setCore n c).stop = s.stop := rfl
@[simp] theorem State.setCore_selfRefresh : (s.setCore n c).selfRefresh = s.selfRefresh := rfl
@[simp] theorem State.setCore_press : (s.setCore n c).press = s.press := rfl
@[simp] theorem State.setCore_savedLog : (s.setCore n c).savedLog = s.savedLog := rfl
@[simp] theorem State.setCore_sec : (s.setCore n c).sec = s.sec := rfl
@[simp] theorem State.setCore_heather : (s.setCore n c).heather = s.heather := rfl
@[simp] theorem State.setCore_rings : (s.setCore n c).rings = s.rings := rfl
@[simp] theorem State.setCore_hold : (s.setCore n c).hold = s.hold := rfl
@[simp] theorem State.setCore_wdog : (s.setCore n c).wdog = s.wdog := rfl
@[simp] theorem State.setCore_trace : (s.setCore n c).trace = s.trace := rfl
@[simp] theorem State.setCore_traceTime : (s.setCore n c).traceTime = s.traceTime := rfl
@[simp] theorem State.setCore_tracePost : (s.setCore n c).tracePost = s.tracePost := rfl
@[simp] theorem State.setCore_rowReads : (s.setCore n c).rowReads = s.rowReads := rfl
@[simp] theorem State.setCore_writeFail : (s.setCore n c).writeFail = s.writeFail := rfl
@[simp] theorem State.setCore_held : (s.setCore n c).held = s.held := rfl
@[simp] theorem State.setCore_old : (s.setCore n c).old = s.old := rfl
@[simp] theorem State.setCore_hostReads : (s.setCore n c).hostReads = s.hostReads := rfl
@[simp] theorem State.setCore_config : (s.setCore n c).config = s.config := rfl
end

/-! ### setPeony -/

section
variable (n : Nat) (c : PeonyCore)
@[simp] theorem State.setPeony_peony : (s.setPeony n c).peony = SMap.set PeonyCore.reset s.peony n c := rfl
@[simp] theorem State.setPeony_pending : (s.setPeony n c).pending = s.pending := rfl
@[simp] theorem State.setPeony_out : (s.setPeony n c).out = s.out := rfl
@[simp] theorem State.setPeony_free : (s.setPeony n c).free = s.free := rfl
@[simp] theorem State.setPeony_nextCmd : (s.setPeony n c).nextCmd = s.nextCmd := rfl
@[simp] theorem State.setPeony_now : (s.setPeony n c).now = s.now := rfl
@[simp] theorem State.setPeony_mem : (s.setPeony n c).mem = s.mem := rfl
@[simp] theorem State.setPeony_owner : (s.setPeony n c).owner = s.owner := rfl
@[simp] theorem State.setPeony_poison : (s.setPeony n c).poison = s.poison := rfl
@[simp] theorem State.setPeony_eff : (s.setPeony n c).eff = s.eff := rfl
@[simp] theorem State.setPeony_stg : (s.setPeony n c).stg = s.stg := rfl
@[simp] theorem State.setPeony_applies : (s.setPeony n c).applies = s.applies := rfl
@[simp] theorem State.setPeony_cores : (s.setPeony n c).cores = s.cores := rfl
@[simp] theorem State.setPeony_trees : (s.setPeony n c).trees = s.trees := rfl
@[simp] theorem State.setPeony_walks : (s.setPeony n c).walks = s.walks := rfl
@[simp] theorem State.setPeony_merges : (s.setPeony n c).merges = s.merges := rfl
@[simp] theorem State.setPeony_sessions : (s.setPeony n c).sessions = s.sessions := rfl
@[simp] theorem State.setPeony_rowWork : (s.setPeony n c).rowWork = s.rowWork := rfl
@[simp] theorem State.setPeony_passages : (s.setPeony n c).passages = s.passages := rfl
@[simp] theorem State.setPeony_vocab : (s.setPeony n c).vocab = s.vocab := rfl
@[simp] theorem State.setPeony_grammar : (s.setPeony n c).grammar = s.grammar := rfl
@[simp] theorem State.setPeony_loadNext : (s.setPeony n c).loadNext = s.loadNext := rfl
@[simp] theorem State.setPeony_encRest : (s.setPeony n c).encRest = s.encRest := rfl
@[simp] theorem State.setPeony_cmds : (s.setPeony n c).cmds = s.cmds := rfl
@[simp] theorem State.setPeony_stem : (s.setPeony n c).stem = s.stem := rfl
@[simp] theorem State.setPeony_cadence : (s.setPeony n c).cadence = s.cadence := rfl
@[simp] theorem State.setPeony_fxg : (s.setPeony n c).fxg = s.fxg := rfl
@[simp] theorem State.setPeony_fxgGen : (s.setPeony n c).fxgGen = s.fxgGen := rfl
@[simp] theorem State.setPeony_mmuInval : (s.setPeony n c).mmuInval = s.mmuInval := rfl
@[simp] theorem State.setPeony_jobs : (s.setPeony n c).jobs = s.jobs := rfl
@[simp] theorem State.setPeony_nextOrder : (s.setPeony n c).nextOrder = s.nextOrder := rfl
@[simp] theorem State.setPeony_landing : (s.setPeony n c).landing = s.landing := rfl
@[simp] theorem State.setPeony_flows : (s.setPeony n c).flows = s.flows := rfl
@[simp] theorem State.setPeony_vtime : (s.setPeony n c).vtime = s.vtime := rfl
@[simp] theorem State.setPeony_flash : (s.setPeony n c).flash = s.flash := rfl
@[simp] theorem State.setPeony_erase : (s.setPeony n c).erase = s.erase := rfl
@[simp] theorem State.setPeony_pf1 : (s.setPeony n c).pf1 = s.pf1 := rfl
@[simp] theorem State.setPeony_ports : (s.setPeony n c).ports = s.ports := rfl
@[simp] theorem State.setPeony_reqs : (s.setPeony n c).reqs = s.reqs := rfl
@[simp] theorem State.setPeony_nextTag : (s.setPeony n c).nextTag = s.nextTag := rfl
@[simp] theorem State.setPeony_segInval : (s.setPeony n c).segInval = s.segInval := rfl
@[simp] theorem State.setPeony_align : (s.setPeony n c).align = s.align := rfl
@[simp] theorem State.setPeony_start : (s.setPeony n c).start = s.start := rfl
@[simp] theorem State.setPeony_power : (s.setPeony n c).power = s.power := rfl
@[simp] theorem State.setPeony_guard : (s.setPeony n c).guard = s.guard := rfl
@[simp] theorem State.setPeony_hbmOff : (s.setPeony n c).hbmOff = s.hbmOff := rfl
@[simp] theorem State.setPeony_dieOff : (s.setPeony n c).dieOff = s.dieOff := rfl
@[simp] theorem State.setPeony_tripped : (s.setPeony n c).tripped = s.tripped := rfl
@[simp] theorem State.setPeony_stopped : (s.setPeony n c).stopped = s.stopped := rfl
@[simp] theorem State.setPeony_fatal : (s.setPeony n c).fatal = s.fatal := rfl
@[simp] theorem State.setPeony_logPrimary : (s.setPeony n c).logPrimary = s.logPrimary := rfl
@[simp] theorem State.setPeony_logSecondary : (s.setPeony n c).logSecondary = s.logSecondary := rfl
@[simp] theorem State.setPeony_logSecondaryWr : (s.setPeony n c).logSecondaryWr = s.logSecondaryWr := rfl
@[simp] theorem State.setPeony_ceLogged : (s.setPeony n c).ceLogged = s.ceLogged := rfl
@[simp] theorem State.setPeony_recoveries : (s.setPeony n c).recoveries = s.recoveries := rfl
@[simp] theorem State.setPeony_ahead : (s.setPeony n c).ahead = s.ahead := rfl
@[simp] theorem State.setPeony_retried : (s.setPeony n c).retried = s.retried := rfl
@[simp] theorem State.setPeony_failing : (s.setPeony n c).failing = s.failing := rfl
@[simp] theorem State.setPeony_unitsLost : (s.setPeony n c).unitsLost = s.unitsLost := rfl
@[simp] theorem State.setPeony_rows : (s.setPeony n c).rows = s.rows := rfl
@[simp] theorem State.setPeony_passSram : (s.setPeony n c).passSram = s.passSram := rfl
@[simp] theorem State.setPeony_passHbm : (s.setPeony n c).passHbm = s.passHbm := rfl
@[simp] theorem State.setPeony_stop : (s.setPeony n c).stop = s.stop := rfl
@[simp] theorem State.setPeony_selfRefresh : (s.setPeony n c).selfRefresh = s.selfRefresh := rfl
@[simp] theorem State.setPeony_press : (s.setPeony n c).press = s.press := rfl
@[simp] theorem State.setPeony_savedLog : (s.setPeony n c).savedLog = s.savedLog := rfl
@[simp] theorem State.setPeony_sec : (s.setPeony n c).sec = s.sec := rfl
@[simp] theorem State.setPeony_heather : (s.setPeony n c).heather = s.heather := rfl
@[simp] theorem State.setPeony_rings : (s.setPeony n c).rings = s.rings := rfl
@[simp] theorem State.setPeony_hold : (s.setPeony n c).hold = s.hold := rfl
@[simp] theorem State.setPeony_wdog : (s.setPeony n c).wdog = s.wdog := rfl
@[simp] theorem State.setPeony_trace : (s.setPeony n c).trace = s.trace := rfl
@[simp] theorem State.setPeony_traceTime : (s.setPeony n c).traceTime = s.traceTime := rfl
@[simp] theorem State.setPeony_tracePost : (s.setPeony n c).tracePost = s.tracePost := rfl
@[simp] theorem State.setPeony_rowReads : (s.setPeony n c).rowReads = s.rowReads := rfl
@[simp] theorem State.setPeony_writeFail : (s.setPeony n c).writeFail = s.writeFail := rfl
@[simp] theorem State.setPeony_held : (s.setPeony n c).held = s.held := rfl
@[simp] theorem State.setPeony_old : (s.setPeony n c).old = s.old := rfl
@[simp] theorem State.setPeony_hostReads : (s.setPeony n c).hostReads = s.hostReads := rfl
@[simp] theorem State.setPeony_config : (s.setPeony n c).config = s.config := rfl
end

/-! ### setCmd -/

section
variable (c : Cmd)
@[simp] theorem State.setCmd_cmds : (s.setCmd c).cmds = s.cmds.map (fun d => if d.id = c.id then c else d) := rfl
@[simp] theorem State.setCmd_pending : (s.setCmd c).pending = s.pending := rfl
@[simp] theorem State.setCmd_out : (s.setCmd c).out = s.out := rfl
@[simp] theorem State.setCmd_free : (s.setCmd c).free = s.free := rfl
@[simp] theorem State.setCmd_nextCmd : (s.setCmd c).nextCmd = s.nextCmd := rfl
@[simp] theorem State.setCmd_now : (s.setCmd c).now = s.now := rfl
@[simp] theorem State.setCmd_mem : (s.setCmd c).mem = s.mem := rfl
@[simp] theorem State.setCmd_owner : (s.setCmd c).owner = s.owner := rfl
@[simp] theorem State.setCmd_poison : (s.setCmd c).poison = s.poison := rfl
@[simp] theorem State.setCmd_eff : (s.setCmd c).eff = s.eff := rfl
@[simp] theorem State.setCmd_stg : (s.setCmd c).stg = s.stg := rfl
@[simp] theorem State.setCmd_applies : (s.setCmd c).applies = s.applies := rfl
@[simp] theorem State.setCmd_cores : (s.setCmd c).cores = s.cores := rfl
@[simp] theorem State.setCmd_peony : (s.setCmd c).peony = s.peony := rfl
@[simp] theorem State.setCmd_trees : (s.setCmd c).trees = s.trees := rfl
@[simp] theorem State.setCmd_walks : (s.setCmd c).walks = s.walks := rfl
@[simp] theorem State.setCmd_merges : (s.setCmd c).merges = s.merges := rfl
@[simp] theorem State.setCmd_sessions : (s.setCmd c).sessions = s.sessions := rfl
@[simp] theorem State.setCmd_rowWork : (s.setCmd c).rowWork = s.rowWork := rfl
@[simp] theorem State.setCmd_passages : (s.setCmd c).passages = s.passages := rfl
@[simp] theorem State.setCmd_vocab : (s.setCmd c).vocab = s.vocab := rfl
@[simp] theorem State.setCmd_grammar : (s.setCmd c).grammar = s.grammar := rfl
@[simp] theorem State.setCmd_loadNext : (s.setCmd c).loadNext = s.loadNext := rfl
@[simp] theorem State.setCmd_encRest : (s.setCmd c).encRest = s.encRest := rfl
@[simp] theorem State.setCmd_stem : (s.setCmd c).stem = s.stem := rfl
@[simp] theorem State.setCmd_cadence : (s.setCmd c).cadence = s.cadence := rfl
@[simp] theorem State.setCmd_fxg : (s.setCmd c).fxg = s.fxg := rfl
@[simp] theorem State.setCmd_fxgGen : (s.setCmd c).fxgGen = s.fxgGen := rfl
@[simp] theorem State.setCmd_mmuInval : (s.setCmd c).mmuInval = s.mmuInval := rfl
@[simp] theorem State.setCmd_jobs : (s.setCmd c).jobs = s.jobs := rfl
@[simp] theorem State.setCmd_nextOrder : (s.setCmd c).nextOrder = s.nextOrder := rfl
@[simp] theorem State.setCmd_landing : (s.setCmd c).landing = s.landing := rfl
@[simp] theorem State.setCmd_flows : (s.setCmd c).flows = s.flows := rfl
@[simp] theorem State.setCmd_vtime : (s.setCmd c).vtime = s.vtime := rfl
@[simp] theorem State.setCmd_flash : (s.setCmd c).flash = s.flash := rfl
@[simp] theorem State.setCmd_erase : (s.setCmd c).erase = s.erase := rfl
@[simp] theorem State.setCmd_pf1 : (s.setCmd c).pf1 = s.pf1 := rfl
@[simp] theorem State.setCmd_ports : (s.setCmd c).ports = s.ports := rfl
@[simp] theorem State.setCmd_reqs : (s.setCmd c).reqs = s.reqs := rfl
@[simp] theorem State.setCmd_nextTag : (s.setCmd c).nextTag = s.nextTag := rfl
@[simp] theorem State.setCmd_segInval : (s.setCmd c).segInval = s.segInval := rfl
@[simp] theorem State.setCmd_align : (s.setCmd c).align = s.align := rfl
@[simp] theorem State.setCmd_start : (s.setCmd c).start = s.start := rfl
@[simp] theorem State.setCmd_power : (s.setCmd c).power = s.power := rfl
@[simp] theorem State.setCmd_guard : (s.setCmd c).guard = s.guard := rfl
@[simp] theorem State.setCmd_hbmOff : (s.setCmd c).hbmOff = s.hbmOff := rfl
@[simp] theorem State.setCmd_dieOff : (s.setCmd c).dieOff = s.dieOff := rfl
@[simp] theorem State.setCmd_tripped : (s.setCmd c).tripped = s.tripped := rfl
@[simp] theorem State.setCmd_stopped : (s.setCmd c).stopped = s.stopped := rfl
@[simp] theorem State.setCmd_fatal : (s.setCmd c).fatal = s.fatal := rfl
@[simp] theorem State.setCmd_logPrimary : (s.setCmd c).logPrimary = s.logPrimary := rfl
@[simp] theorem State.setCmd_logSecondary : (s.setCmd c).logSecondary = s.logSecondary := rfl
@[simp] theorem State.setCmd_logSecondaryWr : (s.setCmd c).logSecondaryWr = s.logSecondaryWr := rfl
@[simp] theorem State.setCmd_ceLogged : (s.setCmd c).ceLogged = s.ceLogged := rfl
@[simp] theorem State.setCmd_recoveries : (s.setCmd c).recoveries = s.recoveries := rfl
@[simp] theorem State.setCmd_ahead : (s.setCmd c).ahead = s.ahead := rfl
@[simp] theorem State.setCmd_retried : (s.setCmd c).retried = s.retried := rfl
@[simp] theorem State.setCmd_failing : (s.setCmd c).failing = s.failing := rfl
@[simp] theorem State.setCmd_unitsLost : (s.setCmd c).unitsLost = s.unitsLost := rfl
@[simp] theorem State.setCmd_rows : (s.setCmd c).rows = s.rows := rfl
@[simp] theorem State.setCmd_passSram : (s.setCmd c).passSram = s.passSram := rfl
@[simp] theorem State.setCmd_passHbm : (s.setCmd c).passHbm = s.passHbm := rfl
@[simp] theorem State.setCmd_stop : (s.setCmd c).stop = s.stop := rfl
@[simp] theorem State.setCmd_selfRefresh : (s.setCmd c).selfRefresh = s.selfRefresh := rfl
@[simp] theorem State.setCmd_press : (s.setCmd c).press = s.press := rfl
@[simp] theorem State.setCmd_savedLog : (s.setCmd c).savedLog = s.savedLog := rfl
@[simp] theorem State.setCmd_sec : (s.setCmd c).sec = s.sec := rfl
@[simp] theorem State.setCmd_heather : (s.setCmd c).heather = s.heather := rfl
@[simp] theorem State.setCmd_rings : (s.setCmd c).rings = s.rings := rfl
@[simp] theorem State.setCmd_hold : (s.setCmd c).hold = s.hold := rfl
@[simp] theorem State.setCmd_wdog : (s.setCmd c).wdog = s.wdog := rfl
@[simp] theorem State.setCmd_trace : (s.setCmd c).trace = s.trace := rfl
@[simp] theorem State.setCmd_traceTime : (s.setCmd c).traceTime = s.traceTime := rfl
@[simp] theorem State.setCmd_tracePost : (s.setCmd c).tracePost = s.tracePost := rfl
@[simp] theorem State.setCmd_rowReads : (s.setCmd c).rowReads = s.rowReads := rfl
@[simp] theorem State.setCmd_writeFail : (s.setCmd c).writeFail = s.writeFail := rfl
@[simp] theorem State.setCmd_held : (s.setCmd c).held = s.held := rfl
@[simp] theorem State.setCmd_old : (s.setCmd c).old = s.old := rfl
@[simp] theorem State.setCmd_hostReads : (s.setCmd c).hostReads = s.hostReads := rfl
@[simp] theorem State.setCmd_config : (s.setCmd c).config = s.config := rfl
end

/-! ### dropCmd -/

section
variable (id : Nat)
@[simp] theorem State.dropCmd_cmds : (s.dropCmd id).cmds = s.cmds.filter (fun d => !(d.id = id)) := rfl
@[simp] theorem State.dropCmd_pending : (s.dropCmd id).pending = s.pending := rfl
@[simp] theorem State.dropCmd_out : (s.dropCmd id).out = s.out := rfl
@[simp] theorem State.dropCmd_free : (s.dropCmd id).free = s.free := rfl
@[simp] theorem State.dropCmd_nextCmd : (s.dropCmd id).nextCmd = s.nextCmd := rfl
@[simp] theorem State.dropCmd_now : (s.dropCmd id).now = s.now := rfl
@[simp] theorem State.dropCmd_mem : (s.dropCmd id).mem = s.mem := rfl
@[simp] theorem State.dropCmd_owner : (s.dropCmd id).owner = s.owner := rfl
@[simp] theorem State.dropCmd_poison : (s.dropCmd id).poison = s.poison := rfl
@[simp] theorem State.dropCmd_eff : (s.dropCmd id).eff = s.eff := rfl
@[simp] theorem State.dropCmd_stg : (s.dropCmd id).stg = s.stg := rfl
@[simp] theorem State.dropCmd_applies : (s.dropCmd id).applies = s.applies := rfl
@[simp] theorem State.dropCmd_cores : (s.dropCmd id).cores = s.cores := rfl
@[simp] theorem State.dropCmd_peony : (s.dropCmd id).peony = s.peony := rfl
@[simp] theorem State.dropCmd_trees : (s.dropCmd id).trees = s.trees := rfl
@[simp] theorem State.dropCmd_walks : (s.dropCmd id).walks = s.walks := rfl
@[simp] theorem State.dropCmd_merges : (s.dropCmd id).merges = s.merges := rfl
@[simp] theorem State.dropCmd_sessions : (s.dropCmd id).sessions = s.sessions := rfl
@[simp] theorem State.dropCmd_rowWork : (s.dropCmd id).rowWork = SMap.erase s.rowWork id := rfl
@[simp] theorem State.dropCmd_passages : (s.dropCmd id).passages = s.passages := rfl
@[simp] theorem State.dropCmd_vocab : (s.dropCmd id).vocab = s.vocab := rfl
@[simp] theorem State.dropCmd_grammar : (s.dropCmd id).grammar = s.grammar := rfl
@[simp] theorem State.dropCmd_loadNext : (s.dropCmd id).loadNext = s.loadNext := rfl
@[simp] theorem State.dropCmd_encRest : (s.dropCmd id).encRest = s.encRest := rfl
@[simp] theorem State.dropCmd_stem : (s.dropCmd id).stem = s.stem := rfl
@[simp] theorem State.dropCmd_cadence : (s.dropCmd id).cadence = s.cadence := rfl
@[simp] theorem State.dropCmd_fxg : (s.dropCmd id).fxg = s.fxg := rfl
@[simp] theorem State.dropCmd_fxgGen : (s.dropCmd id).fxgGen = s.fxgGen := rfl
@[simp] theorem State.dropCmd_mmuInval : (s.dropCmd id).mmuInval = s.mmuInval := rfl
@[simp] theorem State.dropCmd_jobs : (s.dropCmd id).jobs = s.jobs := rfl
@[simp] theorem State.dropCmd_nextOrder : (s.dropCmd id).nextOrder = s.nextOrder := rfl
@[simp] theorem State.dropCmd_landing : (s.dropCmd id).landing = s.landing := rfl
@[simp] theorem State.dropCmd_flows : (s.dropCmd id).flows = s.flows := rfl
@[simp] theorem State.dropCmd_vtime : (s.dropCmd id).vtime = s.vtime := rfl
@[simp] theorem State.dropCmd_flash : (s.dropCmd id).flash = s.flash := rfl
@[simp] theorem State.dropCmd_erase : (s.dropCmd id).erase = s.erase := rfl
@[simp] theorem State.dropCmd_pf1 : (s.dropCmd id).pf1 = s.pf1 := rfl
@[simp] theorem State.dropCmd_ports : (s.dropCmd id).ports = s.ports := rfl
@[simp] theorem State.dropCmd_reqs : (s.dropCmd id).reqs = s.reqs := rfl
@[simp] theorem State.dropCmd_nextTag : (s.dropCmd id).nextTag = s.nextTag := rfl
@[simp] theorem State.dropCmd_segInval : (s.dropCmd id).segInval = s.segInval := rfl
@[simp] theorem State.dropCmd_align : (s.dropCmd id).align = s.align := rfl
@[simp] theorem State.dropCmd_start : (s.dropCmd id).start = s.start := rfl
@[simp] theorem State.dropCmd_power : (s.dropCmd id).power = s.power := rfl
@[simp] theorem State.dropCmd_guard : (s.dropCmd id).guard = s.guard := rfl
@[simp] theorem State.dropCmd_hbmOff : (s.dropCmd id).hbmOff = s.hbmOff := rfl
@[simp] theorem State.dropCmd_dieOff : (s.dropCmd id).dieOff = s.dieOff := rfl
@[simp] theorem State.dropCmd_tripped : (s.dropCmd id).tripped = s.tripped := rfl
@[simp] theorem State.dropCmd_stopped : (s.dropCmd id).stopped = s.stopped := rfl
@[simp] theorem State.dropCmd_fatal : (s.dropCmd id).fatal = s.fatal := rfl
@[simp] theorem State.dropCmd_logPrimary : (s.dropCmd id).logPrimary = s.logPrimary := rfl
@[simp] theorem State.dropCmd_logSecondary : (s.dropCmd id).logSecondary = s.logSecondary := rfl
@[simp] theorem State.dropCmd_logSecondaryWr : (s.dropCmd id).logSecondaryWr = s.logSecondaryWr := rfl
@[simp] theorem State.dropCmd_ceLogged : (s.dropCmd id).ceLogged = s.ceLogged := rfl
@[simp] theorem State.dropCmd_recoveries : (s.dropCmd id).recoveries = s.recoveries := rfl
@[simp] theorem State.dropCmd_ahead : (s.dropCmd id).ahead = s.ahead := rfl
@[simp] theorem State.dropCmd_retried : (s.dropCmd id).retried = s.retried := rfl
@[simp] theorem State.dropCmd_failing : (s.dropCmd id).failing = s.failing := rfl
@[simp] theorem State.dropCmd_unitsLost : (s.dropCmd id).unitsLost = s.unitsLost := rfl
@[simp] theorem State.dropCmd_rows : (s.dropCmd id).rows = s.rows := rfl
@[simp] theorem State.dropCmd_passSram : (s.dropCmd id).passSram = s.passSram := rfl
@[simp] theorem State.dropCmd_passHbm : (s.dropCmd id).passHbm = s.passHbm := rfl
@[simp] theorem State.dropCmd_stop : (s.dropCmd id).stop = s.stop := rfl
@[simp] theorem State.dropCmd_selfRefresh : (s.dropCmd id).selfRefresh = s.selfRefresh := rfl
@[simp] theorem State.dropCmd_press : (s.dropCmd id).press = s.press := rfl
@[simp] theorem State.dropCmd_savedLog : (s.dropCmd id).savedLog = s.savedLog := rfl
@[simp] theorem State.dropCmd_sec : (s.dropCmd id).sec = s.sec := rfl
@[simp] theorem State.dropCmd_heather : (s.dropCmd id).heather = s.heather := rfl
@[simp] theorem State.dropCmd_rings : (s.dropCmd id).rings = s.rings := rfl
@[simp] theorem State.dropCmd_hold : (s.dropCmd id).hold = s.hold := rfl
@[simp] theorem State.dropCmd_wdog : (s.dropCmd id).wdog = s.wdog := rfl
@[simp] theorem State.dropCmd_trace : (s.dropCmd id).trace = s.trace := rfl
@[simp] theorem State.dropCmd_traceTime : (s.dropCmd id).traceTime = s.traceTime := rfl
@[simp] theorem State.dropCmd_tracePost : (s.dropCmd id).tracePost = s.tracePost := rfl
@[simp] theorem State.dropCmd_rowReads : (s.dropCmd id).rowReads = SMap.erase s.rowReads id := rfl
@[simp] theorem State.dropCmd_writeFail : (s.dropCmd id).writeFail = SMap.erase s.writeFail id := rfl
@[simp] theorem State.dropCmd_held : (s.dropCmd id).held = s.held := rfl
@[simp] theorem State.dropCmd_old : (s.dropCmd id).old = s.old.filter (fun o => !(o.cmd = id + 1)) := rfl
@[simp] theorem State.dropCmd_hostReads : (s.dropCmd id).hostReads = s.hostReads := rfl
@[simp] theorem State.dropCmd_config : (s.dropCmd id).config = s.config := rfl
end

/-! ### setJob -/

section
variable (j : Job)
@[simp] theorem State.setJob_jobs : (s.setJob j).jobs = s.jobs.map (fun k => if k.id = j.id && k.isLive then j else k) := rfl
@[simp] theorem State.setJob_pending : (s.setJob j).pending = s.pending := rfl
@[simp] theorem State.setJob_out : (s.setJob j).out = s.out := rfl
@[simp] theorem State.setJob_free : (s.setJob j).free = s.free := rfl
@[simp] theorem State.setJob_nextCmd : (s.setJob j).nextCmd = s.nextCmd := rfl
@[simp] theorem State.setJob_now : (s.setJob j).now = s.now := rfl
@[simp] theorem State.setJob_mem : (s.setJob j).mem = s.mem := rfl
@[simp] theorem State.setJob_owner : (s.setJob j).owner = s.owner := rfl
@[simp] theorem State.setJob_poison : (s.setJob j).poison = s.poison := rfl
@[simp] theorem State.setJob_eff : (s.setJob j).eff = s.eff := rfl
@[simp] theorem State.setJob_stg : (s.setJob j).stg = s.stg := rfl
@[simp] theorem State.setJob_applies : (s.setJob j).applies = s.applies := rfl
@[simp] theorem State.setJob_cores : (s.setJob j).cores = s.cores := rfl
@[simp] theorem State.setJob_peony : (s.setJob j).peony = s.peony := rfl
@[simp] theorem State.setJob_trees : (s.setJob j).trees = s.trees := rfl
@[simp] theorem State.setJob_walks : (s.setJob j).walks = s.walks := rfl
@[simp] theorem State.setJob_merges : (s.setJob j).merges = s.merges := rfl
@[simp] theorem State.setJob_sessions : (s.setJob j).sessions = s.sessions := rfl
@[simp] theorem State.setJob_rowWork : (s.setJob j).rowWork = s.rowWork := rfl
@[simp] theorem State.setJob_passages : (s.setJob j).passages = s.passages := rfl
@[simp] theorem State.setJob_vocab : (s.setJob j).vocab = s.vocab := rfl
@[simp] theorem State.setJob_grammar : (s.setJob j).grammar = s.grammar := rfl
@[simp] theorem State.setJob_loadNext : (s.setJob j).loadNext = s.loadNext := rfl
@[simp] theorem State.setJob_encRest : (s.setJob j).encRest = s.encRest := rfl
@[simp] theorem State.setJob_cmds : (s.setJob j).cmds = s.cmds := rfl
@[simp] theorem State.setJob_stem : (s.setJob j).stem = s.stem := rfl
@[simp] theorem State.setJob_cadence : (s.setJob j).cadence = s.cadence := rfl
@[simp] theorem State.setJob_fxg : (s.setJob j).fxg = s.fxg := rfl
@[simp] theorem State.setJob_fxgGen : (s.setJob j).fxgGen = s.fxgGen := rfl
@[simp] theorem State.setJob_mmuInval : (s.setJob j).mmuInval = s.mmuInval := rfl
@[simp] theorem State.setJob_nextOrder : (s.setJob j).nextOrder = s.nextOrder := rfl
@[simp] theorem State.setJob_landing : (s.setJob j).landing = s.landing := rfl
@[simp] theorem State.setJob_flows : (s.setJob j).flows = s.flows := rfl
@[simp] theorem State.setJob_vtime : (s.setJob j).vtime = s.vtime := rfl
@[simp] theorem State.setJob_flash : (s.setJob j).flash = s.flash := rfl
@[simp] theorem State.setJob_erase : (s.setJob j).erase = s.erase := rfl
@[simp] theorem State.setJob_pf1 : (s.setJob j).pf1 = s.pf1 := rfl
@[simp] theorem State.setJob_ports : (s.setJob j).ports = s.ports := rfl
@[simp] theorem State.setJob_reqs : (s.setJob j).reqs = s.reqs := rfl
@[simp] theorem State.setJob_nextTag : (s.setJob j).nextTag = s.nextTag := rfl
@[simp] theorem State.setJob_segInval : (s.setJob j).segInval = s.segInval := rfl
@[simp] theorem State.setJob_align : (s.setJob j).align = s.align := rfl
@[simp] theorem State.setJob_start : (s.setJob j).start = s.start := rfl
@[simp] theorem State.setJob_power : (s.setJob j).power = s.power := rfl
@[simp] theorem State.setJob_guard : (s.setJob j).guard = s.guard := rfl
@[simp] theorem State.setJob_hbmOff : (s.setJob j).hbmOff = s.hbmOff := rfl
@[simp] theorem State.setJob_dieOff : (s.setJob j).dieOff = s.dieOff := rfl
@[simp] theorem State.setJob_tripped : (s.setJob j).tripped = s.tripped := rfl
@[simp] theorem State.setJob_stopped : (s.setJob j).stopped = s.stopped := rfl
@[simp] theorem State.setJob_fatal : (s.setJob j).fatal = s.fatal := rfl
@[simp] theorem State.setJob_logPrimary : (s.setJob j).logPrimary = s.logPrimary := rfl
@[simp] theorem State.setJob_logSecondary : (s.setJob j).logSecondary = s.logSecondary := rfl
@[simp] theorem State.setJob_logSecondaryWr : (s.setJob j).logSecondaryWr = s.logSecondaryWr := rfl
@[simp] theorem State.setJob_ceLogged : (s.setJob j).ceLogged = s.ceLogged := rfl
@[simp] theorem State.setJob_recoveries : (s.setJob j).recoveries = s.recoveries := rfl
@[simp] theorem State.setJob_ahead : (s.setJob j).ahead = s.ahead := rfl
@[simp] theorem State.setJob_retried : (s.setJob j).retried = s.retried := rfl
@[simp] theorem State.setJob_failing : (s.setJob j).failing = s.failing := rfl
@[simp] theorem State.setJob_unitsLost : (s.setJob j).unitsLost = s.unitsLost := rfl
@[simp] theorem State.setJob_rows : (s.setJob j).rows = s.rows := rfl
@[simp] theorem State.setJob_passSram : (s.setJob j).passSram = s.passSram := rfl
@[simp] theorem State.setJob_passHbm : (s.setJob j).passHbm = s.passHbm := rfl
@[simp] theorem State.setJob_stop : (s.setJob j).stop = s.stop := rfl
@[simp] theorem State.setJob_selfRefresh : (s.setJob j).selfRefresh = s.selfRefresh := rfl
@[simp] theorem State.setJob_press : (s.setJob j).press = s.press := rfl
@[simp] theorem State.setJob_savedLog : (s.setJob j).savedLog = s.savedLog := rfl
@[simp] theorem State.setJob_sec : (s.setJob j).sec = s.sec := rfl
@[simp] theorem State.setJob_heather : (s.setJob j).heather = s.heather := rfl
@[simp] theorem State.setJob_rings : (s.setJob j).rings = s.rings := rfl
@[simp] theorem State.setJob_hold : (s.setJob j).hold = s.hold := rfl
@[simp] theorem State.setJob_wdog : (s.setJob j).wdog = s.wdog := rfl
@[simp] theorem State.setJob_trace : (s.setJob j).trace = s.trace := rfl
@[simp] theorem State.setJob_traceTime : (s.setJob j).traceTime = s.traceTime := rfl
@[simp] theorem State.setJob_tracePost : (s.setJob j).tracePost = s.tracePost := rfl
@[simp] theorem State.setJob_rowReads : (s.setJob j).rowReads = s.rowReads := rfl
@[simp] theorem State.setJob_writeFail : (s.setJob j).writeFail = s.writeFail := rfl
@[simp] theorem State.setJob_held : (s.setJob j).held = s.held := rfl
@[simp] theorem State.setJob_old : (s.setJob j).old = s.old := rfl
@[simp] theorem State.setJob_hostReads : (s.setJob j).hostReads = s.hostReads := rfl
@[simp] theorem State.setJob_config : (s.setJob j).config = s.config := rfl
end

/-! ### setQueue -/

section
variable (q : Nat) (x : StemQ)
@[simp] theorem State.setQueue_stem : (s.setQueue q x).stem = SMap.set StemQ.empty s.stem q x := rfl
@[simp] theorem State.setQueue_pending : (s.setQueue q x).pending = s.pending := rfl
@[simp] theorem State.setQueue_out : (s.setQueue q x).out = s.out := rfl
@[simp] theorem State.setQueue_free : (s.setQueue q x).free = s.free := rfl
@[simp] theorem State.setQueue_nextCmd : (s.setQueue q x).nextCmd = s.nextCmd := rfl
@[simp] theorem State.setQueue_now : (s.setQueue q x).now = s.now := rfl
@[simp] theorem State.setQueue_mem : (s.setQueue q x).mem = s.mem := rfl
@[simp] theorem State.setQueue_owner : (s.setQueue q x).owner = s.owner := rfl
@[simp] theorem State.setQueue_poison : (s.setQueue q x).poison = s.poison := rfl
@[simp] theorem State.setQueue_eff : (s.setQueue q x).eff = s.eff := rfl
@[simp] theorem State.setQueue_stg : (s.setQueue q x).stg = s.stg := rfl
@[simp] theorem State.setQueue_applies : (s.setQueue q x).applies = s.applies := rfl
@[simp] theorem State.setQueue_cores : (s.setQueue q x).cores = s.cores := rfl
@[simp] theorem State.setQueue_peony : (s.setQueue q x).peony = s.peony := rfl
@[simp] theorem State.setQueue_trees : (s.setQueue q x).trees = s.trees := rfl
@[simp] theorem State.setQueue_walks : (s.setQueue q x).walks = s.walks := rfl
@[simp] theorem State.setQueue_merges : (s.setQueue q x).merges = s.merges := rfl
@[simp] theorem State.setQueue_sessions : (s.setQueue q x).sessions = s.sessions := rfl
@[simp] theorem State.setQueue_rowWork : (s.setQueue q x).rowWork = s.rowWork := rfl
@[simp] theorem State.setQueue_passages : (s.setQueue q x).passages = s.passages := rfl
@[simp] theorem State.setQueue_vocab : (s.setQueue q x).vocab = s.vocab := rfl
@[simp] theorem State.setQueue_grammar : (s.setQueue q x).grammar = s.grammar := rfl
@[simp] theorem State.setQueue_loadNext : (s.setQueue q x).loadNext = s.loadNext := rfl
@[simp] theorem State.setQueue_encRest : (s.setQueue q x).encRest = s.encRest := rfl
@[simp] theorem State.setQueue_cmds : (s.setQueue q x).cmds = s.cmds := rfl
@[simp] theorem State.setQueue_cadence : (s.setQueue q x).cadence = s.cadence := rfl
@[simp] theorem State.setQueue_fxg : (s.setQueue q x).fxg = s.fxg := rfl
@[simp] theorem State.setQueue_fxgGen : (s.setQueue q x).fxgGen = s.fxgGen := rfl
@[simp] theorem State.setQueue_mmuInval : (s.setQueue q x).mmuInval = s.mmuInval := rfl
@[simp] theorem State.setQueue_jobs : (s.setQueue q x).jobs = s.jobs := rfl
@[simp] theorem State.setQueue_nextOrder : (s.setQueue q x).nextOrder = s.nextOrder := rfl
@[simp] theorem State.setQueue_landing : (s.setQueue q x).landing = s.landing := rfl
@[simp] theorem State.setQueue_flows : (s.setQueue q x).flows = s.flows := rfl
@[simp] theorem State.setQueue_vtime : (s.setQueue q x).vtime = s.vtime := rfl
@[simp] theorem State.setQueue_flash : (s.setQueue q x).flash = s.flash := rfl
@[simp] theorem State.setQueue_erase : (s.setQueue q x).erase = s.erase := rfl
@[simp] theorem State.setQueue_pf1 : (s.setQueue q x).pf1 = s.pf1 := rfl
@[simp] theorem State.setQueue_ports : (s.setQueue q x).ports = s.ports := rfl
@[simp] theorem State.setQueue_reqs : (s.setQueue q x).reqs = s.reqs := rfl
@[simp] theorem State.setQueue_nextTag : (s.setQueue q x).nextTag = s.nextTag := rfl
@[simp] theorem State.setQueue_segInval : (s.setQueue q x).segInval = s.segInval := rfl
@[simp] theorem State.setQueue_align : (s.setQueue q x).align = s.align := rfl
@[simp] theorem State.setQueue_start : (s.setQueue q x).start = s.start := rfl
@[simp] theorem State.setQueue_power : (s.setQueue q x).power = s.power := rfl
@[simp] theorem State.setQueue_guard : (s.setQueue q x).guard = s.guard := rfl
@[simp] theorem State.setQueue_hbmOff : (s.setQueue q x).hbmOff = s.hbmOff := rfl
@[simp] theorem State.setQueue_dieOff : (s.setQueue q x).dieOff = s.dieOff := rfl
@[simp] theorem State.setQueue_tripped : (s.setQueue q x).tripped = s.tripped := rfl
@[simp] theorem State.setQueue_stopped : (s.setQueue q x).stopped = s.stopped := rfl
@[simp] theorem State.setQueue_fatal : (s.setQueue q x).fatal = s.fatal := rfl
@[simp] theorem State.setQueue_logPrimary : (s.setQueue q x).logPrimary = s.logPrimary := rfl
@[simp] theorem State.setQueue_logSecondary : (s.setQueue q x).logSecondary = s.logSecondary := rfl
@[simp] theorem State.setQueue_logSecondaryWr : (s.setQueue q x).logSecondaryWr = s.logSecondaryWr := rfl
@[simp] theorem State.setQueue_ceLogged : (s.setQueue q x).ceLogged = s.ceLogged := rfl
@[simp] theorem State.setQueue_recoveries : (s.setQueue q x).recoveries = s.recoveries := rfl
@[simp] theorem State.setQueue_ahead : (s.setQueue q x).ahead = s.ahead := rfl
@[simp] theorem State.setQueue_retried : (s.setQueue q x).retried = s.retried := rfl
@[simp] theorem State.setQueue_failing : (s.setQueue q x).failing = s.failing := rfl
@[simp] theorem State.setQueue_unitsLost : (s.setQueue q x).unitsLost = s.unitsLost := rfl
@[simp] theorem State.setQueue_rows : (s.setQueue q x).rows = s.rows := rfl
@[simp] theorem State.setQueue_passSram : (s.setQueue q x).passSram = s.passSram := rfl
@[simp] theorem State.setQueue_passHbm : (s.setQueue q x).passHbm = s.passHbm := rfl
@[simp] theorem State.setQueue_stop : (s.setQueue q x).stop = s.stop := rfl
@[simp] theorem State.setQueue_selfRefresh : (s.setQueue q x).selfRefresh = s.selfRefresh := rfl
@[simp] theorem State.setQueue_press : (s.setQueue q x).press = s.press := rfl
@[simp] theorem State.setQueue_savedLog : (s.setQueue q x).savedLog = s.savedLog := rfl
@[simp] theorem State.setQueue_sec : (s.setQueue q x).sec = s.sec := rfl
@[simp] theorem State.setQueue_heather : (s.setQueue q x).heather = s.heather := rfl
@[simp] theorem State.setQueue_rings : (s.setQueue q x).rings = s.rings := rfl
@[simp] theorem State.setQueue_hold : (s.setQueue q x).hold = s.hold := rfl
@[simp] theorem State.setQueue_wdog : (s.setQueue q x).wdog = s.wdog := rfl
@[simp] theorem State.setQueue_trace : (s.setQueue q x).trace = s.trace := rfl
@[simp] theorem State.setQueue_traceTime : (s.setQueue q x).traceTime = s.traceTime := rfl
@[simp] theorem State.setQueue_tracePost : (s.setQueue q x).tracePost = s.tracePost := rfl
@[simp] theorem State.setQueue_rowReads : (s.setQueue q x).rowReads = s.rowReads := rfl
@[simp] theorem State.setQueue_writeFail : (s.setQueue q x).writeFail = s.writeFail := rfl
@[simp] theorem State.setQueue_held : (s.setQueue q x).held = s.held := rfl
@[simp] theorem State.setQueue_old : (s.setQueue q x).old = s.old := rfl
@[simp] theorem State.setQueue_hostReads : (s.setQueue q x).hostReads = s.hostReads := rfl
@[simp] theorem State.setQueue_config : (s.setQueue q x).config = s.config := rfl
end

/-! ### setCad -/

section
variable (k : Nat) (x : Cadence)
@[simp] theorem State.setCad_cadence : (s.setCad k x).cadence = SMap.set Cadence.off s.cadence k x := rfl
@[simp] theorem State.setCad_pending : (s.setCad k x).pending = s.pending := rfl
@[simp] theorem State.setCad_out : (s.setCad k x).out = s.out := rfl
@[simp] theorem State.setCad_free : (s.setCad k x).free = s.free := rfl
@[simp] theorem State.setCad_nextCmd : (s.setCad k x).nextCmd = s.nextCmd := rfl
@[simp] theorem State.setCad_now : (s.setCad k x).now = s.now := rfl
@[simp] theorem State.setCad_mem : (s.setCad k x).mem = s.mem := rfl
@[simp] theorem State.setCad_owner : (s.setCad k x).owner = s.owner := rfl
@[simp] theorem State.setCad_poison : (s.setCad k x).poison = s.poison := rfl
@[simp] theorem State.setCad_eff : (s.setCad k x).eff = s.eff := rfl
@[simp] theorem State.setCad_stg : (s.setCad k x).stg = s.stg := rfl
@[simp] theorem State.setCad_applies : (s.setCad k x).applies = s.applies := rfl
@[simp] theorem State.setCad_cores : (s.setCad k x).cores = s.cores := rfl
@[simp] theorem State.setCad_peony : (s.setCad k x).peony = s.peony := rfl
@[simp] theorem State.setCad_trees : (s.setCad k x).trees = s.trees := rfl
@[simp] theorem State.setCad_walks : (s.setCad k x).walks = s.walks := rfl
@[simp] theorem State.setCad_merges : (s.setCad k x).merges = s.merges := rfl
@[simp] theorem State.setCad_sessions : (s.setCad k x).sessions = s.sessions := rfl
@[simp] theorem State.setCad_rowWork : (s.setCad k x).rowWork = s.rowWork := rfl
@[simp] theorem State.setCad_passages : (s.setCad k x).passages = s.passages := rfl
@[simp] theorem State.setCad_vocab : (s.setCad k x).vocab = s.vocab := rfl
@[simp] theorem State.setCad_grammar : (s.setCad k x).grammar = s.grammar := rfl
@[simp] theorem State.setCad_loadNext : (s.setCad k x).loadNext = s.loadNext := rfl
@[simp] theorem State.setCad_encRest : (s.setCad k x).encRest = s.encRest := rfl
@[simp] theorem State.setCad_cmds : (s.setCad k x).cmds = s.cmds := rfl
@[simp] theorem State.setCad_stem : (s.setCad k x).stem = s.stem := rfl
@[simp] theorem State.setCad_fxg : (s.setCad k x).fxg = s.fxg := rfl
@[simp] theorem State.setCad_fxgGen : (s.setCad k x).fxgGen = s.fxgGen := rfl
@[simp] theorem State.setCad_mmuInval : (s.setCad k x).mmuInval = s.mmuInval := rfl
@[simp] theorem State.setCad_jobs : (s.setCad k x).jobs = s.jobs := rfl
@[simp] theorem State.setCad_nextOrder : (s.setCad k x).nextOrder = s.nextOrder := rfl
@[simp] theorem State.setCad_landing : (s.setCad k x).landing = s.landing := rfl
@[simp] theorem State.setCad_flows : (s.setCad k x).flows = s.flows := rfl
@[simp] theorem State.setCad_vtime : (s.setCad k x).vtime = s.vtime := rfl
@[simp] theorem State.setCad_flash : (s.setCad k x).flash = s.flash := rfl
@[simp] theorem State.setCad_erase : (s.setCad k x).erase = s.erase := rfl
@[simp] theorem State.setCad_pf1 : (s.setCad k x).pf1 = s.pf1 := rfl
@[simp] theorem State.setCad_ports : (s.setCad k x).ports = s.ports := rfl
@[simp] theorem State.setCad_reqs : (s.setCad k x).reqs = s.reqs := rfl
@[simp] theorem State.setCad_nextTag : (s.setCad k x).nextTag = s.nextTag := rfl
@[simp] theorem State.setCad_segInval : (s.setCad k x).segInval = s.segInval := rfl
@[simp] theorem State.setCad_align : (s.setCad k x).align = s.align := rfl
@[simp] theorem State.setCad_start : (s.setCad k x).start = s.start := rfl
@[simp] theorem State.setCad_power : (s.setCad k x).power = s.power := rfl
@[simp] theorem State.setCad_guard : (s.setCad k x).guard = s.guard := rfl
@[simp] theorem State.setCad_hbmOff : (s.setCad k x).hbmOff = s.hbmOff := rfl
@[simp] theorem State.setCad_dieOff : (s.setCad k x).dieOff = s.dieOff := rfl
@[simp] theorem State.setCad_tripped : (s.setCad k x).tripped = s.tripped := rfl
@[simp] theorem State.setCad_stopped : (s.setCad k x).stopped = s.stopped := rfl
@[simp] theorem State.setCad_fatal : (s.setCad k x).fatal = s.fatal := rfl
@[simp] theorem State.setCad_logPrimary : (s.setCad k x).logPrimary = s.logPrimary := rfl
@[simp] theorem State.setCad_logSecondary : (s.setCad k x).logSecondary = s.logSecondary := rfl
@[simp] theorem State.setCad_logSecondaryWr : (s.setCad k x).logSecondaryWr = s.logSecondaryWr := rfl
@[simp] theorem State.setCad_ceLogged : (s.setCad k x).ceLogged = s.ceLogged := rfl
@[simp] theorem State.setCad_recoveries : (s.setCad k x).recoveries = s.recoveries := rfl
@[simp] theorem State.setCad_ahead : (s.setCad k x).ahead = s.ahead := rfl
@[simp] theorem State.setCad_retried : (s.setCad k x).retried = s.retried := rfl
@[simp] theorem State.setCad_failing : (s.setCad k x).failing = s.failing := rfl
@[simp] theorem State.setCad_unitsLost : (s.setCad k x).unitsLost = s.unitsLost := rfl
@[simp] theorem State.setCad_rows : (s.setCad k x).rows = s.rows := rfl
@[simp] theorem State.setCad_passSram : (s.setCad k x).passSram = s.passSram := rfl
@[simp] theorem State.setCad_passHbm : (s.setCad k x).passHbm = s.passHbm := rfl
@[simp] theorem State.setCad_stop : (s.setCad k x).stop = s.stop := rfl
@[simp] theorem State.setCad_selfRefresh : (s.setCad k x).selfRefresh = s.selfRefresh := rfl
@[simp] theorem State.setCad_press : (s.setCad k x).press = s.press := rfl
@[simp] theorem State.setCad_savedLog : (s.setCad k x).savedLog = s.savedLog := rfl
@[simp] theorem State.setCad_sec : (s.setCad k x).sec = s.sec := rfl
@[simp] theorem State.setCad_heather : (s.setCad k x).heather = s.heather := rfl
@[simp] theorem State.setCad_rings : (s.setCad k x).rings = s.rings := rfl
@[simp] theorem State.setCad_hold : (s.setCad k x).hold = s.hold := rfl
@[simp] theorem State.setCad_wdog : (s.setCad k x).wdog = s.wdog := rfl
@[simp] theorem State.setCad_trace : (s.setCad k x).trace = s.trace := rfl
@[simp] theorem State.setCad_traceTime : (s.setCad k x).traceTime = s.traceTime := rfl
@[simp] theorem State.setCad_tracePost : (s.setCad k x).tracePost = s.tracePost := rfl
@[simp] theorem State.setCad_rowReads : (s.setCad k x).rowReads = s.rowReads := rfl
@[simp] theorem State.setCad_writeFail : (s.setCad k x).writeFail = s.writeFail := rfl
@[simp] theorem State.setCad_held : (s.setCad k x).held = s.held := rfl
@[simp] theorem State.setCad_old : (s.setCad k x).old = s.old := rfl
@[simp] theorem State.setCad_hostReads : (s.setCad k x).hostReads = s.hostReads := rfl
@[simp] theorem State.setCad_config : (s.setCad k x).config = s.config := rfl
end

/-! ### setFlow -/

section
variable (k : Nat) (f : Flow)
@[simp] theorem State.setFlow_flows : (s.setFlow k f).flows = SMap.set Flow.fresh s.flows k f := rfl
@[simp] theorem State.setFlow_pending : (s.setFlow k f).pending = s.pending := rfl
@[simp] theorem State.setFlow_out : (s.setFlow k f).out = s.out := rfl
@[simp] theorem State.setFlow_free : (s.setFlow k f).free = s.free := rfl
@[simp] theorem State.setFlow_nextCmd : (s.setFlow k f).nextCmd = s.nextCmd := rfl
@[simp] theorem State.setFlow_now : (s.setFlow k f).now = s.now := rfl
@[simp] theorem State.setFlow_mem : (s.setFlow k f).mem = s.mem := rfl
@[simp] theorem State.setFlow_owner : (s.setFlow k f).owner = s.owner := rfl
@[simp] theorem State.setFlow_poison : (s.setFlow k f).poison = s.poison := rfl
@[simp] theorem State.setFlow_eff : (s.setFlow k f).eff = s.eff := rfl
@[simp] theorem State.setFlow_stg : (s.setFlow k f).stg = s.stg := rfl
@[simp] theorem State.setFlow_applies : (s.setFlow k f).applies = s.applies := rfl
@[simp] theorem State.setFlow_cores : (s.setFlow k f).cores = s.cores := rfl
@[simp] theorem State.setFlow_peony : (s.setFlow k f).peony = s.peony := rfl
@[simp] theorem State.setFlow_trees : (s.setFlow k f).trees = s.trees := rfl
@[simp] theorem State.setFlow_walks : (s.setFlow k f).walks = s.walks := rfl
@[simp] theorem State.setFlow_merges : (s.setFlow k f).merges = s.merges := rfl
@[simp] theorem State.setFlow_sessions : (s.setFlow k f).sessions = s.sessions := rfl
@[simp] theorem State.setFlow_rowWork : (s.setFlow k f).rowWork = s.rowWork := rfl
@[simp] theorem State.setFlow_passages : (s.setFlow k f).passages = s.passages := rfl
@[simp] theorem State.setFlow_vocab : (s.setFlow k f).vocab = s.vocab := rfl
@[simp] theorem State.setFlow_grammar : (s.setFlow k f).grammar = s.grammar := rfl
@[simp] theorem State.setFlow_loadNext : (s.setFlow k f).loadNext = s.loadNext := rfl
@[simp] theorem State.setFlow_encRest : (s.setFlow k f).encRest = s.encRest := rfl
@[simp] theorem State.setFlow_cmds : (s.setFlow k f).cmds = s.cmds := rfl
@[simp] theorem State.setFlow_stem : (s.setFlow k f).stem = s.stem := rfl
@[simp] theorem State.setFlow_cadence : (s.setFlow k f).cadence = s.cadence := rfl
@[simp] theorem State.setFlow_fxg : (s.setFlow k f).fxg = s.fxg := rfl
@[simp] theorem State.setFlow_fxgGen : (s.setFlow k f).fxgGen = s.fxgGen := rfl
@[simp] theorem State.setFlow_mmuInval : (s.setFlow k f).mmuInval = s.mmuInval := rfl
@[simp] theorem State.setFlow_jobs : (s.setFlow k f).jobs = s.jobs := rfl
@[simp] theorem State.setFlow_nextOrder : (s.setFlow k f).nextOrder = s.nextOrder := rfl
@[simp] theorem State.setFlow_landing : (s.setFlow k f).landing = s.landing := rfl
@[simp] theorem State.setFlow_vtime : (s.setFlow k f).vtime = s.vtime := rfl
@[simp] theorem State.setFlow_flash : (s.setFlow k f).flash = s.flash := rfl
@[simp] theorem State.setFlow_erase : (s.setFlow k f).erase = s.erase := rfl
@[simp] theorem State.setFlow_pf1 : (s.setFlow k f).pf1 = s.pf1 := rfl
@[simp] theorem State.setFlow_ports : (s.setFlow k f).ports = s.ports := rfl
@[simp] theorem State.setFlow_reqs : (s.setFlow k f).reqs = s.reqs := rfl
@[simp] theorem State.setFlow_nextTag : (s.setFlow k f).nextTag = s.nextTag := rfl
@[simp] theorem State.setFlow_segInval : (s.setFlow k f).segInval = s.segInval := rfl
@[simp] theorem State.setFlow_align : (s.setFlow k f).align = s.align := rfl
@[simp] theorem State.setFlow_start : (s.setFlow k f).start = s.start := rfl
@[simp] theorem State.setFlow_power : (s.setFlow k f).power = s.power := rfl
@[simp] theorem State.setFlow_guard : (s.setFlow k f).guard = s.guard := rfl
@[simp] theorem State.setFlow_hbmOff : (s.setFlow k f).hbmOff = s.hbmOff := rfl
@[simp] theorem State.setFlow_dieOff : (s.setFlow k f).dieOff = s.dieOff := rfl
@[simp] theorem State.setFlow_tripped : (s.setFlow k f).tripped = s.tripped := rfl
@[simp] theorem State.setFlow_stopped : (s.setFlow k f).stopped = s.stopped := rfl
@[simp] theorem State.setFlow_fatal : (s.setFlow k f).fatal = s.fatal := rfl
@[simp] theorem State.setFlow_logPrimary : (s.setFlow k f).logPrimary = s.logPrimary := rfl
@[simp] theorem State.setFlow_logSecondary : (s.setFlow k f).logSecondary = s.logSecondary := rfl
@[simp] theorem State.setFlow_logSecondaryWr : (s.setFlow k f).logSecondaryWr = s.logSecondaryWr := rfl
@[simp] theorem State.setFlow_ceLogged : (s.setFlow k f).ceLogged = s.ceLogged := rfl
@[simp] theorem State.setFlow_recoveries : (s.setFlow k f).recoveries = s.recoveries := rfl
@[simp] theorem State.setFlow_ahead : (s.setFlow k f).ahead = s.ahead := rfl
@[simp] theorem State.setFlow_retried : (s.setFlow k f).retried = s.retried := rfl
@[simp] theorem State.setFlow_failing : (s.setFlow k f).failing = s.failing := rfl
@[simp] theorem State.setFlow_unitsLost : (s.setFlow k f).unitsLost = s.unitsLost := rfl
@[simp] theorem State.setFlow_rows : (s.setFlow k f).rows = s.rows := rfl
@[simp] theorem State.setFlow_passSram : (s.setFlow k f).passSram = s.passSram := rfl
@[simp] theorem State.setFlow_passHbm : (s.setFlow k f).passHbm = s.passHbm := rfl
@[simp] theorem State.setFlow_stop : (s.setFlow k f).stop = s.stop := rfl
@[simp] theorem State.setFlow_selfRefresh : (s.setFlow k f).selfRefresh = s.selfRefresh := rfl
@[simp] theorem State.setFlow_press : (s.setFlow k f).press = s.press := rfl
@[simp] theorem State.setFlow_savedLog : (s.setFlow k f).savedLog = s.savedLog := rfl
@[simp] theorem State.setFlow_sec : (s.setFlow k f).sec = s.sec := rfl
@[simp] theorem State.setFlow_heather : (s.setFlow k f).heather = s.heather := rfl
@[simp] theorem State.setFlow_rings : (s.setFlow k f).rings = s.rings := rfl
@[simp] theorem State.setFlow_hold : (s.setFlow k f).hold = s.hold := rfl
@[simp] theorem State.setFlow_wdog : (s.setFlow k f).wdog = s.wdog := rfl
@[simp] theorem State.setFlow_trace : (s.setFlow k f).trace = s.trace := rfl
@[simp] theorem State.setFlow_traceTime : (s.setFlow k f).traceTime = s.traceTime := rfl
@[simp] theorem State.setFlow_tracePost : (s.setFlow k f).tracePost = s.tracePost := rfl
@[simp] theorem State.setFlow_rowReads : (s.setFlow k f).rowReads = s.rowReads := rfl
@[simp] theorem State.setFlow_writeFail : (s.setFlow k f).writeFail = s.writeFail := rfl
@[simp] theorem State.setFlow_held : (s.setFlow k f).held = s.held := rfl
@[simp] theorem State.setFlow_old : (s.setFlow k f).old = s.old := rfl
@[simp] theorem State.setFlow_hostReads : (s.setFlow k f).hostReads = s.hostReads := rfl
@[simp] theorem State.setFlow_config : (s.setFlow k f).config = s.config := rfl
end

/-! ### setPort -/

section
variable (p : Nat) (x : Port)
@[simp] theorem State.setPort_ports : (s.setPort p x).ports = SMap.set Port.reset s.ports p x := rfl
@[simp] theorem State.setPort_pending : (s.setPort p x).pending = s.pending := rfl
@[simp] theorem State.setPort_out : (s.setPort p x).out = s.out := rfl
@[simp] theorem State.setPort_free : (s.setPort p x).free = s.free := rfl
@[simp] theorem State.setPort_nextCmd : (s.setPort p x).nextCmd = s.nextCmd := rfl
@[simp] theorem State.setPort_now : (s.setPort p x).now = s.now := rfl
@[simp] theorem State.setPort_mem : (s.setPort p x).mem = s.mem := rfl
@[simp] theorem State.setPort_owner : (s.setPort p x).owner = s.owner := rfl
@[simp] theorem State.setPort_poison : (s.setPort p x).poison = s.poison := rfl
@[simp] theorem State.setPort_eff : (s.setPort p x).eff = s.eff := rfl
@[simp] theorem State.setPort_stg : (s.setPort p x).stg = s.stg := rfl
@[simp] theorem State.setPort_applies : (s.setPort p x).applies = s.applies := rfl
@[simp] theorem State.setPort_cores : (s.setPort p x).cores = s.cores := rfl
@[simp] theorem State.setPort_peony : (s.setPort p x).peony = s.peony := rfl
@[simp] theorem State.setPort_trees : (s.setPort p x).trees = s.trees := rfl
@[simp] theorem State.setPort_walks : (s.setPort p x).walks = s.walks := rfl
@[simp] theorem State.setPort_merges : (s.setPort p x).merges = s.merges := rfl
@[simp] theorem State.setPort_sessions : (s.setPort p x).sessions = s.sessions := rfl
@[simp] theorem State.setPort_rowWork : (s.setPort p x).rowWork = s.rowWork := rfl
@[simp] theorem State.setPort_passages : (s.setPort p x).passages = s.passages := rfl
@[simp] theorem State.setPort_vocab : (s.setPort p x).vocab = s.vocab := rfl
@[simp] theorem State.setPort_grammar : (s.setPort p x).grammar = s.grammar := rfl
@[simp] theorem State.setPort_loadNext : (s.setPort p x).loadNext = s.loadNext := rfl
@[simp] theorem State.setPort_encRest : (s.setPort p x).encRest = s.encRest := rfl
@[simp] theorem State.setPort_cmds : (s.setPort p x).cmds = s.cmds := rfl
@[simp] theorem State.setPort_stem : (s.setPort p x).stem = s.stem := rfl
@[simp] theorem State.setPort_cadence : (s.setPort p x).cadence = s.cadence := rfl
@[simp] theorem State.setPort_fxg : (s.setPort p x).fxg = s.fxg := rfl
@[simp] theorem State.setPort_fxgGen : (s.setPort p x).fxgGen = s.fxgGen := rfl
@[simp] theorem State.setPort_mmuInval : (s.setPort p x).mmuInval = s.mmuInval := rfl
@[simp] theorem State.setPort_jobs : (s.setPort p x).jobs = s.jobs := rfl
@[simp] theorem State.setPort_nextOrder : (s.setPort p x).nextOrder = s.nextOrder := rfl
@[simp] theorem State.setPort_landing : (s.setPort p x).landing = s.landing := rfl
@[simp] theorem State.setPort_flows : (s.setPort p x).flows = s.flows := rfl
@[simp] theorem State.setPort_vtime : (s.setPort p x).vtime = s.vtime := rfl
@[simp] theorem State.setPort_flash : (s.setPort p x).flash = s.flash := rfl
@[simp] theorem State.setPort_erase : (s.setPort p x).erase = s.erase := rfl
@[simp] theorem State.setPort_pf1 : (s.setPort p x).pf1 = s.pf1 := rfl
@[simp] theorem State.setPort_reqs : (s.setPort p x).reqs = s.reqs := rfl
@[simp] theorem State.setPort_nextTag : (s.setPort p x).nextTag = s.nextTag := rfl
@[simp] theorem State.setPort_segInval : (s.setPort p x).segInval = s.segInval := rfl
@[simp] theorem State.setPort_align : (s.setPort p x).align = s.align := rfl
@[simp] theorem State.setPort_start : (s.setPort p x).start = s.start := rfl
@[simp] theorem State.setPort_power : (s.setPort p x).power = s.power := rfl
@[simp] theorem State.setPort_guard : (s.setPort p x).guard = s.guard := rfl
@[simp] theorem State.setPort_hbmOff : (s.setPort p x).hbmOff = s.hbmOff := rfl
@[simp] theorem State.setPort_dieOff : (s.setPort p x).dieOff = s.dieOff := rfl
@[simp] theorem State.setPort_tripped : (s.setPort p x).tripped = s.tripped := rfl
@[simp] theorem State.setPort_stopped : (s.setPort p x).stopped = s.stopped := rfl
@[simp] theorem State.setPort_fatal : (s.setPort p x).fatal = s.fatal := rfl
@[simp] theorem State.setPort_logPrimary : (s.setPort p x).logPrimary = s.logPrimary := rfl
@[simp] theorem State.setPort_logSecondary : (s.setPort p x).logSecondary = s.logSecondary := rfl
@[simp] theorem State.setPort_logSecondaryWr : (s.setPort p x).logSecondaryWr = s.logSecondaryWr := rfl
@[simp] theorem State.setPort_ceLogged : (s.setPort p x).ceLogged = s.ceLogged := rfl
@[simp] theorem State.setPort_recoveries : (s.setPort p x).recoveries = s.recoveries := rfl
@[simp] theorem State.setPort_ahead : (s.setPort p x).ahead = s.ahead := rfl
@[simp] theorem State.setPort_retried : (s.setPort p x).retried = s.retried := rfl
@[simp] theorem State.setPort_failing : (s.setPort p x).failing = s.failing := rfl
@[simp] theorem State.setPort_unitsLost : (s.setPort p x).unitsLost = s.unitsLost := rfl
@[simp] theorem State.setPort_rows : (s.setPort p x).rows = s.rows := rfl
@[simp] theorem State.setPort_passSram : (s.setPort p x).passSram = s.passSram := rfl
@[simp] theorem State.setPort_passHbm : (s.setPort p x).passHbm = s.passHbm := rfl
@[simp] theorem State.setPort_stop : (s.setPort p x).stop = s.stop := rfl
@[simp] theorem State.setPort_selfRefresh : (s.setPort p x).selfRefresh = s.selfRefresh := rfl
@[simp] theorem State.setPort_press : (s.setPort p x).press = s.press := rfl
@[simp] theorem State.setPort_savedLog : (s.setPort p x).savedLog = s.savedLog := rfl
@[simp] theorem State.setPort_sec : (s.setPort p x).sec = s.sec := rfl
@[simp] theorem State.setPort_heather : (s.setPort p x).heather = s.heather := rfl
@[simp] theorem State.setPort_rings : (s.setPort p x).rings = s.rings := rfl
@[simp] theorem State.setPort_hold : (s.setPort p x).hold = s.hold := rfl
@[simp] theorem State.setPort_wdog : (s.setPort p x).wdog = s.wdog := rfl
@[simp] theorem State.setPort_trace : (s.setPort p x).trace = s.trace := rfl
@[simp] theorem State.setPort_traceTime : (s.setPort p x).traceTime = s.traceTime := rfl
@[simp] theorem State.setPort_tracePost : (s.setPort p x).tracePost = s.tracePost := rfl
@[simp] theorem State.setPort_rowReads : (s.setPort p x).rowReads = s.rowReads := rfl
@[simp] theorem State.setPort_writeFail : (s.setPort p x).writeFail = s.writeFail := rfl
@[simp] theorem State.setPort_held : (s.setPort p x).held = s.held := rfl
@[simp] theorem State.setPort_old : (s.setPort p x).old = s.old := rfl
@[simp] theorem State.setPort_hostReads : (s.setPort p x).hostReads = s.hostReads := rfl
@[simp] theorem State.setPort_config : (s.setPort p x).config = s.config := rfl
end

/-! ### setRing -/

section
variable (f k : Nat) (r : Ring)
@[simp] theorem State.setRing_rings : (s.setRing f k r).rings = SMap.set Ring.reset s.rings (64 * f + k) r := rfl
@[simp] theorem State.setRing_pending : (s.setRing f k r).pending = s.pending := rfl
@[simp] theorem State.setRing_out : (s.setRing f k r).out = s.out := rfl
@[simp] theorem State.setRing_free : (s.setRing f k r).free = s.free := rfl
@[simp] theorem State.setRing_nextCmd : (s.setRing f k r).nextCmd = s.nextCmd := rfl
@[simp] theorem State.setRing_now : (s.setRing f k r).now = s.now := rfl
@[simp] theorem State.setRing_mem : (s.setRing f k r).mem = s.mem := rfl
@[simp] theorem State.setRing_owner : (s.setRing f k r).owner = s.owner := rfl
@[simp] theorem State.setRing_poison : (s.setRing f k r).poison = s.poison := rfl
@[simp] theorem State.setRing_eff : (s.setRing f k r).eff = s.eff := rfl
@[simp] theorem State.setRing_stg : (s.setRing f k r).stg = s.stg := rfl
@[simp] theorem State.setRing_applies : (s.setRing f k r).applies = s.applies := rfl
@[simp] theorem State.setRing_cores : (s.setRing f k r).cores = s.cores := rfl
@[simp] theorem State.setRing_peony : (s.setRing f k r).peony = s.peony := rfl
@[simp] theorem State.setRing_trees : (s.setRing f k r).trees = s.trees := rfl
@[simp] theorem State.setRing_walks : (s.setRing f k r).walks = s.walks := rfl
@[simp] theorem State.setRing_merges : (s.setRing f k r).merges = s.merges := rfl
@[simp] theorem State.setRing_sessions : (s.setRing f k r).sessions = s.sessions := rfl
@[simp] theorem State.setRing_rowWork : (s.setRing f k r).rowWork = s.rowWork := rfl
@[simp] theorem State.setRing_passages : (s.setRing f k r).passages = s.passages := rfl
@[simp] theorem State.setRing_vocab : (s.setRing f k r).vocab = s.vocab := rfl
@[simp] theorem State.setRing_grammar : (s.setRing f k r).grammar = s.grammar := rfl
@[simp] theorem State.setRing_loadNext : (s.setRing f k r).loadNext = s.loadNext := rfl
@[simp] theorem State.setRing_encRest : (s.setRing f k r).encRest = s.encRest := rfl
@[simp] theorem State.setRing_cmds : (s.setRing f k r).cmds = s.cmds := rfl
@[simp] theorem State.setRing_stem : (s.setRing f k r).stem = s.stem := rfl
@[simp] theorem State.setRing_cadence : (s.setRing f k r).cadence = s.cadence := rfl
@[simp] theorem State.setRing_fxg : (s.setRing f k r).fxg = s.fxg := rfl
@[simp] theorem State.setRing_fxgGen : (s.setRing f k r).fxgGen = s.fxgGen := rfl
@[simp] theorem State.setRing_mmuInval : (s.setRing f k r).mmuInval = s.mmuInval := rfl
@[simp] theorem State.setRing_jobs : (s.setRing f k r).jobs = s.jobs := rfl
@[simp] theorem State.setRing_nextOrder : (s.setRing f k r).nextOrder = s.nextOrder := rfl
@[simp] theorem State.setRing_landing : (s.setRing f k r).landing = s.landing := rfl
@[simp] theorem State.setRing_flows : (s.setRing f k r).flows = s.flows := rfl
@[simp] theorem State.setRing_vtime : (s.setRing f k r).vtime = s.vtime := rfl
@[simp] theorem State.setRing_flash : (s.setRing f k r).flash = s.flash := rfl
@[simp] theorem State.setRing_erase : (s.setRing f k r).erase = s.erase := rfl
@[simp] theorem State.setRing_pf1 : (s.setRing f k r).pf1 = s.pf1 := rfl
@[simp] theorem State.setRing_ports : (s.setRing f k r).ports = s.ports := rfl
@[simp] theorem State.setRing_reqs : (s.setRing f k r).reqs = s.reqs := rfl
@[simp] theorem State.setRing_nextTag : (s.setRing f k r).nextTag = s.nextTag := rfl
@[simp] theorem State.setRing_segInval : (s.setRing f k r).segInval = s.segInval := rfl
@[simp] theorem State.setRing_align : (s.setRing f k r).align = s.align := rfl
@[simp] theorem State.setRing_start : (s.setRing f k r).start = s.start := rfl
@[simp] theorem State.setRing_power : (s.setRing f k r).power = s.power := rfl
@[simp] theorem State.setRing_guard : (s.setRing f k r).guard = s.guard := rfl
@[simp] theorem State.setRing_hbmOff : (s.setRing f k r).hbmOff = s.hbmOff := rfl
@[simp] theorem State.setRing_dieOff : (s.setRing f k r).dieOff = s.dieOff := rfl
@[simp] theorem State.setRing_tripped : (s.setRing f k r).tripped = s.tripped := rfl
@[simp] theorem State.setRing_stopped : (s.setRing f k r).stopped = s.stopped := rfl
@[simp] theorem State.setRing_fatal : (s.setRing f k r).fatal = s.fatal := rfl
@[simp] theorem State.setRing_logPrimary : (s.setRing f k r).logPrimary = s.logPrimary := rfl
@[simp] theorem State.setRing_logSecondary : (s.setRing f k r).logSecondary = s.logSecondary := rfl
@[simp] theorem State.setRing_logSecondaryWr : (s.setRing f k r).logSecondaryWr = s.logSecondaryWr := rfl
@[simp] theorem State.setRing_ceLogged : (s.setRing f k r).ceLogged = s.ceLogged := rfl
@[simp] theorem State.setRing_recoveries : (s.setRing f k r).recoveries = s.recoveries := rfl
@[simp] theorem State.setRing_ahead : (s.setRing f k r).ahead = s.ahead := rfl
@[simp] theorem State.setRing_retried : (s.setRing f k r).retried = s.retried := rfl
@[simp] theorem State.setRing_failing : (s.setRing f k r).failing = s.failing := rfl
@[simp] theorem State.setRing_unitsLost : (s.setRing f k r).unitsLost = s.unitsLost := rfl
@[simp] theorem State.setRing_rows : (s.setRing f k r).rows = s.rows := rfl
@[simp] theorem State.setRing_passSram : (s.setRing f k r).passSram = s.passSram := rfl
@[simp] theorem State.setRing_passHbm : (s.setRing f k r).passHbm = s.passHbm := rfl
@[simp] theorem State.setRing_stop : (s.setRing f k r).stop = s.stop := rfl
@[simp] theorem State.setRing_selfRefresh : (s.setRing f k r).selfRefresh = s.selfRefresh := rfl
@[simp] theorem State.setRing_press : (s.setRing f k r).press = s.press := rfl
@[simp] theorem State.setRing_savedLog : (s.setRing f k r).savedLog = s.savedLog := rfl
@[simp] theorem State.setRing_sec : (s.setRing f k r).sec = s.sec := rfl
@[simp] theorem State.setRing_heather : (s.setRing f k r).heather = s.heather := rfl
@[simp] theorem State.setRing_hold : (s.setRing f k r).hold = s.hold := rfl
@[simp] theorem State.setRing_wdog : (s.setRing f k r).wdog = s.wdog := rfl
@[simp] theorem State.setRing_trace : (s.setRing f k r).trace = s.trace := rfl
@[simp] theorem State.setRing_traceTime : (s.setRing f k r).traceTime = s.traceTime := rfl
@[simp] theorem State.setRing_tracePost : (s.setRing f k r).tracePost = s.tracePost := rfl
@[simp] theorem State.setRing_rowReads : (s.setRing f k r).rowReads = s.rowReads := rfl
@[simp] theorem State.setRing_writeFail : (s.setRing f k r).writeFail = s.writeFail := rfl
@[simp] theorem State.setRing_held : (s.setRing f k r).held = s.held := rfl
@[simp] theorem State.setRing_old : (s.setRing f k r).old = s.old := rfl
@[simp] theorem State.setRing_hostReads : (s.setRing f k r).hostReads = s.hostReads := rfl
@[simp] theorem State.setRing_config : (s.setRing f k r).config = s.config := rfl
end

/-! ### putBytes -/

section
variable (a : Nat) (bs : List Byte)
@[simp] theorem State.putBytes_mem : (s.putBytes a bs).mem = Mem.setBytes s.mem a bs := rfl
@[simp] theorem State.putBytes_pending : (s.putBytes a bs).pending = s.pending := rfl
@[simp] theorem State.putBytes_out : (s.putBytes a bs).out = s.out := rfl
@[simp] theorem State.putBytes_free : (s.putBytes a bs).free = s.free := rfl
@[simp] theorem State.putBytes_nextCmd : (s.putBytes a bs).nextCmd = s.nextCmd := rfl
@[simp] theorem State.putBytes_now : (s.putBytes a bs).now = s.now := rfl
@[simp] theorem State.putBytes_owner : (s.putBytes a bs).owner = s.owner := rfl
@[simp] theorem State.putBytes_poison : (s.putBytes a bs).poison = s.poison := rfl
@[simp] theorem State.putBytes_eff : (s.putBytes a bs).eff = s.eff := rfl
@[simp] theorem State.putBytes_stg : (s.putBytes a bs).stg = s.stg := rfl
@[simp] theorem State.putBytes_applies : (s.putBytes a bs).applies = s.applies := rfl
@[simp] theorem State.putBytes_cores : (s.putBytes a bs).cores = s.cores := rfl
@[simp] theorem State.putBytes_peony : (s.putBytes a bs).peony = s.peony := rfl
@[simp] theorem State.putBytes_trees : (s.putBytes a bs).trees = s.trees := rfl
@[simp] theorem State.putBytes_walks : (s.putBytes a bs).walks = s.walks := rfl
@[simp] theorem State.putBytes_merges : (s.putBytes a bs).merges = s.merges := rfl
@[simp] theorem State.putBytes_sessions : (s.putBytes a bs).sessions = s.sessions := rfl
@[simp] theorem State.putBytes_rowWork : (s.putBytes a bs).rowWork = s.rowWork := rfl
@[simp] theorem State.putBytes_passages : (s.putBytes a bs).passages = s.passages := rfl
@[simp] theorem State.putBytes_vocab : (s.putBytes a bs).vocab = s.vocab := rfl
@[simp] theorem State.putBytes_grammar : (s.putBytes a bs).grammar = s.grammar := rfl
@[simp] theorem State.putBytes_loadNext : (s.putBytes a bs).loadNext = s.loadNext := rfl
@[simp] theorem State.putBytes_encRest : (s.putBytes a bs).encRest = s.encRest := rfl
@[simp] theorem State.putBytes_cmds : (s.putBytes a bs).cmds = s.cmds := rfl
@[simp] theorem State.putBytes_stem : (s.putBytes a bs).stem = s.stem := rfl
@[simp] theorem State.putBytes_cadence : (s.putBytes a bs).cadence = s.cadence := rfl
@[simp] theorem State.putBytes_fxg : (s.putBytes a bs).fxg = s.fxg := rfl
@[simp] theorem State.putBytes_fxgGen : (s.putBytes a bs).fxgGen = s.fxgGen := rfl
@[simp] theorem State.putBytes_mmuInval : (s.putBytes a bs).mmuInval = s.mmuInval := rfl
@[simp] theorem State.putBytes_jobs : (s.putBytes a bs).jobs = s.jobs := rfl
@[simp] theorem State.putBytes_nextOrder : (s.putBytes a bs).nextOrder = s.nextOrder := rfl
@[simp] theorem State.putBytes_landing : (s.putBytes a bs).landing = s.landing := rfl
@[simp] theorem State.putBytes_flows : (s.putBytes a bs).flows = s.flows := rfl
@[simp] theorem State.putBytes_vtime : (s.putBytes a bs).vtime = s.vtime := rfl
@[simp] theorem State.putBytes_flash : (s.putBytes a bs).flash = s.flash := rfl
@[simp] theorem State.putBytes_erase : (s.putBytes a bs).erase = s.erase := rfl
@[simp] theorem State.putBytes_pf1 : (s.putBytes a bs).pf1 = s.pf1 := rfl
@[simp] theorem State.putBytes_ports : (s.putBytes a bs).ports = s.ports := rfl
@[simp] theorem State.putBytes_reqs : (s.putBytes a bs).reqs = s.reqs := rfl
@[simp] theorem State.putBytes_nextTag : (s.putBytes a bs).nextTag = s.nextTag := rfl
@[simp] theorem State.putBytes_segInval : (s.putBytes a bs).segInval = s.segInval := rfl
@[simp] theorem State.putBytes_align : (s.putBytes a bs).align = s.align := rfl
@[simp] theorem State.putBytes_start : (s.putBytes a bs).start = s.start := rfl
@[simp] theorem State.putBytes_power : (s.putBytes a bs).power = s.power := rfl
@[simp] theorem State.putBytes_guard : (s.putBytes a bs).guard = s.guard := rfl
@[simp] theorem State.putBytes_hbmOff : (s.putBytes a bs).hbmOff = s.hbmOff := rfl
@[simp] theorem State.putBytes_dieOff : (s.putBytes a bs).dieOff = s.dieOff := rfl
@[simp] theorem State.putBytes_tripped : (s.putBytes a bs).tripped = s.tripped := rfl
@[simp] theorem State.putBytes_stopped : (s.putBytes a bs).stopped = s.stopped := rfl
@[simp] theorem State.putBytes_fatal : (s.putBytes a bs).fatal = s.fatal := rfl
@[simp] theorem State.putBytes_logPrimary : (s.putBytes a bs).logPrimary = s.logPrimary := rfl
@[simp] theorem State.putBytes_logSecondary : (s.putBytes a bs).logSecondary = s.logSecondary := rfl
@[simp] theorem State.putBytes_logSecondaryWr : (s.putBytes a bs).logSecondaryWr = s.logSecondaryWr := rfl
@[simp] theorem State.putBytes_ceLogged : (s.putBytes a bs).ceLogged = s.ceLogged := rfl
@[simp] theorem State.putBytes_recoveries : (s.putBytes a bs).recoveries = s.recoveries := rfl
@[simp] theorem State.putBytes_ahead : (s.putBytes a bs).ahead = s.ahead := rfl
@[simp] theorem State.putBytes_retried : (s.putBytes a bs).retried = s.retried := rfl
@[simp] theorem State.putBytes_failing : (s.putBytes a bs).failing = s.failing := rfl
@[simp] theorem State.putBytes_unitsLost : (s.putBytes a bs).unitsLost = s.unitsLost := rfl
@[simp] theorem State.putBytes_rows : (s.putBytes a bs).rows = s.rows := rfl
@[simp] theorem State.putBytes_passSram : (s.putBytes a bs).passSram = s.passSram := rfl
@[simp] theorem State.putBytes_passHbm : (s.putBytes a bs).passHbm = s.passHbm := rfl
@[simp] theorem State.putBytes_stop : (s.putBytes a bs).stop = s.stop := rfl
@[simp] theorem State.putBytes_selfRefresh : (s.putBytes a bs).selfRefresh = s.selfRefresh := rfl
@[simp] theorem State.putBytes_press : (s.putBytes a bs).press = s.press := rfl
@[simp] theorem State.putBytes_savedLog : (s.putBytes a bs).savedLog = s.savedLog := rfl
@[simp] theorem State.putBytes_sec : (s.putBytes a bs).sec = s.sec := rfl
@[simp] theorem State.putBytes_heather : (s.putBytes a bs).heather = s.heather := rfl
@[simp] theorem State.putBytes_rings : (s.putBytes a bs).rings = s.rings := rfl
@[simp] theorem State.putBytes_hold : (s.putBytes a bs).hold = s.hold := rfl
@[simp] theorem State.putBytes_wdog : (s.putBytes a bs).wdog = s.wdog := rfl
@[simp] theorem State.putBytes_trace : (s.putBytes a bs).trace = s.trace := rfl
@[simp] theorem State.putBytes_traceTime : (s.putBytes a bs).traceTime = s.traceTime := rfl
@[simp] theorem State.putBytes_tracePost : (s.putBytes a bs).tracePost = s.tracePost := rfl
@[simp] theorem State.putBytes_rowReads : (s.putBytes a bs).rowReads = s.rowReads := rfl
@[simp] theorem State.putBytes_writeFail : (s.putBytes a bs).writeFail = s.writeFail := rfl
@[simp] theorem State.putBytes_held : (s.putBytes a bs).held = s.held := rfl
@[simp] theorem State.putBytes_old : (s.putBytes a bs).old = s.old := rfl
@[simp] theorem State.putBytes_hostReads : (s.putBytes a bs).hostReads = s.hostReads := rfl
@[simp] theorem State.putBytes_config : (s.putBytes a bs).config = s.config := rfl
end

/-! ### setPoison -/

section
variable (u : Nat) (v : Bool)
@[simp] theorem State.setPoison_poison : (s.setPoison u v).poison = SMap.set false s.poison u v := rfl
@[simp] theorem State.setPoison_pending : (s.setPoison u v).pending = s.pending := rfl
@[simp] theorem State.setPoison_out : (s.setPoison u v).out = s.out := rfl
@[simp] theorem State.setPoison_free : (s.setPoison u v).free = s.free := rfl
@[simp] theorem State.setPoison_nextCmd : (s.setPoison u v).nextCmd = s.nextCmd := rfl
@[simp] theorem State.setPoison_now : (s.setPoison u v).now = s.now := rfl
@[simp] theorem State.setPoison_mem : (s.setPoison u v).mem = s.mem := rfl
@[simp] theorem State.setPoison_owner : (s.setPoison u v).owner = s.owner := rfl
@[simp] theorem State.setPoison_eff : (s.setPoison u v).eff = s.eff := rfl
@[simp] theorem State.setPoison_stg : (s.setPoison u v).stg = s.stg := rfl
@[simp] theorem State.setPoison_applies : (s.setPoison u v).applies = s.applies := rfl
@[simp] theorem State.setPoison_cores : (s.setPoison u v).cores = s.cores := rfl
@[simp] theorem State.setPoison_peony : (s.setPoison u v).peony = s.peony := rfl
@[simp] theorem State.setPoison_trees : (s.setPoison u v).trees = s.trees := rfl
@[simp] theorem State.setPoison_walks : (s.setPoison u v).walks = s.walks := rfl
@[simp] theorem State.setPoison_merges : (s.setPoison u v).merges = s.merges := rfl
@[simp] theorem State.setPoison_sessions : (s.setPoison u v).sessions = s.sessions := rfl
@[simp] theorem State.setPoison_rowWork : (s.setPoison u v).rowWork = s.rowWork := rfl
@[simp] theorem State.setPoison_passages : (s.setPoison u v).passages = s.passages := rfl
@[simp] theorem State.setPoison_vocab : (s.setPoison u v).vocab = s.vocab := rfl
@[simp] theorem State.setPoison_grammar : (s.setPoison u v).grammar = s.grammar := rfl
@[simp] theorem State.setPoison_loadNext : (s.setPoison u v).loadNext = s.loadNext := rfl
@[simp] theorem State.setPoison_encRest : (s.setPoison u v).encRest = s.encRest := rfl
@[simp] theorem State.setPoison_cmds : (s.setPoison u v).cmds = s.cmds := rfl
@[simp] theorem State.setPoison_stem : (s.setPoison u v).stem = s.stem := rfl
@[simp] theorem State.setPoison_cadence : (s.setPoison u v).cadence = s.cadence := rfl
@[simp] theorem State.setPoison_fxg : (s.setPoison u v).fxg = s.fxg := rfl
@[simp] theorem State.setPoison_fxgGen : (s.setPoison u v).fxgGen = s.fxgGen := rfl
@[simp] theorem State.setPoison_mmuInval : (s.setPoison u v).mmuInval = s.mmuInval := rfl
@[simp] theorem State.setPoison_jobs : (s.setPoison u v).jobs = s.jobs := rfl
@[simp] theorem State.setPoison_nextOrder : (s.setPoison u v).nextOrder = s.nextOrder := rfl
@[simp] theorem State.setPoison_landing : (s.setPoison u v).landing = s.landing := rfl
@[simp] theorem State.setPoison_flows : (s.setPoison u v).flows = s.flows := rfl
@[simp] theorem State.setPoison_vtime : (s.setPoison u v).vtime = s.vtime := rfl
@[simp] theorem State.setPoison_flash : (s.setPoison u v).flash = s.flash := rfl
@[simp] theorem State.setPoison_erase : (s.setPoison u v).erase = s.erase := rfl
@[simp] theorem State.setPoison_pf1 : (s.setPoison u v).pf1 = s.pf1 := rfl
@[simp] theorem State.setPoison_ports : (s.setPoison u v).ports = s.ports := rfl
@[simp] theorem State.setPoison_reqs : (s.setPoison u v).reqs = s.reqs := rfl
@[simp] theorem State.setPoison_nextTag : (s.setPoison u v).nextTag = s.nextTag := rfl
@[simp] theorem State.setPoison_segInval : (s.setPoison u v).segInval = s.segInval := rfl
@[simp] theorem State.setPoison_align : (s.setPoison u v).align = s.align := rfl
@[simp] theorem State.setPoison_start : (s.setPoison u v).start = s.start := rfl
@[simp] theorem State.setPoison_power : (s.setPoison u v).power = s.power := rfl
@[simp] theorem State.setPoison_guard : (s.setPoison u v).guard = s.guard := rfl
@[simp] theorem State.setPoison_hbmOff : (s.setPoison u v).hbmOff = s.hbmOff := rfl
@[simp] theorem State.setPoison_dieOff : (s.setPoison u v).dieOff = s.dieOff := rfl
@[simp] theorem State.setPoison_tripped : (s.setPoison u v).tripped = s.tripped := rfl
@[simp] theorem State.setPoison_stopped : (s.setPoison u v).stopped = s.stopped := rfl
@[simp] theorem State.setPoison_fatal : (s.setPoison u v).fatal = s.fatal := rfl
@[simp] theorem State.setPoison_logPrimary : (s.setPoison u v).logPrimary = s.logPrimary := rfl
@[simp] theorem State.setPoison_logSecondary : (s.setPoison u v).logSecondary = s.logSecondary := rfl
@[simp] theorem State.setPoison_logSecondaryWr : (s.setPoison u v).logSecondaryWr = s.logSecondaryWr := rfl
@[simp] theorem State.setPoison_ceLogged : (s.setPoison u v).ceLogged = s.ceLogged := rfl
@[simp] theorem State.setPoison_recoveries : (s.setPoison u v).recoveries = s.recoveries := rfl
@[simp] theorem State.setPoison_ahead : (s.setPoison u v).ahead = s.ahead := rfl
@[simp] theorem State.setPoison_retried : (s.setPoison u v).retried = s.retried := rfl
@[simp] theorem State.setPoison_failing : (s.setPoison u v).failing = s.failing := rfl
@[simp] theorem State.setPoison_unitsLost : (s.setPoison u v).unitsLost = s.unitsLost := rfl
@[simp] theorem State.setPoison_rows : (s.setPoison u v).rows = s.rows := rfl
@[simp] theorem State.setPoison_passSram : (s.setPoison u v).passSram = s.passSram := rfl
@[simp] theorem State.setPoison_passHbm : (s.setPoison u v).passHbm = s.passHbm := rfl
@[simp] theorem State.setPoison_stop : (s.setPoison u v).stop = s.stop := rfl
@[simp] theorem State.setPoison_selfRefresh : (s.setPoison u v).selfRefresh = s.selfRefresh := rfl
@[simp] theorem State.setPoison_press : (s.setPoison u v).press = s.press := rfl
@[simp] theorem State.setPoison_savedLog : (s.setPoison u v).savedLog = s.savedLog := rfl
@[simp] theorem State.setPoison_sec : (s.setPoison u v).sec = s.sec := rfl
@[simp] theorem State.setPoison_heather : (s.setPoison u v).heather = s.heather := rfl
@[simp] theorem State.setPoison_rings : (s.setPoison u v).rings = s.rings := rfl
@[simp] theorem State.setPoison_hold : (s.setPoison u v).hold = s.hold := rfl
@[simp] theorem State.setPoison_wdog : (s.setPoison u v).wdog = s.wdog := rfl
@[simp] theorem State.setPoison_trace : (s.setPoison u v).trace = s.trace := rfl
@[simp] theorem State.setPoison_traceTime : (s.setPoison u v).traceTime = s.traceTime := rfl
@[simp] theorem State.setPoison_tracePost : (s.setPoison u v).tracePost = s.tracePost := rfl
@[simp] theorem State.setPoison_rowReads : (s.setPoison u v).rowReads = s.rowReads := rfl
@[simp] theorem State.setPoison_writeFail : (s.setPoison u v).writeFail = s.writeFail := rfl
@[simp] theorem State.setPoison_held : (s.setPoison u v).held = s.held := rfl
@[simp] theorem State.setPoison_old : (s.setPoison u v).old = s.old := rfl
@[simp] theorem State.setPoison_hostReads : (s.setPoison u v).hostReads = s.hostReads := rfl
@[simp] theorem State.setPoison_config : (s.setPoison u v).config = s.config := rfl
end

/-! ### drawn -/

section
@[simp] theorem State.drawn_free : (s.drawn).free = s.free + 1 := rfl
@[simp] theorem State.drawn_pending : (s.drawn).pending = s.pending := rfl
@[simp] theorem State.drawn_out : (s.drawn).out = s.out := rfl
@[simp] theorem State.drawn_nextCmd : (s.drawn).nextCmd = s.nextCmd := rfl
@[simp] theorem State.drawn_now : (s.drawn).now = s.now := rfl
@[simp] theorem State.drawn_mem : (s.drawn).mem = s.mem := rfl
@[simp] theorem State.drawn_owner : (s.drawn).owner = s.owner := rfl
@[simp] theorem State.drawn_poison : (s.drawn).poison = s.poison := rfl
@[simp] theorem State.drawn_eff : (s.drawn).eff = s.eff := rfl
@[simp] theorem State.drawn_stg : (s.drawn).stg = s.stg := rfl
@[simp] theorem State.drawn_applies : (s.drawn).applies = s.applies := rfl
@[simp] theorem State.drawn_cores : (s.drawn).cores = s.cores := rfl
@[simp] theorem State.drawn_peony : (s.drawn).peony = s.peony := rfl
@[simp] theorem State.drawn_trees : (s.drawn).trees = s.trees := rfl
@[simp] theorem State.drawn_walks : (s.drawn).walks = s.walks := rfl
@[simp] theorem State.drawn_merges : (s.drawn).merges = s.merges := rfl
@[simp] theorem State.drawn_sessions : (s.drawn).sessions = s.sessions := rfl
@[simp] theorem State.drawn_rowWork : (s.drawn).rowWork = s.rowWork := rfl
@[simp] theorem State.drawn_passages : (s.drawn).passages = s.passages := rfl
@[simp] theorem State.drawn_vocab : (s.drawn).vocab = s.vocab := rfl
@[simp] theorem State.drawn_grammar : (s.drawn).grammar = s.grammar := rfl
@[simp] theorem State.drawn_loadNext : (s.drawn).loadNext = s.loadNext := rfl
@[simp] theorem State.drawn_encRest : (s.drawn).encRest = s.encRest := rfl
@[simp] theorem State.drawn_cmds : (s.drawn).cmds = s.cmds := rfl
@[simp] theorem State.drawn_stem : (s.drawn).stem = s.stem := rfl
@[simp] theorem State.drawn_cadence : (s.drawn).cadence = s.cadence := rfl
@[simp] theorem State.drawn_fxg : (s.drawn).fxg = s.fxg := rfl
@[simp] theorem State.drawn_fxgGen : (s.drawn).fxgGen = s.fxgGen := rfl
@[simp] theorem State.drawn_mmuInval : (s.drawn).mmuInval = s.mmuInval := rfl
@[simp] theorem State.drawn_jobs : (s.drawn).jobs = s.jobs := rfl
@[simp] theorem State.drawn_nextOrder : (s.drawn).nextOrder = s.nextOrder := rfl
@[simp] theorem State.drawn_landing : (s.drawn).landing = s.landing := rfl
@[simp] theorem State.drawn_flows : (s.drawn).flows = s.flows := rfl
@[simp] theorem State.drawn_vtime : (s.drawn).vtime = s.vtime := rfl
@[simp] theorem State.drawn_flash : (s.drawn).flash = s.flash := rfl
@[simp] theorem State.drawn_erase : (s.drawn).erase = s.erase := rfl
@[simp] theorem State.drawn_pf1 : (s.drawn).pf1 = s.pf1 := rfl
@[simp] theorem State.drawn_ports : (s.drawn).ports = s.ports := rfl
@[simp] theorem State.drawn_reqs : (s.drawn).reqs = s.reqs := rfl
@[simp] theorem State.drawn_nextTag : (s.drawn).nextTag = s.nextTag := rfl
@[simp] theorem State.drawn_segInval : (s.drawn).segInval = s.segInval := rfl
@[simp] theorem State.drawn_align : (s.drawn).align = s.align := rfl
@[simp] theorem State.drawn_start : (s.drawn).start = s.start := rfl
@[simp] theorem State.drawn_power : (s.drawn).power = s.power := rfl
@[simp] theorem State.drawn_guard : (s.drawn).guard = s.guard := rfl
@[simp] theorem State.drawn_hbmOff : (s.drawn).hbmOff = s.hbmOff := rfl
@[simp] theorem State.drawn_dieOff : (s.drawn).dieOff = s.dieOff := rfl
@[simp] theorem State.drawn_tripped : (s.drawn).tripped = s.tripped := rfl
@[simp] theorem State.drawn_stopped : (s.drawn).stopped = s.stopped := rfl
@[simp] theorem State.drawn_fatal : (s.drawn).fatal = s.fatal := rfl
@[simp] theorem State.drawn_logPrimary : (s.drawn).logPrimary = s.logPrimary := rfl
@[simp] theorem State.drawn_logSecondary : (s.drawn).logSecondary = s.logSecondary := rfl
@[simp] theorem State.drawn_logSecondaryWr : (s.drawn).logSecondaryWr = s.logSecondaryWr := rfl
@[simp] theorem State.drawn_ceLogged : (s.drawn).ceLogged = s.ceLogged := rfl
@[simp] theorem State.drawn_recoveries : (s.drawn).recoveries = s.recoveries := rfl
@[simp] theorem State.drawn_ahead : (s.drawn).ahead = s.ahead := rfl
@[simp] theorem State.drawn_retried : (s.drawn).retried = s.retried := rfl
@[simp] theorem State.drawn_failing : (s.drawn).failing = s.failing := rfl
@[simp] theorem State.drawn_unitsLost : (s.drawn).unitsLost = s.unitsLost := rfl
@[simp] theorem State.drawn_rows : (s.drawn).rows = s.rows := rfl
@[simp] theorem State.drawn_passSram : (s.drawn).passSram = s.passSram := rfl
@[simp] theorem State.drawn_passHbm : (s.drawn).passHbm = s.passHbm := rfl
@[simp] theorem State.drawn_stop : (s.drawn).stop = s.stop := rfl
@[simp] theorem State.drawn_selfRefresh : (s.drawn).selfRefresh = s.selfRefresh := rfl
@[simp] theorem State.drawn_press : (s.drawn).press = s.press := rfl
@[simp] theorem State.drawn_savedLog : (s.drawn).savedLog = s.savedLog := rfl
@[simp] theorem State.drawn_sec : (s.drawn).sec = s.sec := rfl
@[simp] theorem State.drawn_heather : (s.drawn).heather = s.heather := rfl
@[simp] theorem State.drawn_rings : (s.drawn).rings = s.rings := rfl
@[simp] theorem State.drawn_hold : (s.drawn).hold = s.hold := rfl
@[simp] theorem State.drawn_wdog : (s.drawn).wdog = s.wdog := rfl
@[simp] theorem State.drawn_trace : (s.drawn).trace = s.trace := rfl
@[simp] theorem State.drawn_traceTime : (s.drawn).traceTime = s.traceTime := rfl
@[simp] theorem State.drawn_tracePost : (s.drawn).tracePost = s.tracePost := rfl
@[simp] theorem State.drawn_rowReads : (s.drawn).rowReads = s.rowReads := rfl
@[simp] theorem State.drawn_writeFail : (s.drawn).writeFail = s.writeFail := rfl
@[simp] theorem State.drawn_held : (s.drawn).held = s.held := rfl
@[simp] theorem State.drawn_old : (s.drawn).old = s.old := rfl
@[simp] theorem State.drawn_hostReads : (s.drawn).hostReads = s.hostReads := rfl
@[simp] theorem State.drawn_config : (s.drawn).config = s.config := rfl
end

/-! ### send -/

section
variable (o : Out)
@[simp] theorem State.send_out : (s.send o).out = s.out ++ [o] := rfl
@[simp] theorem State.send_pending : (s.send o).pending = s.pending := rfl
@[simp] theorem State.send_free : (s.send o).free = s.free := rfl
@[simp] theorem State.send_nextCmd : (s.send o).nextCmd = s.nextCmd := rfl
@[simp] theorem State.send_now : (s.send o).now = s.now := rfl
@[simp] theorem State.send_mem : (s.send o).mem = s.mem := rfl
@[simp] theorem State.send_owner : (s.send o).owner = s.owner := rfl
@[simp] theorem State.send_poison : (s.send o).poison = s.poison := rfl
@[simp] theorem State.send_eff : (s.send o).eff = s.eff := rfl
@[simp] theorem State.send_stg : (s.send o).stg = s.stg := rfl
@[simp] theorem State.send_applies : (s.send o).applies = s.applies := rfl
@[simp] theorem State.send_cores : (s.send o).cores = s.cores := rfl
@[simp] theorem State.send_peony : (s.send o).peony = s.peony := rfl
@[simp] theorem State.send_trees : (s.send o).trees = s.trees := rfl
@[simp] theorem State.send_walks : (s.send o).walks = s.walks := rfl
@[simp] theorem State.send_merges : (s.send o).merges = s.merges := rfl
@[simp] theorem State.send_sessions : (s.send o).sessions = s.sessions := rfl
@[simp] theorem State.send_rowWork : (s.send o).rowWork = s.rowWork := rfl
@[simp] theorem State.send_passages : (s.send o).passages = s.passages := rfl
@[simp] theorem State.send_vocab : (s.send o).vocab = s.vocab := rfl
@[simp] theorem State.send_grammar : (s.send o).grammar = s.grammar := rfl
@[simp] theorem State.send_loadNext : (s.send o).loadNext = s.loadNext := rfl
@[simp] theorem State.send_encRest : (s.send o).encRest = s.encRest := rfl
@[simp] theorem State.send_cmds : (s.send o).cmds = s.cmds := rfl
@[simp] theorem State.send_stem : (s.send o).stem = s.stem := rfl
@[simp] theorem State.send_cadence : (s.send o).cadence = s.cadence := rfl
@[simp] theorem State.send_fxg : (s.send o).fxg = s.fxg := rfl
@[simp] theorem State.send_fxgGen : (s.send o).fxgGen = s.fxgGen := rfl
@[simp] theorem State.send_mmuInval : (s.send o).mmuInval = s.mmuInval := rfl
@[simp] theorem State.send_jobs : (s.send o).jobs = s.jobs := rfl
@[simp] theorem State.send_nextOrder : (s.send o).nextOrder = s.nextOrder := rfl
@[simp] theorem State.send_landing : (s.send o).landing = s.landing := rfl
@[simp] theorem State.send_flows : (s.send o).flows = s.flows := rfl
@[simp] theorem State.send_vtime : (s.send o).vtime = s.vtime := rfl
@[simp] theorem State.send_flash : (s.send o).flash = s.flash := rfl
@[simp] theorem State.send_erase : (s.send o).erase = s.erase := rfl
@[simp] theorem State.send_pf1 : (s.send o).pf1 = s.pf1 := rfl
@[simp] theorem State.send_ports : (s.send o).ports = s.ports := rfl
@[simp] theorem State.send_reqs : (s.send o).reqs = s.reqs := rfl
@[simp] theorem State.send_nextTag : (s.send o).nextTag = s.nextTag := rfl
@[simp] theorem State.send_segInval : (s.send o).segInval = s.segInval := rfl
@[simp] theorem State.send_align : (s.send o).align = s.align := rfl
@[simp] theorem State.send_start : (s.send o).start = s.start := rfl
@[simp] theorem State.send_power : (s.send o).power = s.power := rfl
@[simp] theorem State.send_guard : (s.send o).guard = s.guard := rfl
@[simp] theorem State.send_hbmOff : (s.send o).hbmOff = s.hbmOff := rfl
@[simp] theorem State.send_dieOff : (s.send o).dieOff = s.dieOff := rfl
@[simp] theorem State.send_tripped : (s.send o).tripped = s.tripped := rfl
@[simp] theorem State.send_stopped : (s.send o).stopped = s.stopped := rfl
@[simp] theorem State.send_fatal : (s.send o).fatal = s.fatal := rfl
@[simp] theorem State.send_logPrimary : (s.send o).logPrimary = s.logPrimary := rfl
@[simp] theorem State.send_logSecondary : (s.send o).logSecondary = s.logSecondary := rfl
@[simp] theorem State.send_logSecondaryWr : (s.send o).logSecondaryWr = s.logSecondaryWr := rfl
@[simp] theorem State.send_ceLogged : (s.send o).ceLogged = s.ceLogged := rfl
@[simp] theorem State.send_recoveries : (s.send o).recoveries = s.recoveries := rfl
@[simp] theorem State.send_ahead : (s.send o).ahead = s.ahead := rfl
@[simp] theorem State.send_retried : (s.send o).retried = s.retried := rfl
@[simp] theorem State.send_failing : (s.send o).failing = s.failing := rfl
@[simp] theorem State.send_unitsLost : (s.send o).unitsLost = s.unitsLost := rfl
@[simp] theorem State.send_rows : (s.send o).rows = s.rows := rfl
@[simp] theorem State.send_passSram : (s.send o).passSram = s.passSram := rfl
@[simp] theorem State.send_passHbm : (s.send o).passHbm = s.passHbm := rfl
@[simp] theorem State.send_stop : (s.send o).stop = s.stop := rfl
@[simp] theorem State.send_selfRefresh : (s.send o).selfRefresh = s.selfRefresh := rfl
@[simp] theorem State.send_press : (s.send o).press = s.press := rfl
@[simp] theorem State.send_savedLog : (s.send o).savedLog = s.savedLog := rfl
@[simp] theorem State.send_sec : (s.send o).sec = s.sec := rfl
@[simp] theorem State.send_heather : (s.send o).heather = s.heather := rfl
@[simp] theorem State.send_rings : (s.send o).rings = s.rings := rfl
@[simp] theorem State.send_hold : (s.send o).hold = s.hold := rfl
@[simp] theorem State.send_wdog : (s.send o).wdog = s.wdog := rfl
@[simp] theorem State.send_trace : (s.send o).trace = s.trace := rfl
@[simp] theorem State.send_traceTime : (s.send o).traceTime = s.traceTime := rfl
@[simp] theorem State.send_tracePost : (s.send o).tracePost = s.tracePost := rfl
@[simp] theorem State.send_rowReads : (s.send o).rowReads = s.rowReads := rfl
@[simp] theorem State.send_writeFail : (s.send o).writeFail = s.writeFail := rfl
@[simp] theorem State.send_held : (s.send o).held = s.held := rfl
@[simp] theorem State.send_old : (s.send o).old = s.old := rfl
@[simp] theorem State.send_hostReads : (s.send o).hostReads = s.hostReads := rfl
@[simp] theorem State.send_config : (s.send o).config = s.config := rfl
end

end Sys2Proof.Machine
end

