-- ==== Sys2Proof/Laws/Regs.lean ====
section
/-!
SUPPORT. The registers: what a write and a count leave in every register.
-/

namespace Sys2Proof.Machine

/-- Register b after register a is written. -/
theorem State.reg_setReg (s : State) (a b : Nat) (v : Word) : (s.setReg a v).reg b = if b = a then v else s.reg b := by
  unfold State.reg
  by_cases h : b = a
  · subst h
    by_cases hv : v = resetOf b <;> simp [SMap.set, SMap.find_erase, SMap.find_insert, hv]
  · by_cases hv : v = resetOf a <;> simp [SMap.set, SMap.find_erase, SMap.find_insert, hv, h]

@[simp] theorem State.reg_setReg_same (s : State) (a : Nat) (v : Word) : (s.setReg a v).reg a = v := by simp [State.reg_setReg]

theorem State.reg_setReg_other (s : State) {a b : Nat} (v : Word) (h : b ≠ a) : (s.setReg a v).reg b = s.reg b := by
  simp [State.reg_setReg, h]

/-- Registers are read from the effective values alone. -/
theorem State.reg_congr {s t : State} (h : t.eff = s.eff) (a : Nat) : t.reg a = s.reg a := by simp [State.reg, h]

/-- A count changes the effective values alone. -/
theorem State.bump_fields (s : State) (a n : Nat) : s.bump a n = { s with eff := (s.bump a n).eff } := by
  unfold State.bump
  dsimp only
  split
  · rfl
  · split
    · rfl
    · split <;> rfl

/-- A count changes at most the counter and the WRAPPED register of its row. -/
theorem State.reg_bump_other (s : State) (a n b : Nat) (h : b ≠ a)
    (hw : ∀ r w, regAt a = some r → r.desc.wrap = some w → b ≠ w.base + w.s1 * r.i + 4 * ((w.bit + w.b1 * r.i + w.b2 * r.j) / 32)) :
    (s.bump a n).reg b = s.reg b := by
  unfold State.bump
  dsimp only
  split
  · exact State.reg_setReg_other _ _ h
  · split
    · exact State.reg_setReg_other _ _ h
    · next r hr =>
      split
      · exact State.reg_setReg_other _ _ h
      · next w hwr => rw [State.reg_setReg_other _ _ (hw r w hr hwr), State.reg_setReg_other _ _ h]

/-- The counter itself advances by the count. -/
theorem State.reg_bump_same (s : State) (a n : Nat)
    (hw : ∀ r w, regAt a = some r → r.desc.wrap = some w → a ≠ w.base + w.s1 * r.i + 4 * ((w.bit + w.b1 * r.i + w.b2 * r.j) / 32)) :
    (s.bump a n).reg a = s.reg a + BitVec.ofNat 64 n := by
  unfold State.bump
  dsimp only
  split
  · simp
  · split
    · simp
    · next r hr =>
      split
      · simp
      · next w hwr => rw [State.reg_setReg_other _ _ (hw r w hr hwr)]; simp

/-- The counters of a partition share one WRAPPED register. -/
theorem wrap_dbgPartCnt : ∀ p : Fin 16, ∀ j : Fin 13,
    (match regAt (Reg.dbgPartCnt p j) with
      | some r => r.desc.wrap.map (fun w => w.base + w.s1 * r.i + 4 * ((w.bit + w.b1 * r.i + w.b2 * r.j) / 32))
      | none => none) = some (0x1101800 + 4 * p.val) := by decide

theorem partOfCore_lt (n : CoreId) : partOfCore n < 16 := by
  have := n.isLt
  unfold partOfCore
  split <;> omega

/-- An event in a counter of a partition: the count, and no register else but the partition's WRAPPED register. -/
theorem State.reg_bump_part (s : State) (p j n : Nat) (hp : p < 16) (hj : j < 13) :
    (s.bump (Reg.dbgPartCnt p j) n).reg (Reg.dbgPartCnt p j) = s.reg (Reg.dbgPartCnt p j) + BitVec.ofNat 64 n ∧
    ∀ b, b ≠ Reg.dbgPartCnt p j → b ≠ 0x1101800 + 4 * p → (s.bump (Reg.dbgPartCnt p j) n).reg b = s.reg b := by
  have key := wrap_dbgPartCnt ⟨p, hp⟩ ⟨j, hj⟩
  have hw : ∀ r w, regAt (Reg.dbgPartCnt p j) = some r → r.desc.wrap = some w →
      w.base + w.s1 * r.i + 4 * ((w.bit + w.b1 * r.i + w.b2 * r.j) / 32) = 0x1101800 + 4 * p := by
    intro r w hr hwr
    simpa [hr, hwr] using key
  refine ⟨State.reg_bump_same _ _ _ fun r w hr hwr => ?_, fun b h1 h2 => State.reg_bump_other _ _ _ _ h1 fun r w hr hwr => ?_⟩
  · rw [hw r w hr hwr]; unfold Reg.dbgPartCnt; omega
  · rw [hw r w hr hwr]; exact h2

end Sys2Proof.Machine
end

