-- ==== Sys2Proof/Laws/Core.lean ====
section
/-!
SUPPORT. The control cores: registers and predicates after a write, what issuing an instruction does, going on to the next.
-/

namespace Sys2Proof.Machine

/-- Core m after core n is written. -/
theorem State.core_setCore (s : State) (n m : CoreId) (c : Core) : (s.setCore n c).core m = if m = n then c else s.core m := by
  unfold State.core State.setCore
  rw [SMap.get_set]
  by_cases h : m = n
  · simp [h]
  · simp [h, show m.toNat ≠ n.toNat from fun e => h (BitVec.eq_of_toNat_eq e)]

@[simp] theorem State.core_setCore_same (s : State) (n : CoreId) (c : Core) : (s.setCore n c).core n = c := by simp [State.core_setCore]

theorem State.core_setCore_other (s : State) {n m : CoreId} (c : Core) (h : m ≠ n) : (s.setCore n c).core m = s.core m := by
  simp [State.core_setCore, h]

/-- A core is read from the cores alone. -/
theorem State.core_congr {s t : State} (h : t.cores = s.cores) (n : CoreId) : t.core n = s.core n := by simp [State.core, h]

/-- A core's write leaves the registers alone. -/
@[simp] theorem State.reg_setCore (s : State) (n : CoreId) (c : Core) (a : Nat) : (s.setCore n c).reg a = s.reg a := State.reg_congr rfl a

/-- General register r after rd is written: g0 keeps reading 0 (R50). -/
theorem Core.greg_setG (c : Core) (rd r : GReg) (v : Word) : (c.setG rd v).greg r = if r = rd ∧ rd ≠ 0 then v else c.greg r := by
  unfold Core.setG Core.greg
  by_cases h0 : rd = 0
  · have hn : ¬ (r = rd ∧ rd ≠ 0) := fun h => h.2 h0
    rw [if_pos h0, if_neg hn]
  · rw [if_neg h0]
    by_cases hr : r = 0
    · have hn : ¬ (r = rd ∧ rd ≠ 0) := fun h => h0 (h.1.symm.trans hr)
      rw [if_pos hr, if_pos hr, if_neg hn]
    · rw [if_neg hr, if_neg hr]
      by_cases h : r = rd
      · rw [if_pos ⟨h, h0⟩, h, SMap.get_set_same]
      · have hn : ¬ (r = rd ∧ rd ≠ 0) := fun e => h e.1
        rw [if_neg hn, SMap.get_set_other _ _ _ (fun e => h (BitVec.eq_of_toNat_eq e))]

/-- A write of a general register changes no other part of the core. -/
theorem Core.setG_fields (c : Core) (rd : GReg) (v : Word) : c.setG rd v = { c with g := (c.setG rd v).g } := by
  unfold Core.setG; split <;> rfl

/-- A write of a predicate changes no other part of the core. -/
theorem Core.setP_fields (c : Core) (pd : PReg) (v : Bool) : c.setP pd v = { c with p := (c.setP pd v).p } := by
  unfold Core.setP; split <;> rfl

/-- Predicate r after pd is written: p0 keeps reading 1 (R50). -/
theorem Core.pred_setP (c : Core) (pd r : PReg) (v : Bool) : (c.setP pd v).pred r = if r = pd ∧ pd ≠ 0 then v else c.pred r := by
  have key : ∀ (p : BitVec 8) (pd r : PReg) (v : Bool), pd ≠ 0 → r ≠ 0 →
      (if v then p ||| (1#8 <<< pd.toNat) else p &&& ~~~(1#8 <<< pd.toNat)).toNat.testBit r.toNat =
        if r = pd then v else p.toNat.testBit r.toNat := by
    intro p pd r v _ _
    have hr := r.isLt
    have hpd := pd.isLt
    cases v
    · simp only [Bool.false_eq_true, if_false, BitVec.testBit_toNat, BitVec.getLsbD_and, BitVec.getLsbD_not, BitVec.getLsbD_shiftLeft]
      by_cases h : r = pd
      · subst h; simp
      · have : r.toNat ≠ pd.toNat := fun e => h (BitVec.eq_of_toNat_eq e)
        rw [if_neg h]
        by_cases hl : r.toNat < pd.toNat
        · simp [hl]; intro; omega
        · have : ¬ (r.toNat - pd.toNat = 0) := by omega
          simp [hl, BitVec.getLsbD_one, this]
          intro; omega
    · simp only [if_true, BitVec.testBit_toNat, BitVec.getLsbD_or, BitVec.getLsbD_shiftLeft]
      by_cases h : r = pd
      · subst h; simp; omega
      · have : r.toNat ≠ pd.toNat := fun e => h (BitVec.eq_of_toNat_eq e)
        rw [if_neg h]
        by_cases hl : r.toNat < pd.toNat
        · simp [hl]
        · have : ¬ (r.toNat - pd.toNat = 0) := by omega
          simp [hl, BitVec.getLsbD_one, this]
  unfold Core.setP Core.pred bitAt
  by_cases h0 : pd = 0
  · have hn : ¬ (r = pd ∧ pd ≠ 0) := fun h => h.2 h0
    rw [if_pos h0, if_neg hn]
  · rw [if_neg h0]
    by_cases hr : r = 0
    · have hn : ¬ (r = pd ∧ pd ≠ 0) := fun h => h0 (h.1.symm.trans hr)
      rw [if_neg hn]; simp [hr]
    · have hk := key c.p pd r v h0 hr
      simp only [hr, decide_false, Bool.false_or, hk]
      by_cases h : r = pd
      · rw [if_pos h, if_pos ⟨h, h0⟩]
      · have hn : ¬ (r = pd ∧ pd ≠ 0) := fun e => h e.1
        rw [if_neg h, if_neg hn]

/-- Counting an instruction for run-ahead touches nothing else of the core. -/
theorem Core.ranAhead_fields (k : Core) (load : Bool) : k.ranAhead load = { k with runAhead := (k.ranAhead load).runAhead } := by
  unfold Core.ranAhead
  cases h : k.runAhead <;> cases k <;> simp_all

/-- The state in which core n's issue has been counted. -/
theorem State.countIssue_eq (s : State) (n : CoreId) :
    s.countIssue n = if (s.core n).brkStep then (s.bump (Reg.dbgPartCnt (partOfCore n) 0) 1).setCore n
        { s.core n with brkStep := false, brkDrain := bitAt (s.reg (Reg.dbgBrkCfg (s.groupOfCore n))) 30
                        brkStop := !(bitAt (s.reg (Reg.dbgBrkCfg (s.groupOfCore n))) 30) }
      else s.bump (Reg.dbgPartCnt (partOfCore n) 0) 1 := by
  have hc : (s.bump (Reg.dbgPartCnt (partOfCore n) 0) 1).core n = s.core n := State.core_congr (by rw [State.bump_fields]) n
  simp only [State.countIssue, hc]

/-- Core n once its issue has been counted. -/
theorem State.core_countIssue (s : State) (n : CoreId) (h : s.canIssue n = true) :
    (s.countIssue n).core n =
      { s.core n with brkStep := false, brkDrain := (s.core n).brkStep && bitAt (s.reg (Reg.dbgBrkCfg (s.groupOfCore n))) 30
                      brkStop := (s.core n).brkStep && !(bitAt (s.reg (Reg.dbgBrkCfg (s.groupOfCore n))) 30) } := by
  have hst : (s.core n).brkStop = false ∧ (s.core n).brkDrain = false := by
    simp only [State.canIssue, State.issueHeld, Bool.and_eq_true, Bool.not_eq_true', Bool.or_eq_false_iff] at h
    exact ⟨h.2.1.1.1.2, h.2.1.1.2⟩
  have hc : (s.bump (Reg.dbgPartCnt (partOfCore n) 0) 1).core n = s.core n := State.core_congr (by rw [State.bump_fields]) n
  rw [State.countIssue_eq]
  obtain ⟨h1, h2⟩ := hst
  by_cases hb : (s.core n).brkStep = true
  · rw [if_pos hb, State.core_setCore_same, hb]; rfl
  · have hb : (s.core n).brkStep = false := by simpa using hb
    simp only [hb, Bool.false_eq_true, if_false, Bool.false_and, hc]
    generalize s.core n = k at hb h1 h2 ⊢
    cases k
    simp only at hb h1 h2
    subst hb h1 h2
    rfl

/-- Counting an issue of core n changes core n and the counter alone. -/
theorem State.countIssue_onlyCore (s : State) (n : CoreId) : OnlyCore n s (s.countIssue n) := by
  have hbf := State.bump_fields s (Reg.dbgPartCnt (partOfCore n) 0) 1
  have hbr := State.reg_bump_part s (partOfCore n) 0 1 (partOfCore_lt n) (by omega)
  have he : (s.countIssue n).eff = (s.bump (Reg.dbgPartCnt (partOfCore n) 0) 1).eff := by
    rw [State.countIssue_eq]; split <;> rfl
  refine ⟨?_, fun m hm => ?_, fun a ha => ?_, ?_⟩
  · rw [State.countIssue_eq]; split
    · rw [hbf]; rfl
    · rw [hbf]
  · rw [State.countIssue_eq]; split
    · rw [State.core_setCore_other _ _ hm]; exact State.core_congr (by rw [hbf]) m
    · exact State.core_congr (by rw [hbf]) m
  · simp only [issueRegs, List.mem_cons, List.not_mem_nil, or_false, not_or, Reg.dbgPartWrap] at ha
    rw [State.reg_congr he, hbr.2 a ha.1 ha.2]
  · rw [State.reg_congr he]; exact hbr.1

/-- A further change of core n alone. -/
theorem OnlyCore.setCore {n : CoreId} {s t : State} (h : OnlyCore n s t) (c : Core) : OnlyCore n s (t.setCore n c) := by
  obtain ⟨hf, hc, hr, hn⟩ := h
  refine ⟨?_, fun m hm => ?_, fun a ha => ?_, ?_⟩
  · rw [hf]; rfl
  · rw [State.core_setCore_other _ _ hm, hc m hm]
  · rw [State.reg_setCore, hr a ha]
  · rw [State.reg_setCore, hn]

/-- A legal instruction that core n is ready to issue takes its effect on a state in which only the issue was counted. -/
theorem State.issue_ready {s : State} {n : CoreId} {gd : Guard} {kind : AheadKind} (h : Ready s n gd kind) (f : State → State) :
    ∃ u, s.issue n gd kind true f = f u ∧ u.core n = s.issued n (decide (kind = .load)) ∧ OnlyCore n s u := by
  refine ⟨_, by simp [State.issue, h.issues, h.ahead, h.guard, h.inside]; rfl, ?_, (State.countIssue_onlyCore s n).setCore _⟩
  rw [State.core_setCore_same, Core.ranAhead_fields, State.core_countIssue s n h.issues]
  simp only [State.issued, Core.ranAhead]
  split <;> simp_all

/-- Going on from any instruction word but the last. -/
theorem State.advance_inside (s : State) (n : CoreId) (h : (s.core n).pc ≠ lastPc) :
    s.advance n = s.setCore n { s.core n with pc := (s.core n).pc + 4 } := by simp [State.advance, h]

end Sys2Proof.Machine
end

