-- ==== Sys2Proof/Laws/Memory.lean ====
section
/-!
SUPPORT. Every operation of the model keeps the memory's canonical form (Memory.wf): one lemma per operation that answers a state, in the
order the operations are defined; `<operation>_eq` is the same of an answer given by an equation.
-/

set_option linter.unusedTactic false
set_option linter.unreachableTactic false
set_option linter.unusedVariables false

namespace Sys2Proof.Machine
theorem Mem.setBytes_wf (m : List Host.Cell) (a : Nat) (bs : List Byte) (h : Memory.wf m = true) :
    Memory.wf (Mem.setBytes m a bs) = true := by
  induction bs generalizing m a with
  | nil => exact h
  | cons b bs ih => exact ih _ _ (SMap.set_wf 0 m a b h)

theorem foldl_memWf {β : Type} (g : State → β → State) (l : List β) (s : State) (h : Memory.wf s.mem = true)
    (hg : ∀ t x, Memory.wf t.mem = true → Memory.wf (g t x).mem = true) : Memory.wf (l.foldl g s).mem = true := by
  induction l generalizing s with
  | nil => exact h
  | cons x l ih => exact ih _ (hg _ _ h)

theorem ite_memWf {p : Prop} [Decidable p] {a b : State} (ha : Memory.wf a.mem = true) (hb : Memory.wf b.mem = true) :
    Memory.wf (if p then a else b).mem = true := by
  by_cases h : p
  · rw [if_pos h]; exact ha
  · rw [if_neg h]; exact hb

theorem foldl_memWf_fst {β γ : Type} (g : State × γ → β → State × γ) (l : List β) (s : State × γ) (h : Memory.wf s.1.mem = true)
    (hg : ∀ t x, Memory.wf t.1.mem = true → Memory.wf (g t x).1.mem = true) : Memory.wf (l.foldl g s).1.mem = true := by
  induction l generalizing s with
  | nil => exact h
  | cons x l ih => exact ih _ (hg _ _ h)

theorem foldl_memWf_ok {β ε : Type} (g : Except ε State → β → Except ε State) (l : List β) (acc : Except ε State)
    (h : ∀ t, acc = .ok t → Memory.wf t.mem = true)
    (hg : ∀ acc x, (∀ t, acc = .ok t → Memory.wf t.mem = true) → ∀ t, g acc x = .ok t → Memory.wf t.mem = true) :
    ∀ t, l.foldl g acc = .ok t → Memory.wf t.mem = true := by
  induction l generalizing acc with
  | nil => exact h
  | cons x l ih => exact ih _ (hg _ _ h)

theorem foldl_memWf_okFst {β γ ε : Type} (g : Except ε (State × γ) → β → Except ε (State × γ)) (l : List β) (acc : Except ε (State × γ))
    (h : ∀ t, acc = .ok t → Memory.wf t.1.mem = true)
    (hg : ∀ acc x, (∀ t, acc = .ok t → Memory.wf t.1.mem = true) → ∀ t, g acc x = .ok t → Memory.wf t.1.mem = true) :
    ∀ t, l.foldl g acc = .ok t → Memory.wf t.1.mem = true := by
  induction l generalizing acc with
  | nil => exact h
  | cons x l ih => exact ih _ (hg _ _ h)

theorem Mem.foldl_wf (l m : List Host.Cell) (h : Memory.wf m = true) :
    Memory.wf (l.foldl (fun m e => Mem.setByte m e.1 e.2) m) = true := by
  induction l generalizing m with
  | nil => exact h
  | cons x l ih => exact ih _ (SMap.set_wf 0 m _ _ h)
theorem pf1_memWf (s : State) (p : Pf1) (hm : Memory.wf s.mem = true) : Memory.wf ({ s with pf1 := p } : State).mem = true := hm
theorem rows_memWf (s : State) (m : SMap RowHealth) (a b : Word) (hm : Memory.wf s.mem = true) :
    Memory.wf ({ s with passSram := a, passHbm := b, rows := m } : State).mem = true := hm
theorem State.setReg_memWf (s : State) (a : Nat) (v : Word) (hm : Memory.wf s.mem = true) : Memory.wf (State.setReg s a v).mem = true := by
  unfold State.setReg
  repeat' (first
    | with_reducible assumption
    | with_reducible refine foldl_memWf _ _ _ ?_ ?_
    | with_reducible refine foldl_memWf_fst _ _ _ ?_ ?_
    | with_reducible refine ite_memWf ?_ ?_
    | with_reducible apply Mem.setBytes_wf
    | with_reducible apply SMap.filter_wf
    | intro _
    | split
    | dsimp only)
theorem State.stage_memWf (s : State) (a : Nat) (v : Word) (hm : Memory.wf s.mem = true) : Memory.wf (State.stage s a v).mem = true := by
  unfold State.stage
  repeat' (first
    | with_reducible assumption
    | with_reducible refine foldl_memWf _ _ _ ?_ ?_
    | with_reducible refine foldl_memWf_fst _ _ _ ?_ ?_
    | with_reducible refine ite_memWf ?_ ?_
    | with_reducible apply Mem.setBytes_wf
    | with_reducible apply SMap.filter_wf
    | intro _
    | split
    | dsimp only)
theorem State.setRegFld_memWf (s : State) (a : Nat) (lo : Nat) (w : Nat) (x : Nat) (hm : Memory.wf s.mem = true) : Memory.wf (State.setRegFld s a lo w x).mem = true := by
  unfold State.setRegFld
  repeat' (first
    | with_reducible assumption
    | with_reducible apply State.setReg_memWf
    | with_reducible refine foldl_memWf _ _ _ ?_ ?_
    | with_reducible refine foldl_memWf_fst _ _ _ ?_ ?_
    | with_reducible refine ite_memWf ?_ ?_
    | with_reducible apply Mem.setBytes_wf
    | with_reducible apply SMap.filter_wf
    | intro _
    | split
    | dsimp only)
theorem State.bump_memWf (s : State) (a : Nat) (n : Nat) (hm : Memory.wf s.mem = true) : Memory.wf (State.bump s a n).mem = true := by
  unfold State.bump
  repeat' (first
    | with_reducible assumption
    | with_reducible apply State.setReg_memWf
    | with_reducible refine foldl_memWf _ _ _ ?_ ?_
    | with_reducible refine foldl_memWf_fst _ _ _ ?_ ?_
    | with_reducible refine ite_memWf ?_ ?_
    | with_reducible apply Mem.setBytes_wf
    | with_reducible apply SMap.filter_wf
    | intro _
    | split
    | dsimp only)
theorem State.bumpSat_memWf (s : State) (a : Nat) (lo : Nat) (w : Nat) (n : Nat) (hm : Memory.wf s.mem = true) : Memory.wf (State.bumpSat s a lo w n).mem = true := by
  unfold State.bumpSat
  repeat' (first
    | with_reducible assumption
    | with_reducible apply State.setRegFld_memWf
    | with_reducible refine foldl_memWf _ _ _ ?_ ?_
    | with_reducible refine foldl_memWf_fst _ _ _ ?_ ?_
    | with_reducible refine ite_memWf ?_ ?_
    | with_reducible apply Mem.setBytes_wf
    | with_reducible apply SMap.filter_wf
    | intro _
    | split
    | dsimp only)
theorem State.holdWrite_memWf (s : State) (h : HeldWrite) (hm : Memory.wf s.mem = true) : Memory.wf (State.holdWrite s h).mem = true := by
  unfold State.holdWrite
  repeat' (first
    | with_reducible assumption
    | with_reducible refine foldl_memWf _ _ _ ?_ ?_
    | with_reducible refine foldl_memWf_fst _ _ _ ?_ ?_
    | with_reducible refine ite_memWf ?_ ?_
    | with_reducible apply Mem.setBytes_wf
    | with_reducible apply SMap.filter_wf
    | intro _
    | split
    | dsimp only)
theorem State.setRegs_memWf (s : State) (vs : List (Nat × Word)) (hm : Memory.wf s.mem = true) : Memory.wf (State.setRegs s vs).mem = true := by
  unfold State.setRegs
  repeat' (first
    | with_reducible assumption
    | with_reducible apply State.setReg_memWf
    | with_reducible refine foldl_memWf _ _ _ ?_ ?_
    | with_reducible refine foldl_memWf_fst _ _ _ ?_ ?_
    | with_reducible refine ite_memWf ?_ ?_
    | with_reducible apply Mem.setBytes_wf
    | with_reducible apply SMap.filter_wf
    | intro _
    | split
    | dsimp only)
theorem State.setFlow_memWf (s : State) (k : Nat) (f : Flow) (hm : Memory.wf s.mem = true) : Memory.wf (State.setFlow s k f).mem = true := by
  unfold State.setFlow
  repeat' (first
    | with_reducible assumption
    | with_reducible refine foldl_memWf _ _ _ ?_ ?_
    | with_reducible refine foldl_memWf_fst _ _ _ ?_ ?_
    | with_reducible refine ite_memWf ?_ ?_
    | with_reducible apply Mem.setBytes_wf
    | with_reducible apply SMap.filter_wf
    | intro _
    | split
    | dsimp only)
theorem State.setVirt_memWf (s : State) (k : Nat) (v : BitVec 48) (hm : Memory.wf s.mem = true) : Memory.wf (State.setVirt s k v).mem = true := by
  unfold State.setVirt
  repeat' (first
    | with_reducible assumption
    | with_reducible refine foldl_memWf _ _ _ ?_ ?_
    | with_reducible refine foldl_memWf_fst _ _ _ ?_ ?_
    | with_reducible refine ite_memWf ?_ ?_
    | with_reducible apply Mem.setBytes_wf
    | with_reducible apply SMap.filter_wf
    | intro _
    | split
    | dsimp only)
theorem State.flowFills_memWf (s : State) (k : Nat) (v : Nat) (hm : Memory.wf s.mem = true) : Memory.wf (State.flowFills s k v).mem = true := by
  unfold State.flowFills
  repeat' (first
    | with_reducible assumption
    | with_reducible apply State.setFlow_memWf
    | with_reducible refine foldl_memWf _ _ _ ?_ ?_
    | with_reducible refine foldl_memWf_fst _ _ _ ?_ ?_
    | with_reducible refine ite_memWf ?_ ?_
    | with_reducible apply Mem.setBytes_wf
    | with_reducible apply SMap.filter_wf
    | intro _
    | split
    | dsimp only)
theorem State.flowServes_memWf (s : State) (k : Nat) (b : Nat) (v : Nat) (len : Nat) (w : Nat) (cfg : Word) (weighted : Bool) (hm : Memory.wf s.mem = true) : Memory.wf (State.flowServes s k b v len w cfg weighted).mem = true := by
  unfold State.flowServes
  repeat' (first
    | with_reducible assumption
    | with_reducible apply State.setFlow_memWf
    | with_reducible apply State.setVirt_memWf
    | with_reducible refine foldl_memWf _ _ _ ?_ ?_
    | with_reducible refine foldl_memWf_fst _ _ _ ?_ ?_
    | with_reducible refine ite_memWf ?_ ?_
    | with_reducible apply Mem.setBytes_wf
    | with_reducible apply SMap.filter_wf
    | intro _
    | split
    | dsimp only)
theorem State.shaperSet_memWf (s : State) (b : Nat) (cfg : Word) (hm : Memory.wf s.mem = true) : Memory.wf (State.shaperSet s b cfg).mem = true := by
  unfold State.shaperSet
  repeat' (first
    | with_reducible assumption
    | with_reducible apply State.setFlow_memWf
    | with_reducible refine foldl_memWf _ _ _ ?_ ?_
    | with_reducible refine foldl_memWf_fst _ _ _ ?_ ?_
    | with_reducible refine ite_memWf ?_ ?_
    | with_reducible apply Mem.setBytes_wf
    | with_reducible apply SMap.filter_wf
    | intro _
    | split
    | dsimp only)
theorem State.setPort_memWf (s : State) (p : Nat) (x : Port) (hm : Memory.wf s.mem = true) : Memory.wf (State.setPort s p x).mem = true := by
  unfold State.setPort
  repeat' (first
    | with_reducible assumption
    | with_reducible refine foldl_memWf _ _ _ ?_ ?_
    | with_reducible refine foldl_memWf_fst _ _ _ ?_ ?_
    | with_reducible refine ite_memWf ?_ ?_
    | with_reducible apply Mem.setBytes_wf
    | with_reducible apply SMap.filter_wf
    | intro _
    | split
    | dsimp only)
theorem State.setEgress_memWf (s : State) (p : Nat) (c : Nat) (ws : List Waiting) (hm : Memory.wf s.mem = true) : Memory.wf (State.setEgress s p c ws).mem = true := by
  unfold State.setEgress
  repeat' (first
    | with_reducible assumption
    | with_reducible apply State.setPort_memWf
    | with_reducible refine foldl_memWf _ _ _ ?_ ?_
    | with_reducible refine foldl_memWf_fst _ _ _ ?_ ?_
    | with_reducible refine ite_memWf ?_ ?_
    | with_reducible apply Mem.setBytes_wf
    | with_reducible apply SMap.filter_wf
    | intro _
    | split
    | dsimp only)
theorem State.enqueueAt_memWf (s : State) (p : Nat) (m : Msg) (hm : Memory.wf s.mem = true) : Memory.wf (State.enqueueAt s p m).mem = true := by
  unfold State.enqueueAt
  repeat' (first
    | with_reducible assumption
    | with_reducible apply State.flowFills_memWf
    | with_reducible apply State.setEgress_memWf
    | with_reducible refine foldl_memWf _ _ _ ?_ ?_
    | with_reducible refine foldl_memWf_fst _ _ _ ?_ ?_
    | with_reducible refine ite_memWf ?_ ?_
    | with_reducible apply Mem.setBytes_wf
    | with_reducible apply SMap.filter_wf
    | intro _
    | split
    | dsimp only)
theorem State.sendRouted_memWf (s : State) (m : Msg) (inPort : Option Nat) (hm : Memory.wf s.mem = true) : ∀ t, (State.sendRouted s m inPort) = .ok t → Memory.wf t.mem = true := by
  intro t hr
  unfold State.sendRouted at hr
  repeat' (first
    | with_reducible assumption
    | with_reducible apply State.enqueueAt_memWf
    | with_reducible refine foldl_memWf _ _ _ ?_ ?_
    | with_reducible refine foldl_memWf_fst _ _ _ ?_ ?_
    | with_reducible refine ite_memWf ?_ ?_
    | with_reducible apply Mem.setBytes_wf
    | with_reducible apply SMap.filter_wf
    | intro _
    | cases hr
    | split at hr
    | dsimp only at hr
    | split
    | dsimp only)
theorem State.sendRouted_memWf_eq {s : State} {m : Msg} {inPort : Option Nat} {t} (hr : State.sendRouted s m inPort = .ok t) (hm : Memory.wf s.mem = true) : Memory.wf t.mem = true := State.sendRouted_memWf s m inPort hm t hr
theorem State.sendLink_memWf (s : State) (p : Nat) (typ : Byte) (cls : BitVec 3) (payload : List Byte) (hm : Memory.wf s.mem = true) : Memory.wf (State.sendLink s p typ cls payload).mem = true := by
  unfold State.sendLink
  repeat' (first
    | with_reducible assumption
    | with_reducible apply State.enqueueAt_memWf
    | with_reducible refine foldl_memWf _ _ _ ?_ ?_
    | with_reducible refine foldl_memWf_fst _ _ _ ?_ ?_
    | with_reducible refine ite_memWf ?_ ?_
    | with_reducible apply Mem.setBytes_wf
    | with_reducible apply SMap.filter_wf
    | intro _
    | split
    | dsimp only)
theorem State.setCore_memWf (s : State) (n : CoreId) (c : Core) (hm : Memory.wf s.mem = true) : Memory.wf (State.setCore s n c).mem = true := by
  unfold State.setCore
  repeat' (first
    | with_reducible assumption
    | with_reducible refine foldl_memWf _ _ _ ?_ ?_
    | with_reducible refine foldl_memWf_fst _ _ _ ?_ ?_
    | with_reducible refine ite_memWf ?_ ?_
    | with_reducible apply Mem.setBytes_wf
    | with_reducible apply SMap.filter_wf
    | intro _
    | split
    | dsimp only)
theorem State.setPeony_memWf (s : State) (n : Nat) (c : PeonyCore) (hm : Memory.wf s.mem = true) : Memory.wf (State.setPeony s n c).mem = true := by
  unfold State.setPeony
  repeat' (first
    | with_reducible assumption
    | with_reducible refine foldl_memWf _ _ _ ?_ ?_
    | with_reducible refine foldl_memWf_fst _ _ _ ?_ ?_
    | with_reducible refine ite_memWf ?_ ?_
    | with_reducible apply Mem.setBytes_wf
    | with_reducible apply SMap.filter_wf
    | intro _
    | split
    | dsimp only)
theorem State.setCmd_memWf (s : State) (c : Cmd) (hm : Memory.wf s.mem = true) : Memory.wf (State.setCmd s c).mem = true := by
  unfold State.setCmd
  repeat' (first
    | with_reducible assumption
    | with_reducible refine foldl_memWf _ _ _ ?_ ?_
    | with_reducible refine foldl_memWf_fst _ _ _ ?_ ?_
    | with_reducible refine ite_memWf ?_ ?_
    | with_reducible apply Mem.setBytes_wf
    | with_reducible apply SMap.filter_wf
    | intro _
    | split
    | dsimp only)
theorem State.dropCmd_memWf (s : State) (id : Nat) (hm : Memory.wf s.mem = true) : Memory.wf (State.dropCmd s id).mem = true := by
  unfold State.dropCmd
  repeat' (first
    | with_reducible assumption
    | with_reducible refine foldl_memWf _ _ _ ?_ ?_
    | with_reducible refine foldl_memWf_fst _ _ _ ?_ ?_
    | with_reducible refine ite_memWf ?_ ?_
    | with_reducible apply Mem.setBytes_wf
    | with_reducible apply SMap.filter_wf
    | intro _
    | split
    | dsimp only)
theorem State.dropCmds_memWf (s : State) (f : Cmd → Bool) (hm : Memory.wf s.mem = true) : Memory.wf (State.dropCmds s f).mem = true := by
  unfold State.dropCmds
  repeat' (first
    | with_reducible assumption
    | with_reducible refine foldl_memWf _ _ _ ?_ ?_
    | with_reducible refine foldl_memWf_fst _ _ _ ?_ ?_
    | with_reducible refine ite_memWf ?_ ?_
    | with_reducible apply Mem.setBytes_wf
    | with_reducible apply SMap.filter_wf
    | intro _
    | split
    | dsimp only)
theorem State.setJob_memWf (s : State) (j : Job) (hm : Memory.wf s.mem = true) : Memory.wf (State.setJob s j).mem = true := by
  unfold State.setJob
  repeat' (first
    | with_reducible assumption
    | with_reducible refine foldl_memWf _ _ _ ?_ ?_
    | with_reducible refine foldl_memWf_fst _ _ _ ?_ ?_
    | with_reducible refine ite_memWf ?_ ?_
    | with_reducible apply Mem.setBytes_wf
    | with_reducible apply SMap.filter_wf
    | intro _
    | split
    | dsimp only)
theorem State.drawn_memWf (s : State) (hm : Memory.wf s.mem = true) : Memory.wf (State.drawn s).mem = true := by
  unfold State.drawn
  repeat' (first
    | with_reducible assumption
    | with_reducible refine foldl_memWf _ _ _ ?_ ?_
    | with_reducible refine foldl_memWf_fst _ _ _ ?_ ?_
    | with_reducible refine ite_memWf ?_ ?_
    | with_reducible apply Mem.setBytes_wf
    | with_reducible apply SMap.filter_wf
    | intro _
    | split
    | dsimp only)
theorem State.send_memWf (s : State) (o : Out) (hm : Memory.wf s.mem = true) : Memory.wf (State.send s o).mem = true := by
  unfold State.send
  repeat' (first
    | with_reducible assumption
    | with_reducible refine foldl_memWf _ _ _ ?_ ?_
    | with_reducible refine foldl_memWf_fst _ _ _ ?_ ?_
    | with_reducible refine ite_memWf ?_ ?_
    | with_reducible apply Mem.setBytes_wf
    | with_reducible apply SMap.filter_wf
    | intro _
    | split
    | dsimp only)
theorem State.logEvent_memWf (s : State) (code : Byte) (sev : Byte) (unit : BitVec 16) (job : BitVec 16) (arg : Word) (hm : Memory.wf s.mem = true) : Memory.wf (State.logEvent s code sev unit job arg).mem = true := by
  unfold State.logEvent
  repeat' (first
    | with_reducible assumption
    | with_reducible apply State.setReg_memWf
    | with_reducible apply State.bump_memWf
    | with_reducible refine foldl_memWf _ _ _ ?_ ?_
    | with_reducible refine foldl_memWf_fst _ _ _ ?_ ?_
    | with_reducible refine ite_memWf ?_ ?_
    | with_reducible apply Mem.setBytes_wf
    | with_reducible apply SMap.filter_wf
    | intro _
    | split
    | dsimp only)
theorem State.corrected_memWf (s : State) (code : Byte) (unit : BitVec 16) (job : BitVec 16) (arg : Word) (hm : Memory.wf s.mem = true) : Memory.wf (State.corrected s code unit job arg).mem = true := by
  unfold State.corrected
  repeat' (first
    | with_reducible assumption
    | with_reducible apply State.bump_memWf
    | with_reducible apply State.logEvent_memWf
    | with_reducible refine foldl_memWf _ _ _ ?_ ?_
    | with_reducible refine foldl_memWf_fst _ _ _ ?_ ?_
    | with_reducible refine ite_memWf ?_ ?_
    | with_reducible apply Mem.setBytes_wf
    | with_reducible apply SMap.filter_wf
    | intro _
    | split
    | dsimp only)
theorem State.squash_memWf (s : State) (src : Nat) (g : Nat) (n : Nat) (hm : Memory.wf s.mem = true) : Memory.wf (State.squash s src g n).mem = true := by
  unfold State.squash
  repeat' (first
    | with_reducible assumption
    | with_reducible apply State.bump_memWf
    | with_reducible refine foldl_memWf _ _ _ ?_ ?_
    | with_reducible refine foldl_memWf_fst _ _ _ ?_ ?_
    | with_reducible refine ite_memWf ?_ ?_
    | with_reducible apply Mem.setBytes_wf
    | with_reducible apply SMap.filter_wf
    | intro _
    | split
    | dsimp only)
theorem State.validate_memWf (s : State) (src : Nat) (g : Nat) (n : Nat) (hm : Memory.wf s.mem = true) : Memory.wf (State.validate s src g n).mem = true := by
  unfold State.validate
  repeat' (first
    | with_reducible assumption
    | with_reducible apply State.bump_memWf
    | with_reducible refine foldl_memWf _ _ _ ?_ ?_
    | with_reducible refine foldl_memWf_fst _ _ _ ?_ ?_
    | with_reducible refine ite_memWf ?_ ?_
    | with_reducible apply Mem.setBytes_wf
    | with_reducible apply SMap.filter_wf
    | intro _
    | split
    | dsimp only)
theorem State.evict_memWf (s : State) (gone : AheadLine → Bool) (hm : Memory.wf s.mem = true) : Memory.wf (State.evict s gone).mem = true := by
  unfold State.evict
  repeat' (first
    | with_reducible assumption
    | with_reducible apply State.bump_memWf
    | with_reducible apply State.squash_memWf
    | with_reducible refine foldl_memWf _ _ _ ?_ ?_
    | with_reducible refine foldl_memWf_fst _ _ _ ?_ ?_
    | with_reducible refine ite_memWf ?_ ?_
    | with_reducible apply Mem.setBytes_wf
    | with_reducible apply SMap.filter_wf
    | intro _
    | split
    | dsimp only)
theorem State.dropLines_memWf (s : State) (pa : Nat) (n : Nat) (hm : Memory.wf s.mem = true) : Memory.wf (State.dropLines s pa n).mem = true := by
  unfold State.dropLines
  repeat' (first
    | with_reducible assumption
    | with_reducible apply State.evict_memWf
    | with_reducible refine foldl_memWf _ _ _ ?_ ?_
    | with_reducible refine foldl_memWf_fst _ _ _ ?_ ?_
    | with_reducible refine ite_memWf ?_ ?_
    | with_reducible apply Mem.setBytes_wf
    | with_reducible apply SMap.filter_wf
    | intro _
    | split
    | dsimp only)
theorem State.useLines_memWf (s : State) (g : Nat) (pa : Nat) (n : Nat) (node : Bool) (hm : Memory.wf s.mem = true) : Memory.wf (State.useLines s g pa n node).mem = true := by
  unfold State.useLines
  repeat' (first
    | with_reducible assumption
    | with_reducible apply State.bump_memWf
    | with_reducible apply State.validate_memWf
    | with_reducible refine foldl_memWf _ _ _ ?_ ?_
    | with_reducible refine foldl_memWf_fst _ _ _ ?_ ?_
    | with_reducible refine ite_memWf ?_ ?_
    | with_reducible apply Mem.setBytes_wf
    | with_reducible apply SMap.filter_wf
    | intro _
    | split
    | dsimp only)
theorem State.putBytes_memWf (s : State) (a : Nat) (bs : List Byte) (hm : Memory.wf s.mem = true) : Memory.wf (State.putBytes s a bs).mem = true := by
  unfold State.putBytes
  repeat' (first
    | with_reducible assumption
    | with_reducible refine foldl_memWf _ _ _ ?_ ?_
    | with_reducible refine foldl_memWf_fst _ _ _ ?_ ?_
    | with_reducible refine ite_memWf ?_ ?_
    | with_reducible apply Mem.setBytes_wf
    | with_reducible apply SMap.filter_wf
    | intro _
    | split
    | dsimp only)
theorem State.claim_memWf (s : State) (job : BitVec 16) (u : Nat) (hm : Memory.wf s.mem = true) : Memory.wf (State.claim s job u).mem = true := by
  unfold State.claim
  repeat' (first
    | with_reducible assumption
    | with_reducible refine foldl_memWf _ _ _ ?_ ?_
    | with_reducible refine foldl_memWf_fst _ _ _ ?_ ?_
    | with_reducible refine ite_memWf ?_ ?_
    | with_reducible apply Mem.setBytes_wf
    | with_reducible apply SMap.filter_wf
    | intro _
    | split
    | dsimp only)
theorem State.setPoison_memWf (s : State) (u : Nat) (v : Bool) (hm : Memory.wf s.mem = true) : Memory.wf (State.setPoison s u v).mem = true := by
  unfold State.setPoison
  repeat' (first
    | with_reducible assumption
    | with_reducible refine foldl_memWf _ _ _ ?_ ?_
    | with_reducible refine foldl_memWf_fst _ _ _ ?_ ?_
    | with_reducible refine ite_memWf ?_ ?_
    | with_reducible apply Mem.setBytes_wf
    | with_reducible apply SMap.filter_wf
    | intro _
    | split
    | dsimp only)
theorem State.markWrite_memWf (s : State) (pa : Nat) (n : Nat) (bad : Bool) (hm : Memory.wf s.mem = true) : Memory.wf (State.markWrite s pa n bad).mem = true := by
  unfold State.markWrite
  repeat' (first
    | with_reducible assumption
    | with_reducible apply State.setPoison_memWf
    | with_reducible refine foldl_memWf _ _ _ ?_ ?_
    | with_reducible refine foldl_memWf_fst _ _ _ ?_ ?_
    | with_reducible refine ite_memWf ?_ ?_
    | with_reducible apply Mem.setBytes_wf
    | with_reducible apply SMap.filter_wf
    | intro _
    | split
    | dsimp only)
theorem State.ramWrite_memWf (s : State) (job : BitVec 16) (pa : Nat) (bs : List Byte) (bad : Bool) (hm : Memory.wf s.mem = true) : Memory.wf (State.ramWrite s job pa bs bad).mem = true := by
  unfold State.ramWrite
  repeat' (first
    | with_reducible assumption
    | with_reducible apply State.dropLines_memWf
    | with_reducible apply State.putBytes_memWf
    | with_reducible apply State.claim_memWf
    | with_reducible apply State.markWrite_memWf
    | with_reducible refine foldl_memWf _ _ _ ?_ ?_
    | with_reducible refine foldl_memWf_fst _ _ _ ?_ ?_
    | with_reducible refine ite_memWf ?_ ?_
    | with_reducible apply Mem.setBytes_wf
    | with_reducible apply SMap.filter_wf
    | intro _
    | split
    | dsimp only)
theorem State.health_memWf (s : State) (code : Byte) (die : Byte) (block : Nat) (arg : Nat) (hm : Memory.wf s.mem = true) : Memory.wf (State.health s code die block arg).mem = true := by
  unfold State.health
  repeat' (first
    | with_reducible assumption
    | with_reducible apply State.setReg_memWf
    | with_reducible apply State.bumpSat_memWf
    | with_reducible apply State.ramWrite_memWf
    | with_reducible refine foldl_memWf _ _ _ ?_ ?_
    | with_reducible refine foldl_memWf_fst _ _ _ ?_ ?_
    | with_reducible refine ite_memWf ?_ ?_
    | with_reducible apply Mem.setBytes_wf
    | with_reducible apply SMap.filter_wf
    | intro _
    | split
    | dsimp only)
theorem State.readBlock_memWf (s : State) (k : Nat) (hm : Memory.wf s.mem = true) : Memory.wf (State.readBlock s k).mem = true := by
  unfold State.readBlock
  repeat' (first
    | with_reducible assumption
    | with_reducible apply State.health_memWf
    | with_reducible refine foldl_memWf _ _ _ ?_ ?_
    | with_reducible refine foldl_memWf_fst _ _ _ ?_ ?_
    | with_reducible refine ite_memWf ?_ ?_
    | with_reducible apply Mem.setBytes_wf
    | with_reducible apply SMap.filter_wf
    | intro _
    | split
    | dsimp only)
theorem State.countFlashRead_memWf (s : State) (b : Nat) (hm : Memory.wf s.mem = true) : Memory.wf (State.countFlashRead s b).mem = true := by
  unfold State.countFlashRead
  repeat' (first
    | with_reducible assumption
    | with_reducible apply State.bump_memWf
    | with_reducible apply State.readBlock_memWf
    | with_reducible refine foldl_memWf _ _ _ ?_ ?_
    | with_reducible refine foldl_memWf_fst _ _ _ ?_ ?_
    | with_reducible refine ite_memWf ?_ ?_
    | with_reducible apply Mem.setBytes_wf
    | with_reducible apply SMap.filter_wf
    | intro _
    | split
    | dsimp only)
theorem State.countFlashReads_memWf (s : State) (bs : List Nat) (hm : Memory.wf s.mem = true) : Memory.wf (State.countFlashReads s bs).mem = true := by
  unfold State.countFlashReads
  repeat' (first
    | with_reducible assumption
    | with_reducible apply State.countFlashRead_memWf
    | with_reducible refine foldl_memWf _ _ _ ?_ ?_
    | with_reducible refine foldl_memWf_fst _ _ _ ?_ ?_
    | with_reducible refine ite_memWf ?_ ?_
    | with_reducible apply Mem.setBytes_wf
    | with_reducible apply SMap.filter_wf
    | intro _
    | split
    | dsimp only)
theorem State.countRegion_memWf (s : State) (a : Agent) (va : Nat) (n : Nat) (hm : Memory.wf s.mem = true) : Memory.wf (State.countRegion s a va n).mem = true := by
  unfold State.countRegion
  repeat' (first
    | with_reducible assumption
    | with_reducible apply State.countFlashReads_memWf
    | with_reducible refine foldl_memWf _ _ _ ?_ ?_
    | with_reducible refine foldl_memWf_fst _ _ _ ?_ ?_
    | with_reducible refine ite_memWf ?_ ?_
    | with_reducible apply Mem.setBytes_wf
    | with_reducible apply SMap.filter_wf
    | intro _
    | split
    | dsimp only)
theorem State.mmuFault_memWf (s : State) (job : BitVec 16) (agent : Nat) (f : MemFail) (hm : Memory.wf s.mem = true) : Memory.wf (State.mmuFault s job agent f).mem = true := by
  unfold State.mmuFault
  repeat' (first
    | with_reducible assumption
    | with_reducible apply State.setReg_memWf
    | with_reducible refine foldl_memWf _ _ _ ?_ ?_
    | with_reducible refine foldl_memWf_fst _ _ _ ?_ ?_
    | with_reducible refine ite_memWf ?_ ?_
    | with_reducible apply Mem.setBytes_wf
    | with_reducible apply SMap.filter_wf
    | intro _
    | split
    | dsimp only)
theorem State.request_memWf (s : State) (r : Req) (typ : Byte) (cls : BitVec 3) (poison : Bool) (payload : List Byte) (hm : Memory.wf s.mem = true) : ∀ t, (State.request s r typ cls poison payload) = .ok t → Memory.wf t.mem = true := by
  intro t hr
  unfold State.request at hr
  repeat' (first
    | with_reducible assumption
    | with_reducible refine State.sendRouted_memWf_eq ‹_› ?_
    | with_reducible refine foldl_memWf _ _ _ ?_ ?_
    | with_reducible refine foldl_memWf_fst _ _ _ ?_ ?_
    | with_reducible refine ite_memWf ?_ ?_
    | with_reducible apply Mem.setBytes_wf
    | with_reducible apply SMap.filter_wf
    | intro _
    | cases hr
    | split at hr
    | dsimp only at hr
    | split
    | dsimp only)
theorem State.request_memWf_eq {s : State} {r : Req} {typ : Byte} {cls : BitVec 3} {poison : Bool} {payload : List Byte} {t} (hr : State.request s r typ cls poison payload = .ok t) (hm : Memory.wf s.mem = true) : Memory.wf t.mem = true := State.request_memWf s r typ cls poison payload hm t hr
theorem State.dropHome_memWf (s : State) (home : Nat) (n : Nat) (hm : Memory.wf s.mem = true) : Memory.wf (State.dropHome s home n).mem = true := by
  unfold State.dropHome
  repeat' (first
    | with_reducible assumption
    | with_reducible apply State.dropLines_memWf
    | with_reducible refine foldl_memWf _ _ _ ?_ ?_
    | with_reducible refine foldl_memWf_fst _ _ _ ?_ ?_
    | with_reducible refine ite_memWf ?_ ?_
    | with_reducible apply Mem.setBytes_wf
    | with_reducible apply SMap.filter_wf
    | intro _
    | split
    | dsimp only)
theorem State.forgetFills_memWf (s : State) (g : Nat) (hm : Memory.wf s.mem = true) : Memory.wf (State.forgetFills s g).mem = true := by
  unfold State.forgetFills
  repeat' (first
    | with_reducible assumption
    | with_reducible refine foldl_memWf _ _ _ ?_ ?_
    | with_reducible refine foldl_memWf_fst _ _ _ ?_ ?_
    | with_reducible refine ite_memWf ?_ ?_
    | with_reducible apply Mem.setBytes_wf
    | with_reducible apply SMap.filter_wf
    | intro _
    | split
    | dsimp only)
theorem State.dropPeers_memWf (s : State) (g : Nat) (hm : Memory.wf s.mem = true) : Memory.wf (State.dropPeers s g).mem = true := by
  unfold State.dropPeers
  repeat' (first
    | with_reducible assumption
    | with_reducible apply State.evict_memWf
    | with_reducible apply State.forgetFills_memWf
    | with_reducible refine foldl_memWf _ _ _ ?_ ?_
    | with_reducible refine foldl_memWf_fst _ _ _ ?_ ?_
    | with_reducible refine ite_memWf ?_ ?_
    | with_reducible apply Mem.setBytes_wf
    | with_reducible apply SMap.filter_wf
    | intro _
    | split
    | dsimp only)
theorem State.failedWrite_memWf (s : State) (core : CoreId) (cmd : Nat) (peer : BitVec 16) (code : Byte) (hm : Memory.wf s.mem = true) : Memory.wf (State.failedWrite s core cmd peer code).mem = true := by
  unfold State.failedWrite
  repeat' (first
    | with_reducible assumption
    | with_reducible apply State.setCore_memWf
    | with_reducible refine foldl_memWf _ _ _ ?_ ?_
    | with_reducible refine foldl_memWf_fst _ _ _ ?_ ?_
    | with_reducible refine ite_memWf ?_ ?_
    | with_reducible apply Mem.setBytes_wf
    | with_reducible apply SMap.filter_wf
    | intro _
    | split
    | dsimp only)
theorem State.overwrites_memWf (s : State) (job : BitVec 16) (cmd : Nat) (pa : Nat) (n : Nat) (hm : Memory.wf s.mem = true) : Memory.wf (State.overwrites s job cmd pa n).mem = true := by
  unfold State.overwrites
  repeat' (first
    | with_reducible assumption
    | with_reducible refine foldl_memWf _ _ _ ?_ ?_
    | with_reducible refine foldl_memWf_fst _ _ _ ?_ ?_
    | with_reducible refine ite_memWf ?_ ?_
    | with_reducible apply Mem.setBytes_wf
    | with_reducible apply SMap.filter_wf
    | intro _
    | split
    | dsimp only)
theorem State.poolWrite_memWf (s : State) (core : CoreId) (job : BitVec 16) (cmd : Nat) (cls : BitVec 3) (va : Nat) (pa : Nat) (bs : List Byte) (bad : Bool) (hm : Memory.wf s.mem = true) : Memory.wf (State.poolWrite s core job cmd cls va pa bs bad).mem = true := by
  unfold State.poolWrite
  repeat' (first
    | with_reducible assumption
    | with_reducible apply State.ramWrite_memWf
    | with_reducible refine State.request_memWf_eq ‹_› ?_
    | with_reducible apply State.dropHome_memWf
    | with_reducible apply State.failedWrite_memWf
    | with_reducible apply State.overwrites_memWf
    | with_reducible refine foldl_memWf _ _ _ ?_ ?_
    | with_reducible refine foldl_memWf_fst _ _ _ ?_ ?_
    | with_reducible refine ite_memWf ?_ ?_
    | with_reducible apply Mem.setBytes_wf
    | with_reducible apply SMap.filter_wf
    | intro _
    | split
    | dsimp only)
theorem State.landPart_memWf (s : State) (id : Nat) (p : PoolPart) (hm : Memory.wf s.mem = true) : Memory.wf (State.landPart s id p).mem = true := by
  unfold State.landPart
  repeat' (first
    | with_reducible assumption
    | with_reducible apply State.setCmd_memWf
    | with_reducible refine foldl_memWf _ _ _ ?_ ?_
    | with_reducible refine foldl_memWf_fst _ _ _ ?_ ?_
    | with_reducible refine ite_memWf ?_ ?_
    | with_reducible apply Mem.setBytes_wf
    | with_reducible apply SMap.filter_wf
    | intro _
    | split
    | dsimp only)
theorem State.fetchRun_memWf (s : State) (c : Cmd) (cls : BitVec 3) (va : Nat) (pa : Nat) (n : Nat) (hm : Memory.wf s.mem = true) : Memory.wf (State.fetchRun s c cls va pa n).mem = true := by
  unfold State.fetchRun
  repeat' (first
    | with_reducible assumption
    | with_reducible refine State.request_memWf_eq ‹_› ?_
    | with_reducible apply State.landPart_memWf
    | with_reducible refine foldl_memWf _ _ _ ?_ ?_
    | with_reducible refine foldl_memWf_fst _ _ _ ?_ ?_
    | with_reducible refine ite_memWf ?_ ?_
    | with_reducible apply Mem.setBytes_wf
    | with_reducible apply SMap.filter_wf
    | intro _
    | split
    | dsimp only)
theorem State.fetch_memWf (s : State) (c : Cmd) (cls : BitVec 3) (ws : List (Nat × Nat × Nat)) (hm : Memory.wf s.mem = true) : Memory.wf (State.fetch s c cls ws).mem = true := by
  unfold State.fetch
  repeat' (first
    | with_reducible assumption
    | with_reducible apply State.fetchRun_memWf
    | with_reducible refine foldl_memWf _ _ _ ?_ ?_
    | with_reducible refine foldl_memWf_fst _ _ _ ?_ ?_
    | with_reducible refine ite_memWf ?_ ?_
    | with_reducible apply Mem.setBytes_wf
    | with_reducible apply SMap.filter_wf
    | intro _
    | split
    | dsimp only)
theorem State.writePiece_memWf (s : State) (a : Agent) (core : CoreId) (cls : BitVec 3) (va : Nat) (pa : Nat) (bs : List Byte) (bad : Bool) (hm : Memory.wf s.mem = true) : Memory.wf (State.writePiece s a core cls va pa bs bad).mem = true := by
  unfold State.writePiece
  repeat' (first
    | with_reducible assumption
    | with_reducible apply State.ramWrite_memWf
    | with_reducible apply State.overwrites_memWf
    | with_reducible apply State.poolWrite_memWf
    | with_reducible refine foldl_memWf _ _ _ ?_ ?_
    | with_reducible refine foldl_memWf_fst _ _ _ ?_ ?_
    | with_reducible refine ite_memWf ?_ ?_
    | with_reducible apply Mem.setBytes_wf
    | with_reducible apply SMap.filter_wf
    | intro _
    | split
    | dsimp only)
theorem State.store_memWf (s : State) (a : Agent) (core : CoreId) (cls : BitVec 3) (va : Nat) (bs : List Byte) (bad : Bool) (hm : Memory.wf s.mem = true) : Memory.wf (State.store s a core cls va bs bad).mem = true := by
  unfold State.store
  repeat' (first
    | with_reducible assumption
    | with_reducible apply State.mmuFault_memWf
    | with_reducible apply State.writePiece_memWf
    | with_reducible refine foldl_memWf _ _ _ ?_ ?_
    | with_reducible refine foldl_memWf_fst _ _ _ ?_ ?_
    | with_reducible refine ite_memWf ?_ ?_
    | with_reducible apply Mem.setBytes_wf
    | with_reducible apply SMap.filter_wf
    | intro _
    | split
    | dsimp only)
theorem State.traceAddr_memWf (s : State) (n : CoreId) (kind : BitVec 2) (pc : BitVec 18) (hm : Memory.wf s.mem = true) : Memory.wf (State.traceAddr s n kind pc).mem = true := by
  unfold State.traceAddr
  repeat' (first
    | with_reducible assumption
    | with_reducible refine foldl_memWf _ _ _ ?_ ?_
    | with_reducible refine foldl_memWf_fst _ _ _ ?_ ?_
    | with_reducible refine ite_memWf ?_ ?_
    | with_reducible apply Mem.setBytes_wf
    | with_reducible apply SMap.filter_wf
    | intro _
    | split
    | dsimp only)
theorem State.traceTagged_memWf (s : State) (p : Nat) (unit : BitVec 16) (event : Byte) (status : Byte) (job : BitVec 16) (tag : BitVec 16) (arg0 : Word) (arg1 : Word) (hm : Memory.wf s.mem = true) : Memory.wf (State.traceTagged s p unit event status job tag arg0 arg1).mem = true := by
  unfold State.traceTagged
  repeat' (first
    | with_reducible assumption
    | with_reducible refine foldl_memWf _ _ _ ?_ ?_
    | with_reducible refine foldl_memWf_fst _ _ _ ?_ ?_
    | with_reducible refine ite_memWf ?_ ?_
    | with_reducible apply Mem.setBytes_wf
    | with_reducible apply SMap.filter_wf
    | intro _
    | split
    | dsimp only)
theorem State.setQueue_memWf (s : State) (q : Nat) (x : StemQ) (hm : Memory.wf s.mem = true) : Memory.wf (State.setQueue s q x).mem = true := by
  unfold State.setQueue
  repeat' (first
    | with_reducible assumption
    | with_reducible refine foldl_memWf _ _ _ ?_ ?_
    | with_reducible refine foldl_memWf_fst _ _ _ ?_ ?_
    | with_reducible refine ite_memWf ?_ ?_
    | with_reducible apply Mem.setBytes_wf
    | with_reducible apply SMap.filter_wf
    | intro _
    | split
    | dsimp only)
theorem State.pushWord_memWf (s : State) (q : Nat) (w : QWord) (hm : Memory.wf s.mem = true) : Memory.wf (State.pushWord s q w).mem = true := by
  unfold State.pushWord
  repeat' (first
    | with_reducible assumption
    | with_reducible apply State.setQueue_memWf
    | with_reducible refine foldl_memWf _ _ _ ?_ ?_
    | with_reducible refine foldl_memWf_fst _ _ _ ?_ ?_
    | with_reducible refine ite_memWf ?_ ?_
    | with_reducible apply Mem.setBytes_wf
    | with_reducible apply SMap.filter_wf
    | intro _
    | split
    | dsimp only)
theorem State.acceptWord_memWf (s : State) (q : Nat) (w : QWord) (hm : Memory.wf s.mem = true) : Memory.wf (State.acceptWord s q w).mem = true := by
  unfold State.acceptWord
  repeat' (first
    | with_reducible assumption
    | with_reducible apply State.bump_memWf
    | with_reducible apply State.pushWord_memWf
    | with_reducible refine foldl_memWf _ _ _ ?_ ?_
    | with_reducible refine foldl_memWf_fst _ _ _ ?_ ?_
    | with_reducible refine ite_memWf ?_ ?_
    | with_reducible apply Mem.setBytes_wf
    | with_reducible apply SMap.filter_wf
    | intro _
    | split
    | dsimp only)
theorem State.setCad_memWf (s : State) (k : Nat) (x : Cadence) (hm : Memory.wf s.mem = true) : Memory.wf (State.setCad s k x).mem = true := by
  unfold State.setCad
  repeat' (first
    | with_reducible assumption
    | with_reducible refine foldl_memWf _ _ _ ?_ ?_
    | with_reducible refine foldl_memWf_fst _ _ _ ?_ ?_
    | with_reducible refine ite_memWf ?_ ?_
    | with_reducible apply Mem.setBytes_wf
    | with_reducible apply SMap.filter_wf
    | intro _
    | split
    | dsimp only)
theorem State.wordTaken_memWf (s : State) (w : QWord) (hm : Memory.wf s.mem = true) : Memory.wf (State.wordTaken s w).mem = true := by
  unfold State.wordTaken
  repeat' (first
    | with_reducible assumption
    | with_reducible apply State.setCad_memWf
    | with_reducible apply State.tick_memWf
    | with_reducible refine foldl_memWf _ _ _ ?_ ?_
    | with_reducible refine foldl_memWf_fst _ _ _ ?_ ?_
    | with_reducible refine ite_memWf ?_ ?_
    | with_reducible apply Mem.setBytes_wf
    | with_reducible apply SMap.filter_wf
    | intro _
    | split
    | dsimp only)
theorem State.popWord_memWf (s : State) (q : Nat) (hm : Memory.wf s.mem = true) : Memory.wf (State.popWord s q).mem = true := by
  unfold State.popWord
  repeat' (first
    | with_reducible assumption
    | with_reducible apply State.setQueue_memWf
    | with_reducible apply State.wordTaken_memWf
    | with_reducible refine foldl_memWf _ _ _ ?_ ?_
    | with_reducible refine foldl_memWf_fst _ _ _ ?_ ?_
    | with_reducible refine ite_memWf ?_ ?_
    | with_reducible apply Mem.setBytes_wf
    | with_reducible apply SMap.filter_wf
    | intro _
    | split
    | dsimp only)
theorem State.unitPut_memWf (s : State) (q : Nat) (w : QWord) (hm : Memory.wf s.mem = true) : Memory.wf (State.unitPut s q w).mem = true := by
  unfold State.unitPut
  repeat' (first
    | with_reducible assumption
    | with_reducible apply State.bump_memWf
    | with_reducible apply State.setQueue_memWf
    | with_reducible apply State.acceptWord_memWf
    | with_reducible refine foldl_memWf _ _ _ ?_ ?_
    | with_reducible refine foldl_memWf_fst _ _ _ ?_ ?_
    | with_reducible refine ite_memWf ?_ ?_
    | with_reducible apply Mem.setBytes_wf
    | with_reducible apply SMap.filter_wf
    | intro _
    | split
    | dsimp only)
theorem State.releasePut_memWf (s : State) (h : HeldPut) (hm : Memory.wf s.mem = true) : Memory.wf (State.releasePut s h).mem = true := by
  unfold State.releasePut
  repeat' (first
    | with_reducible assumption
    | with_reducible apply State.unitPut_memWf
    | with_reducible refine foldl_memWf _ _ _ ?_ ?_
    | with_reducible refine foldl_memWf_fst _ _ _ ?_ ?_
    | with_reducible refine ite_memWf ?_ ?_
    | with_reducible apply Mem.setBytes_wf
    | with_reducible apply SMap.filter_wf
    | intro _
    | split
    | dsimp only)
theorem State.flushHeld_memWf (s : State) (hm : Memory.wf s.mem = true) : Memory.wf (State.flushHeld s).mem = true := by
  unfold State.flushHeld
  repeat' (first
    | with_reducible assumption
    | with_reducible apply State.unitPut_memWf
    | with_reducible refine foldl_memWf _ _ _ ?_ ?_
    | with_reducible refine foldl_memWf_fst _ _ _ ?_ ?_
    | with_reducible refine ite_memWf ?_ ?_
    | with_reducible apply Mem.setBytes_wf
    | with_reducible apply SMap.filter_wf
    | intro _
    | split
    | dsimp only)
theorem State.discardWords_memWf (s : State) (q : Nat) (hm : Memory.wf s.mem = true) : Memory.wf (State.discardWords s q).mem = true := by
  unfold State.discardWords
  repeat' (first
    | with_reducible assumption
    | with_reducible apply State.bump_memWf
    | with_reducible apply State.setQueue_memWf
    | with_reducible apply State.wordTaken_memWf
    | with_reducible refine foldl_memWf _ _ _ ?_ ?_
    | with_reducible refine foldl_memWf_fst _ _ _ ?_ ?_
    | with_reducible refine ite_memWf ?_ ?_
    | with_reducible apply Mem.setBytes_wf
    | with_reducible apply SMap.filter_wf
    | intro _
    | split
    | dsimp only)
theorem State.postFault_memWf (s : State) (n : CoreId) (code : Byte) (pc : BitVec 18) (va : Nat) (hm : Memory.wf s.mem = true) : Memory.wf (State.postFault s n code pc va).mem = true := by
  unfold State.postFault
  repeat' (first
    | with_reducible assumption
    | with_reducible apply State.releasePut_memWf
    | with_reducible refine foldl_memWf _ _ _ ?_ ?_
    | with_reducible refine foldl_memWf_fst _ _ _ ?_ ?_
    | with_reducible refine ite_memWf ?_ ?_
    | with_reducible apply Mem.setBytes_wf
    | with_reducible apply SMap.filter_wf
    | intro _
    | split
    | dsimp only)
theorem State.beginRecovery_memWf (s : State) (g : Nat) (code : Byte) (unit : BitVec 16) (hm : Memory.wf s.mem = true) : Memory.wf (State.beginRecovery s g code unit).mem = true := by
  unfold State.beginRecovery
  repeat' (first
    | with_reducible assumption
    | with_reducible refine foldl_memWf _ _ _ ?_ ?_
    | with_reducible refine foldl_memWf_fst _ _ _ ?_ ?_
    | with_reducible refine ite_memWf ?_ ?_
    | with_reducible apply Mem.setBytes_wf
    | with_reducible apply SMap.filter_wf
    | intro _
    | split
    | dsimp only)
theorem State.coreFault_memWf (s : State) (n : CoreId) (code : Byte) (va : Nat) (hm : Memory.wf s.mem = true) : Memory.wf (State.coreFault s n code va).mem = true := by
  unfold State.coreFault
  repeat' (first
    | with_reducible assumption
    | with_reducible apply State.setCore_memWf
    | with_reducible apply State.traceAddr_memWf
    | with_reducible apply State.traceTagged_memWf
    | with_reducible apply State.postFault_memWf
    | with_reducible apply State.beginRecovery_memWf
    | with_reducible refine foldl_memWf _ _ _ ?_ ?_
    | with_reducible refine foldl_memWf_fst _ _ _ ?_ ?_
    | with_reducible refine ite_memWf ?_ ?_
    | with_reducible apply Mem.setBytes_wf
    | with_reducible apply SMap.filter_wf
    | intro _
    | split
    | dsimp only)
theorem State.countIssue_memWf (s : State) (n : CoreId) (hm : Memory.wf s.mem = true) : Memory.wf (State.countIssue s n).mem = true := by
  unfold State.countIssue
  repeat' (first
    | with_reducible assumption
    | with_reducible apply State.bump_memWf
    | with_reducible apply State.setCore_memWf
    | with_reducible refine foldl_memWf _ _ _ ?_ ?_
    | with_reducible refine foldl_memWf_fst _ _ _ ?_ ?_
    | with_reducible refine ite_memWf ?_ ?_
    | with_reducible apply Mem.setBytes_wf
    | with_reducible apply SMap.filter_wf
    | intro _
    | split
    | dsimp only)
theorem State.advance_memWf (s : State) (n : CoreId) (hm : Memory.wf s.mem = true) : Memory.wf (State.advance s n).mem = true := by
  unfold State.advance
  repeat' (first
    | with_reducible assumption
    | with_reducible apply State.setCore_memWf
    | with_reducible apply State.coreFault_memWf
    | with_reducible refine foldl_memWf _ _ _ ?_ ?_
    | with_reducible refine foldl_memWf_fst _ _ _ ?_ ?_
    | with_reducible refine ite_memWf ?_ ?_
    | with_reducible apply Mem.setBytes_wf
    | with_reducible apply SMap.filter_wf
    | intro _
    | split
    | dsimp only)
theorem State.jump_memWf (s : State) (n : CoreId) (target : Int) (hm : Memory.wf s.mem = true) : Memory.wf (State.jump s n target).mem = true := by
  unfold State.jump
  repeat' (first
    | with_reducible assumption
    | with_reducible apply State.setCore_memWf
    | with_reducible apply State.coreFault_memWf
    | with_reducible refine foldl_memWf _ _ _ ?_ ?_
    | with_reducible refine foldl_memWf_fst _ _ _ ?_ ?_
    | with_reducible refine ite_memWf ?_ ?_
    | with_reducible apply Mem.setBytes_wf
    | with_reducible apply SMap.filter_wf
    | intro _
    | split
    | dsimp only)
theorem State.issue_memWf (s : State) (n : CoreId) (gd : Guard) (kind : AheadKind) (legal : Bool) (effect : State → State) (hm : Memory.wf s.mem = true) (heffect : ∀ y : State, Memory.wf y.mem = true → Memory.wf (effect y).mem = true) : Memory.wf (State.issue s n gd kind legal effect).mem = true := by
  unfold State.issue
  repeat' (first
    | with_reducible assumption
    | with_reducible apply State.setCore_memWf
    | with_reducible apply State.coreFault_memWf
    | with_reducible apply State.countIssue_memWf
    | with_reducible apply State.advance_memWf
    | with_reducible apply heffect
    | with_reducible refine foldl_memWf _ _ _ ?_ ?_
    | with_reducible refine foldl_memWf_fst _ _ _ ?_ ?_
    | with_reducible refine ite_memWf ?_ ?_
    | with_reducible apply Mem.setBytes_wf
    | with_reducible apply SMap.filter_wf
    | intro _
    | split
    | dsimp only)
theorem State.writeG_memWf (s : State) (n : CoreId) (rd : GReg) (v : Word) (hm : Memory.wf s.mem = true) : Memory.wf (State.writeG s n rd v).mem = true := by
  unfold State.writeG
  repeat' (first
    | with_reducible assumption
    | with_reducible apply State.setCore_memWf
    | with_reducible apply State.advance_memWf
    | with_reducible refine foldl_memWf _ _ _ ?_ ?_
    | with_reducible refine foldl_memWf_fst _ _ _ ?_ ?_
    | with_reducible refine ite_memWf ?_ ?_
    | with_reducible apply Mem.setBytes_wf
    | with_reducible apply SMap.filter_wf
    | intro _
    | split
    | dsimp only)
theorem State.writeP_memWf (s : State) (n : CoreId) (pd : PReg) (v : Bool) (hm : Memory.wf s.mem = true) : Memory.wf (State.writeP s n pd v).mem = true := by
  unfold State.writeP
  repeat' (first
    | with_reducible assumption
    | with_reducible apply State.setCore_memWf
    | with_reducible apply State.advance_memWf
    | with_reducible refine foldl_memWf _ _ _ ?_ ?_
    | with_reducible refine foldl_memWf_fst _ _ _ ?_ ?_
    | with_reducible refine ite_memWf ?_ ?_
    | with_reducible apply Mem.setBytes_wf
    | with_reducible apply SMap.filter_wf
    | intro _
    | split
    | dsimp only)
theorem State.takeBranch_memWf (s : State) (n : CoreId) (link : Bool) (target : Int) (hm : Memory.wf s.mem = true) : Memory.wf (State.takeBranch s n link target).mem = true := by
  unfold State.takeBranch
  repeat' (first
    | with_reducible assumption
    | with_reducible apply State.setCore_memWf
    | with_reducible apply State.jump_memWf
    | with_reducible refine foldl_memWf _ _ _ ?_ ?_
    | with_reducible refine foldl_memWf_fst _ _ _ ?_ ?_
    | with_reducible refine ite_memWf ?_ ?_
    | with_reducible apply Mem.setBytes_wf
    | with_reducible apply SMap.filter_wf
    | intro _
    | split
    | dsimp only)
theorem State.tracedBranch_memWf (s : State) (n : CoreId) (hm : Memory.wf s.mem = true) : Memory.wf (State.tracedBranch s n).mem = true := by
  unfold State.tracedBranch
  repeat' (first
    | with_reducible assumption
    | with_reducible apply State.traceAddr_memWf
    | with_reducible refine foldl_memWf _ _ _ ?_ ?_
    | with_reducible refine foldl_memWf_fst _ _ _ ?_ ?_
    | with_reducible refine ite_memWf ?_ ?_
    | with_reducible apply Mem.setBytes_wf
    | with_reducible apply SMap.filter_wf
    | intro _
    | split
    | dsimp only)
theorem State.runAheadAt_memWf (s : State) (n : CoreId) (gd : Guard) (h : Bool) (link : Bool) (off : BitVec 21) (hm : Memory.wf s.mem = true) : Memory.wf (State.runAheadAt s n gd h link off).mem = true := by
  unfold State.runAheadAt
  repeat' (first
    | with_reducible assumption
    | with_reducible apply State.setCore_memWf
    | with_reducible apply State.countIssue_memWf
    | with_reducible apply State.advance_memWf
    | with_reducible apply State.takeBranch_memWf
    | with_reducible refine foldl_memWf _ _ _ ?_ ?_
    | with_reducible refine foldl_memWf_fst _ _ _ ?_ ?_
    | with_reducible refine ite_memWf ?_ ?_
    | with_reducible apply Mem.setBytes_wf
    | with_reducible apply SMap.filter_wf
    | intro _
    | split
    | dsimp only)
theorem State.finish_memWf (s : State) (n : CoreId) (job : BitVec 16) (unit : BitVec 16) (started : Word) (word : List Byte) (status : Byte) (result : BitVec 32) (hm : Memory.wf s.mem = true) : Memory.wf (State.finish s n job unit started word status result).mem = true := by
  unfold State.finish
  repeat' (first
    | with_reducible assumption
    | with_reducible apply State.bump_memWf
    | with_reducible apply State.setCore_memWf
    | with_reducible apply State.traceTagged_memWf
    | with_reducible apply State.unitPut_memWf
    | with_reducible refine foldl_memWf _ _ _ ?_ ?_
    | with_reducible refine foldl_memWf_fst _ _ _ ?_ ?_
    | with_reducible refine ite_memWf ?_ ?_
    | with_reducible apply Mem.setBytes_wf
    | with_reducible apply SMap.filter_wf
    | intro _
    | split
    | dsimp only)
theorem State.workDone_memWf (s : State) (c : Cmd) (status : Byte) (result : BitVec 32) (hm : Memory.wf s.mem = true) : Memory.wf (State.workDone s c status result).mem = true := by
  unfold State.workDone
  repeat' (first
    | with_reducible assumption
    | with_reducible apply State.setCmd_memWf
    | with_reducible refine foldl_memWf _ _ _ ?_ ?_
    | with_reducible refine foldl_memWf_fst _ _ _ ?_ ?_
    | with_reducible refine ite_memWf ?_ ?_
    | with_reducible apply Mem.setBytes_wf
    | with_reducible apply SMap.filter_wf
    | intro _
    | split
    | dsimp only)
theorem State.traceQueue_memWf (s : State) (n : CoreId) (event : Byte) (q : Nat) (w : QWord) (hm : Memory.wf s.mem = true) : Memory.wf (State.traceQueue s n event q w).mem = true := by
  unfold State.traceQueue
  repeat' (first
    | with_reducible assumption
    | with_reducible apply State.traceTagged_memWf
    | with_reducible refine foldl_memWf _ _ _ ?_ ?_
    | with_reducible refine foldl_memWf_fst _ _ _ ?_ ?_
    | with_reducible refine ite_memWf ?_ ?_
    | with_reducible apply Mem.setBytes_wf
    | with_reducible apply SMap.filter_wf
    | intro _
    | split
    | dsimp only)
theorem State.getWord_memWf (s : State) (c : CoreId) (q : Nat) (rg : GReg) (pe : PReg) (acq : Bool) (hm : Memory.wf s.mem = true) : Memory.wf (State.getWord s c q rg pe acq).mem = true := by
  unfold State.getWord
  repeat' (first
    | with_reducible assumption
    | with_reducible apply State.setCore_memWf
    | with_reducible apply State.dropPeers_memWf
    | with_reducible apply State.popWord_memWf
    | with_reducible apply State.traceQueue_memWf
    | with_reducible refine foldl_memWf _ _ _ ?_ ?_
    | with_reducible refine foldl_memWf_fst _ _ _ ?_ ?_
    | with_reducible refine ite_memWf ?_ ?_
    | with_reducible apply Mem.setBytes_wf
    | with_reducible apply SMap.filter_wf
    | intro _
    | split
    | dsimp only)
theorem State.enter_memWf (s : State) (n : CoreId) (job : BitVec 16) (qid : BitVec 16) (word : List Byte) (session : Nat) (mayWrite : Option (Nat × Nat)) (hm : Memory.wf s.mem = true) : Memory.wf (State.enter s n job qid word session mayWrite).mem = true := by
  unfold State.enter
  repeat' (first
    | with_reducible assumption
    | with_reducible apply State.flowFills_memWf
    | with_reducible refine foldl_memWf _ _ _ ?_ ?_
    | with_reducible refine foldl_memWf_fst _ _ _ ?_ ?_
    | with_reducible refine ite_memWf ?_ ?_
    | with_reducible apply Mem.setBytes_wf
    | with_reducible apply SMap.filter_wf
    | intro _
    | split
    | dsimp only)
theorem State.accept_memWf (s : State) (n : CoreId) (qid : BitVec 16) (word : List Byte) (hm : Memory.wf s.mem = true) : Memory.wf (State.accept s n qid word).mem = true := by
  unfold State.accept
  repeat' (first
    | with_reducible assumption
    | with_reducible apply State.setCore_memWf
    | with_reducible apply State.traceTagged_memWf
    | with_reducible apply State.finish_memWf
    | with_reducible apply State.enter_memWf
    | with_reducible refine foldl_memWf _ _ _ ?_ ?_
    | with_reducible refine foldl_memWf_fst _ _ _ ?_ ?_
    | with_reducible refine ite_memWf ?_ ?_
    | with_reducible apply Mem.setBytes_wf
    | with_reducible apply SMap.filter_wf
    | intro _
    | split
    | dsimp only)
theorem State.abandon_memWf (s : State) (n : CoreId) (hm : Memory.wf s.mem = true) : Memory.wf (State.abandon s n).mem = true := by
  unfold State.abandon
  repeat' (first
    | with_reducible assumption
    | with_reducible apply State.setCore_memWf
    | with_reducible apply State.setQueue_memWf
    | with_reducible refine foldl_memWf _ _ _ ?_ ?_
    | with_reducible refine foldl_memWf_fst _ _ _ ?_ ?_
    | with_reducible refine ite_memWf ?_ ?_
    | with_reducible apply Mem.setBytes_wf
    | with_reducible apply SMap.filter_wf
    | intro _
    | split
    | dsimp only)
theorem State.brkStopCore_memWf (s : State) (drain : Bool) (n : CoreId) (hm : Memory.wf s.mem = true) : Memory.wf (State.brkStopCore s drain n).mem = true := by
  unfold State.brkStopCore
  repeat' (first
    | with_reducible assumption
    | with_reducible apply State.setCore_memWf
    | with_reducible apply State.abandon_memWf
    | with_reducible refine foldl_memWf _ _ _ ?_ ?_
    | with_reducible refine foldl_memWf_fst _ _ _ ?_ ?_
    | with_reducible refine ite_memWf ?_ ?_
    | with_reducible apply Mem.setBytes_wf
    | with_reducible apply SMap.filter_wf
    | intro _
    | split
    | dsimp only)
theorem State.fenceDone_memWf (s : State) (n : CoreId) (sc : Scope) (pd : PReg) (hm : Memory.wf s.mem = true) : Memory.wf (State.fenceDone s n sc pd).mem = true := by
  unfold State.fenceDone
  repeat' (first
    | with_reducible assumption
    | with_reducible apply State.setCore_memWf
    | with_reducible apply State.dropPeers_memWf
    | with_reducible apply State.advance_memWf
    | with_reducible refine foldl_memWf _ _ _ ?_ ?_
    | with_reducible refine foldl_memWf_fst _ _ _ ?_ ?_
    | with_reducible refine ite_memWf ?_ ?_
    | with_reducible apply Mem.setBytes_wf
    | with_reducible apply SMap.filter_wf
    | intro _
    | split
    | dsimp only)
theorem State.storeBits_memWf (s : State) (a : Agent) (core : CoreId) (cls : BitVec 3) (va : Nat) (lo : Nat) (w : Nat) (x : Nat) (bad : Bool) (hm : Memory.wf s.mem = true) : Memory.wf (State.storeBits s a core cls va lo w x bad).mem = true := by
  unfold State.storeBits
  repeat' (first
    | with_reducible assumption
    | with_reducible apply State.store_memWf
    | with_reducible refine foldl_memWf _ _ _ ?_ ?_
    | with_reducible refine foldl_memWf_fst _ _ _ ?_ ?_
    | with_reducible refine ite_memWf ?_ ?_
    | with_reducible apply Mem.setBytes_wf
    | with_reducible apply SMap.filter_wf
    | intro _
    | split
    | dsimp only)
theorem State.storeCodes_memWf (s : State) (a : Agent) (core : CoreId) (cls : BitVec 3) (d : Desc) (r : Nat) (c0 : Nat) (cs : List Nat) (bad : Bool) (hm : Memory.wf s.mem = true) : Memory.wf (State.storeCodes s a core cls d r c0 cs bad).mem = true := by
  unfold State.storeCodes
  repeat' (first
    | with_reducible assumption
    | with_reducible apply State.storeBits_memWf
    | with_reducible refine foldl_memWf _ _ _ ?_ ?_
    | with_reducible refine foldl_memWf_fst _ _ _ ?_ ?_
    | with_reducible refine ite_memWf ?_ ?_
    | with_reducible apply Mem.setBytes_wf
    | with_reducible apply SMap.filter_wf
    | intro _
    | split
    | dsimp only)
theorem State.zeroEdges_memWf (s : State) (a : Agent) (core : CoreId) (cls : BitVec 3) (d : Desc) (r0 : Nat) (nr : Nat) (c0 : Nat) (nc : Nat) (bad : Bool) (hm : Memory.wf s.mem = true) : Memory.wf (State.zeroEdges s a core cls d r0 nr c0 nc bad).mem = true := by
  unfold State.zeroEdges
  repeat' (first
    | with_reducible assumption
    | with_reducible apply State.storeBits_memWf
    | with_reducible refine foldl_memWf _ _ _ ?_ ?_
    | with_reducible refine foldl_memWf_fst _ _ _ ?_ ?_
    | with_reducible refine ite_memWf ?_ ?_
    | with_reducible apply Mem.setBytes_wf
    | with_reducible apply SMap.filter_wf
    | intro _
    | split
    | dsimp only)
theorem State.storeRow_memWf (s : State) (a : Agent) (core : CoreId) (cls : BitVec 3) (d : Desc) (rtz : Bool) (sat : Bool) (ceil : Bool) (r : Nat) (c0 : Nat) (xs : List (BitVec 32)) (bad : Bool) (hm : Memory.wf s.mem = true) : Memory.wf (State.storeRow s a core cls d rtz sat ceil r c0 xs bad).1.mem = true := by
  unfold State.storeRow
  repeat' (first
    | with_reducible assumption
    | with_reducible apply State.store_memWf
    | with_reducible apply State.storeCodes_memWf
    | with_reducible refine foldl_memWf _ _ _ ?_ ?_
    | with_reducible refine foldl_memWf_fst _ _ _ ?_ ?_
    | with_reducible refine ite_memWf ?_ ?_
    | with_reducible apply Mem.setBytes_wf
    | with_reducible apply SMap.filter_wf
    | intro _
    | split
    | dsimp only)
theorem State.storeRow_memWf_eq {s : State} {a : Agent} {core : CoreId} {cls : BitVec 3} {d : Desc} {rtz : Bool} {sat : Bool} {ceil : Bool} {r : Nat} {c0 : Nat} {xs : List (BitVec 32)} {bad : Bool} {t} (hr : State.storeRow s a core cls d rtz sat ceil r c0 xs bad = t) (hm : Memory.wf s.mem = true) : Memory.wf t.1.mem = true := hr ▸ State.storeRow_memWf s a core cls d rtz sat ceil r c0 xs bad hm
theorem State.storeRows_memWf (s : State) (a : Agent) (core : CoreId) (cls : BitVec 3) (d : Desc) (rtz : Bool) (sat : Bool) (ceil : Bool) (r0 : Nat) (c0 : Nat) (rows : List (List (BitVec 32))) (bad : Bool) (hm : Memory.wf s.mem = true) : Memory.wf (State.storeRows s a core cls d rtz sat ceil r0 c0 rows bad).1.mem = true := by
  unfold State.storeRows
  repeat' (first
    | with_reducible assumption
    | with_reducible apply State.zeroEdges_memWf
    | with_reducible apply State.storeRow_memWf
    | with_reducible refine State.storeRow_memWf_eq ‹_› ?_
    | with_reducible refine foldl_memWf _ _ _ ?_ ?_
    | with_reducible refine foldl_memWf_fst _ _ _ ?_ ?_
    | with_reducible refine ite_memWf ?_ ?_
    | with_reducible apply Mem.setBytes_wf
    | with_reducible apply SMap.filter_wf
    | intro _
    | split
    | dsimp only)
theorem State.storeRows_memWf_eq {s : State} {a : Agent} {core : CoreId} {cls : BitVec 3} {d : Desc} {rtz : Bool} {sat : Bool} {ceil : Bool} {r0 : Nat} {c0 : Nat} {rows : List (List (BitVec 32))} {bad : Bool} {t} (hr : State.storeRows s a core cls d rtz sat ceil r0 c0 rows bad = t) (hm : Memory.wf s.mem = true) : Memory.wf t.1.mem = true := hr ▸ State.storeRows_memWf s a core cls d rtz sat ceil r0 c0 rows bad hm
theorem State.countRegions_memWf (s : State) (a : Agent) (rs : List (Nat × Nat)) (hm : Memory.wf s.mem = true) : Memory.wf (State.countRegions s a rs).mem = true := by
  unfold State.countRegions
  repeat' (first
    | with_reducible assumption
    | with_reducible apply State.countRegion_memWf
    | with_reducible refine foldl_memWf _ _ _ ?_ ?_
    | with_reducible refine foldl_memWf_fst _ _ _ ?_ ?_
    | with_reducible refine ite_memWf ?_ ?_
    | with_reducible apply Mem.setBytes_wf
    | with_reducible apply SMap.filter_wf
    | intro _
    | split
    | dsimp only)
theorem State.setSession_memWf (s : State) (id : Nat) (x : Session) (hm : Memory.wf s.mem = true) : Memory.wf (State.setSession s id x).mem = true := by
  unfold State.setSession
  repeat' (first
    | with_reducible assumption
    | with_reducible refine foldl_memWf _ _ _ ?_ ?_
    | with_reducible refine foldl_memWf_fst _ _ _ ?_ ?_
    | with_reducible refine ite_memWf ?_ ?_
    | with_reducible apply Mem.setBytes_wf
    | with_reducible apply SMap.filter_wf
    | intro _
    | split
    | dsimp only)
theorem State.kernelStopped_memWf (s : State) (c : Cmd) (hm : Memory.wf s.mem = true) : Memory.wf (State.kernelStopped s c).mem = true := by
  unfold State.kernelStopped
  repeat' (first
    | with_reducible assumption
    | with_reducible apply State.setSession_memWf
    | with_reducible refine foldl_memWf _ _ _ ?_ ?_
    | with_reducible refine foldl_memWf_fst _ _ _ ?_ ?_
    | with_reducible refine ite_memWf ?_ ?_
    | with_reducible apply Mem.setBytes_wf
    | with_reducible apply SMap.filter_wf
    | intro _
    | split
    | dsimp only)
theorem State.stopWork_memWf (s : State) (t : State) (c : Cmd) (f : MemFail) (hm : Memory.wf s.mem = true) (ht : Memory.wf t.mem = true) : Memory.wf (State.stopWork s t c f).mem = true := by
  unfold State.stopWork
  repeat' (first
    | with_reducible assumption
    | with_reducible apply State.mmuFault_memWf
    | with_reducible apply State.fetch_memWf
    | with_reducible apply State.workDone_memWf
    | with_reducible apply State.kernelStopped_memWf
    | with_reducible refine foldl_memWf _ _ _ ?_ ?_
    | with_reducible refine foldl_memWf_fst _ _ _ ?_ ?_
    | with_reducible refine ite_memWf ?_ ?_
    | with_reducible apply Mem.setBytes_wf
    | with_reducible apply SMap.filter_wf
    | intro _
    | split
    | dsimp only)
theorem State.failWork_memWf (s : State) (c : Cmd) (f : MemFail) (hm : Memory.wf s.mem = true) : Memory.wf (State.failWork s c f).mem = true := by
  unfold State.failWork
  repeat' (first
    | with_reducible assumption
    | with_reducible apply State.stopWork_memWf
    | with_reducible refine foldl_memWf _ _ _ ?_ ?_
    | with_reducible refine foldl_memWf_fst _ _ _ ?_ ?_
    | with_reducible refine ite_memWf ?_ ?_
    | with_reducible apply Mem.setBytes_wf
    | with_reducible apply SMap.filter_wf
    | intro _
    | split
    | dsimp only)
theorem State.withReads_memWf (s : State) (c : Cmd) (rs : List (Nat × Nat)) (k : State) (hm : Memory.wf s.mem = true) (hk : Memory.wf k.mem = true) : Memory.wf (State.withReads s c rs k).mem = true := by
  unfold State.withReads
  repeat' (first
    | with_reducible assumption
    | with_reducible apply State.failWork_memWf
    | with_reducible refine foldl_memWf _ _ _ ?_ ?_
    | with_reducible refine foldl_memWf_fst _ _ _ ?_ ?_
    | with_reducible refine ite_memWf ?_ ?_
    | with_reducible apply Mem.setBytes_wf
    | with_reducible apply SMap.filter_wf
    | intro _
    | split
    | dsimp only)
theorem State.countGated_memWf (s : State) (n : Nat) (halves : Nat) (hm : Memory.wf s.mem = true) : Memory.wf (State.countGated s n halves).mem = true := by
  unfold State.countGated
  repeat' (first
    | with_reducible assumption
    | with_reducible apply State.bump_memWf
    | with_reducible apply State.setPeony_memWf
    | with_reducible refine foldl_memWf _ _ _ ?_ ?_
    | with_reducible refine foldl_memWf_fst _ _ _ ?_ ?_
    | with_reducible refine ite_memWf ?_ ?_
    | with_reducible apply Mem.setBytes_wf
    | with_reducible apply SMap.filter_wf
    | intro _
    | split
    | dsimp only)
theorem State.lupinCount_memWf (s : State) (c : Cmd) (ext : Ext) (hm : Memory.wf s.mem = true) : Memory.wf (State.lupinCount s c ext).mem = true := by
  unfold State.lupinCount
  repeat' (first
    | with_reducible assumption
    | with_reducible apply State.bump_memWf
    | with_reducible refine foldl_memWf _ _ _ ?_ ?_
    | with_reducible refine foldl_memWf_fst _ _ _ ?_ ?_
    | with_reducible refine ite_memWf ?_ ?_
    | with_reducible apply Mem.setBytes_wf
    | with_reducible apply SMap.filter_wf
    | intro _
    | split
    | dsimp only)
theorem State.attention_memWf (s : State) (c : Cmd) (ext : Ext) (rowSeq : Nat → Nat) (positions : SeqRec → Nat → List (Bool × Nat)) (hm : Memory.wf s.mem = true) : Memory.wf (State.attention s c ext rowSeq positions).mem = true := by
  unfold State.attention
  repeat' (first
    | with_reducible assumption
    | with_reducible apply State.workDone_memWf
    | with_reducible apply State.storeRows_memWf
    | with_reducible refine State.storeRows_memWf_eq ‹_› ?_
    | with_reducible apply State.lupinCount_memWf
    | with_reducible refine foldl_memWf _ _ _ ?_ ?_
    | with_reducible refine foldl_memWf_fst _ _ _ ?_ ?_
    | with_reducible refine ite_memWf ?_ ?_
    | with_reducible apply Mem.setBytes_wf
    | with_reducible apply SMap.filter_wf
    | intro _
    | split
    | dsimp only)
theorem State.walkerReads_memWf (s : State) (a : Agent) (g : Nat) (reads : List (Nat × Nat)) (hm : Memory.wf s.mem = true) : Memory.wf (State.walkerReads s a g reads).mem = true := by
  unfold State.walkerReads
  repeat' (first
    | with_reducible assumption
    | with_reducible apply State.useLines_memWf
    | with_reducible apply State.countFlashReads_memWf
    | with_reducible refine foldl_memWf _ _ _ ?_ ?_
    | with_reducible refine foldl_memWf_fst _ _ _ ?_ ?_
    | with_reducible refine ite_memWf ?_ ?_
    | with_reducible apply Mem.setBytes_wf
    | with_reducible apply SMap.filter_wf
    | intro _
    | split
    | dsimp only)
theorem State.notice_memWf (s : State) (c : Cmd) (r : Nat) (update : Nat) (hm : Memory.wf s.mem = true) : Memory.wf (State.notice s c r update).mem = true := by
  unfold State.notice
  repeat' (first
    | with_reducible assumption
    | with_reducible apply State.bump_memWf
    | with_reducible apply State.releasePut_memWf
    | with_reducible refine foldl_memWf _ _ _ ?_ ?_
    | with_reducible refine foldl_memWf_fst _ _ _ ?_ ?_
    | with_reducible refine ite_memWf ?_ ?_
    | with_reducible apply Mem.setBytes_wf
    | with_reducible apply SMap.filter_wf
    | intro _
    | split
    | dsimp only)
theorem State.provisional_memWf_eq {s : State} {a : Agent} {c : Cmd} {h : IndexHdr} {book : List (List (BitVec 32))} {r : Nat} {w : Walk} {t : State} (hr : State.provisional s a c h book r w = .ok (some t)) (hm : Memory.wf s.mem = true) : Memory.wf t.mem = true := by
  unfold State.provisional at hr
  repeat' (first
    | with_reducible assumption
    | with_reducible apply State.notice_memWf
    | with_reducible apply State.store_memWf
    | with_reducible apply State.bump_memWf
    | with_reducible apply State.walkerReads_memWf
    | cases hr
    | split at hr
    | dsimp only at hr
    | split
    | dsimp only)
theorem State.provisionals_memWf (s : State) (a : Agent) (c : Cmd) (h : IndexHdr) (book : List (List (BitVec 32))) (r : Nat) (z0 : Nat) (z1 : Walk) (hm : Memory.wf s.mem = true) : ∀ t, (State.provisionals s a c h book r z0 z1) = .ok t → Memory.wf t.1.mem = true := by
  induction z0 generalizing s z1 with
  | zero => intro t hr; cases hr; exact hm
  | succ n ih =>
    intro t hr
    unfold State.provisionals at hr
    split at hr
    · cases hr
    · cases hr; exact hm
    · next u hu => exact ih u _ (State.provisional_memWf_eq hu hm) _ hr
theorem State.provisionals_memWf_eq {s : State} {a : Agent} {c : Cmd} {h : IndexHdr} {book : List (List (BitVec 32))} {r : Nat} {z0 : Nat} {z1 : Walk} {t} (hr : State.provisionals s a c h book r z0 z1 = .ok t) (hm : Memory.wf s.mem = true) : Memory.wf t.1.mem = true := State.provisionals_memWf s a c h book r z0 z1 hm t hr
theorem State.finishWalk_memWf (s : State) (a : Agent) (c : Cmd) (h : IndexHdr) (book : List (List (BitVec 32))) (r : Nat) (hm : Memory.wf s.mem = true) : ∀ t, (State.finishWalk s a c h book r) = .ok t → Memory.wf t.1.mem = true := by
  intro t hr
  unfold State.finishWalk at hr
  repeat' (first
    | with_reducible assumption
    | with_reducible apply State.bump_memWf
    | with_reducible apply State.store_memWf
    | with_reducible apply State.walkerReads_memWf
    | with_reducible refine State.provisionals_memWf_eq ‹_› ?_
    | with_reducible refine foldl_memWf _ _ _ ?_ ?_
    | with_reducible refine foldl_memWf_fst _ _ _ ?_ ?_
    | with_reducible refine ite_memWf ?_ ?_
    | with_reducible apply Mem.setBytes_wf
    | with_reducible apply SMap.filter_wf
    | intro _
    | cases hr
    | split at hr
    | dsimp only at hr
    | split
    | dsimp only)
theorem State.finishWalk_memWf_eq {s : State} {a : Agent} {c : Cmd} {h : IndexHdr} {book : List (List (BitVec 32))} {r : Nat} {t} (hr : State.finishWalk s a c h book r = .ok t) (hm : Memory.wf s.mem = true) : Memory.wf t.1.mem = true := State.finishWalk_memWf s a c h book r hm t hr
theorem State.walkAll_memWf (s : State) (a : Agent) (c : Cmd) (h : IndexHdr) (book : List (List (BitVec 32))) (hm : Memory.wf s.mem = true) : Memory.wf (State.walkAll s a c h book).1.mem = true := by
  unfold State.walkAll
  repeat' (first
    | with_reducible assumption
    | with_reducible refine State.finishWalk_memWf_eq ‹_› ?_
    | with_reducible refine foldl_memWf _ _ _ ?_ ?_
    | with_reducible refine foldl_memWf_fst _ _ _ ?_ ?_
    | with_reducible refine ite_memWf ?_ ?_
    | with_reducible apply Mem.setBytes_wf
    | with_reducible apply SMap.filter_wf
    | intro _
    | split
    | dsimp only)
theorem State.walkAll_memWf_eq {s : State} {a : Agent} {c : Cmd} {h : IndexHdr} {book : List (List (BitVec 32))} {t} (hr : State.walkAll s a c h book = t) (hm : Memory.wf s.mem = true) : Memory.wf t.1.mem = true := hr ▸ State.walkAll_memWf s a c h book hm
theorem State.dropWalks_memWf (s : State) (c : Cmd) (hm : Memory.wf s.mem = true) : Memory.wf (State.dropWalks s c).mem = true := by
  unfold State.dropWalks
  repeat' (first
    | with_reducible assumption
    | with_reducible refine foldl_memWf _ _ _ ?_ ?_
    | with_reducible refine foldl_memWf_fst _ _ _ ?_ ?_
    | with_reducible refine ite_memWf ?_ ?_
    | with_reducible apply Mem.setBytes_wf
    | with_reducible apply SMap.filter_wf
    | intro _
    | split
    | dsimp only)
theorem State.beginMerge_memWf (s : State) (c : Cmd) (hm : Memory.wf s.mem = true) : Memory.wf (State.beginMerge s c).mem = true := by
  unfold State.beginMerge
  repeat' (first
    | with_reducible assumption
    | with_reducible apply State.store_memWf
    | with_reducible refine foldl_memWf _ _ _ ?_ ?_
    | with_reducible refine foldl_memWf_fst _ _ _ ?_ ?_
    | with_reducible refine ite_memWf ?_ ?_
    | with_reducible apply Mem.setBytes_wf
    | with_reducible apply SMap.filter_wf
    | intro _
    | split
    | dsimp only)
theorem State.appendSide_memWf (s : State) (a : Agent) (c : Cmd) (hva : Nat) (e : SideEntry) (bad : Bool) (hm : Memory.wf s.mem = true) : ∀ t, (State.appendSide s a c hva e bad) = .ok t → Memory.wf t.mem = true := by
  intro t hr
  unfold State.appendSide at hr
  repeat' (first
    | with_reducible assumption
    | with_reducible apply State.store_memWf
    | with_reducible refine foldl_memWf _ _ _ ?_ ?_
    | with_reducible refine foldl_memWf_fst _ _ _ ?_ ?_
    | with_reducible refine ite_memWf ?_ ?_
    | with_reducible apply Mem.setBytes_wf
    | with_reducible apply SMap.filter_wf
    | intro _
    | cases hr
    | split at hr
    | dsimp only at hr
    | split
    | dsimp only)
theorem State.appendSide_memWf_eq {s : State} {a : Agent} {c : Cmd} {hva : Nat} {e : SideEntry} {bad : Bool} {t} (hr : State.appendSide s a c hva e bad = .ok t) (hm : Memory.wf s.mem = true) : Memory.wf t.mem = true := State.appendSide_memWf s a c hva e bad hm t hr
theorem State.appendRecords_memWf (s : State) (c : Cmd) (tomb : Bool) (bs : List Byte) (bad : Bool) (hm : Memory.wf s.mem = true) : Memory.wf (State.appendRecords s c tomb bs bad).1.mem = true := by
  unfold State.appendRecords
  repeat' (first
    | with_reducible assumption
    | with_reducible apply State.store_memWf
    | with_reducible refine State.appendSide_memWf_eq ‹_› ?_
    | with_reducible refine foldl_memWf _ _ _ ?_ ?_
    | with_reducible refine foldl_memWf_fst _ _ _ ?_ ?_
    | with_reducible refine ite_memWf ?_ ?_
    | with_reducible apply Mem.setBytes_wf
    | with_reducible apply SMap.filter_wf
    | intro _
    | split
    | dsimp only)
theorem State.appendRecords_memWf_eq {s : State} {c : Cmd} {tomb : Bool} {bs : List Byte} {bad : Bool} {t} (hr : State.appendRecords s c tomb bs bad = t) (hm : Memory.wf s.mem = true) : Memory.wf t.1.mem = true := hr ▸ State.appendRecords_memWf s c tomb bs bad hm
theorem State.appendAll_memWf (s : State) (c : Cmd) (tomb : Bool) (hm : Memory.wf s.mem = true) : Memory.wf (State.appendAll s c tomb).mem = true := by
  unfold State.appendAll
  repeat' (first
    | with_reducible assumption
    | with_reducible apply State.workDone_memWf
    | with_reducible apply State.countRegions_memWf
    | with_reducible apply State.stopWork_memWf
    | with_reducible apply State.failWork_memWf
    | with_reducible apply State.appendRecords_memWf
    | with_reducible refine State.appendRecords_memWf_eq ‹_› ?_
    | with_reducible refine foldl_memWf _ _ _ ?_ ?_
    | with_reducible refine foldl_memWf_fst _ _ _ ?_ ?_
    | with_reducible refine ite_memWf ?_ ?_
    | with_reducible apply Mem.setBytes_wf
    | with_reducible apply SMap.filter_wf
    | intro _
    | split
    | dsimp only)
theorem State.reappend_memWf (s : State) (a : Agent) (c : Cmd) (hva : Nat) (l : Leaf) (hm : Memory.wf s.mem = true) : ∀ t, (State.reappend s a c hva l) = .ok t → Memory.wf t.mem = true := by
  unfold State.reappend
  intro t hr
  dsimp only at hr
  split at hr
  · cases hr
  · refine foldl_memWf_ok _ _ _ ?_ ?_ t hr
    · intro u hu; cases hu; exact State.store_memWf _ _ _ _ _ _ _ hm
    · intro acc x hacc u hu
      split at hu
      · cases hu
      · next v => exact State.appendSide_memWf_eq hu (hacc v rfl)
theorem State.reappend_memWf_eq {s : State} {a : Agent} {c : Cmd} {hva : Nat} {l : Leaf} {t} (hr : State.reappend s a c hva l = .ok t) (hm : Memory.wf s.mem = true) : Memory.wf t.mem = true := State.reappend_memWf s a c hva l hm t hr
theorem State.mergeLeaf_memWf (a : Agent) (c : Cmd) (m : MergeRun) (k : Nat) (hm : Memory.wf m.st.mem = true) : Memory.wf (State.mergeLeaf a c m k).st.mem = true := by
  unfold State.mergeLeaf
  repeat' (first
    | with_reducible assumption
    | with_reducible apply State.store_memWf
    | with_reducible refine State.reappend_memWf_eq ‹_› ?_
    | split
    | dsimp only)
theorem State.mergeLeaves_memWf (s : State) (c : Cmd) (h : IndexHdr) (hm : Memory.wf s.mem = true) : Memory.wf (s.mergeLeaves c h).st.mem = true := by
  unfold State.mergeLeaves
  have go : ∀ (l : List Nat) (m : MergeRun), Memory.wf m.st.mem = true → Memory.wf (l.foldl (State.mergeLeaf c.agent c) m).st.mem = true := by
    intro l
    induction l with
    | nil => exact fun _ h => h
    | cons k l ih => exact fun m h => ih _ (State.mergeLeaf_memWf _ _ m k h)
  exact go _ _ hm
theorem State.trimStream_memWf (s : State) (d : Nat) (hm : Memory.wf s.mem = true) : Memory.wf (State.trimStream s d).mem = true := by
  unfold State.trimStream
  repeat' (first
    | with_reducible assumption
    | with_reducible apply State.evict_memWf
    | with_reducible refine foldl_memWf _ _ _ ?_ ?_
    | with_reducible refine foldl_memWf_fst _ _ _ ?_ ?_
    | with_reducible refine ite_memWf ?_ ?_
    | with_reducible apply Mem.setBytes_wf
    | with_reducible apply SMap.filter_wf
    | intro _
    | split
    | dsimp only)
theorem State.fillLine_memWf (s : State) (l : AheadLine) (hm : Memory.wf s.mem = true) : Memory.wf (State.fillLine s l).mem = true := by
  unfold State.fillLine
  repeat' (first
    | with_reducible assumption
    | with_reducible refine foldl_memWf _ _ _ ?_ ?_
    | with_reducible refine foldl_memWf_fst _ _ _ ?_ ?_
    | with_reducible refine ite_memWf ?_ ?_
    | with_reducible apply Mem.setBytes_wf
    | with_reducible apply SMap.filter_wf
    | intro _
    | split
    | dsimp only)
theorem State.trimNodes_memWf (s : State) (g : Nat) (n : Nat) (hm : Memory.wf s.mem = true) : Memory.wf (State.trimNodes s g n).mem = true := by
  unfold State.trimNodes
  repeat' (first
    | with_reducible assumption
    | with_reducible apply State.evict_memWf
    | with_reducible refine foldl_memWf _ _ _ ?_ ?_
    | with_reducible refine foldl_memWf_fst _ _ _ ?_ ?_
    | with_reducible refine ite_memWf ?_ ?_
    | with_reducible apply Mem.setBytes_wf
    | with_reducible apply SMap.filter_wf
    | intro _
    | split
    | dsimp only)
theorem State.fetchLine_memWf (s : State) (n : CoreId) (job : BitVec 16) (cls : BitVec 3) (pa : Nat) (l : AheadLine) (hm : Memory.wf s.mem = true) : Memory.wf (State.fetchLine s n job cls pa l).mem = true := by
  unfold State.fetchLine
  repeat' (first
    | with_reducible assumption
    | with_reducible refine State.request_memWf_eq ‹_› ?_
    | with_reducible refine foldl_memWf _ _ _ ?_ ?_
    | with_reducible refine foldl_memWf_fst _ _ _ ?_ ?_
    | with_reducible refine ite_memWf ?_ ?_
    | with_reducible apply Mem.setBytes_wf
    | with_reducible apply SMap.filter_wf
    | intro _
    | split
    | dsimp only)
theorem State.clearPool_memWf (s : State) (id : Nat) (hm : Memory.wf s.mem = true) : Memory.wf (State.clearPool s id).mem = true := by
  unfold State.clearPool
  repeat' (first
    | with_reducible assumption
    | with_reducible apply State.setCmd_memWf
    | with_reducible refine foldl_memWf _ _ _ ?_ ?_
    | with_reducible refine foldl_memWf_fst _ _ _ ?_ ?_
    | with_reducible refine ite_memWf ?_ ?_
    | with_reducible apply Mem.setBytes_wf
    | with_reducible apply SMap.filter_wf
    | intro _
    | split
    | dsimp only)
theorem State.rowAmo_memWf (s : State) (c : Cmd) (va : Nat) (fn : Nat) (new : Nat) (expected : Nat) (hm : Memory.wf s.mem = true) : ∀ t, (State.rowAmo s c va fn new expected) = .ok t → Memory.wf t.1.mem = true := by
  intro t hr
  unfold State.rowAmo at hr
  repeat' (first
    | with_reducible assumption
    | with_reducible refine State.request_memWf_eq ‹_› ?_
    | with_reducible apply State.dropHome_memWf
    | with_reducible apply State.store_memWf
    | with_reducible refine foldl_memWf _ _ _ ?_ ?_
    | with_reducible refine foldl_memWf_fst _ _ _ ?_ ?_
    | with_reducible refine ite_memWf ?_ ?_
    | with_reducible apply Mem.setBytes_wf
    | with_reducible apply SMap.filter_wf
    | intro _
    | cases hr
    | split at hr
    | dsimp only at hr
    | split
    | dsimp only)
theorem State.rowAmo_memWf_eq {s : State} {c : Cmd} {va : Nat} {fn : Nat} {new : Nat} {expected : Nat} {t} (hr : State.rowAmo s c va fn new expected = .ok t) (hm : Memory.wf s.mem = true) : Memory.wf t.1.mem = true := State.rowAmo_memWf s c va fn new expected hm t hr
theorem State.unlockRow_memWf (s : State) (c : Cmd) (va : Nat) (step : RowStep) (hm : Memory.wf s.mem = true) : Memory.wf (State.unlockRow s c va step).mem = true := by
  unfold State.unlockRow
  repeat' (first
    | with_reducible assumption
    | with_reducible apply State.finish_memWf
    | with_reducible refine State.rowAmo_memWf_eq ‹_› ?_
    | with_reducible refine foldl_memWf _ _ _ ?_ ?_
    | with_reducible refine foldl_memWf_fst _ _ _ ?_ ?_
    | with_reducible refine ite_memWf ?_ ?_
    | with_reducible apply Mem.setBytes_wf
    | with_reducible apply SMap.filter_wf
    | intro _
    | split
    | dsimp only)
theorem State.endRows_memWf (s : State) (c : Cmd) (hm : Memory.wf s.mem = true) : Memory.wf (State.endRows s c).mem = true := by
  unfold State.endRows
  repeat' (first
    | with_reducible assumption
    | with_reducible apply State.unlockRow_memWf
    | with_reducible refine foldl_memWf _ _ _ ?_ ?_
    | with_reducible refine foldl_memWf_fst _ _ _ ?_ ?_
    | with_reducible refine ite_memWf ?_ ?_
    | with_reducible apply Mem.setBytes_wf
    | with_reducible apply SMap.filter_wf
    | intro _
    | split
    | dsimp only)
theorem State.writeGather_memWf (s : State) (c : Cmd) (r : RowRead) (hm : Memory.wf s.mem = true) : Memory.wf (State.writeGather s c r).mem = true := by
  unfold State.writeGather
  repeat' (first
    | with_reducible assumption
    | with_reducible apply State.workDone_memWf
    | with_reducible apply State.storeCodes_memWf
    | with_reducible apply State.zeroEdges_memWf
    | with_reducible apply State.storeRows_memWf
    | with_reducible refine State.storeRows_memWf_eq ‹_› ?_
    | with_reducible refine foldl_memWf _ _ _ ?_ ?_
    | with_reducible refine foldl_memWf_fst _ _ _ ?_ ?_
    | with_reducible refine ite_memWf ?_ ?_
    | with_reducible apply Mem.setBytes_wf
    | with_reducible apply SMap.filter_wf
    | intro _
    | split
    | dsimp only)
/-- The state an outcome of a lock action holds has property P. -/
def RowAct.Holds (P : State → Prop) : RowAct → Prop
  | .on t _ => P t
  | .wait t => P t
  | .busy t => P t
  | .fail _ => True
/-- The state an outcome of a region read holds has property P. -/
def RowLoad.Holds (P : State → Prop) : RowLoad → Prop
  | .wait t => P t
  | .fail _ => True
  | .ok t _ _ => P t
/-- The state an outcome of a row read holds has property P. -/
def ReadNext.Holds (P : State → Prop) : ReadNext → Prop
  | .more t _ => P t
  | .stop t _ => P t
  | .fail t _ => P t
/-- The state an outcome of a row write holds has property P. -/
def WriteNext.Holds (P : State → Prop) : WriteNext → Prop
  | .more t _ => P t
  | .stop t _ => P t
  | .over t => P t
theorem RowAct.holds_on {P : State → Prop} {t : State} {st} (h : P t) : (RowAct.on t st).Holds P := h
theorem RowAct.holds_wait {P : State → Prop} {t : State} (h : P t) : (RowAct.wait t).Holds P := h
theorem RowAct.holds_busy {P : State → Prop} {t : State} (h : P t) : (RowAct.busy t).Holds P := h
theorem RowLoad.holds_wait {P : State → Prop} {t : State} (h : P t) : (RowLoad.wait t).Holds P := h
theorem RowLoad.holds_ok {P : State → Prop} {t : State} {b} {x} (h : P t) : (RowLoad.ok t b x).Holds P := h
theorem ReadNext.holds_more {P : State → Prop} {t : State} {r} (h : P t) : (ReadNext.more t r).Holds P := h
theorem ReadNext.holds_stop {P : State → Prop} {t : State} {r} (h : P t) : (ReadNext.stop t r).Holds P := h
theorem ReadNext.holds_fail {P : State → Prop} {t : State} {f} (h : P t) : (ReadNext.fail t f).Holds P := h
theorem WriteNext.holds_more {P : State → Prop} {t : State} {w} (h : P t) : (WriteNext.more t w).Holds P := h
theorem WriteNext.holds_stop {P : State → Prop} {t : State} {w} (h : P t) : (WriteNext.stop t w).Holds P := h
theorem WriteNext.holds_over {P : State → Prop} {t : State} (h : P t) : (WriteNext.over t).Holds P := h
theorem State.rowLoad_memWf (s : State) (c : Cmd) (va n : Nat) (hm : Memory.wf s.mem = true) : (s.rowLoad c va n).Holds (fun t => Memory.wf t.mem = true) := by
  unfold State.rowLoad
  repeat' (first
    | exact trivial
    | with_reducible assumption
    | with_reducible apply State.fetch_memWf
    | with_reducible apply State.clearPool_memWf
    | with_reducible apply State.countRegion_memWf
    | with_reducible refine RowLoad.holds_wait ?_
    | with_reducible refine RowLoad.holds_ok ?_
    | split
    | dsimp only)
theorem State.lockStep_memWf (s : State) (c : Cmd) (va : Nat) (x : RowStep) (hm : Memory.wf s.mem = true) : (s.lockStep c va x).Holds (fun t => Memory.wf t.mem = true) := by
  unfold State.lockStep
  repeat' (first
    | exact trivial
    | with_reducible assumption
    | with_reducible apply State.fetch_memWf
    | with_reducible apply State.clearPool_memWf
    | with_reducible refine State.rowAmo_memWf_eq (t := (_, _)) ‹_› ?_
    | with_reducible refine RowAct.holds_on ?_
    | with_reducible refine RowAct.holds_wait ?_
    | with_reducible refine RowAct.holds_busy ?_
    | split
    | dsimp only)
theorem State.rowLoad_memWf_wait {s : State} {c : Cmd} {va n : Nat} {t : State} (hr : State.rowLoad s c va n = .wait t) (hm : Memory.wf s.mem = true) : Memory.wf t.mem = true := by
  have h := State.rowLoad_memWf s c va n hm; rw [hr] at h; exact h
theorem State.rowLoad_memWf_ok {s : State} {c : Cmd} {va n : Nat} {t : State} {b} {x} (hr : State.rowLoad s c va n = .ok t b x) (hm : Memory.wf s.mem = true) : Memory.wf t.mem = true := by
  have h := State.rowLoad_memWf s c va n hm; rw [hr] at h; exact h
theorem State.lockStep_memWf_on {s : State} {c : Cmd} {va : Nat} {x : RowStep} {t : State} {st} (hr : State.lockStep s c va x = .on t st) (hm : Memory.wf s.mem = true) : Memory.wf t.mem = true := by
  have h := State.lockStep_memWf s c va x hm; rw [hr] at h; exact h
theorem State.lockStep_memWf_wait {s : State} {c : Cmd} {va : Nat} {x : RowStep} {t : State} (hr : State.lockStep s c va x = .wait t) (hm : Memory.wf s.mem = true) : Memory.wf t.mem = true := by
  have h := State.lockStep_memWf s c va x hm; rw [hr] at h; exact h
theorem State.lockStep_memWf_busy {s : State} {c : Cmd} {va : Nat} {x : RowStep} {t : State} (hr : State.lockStep s c va x = .busy t) (hm : Memory.wf s.mem = true) : Memory.wf t.mem = true := by
  have h := State.lockStep_memWf s c va x hm; rw [hr] at h; exact h
theorem State.readStep_memWf (s : State) (c : Cmd) (spec : Bool) (r : RowRead) (hm : Memory.wf s.mem = true) : (s.readStep c spec r).Holds (fun t => Memory.wf t.mem = true) := by
  unfold State.readStep
  repeat' (first
    | exact trivial
    | with_reducible assumption
    | with_reducible apply State.bump_memWf
    | with_reducible refine State.rowLoad_memWf_wait ‹_› ?_
    | with_reducible refine State.rowLoad_memWf_ok ‹_› ?_
    | with_reducible refine State.lockStep_memWf_on ‹_› ?_
    | with_reducible refine State.lockStep_memWf_wait ‹_› ?_
    | with_reducible refine State.lockStep_memWf_busy ‹_› ?_
    | with_reducible refine ReadNext.holds_more ?_
    | with_reducible refine ReadNext.holds_stop ?_
    | with_reducible refine ReadNext.holds_fail ?_
    | split
    | dsimp only)
theorem State.readRows_memWf (s : State) (id : Nat) (spec : Bool) (fuel : Nat) (r : RowRead) (hm : Memory.wf s.mem = true) : (s.readRows id spec fuel r).Holds (fun t => Memory.wf t.mem = true) := by
  induction fuel generalizing s r with
  | zero => exact hm
  | succ n ih =>
    unfold State.readRows
    split
    · exact hm
    · next c _ =>
      have h := State.readStep_memWf s c spec r hm
      split
      · next t x ht => rw [ht] at h; exact ih t x h
      · exact h
theorem State.goGather_memWf (s : State) (c : Cmd) (fuel : Nat) (r : RowRead) (hm : Memory.wf s.mem = true) : Memory.wf (State.goGather s c fuel r).mem = true := by
  have h := State.readRows_memWf s c.id false fuel r hm
  unfold State.goGather
  split
  · next t f ht => rw [ht] at h; exact State.failWork_memWf _ _ _ h
  · next t x ht => rw [ht] at h; exact h
  · next t x ht =>
    rw [ht] at h
    split
    · exact State.writeGather_memWf _ _ _ h
    · exact h
theorem State.beginPass_memWf (s : State) (c : Cmd) (w : RowWork) (hm : Memory.wf s.mem = true) : Memory.wf (State.beginPass s c w).1.mem = true := by
  unfold State.beginPass
  repeat' (first
    | with_reducible assumption
    | with_reducible apply State.bump_memWf
    | with_reducible apply State.store_memWf
    | with_reducible refine foldl_memWf _ _ _ ?_ ?_
    | with_reducible refine foldl_memWf_fst _ _ _ ?_ ?_
    | with_reducible refine ite_memWf ?_ ?_
    | with_reducible apply Mem.setBytes_wf
    | with_reducible apply SMap.filter_wf
    | intro _
    | split
    | dsimp only)
theorem State.beginPass_memWf_eq {s : State} {c : Cmd} {w : RowWork} {t} (hr : State.beginPass s c w = t) (hm : Memory.wf s.mem = true) : Memory.wf t.1.mem = true := hr ▸ State.beginPass_memWf s c w hm
theorem State.writeStep_memWf (s : State) (c : Cmd) (w : RowWork) (hm : Memory.wf s.mem = true) : (s.writeStep c w).Holds (fun t => Memory.wf t.mem = true) := by
  unfold State.writeStep
  repeat' (first
    | exact trivial
    | with_reducible assumption
    | with_reducible apply State.workDone_memWf
    | with_reducible apply State.failWork_memWf
    | with_reducible apply State.beginPass_memWf
    | with_reducible apply State.store_memWf
    | with_reducible refine State.rowLoad_memWf_wait ‹_› ?_
    | with_reducible refine State.rowLoad_memWf_ok ‹_› ?_
    | with_reducible refine State.lockStep_memWf_on ‹_› ?_
    | with_reducible refine State.lockStep_memWf_wait ‹_› ?_
    | with_reducible refine State.lockStep_memWf_busy ‹_› ?_
    | with_reducible refine WriteNext.holds_more ?_
    | with_reducible refine WriteNext.holds_stop ?_
    | with_reducible refine WriteNext.holds_over ?_
    | split
    | dsimp only)
theorem State.writeRows_memWf (s : State) (id : Nat) (fuel : Nat) (w : RowWork) (hm : Memory.wf s.mem = true) : Memory.wf (State.writeRows s id fuel w).mem = true := by
  induction fuel generalizing s w with
  | zero => exact hm
  | succ n ih =>
    unfold State.writeRows
    split
    · exact hm
    · next c _ =>
      have h := State.writeStep_memWf s c w hm
      split
      · next t x ht => rw [ht] at h; exact ih _ _ h
      · next t x ht => rw [ht] at h; exact h
      · next t ht => rw [ht] at h; exact h
theorem State.squashCands_memWf (s : State) (g : Nat) (cs : List Cand) (hm : Memory.wf s.mem = true) : Memory.wf (State.squashCands s g cs).mem = true := by
  unfold State.squashCands
  repeat' (first
    | with_reducible assumption
    | with_reducible apply State.bump_memWf
    | with_reducible apply State.squash_memWf
    | with_reducible refine foldl_memWf _ _ _ ?_ ?_
    | with_reducible refine foldl_memWf_fst _ _ _ ?_ ?_
    | with_reducible refine ite_memWf ?_ ?_
    | with_reducible apply Mem.setBytes_wf
    | with_reducible apply SMap.filter_wf
    | intro _
    | split
    | dsimp only)
theorem State.endSession_memWf (s : State) (c : Cmd) (x : Session) (code : Byte) (result : BitVec 32) (hm : Memory.wf s.mem = true) : Memory.wf (State.endSession s c x code result).mem = true := by
  unfold State.endSession
  repeat' (first
    | with_reducible assumption
    | with_reducible apply State.dropCmds_memWf
    | with_reducible apply State.workDone_memWf
    | with_reducible apply State.squashCands_memWf
    | with_reducible refine foldl_memWf _ _ _ ?_ ?_
    | with_reducible refine foldl_memWf_fst _ _ _ ?_ ?_
    | with_reducible refine ite_memWf ?_ ?_
    | with_reducible apply Mem.setBytes_wf
    | with_reducible apply SMap.filter_wf
    | intro _
    | split
    | dsimp only)
theorem State.faultSession_memWf (s : State) (c : Cmd) (x : Session) (f : MemFail) (hm : Memory.wf s.mem = true) : Memory.wf (State.faultSession s c x f).mem = true := by
  unfold State.faultSession
  repeat' (first
    | with_reducible assumption
    | with_reducible apply State.mmuFault_memWf
    | with_reducible apply State.endSession_memWf
    | with_reducible refine foldl_memWf _ _ _ ?_ ?_
    | with_reducible refine foldl_memWf_fst _ _ _ ?_ ?_
    | with_reducible refine ite_memWf ?_ ?_
    | with_reducible apply Mem.setBytes_wf
    | with_reducible apply SMap.filter_wf
    | intro _
    | split
    | dsimp only)
theorem State.dispatch_memWf (s : State) (c : Cmd) (x : Session) (b : Gather) (r : RowRead) (hm : Memory.wf s.mem = true) : Memory.wf (State.dispatch s c x b r).mem = true := by
  unfold State.dispatch
  repeat' (first
    | with_reducible assumption
    | with_reducible apply State.store_memWf
    | with_reducible apply State.enter_memWf
    | with_reducible apply State.setSession_memWf
    | with_reducible refine foldl_memWf _ _ _ ?_ ?_
    | with_reducible refine foldl_memWf_fst _ _ _ ?_ ?_
    | with_reducible refine ite_memWf ?_ ?_
    | with_reducible apply Mem.setBytes_wf
    | with_reducible apply SMap.filter_wf
    | intro _
    | split
    | dsimp only)
theorem State.progress_memWf (s : State) (c : Cmd) (x : Session) (hm : Memory.wf s.mem = true) : Memory.wf (State.progress s c x).mem = true := by
  unfold State.progress
  repeat' (first
    | with_reducible assumption
    | with_reducible apply State.releasePut_memWf
    | with_reducible refine foldl_memWf _ _ _ ?_ ?_
    | with_reducible refine foldl_memWf_fst _ _ _ ?_ ?_
    | with_reducible refine ite_memWf ?_ ?_
    | with_reducible apply Mem.setBytes_wf
    | with_reducible apply SMap.filter_wf
    | intro _
    | split
    | dsimp only)
theorem State.validScore_memWf (s : State) (c : Cmd) (x : Session) (p : Nat) (sc : BitVec 32) (hm : Memory.wf s.mem = true) : Memory.wf (State.validScore s c x p sc).1.mem = true := by
  unfold State.validScore
  repeat' (first
    | with_reducible assumption
    | with_reducible apply State.store_memWf
    | with_reducible refine foldl_memWf _ _ _ ?_ ?_
    | with_reducible refine foldl_memWf_fst _ _ _ ?_ ?_
    | with_reducible refine ite_memWf ?_ ?_
    | with_reducible apply Mem.setBytes_wf
    | with_reducible apply SMap.filter_wf
    | intro _
    | split
    | dsimp only)
theorem State.validScore_memWf_eq {s : State} {c : Cmd} {x : Session} {p : Nat} {sc : BitVec 32} {t} (hr : State.validScore s c x p sc = t) (hm : Memory.wf s.mem = true) : Memory.wf t.1.mem = true := hr ▸ State.validScore_memWf s c x p sc hm
theorem State.settle_memWf (s : State) (c : Cmd) (x : Session) (d : Cand) (hm : Memory.wf s.mem = true) : Memory.wf (State.settle s c x d).1.mem = true := by
  unfold State.settle
  repeat' (first
    | with_reducible assumption
    | with_reducible apply State.bump_memWf
    | with_reducible apply State.squash_memWf
    | with_reducible apply State.validate_memWf
    | with_reducible apply State.squashCands_memWf
    | with_reducible apply State.validScore_memWf
    | with_reducible refine State.validScore_memWf_eq ‹_› ?_
    | with_reducible refine foldl_memWf _ _ _ ?_ ?_
    | with_reducible refine foldl_memWf_fst _ _ _ ?_ ?_
    | with_reducible refine ite_memWf ?_ ?_
    | with_reducible apply Mem.setBytes_wf
    | with_reducible apply SMap.filter_wf
    | intro _
    | split
    | dsimp only)
theorem State.settle_memWf_eq {s : State} {c : Cmd} {x : Session} {d : Cand} {t} (hr : State.settle s c x d = t) (hm : Memory.wf s.mem = true) : Memory.wf t.1.mem = true := hr ▸ State.settle_memWf s c x d hm
theorem State.settleBatch_memWf (s : State) (c : Cmd) (x : Session) (cs : List Cand) (hm : Memory.wf s.mem = true) : Memory.wf (State.settleBatch s c x cs).mem = true := by
  unfold State.settleBatch
  repeat' (first
    | with_reducible assumption
    | with_reducible apply State.setSession_memWf
    | with_reducible apply State.clearPool_memWf
    | with_reducible apply State.progress_memWf
    | with_reducible apply State.settle_memWf
    | with_reducible refine State.settle_memWf_eq ‹_› ?_
    | with_reducible refine foldl_memWf _ _ _ ?_ ?_
    | with_reducible refine foldl_memWf_fst _ _ _ ?_ ?_
    | with_reducible refine ite_memWf ?_ ?_
    | with_reducible apply Mem.setBytes_wf
    | with_reducible apply SMap.filter_wf
    | intro _
    | split
    | dsimp only)
theorem State.takeFinal_memWf (s : State) (c : Cmd) (x : Session) (status : Byte) (l : List Byte) (hm : Memory.wf s.mem = true) : Memory.wf (State.takeFinal s c x status l).mem = true := by
  unfold State.takeFinal
  repeat' (first
    | with_reducible assumption
    | with_reducible apply State.store_memWf
    | with_reducible apply State.setSession_memWf
    | with_reducible apply State.clearPool_memWf
    | with_reducible apply State.endSession_memWf
    | with_reducible apply State.faultSession_memWf
    | with_reducible refine foldl_memWf _ _ _ ?_ ?_
    | with_reducible refine foldl_memWf_fst _ _ _ ?_ ?_
    | with_reducible refine ite_memWf ?_ ?_
    | with_reducible apply Mem.setBytes_wf
    | with_reducible apply SMap.filter_wf
    | intro _
    | split
    | dsimp only)
theorem State.takeProv_memWf (s : State) (c : Cmd) (x : Session) (l : List Byte) (hm : Memory.wf s.mem = true) : Memory.wf (State.takeProv s c x l).mem = true := by
  unfold State.takeProv
  repeat' (first
    | with_reducible assumption
    | with_reducible apply State.setSession_memWf
    | with_reducible apply State.clearPool_memWf
    | with_reducible refine foldl_memWf _ _ _ ?_ ?_
    | with_reducible refine foldl_memWf_fst _ _ _ ?_ ?_
    | with_reducible refine ite_memWf ?_ ?_
    | with_reducible apply Mem.setBytes_wf
    | with_reducible apply SMap.filter_wf
    | intro _
    | split
    | dsimp only)
theorem State.closeSession_memWf (s : State) (c : Cmd) (x : Session) (l : List Byte) (hm : Memory.wf s.mem = true) : Memory.wf (State.closeSession s c x l).mem = true := by
  unfold State.closeSession
  repeat' (first
    | with_reducible assumption
    | with_reducible apply State.store_memWf
    | with_reducible apply State.workDone_memWf
    | with_reducible apply State.faultSession_memWf
    | with_reducible refine foldl_memWf _ _ _ ?_ ?_
    | with_reducible refine foldl_memWf_fst _ _ _ ?_ ?_
    | with_reducible refine ite_memWf ?_ ?_
    | with_reducible apply Mem.setBytes_wf
    | with_reducible apply SMap.filter_wf
    | intro _
    | split
    | dsimp only)
/-- The state an act of a session leaves has property P. -/
def SessionNext.Holds (P : State → Prop) : SessionNext → Prop
  | .more t => P t
  | .stop t => P t
theorem SessionNext.holds_more {P : State → Prop} {t : State} (h : P t) : (SessionNext.more t).Holds P := h
theorem SessionNext.holds_stop {P : State → Prop} {t : State} (h : P t) : (SessionNext.stop t).Holds P := h
theorem State.readRows_memWf_more {s : State} {id : Nat} {spec : Bool} {fuel : Nat} {r : RowRead} {t : State} {y : RowRead} (hr : s.readRows id spec fuel r = .more t y) (hm : Memory.wf s.mem = true) : Memory.wf t.mem = true := by
  have h := State.readRows_memWf s id spec fuel r hm; rw [hr] at h; exact h
theorem State.readRows_memWf_stop {s : State} {id : Nat} {spec : Bool} {fuel : Nat} {r : RowRead} {t : State} {y : RowRead} (hr : s.readRows id spec fuel r = .stop t y) (hm : Memory.wf s.mem = true) : Memory.wf t.mem = true := by
  have h := State.readRows_memWf s id spec fuel r hm; rw [hr] at h; exact h
theorem State.readRows_memWf_fail {s : State} {id : Nat} {spec : Bool} {fuel : Nat} {r : RowRead} {t : State} {f : MemFail} (hr : s.readRows id spec fuel r = .fail t f) (hm : Memory.wf s.mem = true) : Memory.wf t.mem = true := by
  have h := State.readRows_memWf s id spec fuel r hm; rw [hr] at h; exact h
theorem State.listLoad_memWf (s : State) (c : Cmd) (va : Nat) (hm : Memory.wf s.mem = true) : (s.listLoad c va).Holds (fun t => Memory.wf t.mem = true) := by
  unfold State.listLoad
  repeat' (first
    | exact trivial
    | with_reducible assumption
    | with_reducible apply State.fetch_memWf
    | with_reducible apply State.countRegion_memWf
    | with_reducible refine RowLoad.holds_wait ?_
    | with_reducible refine RowLoad.holds_ok ?_
    | split
    | dsimp only)
theorem State.listLoad_memWf_wait {s : State} {c : Cmd} {va : Nat} {t : State} (hr : s.listLoad c va = .wait t) (hm : Memory.wf s.mem = true) : Memory.wf t.mem = true := by
  have h := State.listLoad_memWf s c va hm; rw [hr] at h; exact h
theorem State.listLoad_memWf_ok {s : State} {c : Cmd} {va : Nat} {t : State} {b : List Byte} {x : Bool} (hr : s.listLoad c va = .ok t b x) (hm : Memory.wf s.mem = true) : Memory.wf t.mem = true := by
  have h := State.listLoad_memWf s c va hm; rw [hr] at h; exact h
theorem State.goBatch_memWf (s : State) (c : Cmd) (x : Session) (b : Gather) (fuel : Nat) (r : RowRead) (hm : Memory.wf s.mem = true) : (s.goBatch c x b fuel r).Holds (fun t => Memory.wf t.mem = true) := by
  unfold State.goBatch
  repeat' (first
    | with_reducible assumption
    | with_reducible refine State.readRows_memWf_more ‹_› ?_
    | with_reducible refine State.readRows_memWf_stop ‹_› ?_
    | with_reducible refine State.readRows_memWf_fail ‹_› ?_
    | with_reducible apply State.clearPool_memWf
    | with_reducible apply State.setSession_memWf
    | with_reducible apply State.faultSession_memWf
    | with_reducible apply State.dispatch_memWf
    | with_reducible refine SessionNext.holds_more ?_
    | with_reducible refine SessionNext.holds_stop ?_
    | with_reducible refine ite_memWf ?_ ?_
    | split
    | dsimp only)
theorem State.sessionStep_memWf (s : State) (c : Cmd) (x : Session) (fuel : Nat) (hm : Memory.wf s.mem = true) : (s.sessionStep c x fuel).Holds (fun t => Memory.wf t.mem = true) := by
  unfold State.sessionStep
  repeat' (first
    | with_reducible assumption
    | with_reducible refine State.listLoad_memWf_wait ‹_› ?_
    | with_reducible refine State.listLoad_memWf_ok ‹_› ?_
    | with_reducible apply State.goBatch_memWf
    | with_reducible apply State.fetch_memWf
    | with_reducible apply State.settleBatch_memWf
    | with_reducible apply State.takeProv_memWf
    | with_reducible apply State.takeFinal_memWf
    | with_reducible apply State.closeSession_memWf
    | with_reducible apply State.setSession_memWf
    | with_reducible apply State.endSession_memWf
    | with_reducible apply State.faultSession_memWf
    | with_reducible refine SessionNext.holds_more ?_
    | with_reducible refine SessionNext.holds_stop ?_
    | with_reducible refine ite_memWf ?_ ?_
    | split
    | dsimp only)
theorem State.advanceSession_memWf (s : State) (id : Nat) (actions : Nat) (fuel : Nat) (hm : Memory.wf s.mem = true) : Memory.wf (State.advanceSession s id actions fuel).mem = true := by
  induction fuel generalizing s with
  | zero => exact hm
  | succ n ih =>
    unfold State.advanceSession
    split
    · split
      · exact hm
      · next c x _ _ _ =>
        have h := State.sessionStep_memWf s c x actions hm
        split
        · next t ht => rw [ht] at h; exact ih t h
        · next t ht => rw [ht] at h; exact h
    · exact hm
theorem State.runSession_memWf (s : State) (id : Nat) (ext : Ext) (hm : Memory.wf s.mem = true) : Memory.wf (State.runSession s id ext).mem = true := by
  unfold State.runSession
  repeat' (first
    | with_reducible assumption
    | with_reducible apply State.advanceSession_memWf
    | with_reducible refine foldl_memWf _ _ _ ?_ ?_
    | with_reducible refine foldl_memWf_fst _ _ _ ?_ ?_
    | with_reducible refine ite_memWf ?_ ?_
    | with_reducible apply Mem.setBytes_wf
    | with_reducible apply SMap.filter_wf
    | intro _
    | split
    | dsimp only)
theorem State.asterQueue_memWf (s : State) (q : Nat) (hm : Memory.wf s.mem = true) : Memory.wf (State.asterQueue s q).mem = true := by
  unfold State.asterQueue
  repeat' (first
    | with_reducible assumption
    | with_reducible apply State.setQueue_memWf
    | with_reducible refine foldl_memWf _ _ _ ?_ ?_
    | with_reducible refine foldl_memWf_fst _ _ _ ?_ ?_
    | with_reducible refine ite_memWf ?_ ?_
    | with_reducible apply Mem.setBytes_wf
    | with_reducible apply SMap.filter_wf
    | intro _
    | split
    | dsimp only)
theorem State.deliverNotice_memWf (s : State) (ext : Ext) (on : List Cmd) (r : Nat) (hm : Memory.wf s.mem = true) : Memory.wf (State.deliverNotice s ext on r).mem = true := by
  unfold State.deliverNotice
  repeat' (first
    | with_reducible assumption
    | with_reducible apply State.setSession_memWf
    | with_reducible apply State.runSession_memWf
    | with_reducible refine foldl_memWf _ _ _ ?_ ?_
    | with_reducible refine foldl_memWf_fst _ _ _ ?_ ?_
    | with_reducible refine ite_memWf ?_ ?_
    | with_reducible apply Mem.setBytes_wf
    | with_reducible apply SMap.filter_wf
    | intro _
    | split
    | dsimp only)
theorem State.deliverFinal_memWf (s : State) (ext : Ext) (status : Byte) (c : Cmd) (hm : Memory.wf s.mem = true) : Memory.wf (State.deliverFinal s ext status c).mem = true := by
  unfold State.deliverFinal
  repeat' (first
    | with_reducible assumption
    | with_reducible apply State.setSession_memWf
    | with_reducible apply State.runSession_memWf
    | with_reducible refine foldl_memWf _ _ _ ?_ ?_
    | with_reducible refine foldl_memWf_fst _ _ _ ?_ ?_
    | with_reducible refine ite_memWf ?_ ?_
    | with_reducible apply Mem.setBytes_wf
    | with_reducible apply SMap.filter_wf
    | intro _
    | split
    | dsimp only)
theorem State.takeBatch_memWf (s : State) (c : Cmd) (x : Session) (b : Batch) (scores : List (BitVec 32)) (hm : Memory.wf s.mem = true) : Memory.wf (State.takeBatch s c x b scores).mem = true := by
  unfold State.takeBatch
  repeat' (first
    | with_reducible assumption
    | with_reducible apply State.squash_memWf
    | with_reducible apply State.setSession_memWf
    | with_reducible apply State.squashCands_memWf
    | with_reducible apply State.progress_memWf
    | with_reducible apply State.validScore_memWf
    | with_reducible refine State.validScore_memWf_eq ‹_› ?_
    | with_reducible refine foldl_memWf _ _ _ ?_ ?_
    | with_reducible refine foldl_memWf_fst _ _ _ ?_ ?_
    | with_reducible refine ite_memWf ?_ ?_
    | with_reducible apply Mem.setBytes_wf
    | with_reducible apply SMap.filter_wf
    | intro _
    | split
    | dsimp only)
theorem State.kernelDone_memWf (s : State) (c : Cmd) (code : Byte) (hm : Memory.wf s.mem = true) : Memory.wf (State.kernelDone s c code).mem = true := by
  unfold State.kernelDone
  repeat' (first
    | with_reducible assumption
    | with_reducible apply State.setSession_memWf
    | with_reducible refine foldl_memWf _ _ _ ?_ ?_
    | with_reducible refine foldl_memWf_fst _ _ _ ?_ ?_
    | with_reducible refine ite_memWf ?_ ?_
    | with_reducible apply Mem.setBytes_wf
    | with_reducible apply SMap.filter_wf
    | intro _
    | split
    | dsimp only)
theorem State.squashPassages_memWf (s : State) (f : Passage → Bool) (hm : Memory.wf s.mem = true) : Memory.wf (State.squashPassages s f).mem = true := by
  unfold State.squashPassages
  repeat' (first
    | with_reducible assumption
    | with_reducible apply State.bump_memWf
    | with_reducible apply State.squash_memWf
    | with_reducible refine foldl_memWf _ _ _ ?_ ?_
    | with_reducible refine foldl_memWf_fst _ _ _ ?_ ?_
    | with_reducible refine ite_memWf ?_ ?_
    | with_reducible apply Mem.setBytes_wf
    | with_reducible apply SMap.filter_wf
    | intro _
    | split
    | dsimp only)
theorem State.fetchOne_memWf (s : State) (a : Agent) (c : Cmd) (h : List Byte) (id : Nat) (hm : Memory.wf s.mem = true) : Memory.wf (State.fetchOne s a c h id).1.mem = true := by
  unfold State.fetchOne
  repeat' (first
    | with_reducible assumption
    | with_reducible apply State.countFlashReads_memWf
    | with_reducible refine foldl_memWf _ _ _ ?_ ?_
    | with_reducible refine foldl_memWf_fst _ _ _ ?_ ?_
    | with_reducible refine ite_memWf ?_ ?_
    | with_reducible apply Mem.setBytes_wf
    | with_reducible apply SMap.filter_wf
    | intro _
    | split
    | dsimp only)
theorem State.fetchOne_memWf_eq {s : State} {a : Agent} {c : Cmd} {h : List Byte} {id : Nat} {t} (hr : State.fetchOne s a c h id = t) (hm : Memory.wf s.mem = true) : Memory.wf t.1.mem = true := hr ▸ State.fetchOne_memWf s a c h id hm
theorem State.fetchAll_memWf (s : State) (a : Agent) (c : Cmd) (h : List Byte) (ids : List Byte) (hm : Memory.wf s.mem = true) : Memory.wf (State.fetchAll s a c h ids).1.mem = true := by
  unfold State.fetchAll
  repeat' (first
    | with_reducible assumption
    | with_reducible apply State.fetchOne_memWf
    | with_reducible refine State.fetchOne_memWf_eq ‹_› ?_
    | with_reducible refine foldl_memWf _ _ _ ?_ ?_
    | with_reducible refine foldl_memWf_fst _ _ _ ?_ ?_
    | with_reducible refine ite_memWf ?_ ?_
    | with_reducible apply Mem.setBytes_wf
    | with_reducible apply SMap.filter_wf
    | intro _
    | split
    | dsimp only)
theorem State.fetchAll_memWf_eq {s : State} {a : Agent} {c : Cmd} {h : List Byte} {ids : List Byte} {t} (hr : State.fetchAll s a c h ids = t) (hm : Memory.wf s.mem = true) : Memory.wf t.1.mem = true := hr ▸ State.fetchAll_memWf s a c h ids hm
theorem State.unitText_memWf (s : State) (a : Agent) (g : Nat) (fset : Option Nat) (u : PackUnit) (hm : Memory.wf s.mem = true) : ∀ t, (State.unitText s a g fset u) = .ok t → Memory.wf t.1.mem = true := by
  intro t hr
  unfold State.unitText at hr
  repeat' (first
    | with_reducible assumption
    | with_reducible apply State.bump_memWf
    | with_reducible apply State.validate_memWf
    | with_reducible apply State.countRegion_memWf
    | with_reducible refine foldl_memWf _ _ _ ?_ ?_
    | with_reducible refine foldl_memWf_fst _ _ _ ?_ ?_
    | with_reducible refine ite_memWf ?_ ?_
    | with_reducible apply Mem.setBytes_wf
    | with_reducible apply SMap.filter_wf
    | intro _
    | cases hr
    | split at hr
    | dsimp only at hr
    | split
    | dsimp only)
theorem State.unitText_memWf_eq {s : State} {a : Agent} {g : Nat} {fset : Option Nat} {u : PackUnit} {t} (hr : State.unitText s a g fset u = .ok t) (hm : Memory.wf s.mem = true) : Memory.wf t.1.mem = true := State.unitText_memWf s a g fset u hm t hr
theorem State.packText_memWf (s : State) (a : Agent) (g : Nat) (fset : Option Nat) (us : List PackUnit) (hm : Memory.wf s.mem = true) : ∀ t, (State.packText s a g fset us) = .ok t → Memory.wf t.1.mem = true := by
  unfold State.packText
  refine foldl_memWf_okFst _ _ _ (fun t ht => ?_) (fun acc x hacc t hr => ?_)
  · cases ht; exact hm
  · cases acc with
    | error f => cases hr
    | ok p =>
      dsimp only at hr
      split at hr
      · cases hr
      · next t1 b v bd hu =>
        cases hr
        exact State.unitText_memWf _ _ _ _ _ (hacc p rfl) _ hu
theorem State.packText_memWf_eq {s : State} {a : Agent} {g : Nat} {fset : Option Nat} {us : List PackUnit} {t} (hr : State.packText s a g fset us = .ok t) (hm : Memory.wf s.mem = true) : Memory.wf t.1.mem = true := State.packText_memWf s a g fset us hm t hr
theorem State.setVslot_memWf (s : State) (k : Nat) (v : VocabSlot) (hm : Memory.wf s.mem = true) : Memory.wf (State.setVslot s k v).mem = true := by
  unfold State.setVslot
  repeat' (first
    | with_reducible assumption
    | with_reducible refine foldl_memWf _ _ _ ?_ ?_
    | with_reducible refine foldl_memWf_fst _ _ _ ?_ ?_
    | with_reducible refine ite_memWf ?_ ?_
    | with_reducible apply Mem.setBytes_wf
    | with_reducible apply SMap.filter_wf
    | intro _
    | split
    | dsimp only)
theorem State.setGslot_memWf (s : State) (k : Nat) (v : GrammarSlot) (hm : Memory.wf s.mem = true) : Memory.wf (State.setGslot s k v).mem = true := by
  unfold State.setGslot
  repeat' (first
    | with_reducible assumption
    | with_reducible refine foldl_memWf _ _ _ ?_ ?_
    | with_reducible refine foldl_memWf_fst _ _ _ ?_ ?_
    | with_reducible refine ite_memWf ?_ ?_
    | with_reducible apply Mem.setBytes_wf
    | with_reducible apply SMap.filter_wf
    | intro _
    | split
    | dsimp only)
theorem State.zinBegin_memWf (s : State) (c : Cmd) (hm : Memory.wf s.mem = true) : Memory.wf (State.zinBegin s c).mem = true := by
  unfold State.zinBegin
  repeat' (first
    | with_reducible assumption
    | with_reducible apply State.setVslot_memWf
    | with_reducible apply State.setGslot_memWf
    | with_reducible refine foldl_memWf _ _ _ ?_ ?_
    | with_reducible refine foldl_memWf_fst _ _ _ ?_ ?_
    | with_reducible refine ite_memWf ?_ ?_
    | with_reducible apply Mem.setBytes_wf
    | with_reducible apply SMap.filter_wf
    | intro _
    | split
    | dsimp only)
theorem State.loadFailed_memWf (s : State) (c : Cmd) (hm : Memory.wf s.mem = true) : Memory.wf (State.loadFailed s c).mem = true := by
  unfold State.loadFailed
  repeat' (first
    | with_reducible assumption
    | with_reducible apply State.setVslot_memWf
    | with_reducible apply State.setGslot_memWf
    | with_reducible refine foldl_memWf _ _ _ ?_ ?_
    | with_reducible refine foldl_memWf_fst _ _ _ ?_ ?_
    | with_reducible refine ite_memWf ?_ ?_
    | with_reducible apply Mem.setBytes_wf
    | with_reducible apply SMap.filter_wf
    | intro _
    | split
    | dsimp only)
theorem State.takeLoadId_memWf (s : State) (hm : Memory.wf s.mem = true) : Memory.wf (State.takeLoadId s).1.mem = true := by
  unfold State.takeLoadId
  repeat' (first
    | with_reducible assumption
    | with_reducible refine foldl_memWf _ _ _ ?_ ?_
    | with_reducible refine foldl_memWf_fst _ _ _ ?_ ?_
    | with_reducible refine ite_memWf ?_ ?_
    | with_reducible apply Mem.setBytes_wf
    | with_reducible apply SMap.filter_wf
    | intro _
    | split
    | dsimp only)
theorem State.takeLoadId_memWf_eq {s : State} {t} (hr : State.takeLoadId s = t) (hm : Memory.wf s.mem = true) : Memory.wf t.1.mem = true := hr ▸ State.takeLoadId_memWf s hm
theorem State.endSlots_memWf (s : State) (job : BitVec 16) (hm : Memory.wf s.mem = true) : Memory.wf (State.endSlots s job).mem = true := by
  unfold State.endSlots
  repeat' (first
    | with_reducible assumption
    | with_reducible refine foldl_memWf _ _ _ ?_ ?_
    | with_reducible refine foldl_memWf_fst _ _ _ ?_ ?_
    | with_reducible refine ite_memWf ?_ ?_
    | with_reducible apply Mem.setBytes_wf
    | with_reducible apply SMap.filter_wf
    | intro _
    | split
    | dsimp only)
theorem State.encodeOne_memWf (a : Agent) (c : Cmd) (x : VocabSlot) (intact : Bool) (r : EncRun) (e : List Byte)
    (hm : Memory.wf r.st.mem = true) : ∀ t, State.encodeOne a c x intact r e = .ok t → Memory.wf t.st.mem = true := by
  intro t hr
  unfold State.encodeOne at hr
  repeat' (first
    | with_reducible assumption
    | with_reducible apply State.countRegion_memWf
    | cases hr
    | split at hr
    | dsimp only at hr
    | split
    | dsimp only)
theorem State.encodeAll_memWf (s : State) (c : Cmd) (x : VocabSlot) (segs : List Byte) (hm : Memory.wf s.mem = true) :
    ∀ t, s.encodeAll c x segs = .ok t → Memory.wf t.st.mem = true := by
  have go : ∀ (l : List (List Byte)) (acc : Except MemFail EncRun), (∀ t, acc = .ok t → Memory.wf t.st.mem = true) →
      ∀ t, l.foldl (fun acc e => match acc with
        | .error f => .error f
        | .ok r => State.encodeOne c.agent c x (s.workIntact x) r e) acc = .ok t → Memory.wf t.st.mem = true := by
    intro l
    induction l with
    | nil => exact fun _ h => h
    | cons e l ih =>
      intro acc h
      refine ih _ (fun t ht => ?_)
      cases acc with
      | error f => cases ht
      | ok r => exact State.encodeOne_memWf _ _ _ _ _ _ (h r rfl) t ht
  refine go _ _ (fun t ht => ?_)
  cases ht
  exact State.countRegion_memWf _ _ _ _ hm
theorem State.maskOne_memWf (s : State) (c : Cmd) (i : Nat) (hm : Memory.wf s.mem = true) : ∀ t, (State.maskOne s c i) = .ok t → Memory.wf t.1.mem = true := by
  intro t hr
  unfold State.maskOne at hr
  repeat' (first
    | with_reducible assumption
    | with_reducible apply State.bump_memWf
    | with_reducible apply State.countRegion_memWf
    | with_reducible apply State.store_memWf
    | with_reducible apply State.countRegions_memWf
    | with_reducible refine foldl_memWf _ _ _ ?_ ?_
    | with_reducible refine foldl_memWf_fst _ _ _ ?_ ?_
    | with_reducible refine ite_memWf ?_ ?_
    | with_reducible apply Mem.setBytes_wf
    | with_reducible apply SMap.filter_wf
    | intro _
    | cases hr
    | split at hr
    | dsimp only at hr
    | split
    | dsimp only)
theorem State.maskOne_memWf_eq {s : State} {c : Cmd} {i : Nat} {t} (hr : State.maskOne s c i = .ok t) (hm : Memory.wf s.mem = true) : Memory.wf t.1.mem = true := State.maskOne_memWf s c i hm t hr
theorem State.maskAll_memWf (s : State) (c : Cmd) (hm : Memory.wf s.mem = true) : Memory.wf (State.maskAll s c).1.mem = true := by
  unfold State.maskAll
  repeat' (first
    | with_reducible assumption
    | with_reducible refine State.maskOne_memWf_eq ‹_› ?_
    | with_reducible refine foldl_memWf _ _ _ ?_ ?_
    | with_reducible refine foldl_memWf_fst _ _ _ ?_ ?_
    | with_reducible refine ite_memWf ?_ ?_
    | with_reducible apply Mem.setBytes_wf
    | with_reducible apply SMap.filter_wf
    | intro _
    | split
    | dsimp only)
theorem State.maskAll_memWf_eq {s : State} {c : Cmd} {t} (hr : State.maskAll s c = t) (hm : Memory.wf s.mem = true) : Memory.wf t.1.mem = true := hr ▸ State.maskAll_memWf s c hm
theorem State.dropEntry_memWf (s : State) (e : Nat × FxgEntry) (flags : Nat) (hm : Memory.wf s.mem = true) : Memory.wf (State.dropEntry s e flags).mem = true := by
  unfold State.dropEntry
  repeat' (first
    | with_reducible assumption
    | with_reducible apply State.writePiece_memWf
    | with_reducible refine foldl_memWf _ _ _ ?_ ?_
    | with_reducible refine foldl_memWf_fst _ _ _ ?_ ?_
    | with_reducible refine ite_memWf ?_ ?_
    | with_reducible apply Mem.setBytes_wf
    | with_reducible apply SMap.filter_wf
    | intro _
    | split
    | dsimp only)
theorem State.evictFor_memWf (s : State) (p : Nat) (k : Nat) (n : Nat) (z0 : List (Nat × FxgEntry)) (hm : Memory.wf s.mem = true) : Memory.wf (State.evictFor s p k n z0).1.mem = true := by
  induction z0 generalizing s with
  | nil => exact hm
  | cons e es ih =>
    unfold State.evictFor
    split
    · exact hm
    · exact ih _ (State.bump_memWf _ _ _ (State.dropEntry_memWf _ _ _ hm))
theorem State.evictFor_memWf_eq {s : State} {p : Nat} {k : Nat} {n : Nat} {z0 : List (Nat × FxgEntry)} {t} (hr : State.evictFor s p k n z0 = t) (hm : Memory.wf s.mem = true) : Memory.wf t.1.mem = true := hr ▸ State.evictFor_memWf s p k n z0 hm
theorem State.takeSpace_memWf (s : State) (p : Nat) (k : Nat) (n : Nat) (hm : Memory.wf s.mem = true) : ∀ t, (State.takeSpace s p k n) = some t → Memory.wf t.1.mem = true := by
  intro t hr
  unfold State.takeSpace at hr
  repeat' (first
    | with_reducible assumption
    | with_reducible apply State.evictFor_memWf
    | with_reducible refine State.evictFor_memWf_eq ‹_› ?_
    | with_reducible refine foldl_memWf _ _ _ ?_ ?_
    | with_reducible refine foldl_memWf_fst _ _ _ ?_ ?_
    | with_reducible refine ite_memWf ?_ ?_
    | with_reducible apply Mem.setBytes_wf
    | with_reducible apply SMap.filter_wf
    | intro _
    | cases hr
    | split at hr
    | dsimp only at hr
    | split
    | dsimp only)
theorem State.takeSpace_memWf_eq {s : State} {p : Nat} {k : Nat} {n : Nat} {t} (hr : State.takeSpace s p k n = some t) (hm : Memory.wf s.mem = true) : Memory.wf t.1.mem = true := State.takeSpace_memWf s p k n hm t hr
theorem State.moveRow_memWf (s : State) (t0 : State) (a : Agent) (c : Cmd) (x : Desc) (y : Desc) (bad : Bool) (r : Nat) (hm : Memory.wf s.mem = true) (ht0 : Memory.wf t0.mem = true) : Memory.wf (State.moveRow s t0 a c x y bad r).mem = true := by
  unfold State.moveRow
  repeat' (first
    | with_reducible assumption
    | with_reducible apply State.store_memWf
    | with_reducible apply State.storeCodes_memWf
    | with_reducible refine foldl_memWf _ _ _ ?_ ?_
    | with_reducible refine foldl_memWf_fst _ _ _ ?_ ?_
    | with_reducible refine ite_memWf ?_ ?_
    | with_reducible apply Mem.setBytes_wf
    | with_reducible apply SMap.filter_wf
    | intro _
    | split
    | dsimp only)
theorem State.moveTensor_memWf (s : State) (t0 : State) (a : Agent) (c : Cmd) (x : Desc) (y : Desc) (bad : Bool) (hm : Memory.wf s.mem = true) (ht0 : Memory.wf t0.mem = true) : Memory.wf (State.moveTensor s t0 a c x y bad).mem = true := by
  unfold State.moveTensor
  repeat' (first
    | with_reducible assumption
    | with_reducible apply State.zeroEdges_memWf
    | with_reducible apply State.moveRow_memWf
    | with_reducible refine foldl_memWf _ _ _ ?_ ?_
    | with_reducible refine foldl_memWf_fst _ _ _ ?_ ?_
    | with_reducible refine ite_memWf ?_ ?_
    | with_reducible apply Mem.setBytes_wf
    | with_reducible apply SMap.filter_wf
    | intro _
    | split
    | dsimp only)
theorem State.moveCopies_memWf (s : State) (t0 : State) (c : Cmd) (bad : Bool) (hm : Memory.wf s.mem = true) (ht0 : Memory.wf t0.mem = true) : Memory.wf (State.moveCopies s t0 c bad).mem = true := by
  unfold State.moveCopies
  repeat' (first
    | with_reducible assumption
    | with_reducible apply State.moveTensor_memWf
    | with_reducible refine foldl_memWf _ _ _ ?_ ?_
    | with_reducible refine foldl_memWf_fst _ _ _ ?_ ?_
    | with_reducible refine ite_memWf ?_ ?_
    | with_reducible apply Mem.setBytes_wf
    | with_reducible apply SMap.filter_wf
    | intro _
    | split
    | dsimp only)
theorem State.moveAlloc_memWf (s : State) (c : Cmd) (bad : Bool) (hm : Memory.wf s.mem = true) : Memory.wf (State.moveAlloc s c bad).mem = true := by
  unfold State.moveAlloc
  repeat' (first
    | with_reducible assumption
    | with_reducible apply State.drawn_memWf
    | with_reducible apply State.store_memWf
    | with_reducible apply State.workDone_memWf
    | with_reducible apply State.failWork_memWf
    | with_reducible apply State.withReads_memWf
    | with_reducible refine State.takeSpace_memWf_eq ‹_› ?_
    | with_reducible apply State.moveTensor_memWf
    | with_reducible refine foldl_memWf _ _ _ ?_ ?_
    | with_reducible refine foldl_memWf_fst _ _ _ ?_ ?_
    | with_reducible refine ite_memWf ?_ ?_
    | with_reducible apply Mem.setBytes_wf
    | with_reducible apply SMap.filter_wf
    | intro _
    | split
    | dsimp only)
theorem State.releaseEntries_memWf (s : State) (job : BitVec 16) (hm : Memory.wf s.mem = true) : Memory.wf (State.releaseEntries s job).mem = true := by
  unfold State.releaseEntries
  repeat' (first
    | with_reducible assumption
    | with_reducible apply State.dropEntry_memWf
    | with_reducible refine foldl_memWf _ _ _ ?_ ?_
    | with_reducible refine foldl_memWf_fst _ _ _ ?_ ?_
    | with_reducible refine ite_memWf ?_ ?_
    | with_reducible apply Mem.setBytes_wf
    | with_reducible apply SMap.filter_wf
    | intro _
    | split
    | dsimp only)
theorem State.storeBlocks_memWf (t : State) (s : State) (c : Cmd) (hm : Memory.wf t.mem = true) (hs : Memory.wf s.mem = true) : Memory.wf (State.storeBlocks t s c).mem = true := by
  unfold State.storeBlocks
  repeat' (first
    | with_reducible assumption
    | with_reducible apply State.store_memWf
    | with_reducible refine foldl_memWf _ _ _ ?_ ?_
    | with_reducible refine foldl_memWf_fst _ _ _ ?_ ?_
    | with_reducible refine ite_memWf ?_ ?_
    | with_reducible apply Mem.setBytes_wf
    | with_reducible apply SMap.filter_wf
    | intro _
    | split
    | dsimp only)
theorem State.beginInval_memWf (s : State) (v : Word) (hm : Memory.wf s.mem = true) : Memory.wf (State.beginInval s v).mem = true := by
  unfold State.beginInval
  repeat' (first
    | with_reducible assumption
    | with_reducible apply State.bumpSat_memWf
    | with_reducible refine foldl_memWf _ _ _ ?_ ?_
    | with_reducible refine foldl_memWf_fst _ _ _ ?_ ?_
    | with_reducible refine ite_memWf ?_ ?_
    | with_reducible apply Mem.setBytes_wf
    | with_reducible apply SMap.filter_wf
    | intro _
    | split
    | dsimp only)
theorem State.setEb_memWf (s : State) (k : Nat) (x : EraseBlock) (hm : Memory.wf s.mem = true) : Memory.wf (State.setEb s k x).mem = true := by
  unfold State.setEb
  repeat' (first
    | with_reducible assumption
    | with_reducible refine foldl_memWf _ _ _ ?_ ?_
    | with_reducible refine foldl_memWf_fst _ _ _ ?_ ?_
    | with_reducible refine ite_memWf ?_ ?_
    | with_reducible apply Mem.setBytes_wf
    | with_reducible apply SMap.filter_wf
    | intro _
    | split
    | dsimp only)
theorem State.setBlock_memWf (s : State) (b : Nat) (x : FlashBlock) (hm : Memory.wf s.mem = true) : Memory.wf (State.setBlock s b x).mem = true := by
  unfold State.setBlock
  repeat' (first
    | with_reducible assumption
    | with_reducible apply State.dropLines_memWf
    | with_reducible refine foldl_memWf _ _ _ ?_ ?_
    | with_reducible refine foldl_memWf_fst _ _ _ ?_ ?_
    | with_reducible refine ite_memWf ?_ ?_
    | with_reducible apply Mem.setBytes_wf
    | with_reducible apply SMap.filter_wf
    | intro _
    | split
    | dsimp only)
theorem State.moveBlocks_memWf (s : State) (ms : List (Nat × FlashSlot)) (hm : Memory.wf s.mem = true) : Memory.wf (State.moveBlocks s ms).mem = true := by
  unfold State.moveBlocks
  repeat' (first
    | with_reducible assumption
    | with_reducible apply State.setBlock_memWf
    | with_reducible refine foldl_memWf _ _ _ ?_ ?_
    | with_reducible refine foldl_memWf_fst _ _ _ ?_ ?_
    | with_reducible refine ite_memWf ?_ ?_
    | with_reducible apply Mem.setBytes_wf
    | with_reducible apply SMap.filter_wf
    | intro _
    | split
    | dsimp only)
theorem State.rewriteBlocks_memWf (s : State) (ms : List (Nat × FlashSlot)) (hm : Memory.wf s.mem = true) : Memory.wf (State.rewriteBlocks s ms).mem = true := by
  unfold State.rewriteBlocks
  repeat' (first
    | with_reducible assumption
    | with_reducible apply State.setBlock_memWf
    | with_reducible refine foldl_memWf _ _ _ ?_ ?_
    | with_reducible refine foldl_memWf_fst _ _ _ ?_ ?_
    | with_reducible refine ite_memWf ?_ ?_
    | with_reducible apply Mem.setBytes_wf
    | with_reducible apply SMap.filter_wf
    | intro _
    | split
    | dsimp only)
theorem State.unmapBlocks_memWf (s : State) (bs : List Nat) (hm : Memory.wf s.mem = true) : Memory.wf (State.unmapBlocks s bs).mem = true := by
  unfold State.unmapBlocks
  repeat' (first
    | with_reducible assumption
    | with_reducible apply State.setBlock_memWf
    | with_reducible refine foldl_memWf _ _ _ ?_ ?_
    | with_reducible refine foldl_memWf_fst _ _ _ ?_ ?_
    | with_reducible refine ite_memWf ?_ ?_
    | with_reducible apply Mem.setBytes_wf
    | with_reducible apply SMap.filter_wf
    | intro _
    | split
    | dsimp only)
theorem State.healthAt_memWf (s : State) (code : Byte) (k : Nat) (arg : Nat) (hm : Memory.wf s.mem = true) : Memory.wf (State.healthAt s code k arg).mem = true := by
  unfold State.healthAt
  repeat' (first
    | with_reducible assumption
    | with_reducible apply State.health_memWf
    | with_reducible refine foldl_memWf _ _ _ ?_ ?_
    | with_reducible refine foldl_memWf_fst _ _ _ ?_ ?_
    | with_reducible refine ite_memWf ?_ ?_
    | with_reducible apply Mem.setBytes_wf
    | with_reducible apply SMap.filter_wf
    | intro _
    | split
    | dsimp only)
theorem State.retire_memWf (s : State) (k : Nat) (hm : Memory.wf s.mem = true) : Memory.wf (State.retire s k).mem = true := by
  unfold State.retire
  extract_lets n e t
  have ht : Memory.wf t.mem = true := State.setRegFld_memWf _ _ _ _ _ (State.setEb_memWf _ _ _ hm)
  clear_value t n
  refine ite_memWf (pf1_memWf _ _ ?_) (ite_memWf (pf1_memWf _ _ ?_) ht)
  · exact State.healthAt_memWf _ _ _ _ ht
  · exact State.setRegFld_memWf _ _ _ _ _ (State.healthAt_memWf _ _ _ _ ht)
theorem State.withPf1_memWf (s : State) (f : Pf1 → Pf1) (hm : Memory.wf s.mem = true) : Memory.wf (State.withPf1 s f).mem = true := by
  unfold State.withPf1
  repeat' (first
    | with_reducible assumption
    | with_reducible refine foldl_memWf _ _ _ ?_ ?_
    | with_reducible refine foldl_memWf_fst _ _ _ ?_ ?_
    | with_reducible refine ite_memWf ?_ ?_
    | with_reducible apply Mem.setBytes_wf
    | with_reducible apply SMap.filter_wf
    | intro _
    | split
    | dsimp only)
theorem State.setNvme_memWf (s : State) (c : NvmeCmd) (hm : Memory.wf s.mem = true) : Memory.wf (State.setNvme s c).mem = true := by
  unfold State.setNvme
  repeat' (first
    | with_reducible assumption
    | with_reducible apply State.withPf1_memWf
    | with_reducible refine foldl_memWf _ _ _ ?_ ?_
    | with_reducible refine foldl_memWf_fst _ _ _ ?_ ?_
    | with_reducible refine ite_memWf ?_ ?_
    | with_reducible apply Mem.setBytes_wf
    | with_reducible apply SMap.filter_wf
    | intro _
    | split
    | dsimp only)
theorem State.nvmeDone_memWf (s : State) (c : NvmeCmd) (sct : Nat) (sc : Nat) (dw0 : BitVec 32) (hm : Memory.wf s.mem = true) : Memory.wf (State.nvmeDone s c sct sc dw0).mem = true := by
  unfold State.nvmeDone
  repeat' (first
    | with_reducible assumption
    | with_reducible apply State.withPf1_memWf
    | with_reducible refine foldl_memWf _ _ _ ?_ ?_
    | with_reducible refine foldl_memWf_fst _ _ _ ?_ ?_
    | with_reducible refine ite_memWf ?_ ?_
    | with_reducible apply Mem.setBytes_wf
    | with_reducible apply SMap.filter_wf
    | intro _
    | split
    | dsimp only)
theorem State.pf1Reset_memWf (s : State) (hm : Memory.wf s.mem = true) : Memory.wf (State.pf1Reset s).mem = true := by
  unfold State.pf1Reset
  repeat' (first
    | with_reducible assumption
    | with_reducible apply State.withPf1_memWf
    | with_reducible refine foldl_memWf _ _ _ ?_ ?_
    | with_reducible refine foldl_memWf_fst _ _ _ ?_ ?_
    | with_reducible refine ite_memWf ?_ ?_
    | with_reducible apply Mem.setBytes_wf
    | with_reducible apply SMap.filter_wf
    | intro _
    | split
    | dsimp only)
theorem State.pf1Settle_memWf (s : State) (hm : Memory.wf s.mem = true) : Memory.wf (State.pf1Settle s).mem = true := by
  unfold State.pf1Settle
  repeat' (first
    | with_reducible assumption
    | with_reducible apply State.withPf1_memWf
    | with_reducible refine foldl_memWf _ _ _ ?_ ?_
    | with_reducible refine foldl_memWf_fst _ _ _ ?_ ?_
    | with_reducible refine ite_memWf ?_ ?_
    | with_reducible apply Mem.setBytes_wf
    | with_reducible apply SMap.filter_wf
    | intro _
    | split
    | dsimp only)
theorem State.writeCc_memWf (s : State) (w : BitVec 32) (hm : Memory.wf s.mem = true) : Memory.wf (State.writeCc s w).mem = true := by
  unfold State.writeCc
  repeat' (first
    | with_reducible assumption
    | with_reducible apply State.withPf1_memWf
    | with_reducible apply State.pf1Settle_memWf
    | with_reducible refine foldl_memWf _ _ _ ?_ ?_
    | with_reducible refine foldl_memWf_fst _ _ _ ?_ ?_
    | with_reducible refine ite_memWf ?_ ?_
    | with_reducible apply Mem.setBytes_wf
    | with_reducible apply SMap.filter_wf
    | intro _
    | split
    | dsimp only)
theorem State.sqDoorbell_memWf (s : State) (q : BitVec 16) (tail : BitVec 32) (hm : Memory.wf s.mem = true) : Memory.wf (State.sqDoorbell s q tail).mem = true := by
  unfold State.sqDoorbell
  repeat' (first
    | with_reducible assumption
    | with_reducible apply State.withPf1_memWf
    | with_reducible refine foldl_memWf _ _ _ ?_ ?_
    | with_reducible refine foldl_memWf_fst _ _ _ ?_ ?_
    | with_reducible refine ite_memWf ?_ ?_
    | with_reducible apply Mem.setBytes_wf
    | with_reducible apply SMap.filter_wf
    | intro _
    | split
    | dsimp only)
theorem State.cqDoorbell_memWf (s : State) (q : BitVec 16) (head : BitVec 32) (hm : Memory.wf s.mem = true) : Memory.wf (State.cqDoorbell s q head).mem = true := by
  unfold State.cqDoorbell
  repeat' (first
    | with_reducible assumption
    | with_reducible apply State.withPf1_memWf
    | with_reducible refine foldl_memWf _ _ _ ?_ ?_
    | with_reducible refine foldl_memWf_fst _ _ _ ?_ ?_
    | with_reducible refine ite_memWf ?_ ?_
    | with_reducible apply Mem.setBytes_wf
    | with_reducible apply SMap.filter_wf
    | intro _
    | split
    | dsimp only)
theorem State.setFeature_memWf (s : State) (c : NvmeCmd) (hm : Memory.wf s.mem = true) : Memory.wf (State.setFeature s c).mem = true := by
  unfold State.setFeature
  repeat' (first
    | with_reducible assumption
    | with_reducible apply State.withPf1_memWf
    | with_reducible apply State.nvmeDone_memWf
    | with_reducible refine foldl_memWf _ _ _ ?_ ?_
    | with_reducible refine foldl_memWf_fst _ _ _ ?_ ?_
    | with_reducible refine ite_memWf ?_ ?_
    | with_reducible apply Mem.setBytes_wf
    | with_reducible apply SMap.filter_wf
    | intro _
    | split
    | dsimp only)
theorem State.getFeature_memWf (s : State) (c : NvmeCmd) (hm : Memory.wf s.mem = true) : Memory.wf (State.getFeature s c).mem = true := by
  unfold State.getFeature
  repeat' (first
    | with_reducible assumption
    | with_reducible apply State.nvmeDone_memWf
    | with_reducible refine foldl_memWf _ _ _ ?_ ?_
    | with_reducible refine foldl_memWf_fst _ _ _ ?_ ?_
    | with_reducible refine ite_memWf ?_ ?_
    | with_reducible apply Mem.setBytes_wf
    | with_reducible apply SMap.filter_wf
    | intro _
    | split
    | dsimp only)
theorem State.identify_memWf (s : State) (c : NvmeCmd) (hm : Memory.wf s.mem = true) : Memory.wf (State.identify s c).mem = true := by
  unfold State.identify
  repeat' (first
    | with_reducible assumption
    | with_reducible apply State.send_memWf
    | with_reducible apply State.nvmeDone_memWf
    | with_reducible apply State.hostWrite_memWf
    | with_reducible refine foldl_memWf _ _ _ ?_ ?_
    | with_reducible refine foldl_memWf_fst _ _ _ ?_ ?_
    | with_reducible refine ite_memWf ?_ ?_
    | with_reducible apply Mem.setBytes_wf
    | with_reducible apply SMap.filter_wf
    | intro _
    | split
    | dsimp only)
theorem State.deleteCq_memWf (s : State) (c : NvmeCmd) (hm : Memory.wf s.mem = true) : Memory.wf (State.deleteCq s c).mem = true := by
  unfold State.deleteCq
  repeat' (first
    | with_reducible assumption
    | with_reducible apply State.withPf1_memWf
    | with_reducible apply State.nvmeDone_memWf
    | with_reducible refine foldl_memWf _ _ _ ?_ ?_
    | with_reducible refine foldl_memWf_fst _ _ _ ?_ ?_
    | with_reducible refine ite_memWf ?_ ?_
    | with_reducible apply Mem.setBytes_wf
    | with_reducible apply SMap.filter_wf
    | intro _
    | split
    | dsimp only)
theorem State.adminStart_memWf (s : State) (c : NvmeCmd) (hm : Memory.wf s.mem = true) : Memory.wf (State.adminStart s c).mem = true := by
  unfold State.adminStart
  repeat' (first
    | with_reducible assumption
    | with_reducible apply State.nvmeDone_memWf
    | with_reducible apply State.setFeature_memWf
    | with_reducible apply State.getFeature_memWf
    | with_reducible apply State.identify_memWf
    | with_reducible apply State.deleteCq_memWf
    | with_reducible refine foldl_memWf _ _ _ ?_ ?_
    | with_reducible refine foldl_memWf_fst _ _ _ ?_ ?_
    | with_reducible refine ite_memWf ?_ ?_
    | with_reducible apply Mem.setBytes_wf
    | with_reducible apply SMap.filter_wf
    | intro _
    | split
    | dsimp only)
theorem State.sendPrp_memWf (s : State) (c : NvmeCmd) (prps : HostRead) (bs : List Byte) (hm : Memory.wf s.mem = true) : ∀ t, (State.sendPrp s c prps bs) = some t → Memory.wf t.mem = true := by
  intro t hr
  unfold State.sendPrp at hr
  repeat' (first
    | with_reducible assumption
    | with_reducible apply State.send_memWf
    | with_reducible apply State.hostWrite_memWf
    | with_reducible refine foldl_memWf _ _ _ ?_ ?_
    | with_reducible refine foldl_memWf_fst _ _ _ ?_ ?_
    | with_reducible refine ite_memWf ?_ ?_
    | with_reducible apply Mem.setBytes_wf
    | with_reducible apply SMap.filter_wf
    | intro _
    | cases hr
    | split at hr
    | dsimp only at hr
    | split
    | dsimp only)
theorem State.sendPrp_memWf_eq {s : State} {c : NvmeCmd} {prps : HostRead} {bs : List Byte} {t} (hr : State.sendPrp s c prps bs = some t) (hm : Memory.wf s.mem = true) : Memory.wf t.mem = true := State.sendPrp_memWf s c prps bs hm t hr
theorem State.freeze_memWf (s : State) (q : Nat) (fid : Nat) (hm : Memory.wf s.mem = true) : Memory.wf (State.freeze s q fid).mem = true := by
  unfold State.freeze
  repeat' (first
    | with_reducible assumption
    | with_reducible apply State.withPf1_memWf
    | with_reducible refine foldl_memWf _ _ _ ?_ ?_
    | with_reducible refine foldl_memWf_fst _ _ _ ?_ ?_
    | with_reducible refine ite_memWf ?_ ?_
    | with_reducible apply Mem.setBytes_wf
    | with_reducible apply SMap.filter_wf
    | intro _
    | split
    | dsimp only)
theorem State.pf1Quiesce_memWf (s : State) (hm : Memory.wf s.mem = true) : Memory.wf (State.pf1Quiesce s).mem = true := by
  unfold State.pf1Quiesce
  repeat' (first
    | with_reducible assumption
    | with_reducible apply State.withPf1_memWf
    | with_reducible refine foldl_memWf _ _ _ ?_ ?_
    | with_reducible refine foldl_memWf_fst _ _ _ ?_ ?_
    | with_reducible refine ite_memWf ?_ ?_
    | with_reducible apply Mem.setBytes_wf
    | with_reducible apply SMap.filter_wf
    | intro _
    | split
    | dsimp only)
theorem State.reject_memWf (s : State) (component : Nat) (code : Byte) (hm : Memory.wf s.mem = true) : Memory.wf (State.reject s component code).mem = true := by
  unfold State.reject
  repeat' (first
    | with_reducible assumption
    | with_reducible apply State.setRegFld_memWf
    | with_reducible refine foldl_memWf _ _ _ ?_ ?_
    | with_reducible refine foldl_memWf_fst _ _ _ ?_ ?_
    | with_reducible refine ite_memWf ?_ ?_
    | with_reducible apply Mem.setBytes_wf
    | with_reducible apply SMap.filter_wf
    | intro _
    | split
    | dsimp only)

end Sys2Proof.Machine
end

