-- ==== Sys2Proof/Laws/MemoryCommands.lean ====
section
/-!
SUPPORT. Every further operation of the model keeps the memory's canonical form (Memory.wf): one lemma per operation that answers a state, in the
order the operations are defined; `<operation>_eq` is the same of an answer given by an equation.
-/

set_option linter.unusedTactic false
set_option linter.unreachableTactic false
set_option linter.unusedVariables false

namespace Sys2Proof.Machine
theorem State.poolRecord_memWf (s : State) (j : Job) (pa : Nat) (bs : List Byte) (hm : Memory.wf s.mem = true) : ∀ t, (State.poolRecord s j pa bs) = some t → Memory.wf t.mem = true := by
  intro t hr
  unfold State.poolRecord at hr
  repeat' (first
    | with_reducible assumption
    | with_reducible apply State.ramWrite_memWf
    | with_reducible refine State.request_memWf_eq ‹_› ?_
    | with_reducible apply State.dropHome_memWf
    | with_reducible refine foldl_memWf _ _ _ ?_ ?_
    | with_reducible refine foldl_memWf_fst _ _ _ ?_ ?_
    | with_reducible refine ite_memWf ?_ ?_
    | with_reducible apply Mem.setBytes_wf
    | with_reducible apply SMap.filter_wf
    | intro _
    | cases hr
    | split at hr
    | dsimp only at hr
    | split
    | dsimp only)
theorem State.poolRecord_memWf_eq {s : State} {j : Job} {pa : Nat} {bs : List Byte} {t} (hr : State.poolRecord s j pa bs = some t) (hm : Memory.wf s.mem = true) : Memory.wf t.mem = true := State.poolRecord_memWf s j pa bs hm t hr
theorem State.writeRecord_memWf (s : State) (j : Job) (hm : Memory.wf s.mem = true) : ∀ t, (State.writeRecord s j) = some t → Memory.wf t.mem = true := by
  intro t hr
  unfold State.writeRecord at hr
  extract_lets bs pa at hr
  clear_value pa bs
  split at hr
  · split at hr
    · exact State.poolRecord_memWf_eq hr hm
    · split at hr
      · cases hr
        exact State.ramWrite_memWf _ _ _ _ _ hm
      · cases hr
  · cases hr
    exact State.send_memWf _ _ hm
theorem State.writeRecord_memWf_eq {s : State} {j : Job} {t} (hr : State.writeRecord s j = some t) (hm : Memory.wf s.mem = true) : Memory.wf t.mem = true := State.writeRecord_memWf s j hm t hr
theorem State.submitError_memWf (s : State) (hm : Memory.wf s.mem = true) : Memory.wf (State.submitError s).mem = true := by
  unfold State.submitError
  repeat' (first
    | with_reducible assumption
    | with_reducible apply State.bumpSat_memWf
    | with_reducible refine foldl_memWf _ _ _ ?_ ?_
    | with_reducible refine foldl_memWf_fst _ _ _ ?_ ?_
    | with_reducible refine ite_memWf ?_ ?_
    | with_reducible apply Mem.setBytes_wf
    | with_reducible apply SMap.filter_wf
    | intro _
    | split
    | dsimp only)
theorem State.report_memWf (s : State) (j : Job) (hm : Memory.wf s.mem = true) : Memory.wf (State.report s j).mem = true := by
  unfold State.report
  cases hr : s.writeRecord j with
  | none => exact State.submitError_memWf s hm
  | some t => exact State.writeRecord_memWf s j hm t hr
theorem State.reconsider_memWf (s : State) (g : Nat) (hm : Memory.wf s.mem = true) : Memory.wf (State.reconsider s g).mem = true := by
  unfold State.reconsider
  repeat' (first
    | with_reducible assumption
    | with_reducible apply State.bump_memWf
    | with_reducible apply State.setJob_memWf
    | with_reducible refine foldl_memWf _ _ _ ?_ ?_
    | with_reducible refine foldl_memWf_fst _ _ _ ?_ ?_
    | with_reducible refine ite_memWf ?_ ?_
    | with_reducible apply Mem.setBytes_wf
    | with_reducible apply SMap.filter_wf
    | intro _
    | split
    | dsimp only)
theorem State.submitCheck_memWf_eq {s : State} {d : List Byte} {j : Job} {host : HostRead} {o : Option Byte} {t : State} (hr : s.submitCheck d j host = (o, t)) (hm : Memory.wf s.mem = true) : Memory.wf t.mem = true := by
  unfold State.submitCheck at hr
  repeat' (first
    | with_reducible assumption
    | with_reducible apply State.reject_memWf
    | cases hr
    | split at hr
    | (extract_lets n at hr; clear_value n)
    | split)
theorem State.submitJob_memWf (s : State) (port : Option Nat) (v : Word) (desc : HostRead) (image : HostRead) (hm : Memory.wf s.mem = true) : Memory.wf (State.submitJob s port v desc image).mem = true := by
  unfold State.submitJob
  repeat' (first
    | with_reducible assumption
    | with_reducible refine State.submitCheck_memWf_eq ‹_› ?_
    | with_reducible refine State.writeRecord_memWf_eq ‹_› ?_
    | with_reducible apply State.submitError_memWf
    | with_reducible apply State.report_memWf
    | with_reducible apply State.reconsider_memWf
    | split
    | dsimp only)
theorem State.unbindQueue_memWf (s : State) (q : Nat) (hm : Memory.wf s.mem = true) : Memory.wf (State.unbindQueue s q).mem = true := by
  unfold State.unbindQueue
  repeat' (first
    | with_reducible assumption
    | with_reducible apply State.setQueue_memWf
    | with_reducible apply State.discardWords_memWf
    | with_reducible apply State.coreFault_memWf
    | with_reducible refine foldl_memWf _ _ _ ?_ ?_
    | with_reducible refine foldl_memWf_fst _ _ _ ?_ ?_
    | with_reducible refine ite_memWf ?_ ?_
    | with_reducible apply Mem.setBytes_wf
    | with_reducible apply SMap.filter_wf
    | intro _
    | split
    | dsimp only)
theorem State.unbindJob_memWf (s : State) (job : BitVec 16) (hm : Memory.wf s.mem = true) : Memory.wf (State.unbindJob s job).mem = true := by
  unfold State.unbindJob
  repeat' (first
    | with_reducible assumption
    | with_reducible apply State.unbindQueue_memWf
    | with_reducible refine foldl_memWf _ _ _ ?_ ?_
    | with_reducible refine foldl_memWf_fst _ _ _ ?_ ?_
    | with_reducible refine ite_memWf ?_ ?_
    | with_reducible apply Mem.setBytes_wf
    | with_reducible apply SMap.filter_wf
    | intro _
    | split
    | dsimp only)
theorem State.squashSpec_memWf (s : State) (g : Nat) (job : BitVec 16) (hm : Memory.wf s.mem = true) : Memory.wf (State.squashSpec s g job).mem = true := by
  unfold State.squashSpec
  repeat' (first
    | with_reducible assumption
    | with_reducible apply State.evict_memWf
    | with_reducible apply State.forgetFills_memWf
    | with_reducible apply State.squashPassages_memWf
    | with_reducible refine foldl_memWf _ _ _ ?_ ?_
    | with_reducible refine foldl_memWf_fst _ _ _ ?_ ?_
    | with_reducible refine ite_memWf ?_ ?_
    | with_reducible apply Mem.setBytes_wf
    | with_reducible apply SMap.filter_wf
    | intro _
    | split
    | dsimp only)
theorem State.squashAhead_memWf (s : State) (n : CoreId) (hm : Memory.wf s.mem = true) : Memory.wf (State.squashAhead s n).mem = true := by
  unfold State.squashAhead
  repeat' (first
    | with_reducible assumption
    | with_reducible apply State.bump_memWf
    | with_reducible apply State.setCore_memWf
    | with_reducible apply State.squash_memWf
    | with_reducible refine foldl_memWf _ _ _ ?_ ?_
    | with_reducible refine foldl_memWf_fst _ _ _ ?_ ?_
    | with_reducible refine ite_memWf ?_ ?_
    | with_reducible apply Mem.setBytes_wf
    | with_reducible apply SMap.filter_wf
    | intro _
    | split
    | dsimp only)
theorem State.idleCore_memWf (s : State) (n : CoreId) (hm : Memory.wf s.mem = true) : Memory.wf (State.idleCore s n).mem = true := by
  unfold State.idleCore
  repeat' (first
    | with_reducible assumption
    | with_reducible apply State.setCore_memWf
    | with_reducible apply State.abandon_memWf
    | with_reducible apply State.squashAhead_memWf
    | with_reducible refine foldl_memWf _ _ _ ?_ ?_
    | with_reducible refine foldl_memWf_fst _ _ _ ?_ ?_
    | with_reducible refine ite_memWf ?_ ?_
    | with_reducible apply Mem.setBytes_wf
    | with_reducible apply SMap.filter_wf
    | intro _
    | split
    | dsimp only)
theorem State.endSessions_memWf (s : State) (job : BitVec 16) (hm : Memory.wf s.mem = true) : Memory.wf (State.endSessions s job).mem = true := by
  unfold State.endSessions
  repeat' (first
    | with_reducible assumption
    | with_reducible apply State.endSession_memWf
    | with_reducible refine foldl_memWf _ _ _ ?_ ?_
    | with_reducible refine foldl_memWf_fst _ _ _ ?_ ?_
    | with_reducible refine ite_memWf ?_ ?_
    | with_reducible apply Mem.setBytes_wf
    | with_reducible apply SMap.filter_wf
    | intro _
    | split
    | dsimp only)
theorem State.endJob_memWf (s : State) (j : Job) (code : Byte) (hm : Memory.wf s.mem = true) : Memory.wf (State.endJob s j code).mem = true := by
  unfold State.endJob
  repeat' (first
    | with_reducible assumption
    | with_reducible apply State.dropCmds_memWf
    | with_reducible apply State.endRows_memWf
    | with_reducible apply State.endSlots_memWf
    | with_reducible apply State.releaseEntries_memWf
    | with_reducible apply State.report_memWf
    | with_reducible apply State.reconsider_memWf
    | with_reducible apply State.unbindJob_memWf
    | with_reducible apply State.squashSpec_memWf
    | with_reducible apply State.idleCore_memWf
    | with_reducible refine foldl_memWf _ _ _ ?_ ?_
    | with_reducible refine foldl_memWf_fst _ _ _ ?_ ?_
    | with_reducible refine ite_memWf ?_ ?_
    | with_reducible apply Mem.setBytes_wf
    | with_reducible apply SMap.filter_wf
    | intro _
    | split
    | dsimp only)
theorem State.dropUnstarted_memWf (s : State) (job : BitVec 16) (hm : Memory.wf s.mem = true) : Memory.wf (State.dropUnstarted s job).mem = true := by
  unfold State.dropUnstarted
  repeat' (first
    | with_reducible assumption
    | with_reducible apply State.dropCmds_memWf
    | with_reducible refine foldl_memWf _ _ _ ?_ ?_
    | with_reducible refine foldl_memWf_fst _ _ _ ?_ ?_
    | with_reducible refine ite_memWf ?_ ?_
    | with_reducible apply Mem.setBytes_wf
    | with_reducible apply SMap.filter_wf
    | intro _
    | split
    | dsimp only)
theorem State.dropLanded_memWf (s : State) (job : BitVec 16) (hm : Memory.wf s.mem = true) : Memory.wf (State.dropLanded s job).mem = true := by
  unfold State.dropLanded
  repeat' (first
    | with_reducible assumption
    | with_reducible apply State.bump_memWf
    | with_reducible refine foldl_memWf _ _ _ ?_ ?_
    | with_reducible refine foldl_memWf_fst _ _ _ ?_ ?_
    | with_reducible refine ite_memWf ?_ ?_
    | with_reducible apply Mem.setBytes_wf
    | with_reducible apply SMap.filter_wf
    | intro _
    | split
    | dsimp only)
theorem State.killJob_memWf (s : State) (id : BitVec 16) (hm : Memory.wf s.mem = true) : Memory.wf (State.killJob s id).mem = true := by
  unfold State.killJob
  repeat' (first
    | with_reducible assumption
    | with_reducible apply State.setJob_memWf
    | with_reducible apply State.idleCore_memWf
    | with_reducible apply State.endSessions_memWf
    | with_reducible apply State.endJob_memWf
    | with_reducible apply State.dropUnstarted_memWf
    | with_reducible apply State.dropLanded_memWf
    | with_reducible refine foldl_memWf _ _ _ ?_ ?_
    | with_reducible refine foldl_memWf_fst _ _ _ ?_ ?_
    | with_reducible refine ite_memWf ?_ ?_
    | with_reducible apply Mem.setBytes_wf
    | with_reducible apply SMap.filter_wf
    | intro _
    | split
    | dsimp only)
theorem State.placeCore_memWf (s : State) (n : CoreId) (c : Core) (hm : Memory.wf s.mem = true) : Memory.wf (State.placeCore s n c).mem = true := by
  unfold State.placeCore
  repeat' (first
    | with_reducible assumption
    | with_reducible apply State.setCore_memWf
    | with_reducible apply State.setPeony_memWf
    | with_reducible refine foldl_memWf _ _ _ ?_ ?_
    | with_reducible refine foldl_memWf_fst _ _ _ ?_ ?_
    | with_reducible refine ite_memWf ?_ ?_
    | with_reducible apply Mem.setBytes_wf
    | with_reducible apply SMap.filter_wf
    | intro _
    | split
    | dsimp only)
theorem State.clearUnplaced_memWf (s : State) (g : Nat) (placed : List CoreId) (hm : Memory.wf s.mem = true) : Memory.wf (State.clearUnplaced s g placed).mem = true := by
  unfold State.clearUnplaced
  repeat' (first
    | with_reducible assumption
    | with_reducible apply State.setCore_memWf
    | with_reducible refine foldl_memWf _ _ _ ?_ ?_
    | with_reducible refine foldl_memWf_fst _ _ _ ?_ ?_
    | with_reducible refine ite_memWf ?_ ?_
    | with_reducible apply Mem.setBytes_wf
    | with_reducible apply SMap.filter_wf
    | intro _
    | split
    | dsimp only)
theorem State.kickDog_memWf (s : State) (g : Nat) (hm : Memory.wf s.mem = true) : Memory.wf (State.kickDog s g).mem = true := by
  unfold State.kickDog
  repeat' (first
    | with_reducible assumption
    | with_reducible refine foldl_memWf _ _ _ ?_ ?_
    | with_reducible refine foldl_memWf_fst _ _ _ ?_ ?_
    | with_reducible refine ite_memWf ?_ ?_
    | with_reducible apply Mem.setBytes_wf
    | with_reducible apply SMap.filter_wf
    | intro _
    | split
    | dsimp only)
theorem State.startJob_memWf (s : State) (j : Job) (hm : Memory.wf s.mem = true) : Memory.wf (State.startJob s j).mem = true := by
  unfold State.startJob
  repeat' (first
    | with_reducible assumption
    | with_reducible apply State.setReg_memWf
    | with_reducible apply State.setJob_memWf
    | with_reducible apply State.report_memWf
    | with_reducible apply State.reconsider_memWf
    | with_reducible apply State.endJob_memWf
    | with_reducible apply State.placeCore_memWf
    | with_reducible apply State.clearUnplaced_memWf
    | with_reducible apply State.kickDog_memWf
    | with_reducible refine foldl_memWf _ _ _ ?_ ?_
    | with_reducible refine foldl_memWf_fst _ _ _ ?_ ?_
    | with_reducible refine ite_memWf ?_ ?_
    | with_reducible apply Mem.setBytes_wf
    | with_reducible apply SMap.filter_wf
    | intro _
    | split
    | dsimp only)
theorem State.beginRestore_memWf (s : State) (j : Job) (hm : Memory.wf s.mem = true) : Memory.wf (State.beginRestore s j).mem = true := by
  unfold State.beginRestore
  repeat' (first
    | with_reducible assumption
    | with_reducible apply State.setJob_memWf
    | with_reducible apply State.report_memWf
    | with_reducible apply State.endJob_memWf
    | with_reducible apply State.dropLanded_memWf
    | with_reducible refine foldl_memWf _ _ _ ?_ ?_
    | with_reducible refine foldl_memWf_fst _ _ _ ?_ ?_
    | with_reducible refine ite_memWf ?_ ?_
    | with_reducible apply Mem.setBytes_wf
    | with_reducible apply SMap.filter_wf
    | intro _
    | split
    | dsimp only)
theorem State.beginPreempt_memWf (s : State) (j : Job) (hm : Memory.wf s.mem = true) : Memory.wf (State.beginPreempt s j).mem = true := by
  unfold State.beginPreempt
  repeat' (first
    | with_reducible assumption
    | with_reducible apply State.setJob_memWf
    | with_reducible apply State.traceTagged_memWf
    | with_reducible apply State.abandon_memWf
    | with_reducible apply State.report_memWf
    | with_reducible apply State.squashSpec_memWf
    | with_reducible apply State.squashAhead_memWf
    | with_reducible apply State.endSessions_memWf
    | with_reducible refine foldl_memWf _ _ _ ?_ ?_
    | with_reducible refine foldl_memWf_fst _ _ _ ?_ ?_
    | with_reducible refine ite_memWf ?_ ?_
    | with_reducible apply Mem.setBytes_wf
    | with_reducible apply SMap.filter_wf
    | intro _
    | split
    | dsimp only)
theorem State.requeue_memWf (s : State) (c : Cmd) (hm : Memory.wf s.mem = true) : Memory.wf (State.requeue s c).mem = true := by
  unfold State.requeue
  repeat' (first
    | with_reducible assumption
    | with_reducible apply State.flowFills_memWf
    | with_reducible refine foldl_memWf _ _ _ ?_ ?_
    | with_reducible refine foldl_memWf_fst _ _ _ ?_ ?_
    | with_reducible refine ite_memWf ?_ ?_
    | with_reducible apply Mem.setBytes_wf
    | with_reducible apply SMap.filter_wf
    | intro _
    | split
    | dsimp only)
theorem State.restoreLive_memWf (s : State) (j : Job) (x : Saved) (hm : Memory.wf s.mem = true) : Memory.wf (State.restoreLive s j x).mem = true := by
  unfold State.restoreLive
  refine foldl_memWf _ _ _ ?_ (fun t e ht => State.setPoison_memWf _ _ _ ht)
  refine Mem.foldl_wf _ _ (foldl_memWf _ _ _ (SMap.filter_wf _ _ _ hm) ?_)
  intro t e ht
  exact State.setPoison_memWf _ _ _ (State.claim_memWf _ _ _ ht)
theorem State.poolAnswer_memWf (s : State) (n : CoreId) (code : Byte) (poison : Bool) (data : List Byte) (hm : Memory.wf s.mem = true) : Memory.wf (State.poolAnswer s n code poison data).mem = true := by
  unfold State.poolAnswer
  repeat' (first
    | with_reducible assumption
    | with_reducible apply State.setCore_memWf
    | with_reducible apply State.coreFault_memWf
    | with_reducible apply State.writeG_memWf
    | with_reducible refine foldl_memWf _ _ _ ?_ ?_
    | with_reducible refine foldl_memWf_fst _ _ _ ?_ ?_
    | with_reducible refine ite_memWf ?_ ?_
    | with_reducible apply Mem.setBytes_wf
    | with_reducible apply SMap.filter_wf
    | intro _
    | split
    | dsimp only)
theorem State.lineArrives_memWf (s : State) (r : Req) (code : Byte) (poison : Bool) (data : List Byte) (hm : Memory.wf s.mem = true) : Memory.wf (State.lineArrives s r code poison data).mem = true := by
  unfold State.lineArrives
  repeat' (first
    | with_reducible assumption
    | with_reducible apply State.trimStream_memWf
    | with_reducible apply State.fillLine_memWf
    | with_reducible apply State.trimNodes_memWf
    | with_reducible refine foldl_memWf _ _ _ ?_ ?_
    | with_reducible refine foldl_memWf_fst _ _ _ ?_ ?_
    | with_reducible refine ite_memWf ?_ ?_
    | with_reducible apply Mem.setBytes_wf
    | with_reducible apply SMap.filter_wf
    | intro _
    | split
    | dsimp only)
theorem State.hostReadArrives_memWf (s : State) (id : Nat) (p : PoolPart) (hm : Memory.wf s.mem = true) : Memory.wf (State.hostReadArrives s id p).mem = true := by
  unfold State.hostReadArrives
  repeat' (first
    | with_reducible assumption
    | with_reducible apply State.bump_memWf
    | with_reducible apply State.send_memWf
    | with_reducible refine foldl_memWf _ _ _ ?_ ?_
    | with_reducible refine foldl_memWf_fst _ _ _ ?_ ?_
    | with_reducible refine ite_memWf ?_ ?_
    | with_reducible apply Mem.setBytes_wf
    | with_reducible apply SMap.filter_wf
    | intro _
    | split
    | dsimp only)
theorem State.respond_memWf (s : State) (tag : BitVec 16) (r : Req) (code : Byte) (poison : Bool) (data : List Byte) (hm : Memory.wf s.mem = true) : Memory.wf (State.respond s tag r code poison data).mem = true := by
  unfold State.respond
  repeat' (first
    | with_reducible assumption
    | with_reducible apply State.bump_memWf
    | with_reducible apply State.dropHome_memWf
    | with_reducible apply State.failedWrite_memWf
    | with_reducible apply State.landPart_memWf
    | with_reducible apply State.flushHeld_memWf
    | with_reducible refine State.rowAmo_memWf_eq ‹_› ?_
    | with_reducible apply State.submitError_memWf
    | with_reducible apply State.poolAnswer_memWf
    | with_reducible apply State.lineArrives_memWf
    | with_reducible apply State.hostReadArrives_memWf
    | with_reducible refine foldl_memWf _ _ _ ?_ ?_
    | with_reducible refine foldl_memWf_fst _ _ _ ?_ ?_
    | with_reducible refine ite_memWf ?_ ?_
    | with_reducible apply Mem.setBytes_wf
    | with_reducible apply SMap.filter_wf
    | intro _
    | split
    | dsimp only)
theorem State.deliver_memWf (s : State) (l : Landed) (hm : Memory.wf s.mem = true) : Memory.wf (State.deliver s l).mem = true := by
  unfold State.deliver
  repeat' (first
    | with_reducible assumption
    | with_reducible apply State.respond_memWf
    | with_reducible refine foldl_memWf _ _ _ ?_ ?_
    | with_reducible refine foldl_memWf_fst _ _ _ ?_ ?_
    | with_reducible refine ite_memWf ?_ ?_
    | with_reducible apply Mem.setBytes_wf
    | with_reducible apply SMap.filter_wf
    | intro _
    | split
    | dsimp only)
theorem State.sramPass_memWf (s : State) (hm : Memory.wf s.mem = true) : Memory.wf (State.sramPass s).mem = true := by
  unfold State.sramPass
  exact ite_memWf (rows_memWf s _ _ _ hm) hm
theorem State.hbmPass_memWf (s : State) (hm : Memory.wf s.mem = true) : Memory.wf (State.hbmPass s).mem = true := by
  unfold State.hbmPass
  exact ite_memWf (rows_memWf s _ _ _ hm) hm
theorem State.scrubPasses_memWf (s : State) (hm : Memory.wf s.mem = true) : Memory.wf (State.scrubPasses s).mem = true := by
  unfold State.scrubPasses
  repeat' (first
    | with_reducible assumption
    | with_reducible apply State.sramPass_memWf
    | with_reducible apply State.hbmPass_memWf
    | with_reducible refine foldl_memWf _ _ _ ?_ ?_
    | with_reducible refine foldl_memWf_fst _ _ _ ?_ ?_
    | with_reducible refine ite_memWf ?_ ?_
    | with_reducible apply Mem.setBytes_wf
    | with_reducible apply SMap.filter_wf
    | intro _
    | split
    | dsimp only)
theorem State.peerLost_memWf (s : State) (p : Nat) (hm : Memory.wf s.mem = true) : Memory.wf (State.peerLost s p).mem = true := by
  unfold State.peerLost
  repeat' (first
    | with_reducible assumption
    | with_reducible apply State.setPort_memWf
    | with_reducible apply State.logEvent_memWf
    | with_reducible apply State.unitPut_memWf
    | with_reducible refine foldl_memWf _ _ _ ?_ ?_
    | with_reducible refine foldl_memWf_fst _ _ _ ?_ ?_
    | with_reducible refine ite_memWf ?_ ?_
    | with_reducible apply Mem.setBytes_wf
    | with_reducible apply SMap.filter_wf
    | intro _
    | split
    | dsimp only)
theorem State.endRecording_memWf (s : State) (p : Nat) (incomplete : Bool) (hm : Memory.wf s.mem = true) : Memory.wf (State.endRecording s p incomplete).mem = true := by
  unfold State.endRecording
  repeat' (first
    | with_reducible assumption
    | with_reducible apply State.setRegFld_memWf
    | with_reducible refine foldl_memWf _ _ _ ?_ ?_
    | with_reducible refine foldl_memWf_fst _ _ _ ?_ ?_
    | with_reducible refine ite_memWf ?_ ?_
    | with_reducible apply Mem.setBytes_wf
    | with_reducible apply SMap.filter_wf
    | intro _
    | split
    | dsimp only)
theorem State.dropPort_memWf (s : State) (p : Nat) (st : PortState) (hm : Memory.wf s.mem = true) : Memory.wf (State.dropPort s p st).mem = true := by
  unfold State.dropPort
  repeat' (first
    | with_reducible assumption
    | with_reducible apply State.setPort_memWf
    | with_reducible apply State.endRecording_memWf
    | with_reducible refine foldl_memWf _ _ _ ?_ ?_
    | with_reducible refine foldl_memWf_fst _ _ _ ?_ ?_
    | with_reducible refine ite_memWf ?_ ?_
    | with_reducible apply Mem.setBytes_wf
    | with_reducible apply SMap.filter_wf
    | intro _
    | split
    | dsimp only)
theorem State.disablePorts_memWf (s : State) (hm : Memory.wf s.mem = true) : Memory.wf (State.disablePorts s).mem = true := by
  unfold State.disablePorts
  repeat' (first
    | with_reducible assumption
    | with_reducible apply State.dropPort_memWf
    | with_reducible refine foldl_memWf _ _ _ ?_ ?_
    | with_reducible refine foldl_memWf_fst _ _ _ ?_ ?_
    | with_reducible refine ite_memWf ?_ ?_
    | with_reducible apply Mem.setBytes_wf
    | with_reducible apply SMap.filter_wf
    | intro _
    | split
    | dsimp only)
theorem State.fatalFault_memWf (s : State) (arg : Word) (hm : Memory.wf s.mem = true) : Memory.wf (State.fatalFault s arg).mem = true := by
  unfold State.fatalFault
  repeat' (first
    | with_reducible assumption
    | with_reducible apply State.logEvent_memWf
    | with_reducible apply State.disablePorts_memWf
    | with_reducible refine foldl_memWf _ _ _ ?_ ?_
    | with_reducible refine foldl_memWf_fst _ _ _ ?_ ?_
    | with_reducible refine ite_memWf ?_ ?_
    | with_reducible apply Mem.setBytes_wf
    | with_reducible apply SMap.filter_wf
    | intro _
    | split
    | dsimp only)
theorem State.zeroCoreSram_memWf (s : State) (n : Nat) (hm : Memory.wf s.mem = true) : Memory.wf (State.zeroCoreSram s n).mem = true := by
  unfold State.zeroCoreSram
  repeat' (first
    | with_reducible assumption
    | with_reducible refine foldl_memWf _ _ _ ?_ ?_
    | with_reducible refine foldl_memWf_fst _ _ _ ?_ ?_
    | with_reducible refine ite_memWf ?_ ?_
    | with_reducible apply Mem.setBytes_wf
    | with_reducible apply SMap.filter_wf
    | intro _
    | split
    | dsimp only)
theorem State.failPeony_memWf (s : State) (phys : Nat) (hm : Memory.wf s.mem = true) : Memory.wf (State.failPeony s phys).mem = true := by
  unfold State.failPeony
  repeat' (first
    | with_reducible assumption
    | with_reducible apply State.setReg_memWf
    | with_reducible apply State.setRegFld_memWf
    | with_reducible apply State.setPeony_memWf
    | with_reducible apply State.logEvent_memWf
    | with_reducible apply State.zeroCoreSram_memWf
    | with_reducible refine foldl_memWf _ _ _ ?_ ?_
    | with_reducible refine foldl_memWf_fst _ _ _ ?_ ?_
    | with_reducible refine ite_memWf ?_ ?_
    | with_reducible apply Mem.setBytes_wf
    | with_reducible apply SMap.filter_wf
    | intro _
    | split
    | dsimp only)
theorem State.failLupin_memWf (s : State) (e : Nat) (hm : Memory.wf s.mem = true) : Memory.wf (State.failLupin s e).mem = true := by
  unfold State.failLupin
  repeat' (first
    | with_reducible assumption
    | with_reducible apply State.setRegFld_memWf
    | with_reducible refine foldl_memWf _ _ _ ?_ ?_
    | with_reducible refine foldl_memWf_fst _ _ _ ?_ ?_
    | with_reducible refine ite_memWf ?_ ?_
    | with_reducible apply Mem.setBytes_wf
    | with_reducible apply SMap.filter_wf
    | intro _
    | split
    | dsimp only)
theorem State.outOfService_memWf (s : State) (unit : BitVec 16) (hm : Memory.wf s.mem = true) : Memory.wf (State.outOfService s unit).mem = true := by
  unfold State.outOfService
  repeat' (first
    | with_reducible assumption
    | with_reducible apply State.setRegFld_memWf
    | with_reducible apply State.failPeony_memWf
    | with_reducible apply State.failLupin_memWf
    | with_reducible refine foldl_memWf _ _ _ ?_ ?_
    | with_reducible refine foldl_memWf_fst _ _ _ ?_ ?_
    | with_reducible refine ite_memWf ?_ ?_
    | with_reducible apply Mem.setBytes_wf
    | with_reducible apply SMap.filter_wf
    | intro _
    | split
    | dsimp only)
theorem State.failCmd_memWf (s : State) (c : Cmd) (hm : Memory.wf s.mem = true) : Memory.wf (State.failCmd s c).mem = true := by
  unfold State.failCmd
  repeat' (first
    | with_reducible assumption
    | with_reducible apply State.workDone_memWf
    | with_reducible apply State.endSession_memWf
    | with_reducible apply State.loadFailed_memWf
    | with_reducible refine foldl_memWf _ _ _ ?_ ?_
    | with_reducible refine foldl_memWf_fst _ _ _ ?_ ?_
    | with_reducible refine ite_memWf ?_ ?_
    | with_reducible apply Mem.setBytes_wf
    | with_reducible apply SMap.filter_wf
    | intro _
    | split
    | dsimp only)
theorem State.loseJob_memWf (s : State) (j : Job) (r : Recovery) (code : Byte) (hm : Memory.wf s.mem = true) : Memory.wf (State.loseJob s j r code).mem = true := by
  unfold State.loseJob
  repeat' (first
    | with_reducible assumption
    | with_reducible apply State.logEvent_memWf
    | with_reducible apply State.idleCore_memWf
    | with_reducible apply State.endJob_memWf
    | with_reducible refine foldl_memWf _ _ _ ?_ ?_
    | with_reducible refine foldl_memWf_fst _ _ _ ?_ ?_
    | with_reducible refine ite_memWf ?_ ?_
    | with_reducible apply Mem.setBytes_wf
    | with_reducible apply SMap.filter_wf
    | intro _
    | split
    | dsimp only)
theorem State.restartJob_memWf (s : State) (j : Job) (r : Recovery) (placed : List CoreId) (image : List Byte) (hm : Memory.wf s.mem = true) : Memory.wf (State.restartJob s j r placed image).mem = true := by
  unfold State.restartJob
  repeat' (first
    | with_reducible assumption
    | with_reducible apply State.bump_memWf
    | with_reducible apply State.setJob_memWf
    | with_reducible apply State.logEvent_memWf
    | with_reducible apply State.report_memWf
    | with_reducible apply State.flushHeld_memWf
    | with_reducible apply State.squashSpec_memWf
    | with_reducible apply State.idleCore_memWf
    | with_reducible apply State.placeCore_memWf
    | with_reducible apply State.clearUnplaced_memWf
    | with_reducible apply State.kickDog_memWf
    | with_reducible refine foldl_memWf _ _ _ ?_ ?_
    | with_reducible refine foldl_memWf_fst _ _ _ ?_ ?_
    | with_reducible refine ite_memWf ?_ ?_
    | with_reducible apply Mem.setBytes_wf
    | with_reducible apply SMap.filter_wf
    | intro _
    | split
    | dsimp only)
theorem State.startPress_memWf (s : State) (cause : Nat) (group : Nat) (job : BitVec 16) (hung : BitVec 16) (follow : Nat) (hm : Memory.wf s.mem = true) : Memory.wf (State.startPress s cause group job hung follow).mem = true := by
  unfold State.startPress
  repeat' (first
    | with_reducible assumption
    | with_reducible apply State.setRegFld_memWf
    | with_reducible refine foldl_memWf _ _ _ ?_ ?_
    | with_reducible refine foldl_memWf_fst _ _ _ ?_ ?_
    | with_reducible refine ite_memWf ?_ ?_
    | with_reducible apply Mem.setBytes_wf
    | with_reducible apply SMap.filter_wf
    | intro _
    | split
    | dsimp only)
theorem State.squashSessions_memWf (s : State) (hm : Memory.wf s.mem = true) : Memory.wf (State.squashSessions s).mem = true := by
  unfold State.squashSessions
  repeat' (first
    | with_reducible assumption
    | with_reducible apply State.squashCands_memWf
    | with_reducible refine foldl_memWf _ _ _ ?_ ?_
    | with_reducible refine foldl_memWf_fst _ _ _ ?_ ?_
    | with_reducible refine ite_memWf ?_ ?_
    | with_reducible apply Mem.setBytes_wf
    | with_reducible apply SMap.filter_wf
    | intro _
    | split
    | dsimp only)
theorem State.beginStop_memWf (s : State) (id : BitVec 32) (hm : Memory.wf s.mem = true) : Memory.wf (State.beginStop s id).mem = true := by
  unfold State.beginStop
  repeat' (first
    | with_reducible assumption
    | with_reducible apply State.setReg_memWf
    | with_reducible apply State.sendLink_memWf
    | with_reducible apply State.evict_memWf
    | with_reducible apply State.squashPassages_memWf
    | with_reducible apply State.squashAhead_memWf
    | with_reducible apply State.squashSessions_memWf
    | with_reducible refine foldl_memWf _ _ _ ?_ ?_
    | with_reducible refine foldl_memWf_fst _ _ _ ?_ ?_
    | with_reducible refine ite_memWf ?_ ?_
    | with_reducible apply Mem.setBytes_wf
    | with_reducible apply SMap.filter_wf
    | intro _
    | split
    | dsimp only)
theorem State.takeCutMark_memWf (s : State) (p : Nat) (id : BitVec 32) (hm : Memory.wf s.mem = true) : Memory.wf (State.takeCutMark s p id).mem = true := by
  unfold State.takeCutMark
  repeat' (first
    | with_reducible assumption
    | with_reducible apply State.setRegFld_memWf
    | with_reducible apply State.endRecording_memWf
    | with_reducible apply State.beginStop_memWf
    | with_reducible refine foldl_memWf _ _ _ ?_ ?_
    | with_reducible refine foldl_memWf_fst _ _ _ ?_ ?_
    | with_reducible refine ite_memWf ?_ ?_
    | with_reducible apply Mem.setBytes_wf
    | with_reducible apply SMap.filter_wf
    | intro _
    | split
    | dsimp only)
theorem State.sendFlit_memWf (s : State) (p : Nat) (seq : BitVec 32) (kind : Nat) (payload : List Byte) (hm : Memory.wf s.mem = true) : Memory.wf (State.sendFlit s p seq kind payload).mem = true := by
  unfold State.sendFlit
  repeat' (first
    | with_reducible assumption
    | with_reducible apply State.send_memWf
    | with_reducible refine foldl_memWf _ _ _ ?_ ?_
    | with_reducible refine foldl_memWf_fst _ _ _ ?_ ?_
    | with_reducible refine ite_memWf ?_ ?_
    | with_reducible apply Mem.setBytes_wf
    | with_reducible apply SMap.filter_wf
    | intro _
    | split
    | dsimp only)
theorem State.acked_memWf (s : State) (p : Nat) (ack : BitVec 24) (hm : Memory.wf s.mem = true) : Memory.wf (State.acked s p ack).mem = true := by
  unfold State.acked
  repeat' (first
    | with_reducible assumption
    | with_reducible apply State.setPort_memWf
    | with_reducible apply State.replay_memWf
    | with_reducible refine State.replay_memWf_eq ‹_› ?_
    | with_reducible refine foldl_memWf _ _ _ ?_ ?_
    | with_reducible refine foldl_memWf_fst _ _ _ ?_ ?_
    | with_reducible refine ite_memWf ?_ ?_
    | with_reducible apply Mem.setBytes_wf
    | with_reducible apply SMap.filter_wf
    | intro _
    | split
    | dsimp only)
theorem State.resend_memWf (s : State) (p : Nat) (hm : Memory.wf s.mem = true) : Memory.wf (State.resend s p).mem = true := by
  unfold State.resend
  repeat' (first
    | with_reducible assumption
    | with_reducible apply State.bump_memWf
    | with_reducible apply State.setPort_memWf
    | with_reducible apply State.sendFlit_memWf
    | with_reducible apply State.replay_memWf
    | with_reducible refine State.replay_memWf_eq ‹_› ?_
    | with_reducible refine foldl_memWf _ _ _ ?_ ?_
    | with_reducible refine foldl_memWf_fst _ _ _ ?_ ?_
    | with_reducible refine ite_memWf ?_ ?_
    | with_reducible apply Mem.setBytes_wf
    | with_reducible apply SMap.filter_wf
    | intro _
    | split
    | dsimp only)
theorem State.sendBytes_memWf (s : State) (p : Nat) (z0 : Nat) (z1 : List Byte) (hm : Memory.wf s.mem = true) : Memory.wf (State.sendBytes s p z0 z1).mem = true := by
  induction z0 generalizing s z1 with
  | zero => exact hm
  | succ n ih =>
    unfold State.sendBytes
    dsimp only
    refine ite_memWf hm (ih _ _ (State.bump_memWf _ _ _ (State.setPort_memWf _ _ _ (State.sendFlit_memWf _ _ _ _ _ hm))))
theorem State.dropMsg_memWf (s : State) (p : Nat) (src : BitVec 16) (hm : Memory.wf s.mem = true) : Memory.wf (State.dropMsg s p src).mem = true := by
  unfold State.dropMsg
  repeat' (first
    | with_reducible assumption
    | with_reducible apply State.bump_memWf
    | with_reducible apply State.logEvent_memWf
    | with_reducible refine foldl_memWf _ _ _ ?_ ?_
    | with_reducible refine foldl_memWf_fst _ _ _ ?_ ?_
    | with_reducible refine ite_memWf ?_ ?_
    | with_reducible apply Mem.setBytes_wf
    | with_reducible apply SMap.filter_wf
    | intro _
    | split
    | dsimp only)
theorem State.returnCredit_memWf (s : State) (p : Nat) (m : Msg) (hm : Memory.wf s.mem = true) : Memory.wf (State.returnCredit s p m).mem = true := by
  unfold State.returnCredit
  repeat' (first
    | with_reducible assumption
    | with_reducible apply State.sendLink_memWf
    | with_reducible refine foldl_memWf _ _ _ ?_ ?_
    | with_reducible refine foldl_memWf_fst _ _ _ ?_ ?_
    | with_reducible refine ite_memWf ?_ ?_
    | with_reducible apply Mem.setBytes_wf
    | with_reducible apply SMap.filter_wf
    | intro _
    | split
    | dsimp only)
theorem State.parseStream_memWf (s : State) (p : Nat) (z0 : Nat) (z1 : List Byte) (hm : Memory.wf s.mem = true) : Memory.wf (State.parseStream s p z0 z1).mem = true := by
  induction z0 generalizing s z1 with
  | zero => exact State.setPort_memWf _ _ _ hm
  | succ n ih =>
    unfold State.parseStream
    repeat' (first
      | with_reducible assumption
      | with_reducible apply ih
      | with_reducible apply State.setPort_memWf
      | with_reducible apply State.dropMsg_memWf
      | with_reducible apply State.returnCredit_memWf
      | with_reducible refine ite_memWf ?_ ?_
      | split
      | dsimp only)
theorem State.beginTraining_memWf (s : State) (p : Nat) (retrain : Bool) (hm : Memory.wf s.mem = true) : Memory.wf (State.beginTraining s p retrain).mem = true := by
  unfold State.beginTraining
  repeat' (first
    | with_reducible assumption
    | with_reducible apply State.setPort_memWf
    | with_reducible apply State.dropPort_memWf
    | with_reducible refine foldl_memWf _ _ _ ?_ ?_
    | with_reducible refine foldl_memWf_fst _ _ _ ?_ ?_
    | with_reducible refine ite_memWf ?_ ?_
    | with_reducible apply Mem.setBytes_wf
    | with_reducible apply SMap.filter_wf
    | intro _
    | split
    | dsimp only)
theorem State.trained_memWf (s : State) (p : Nat) (lanes : BitVec 2) (half : Bool) (hm : Memory.wf s.mem = true) : Memory.wf (State.trained s p lanes half).mem = true := by
  unfold State.trained
  repeat' (first
    | with_reducible assumption
    | with_reducible apply State.setPort_memWf
    | with_reducible apply State.dropPort_memWf
    | with_reducible refine foldl_memWf _ _ _ ?_ ?_
    | with_reducible refine foldl_memWf_fst _ _ _ ?_ ?_
    | with_reducible refine ite_memWf ?_ ?_
    | with_reducible apply Mem.setBytes_wf
    | with_reducible apply SMap.filter_wf
    | intro _
    | split
    | dsimp only)
theorem State.failPort_memWf (s : State) (p : Nat) (hm : Memory.wf s.mem = true) : Memory.wf (State.failPort s p).mem = true := by
  unfold State.failPort
  repeat' (first
    | with_reducible assumption
    | with_reducible apply State.logEvent_memWf
    | with_reducible apply State.peerLost_memWf
    | with_reducible apply State.beginTraining_memWf
    | with_reducible refine foldl_memWf _ _ _ ?_ ?_
    | with_reducible refine foldl_memWf_fst _ _ _ ?_ ?_
    | with_reducible refine ite_memWf ?_ ?_
    | with_reducible apply Mem.setBytes_wf
    | with_reducible apply SMap.filter_wf
    | intro _
    | split
    | dsimp only)
theorem State.takeMsg_memWf (s : State) (p : Nat) (hm : Memory.wf s.mem = true) : Memory.wf (State.takeMsg s p).mem = true := by
  unfold State.takeMsg
  repeat' (first
    | with_reducible assumption
    | with_reducible apply State.setPort_memWf
    | with_reducible apply State.returnCredit_memWf
    | with_reducible refine foldl_memWf _ _ _ ?_ ?_
    | with_reducible refine foldl_memWf_fst _ _ _ ?_ ?_
    | with_reducible refine ite_memWf ?_ ?_
    | with_reducible apply Mem.setBytes_wf
    | with_reducible apply SMap.filter_wf
    | intro _
    | split
    | dsimp only)
theorem State.alignTo_memWf (s : State) (k : Nat) (off : Int) (hm : Memory.wf s.mem = true) : Memory.wf (State.alignTo s k off).mem = true := by
  unfold State.alignTo
  repeat' (first
    | with_reducible assumption
    | with_reducible apply State.setReg_memWf
    | with_reducible refine foldl_memWf _ _ _ ?_ ?_
    | with_reducible refine foldl_memWf_fst _ _ _ ?_ ?_
    | with_reducible refine ite_memWf ?_ ?_
    | with_reducible apply Mem.setBytes_wf
    | with_reducible apply SMap.filter_wf
    | intro _
    | split
    | dsimp only)
theorem State.answer_memWf (s : State) (m : Msg) (typ : Byte) (poison : Bool) (payload : List Byte) (hm : Memory.wf s.mem = true) : Memory.wf (State.answer s m typ poison payload).mem = true := by
  unfold State.answer
  repeat' (first
    | with_reducible assumption
    | with_reducible refine State.sendRouted_memWf_eq ‹_› ?_
    | with_reducible refine foldl_memWf _ _ _ ?_ ?_
    | with_reducible refine foldl_memWf_fst _ _ _ ?_ ?_
    | with_reducible refine ite_memWf ?_ ?_
    | with_reducible apply Mem.setBytes_wf
    | with_reducible apply SMap.filter_wf
    | intro _
    | split
    | dsimp only)
theorem State.answerErr_memWf (s : State) (m : Msg) (code : Byte) (hm : Memory.wf s.mem = true) : Memory.wf (State.answerErr s m code).mem = true := by
  unfold State.answerErr
  repeat' (first
    | with_reducible assumption
    | with_reducible apply State.answer_memWf
    | with_reducible refine foldl_memWf _ _ _ ?_ ?_
    | with_reducible refine foldl_memWf_fst _ _ _ ?_ ?_
    | with_reducible refine ite_memWf ?_ ?_
    | with_reducible apply Mem.setBytes_wf
    | with_reducible apply SMap.filter_wf
    | intro _
    | split
    | dsimp only)
theorem State.answered_memWf (s : State) (tag : BitVec 16) (code : Byte) (poison : Bool) (data : List Byte) (hm : Memory.wf s.mem = true) : Memory.wf (State.answered s tag code poison data).mem = true := by
  unfold State.answered
  repeat' (first
    | with_reducible assumption
    | with_reducible apply State.setJob_memWf
    | with_reducible apply State.respond_memWf
    | with_reducible refine foldl_memWf _ _ _ ?_ ?_
    | with_reducible refine foldl_memWf_fst _ _ _ ?_ ?_
    | with_reducible refine ite_memWf ?_ ?_
    | with_reducible apply Mem.setBytes_wf
    | with_reducible apply SMap.filter_wf
    | intro _
    | split
    | dsimp only)
theorem State.takeResponse_memWf (s : State) (p : Nat) (t : Byte) (hm : Memory.wf s.mem = true) : Memory.wf (State.takeResponse s p t).mem = true := by
  unfold State.takeResponse
  repeat' (first
    | with_reducible assumption
    | with_reducible apply State.takeMsg_memWf
    | with_reducible apply State.answered_memWf
    | with_reducible refine foldl_memWf _ _ _ ?_ ?_
    | with_reducible refine foldl_memWf_fst _ _ _ ?_ ?_
    | with_reducible refine ite_memWf ?_ ?_
    | with_reducible apply Mem.setBytes_wf
    | with_reducible apply SMap.filter_wf
    | intro _
    | split
    | dsimp only)
theorem State.beginSegInval_memWf (s : State) (v : BitVec 32) (hm : Memory.wf s.mem = true) : Memory.wf (State.beginSegInval s v).mem = true := by
  unfold State.beginSegInval
  repeat' (first
    | with_reducible assumption
    | with_reducible refine foldl_memWf _ _ _ ?_ ?_
    | with_reducible refine foldl_memWf_fst _ _ _ ?_ ?_
    | with_reducible refine ite_memWf ?_ ?_
    | with_reducible apply Mem.setBytes_wf
    | with_reducible apply SMap.filter_wf
    | intro _
    | split
    | dsimp only)
theorem State.resolveHead_memWf (s : State) (q : Nat) (hm : Memory.wf s.mem = true) : Memory.wf (State.resolveHead s q).mem = true := by
  unfold State.resolveHead
  repeat' (first
    | with_reducible assumption
    | with_reducible apply State.setQueue_memWf
    | with_reducible apply State.popWord_memWf
    | with_reducible apply State.unitPut_memWf
    | with_reducible refine foldl_memWf _ _ _ ?_ ?_
    | with_reducible refine foldl_memWf_fst _ _ _ ?_ ?_
    | with_reducible refine ite_memWf ?_ ?_
    | with_reducible apply Mem.setBytes_wf
    | with_reducible apply SMap.filter_wf
    | intro _
    | split
    | dsimp only)
theorem State.sendHead_memWf (s : State) (q : Nat) (hm : Memory.wf s.mem = true) : Memory.wf (State.sendHead s q).mem = true := by
  unfold State.sendHead
  repeat' (first
    | with_reducible assumption
    | with_reducible apply State.sendLink_memWf
    | with_reducible apply State.setQueue_memWf
    | with_reducible refine foldl_memWf _ _ _ ?_ ?_
    | with_reducible refine foldl_memWf_fst _ _ _ ?_ ?_
    | with_reducible refine ite_memWf ?_ ?_
    | with_reducible apply Mem.setBytes_wf
    | with_reducible apply SMap.filter_wf
    | intro _
    | split
    | dsimp only)
theorem State.restarted_memWf (s : State) (warm : Bool) (powerGood : Bool) (hm : Memory.wf s.mem = true) : Memory.wf (State.restarted s warm powerGood).mem = true := by
  unfold State.restarted
  have hmem : Memory.wf (if warm then s.mem.filter (fun e => decide (sharedBase ≤ e.1)) else []) = true := by
    cases warm
    · rfl
    · exact SMap.filter_wf _ _ _ hm
  extract_lets keep now start0 start t0 sec0 t1 t2 t3
  have h1 : Memory.wf t1.mem = true := hmem
  have h2 : Memory.wf t2.mem = true := by
    clear_value t1
    unfold t2
    cases s.savedLog with
    | none => exact h1
    | some e => exact State.setReg_memWf t1 Reg.mgdLogWr e.2 h1
  have h3 : Memory.wf t3.mem = true := State.setReg_memWf _ _ _ h2
  exact ite_memWf (State.setRegFld_memWf _ _ _ _ _ h3) h3
theorem State.beginStart_memWf (s : State) (warm : Bool) (powerGood : Bool) (fell : Bool) (retries : Nat) (hm : Memory.wf s.mem = true) : Memory.wf (State.beginStart s warm powerGood fell retries).mem = true := by
  unfold State.beginStart
  repeat' (first
    | with_reducible assumption
    | with_reducible apply State.setRegFld_memWf
    | with_reducible apply State.restarted_memWf
    | with_reducible refine foldl_memWf _ _ _ ?_ ?_
    | with_reducible refine foldl_memWf_fst _ _ _ ?_ ?_
    | with_reducible refine ite_memWf ?_ ?_
    | with_reducible apply Mem.setBytes_wf
    | with_reducible apply SMap.filter_wf
    | intro _
    | split
    | dsimp only)
theorem State.beginShutdown_memWf (s : State) (hm : Memory.wf s.mem = true) : Memory.wf (State.beginShutdown s).mem = true := by
  unfold State.beginShutdown
  repeat' (first
    | with_reducible assumption
    | with_reducible apply State.pf1Quiesce_memWf
    | with_reducible apply State.idleCore_memWf
    | with_reducible apply State.endJob_memWf
    | with_reducible refine foldl_memWf _ _ _ ?_ ?_
    | with_reducible refine foldl_memWf_fst _ _ _ ?_ ?_
    | with_reducible refine ite_memWf ?_ ?_
    | with_reducible apply Mem.setBytes_wf
    | with_reducible apply SMap.filter_wf
    | intro _
    | split
    | dsimp only)
theorem State.pf1Undelivered_memWf (s : State) (hm : Memory.wf s.mem = true) : Memory.wf (State.pf1Undelivered s).mem = true := by
  unfold State.pf1Undelivered
  repeat' (first
    | with_reducible assumption
    | with_reducible apply State.withPf1_memWf
    | with_reducible refine foldl_memWf _ _ _ ?_ ?_
    | with_reducible refine foldl_memWf_fst _ _ _ ?_ ?_
    | with_reducible refine ite_memWf ?_ ?_
    | with_reducible apply Mem.setBytes_wf
    | with_reducible apply SMap.filter_wf
    | intro _
    | split
    | dsimp only)
theorem State.endShutdown_memWf (s : State) (hm : Memory.wf s.mem = true) : Memory.wf (State.endShutdown s).mem = true := by
  unfold State.endShutdown
  repeat' (first
    | with_reducible assumption
    | with_reducible apply State.withPf1_memWf
    | with_reducible apply State.beginStart_memWf
    | with_reducible apply State.pf1Undelivered_memWf
    | with_reducible refine foldl_memWf _ _ _ ?_ ?_
    | with_reducible refine foldl_memWf_fst _ _ _ ?_ ?_
    | with_reducible refine ite_memWf ?_ ?_
    | with_reducible apply Mem.setBytes_wf
    | with_reducible apply SMap.filter_wf
    | intro _
    | split
    | dsimp only)
theorem State.warmStart_memWf (s : State) (hm : Memory.wf s.mem = true) : Memory.wf (State.warmStart s).mem = true := by
  unfold State.warmStart
  repeat' (first
    | with_reducible assumption
    | with_reducible apply State.beginShutdown_memWf
    | with_reducible apply State.endShutdown_memWf
    | with_reducible refine foldl_memWf _ _ _ ?_ ?_
    | with_reducible refine foldl_memWf_fst _ _ _ ?_ ?_
    | with_reducible refine ite_memWf ?_ ?_
    | with_reducible apply Mem.setBytes_wf
    | with_reducible apply SMap.filter_wf
    | intro _
    | split
    | dsimp only)
theorem State.coldStart_memWf (s : State) (hm : Memory.wf s.mem = true) : Memory.wf (State.coldStart s).mem = true := by
  unfold State.coldStart
  repeat' (first
    | with_reducible assumption
    | with_reducible apply State.beginStart_memWf
    | with_reducible refine foldl_memWf _ _ _ ?_ ?_
    | with_reducible refine foldl_memWf_fst _ _ _ ?_ ?_
    | with_reducible refine ite_memWf ?_ ?_
    | with_reducible apply Mem.setBytes_wf
    | with_reducible apply SMap.filter_wf
    | intro _
    | split
    | dsimp only)
theorem State.restart_memWf (s : State) (v : Nat) (hm : Memory.wf s.mem = true) : Memory.wf (State.restart s v).mem = true := by
  unfold State.restart
  repeat' (first
    | with_reducible assumption
    | with_reducible apply State.warmStart_memWf
    | with_reducible apply State.coldStart_memWf
    | with_reducible refine foldl_memWf _ _ _ ?_ ?_
    | with_reducible refine foldl_memWf_fst _ _ _ ?_ ?_
    | with_reducible refine ite_memWf ?_ ?_
    | with_reducible apply Mem.setBytes_wf
    | with_reducible apply SMap.filter_wf
    | intro _
    | split
    | dsimp only)
theorem State.recordFail_memWf (s : State) (code : Nat) (hm : Memory.wf s.mem = true) : Memory.wf (State.recordFail s code).mem = true := by
  unfold State.recordFail
  repeat' (first
    | with_reducible assumption
    | with_reducible apply State.stage_memWf
    | with_reducible apply State.setRegFld_memWf
    | with_reducible refine foldl_memWf _ _ _ ?_ ?_
    | with_reducible refine foldl_memWf_fst _ _ _ ?_ ?_
    | with_reducible refine ite_memWf ?_ ?_
    | with_reducible apply Mem.setBytes_wf
    | with_reducible apply SMap.filter_wf
    | intro _
    | split
    | dsimp only)
theorem State.failWarm_memWf (s : State) (code : Nat) (hm : Memory.wf s.mem = true) : Memory.wf (State.failWarm s code).mem = true := by
  unfold State.failWarm
  repeat' (first
    | with_reducible assumption
    | with_reducible apply State.logEvent_memWf
    | with_reducible apply State.beginStart_memWf
    | with_reducible apply State.recordFail_memWf
    | with_reducible refine foldl_memWf _ _ _ ?_ ?_
    | with_reducible refine foldl_memWf_fst _ _ _ ?_ ?_
    | with_reducible refine ite_memWf ?_ ?_
    | with_reducible apply Mem.setBytes_wf
    | with_reducible apply SMap.filter_wf
    | intro _
    | split
    | dsimp only)
theorem State.failSignature_memWf (s : State) (hm : Memory.wf s.mem = true) : Memory.wf (State.failSignature s).mem = true := by
  unfold State.failSignature
  repeat' (first
    | with_reducible assumption
    | with_reducible apply State.recordFail_memWf
    | with_reducible apply State.failWarm_memWf
    | with_reducible refine foldl_memWf _ _ _ ?_ ?_
    | with_reducible refine foldl_memWf_fst _ _ _ ?_ ?_
    | with_reducible refine ite_memWf ?_ ?_
    | with_reducible apply Mem.setBytes_wf
    | with_reducible apply SMap.filter_wf
    | intro _
    | split
    | dsimp only)
theorem State.verify_memWf (s : State) (c : Nat) (hm : Memory.wf s.mem = true) : Memory.wf (State.verify s c).1.mem = true := by
  unfold State.verify
  repeat' (first
    | with_reducible assumption
    | with_reducible apply State.setRegFld_memWf
    | with_reducible apply State.logEvent_memWf
    | with_reducible apply State.reject_memWf
    | with_reducible refine foldl_memWf _ _ _ ?_ ?_
    | with_reducible refine foldl_memWf_fst _ _ _ ?_ ?_
    | with_reducible refine ite_memWf ?_ ?_
    | with_reducible apply Mem.setBytes_wf
    | with_reducible apply SMap.filter_wf
    | intro _
    | split
    | dsimp only)
theorem State.verify_memWf_eq {s : State} {c : Nat} {t} (hr : State.verify s c = t) (hm : Memory.wf s.mem = true) : Memory.wf t.1.mem = true := hr ▸ State.verify_memWf s c hm
theorem State.verifyAll_memWf (s : State) (hm : Memory.wf s.mem = true) : Memory.wf (State.verifyAll s).1.mem = true := by
  unfold State.verifyAll
  repeat' (first
    | with_reducible assumption
    | with_reducible apply State.verify_memWf
    | with_reducible refine State.verify_memWf_eq ‹_› ?_
    | with_reducible refine foldl_memWf _ _ _ ?_ ?_
    | with_reducible refine foldl_memWf_fst _ _ _ ?_ ?_
    | with_reducible refine ite_memWf ?_ ?_
    | with_reducible apply Mem.setBytes_wf
    | with_reducible apply SMap.filter_wf
    | intro _
    | split
    | dsimp only)
theorem State.verifyAll_memWf_eq {s : State} {t} (hr : State.verifyAll s = t) (hm : Memory.wf s.mem = true) : Memory.wf t.1.mem = true := hr ▸ State.verifyAll_memWf s hm
theorem State.enterStage_memWf (s : State) (k : Nat) (hm : Memory.wf s.mem = true) : Memory.wf (State.enterStage s k).mem = true := by
  unfold State.enterStage
  repeat' (first
    | with_reducible assumption
    | with_reducible apply State.setReg_memWf
    | with_reducible refine foldl_memWf _ _ _ ?_ ?_
    | with_reducible refine foldl_memWf_fst _ _ _ ?_ ?_
    | with_reducible refine ite_memWf ?_ ?_
    | with_reducible apply Mem.setBytes_wf
    | with_reducible apply SMap.filter_wf
    | intro _
    | split
    | dsimp only)
theorem State.releasePorts_memWf (s : State) (hm : Memory.wf s.mem = true) : Memory.wf (State.releasePorts s).mem = true := by
  unfold State.releasePorts
  repeat' (first
    | with_reducible assumption
    | with_reducible apply State.beginTraining_memWf
    | with_reducible refine foldl_memWf _ _ _ ?_ ?_
    | with_reducible refine foldl_memWf_fst _ _ _ ?_ ?_
    | with_reducible refine ite_memWf ?_ ?_
    | with_reducible apply Mem.setBytes_wf
    | with_reducible apply SMap.filter_wf
    | intro _
    | split
    | dsimp only)
theorem State.toMgmt_memWf (s : State) (hm : Memory.wf s.mem = true) : Memory.wf (State.toMgmt s).mem = true := by
  unfold State.toMgmt
  repeat' (first
    | with_reducible assumption
    | with_reducible apply State.setRegFld_memWf
    | with_reducible apply State.failSignature_memWf
    | with_reducible apply State.verify_memWf
    | with_reducible refine State.verify_memWf_eq ‹_› ?_
    | with_reducible apply State.enterStage_memWf
    | with_reducible refine foldl_memWf _ _ _ ?_ ?_
    | with_reducible refine foldl_memWf_fst _ _ _ ?_ ?_
    | with_reducible refine ite_memWf ?_ ?_
    | with_reducible apply Mem.setBytes_wf
    | with_reducible apply SMap.filter_wf
    | intro _
    | split
    | dsimp only)
theorem State.spareAtStart_memWf (s : State) (d : Nat) (hm : Memory.wf s.mem = true) : Memory.wf (State.spareAtStart s d).mem = true := by
  unfold State.spareAtStart
  repeat' (first
    | with_reducible assumption
    | with_reducible apply State.setRegFld_memWf
    | with_reducible apply State.logEvent_memWf
    | with_reducible refine foldl_memWf _ _ _ ?_ ?_
    | with_reducible refine foldl_memWf_fst _ _ _ ?_ ?_
    | with_reducible refine ite_memWf ?_ ?_
    | with_reducible apply Mem.setBytes_wf
    | with_reducible apply SMap.filter_wf
    | intro _
    | split
    | dsimp only)
theorem State.toStage1_memWf (s : State) (w : StageWork) (hm : Memory.wf s.mem = true) : Memory.wf (State.toStage1 s w).mem = true := by
  unfold State.toStage1
  repeat' (first
    | with_reducible assumption
    | with_reducible apply State.setReg_memWf
    | with_reducible apply State.setRegFld_memWf
    | with_reducible apply State.failWarm_memWf
    | with_reducible apply State.failSignature_memWf
    | with_reducible apply State.verifyAll_memWf
    | with_reducible refine State.verifyAll_memWf_eq ‹_› ?_
    | with_reducible apply State.enterStage_memWf
    | with_reducible apply State.spareAtStart_memWf
    | with_reducible refine foldl_memWf _ _ _ ?_ ?_
    | with_reducible refine foldl_memWf_fst _ _ _ ?_ ?_
    | with_reducible refine ite_memWf ?_ ?_
    | with_reducible apply Mem.setBytes_wf
    | with_reducible apply SMap.filter_wf
    | intro _
    | split
    | dsimp only)
theorem State.toStage2_memWf (s : State) (w : StageWork) (hm : Memory.wf s.mem = true) : Memory.wf (State.toStage2 s w).mem = true := by
  unfold State.toStage2
  repeat' (first
    | with_reducible assumption
    | with_reducible apply State.setRegFld_memWf
    | with_reducible apply State.failWarm_memWf
    | with_reducible apply State.enterStage_memWf
    | with_reducible apply State.releasePorts_memWf
    | with_reducible refine foldl_memWf _ _ _ ?_ ?_
    | with_reducible refine foldl_memWf_fst _ _ _ ?_ ?_
    | with_reducible refine ite_memWf ?_ ?_
    | with_reducible apply Mem.setBytes_wf
    | with_reducible apply SMap.filter_wf
    | intro _
    | split
    | dsimp only)
theorem State.toStage3_memWf (s : State) (w : StageWork) (hm : Memory.wf s.mem = true) : Memory.wf (State.toStage3 s w).mem = true := by
  unfold State.toStage3
  repeat' (first
    | with_reducible assumption
    | with_reducible apply State.setRegFld_memWf
    | with_reducible apply State.health_memWf
    | with_reducible apply State.recordFail_memWf
    | with_reducible apply State.failWarm_memWf
    | with_reducible apply State.enterStage_memWf
    | with_reducible apply State.releasePorts_memWf
    | with_reducible refine foldl_memWf _ _ _ ?_ ?_
    | with_reducible refine foldl_memWf_fst _ _ _ ?_ ?_
    | with_reducible refine ite_memWf ?_ ?_
    | with_reducible apply Mem.setBytes_wf
    | with_reducible apply SMap.filter_wf
    | intro _
    | split
    | dsimp only)
theorem State.toFull_memWf (s : State) (hm : Memory.wf s.mem = true) : Memory.wf (State.toFull s).mem = true := by
  unfold State.toFull
  repeat' (first
    | with_reducible assumption
    | with_reducible apply State.enterStage_memWf
    | with_reducible refine foldl_memWf _ _ _ ?_ ?_
    | with_reducible refine foldl_memWf_fst _ _ _ ?_ ?_
    | with_reducible refine ite_memWf ?_ ?_
    | with_reducible apply Mem.setBytes_wf
    | with_reducible apply SMap.filter_wf
    | intro _
    | split
    | dsimp only)
theorem State.powerGood_memWf (s : State) (bifurc : Bool) (addrSel : BitVec 3) (hm : Memory.wf s.mem = true) : Memory.wf (State.powerGood s bifurc addrSel).mem = true := by
  unfold State.powerGood
  repeat' (first
    | with_reducible assumption
    | with_reducible apply State.beginStart_memWf
    | with_reducible refine foldl_memWf _ _ _ ?_ ?_
    | with_reducible refine foldl_memWf_fst _ _ _ ?_ ?_
    | with_reducible refine ite_memWf ?_ ?_
    | with_reducible apply Mem.setBytes_wf
    | with_reducible apply SMap.filter_wf
    | intro _
    | split
    | dsimp only)
theorem State.observe_memWf (s : State) (c : Coolant) (hm : Memory.wf s.mem = true) : Memory.wf (State.observe s c).mem = true := by
  unfold State.observe
  repeat' (first
    | with_reducible assumption
    | with_reducible apply State.setRegFld_memWf
    | with_reducible refine foldl_memWf _ _ _ ?_ ?_
    | with_reducible refine foldl_memWf_fst _ _ _ ?_ ?_
    | with_reducible refine ite_memWf ?_ ?_
    | with_reducible apply Mem.setBytes_wf
    | with_reducible apply SMap.filter_wf
    | intro _
    | split
    | dsimp only)
theorem State.valveConfigured_memWf (s : State) (hm : Memory.wf s.mem = true) : Memory.wf (State.valveConfigured s).mem = true := by
  unfold State.valveConfigured
  repeat' (first
    | with_reducible assumption
    | with_reducible apply State.stage_memWf
    | with_reducible refine foldl_memWf _ _ _ ?_ ?_
    | with_reducible refine foldl_memWf_fst _ _ _ ?_ ?_
    | with_reducible refine ite_memWf ?_ ?_
    | with_reducible apply Mem.setBytes_wf
    | with_reducible apply SMap.filter_wf
    | intro _
    | split
    | dsimp only)
theorem State.unpowered_memWf (s : State) (hm : Memory.wf s.mem = true) : Memory.wf (State.unpowered s).mem = true := by
  unfold State.unpowered
  repeat' (first
    | with_reducible assumption
    | with_reducible apply State.restarted_memWf
    | with_reducible refine foldl_memWf _ _ _ ?_ ?_
    | with_reducible refine foldl_memWf_fst _ _ _ ?_ ?_
    | with_reducible refine ite_memWf ?_ ?_
    | with_reducible apply Mem.setBytes_wf
    | with_reducible apply SMap.filter_wf
    | intro _
    | split
    | dsimp only)
theorem State.beginTrip_memWf (s : State) (hm : Memory.wf s.mem = true) : Memory.wf (State.beginTrip s).mem = true := by
  unfold State.beginTrip
  repeat' (first
    | with_reducible assumption
    | with_reducible apply State.setRegFld_memWf
    | with_reducible apply State.bump_memWf
    | with_reducible apply State.endRecording_memWf
    | with_reducible apply State.disablePorts_memWf
    | with_reducible refine foldl_memWf _ _ _ ?_ ?_
    | with_reducible refine foldl_memWf_fst _ _ _ ?_ ?_
    | with_reducible refine ite_memWf ?_ ?_
    | with_reducible apply Mem.setBytes_wf
    | with_reducible apply SMap.filter_wf
    | intro _
    | split
    | dsimp only)
theorem State.retrainPorts_memWf (s : State) (hm : Memory.wf s.mem = true) : Memory.wf (State.retrainPorts s).mem = true := by
  unfold State.retrainPorts
  repeat' (first
    | with_reducible assumption
    | with_reducible apply State.beginTraining_memWf
    | with_reducible refine foldl_memWf _ _ _ ?_ ?_
    | with_reducible refine foldl_memWf_fst _ _ _ ?_ ?_
    | with_reducible refine ite_memWf ?_ ?_
    | with_reducible apply Mem.setBytes_wf
    | with_reducible apply SMap.filter_wf
    | intro _
    | split
    | dsimp only)
theorem State.endTrip_memWf (s : State) (hm : Memory.wf s.mem = true) : Memory.wf (State.endTrip s).mem = true := by
  unfold State.endTrip
  repeat' (first
    | with_reducible assumption
    | with_reducible apply State.setRegFld_memWf
    | with_reducible apply State.retrainPorts_memWf
    | with_reducible refine foldl_memWf _ _ _ ?_ ?_
    | with_reducible refine foldl_memWf_fst _ _ _ ?_ ?_
    | with_reducible refine ite_memWf ?_ ?_
    | with_reducible apply Mem.setBytes_wf
    | with_reducible apply SMap.filter_wf
    | intro _
    | split
    | dsimp only)
theorem State.guardWrite_memWf (s : State) (v : Nat) (hm : Memory.wf s.mem = true) : Memory.wf (State.guardWrite s v).mem = true := by
  unfold State.guardWrite
  repeat' (first
    | with_reducible assumption
    | with_reducible apply State.bumpSat_memWf
    | with_reducible apply State.endTrip_memWf
    | with_reducible refine foldl_memWf _ _ _ ?_ ?_
    | with_reducible refine foldl_memWf_fst _ _ _ ?_ ?_
    | with_reducible refine ite_memWf ?_ ?_
    | with_reducible apply Mem.setBytes_wf
    | with_reducible apply SMap.filter_wf
    | intro _
    | split
    | dsimp only)
theorem State.watchdogsRun_memWf (s : State) (hm : Memory.wf s.mem = true) : Memory.wf (State.watchdogsRun s).mem = true := by
  unfold State.watchdogsRun
  repeat' (first
    | with_reducible assumption
    | with_reducible refine foldl_memWf _ _ _ ?_ ?_
    | with_reducible refine foldl_memWf_fst _ _ _ ?_ ?_
    | with_reducible refine ite_memWf ?_ ?_
    | with_reducible apply Mem.setBytes_wf
    | with_reducible apply SMap.filter_wf
    | intro _
    | split
    | dsimp only)
theorem State.deviceTick_memWf (s : State) (hm : Memory.wf s.mem = true) : Memory.wf (State.deviceTick s).mem = true := by
  unfold State.deviceTick
  repeat' (first
    | with_reducible assumption
    | with_reducible apply State.bump_memWf
    | with_reducible apply State.watchdogsRun_memWf
    | with_reducible refine foldl_memWf _ _ _ ?_ ?_
    | with_reducible refine foldl_memWf_fst _ _ _ ?_ ?_
    | with_reducible refine ite_memWf ?_ ?_
    | with_reducible apply Mem.setBytes_wf
    | with_reducible apply SMap.filter_wf
    | intro _
    | split
    | dsimp only)
theorem State.energyTick_memWf (s : State) (hm : Memory.wf s.mem = true) : Memory.wf (State.energyTick s).mem = true := by
  unfold State.energyTick
  repeat' (first
    | with_reducible assumption
    | with_reducible apply State.bump_memWf
    | with_reducible refine foldl_memWf _ _ _ ?_ ?_
    | with_reducible refine foldl_memWf_fst _ _ _ ?_ ?_
    | with_reducible refine ite_memWf ?_ ?_
    | with_reducible apply Mem.setBytes_wf
    | with_reducible apply SMap.filter_wf
    | intro _
    | split
    | dsimp only)
theorem State.tick_memWf (s : State) (hm : Memory.wf s.mem = true) : Memory.wf (State.tick s).mem = true := by
  unfold State.tick
  repeat' (first
    | with_reducible assumption
    | with_reducible apply State.deviceTick_memWf
    | with_reducible apply State.energyTick_memWf
    | with_reducible refine foldl_memWf _ _ _ ?_ ?_
    | with_reducible refine foldl_memWf_fst _ _ _ ?_ ?_
    | with_reducible refine ite_memWf ?_ ?_
    | with_reducible apply Mem.setBytes_wf
    | with_reducible apply SMap.filter_wf
    | intro _
    | split
    | dsimp only)
theorem State.withHeather_memWf (s : State) (f : Heather → Heather) (hm : Memory.wf s.mem = true) : Memory.wf (State.withHeather s f).mem = true := by
  unfold State.withHeather
  repeat' (first
    | with_reducible assumption
    | with_reducible refine foldl_memWf _ _ _ ?_ ?_
    | with_reducible refine foldl_memWf_fst _ _ _ ?_ ?_
    | with_reducible refine ite_memWf ?_ ?_
    | with_reducible apply Mem.setBytes_wf
    | with_reducible apply SMap.filter_wf
    | intro _
    | split
    | dsimp only)
theorem State.reply_memWf (s : State) (t : Transport) (r : MctpReply) (hm : Memory.wf s.mem = true) : Memory.wf (State.reply s t r).mem = true := by
  unfold State.reply
  repeat' (first
    | with_reducible assumption
    | with_reducible apply State.send_memWf
    | with_reducible refine foldl_memWf _ _ _ ?_ ?_
    | with_reducible refine foldl_memWf_fst _ _ _ ?_ ?_
    | with_reducible refine ite_memWf ?_ ?_
    | with_reducible apply Mem.setBytes_wf
    | with_reducible apply SMap.filter_wf
    | intro _
    | split
    | dsimp only)
theorem State.plainReply_memWf (s : State) (m : MctpMsg) (hm : Memory.wf s.mem = true) : ∀ t, (State.plainReply s m) = some t → Memory.wf t.1.mem = true := by
  intro t hr
  unfold State.plainReply at hr
  repeat' (first
    | with_reducible assumption
    | with_reducible apply State.stage_memWf
    | with_reducible apply State.drawn_memWf
    | with_reducible refine foldl_memWf _ _ _ ?_ ?_
    | with_reducible refine foldl_memWf_fst _ _ _ ?_ ?_
    | with_reducible refine ite_memWf ?_ ?_
    | with_reducible apply Mem.setBytes_wf
    | with_reducible apply SMap.filter_wf
    | intro _
    | cases hr
    | split at hr
    | dsimp only at hr
    | split
    | dsimp only)
theorem State.plainReply_memWf_eq {s : State} {m : MctpMsg} {t} (hr : State.plainReply s m = some t) (hm : Memory.wf s.mem = true) : Memory.wf t.1.mem = true := State.plainReply_memWf s m hm t hr
theorem State.answerPlain_memWf (s : State) (z0 : Nat) (hm : Memory.wf s.mem = true) : Memory.wf (State.answerPlain s z0).mem = true := by
  induction z0 generalizing s with
  | zero => exact hm
  | succ n ih =>
    unfold State.answerPlain
    split
    · exact hm
    · split
      · next hu => exact ih _ (State.reply_memWf _ _ _ (State.plainReply_memWf_eq hu hm))
      · exact hm
theorem State.served_memWf (s : State) (t : Transport) (r : MctpReply) (hm : Memory.wf s.mem = true) : Memory.wf (State.served s t r).mem = true := by
  unfold State.served
  repeat' (first
    | with_reducible assumption
    | with_reducible apply State.reply_memWf
    | with_reducible apply State.answerPlain_memWf
    | with_reducible refine foldl_memWf _ _ _ ?_ ?_
    | with_reducible refine foldl_memWf_fst _ _ _ ?_ ?_
    | with_reducible refine ite_memWf ?_ ?_
    | with_reducible apply Mem.setBytes_wf
    | with_reducible apply SMap.filter_wf
    | intro _
    | split
    | dsimp only)
theorem State.spdmReply_memWf (s : State) (t : Transport) (need : Nat) (f : State × MctpReply) (hm : Memory.wf s.mem = true) (hf : Memory.wf f.1.mem = true) : Memory.wf (State.spdmReply s t need f).mem = true := by
  unfold State.spdmReply
  repeat' (first
    | with_reducible assumption
    | with_reducible apply State.served_memWf
    | with_reducible refine foldl_memWf _ _ _ ?_ ?_
    | with_reducible refine foldl_memWf_fst _ _ _ ?_ ?_
    | with_reducible refine ite_memWf ?_ ?_
    | with_reducible apply Mem.setBytes_wf
    | with_reducible apply SMap.filter_wf
    | intro _
    | split
    | dsimp only)
theorem State.pldmReply_memWf (s : State) (t : Transport) (f : State × MctpReply) (hm : Memory.wf s.mem = true) (hf : Memory.wf f.1.mem = true) : Memory.wf (State.pldmReply s t f).mem = true := by
  unfold State.pldmReply
  repeat' (first
    | with_reducible assumption
    | with_reducible apply State.served_memWf
    | with_reducible refine foldl_memWf _ _ _ ?_ ?_
    | with_reducible refine foldl_memWf_fst _ _ _ ?_ ?_
    | with_reducible refine ite_memWf ?_ ?_
    | with_reducible apply Mem.setBytes_wf
    | with_reducible apply SMap.filter_wf
    | intro _
    | split
    | dsimp only)
theorem State.updateReply_memWf (s : State) (t : Transport) (f : State × MctpReply) (hm : Memory.wf s.mem = true) (hf : Memory.wf f.1.mem = true) : Memory.wf (State.updateReply s t f).mem = true := by
  unfold State.updateReply
  repeat' (first
    | with_reducible assumption
    | with_reducible apply State.served_memWf
    | with_reducible refine foldl_memWf _ _ _ ?_ ?_
    | with_reducible refine foldl_memWf_fst _ _ _ ?_ ?_
    | with_reducible refine ite_memWf ?_ ?_
    | with_reducible apply Mem.setBytes_wf
    | with_reducible apply SMap.filter_wf
    | intro _
    | split
    | dsimp only)
theorem State.setUpdate_memWf (s : State) (u : Option Update) (hm : Memory.wf s.mem = true) : Memory.wf (State.setUpdate s u).mem = true := by
  unfold State.setUpdate
  repeat' (first
    | with_reducible assumption
    | with_reducible apply State.setRegFld_memWf
    | with_reducible apply State.withHeather_memWf
    | with_reducible refine foldl_memWf _ _ _ ?_ ?_
    | with_reducible refine foldl_memWf_fst _ _ _ ?_ ?_
    | with_reducible refine ite_memWf ?_ ?_
    | with_reducible apply Mem.setBytes_wf
    | with_reducible apply SMap.filter_wf
    | intro _
    | split
    | dsimp only)
theorem State.svnCommit_memWf (s : State) (v : Nat) (hm : Memory.wf s.mem = true) : Memory.wf (State.svnCommit s v).mem = true := by
  unfold State.svnCommit
  repeat' (first
    | with_reducible assumption
    | with_reducible refine foldl_memWf _ _ _ ?_ ?_
    | with_reducible refine foldl_memWf_fst _ _ _ ?_ ?_
    | with_reducible refine ite_memWf ?_ ?_
    | with_reducible apply Mem.setBytes_wf
    | with_reducible apply SMap.filter_wf
    | intro _
    | split
    | dsimp only)
theorem State.setRing_memWf (s : State) (f : Nat) (k : Nat) (r : Ring) (hm : Memory.wf s.mem = true) : Memory.wf (State.setRing s f k r).mem = true := by
  unfold State.setRing
  repeat' (first
    | with_reducible assumption
    | with_reducible refine foldl_memWf _ _ _ ?_ ?_
    | with_reducible refine foldl_memWf_fst _ _ _ ?_ ?_
    | with_reducible refine ite_memWf ?_ ?_
    | with_reducible apply Mem.setBytes_wf
    | with_reducible apply SMap.filter_wf
    | intro _
    | split
    | dsimp only)
theorem State.dbgCtrlWrite_memWf (s : State) (v : Nat) (hm : Memory.wf s.mem = true) : Memory.wf (State.dbgCtrlWrite s v).mem = true := by
  unfold State.dbgCtrlWrite
  repeat' (first
    | with_reducible assumption
    | with_reducible apply State.setReg_memWf
    | with_reducible apply State.setRegFld_memWf
    | with_reducible refine foldl_memWf _ _ _ ?_ ?_
    | with_reducible refine foldl_memWf_fst _ _ _ ?_ ?_
    | with_reducible refine ite_memWf ?_ ?_
    | with_reducible apply Mem.setBytes_wf
    | with_reducible apply SMap.filter_wf
    | intro _
    | split
    | dsimp only)
theorem State.traceLost_memWf (s : State) (b : Nat) (hm : Memory.wf s.mem = true) : Memory.wf (State.traceLost s b).mem = true := by
  unfold State.traceLost
  repeat' (first
    | with_reducible assumption
    | with_reducible apply State.bumpSat_memWf
    | with_reducible refine foldl_memWf _ _ _ ?_ ?_
    | with_reducible refine foldl_memWf_fst _ _ _ ?_ ?_
    | with_reducible refine ite_memWf ?_ ?_
    | with_reducible apply Mem.setBytes_wf
    | with_reducible apply SMap.filter_wf
    | intro _
    | split
    | dsimp only)
theorem State.tracePut_memWf (s : State) (b : Nat) (bs : List Byte) (hm : Memory.wf s.mem = true) : Memory.wf (State.tracePut s b bs).1.mem = true := by
  unfold State.tracePut
  repeat' (first
    | with_reducible assumption
    | with_reducible apply State.setRegFld_memWf
    | with_reducible apply State.ramWrite_memWf
    | with_reducible apply State.traceLost_memWf
    | with_reducible refine foldl_memWf _ _ _ ?_ ?_
    | with_reducible refine foldl_memWf_fst _ _ _ ?_ ?_
    | with_reducible refine ite_memWf ?_ ?_
    | with_reducible apply Mem.setBytes_wf
    | with_reducible apply SMap.filter_wf
    | intro _
    | split
    | dsimp only)
theorem State.tracePut_memWf_eq {s : State} {b : Nat} {bs : List Byte} {t} (hr : State.tracePut s b bs = t) (hm : Memory.wf s.mem = true) : Memory.wf t.1.mem = true := hr ▸ State.tracePut_memWf s b bs hm
theorem State.traceTimes_memWf (s : State) (time : Word) (z0 : Nat) (hm : Memory.wf s.mem = true) : Memory.wf (State.traceTimes s time z0).mem = true := by
  induction z0 generalizing s with
  | zero => exact hm
  | succ n ih =>
    have hp := State.tracePut_memWf s 0 (timeRecord time) hm
    unfold State.traceTimes
    dsimp only
    refine ite_memWf hm ?_
    exact ite_memWf (ih _ hp) hp
theorem State.traceAddress_memWf (s : State) (kind : BitVec 2) (pc : BitVec 18) (n : CoreId) (time : Word) (hm : Memory.wf s.mem = true) : Memory.wf (State.traceAddress s kind pc n time).mem = true := by
  unfold State.traceAddress
  repeat' (first
    | with_reducible assumption
    | with_reducible apply State.tracePut_memWf
    | with_reducible refine State.tracePut_memWf_eq ‹_› ?_
    | with_reducible apply State.traceTimes_memWf
    | with_reducible refine foldl_memWf _ _ _ ?_ ?_
    | with_reducible refine foldl_memWf_fst _ _ _ ?_ ?_
    | with_reducible refine ite_memWf ?_ ?_
    | with_reducible apply Mem.setBytes_wf
    | with_reducible apply SMap.filter_wf
    | intro _
    | split
    | dsimp only)
theorem State.triggerActs_memWf (s : State) (hm : Memory.wf s.mem = true) : Memory.wf (State.triggerActs s).mem = true := by
  unfold State.triggerActs
  repeat' (first
    | with_reducible assumption
    | with_reducible apply State.setRegFld_memWf
    | with_reducible apply State.startPress_memWf
    | with_reducible apply State.beginStop_memWf
    | with_reducible refine foldl_memWf _ _ _ ?_ ?_
    | with_reducible refine foldl_memWf_fst _ _ _ ?_ ?_
    | with_reducible refine ite_memWf ?_ ?_
    | with_reducible apply Mem.setBytes_wf
    | with_reducible apply SMap.filter_wf
    | intro _
    | split
    | dsimp only)
theorem State.traceTaggedOut_memWf (s : State) (wanted : Bool) (unit : BitVec 16) (event : Byte) (status : Byte) (bs : List Byte) (hm : Memory.wf s.mem = true) : Memory.wf (State.traceTaggedOut s wanted unit event status bs).mem = true := by
  unfold State.traceTaggedOut
  repeat' (first
    | with_reducible assumption
    | with_reducible apply State.setRegFld_memWf
    | with_reducible apply State.tracePut_memWf
    | with_reducible refine State.tracePut_memWf_eq ‹_› ?_
    | with_reducible apply State.triggerActs_memWf
    | with_reducible refine foldl_memWf _ _ _ ?_ ?_
    | with_reducible refine foldl_memWf_fst _ _ _ ?_ ?_
    | with_reducible refine ite_memWf ?_ ?_
    | with_reducible apply Mem.setBytes_wf
    | with_reducible apply SMap.filter_wf
    | intro _
    | split
    | dsimp only)
theorem State.markBy_memWf (s : State) (core : Option CoreId) (v : Word) (hm : Memory.wf s.mem = true) : Memory.wf (State.markBy s core v).mem = true := by
  unfold State.markBy
  repeat' (first
    | with_reducible assumption
    | with_reducible apply State.traceTagged_memWf
    | with_reducible refine foldl_memWf _ _ _ ?_ ?_
    | with_reducible refine foldl_memWf_fst _ _ _ ?_ ?_
    | with_reducible refine ite_memWf ?_ ?_
    | with_reducible apply Mem.setBytes_wf
    | with_reducible apply SMap.filter_wf
    | intro _
    | split
    | dsimp only)
theorem State.afterPress_memWf (s : State) (follow : Nat) (job : BitVec 16) (hm : Memory.wf s.mem = true) : Memory.wf (State.afterPress s follow job).mem = true := by
  unfold State.afterPress
  repeat' (first
    | with_reducible assumption
    | with_reducible apply State.killJob_memWf
    | with_reducible apply State.beginStop_memWf
    | with_reducible refine foldl_memWf _ _ _ ?_ ?_
    | with_reducible refine foldl_memWf_fst _ _ _ ?_ ?_
    | with_reducible refine ite_memWf ?_ ?_
    | with_reducible apply Mem.setBytes_wf
    | with_reducible apply SMap.filter_wf
    | intro _
    | split
    | dsimp only)
theorem State.pressWrite_memWf (s : State) (v : Nat) (hm : Memory.wf s.mem = true) : Memory.wf (State.pressWrite s v).mem = true := by
  unfold State.pressWrite
  repeat' (first
    | with_reducible assumption
    | with_reducible apply State.startPress_memWf
    | with_reducible refine foldl_memWf _ _ _ ?_ ?_
    | with_reducible refine foldl_memWf_fst _ _ _ ?_ ?_
    | with_reducible refine ite_memWf ?_ ?_
    | with_reducible apply Mem.setBytes_wf
    | with_reducible apply SMap.filter_wf
    | intro _
    | split
    | dsimp only)
theorem State.kickWrite_memWf (s : State) (p : Nat) (v : Nat) (hm : Memory.wf s.mem = true) : Memory.wf (State.kickWrite s p v).mem = true := by
  unfold State.kickWrite
  repeat' (first
    | with_reducible assumption
    | with_reducible apply State.kickDog_memWf
    | with_reducible refine foldl_memWf _ _ _ ?_ ?_
    | with_reducible refine foldl_memWf_fst _ _ _ ?_ ?_
    | with_reducible refine ite_memWf ?_ ?_
    | with_reducible apply Mem.setBytes_wf
    | with_reducible apply SMap.filter_wf
    | intro _
    | split
    | dsimp only)
theorem State.fetchOn_memWf (s : State) (n : CoreId) (hm : Memory.wf s.mem = true) : Memory.wf (State.fetchOn s n).mem = true := by
  unfold State.fetchOn
  repeat' (first
    | with_reducible assumption
    | with_reducible apply State.setCore_memWf
    | with_reducible apply State.coreFault_memWf
    | with_reducible refine foldl_memWf _ _ _ ?_ ?_
    | with_reducible refine foldl_memWf_fst _ _ _ ?_ ?_
    | with_reducible refine ite_memWf ?_ ?_
    | with_reducible apply Mem.setBytes_wf
    | with_reducible apply SMap.filter_wf
    | intro _
    | split
    | dsimp only)
theorem State.brkGo_memWf (s : State) (n : CoreId) (hm : Memory.wf s.mem = true) : Memory.wf (State.brkGo s n).mem = true := by
  unfold State.brkGo
  repeat' (first
    | with_reducible assumption
    | with_reducible apply State.setCore_memWf
    | with_reducible apply State.fetchOn_memWf
    | with_reducible refine foldl_memWf _ _ _ ?_ ?_
    | with_reducible refine foldl_memWf_fst _ _ _ ?_ ?_
    | with_reducible refine ite_memWf ?_ ?_
    | with_reducible apply Mem.setBytes_wf
    | with_reducible apply SMap.filter_wf
    | intro _
    | split
    | dsimp only)
theorem State.brkResumeWrite_memWf (s : State) (v : Nat) (hm : Memory.wf s.mem = true) : Memory.wf (State.brkResumeWrite s v).mem = true := by
  unfold State.brkResumeWrite
  repeat' (first
    | with_reducible assumption
    | with_reducible apply State.brkGo_memWf
    | with_reducible refine foldl_memWf _ _ _ ?_ ?_
    | with_reducible refine foldl_memWf_fst _ _ _ ?_ ?_
    | with_reducible refine ite_memWf ?_ ?_
    | with_reducible apply Mem.setBytes_wf
    | with_reducible apply SMap.filter_wf
    | intro _
    | split
    | dsimp only)
theorem State.brkStepWrite_memWf (s : State) (v : Nat) (hm : Memory.wf s.mem = true) : Memory.wf (State.brkStepWrite s v).mem = true := by
  unfold State.brkStepWrite
  repeat' (first
    | with_reducible assumption
    | with_reducible apply State.setCore_memWf
    | with_reducible apply State.fetchOn_memWf
    | with_reducible refine foldl_memWf _ _ _ ?_ ?_
    | with_reducible refine foldl_memWf_fst _ _ _ ?_ ?_
    | with_reducible refine ite_memWf ?_ ?_
    | with_reducible apply Mem.setBytes_wf
    | with_reducible apply SMap.filter_wf
    | intro _
    | split
    | dsimp only)
theorem State.stageBits_memWf (s : State) (a : Nat) (m : Word) (v : Word) (hm : Memory.wf s.mem = true) : Memory.wf (State.stageBits s a m v).mem = true := by
  unfold State.stageBits
  repeat' (first
    | with_reducible assumption
    | with_reducible apply State.stage_memWf
    | with_reducible refine foldl_memWf _ _ _ ?_ ?_
    | with_reducible refine foldl_memWf_fst _ _ _ ?_ ?_
    | with_reducible refine ite_memWf ?_ ?_
    | with_reducible apply Mem.setBytes_wf
    | with_reducible apply SMap.filter_wf
    | intro _
    | split
    | dsimp only)
theorem State.proposed_memWf (s : State) (es : List (Nat × Word)) (hm : Memory.wf s.mem = true) : Memory.wf (State.proposed s es).mem = true := by
  unfold State.proposed
  repeat' (first
    | with_reducible assumption
    | with_reducible apply State.setReg_memWf
    | with_reducible refine foldl_memWf _ _ _ ?_ ?_
    | with_reducible refine foldl_memWf_fst _ _ _ ?_ ?_
    | with_reducible refine ite_memWf ?_ ?_
    | with_reducible apply Mem.setBytes_wf
    | with_reducible apply SMap.filter_wf
    | intro _
    | split
    | dsimp only)
theorem State.trimCaches_memWf (s : State) (hm : Memory.wf s.mem = true) : Memory.wf (State.trimCaches s).mem = true := by
  unfold State.trimCaches
  repeat' (first
    | with_reducible assumption
    | with_reducible apply State.trimStream_memWf
    | with_reducible apply State.trimNodes_memWf
    | with_reducible refine foldl_memWf _ _ _ ?_ ?_
    | with_reducible refine foldl_memWf_fst _ _ _ ?_ ?_
    | with_reducible refine ite_memWf ?_ ?_
    | with_reducible apply Mem.setBytes_wf
    | with_reducible apply SMap.filter_wf
    | intro _
    | split
    | dsimp only)
theorem State.regrouped_memWf (s : State) (t : State) (hm : Memory.wf s.mem = true) (ht : Memory.wf t.mem = true) : Memory.wf (State.regrouped s t).mem = true := by
  unfold State.regrouped
  repeat' (first
    | with_reducible assumption
    | with_reducible apply State.setFlow_memWf
    | with_reducible apply State.evict_memWf
    | with_reducible apply State.squashPassages_memWf
    | with_reducible refine foldl_memWf _ _ _ ?_ ?_
    | with_reducible refine foldl_memWf_fst _ _ _ ?_ ?_
    | with_reducible refine ite_memWf ?_ ?_
    | with_reducible apply Mem.setBytes_wf
    | with_reducible apply SMap.filter_wf
    | intro _
    | split
    | dsimp only)
theorem State.judgePorts_memWf (s : State) (hm : Memory.wf s.mem = true) : Memory.wf (State.judgePorts s).mem = true := by
  unfold State.judgePorts
  repeat' (first
    | with_reducible assumption
    | with_reducible apply State.setPort_memWf
    | with_reducible refine foldl_memWf _ _ _ ?_ ?_
    | with_reducible refine foldl_memWf_fst _ _ _ ?_ ?_
    | with_reducible refine ite_memWf ?_ ?_
    | with_reducible apply Mem.setBytes_wf
    | with_reducible apply SMap.filter_wf
    | intro _
    | split
    | dsimp only)
theorem State.portSwitched_memWf (s : State) (t : State) (p : Nat) (hm : Memory.wf s.mem = true) (ht : Memory.wf t.mem = true) : Memory.wf (State.portSwitched s t p).mem = true := by
  unfold State.portSwitched
  repeat' (first
    | with_reducible assumption
    | with_reducible apply State.dropPort_memWf
    | with_reducible apply State.beginTraining_memWf
    | with_reducible apply State.judgePorts_memWf
    | with_reducible refine foldl_memWf _ _ _ ?_ ?_
    | with_reducible refine foldl_memWf_fst _ _ _ ?_ ?_
    | with_reducible refine ite_memWf ?_ ?_
    | with_reducible apply Mem.setBytes_wf
    | with_reducible apply SMap.filter_wf
    | intro _
    | split
    | dsimp only)
theorem State.applyRing_memWf (s : State) (f : Nat) (k : Nat) (changed : Bool) (hm : Memory.wf s.mem = true) : Memory.wf (State.applyRing s f k changed).mem = true := by
  unfold State.applyRing
  repeat' (first
    | with_reducible assumption
    | with_reducible apply State.setRing_memWf
    | with_reducible refine foldl_memWf _ _ _ ?_ ?_
    | with_reducible refine foldl_memWf_fst _ _ _ ?_ ?_
    | with_reducible refine ite_memWf ?_ ?_
    | with_reducible apply Mem.setBytes_wf
    | with_reducible apply SMap.filter_wf
    | intro _
    | split
    | dsimp only)
theorem State.effectOf_memWf (s : State) (t : State) (a : Nat) (hm : Memory.wf s.mem = true) (ht : Memory.wf t.mem = true) : Memory.wf (State.effectOf s t a).mem = true := by
  unfold State.effectOf
  repeat' (first
    | with_reducible assumption
    | with_reducible apply State.setReg_memWf
    | with_reducible apply State.shaperSet_memWf
    | with_reducible apply State.setCad_memWf
    | with_reducible apply State.kickDog_memWf
    | with_reducible apply State.beginTraining_memWf
    | with_reducible apply State.valveConfigured_memWf
    | with_reducible apply State.brkResumeWrite_memWf
    | with_reducible apply State.trimCaches_memWf
    | with_reducible apply State.regrouped_memWf
    | with_reducible apply State.judgePorts_memWf
    | with_reducible apply State.portSwitched_memWf
    | with_reducible refine foldl_memWf _ _ _ ?_ ?_
    | with_reducible refine foldl_memWf_fst _ _ _ ?_ ?_
    | with_reducible refine ite_memWf ?_ ?_
    | with_reducible apply Mem.setBytes_wf
    | with_reducible apply SMap.filter_wf
    | intro _
    | split
    | dsimp only)
theorem State.applyKey_memWf (s : State) (words : SMap Word) (hm : Memory.wf s.mem = true) : Memory.wf (State.applyKey s words).mem = true := by
  unfold State.applyKey
  repeat' (first
    | with_reducible assumption
    | with_reducible apply State.beginTraining_memWf
    | with_reducible refine foldl_memWf _ _ _ ?_ ?_
    | with_reducible refine foldl_memWf_fst _ _ _ ?_ ?_
    | with_reducible refine ite_memWf ?_ ?_
    | with_reducible apply Mem.setBytes_wf
    | with_reducible apply SMap.filter_wf
    | intro _
    | split
    | dsimp only)
theorem State.applySet_memWf (s : State) (ap : Nat) (es : SMap Word) (hm : Memory.wf s.mem = true) : Memory.wf (State.applySet s ap es).mem = true := by
  unfold State.applySet
  repeat' (first
    | with_reducible assumption
    | with_reducible apply State.setRegFld_memWf
    | with_reducible apply State.unbindQueue_memWf
    | with_reducible apply State.proposed_memWf
    | with_reducible apply State.applyRing_memWf
    | with_reducible apply State.effectOf_memWf
    | with_reducible apply State.applyKey_memWf
    | with_reducible refine foldl_memWf _ _ _ ?_ ?_
    | with_reducible refine foldl_memWf_fst _ _ _ ?_ ?_
    | with_reducible refine ite_memWf ?_ ?_
    | with_reducible apply Mem.setBytes_wf
    | with_reducible apply SMap.filter_wf
    | intro _
    | split
    | dsimp only)
theorem State.completeOne_memWf (s : State) (ap : Nat) (hm : Memory.wf s.mem = true) : Memory.wf (State.completeOne s ap).mem = true := by
  unfold State.completeOne
  repeat' (first
    | with_reducible assumption
    | with_reducible apply State.applySet_memWf
    | with_reducible refine foldl_memWf _ _ _ ?_ ?_
    | with_reducible refine foldl_memWf_fst _ _ _ ?_ ?_
    | with_reducible refine ite_memWf ?_ ?_
    | with_reducible apply Mem.setBytes_wf
    | with_reducible apply SMap.filter_wf
    | intro _
    | split
    | dsimp only)
theorem State.applyGo_memWf (s : State) (ap : Nat) (hm : Memory.wf s.mem = true) : Memory.wf (State.applyGo s ap).mem = true := by
  unfold State.applyGo
  repeat' (first
    | with_reducible assumption
    | with_reducible refine foldl_memWf _ _ _ ?_ ?_
    | with_reducible refine foldl_memWf_fst _ _ _ ?_ ?_
    | with_reducible refine ite_memWf ?_ ?_
    | with_reducible apply Mem.setBytes_wf
    | with_reducible apply SMap.filter_wf
    | intro _
    | split
    | dsimp only)
theorem State.applyDiscard_memWf (s : State) (ap : Nat) (hm : Memory.wf s.mem = true) : Memory.wf (State.applyDiscard s ap).mem = true := by
  unfold State.applyDiscard
  repeat' (first
    | with_reducible assumption
    | with_reducible apply State.completeOne_memWf
    | with_reducible refine foldl_memWf _ _ _ ?_ ?_
    | with_reducible refine foldl_memWf_fst _ _ _ ?_ ?_
    | with_reducible refine ite_memWf ?_ ?_
    | with_reducible apply Mem.setBytes_wf
    | with_reducible apply SMap.filter_wf
    | intro _
    | split
    | dsimp only)
theorem State.applyWrite_memWf (s : State) (ap : Nat) (v : Nat) (hm : Memory.wf s.mem = true) : Memory.wf (State.applyWrite s ap v).mem = true := by
  unfold State.applyWrite
  repeat' (first
    | with_reducible assumption
    | with_reducible apply State.bump_memWf
    | with_reducible apply State.applyGo_memWf
    | with_reducible apply State.applyDiscard_memWf
    | with_reducible refine foldl_memWf _ _ _ ?_ ?_
    | with_reducible refine foldl_memWf_fst _ _ _ ?_ ?_
    | with_reducible refine ite_memWf ?_ ?_
    | with_reducible apply Mem.setBytes_wf
    | with_reducible apply SMap.filter_wf
    | intro _
    | split
    | dsimp only)
theorem State.judgeVersion_memWf (s : State) (f : Nat) (hm : Memory.wf s.mem = true) : Memory.wf (State.judgeVersion s f).mem = true := by
  unfold State.judgeVersion
  repeat' (first
    | with_reducible assumption
    | with_reducible apply State.setReg_memWf
    | with_reducible refine foldl_memWf _ _ _ ?_ ?_
    | with_reducible refine foldl_memWf_fst _ _ _ ?_ ?_
    | with_reducible refine ite_memWf ?_ ?_
    | with_reducible apply Mem.setBytes_wf
    | with_reducible apply SMap.filter_wf
    | intro _
    | split
    | dsimp only)
theorem State.writeBits_memWf (s : State) (r : RegRef) (m : Word) (v : Word) (hm : Memory.wf s.mem = true) : Memory.wf (State.writeBits s r m v).mem = true := by
  unfold State.writeBits
  repeat' (first
    | with_reducible assumption
    | with_reducible apply State.setReg_memWf
    | with_reducible apply State.stageBits_memWf
    | with_reducible refine foldl_memWf _ _ _ ?_ ?_
    | with_reducible refine foldl_memWf_fst _ _ _ ?_ ?_
    | with_reducible refine ite_memWf ?_ ?_
    | with_reducible apply Mem.setBytes_wf
    | with_reducible apply SMap.filter_wf
    | intro _
    | split
    | dsimp only)
theorem State.writeData_memWf (s : State) (r : RegRef) (m : Word) (v : Word) (hm : Memory.wf s.mem = true) : Memory.wf (State.writeData s r m v).mem = true := by
  unfold State.writeData
  repeat' (first
    | with_reducible assumption
    | with_reducible apply State.setRegFld_memWf
    | with_reducible apply State.setCore_memWf
    | with_reducible apply State.dbgCtrlWrite_memWf
    | with_reducible apply State.judgeVersion_memWf
    | with_reducible apply State.writeBits_memWf
    | with_reducible refine foldl_memWf _ _ _ ?_ ?_
    | with_reducible refine foldl_memWf_fst _ _ _ ?_ ?_
    | with_reducible refine ite_memWf ?_ ?_
    | with_reducible apply Mem.setBytes_wf
    | with_reducible apply SMap.filter_wf
    | intro _
    | split
    | dsimp only)
theorem State.stopWrite_memWf (s : State) (v : Nat) (hm : Memory.wf s.mem = true) : Memory.wf (State.stopWrite s v).mem = true := by
  unfold State.stopWrite
  repeat' (first
    | with_reducible assumption
    | with_reducible apply State.beginStop_memWf
    | with_reducible refine foldl_memWf _ _ _ ?_ ?_
    | with_reducible refine foldl_memWf_fst _ _ _ ?_ ?_
    | with_reducible refine ite_memWf ?_ ?_
    | with_reducible apply Mem.setBytes_wf
    | with_reducible apply SMap.filter_wf
    | intro _
    | split
    | dsimp only)
theorem State.writeCommand_memWf (s : State) (w : Writer) (a : Nat) (v : Nat) (hm : Memory.wf s.mem = true) : Memory.wf (State.writeCommand s w a v).mem = true := by
  unfold State.writeCommand
  repeat' (first
    | with_reducible assumption
    | with_reducible apply State.drawn_memWf
    | with_reducible apply State.beginInval_memWf
    | with_reducible apply State.submitJob_memWf
    | with_reducible apply State.killJob_memWf
    | with_reducible apply State.answer_memWf
    | with_reducible apply State.beginSegInval_memWf
    | with_reducible apply State.restart_memWf
    | with_reducible apply State.guardWrite_memWf
    | with_reducible apply State.svnCommit_memWf
    | with_reducible apply State.markBy_memWf
    | with_reducible apply State.pressWrite_memWf
    | with_reducible apply State.kickWrite_memWf
    | with_reducible apply State.brkResumeWrite_memWf
    | with_reducible apply State.brkStepWrite_memWf
    | with_reducible apply State.stopWrite_memWf
    | with_reducible refine foldl_memWf _ _ _ ?_ ?_
    | with_reducible refine foldl_memWf_fst _ _ _ ?_ ?_
    | with_reducible refine ite_memWf ?_ ?_
    | with_reducible apply Mem.setBytes_wf
    | with_reducible apply SMap.filter_wf
    | intro _
    | split
    | dsimp only)
theorem State.writeOne_memWf (s : State) (w : Writer) (off : Nat) (data : List Byte) (hm : Memory.wf s.mem = true) : Memory.wf (State.writeOne s w off data).mem = true := by
  unfold State.writeOne
  repeat' (first
    | with_reducible assumption
    | with_reducible apply State.stage_memWf
    | with_reducible apply State.bump_memWf
    | with_reducible apply State.applyWrite_memWf
    | with_reducible apply State.writeData_memWf
    | with_reducible apply State.writeCommand_memWf
    | with_reducible refine foldl_memWf _ _ _ ?_ ?_
    | with_reducible refine foldl_memWf_fst _ _ _ ?_ ?_
    | with_reducible refine ite_memWf ?_ ?_
    | with_reducible apply Mem.setBytes_wf
    | with_reducible apply SMap.filter_wf
    | intro _
    | split
    | dsimp only)
theorem State.writeReg_memWf (s : State) (w : Writer) (off : Nat) (data : List Byte) (hm : Memory.wf s.mem = true) : Memory.wf (State.writeReg s w off data).mem = true := by
  unfold State.writeReg
  repeat' (first
    | with_reducible assumption
    | with_reducible apply State.writeOne_memWf
    | with_reducible refine foldl_memWf _ _ _ ?_ ?_
    | with_reducible refine foldl_memWf_fst _ _ _ ?_ ?_
    | with_reducible refine ite_memWf ?_ ?_
    | with_reducible apply Mem.setBytes_wf
    | with_reducible apply SMap.filter_wf
    | intro _
    | split
    | dsimp only)
theorem State.readClears_memWf (s : State) (off : Nat) (n : Nat) (hm : Memory.wf s.mem = true) : Memory.wf (State.readClears s off n).mem = true := by
  unfold State.readClears
  repeat' (first
    | with_reducible assumption
    | with_reducible apply State.setReg_memWf
    | with_reducible refine foldl_memWf _ _ _ ?_ ?_
    | with_reducible refine foldl_memWf_fst _ _ _ ?_ ?_
    | with_reducible refine ite_memWf ?_ ?_
    | with_reducible apply Mem.setBytes_wf
    | with_reducible apply SMap.filter_wf
    | intro _
    | split
    | dsimp only)
theorem State.writePf1_memWf (s : State) (off : Nat) (data : List Byte) (hm : Memory.wf s.mem = true) : Memory.wf (State.writePf1 s off data).mem = true := by
  unfold State.writePf1
  repeat' (first
    | with_reducible assumption
    | with_reducible apply State.withPf1_memWf
    | with_reducible apply State.writeCc_memWf
    | with_reducible refine foldl_memWf _ _ _ ?_ ?_
    | with_reducible refine foldl_memWf_fst _ _ _ ?_ ?_
    | with_reducible refine ite_memWf ?_ ?_
    | with_reducible apply Mem.setBytes_wf
    | with_reducible apply SMap.filter_wf
    | intro _
    | split
    | dsimp only)
theorem State.hostReg_memWf (s : State) (w : RegPort) (off : Nat) (data : List Byte) (reads : List HostRead) (hm : Memory.wf s.mem = true) : Memory.wf (State.hostReg s w off data reads).mem = true := by
  unfold State.hostReg
  repeat' (first
    | with_reducible assumption
    | with_reducible apply State.bump_memWf
    | with_reducible apply State.writeReg_memWf
    | with_reducible apply State.writePf1_memWf
    | with_reducible refine foldl_memWf _ _ _ ?_ ?_
    | with_reducible refine foldl_memWf_fst _ _ _ ?_ ?_
    | with_reducible refine ite_memWf ?_ ?_
    | with_reducible apply Mem.setBytes_wf
    | with_reducible apply SMap.filter_wf
    | intro _
    | split
    | dsimp only)
theorem State.hostWrite_memWf (s : State) (w : RegPort) (off : Nat) (data : List Byte) (reads : List HostRead) (hm : Memory.wf s.mem = true) : Memory.wf (State.hostWrite s w off data reads).mem = true := by
  unfold State.hostWrite
  repeat' (first
    | with_reducible assumption
    | with_reducible apply State.stage_memWf
    | with_reducible apply State.bump_memWf
    | with_reducible apply State.holdWrite_memWf
    | with_reducible apply State.send_memWf
    | with_reducible apply State.hostReg_memWf
    | with_reducible refine foldl_memWf _ _ _ ?_ ?_
    | with_reducible refine foldl_memWf_fst _ _ _ ?_ ?_
    | with_reducible refine ite_memWf ?_ ?_
    | with_reducible apply Mem.setBytes_wf
    | with_reducible apply SMap.filter_wf
    | intro _
    | split
    | dsimp only)
theorem State.hostApply_memWf (s : State) (ap : Nat) (v : Nat) (hm : Memory.wf s.mem = true) : Memory.wf (State.hostApply s ap v).mem = true := by
  unfold State.hostApply
  repeat' (first
    | with_reducible assumption
    | with_reducible apply State.hostWrite_memWf
    | with_reducible refine foldl_memWf _ _ _ ?_ ?_
    | with_reducible refine foldl_memWf_fst _ _ _ ?_ ?_
    | with_reducible refine ite_memWf ?_ ?_
    | with_reducible apply Mem.setBytes_wf
    | with_reducible apply SMap.filter_wf
    | intro _
    | split
    | dsimp only)
theorem State.stopRing_memWf (s : State) (f : Nat) (k : Nat) (code : Byte) (hm : Memory.wf s.mem = true) : Memory.wf (State.stopRing s f k code).mem = true := by
  unfold State.stopRing
  repeat' (first
    | with_reducible assumption
    | with_reducible apply State.setRing_memWf
    | with_reducible refine foldl_memWf _ _ _ ?_ ?_
    | with_reducible refine foldl_memWf_fst _ _ _ ?_ ?_
    | with_reducible refine ite_memWf ?_ ?_
    | with_reducible apply Mem.setBytes_wf
    | with_reducible apply SMap.filter_wf
    | intro _
    | split
    | dsimp only)
theorem State.doorbell_memWf (s : State) (f : Nat) (k : Nat) (v : Nat) (hm : Memory.wf s.mem = true) : Memory.wf (State.doorbell s f k v).mem = true := by
  unfold State.doorbell
  repeat' (first
    | with_reducible assumption
    | with_reducible apply State.stage_memWf
    | with_reducible apply State.bump_memWf
    | with_reducible apply State.setRing_memWf
    | with_reducible apply State.stopRing_memWf
    | with_reducible refine foldl_memWf _ _ _ ?_ ?_
    | with_reducible refine foldl_memWf_fst _ _ _ ?_ ?_
    | with_reducible refine ite_memWf ?_ ?_
    | with_reducible apply Mem.setBytes_wf
    | with_reducible apply SMap.filter_wf
    | intro _
    | split
    | dsimp only)
theorem State.pageWrite_memWf (s : State) (f : Nat) (off : Nat) (data : List Byte) (hm : Memory.wf s.mem = true) : Memory.wf (State.pageWrite s f off data).mem = true := by
  unfold State.pageWrite
  repeat' (first
    | with_reducible assumption
    | with_reducible apply State.bump_memWf
    | with_reducible apply State.doorbell_memWf
    | with_reducible refine foldl_memWf _ _ _ ?_ ?_
    | with_reducible refine foldl_memWf_fst _ _ _ ?_ ?_
    | with_reducible refine ite_memWf ?_ ?_
    | with_reducible apply Mem.setBytes_wf
    | with_reducible apply SMap.filter_wf
    | intro _
    | split
    | dsimp only)
theorem State.doorbellWrite_memWf (s : State) (f : Nat) (off : Nat) (data : List Byte) (hm : Memory.wf s.mem = true) : Memory.wf (State.doorbellWrite s f off data).mem = true := by
  unfold State.doorbellWrite
  repeat' (first
    | with_reducible assumption
    | with_reducible apply State.stage_memWf
    | with_reducible apply State.bump_memWf
    | with_reducible apply State.holdWrite_memWf
    | with_reducible apply State.send_memWf
    | with_reducible apply State.doorbell_memWf
    | with_reducible apply State.pageWrite_memWf
    | with_reducible refine foldl_memWf _ _ _ ?_ ?_
    | with_reducible refine foldl_memWf_fst _ _ _ ?_ ?_
    | with_reducible refine ite_memWf ?_ ?_
    | with_reducible apply Mem.setBytes_wf
    | with_reducible apply SMap.filter_wf
    | intro _
    | split
    | dsimp only)
theorem State.ringStep_memWf (s : State) (f : Nat) (k : Nat) (hm : Memory.wf s.mem = true) : Memory.wf (State.ringStep s f k).mem = true := by
  unfold State.ringStep
  repeat' (first
    | with_reducible assumption
    | with_reducible apply State.setRing_memWf
    | with_reducible refine foldl_memWf _ _ _ ?_ ?_
    | with_reducible refine foldl_memWf_fst _ _ _ ?_ ?_
    | with_reducible refine ite_memWf ?_ ?_
    | with_reducible apply Mem.setBytes_wf
    | with_reducible apply SMap.filter_wf
    | intro _
    | split
    | dsimp only)
theorem State.writeBack_memWf (s : State) (f : Nat) (k : Nat) (hm : Memory.wf s.mem = true) : Memory.wf (State.writeBack s f k).mem = true := by
  unfold State.writeBack
  repeat' (first
    | with_reducible assumption
    | with_reducible apply State.send_memWf
    | with_reducible apply State.hostWrite_memWf
    | with_reducible refine foldl_memWf _ _ _ ?_ ?_
    | with_reducible refine foldl_memWf_fst _ _ _ ?_ ?_
    | with_reducible refine ite_memWf ?_ ?_
    | with_reducible apply Mem.setBytes_wf
    | with_reducible apply SMap.filter_wf
    | intro _
    | split
    | dsimp only)
theorem State.deliverDescriptors_memWf (s : State) (f : Nat) (k : Nat) (q : Nat) (z0 : List (List Byte)) (hm : Memory.wf s.mem = true) : Memory.wf (State.deliverDescriptors s f k q z0).mem = true := by
  induction z0 generalizing s with
  | nil => exact hm
  | cons d ds ih =>
    unfold State.deliverDescriptors
    dsimp only
    refine ite_memWf hm (ite_memWf hm ?_)
    exact ih _ (State.setRing_memWf _ _ _ _ (State.ringStep_memWf _ _ _ (State.unitPut_memWf _ _ _ (State.unitPut_memWf _ _ _ hm))))
theorem State.bar4Refused_memWf (s : State) (write : Bool) (hm : Memory.wf s.mem = true) : Memory.wf (State.bar4Refused s write).mem = true := by
  unfold State.bar4Refused
  repeat' (first
    | with_reducible assumption
    | with_reducible apply State.send_memWf
    | with_reducible refine foldl_memWf _ _ _ ?_ ?_
    | with_reducible refine foldl_memWf_fst _ _ _ ?_ ?_
    | with_reducible refine ite_memWf ?_ ?_
    | with_reducible apply Mem.setBytes_wf
    | with_reducible apply SMap.filter_wf
    | intro _
    | split
    | dsimp only)
theorem State.hostRequest_memWf (s : State) (kind : ReqKind) (id : Nat) (job : BitVec 16) (m : Nat) (slot : Nat) (key : Nat) (off : Nat) (va : Nat) (pa : Nat) (n : Nat) (payload : List Byte) (hm : Memory.wf s.mem = true) : ∀ t, (State.hostRequest s kind id job m slot key off va pa n payload) = .ok t → Memory.wf t.mem = true := by
  intro t hr
  unfold State.hostRequest at hr
  repeat' (first
    | with_reducible assumption
    | with_reducible refine State.request_memWf_eq ‹_› ?_
    | with_reducible refine foldl_memWf _ _ _ ?_ ?_
    | with_reducible refine foldl_memWf_fst _ _ _ ?_ ?_
    | with_reducible refine ite_memWf ?_ ?_
    | with_reducible apply Mem.setBytes_wf
    | with_reducible apply SMap.filter_wf
    | intro _
    | cases hr
    | split at hr
    | dsimp only at hr
    | split
    | dsimp only)
theorem State.hostRequest_memWf_eq {s : State} {kind : ReqKind} {id : Nat} {job : BitVec 16} {m : Nat} {slot : Nat} {key : Nat} {off : Nat} {va : Nat} {pa : Nat} {n : Nat} {payload : List Byte} {t} (hr : State.hostRequest s kind id job m slot key off va pa n payload = .ok t) (hm : Memory.wf s.mem = true) : Memory.wf t.mem = true := State.hostRequest_memWf s kind id job m slot key off va pa n payload hm t hr
theorem State.bar4Piece_memWf (s : State) (job : BitVec 16) (reads : List HostRead) (va : Nat) (pa : Nat) (bs : List Byte) (hm : Memory.wf s.mem = true) : Memory.wf (State.bar4Piece s job reads va pa bs).mem = true := by
  unfold State.bar4Piece
  repeat' (first
    | with_reducible assumption
    | with_reducible apply State.bump_memWf
    | with_reducible apply State.ramWrite_memWf
    | with_reducible apply State.writePiece_memWf
    | with_reducible apply State.writeReg_memWf
    | with_reducible refine State.hostRequest_memWf_eq ‹_› ?_
    | with_reducible refine foldl_memWf _ _ _ ?_ ?_
    | with_reducible refine foldl_memWf_fst _ _ _ ?_ ?_
    | with_reducible refine ite_memWf ?_ ?_
    | with_reducible apply Mem.setBytes_wf
    | with_reducible apply SMap.filter_wf
    | intro _
    | split
    | dsimp only)
theorem State.hostFetch_memWf (s : State) (id : Nat) (job : BitVec 16) (va : Nat) (e : Nat × Nat) (hm : Memory.wf s.mem = true) : Memory.wf (State.hostFetch s id job va e).mem = true := by
  unfold State.hostFetch
  repeat' (first
    | with_reducible assumption
    | with_reducible apply State.hostReadArrives_memWf
    | with_reducible refine State.hostRequest_memWf_eq ‹_› ?_
    | with_reducible refine foldl_memWf _ _ _ ?_ ?_
    | with_reducible refine foldl_memWf_fst _ _ _ ?_ ?_
    | with_reducible refine ite_memWf ?_ ?_
    | with_reducible apply Mem.setBytes_wf
    | with_reducible apply SMap.filter_wf
    | intro _
    | split
    | dsimp only)
theorem State.beginHostRead_memWf (s : State) (job : BitVec 16) (va : Nat) (n : Nat) (hm : Memory.wf s.mem = true) : Memory.wf (State.beginHostRead s job va n).mem = true := by
  unfold State.beginHostRead
  repeat' (first
    | with_reducible assumption
    | with_reducible apply State.hostFetch_memWf
    | with_reducible refine foldl_memWf _ _ _ ?_ ?_
    | with_reducible refine foldl_memWf_fst _ _ _ ?_ ?_
    | with_reducible refine ite_memWf ?_ ?_
    | with_reducible apply Mem.setBytes_wf
    | with_reducible apply SMap.filter_wf
    | intro _
    | split
    | dsimp only)
theorem State.bar4Fault_memWf (s : State) (job : BitVec 16) (f : MemFail) (hm : Memory.wf s.mem = true) : Memory.wf (State.bar4Fault s job f).mem = true := by
  unfold State.bar4Fault
  repeat' (first
    | with_reducible assumption
    | with_reducible apply State.bump_memWf
    | with_reducible apply State.mmuFault_memWf
    | with_reducible refine foldl_memWf _ _ _ ?_ ?_
    | with_reducible refine foldl_memWf_fst _ _ _ ?_ ?_
    | with_reducible refine ite_memWf ?_ ?_
    | with_reducible apply Mem.setBytes_wf
    | with_reducible apply SMap.filter_wf
    | intro _
    | split
    | dsimp only)
theorem State.bar4_memWf (s : State) (f : Nat) (off : Nat) (n : Nat) (data : Option (List Byte)) (reads : List HostRead) (hm : Memory.wf s.mem = true) : Memory.wf (State.bar4 s f off n data reads).mem = true := by
  unfold State.bar4
  repeat' (first
    | with_reducible assumption
    | with_reducible apply State.bump_memWf
    | with_reducible apply State.send_memWf
    | with_reducible apply State.countRegion_memWf
    | with_reducible apply State.mmuFault_memWf
    | with_reducible apply State.readClears_memWf
    | with_reducible apply State.bar4Refused_memWf
    | with_reducible apply State.bar4Piece_memWf
    | with_reducible apply State.beginHostRead_memWf
    | with_reducible apply State.bar4Fault_memWf
    | with_reducible refine foldl_memWf _ _ _ ?_ ?_
    | with_reducible refine foldl_memWf_fst _ _ _ ?_ ?_
    | with_reducible refine ite_memWf ?_ ?_
    | with_reducible apply Mem.setBytes_wf
    | with_reducible apply SMap.filter_wf
    | intro _
    | split
    | dsimp only)
theorem State.disableRings_memWf (s : State) (f : Nat) (hm : Memory.wf s.mem = true) : Memory.wf (State.disableRings s f).mem = true := by
  unfold State.disableRings
  repeat' (first
    | with_reducible assumption
    | with_reducible refine foldl_memWf _ _ _ ?_ ?_
    | with_reducible refine foldl_memWf_fst _ _ _ ?_ ?_
    | with_reducible refine ite_memWf ?_ ?_
    | with_reducible apply Mem.setBytes_wf
    | with_reducible apply SMap.filter_wf
    | intro _
    | split
    | dsimp only)
theorem State.resetConfig_memWf (s : State) (k : Nat) (hm : Memory.wf s.mem = true) : Memory.wf (State.resetConfig s k).mem = true := by
  unfold State.resetConfig
  repeat' (first
    | with_reducible assumption
    | with_reducible refine foldl_memWf _ _ _ ?_ ?_
    | with_reducible refine foldl_memWf_fst _ _ _ ?_ ?_
    | with_reducible refine ite_memWf ?_ ?_
    | with_reducible apply Mem.setBytes_wf
    | with_reducible apply SMap.filter_wf
    | intro _
    | split
    | dsimp only)
theorem State.resetFunction_memWf (s : State) (f : Nat) (hm : Memory.wf s.mem = true) : Memory.wf (State.resetFunction s f).mem = true := by
  unfold State.resetFunction
  repeat' (first
    | with_reducible assumption
    | with_reducible apply State.discardWords_memWf
    | with_reducible apply State.resetConfig_memWf
    | with_reducible refine foldl_memWf _ _ _ ?_ ?_
    | with_reducible refine foldl_memWf_fst _ _ _ ?_ ?_
    | with_reducible refine ite_memWf ?_ ?_
    | with_reducible apply Mem.setBytes_wf
    | with_reducible apply SMap.filter_wf
    | intro _
    | split
    | dsimp only)
theorem State.functionReset_memWf (s : State) (w : RegPort) (hm : Memory.wf s.mem = true) : Memory.wf (State.functionReset s w).mem = true := by
  unfold State.functionReset
  repeat' (first
    | with_reducible assumption
    | with_reducible apply State.pf1Reset_memWf
    | with_reducible apply State.resetConfig_memWf
    | with_reducible apply State.resetFunction_memWf
    | with_reducible refine foldl_memWf _ _ _ ?_ ?_
    | with_reducible refine foldl_memWf_fst _ _ _ ?_ ?_
    | with_reducible refine ite_memWf ?_ ?_
    | with_reducible apply Mem.setBytes_wf
    | with_reducible apply SMap.filter_wf
    | intro _
    | split
    | dsimp only)
theorem State.enterD3hot_memWf (s : State) (w : RegPort) (hm : Memory.wf s.mem = true) : Memory.wf (State.enterD3hot s w).mem = true := by
  unfold State.enterD3hot
  repeat' (first
    | with_reducible assumption
    | with_reducible apply State.disableRings_memWf
    | with_reducible refine foldl_memWf _ _ _ ?_ ?_
    | with_reducible refine foldl_memWf_fst _ _ _ ?_ ?_
    | with_reducible refine ite_memWf ?_ ?_
    | with_reducible apply Mem.setBytes_wf
    | with_reducible apply SMap.filter_wf
    | intro _
    | split
    | dsimp only)
theorem State.writeField_memWf (s : State) (w : RegPort) (x : ConfigField) (v : Nat) (hm : Memory.wf s.mem = true) : Memory.wf (State.writeField s w x v).mem = true := by
  unfold State.writeField
  repeat' (first
    | with_reducible assumption
    | with_reducible apply State.enterD3hot_memWf
    | with_reducible refine foldl_memWf _ _ _ ?_ ?_
    | with_reducible refine foldl_memWf_fst _ _ _ ?_ ?_
    | with_reducible refine ite_memWf ?_ ?_
    | with_reducible apply Mem.setBytes_wf
    | with_reducible apply SMap.filter_wf
    | intro _
    | split
    | dsimp only)
theorem State.configWrite_memWf (s : State) (second : Bool) (w : RegPort) (o : Nat) (v : BitVec 32) (hm : Memory.wf s.mem = true) : Memory.wf (State.configWrite s second w o v).mem = true := by
  unfold State.configWrite
  repeat' (first
    | with_reducible assumption
    | with_reducible apply State.functionReset_memWf
    | with_reducible apply State.writeField_memWf
    | with_reducible refine foldl_memWf _ _ _ ?_ ?_
    | with_reducible refine foldl_memWf_fst _ _ _ ?_ ?_
    | with_reducible refine ite_memWf ?_ ?_
    | with_reducible apply Mem.setBytes_wf
    | with_reducible apply SMap.filter_wf
    | intro _
    | split
    | dsimp only)
theorem State.writeCut_memWf (s : State) (hm : Memory.wf s.mem = true) : Memory.wf (State.writeCut s).mem = true := by
  unfold State.writeCut
  repeat' (first
    | with_reducible assumption
    | with_reducible apply State.setRegFld_memWf
    | with_reducible apply State.ramWrite_memWf
    | with_reducible refine foldl_memWf _ _ _ ?_ ?_
    | with_reducible refine foldl_memWf_fst _ _ _ ?_ ?_
    | with_reducible refine ite_memWf ?_ ?_
    | with_reducible apply Mem.setBytes_wf
    | with_reducible apply SMap.filter_wf
    | intro _
    | split
    | dsimp only)
theorem State.replay_memWf (s : State) (h : HeldWrite) (reads : List HostRead) (hm : Memory.wf s.mem = true) : Memory.wf (State.replay s h reads).1.mem = true := by
  unfold State.replay
  repeat' (first
    | with_reducible assumption
    | with_reducible apply State.sqDoorbell_memWf
    | with_reducible apply State.cqDoorbell_memWf
    | with_reducible apply State.hostReg_memWf
    | with_reducible apply State.doorbell_memWf
    | with_reducible apply State.pageWrite_memWf
    | with_reducible apply State.bar4_memWf
    | with_reducible refine foldl_memWf _ _ _ ?_ ?_
    | with_reducible refine foldl_memWf_fst _ _ _ ?_ ?_
    | with_reducible refine ite_memWf ?_ ?_
    | with_reducible apply Mem.setBytes_wf
    | with_reducible apply SMap.filter_wf
    | intro _
    | split
    | dsimp only)
theorem State.replay_memWf_eq {s : State} {h : HeldWrite} {reads : List HostRead} {t} (hr : State.replay s h reads = t) (hm : Memory.wf s.mem = true) : Memory.wf t.1.mem = true := hr ▸ State.replay_memWf s h reads hm
theorem State.replayAll_memWf (s : State) (hs : List HeldWrite) (reads : List HostRead) (hm : Memory.wf s.mem = true) : Memory.wf (State.replayAll s hs reads).mem = true := by
  unfold State.replayAll
  repeat' (first
    | with_reducible assumption
    | with_reducible apply State.replay_memWf
    | with_reducible refine State.replay_memWf_eq ‹_› ?_
    | with_reducible refine foldl_memWf _ _ _ ?_ ?_
    | with_reducible refine foldl_memWf_fst _ _ _ ?_ ?_
    | with_reducible refine ite_memWf ?_ ?_
    | with_reducible apply Mem.setBytes_wf
    | with_reducible apply SMap.filter_wf
    | intro _
    | split
    | dsimp only)
theorem State.resumeNow_memWf (s : State) (reads : List HostRead) (hm : Memory.wf s.mem = true) : Memory.wf (State.resumeNow s reads).mem = true := by
  unfold State.resumeNow
  repeat' (first
    | with_reducible assumption
    | with_reducible apply State.setRegFld_memWf
    | with_reducible apply State.replayAll_memWf
    | with_reducible refine foldl_memWf _ _ _ ?_ ?_
    | with_reducible refine foldl_memWf_fst _ _ _ ?_ ?_
    | with_reducible refine ite_memWf ?_ ?_
    | with_reducible apply Mem.setBytes_wf
    | with_reducible apply SMap.filter_wf
    | intro _
    | split
    | dsimp only)
theorem State.resumeWrite_memWf (s : State) (reads : List HostRead) (hm : Memory.wf s.mem = true) : Memory.wf (State.resumeWrite s reads).mem = true := by
  unfold State.resumeWrite
  repeat' (first
    | with_reducible assumption
    | with_reducible apply State.resumeNow_memWf
    | with_reducible refine foldl_memWf _ _ _ ?_ ?_
    | with_reducible refine foldl_memWf_fst _ _ _ ?_ ?_
    | with_reducible refine ite_memWf ?_ ?_
    | with_reducible apply Mem.setBytes_wf
    | with_reducible apply SMap.filter_wf
    | intro _
    | split
    | dsimp only)
theorem State.hostWord_memWf (s : State) (w : RegPort) (o : Nat) (data : List Byte) (reads : List HostRead) (hm : Memory.wf s.mem = true) : Memory.wf (State.hostWord s w o data reads).mem = true := by
  unfold State.hostWord
  repeat' (first
    | with_reducible assumption
    | with_reducible apply State.stage_memWf
    | with_reducible apply State.hostWrite_memWf
    | with_reducible apply State.resumeWrite_memWf
    | with_reducible refine foldl_memWf _ _ _ ?_ ?_
    | with_reducible refine foldl_memWf_fst _ _ _ ?_ ?_
    | with_reducible refine ite_memWf ?_ ?_
    | with_reducible apply Mem.setBytes_wf
    | with_reducible apply SMap.filter_wf
    | intro _
    | split
    | dsimp only)
theorem State.accessFault_memWf (s : State) (n : CoreId) (va : Word) (code : Byte) (hm : Memory.wf s.mem = true) : Memory.wf (State.accessFault s n va code).mem = true := by
  unfold State.accessFault
  repeat' (first
    | with_reducible assumption
    | with_reducible apply State.mmuFault_memWf
    | with_reducible apply State.coreFault_memWf
    | with_reducible refine foldl_memWf _ _ _ ?_ ?_
    | with_reducible refine foldl_memWf_fst _ _ _ ?_ ?_
    | with_reducible refine ite_memWf ?_ ?_
    | with_reducible apply Mem.setBytes_wf
    | with_reducible apply SMap.filter_wf
    | intro _
    | split
    | dsimp only)
theorem State.missed_memWf (s : State) (n : CoreId) (pa : Nat) (hm : Memory.wf s.mem = true) : Memory.wf (State.missed s n pa).mem = true := by
  unfold State.missed
  repeat' (first
    | with_reducible assumption
    | with_reducible apply State.setCore_memWf
    | with_reducible refine foldl_memWf _ _ _ ?_ ?_
    | with_reducible refine foldl_memWf_fst _ _ _ ?_ ?_
    | with_reducible refine ite_memWf ?_ ?_
    | with_reducible apply Mem.setBytes_wf
    | with_reducible apply SMap.filter_wf
    | intro _
    | split
    | dsimp only)
theorem State.streamUse_memWf (s : State) (n : CoreId) (pa : Nat) (home : Nat) (hm : Memory.wf s.mem = true) : Memory.wf (State.streamUse s n pa home).mem = true := by
  unfold State.streamUse
  repeat' (first
    | with_reducible assumption
    | with_reducible apply State.useLines_memWf
    | with_reducible apply State.trimStream_memWf
    | with_reducible apply State.missed_memWf
    | with_reducible refine foldl_memWf _ _ _ ?_ ?_
    | with_reducible refine foldl_memWf_fst _ _ _ ?_ ?_
    | with_reducible refine ite_memWf ?_ ?_
    | with_reducible apply Mem.setBytes_wf
    | with_reducible apply SMap.filter_wf
    | intro _
    | split
    | dsimp only)
theorem State.loaded_memWf (s : State) (n : CoreId) (rd : GReg) (va : Word) (v : Word) (bad : Bool) (hm : Memory.wf s.mem = true) : Memory.wf (State.loaded s n rd va v bad).mem = true := by
  unfold State.loaded
  repeat' (first
    | with_reducible assumption
    | with_reducible apply State.setCore_memWf
    | with_reducible apply State.writeG_memWf
    | with_reducible apply State.accessFault_memWf
    | with_reducible refine foldl_memWf _ _ _ ?_ ?_
    | with_reducible refine foldl_memWf_fst _ _ _ ?_ ?_
    | with_reducible refine ite_memWf ?_ ?_
    | with_reducible apply Mem.setBytes_wf
    | with_reducible apply SMap.filter_wf
    | intro _
    | split
    | dsimp only)
theorem State.askPool_memWf (s : State) (n : CoreId) (kind : ReqKind) (rd : GReg) (bytes : Nat) (sx : Bool) (va : Word) (off : Nat) (r : Req) (typ : Byte) (payload : List Byte) (hm : Memory.wf s.mem = true) : Memory.wf (State.askPool s n kind rd bytes sx va off r typ payload).mem = true := by
  unfold State.askPool
  repeat' (first
    | with_reducible assumption
    | with_reducible apply State.setCore_memWf
    | with_reducible refine State.request_memWf_eq ‹_› ?_
    | with_reducible apply State.accessFault_memWf
    | with_reducible refine foldl_memWf _ _ _ ?_ ?_
    | with_reducible refine foldl_memWf_fst _ _ _ ?_ ?_
    | with_reducible refine ite_memWf ?_ ?_
    | with_reducible apply Mem.setBytes_wf
    | with_reducible apply SMap.filter_wf
    | intro _
    | split
    | dsimp only)
theorem State.loadRemote_memWf (s : State) (c : CoreId) (rd : GReg) (va : Word) (n : Nat) (sx : Bool) (cache : Bool) (pa : Nat) (m : Nat) (slot : Nat) (key : Nat) (off : Nat) (hm : Memory.wf s.mem = true) : Memory.wf (State.loadRemote s c rd va n sx cache pa m slot key off).mem = true := by
  unfold State.loadRemote
  repeat' (first
    | with_reducible assumption
    | with_reducible apply State.useLines_memWf
    | with_reducible apply State.missed_memWf
    | with_reducible apply State.loaded_memWf
    | with_reducible apply State.askPool_memWf
    | with_reducible refine foldl_memWf _ _ _ ?_ ?_
    | with_reducible refine foldl_memWf_fst _ _ _ ?_ ?_
    | with_reducible refine ite_memWf ?_ ?_
    | with_reducible apply Mem.setBytes_wf
    | with_reducible apply SMap.filter_wf
    | intro _
    | split
    | dsimp only)
theorem State.loadAt_memWf (s : State) (c : CoreId) (rd : GReg) (va : Word) (n : Nat) (sx : Bool) (p : Except Byte Place) (hm : Memory.wf s.mem = true) : Memory.wf (State.loadAt s c rd va n sx p).mem = true := by
  unfold State.loadAt
  repeat' (first
    | with_reducible assumption
    | with_reducible apply State.countFlashReads_memWf
    | with_reducible apply State.writeG_memWf
    | with_reducible apply State.readClears_memWf
    | with_reducible apply State.accessFault_memWf
    | with_reducible apply State.streamUse_memWf
    | with_reducible apply State.loaded_memWf
    | with_reducible apply State.loadRemote_memWf
    | with_reducible refine foldl_memWf _ _ _ ?_ ?_
    | with_reducible refine foldl_memWf_fst _ _ _ ?_ ?_
    | with_reducible refine ite_memWf ?_ ?_
    | with_reducible apply Mem.setBytes_wf
    | with_reducible apply SMap.filter_wf
    | intro _
    | split
    | dsimp only)
theorem State.advanceIf_memWf (s : State) (c : CoreId) (job : BitVec 16) (hm : Memory.wf s.mem = true) : Memory.wf (State.advanceIf s c job).mem = true := by
  unfold State.advanceIf
  repeat' (first
    | with_reducible assumption
    | with_reducible apply State.advance_memWf
    | with_reducible refine foldl_memWf _ _ _ ?_ ?_
    | with_reducible refine foldl_memWf_fst _ _ _ ?_ ?_
    | with_reducible refine ite_memWf ?_ ?_
    | with_reducible apply Mem.setBytes_wf
    | with_reducible apply SMap.filter_wf
    | intro _
    | split
    | dsimp only)
theorem State.storeAt_memWf (s : State) (c : CoreId) (va : Word) (bs : List Byte) (p : Except Byte Place) (hm : Memory.wf s.mem = true) : Memory.wf (State.storeAt s c va bs p).mem = true := by
  unfold State.storeAt
  repeat' (first
    | with_reducible assumption
    | with_reducible apply State.setCore_memWf
    | with_reducible apply State.ramWrite_memWf
    | with_reducible apply State.poolWrite_memWf
    | with_reducible apply State.advance_memWf
    | with_reducible apply State.writeReg_memWf
    | with_reducible apply State.accessFault_memWf
    | with_reducible apply State.advanceIf_memWf
    | with_reducible refine foldl_memWf _ _ _ ?_ ?_
    | with_reducible refine foldl_memWf_fst _ _ _ ?_ ?_
    | with_reducible refine ite_memWf ?_ ?_
    | with_reducible apply Mem.setBytes_wf
    | with_reducible apply SMap.filter_wf
    | intro _
    | split
    | dsimp only)
theorem State.amoAt_memWf (s : State) (c : CoreId) (rd : GReg) (va : Word) (fn : Nat) (b : Word) (old0 : Word) (p : Except Byte Place) (hm : Memory.wf s.mem = true) : Memory.wf (State.amoAt s c rd va fn b old0 p).mem = true := by
  unfold State.amoAt
  repeat' (first
    | with_reducible assumption
    | with_reducible apply State.ramWrite_memWf
    | with_reducible apply State.dropHome_memWf
    | with_reducible apply State.writeG_memWf
    | with_reducible apply State.accessFault_memWf
    | with_reducible apply State.askPool_memWf
    | with_reducible refine foldl_memWf _ _ _ ?_ ?_
    | with_reducible refine foldl_memWf_fst _ _ _ ?_ ?_
    | with_reducible refine ite_memWf ?_ ?_
    | with_reducible apply Mem.setBytes_wf
    | with_reducible apply SMap.filter_wf
    | intro _
    | split
    | dsimp only)
theorem State.grant_memWf (s : State) (e : Nat) (k : Candidate) (c : Cmd) (hm : Memory.wf s.mem = true) : Memory.wf (State.grant s e k c).mem = true := by
  unfold State.grant
  repeat' (first
    | with_reducible assumption
    | with_reducible apply State.flowFills_memWf
    | with_reducible apply State.flowServes_memWf
    | with_reducible apply State.setCmd_memWf
    | with_reducible apply State.drawn_memWf
    | with_reducible refine foldl_memWf _ _ _ ?_ ?_
    | with_reducible refine foldl_memWf_fst _ _ _ ?_ ?_
    | with_reducible refine ite_memWf ?_ ?_
    | with_reducible apply Mem.setBytes_wf
    | with_reducible apply SMap.filter_wf
    | intro _
    | split
    | dsimp only)
theorem State.grantPf1_memWf (s : State) (k : Candidate) (c : NvmeCmd) (hm : Memory.wf s.mem = true) : Memory.wf (State.grantPf1 s k c).mem = true := by
  unfold State.grantPf1
  repeat' (first
    | with_reducible assumption
    | with_reducible apply State.flowServes_memWf
    | with_reducible apply State.drawn_memWf
    | with_reducible apply State.setNvme_memWf
    | with_reducible refine foldl_memWf _ _ _ ?_ ?_
    | with_reducible refine foldl_memWf_fst _ _ _ ?_ ?_
    | with_reducible refine ite_memWf ?_ ?_
    | with_reducible apply Mem.setBytes_wf
    | with_reducible apply SMap.filter_wf
    | intro _
    | split
    | dsimp only)
theorem State.begin_memWf (s0 : State) (c0 : Cmd) (hm : Memory.wf s0.mem = true) : Memory.wf (State.begin s0 c0).mem = true := by
  unfold State.begin
  repeat' (first
    | with_reducible assumption
    | with_reducible apply State.setCmd_memWf
    | with_reducible apply State.fetch_memWf
    | with_reducible apply State.workDone_memWf
    | with_reducible apply State.kernelStopped_memWf
    | with_reducible apply State.failWork_memWf
    | with_reducible apply State.beginMerge_memWf
    | with_reducible apply State.zinBegin_memWf
    | with_reducible refine foldl_memWf _ _ _ ?_ ?_
    | with_reducible refine foldl_memWf_fst _ _ _ ?_ ?_
    | with_reducible refine ite_memWf ?_ ?_
    | with_reducible apply Mem.setBytes_wf
    | with_reducible apply SMap.filter_wf
    | intro _
    | split
    | dsimp only)
theorem State.numericEvents_memWf (s : State) (result : BitVec 32) (hm : Memory.wf s.mem = true) : Memory.wf (State.numericEvents s result).mem = true := by
  unfold State.numericEvents
  repeat' (first
    | with_reducible assumption
    | with_reducible apply State.setReg_memWf
    | with_reducible apply State.bump_memWf
    | with_reducible refine foldl_memWf _ _ _ ?_ ?_
    | with_reducible refine foldl_memWf_fst _ _ _ ?_ ?_
    | with_reducible refine ite_memWf ?_ ?_
    | with_reducible apply Mem.setBytes_wf
    | with_reducible apply SMap.filter_wf
    | intro _
    | split
    | dsimp only)
theorem State.maskTime_memWf (s : State) (c : Cmd) (hm : Memory.wf s.mem = true) : Memory.wf (State.maskTime s c).mem = true := by
  unfold State.maskTime
  repeat' (first
    | with_reducible assumption
    | with_reducible apply State.bump_memWf
    | with_reducible refine foldl_memWf _ _ _ ?_ ?_
    | with_reducible refine foldl_memWf_fst _ _ _ ?_ ?_
    | with_reducible refine ite_memWf ?_ ?_
    | with_reducible apply Mem.setBytes_wf
    | with_reducible apply SMap.filter_wf
    | intro _
    | split
    | dsimp only)
theorem State.complete_memWf (s : State) (c : Cmd) (status : Byte) (result : BitVec 32) (hm : Memory.wf s.mem = true) : Memory.wf (State.complete s c status result).mem = true := by
  unfold State.complete
  repeat' (first
    | with_reducible assumption
    | with_reducible apply State.dropCmd_memWf
    | with_reducible apply State.finish_memWf
    | with_reducible apply State.kernelDone_memWf
    | with_reducible apply State.numericEvents_memWf
    | with_reducible apply State.maskTime_memWf
    | with_reducible refine foldl_memWf _ _ _ ?_ ?_
    | with_reducible refine foldl_memWf_fst _ _ _ ?_ ?_
    | with_reducible refine ite_memWf ?_ ?_
    | with_reducible apply Mem.setBytes_wf
    | with_reducible apply SMap.filter_wf
    | intro _
    | split
    | dsimp only)
theorem State.withFetchWord_memWf (s : State) (nbits : Nat) (w : Nat) (hm : Memory.wf s.mem = true) : Memory.wf (State.withFetchWord s nbits w).mem = true := by
  unfold State.withFetchWord
  repeat' (first
    | with_reducible assumption
    | with_reducible refine foldl_memWf _ _ _ ?_ ?_
    | with_reducible refine foldl_memWf_fst _ _ _ ?_ ?_
    | with_reducible refine ite_memWf ?_ ?_
    | with_reducible apply Mem.setBytes_wf
    | with_reducible apply SMap.filter_wf
    | intro _
    | split
    | dsimp only)

end Sys2Proof.Machine
end

