-- ==== Sys2Proof/Tests/Slice0.lean ====
section
/-!
SUPPORT. The model's own tests: operands that are refused, words of the control cores' encodings, single steps on small states, and for
every statement with hypotheses states and operands that meet them.
-/

set_option maxRecDepth 20000
set_option exponentiation.threshold 1000

namespace Sys2Proof.Tests
open Sys2Proof Sys2Proof.Machine

/-! ### Small states -/

/-- A module that has reached stage n. -/
def atStage (n : Nat) : State := { State.reset with start := { Start.reset with stage := n } }

/-- Job 1 of group 0, running on core 0, its status record at host address 0x1000. -/
def job1 : Job :=
  { id := 1, group := 0, prio := 1, imemSave := false, nPeony := 1, nLupin := 0, faultQ := 0, faultEn := false, imageAddr := 0
    imageBytes := 4, image := [0, 0, 0, 0], entry := 0, root := 0, statusAddr := 0x1000, live := [], port := 0, state := .running
    endCode := 0, killed := false, preempts := 0, tSubmit := 0, tStart := some 0, tEnd := 0, waitNs := 0, waitSince := none
    lastSave := 0, lastRestore := 0, landed := 0, restarts := 0, placed := [0], order := 0, phaseSince := 0, saved := none
    restartTimes := [] }

/-- A core of job 1 whose registers g1, g2, g3 hold a, b, c. -/
def coreOf (a b c : Word) : Core := { Core.idle with g := [(1, a), (2, b), (3, c)], state := .running, job := 1 }

/-- Job 1 runs on core 0, which is k. -/
def runs (k : Core) : State := { atStage 5 with cores := [(0, k)], jobs := [job1] }

/-- An unguarded instruction. -/
def always : Guard := { pg := 0, pn := false }

/-- A guard that is false while p1 = 0. -/
def ifP1 : Guard := { pg := 1, pn := false }

/-- A command word of the opcode and class, with the payload from byte 16 on (SLOT 0, no notify). -/
def wordOf (cls op : Nat) (payload : List Byte) : List Byte :=
  [BitVec.ofNat 8 op, BitVec.ofNat 8 cls] ++ zeros 14 ++ payload ++ zeros (48 - payload.length)

/-- Command 0 of core 0, of this class, instance and word, in a phase. -/
def cmd0 (cls inst : Nat) (word : List Byte) (p : Phase) : Cmd :=
  { id := 0, cls := cls, inst := inst, core := 0, job := 1, group := 0, word := word, phase := p, since := 0, started := 0, descs := []
    granted := true, suspended := false, session := 0, mayWrite := none, pool := [] }

/-- Job 1 runs on core 0 and has the one command. -/
def withCmd (c : Cmd) : State := { runs (coreOf 0 0 0) with cmds := [c], nextCmd := 1 }


/-- Is the answer .ok a? -/
def okIs {ε α : Type} [DecidableEq α] (x : Except ε α) (a : α) : Bool :=
  match x with
  | .ok b => decide (b = a)
  | .error _ => false

theorem ok_of {ε α : Type} [DecidableEq α] {x : Except ε α} {a : α} (h : okIs x a = true) : x = .ok a := by
  cases x with
  | ok b => simpa [okIs] using h
  | error _ => simp [okIs] at h

/-- Is the answer an error with code c? -/
def errIs {ε α : Type} [DecidableEq ε] (x : Except ε α) (c : ε) : Bool :=
  match x with
  | .error d => decide (d = c)
  | .ok _ => false

theorem err_of {ε α : Type} [DecidableEq ε] {x : Except ε α} {c : ε} (h : errIs x c = true) : x = .error c := by
  cases x with
  | error d => simpa [errIs] using h
  | ok _ => simp [errIs] at h

/-! ### Operands that no sender the spec knows can send -/

theorem test_illFormed_stops : exec (.junctionOverheat 5) State.reset = .fault .illFormed := rfl
theorem test_illFormed_illegalInstruction : (Instr.illegalInstruction 0 0x004A5001).wf = false := by decide
theorem test_illFormed_engineDispatch : (Instr.engineDispatch 1).wf = false ∧ (Instr.engineDispatch 9).wf = false := by decide
theorem test_illFormed_slotUnload : (Instr.slotUnload false 16).wf = false ∧ (Instr.slotUnload true 63).wf = true := by decide
theorem test_illFormed_registerWrite : (Instr.registerWrite (.fn 258) 0 [] []).wf = false := by decide
theorem test_illFormed_readClear : (Instr.readClear (.fn 258) 0 4).wf = false ∧ (Instr.readClear .pf1 0 4).wf = true := by decide
theorem test_illFormed_doorbells : (Instr.submissionDoorbell 1 4096 []).wf = false ∧ (Instr.completionDoorbell 258 0 []).wf = false := by decide
theorem test_illFormed_rings : (Instr.descriptorFetch 258 0 .abort).wf = false ∧ (Instr.ringRecordWrite 258 0).wf = false := by decide
theorem test_illFormed_bar4Access : (Instr.bar4Access 0 0 4 (some [0])).wf = false ∧ (Instr.bar4Access 258 0 4 none).wf = false := by decide
theorem test_illFormed_functions : (Instr.ifSelect 258 0).wf = false ∧ (Instr.flr (.fn 258)).wf = false ∧ (Instr.d3hotEntry (.fn 258)).wf = false ∧
    (Instr.configRequest false (.fn 258) 0 none).wf = false := by decide
theorem test_illFormed_ports : (Instr.flitReceive 0 [0] 0 0).wf = false ∧ (Instr.fastRetrain 0 3 false).wf = false ∧
    (Instr.portTrained 0 0 false).wf = false := by decide
theorem test_illFormed_scrub : (Instr.scrub 0 0 3).wf = false ∧ (Instr.scrub 0 0 2).wf = true := by decide
theorem test_illFormed_powerLoopSample :
    (Instr.powerLoopSample { watts := 0, mv := 0, target := 0, hub := 0, tj := [], cycle := [], stops := 0 }).wf = false := by decide
theorem test_illFormed_valveIteration : (Instr.valveIteration { flow := 0, tIn := 0, tOut := 0, loopBad := false } 101).wf = false := by decide

/-! ### Words of the control cores' encodings (Tables 3.2–3.6) -/

theorem test_decode_addi : fjorInstr 0 0x004A5001 true = some (.addi 0 always 5 5 1) := by decide
theorem test_decode_cmpi : fjorInstr 0 0x02A12840 true = some (.cmpi 0 always 4 1 5 64) := by decide
theorem test_decode_b : fjorInstr 0 0x23DFFFFE true = some (.b 0 ifP1 false (BitVec.ofInt 21 (-2)) true) := by decide
theorem test_decode_enq : fjorInstr 0 0x05506000 true = some (.enq 0 always 8 6 false 0 0) := by decide
theorem test_decode_wait : fjorInstr 0 0x05A81800 true = some (.wait 0 always 20 3 false 0 0) := by decide
theorem test_decode_fenceS : fjorInstr 0 0x05C00393 true = some (.fenceS 0 always 0 0 0 7) := by decide
theorem test_decode_add : fjorInstr 0 0b00000000000001100001000100000000 true = some (.add 0 always 3 1 2) := by decide
theorem test_decode_undefined : fjorInstr 0 0x06000000 true = none ∧ fjorInstr 0 0x0000000F true = none ∧ fjorInstr 0 0x05C00005 true = none := by
  decide

/-! ### Single steps -/

/-- What a state after a step holds; false where the step gave no state. -/
def after (o : Host.Outcome State Fault Refusal) (p : State → Bool) : Bool :=
  match o with
  | .next t => p t
  | _ => false

theorem test_add_wraps : after (exec (.add 0 always 3 1 2) (runs (coreOf (-1) 2 0))) (fun t => (t.core 0).greg 3 = 1 && (t.core 0).pc = 4) = true := by
  decide
theorem test_g0_discards : after (exec (.add 0 always 0 1 2) (runs (coreOf 1 2 0))) (fun t => (t.core 0).greg 0 = 0 && (t.core 0).pc = 4) = true := by
  decide
theorem test_mulh_negative : after (exec (.mulh 0 always 3 1 2) (runs (coreOf (-1) 2 0))) (fun t => (t.core 0).greg 3 = -1) = true := by decide
theorem test_sra_low_bits : after (exec (.sra 0 always 3 1 2) (runs (coreOf (-8) 65 0))) (fun t => (t.core 0).greg 3 = -4) = true := by decide
theorem test_movkH_keeps : after (exec (.movkH 0 always 3 true 0xABCD) (runs (coreOf 0 0 0x1111222233334444)))
    (fun t => (t.core 0).greg 3 = 0xABCD222233334444) = true := by decide
theorem test_false_guard : after (exec (.add 0 ifP1 3 1 2) (runs (coreOf 1 2 7))) (fun t => (t.core 0).greg 3 = 7 && (t.core 0).pc = 4) = true := by
  decide
theorem test_cmp_unsigned : after (exec (.cmp 0 always 1 1 2 4) (runs (coreOf 1 (-1) 0))) (fun t => (t.core 0).pred 1) = true := by decide
theorem test_branch_back : after (exec (.b 0 always false (BitVec.ofInt 21 (-1)) true) (runs { coreOf 0 0 0 with pc := 8 }))
    (fun t => (t.core 0).pc = 4) = true := by decide
theorem test_branch_below_memory : after (exec (.b 0 always false (BitVec.ofInt 21 (-1)) true) (runs (coreOf 0 0 0)))
    (fun t => (t.core 0).state = .faulted && (t.core 0).faultCode = 0x2A && (t.core 0).pc = 0) = true := by decide
theorem test_last_word : after (exec (.nop 0 always 0 0 0 0) (runs { coreOf 0 0 0 with pc := 0x3FFFC }))
    (fun t => (t.core 0).faultCode = 0x2A && (t.core 0).pc = 0x3FFFC) = true := by decide
theorem test_misaligned_load : after (exec (.ld 0 always 3 1 3 false 0) (runs (coreOf 4 0 0))) (fun t => (t.core 0).faultCode = 0x29) = true := by
  decide
theorem test_illegal_qput : after (exec (.qput 0 always 2 1 0 false false 0 0 0) (runs (coreOf 0 0 0))) (fun t => (t.core 0).faultCode = 0x28) = true := by
  decide
theorem test_wait_free_slot : after (exec (.wait 0 always 3 5 true 2 0) (runs (coreOf 0 0 9))) (fun t => (t.core 0).greg 3 = 0 && !((t.core 0).pred 2)) =
    true := by decide
theorem test_coreid : after (exec (.coreid 0 always 3 0 0 0) (runs (coreOf 0 0 0))) (fun t => (t.core 0).greg 3 = 0x100000000) = true := by decide
theorem test_idle_core_does_nothing : after (exec (.add 1 always 3 1 2) (runs (coreOf 0 0 0))) (fun t => decide (t = runs (coreOf 0 0 0))) = true := by
  decide
theorem test_tick : after (step (atStage 5)) (fun t => decide (t = { atStage 5 with now := 1 })) = true := by decide
theorem test_engine_nop : after (exec (.engineNop 0) (withCmd (cmd0 0 0 (wordOf 0 0 []) .started)))
    (fun t => (t.core 0).slot 0 = .done 0x100 && t.cmds = []) = true := by decide
theorem test_mctp_refused_kind : after (exec (.mctpRequest .smbus (.otherType 5)) (atStage 5)) (fun t => decide (t = atStage 5)) = true := by decide
theorem test_stop : after (exec (.stop 1) (atStage 5)) (fun t => t.stopped && t.regFld Reg.mgdCutStatus 0 2 = 1) = true := by decide
theorem test_segment_invalidation_waits : after (exec .segInvalDone { atStage 5 with segInval := some 0x10000 })
    (fun t => decide (t = atStage 5)) = true := by decide
theorem test_read_before_stage1 : after (exec (.readClear (.fn 0) 0 4) (atStage 0))
    (fun t => decide (t = (atStage 0).send .unsupportedRequest)) = true := by decide
theorem test_unaligned_doorbell_counts : after (exec (.submissionDoorbell 0 64 [1, 0, 0, 0]) (atStage 5)) (fun t => t.regFld Reg.pciDbDrop 0 48 = 1) =
    true := by decide

/-! ### States and operands that meet the statements' hypotheses -/

/-- A core at its first word with small registers. -/
def s0 : State := runs (coreOf 5 3 7)

theorem ready_s0 (k : AheadKind) : Ready s0 0 always k := ⟨by decide, rfl, by decide, by decide⟩

theorem witness_AluResults : Ready s0 0 always .plain ∧ (0x03F#12).extractLsb' 8 4 = 0 ∧ (0x03F#12).extractLsb' 6 2 = 0 ∧
    (0x07F#12).extractLsb' 6 2 = 1 ∧ (0x0BF#12).extractLsb' 6 2 = 2 ∧ (0x0FF#12).extractLsb' 8 4 = 0 ∧ (0x0FF#12).extractLsb' 6 2 = 3 :=
  ⟨ready_s0 _, by decide⟩

theorem witness_PredicatesAndSystemReads : Ready s0 0 always .plain ∧ (7#5).extractLsb' 3 2 = 0 ∧ (5#7).toNat ≤ 5 ∧ (5#3).toNat ≤ 5 ∧
    (3#7).toNat ≤ 3 := ⟨ready_s0 _, by decide⟩

theorem witness_FalseGuardOnlyGoesOn : coreForm (.ld 0 ifP1 3 1 3 false 0) = some (0, ifP1, .load, true) ∧
    coreForm (.halt 0 ifP1 0 0 0 0) = some (0, ifP1, .never, true) ∧ unresolvedBranch (.b 0 ifP1 false 0 true) = false ∧
    s0.canIssue 0 = true ∧ (s0.core 0).aheadOk .load = true ∧ (s0.core 0).guard ifP1 = false ∧ (s0.core 0).pc ≠ lastPc := by decide

theorem witness_IllegalEncodingsFault : s0.canIssue 0 = true ∧ (s0.core 0).runAhead = none ∧ fjorInstr 0 0x06000000 true = none ∧
    coreForm (.cmp 0 always 8 1 2 0) = some (0, always, .plain, false) ∧ coreForm (.cmp 0 always 7 1 2 6) = some (0, always, .plain, false) := by
  decide

/-- A core that has gone on past an unresolved BL at address 0, as predicted or not. -/
def ahead (taken predicted : Bool) : State :=
  runs { coreOf 1 2 3 with
    pc := 8
    runAhead := some { taken := taken, predicted := predicted, branchPc := 0, target := 0x3FFFC, link := true, savedG := [(1, 5)], savedP := 0
                       instrs := 2, loads := 1, poison := none, errors := 0 } }

theorem witness_Branches :
    Ready (runs { coreOf 8 6 0 with pc := 0x3FFF8 }) 0 always .never ∧ ((0x3FFF8 : Int) + 4 * (1#21).toInt ≤ 0x3FFFC) ∧
    (0x3FFFC < (0x3FFF8 : Int) + 4 * (2#21).toInt) ∧ ((s0.core 0).pc.toNat : Int) + 4 * (-1#21).toInt < 0 ∧
    ((runs (coreOf 8 6 0)).core 0).greg 1 = 8 ∧ ((runs (coreOf 8 6 0)).core 0).greg 2 = 6 ∧
    s0.canIssue 0 = true ∧ (s0.core 0).runAhead = none ∧ ifP1.pg ≠ 0 ∧ s0.specOff 0 = false ∧
    (((ahead true true).core 0).runAhead.any (fun r => r.taken == r.predicted && r.poison.isNone)) = true ∧
    (((ahead false true).core 0).runAhead.any (fun r => !r.taken && r.predicted && decide (r.branchPc ≠ lastPc))) = true ∧
    (((ahead true false).core 0).runAhead.any (fun r => r.taken && !r.predicted && decide (0 ≤ r.target) && decide (r.target ≤ 0x3FFFC))) = true :=
  ⟨⟨by decide, by decide, by decide, by decide⟩, by decide⟩

/-- s0 with DBG_BRK_CFG of group 0 at v. -/
def brkCfg (v : Word) : State := s0.setReg (Reg.dbgBrkCfg 0) v

/-- s0 with the core waiting for b. -/
def waiting (b : Blocked) : State := runs { coreOf 5 3 7 with blocked := some b }

theorem witness_HaltBrkAndFences : Ready s0 0 always .never ∧ Ready (brkCfg 0x80000000) 0 always .never ∧ Ready (brkCfg 0xA0000000) 0 always .never ∧
    ((brkCfg 0x80000000).reg (Reg.dbgBrkCfg ((brkCfg 0x80000000).groupOfCore 0))).getLsbD 31 = true ∧
    ((brkCfg 0xA0000000).reg (Reg.dbgBrkCfg ((brkCfg 0xA0000000).groupOfCore 0))).getLsbD 29 = true ∧
    (brkCfg 0xA0000000).job ((brkCfg 0xA0000000).core 0).job = some job1 ∧ (withCmd (cmd0 0 0 (wordOf 0 1 []) .queued)).cmds ≠ [] ∧
    ((waiting (.fence .s 2)).core 0).blocked = some (.fence .s 2) ∧ (waiting (.fence .s 2)).issueHeld 0 = false ∧
    s0.cmds = [] ∧ s0.reqs = [] ∧ s0.recordsPending 0 = false ∧ (s0.core 0).pc ≠ lastPc ∧
    (((s0.setReg (Reg.stmQcfg 5) 0x0000000100000002).setQueue 5
      { StemQ.empty with words := [{ data := 0, last := true, tick := 0, origin := 1 }] }).recordsPending 0) = true :=
  ⟨ready_s0 _, ⟨by decide, by decide, by decide, by decide⟩, ⟨by decide, by decide, by decide, by decide⟩, by decide⟩

/-- Page tables at the start of shared SRAM: virtual 0 is the first GiB of HBM, 2^30 two MiB of shared SRAM, 2^30 + 2^21 two MiB of
core-local SRAM. -/
def tables : List Host.Cell :=
  Mem.setBytes (Mem.setBytes (Mem.setBytes [] sharedBase (toLE 8 (sharedBase + 4097))) (sharedBase + 4096)
    (toLE 8 (hbmBase + 7) ++ toLE 8 (sharedBase + 8193))) (sharedBase + 8192) (toLE 8 (sharedBase + 0x400007) ++ toLE 8 7)

/-- Job 1 runs on core 0, which is k, under those page tables. -/
def mapped (k : Core) : State := { runs k with mem := tables, jobs := [{ job1 with root := sharedBase }] }

/-- s with the bytes bs at HBM offset o (virtual address o under `tables`). -/
def withBytes (o : Nat) (bs : List Byte) (s : State) : State := { s with mem := Mem.setBytes s.mem (hbmBase + o) bs }

theorem witness_MemoryAccesses :
    Ready (mapped (coreOf 8 3 7)) 0 always .load ∧ Ready (mapped (coreOf 0x40200000 3 7)) 0 always .never ∧
    (mapped (coreOf 8 3 7)).translate 1 8 false = .ok (hbmBase + 8, false) ∧
    (mapped (coreOf 0x40200000 3 7)).translate 1 0x40200000 true = .ok (0, false) ∧
    ((mapped (coreOf 8 3 7)).barred (hbmBase + 8) = none ∧ isRam (hbmBase + 8) = true ∧ (mapped (coreOf 8 3 7)).poisoned (hbmBase + 8) 8 = false ∧
      isRam 0 = true ∧ (0x60#7).extractLsb' 0 2 = 0 ∧ (0x60#7).extractLsb' 4 3 ≠ 7 ∧ ((runs (coreOf 4 0 0)).core 0).greg 1 = 4 ∧
      2 ^ 48 ≤ (((runs (coreOf 0x1000000000000 0 0)).core 0).greg 1).toNat) :=
  ⟨⟨by decide, by decide, by decide, by decide⟩, ⟨by decide, by decide, by decide, by decide⟩, ok_of (by decide), ok_of (by decide), by decide⟩

/-- Queue q bound to job 1 for putting and getting. -/
def bound (q : Nat) (s : State) : State := s.setReg (Reg.stmQcfg q) 0x0001000100000001

/-- A word, and one with an end mark. -/
def word1 : QWord := { data := 7, last := false, tick := 0 }

/-- Queue 5, bound, holds x; core 0 is k. -/
def queueHolds (k : Core) (x : StemQ) : State := (bound 5 (runs k)).setQueue 5 x

/-- A core whose g2 names queue 5. -/
def putter : Core := { coreOf 0 5 7 with g := [(2, 5), (4, 1), (5, 2), (6, 3), (7, 4)] }

theorem witness_QueueInstructions :
    Ready (queueHolds putter StemQ.empty) 0 always .never ∧ (bound 5 (runs putter)).boundPut 5 1 = true ∧ (bound 5 (runs putter)).qBound 5 = true ∧
    (queueHolds putter StemQ.empty).hasRoom 5 = true ∧ ((runs putter).setReg (Reg.stmQcfg 5) 0x0002000100000001).boundPut 5 1 = true ∧
    ((runs putter).setReg (Reg.stmQcfg 5) 0x0002000100000001).qBound 5 = false ∧
    (queueHolds putter { StemQ.empty with words := [word1], pos := 1 }).boundGet 5 1 = true ∧ (runs putter).boundPut 5 1 = false ∧
    (runs putter).boundGet 5 1 = false ∧
    (((bound 5 (runs putter)).setReg (Reg.stmPartQuota 0) 0).hasRoom 5 = false) ∧ (4#5).toNat % 4 = 0 ∧ (4#5) ≠ 0 :=
  ⟨⟨by decide, rfl, by decide, by decide⟩, by decide⟩

theorem witness_WaitingQueueInstructions :
    let s := queueHolds { putter with blocked := some (.qput 5 false) } { StemQ.empty with waiting := [{ who := .core 0, word := word1 }] }
    let t := queueHolds { putter with blocked := some (.qget 5 4 1 false) } { StemQ.empty with words := [word1], pos := 1, getters := [0] }
    (s.core 0).pc ≠ lastPc ∧ s.issueHeld 0 = false ∧ s.qBound 5 = true ∧ s.hasRoom 5 = true ∧ t.issueHeld 0 = false ∧
    (t.queue 5).getters = [0] := by decide

/-- A core whose g8 to g15 hold the engine NOP of class 0 and whose g6 names queue 0 of class 0. -/
def enqueuer : Core := { coreOf 0 0 0 with g := [(8, 0x02000000)] }

/-- The engine NOP as the core's registers hold it. -/
def nopWord : List Byte := toLE 8 0x02000000 ++ zeros 56

theorem witness_EnqueueingAndWaiting :
    Ready (runs enqueuer) 0 always .never ∧ (runs enqueuer).canAccept 0 0 nopWord = true ∧ (runs enqueuer).acceptance 0 0 0 nopWord = none ∧
    (runs enqueuer).acceptance 0 0 0 (zeros 64) = some 0x23 ∧ (runs { enqueuer with slots := [(0, .busy)] }).canAccept 0 0 nopWord = false ∧
    (runs { enqueuer with blocked := some (.enq 0 nopWord) }).issueHeld 0 = false ∧ (enqueuer.slot 63 = .free) ∧
    ({ enqueuer with slots := [(63, .done 0x100)] } : Core).slot 63 = .done 0x100 :=
  ⟨⟨by decide, rfl, by decide, by decide⟩, by decide⟩

/-- A copy of 4 bytes from virtual 2^30 to 2^30 + 4, both in shared SRAM. -/
def copyCmd : Cmd := cmd0 0 0 (wordOf 0 5 (toLE 8 0x40000000 ++ toLE 8 0x40000004 ++ toLE 4 4)) .started

/-- Job 1 runs under `tables` with the one command. -/
def mappedCmd (c : Cmd) : State := { mapped (coreOf 0 0 0) with cmds := [c], nextCmd := 1 }

theorem witness_CommandsStartAndComplete :
    let s := withCmd (cmd0 0 0 nopWord .queued)
    let t := withCmd (cmd0 0 0 nopWord (.done 0 0))
    let copy : Cmd := { copyCmd with phase := .queued }
    let kernel : Cmd := { copy with mayWrite := some (0, 1) }
    let merge := cmd0 2 0 (wordOf 2 4 []) .queued
    let started := fun (c : Cmd) => (mappedCmd { c with phase := .started }).startCheck c.agent { c with phase := .started }
    s.startable (cmd0 0 0 nopWord .queued) = true ∧ s.cmd 0 = some (cmd0 0 0 nopWord .queued) ∧ (mappedCmd copy).startable copy = true ∧
    (withCmd merge).startable merge = true ∧ t.cmd 0 = some (cmd0 0 0 nopWord (.done 0 0)) ∧ t.stopped = false ∧ t.fatal = false ∧
    t.writesOpen 0 = false ∧ t.rowsOpen (cmd0 0 0 nopWord (.done 0 0)) = false ∧
    (match started { copy with word := wordOf 0 5 (toLE 8 0 ++ toLE 8 0x40000004 ++ [0]) } with | .zero => true | _ => false) = true ∧
    (match started copy with | .go ds => !(({ copy with descs := ds } : Cmd).writesOutside) | _ => false) = true ∧
    (match started kernel with | .go ds => ({ kernel with descs := ds } : Cmd).writesOutside | _ => false) = true ∧
    (match started { copy with word := wordOf 0 5 (toLE 8 0x80000000 ++ toLE 8 0x40000004 ++ [4]) } with
      | .fail f => f.awaits.isEmpty | _ => false) = true := by decide

theorem witness_SchedulerGrants :
    let c := { cmd0 2 0 (wordOf 2 1 []) .queued with granted := false }
    ((withCmd c).hubCandidates 2).any (fun x => shaperOpen x.shaper ((withCmd c).flow x.bucket) (withCmd c).now) = true := by decide

theorem witness_PeonyArrayCommands :
    let load := cmd0 0 0 (wordOf 0 1 []) .started
    let mma := cmd0 0 0 (wordOf 0 2 (zeros 30 ++ [0, 1])) .started
    let clear := cmd0 0 0 (wordOf 0 6 [0, 0, 1, 0, 0, 0, 0, 2]) .started
    okIs ((withCmd load).readable load.agent []) () = true ∧ mma.n 38 2 ≤ 512 ∧
    (withCmd load).peonyTurn load = true ∧ (withCmd load).working 0 0 1 = some load ∧ (withCmd mma).working 0 0 2 = some mma ∧ mma.df ≤ 2 ∧
    (withCmd clear).working 0 0 6 = some clear ∧ clear.n 20 2 + clear.n 22 2 ≤ 512 := by decide

theorem witness_PeonyMemoryCommands :
    let store := cmd0 0 0 (wordOf 0 3 (zeros 16 ++ [0, 0, 0, 2])) .started
    let vec := cmd0 0 0 (wordOf 0 4 (zeros 32 ++ [1])) .started
    (withCmd store).working 0 0 3 = some store ∧ store.n 32 2 + store.n 34 2 ≤ 512 ∧ (withCmd vec).working 0 0 4 = some vec ∧ vec.n 48 1 = 1 ∧
    (withCmd store).peonyTurn store = true ∧ (withCmd vec).peonyTurn vec = true ∧ okIs ((withCmd vec).readable vec.agent vec.vecReads) () = true ∧
    (mappedCmd copyCmd).working 0 0 5 = some copyCmd ∧
    okIs ((mappedCmd copyCmd).load copyCmd.agent 0x40000000 4) [0, 0, 0, 0] = true ∧
    okIs ((mappedCmd copyCmd).pieces copyCmd.agent 0x40000000 4 false) [(sharedBase + 0x400000, 4)] = true ∧
    okIs ((mappedCmd copyCmd).pieces copyCmd.agent 0x40000004 4 true) [(sharedBase + 0x400004, 4)] = true ∧
    regionOf (sharedBase + 0x400004) = .shared := by decide

/-- Command 0, started, with this payload. -/
def work (cls op : Nat) (payload : List Byte) : Cmd := cmd0 cls 0 (wordOf cls op payload) .started

theorem witness_LupinCommands :
    [1, 2, 3, 4].all (fun op => decide ((withCmd (work 1 op [])).working 0 1 op = some (work 1 op []))) = true ∧
    okIs ((withCmd (work 1 1 [])).readable (work 1 1 []).agent []) () = true ∧ okIs ((withCmd (work 1 2 [])).readable (work 1 2 []).agent []) () = true ∧
    ((work 1 2 []).desc 0).readRegion 0 ((work 1 2 []).desc 0).rows = [] ∧ (withCmd (work 1 2 [])).attnReads (work 1 2 []) = [] := by decide

/-- Channel 0 enabled with a period of 1,000 ns on queue 5, bound to job 1 for getting; device time is n. -/
def cadenced (n : Word) (x : Cadence) : State :=
  { (bound 5 (runs (coreOf 0 0 0))).setReg (Reg.lupCadCfg 0) 0x8005000000000001 with now := n, cadence := [(0, x)] }

theorem witness_CadenceTicks :
    let s := cadenced 2000 { Cadence.off with ta := 1000 }
    let u := cadenced 2500 { ta := 1000, na := 0, next := 1, taken := 1500, waiting := false }
    (s.reg (Reg.lupCadCfg 0)).getLsbD 63 = true ∧ ((s.reg (Reg.lupCadCfg 0)).extractLsb' 48 12).toNat = 5 ∧ s.runningJob (s.groupOf 0) = some job1 ∧
    s.boundGet 5 1 = true ∧ s.qBound 5 = true ∧ (s.queue 5).waiting = [] ∧ s.hasRoom 5 = true ∧ (s.cad 0).ta.toNat ≤ s.now.toNat ∧
    ((u.cad 0).ta + BitVec.ofNat 64 (1 * 1000)).toNat ≤ u.now.toNat ∧ ((u.cad 0).taken + BitVec.ofNat 64 (1000 * 4 / 8)).toNat ≤ u.now.toNat := by
  decide

/-- A walk of one query. -/
def walkCmd : Cmd := { work 2 1 (zeros 24 ++ [0, 0, 0, 1] ++ zeros 4 ++ [1, 0, 1, 0, 1]) with descs := [(0, zeros 16 ++ [1] ++ zeros 15)] }

/-- The walk over an index of depth 2 without elements: its header at 0, its root at 0x400, its one leaf, empty, at 0x600. -/
def walking : State :=
  withBytes 0x600 [1, 1] (withBytes 0x500 (toLE 8 0x600) (withBytes 0x400 [0, 0, 1, 0]
    (withBytes 0 ([1, 0, 0, 2, 1, 1, 0, 0] ++ toLE 8 0x400 ++ zeros 8 ++ toLE 8 0x500 ++ toLE 4 1) (mappedCmd walkCmd))))

/-- What the walk's reads answer, where they do. -/
def walked : Option (IndexHdr × List (List (BitVec 32))) :=
  match walking.indexHdr walkCmd.agent 0 with
  | .ok h => match walking.codebook walkCmd.agent h with
    | .ok (b, _) => some (h, b)
    | .error _ => none
  | .error _ => none

theorem witness_ClematisWalks :
    walking.working 0 2 1 = some walkCmd ∧ walkCmd.n 40 8 ≠ 0 ∧ walkCmd.walkRows = 1 ∧
    walked.any (fun e => (walking.walkAll walkCmd.agent walkCmd e.1 e.2).2.2.isNone &&
      Except.isOk (walking.finishWalk walkCmd.agent walkCmd e.1 e.2 0)) = true ∧
    walked.any (fun e => match walking.walkOf walkCmd.agent walkCmd e.1 0 with
      | .ok (w, rds) => !w.corrupt && !w.qbad && decide (w.next + walkCmd.n 52 2 ≤ w.leaves.length) &&
        (match (walking.walkerReads walkCmd.agent 0 rds).scanMore walkCmd.agent e.1 e.2 walkCmd (walkCmd.n 52 2) w with
         | .ok (w1, _) => !w1.corrupt
         | .error _ => false)
      | .error _ => false) = true ∧ walking.groupOfCore walkCmd.core = 0 ∧ (walkCmd.n 54 2).testBit 15 = false := by decide

theorem witness_ClematisAppendsAndFilters :
    let ins := work 2 2 (zeros 16 ++ toLE 4 1)
    let del := work 2 3 (zeros 16 ++ toLE 4 1)
    let flt := work 2 5 (zeros 42 ++ [1])
    (mappedCmd ins).working 0 2 2 = some ins ∧ (mappedCmd del).working 0 2 3 = some del ∧ (mappedCmd flt).working 0 2 5 = some flt ∧
    ins.n 32 4 = 1 ∧ okIs ((mappedCmd ins).load ins.agent 0 48) (zeros 48) = true ∧
    okIs ((mappedCmd del).load del.agent 0 16) (zeros 16) = true ∧ flt.n 58 2 = 1 ∧
    (match (mappedCmd ins).appendRecords ins false (zeros 48) false with | (_, none) => true | _ => false) = true ∧
    (match (mappedCmd ins).indexHdr ins.agent 0 with
     | .ok h => Except.isOk ((mappedCmd ins).appendSide ins.agent ins 0
         { code := (ins.record (zeros 48) 0).1, id := (ins.record (zeros 48) 0).2.1, leaf := (ins.record (zeros 48) 0).2.2, tomb := false
           seq := h.nextSeq, next := 0 } false)
     | .error _ => false) = true ∧ okIs ((mappedCmd flt).load flt.agent 0 16) (zeros 16) = true := by decide

/-- A merge whose rewrite is done. -/
def mergeDone : Merge := { waits := [3], free := 0, mark := 0, status := 0, result := 0 }

theorem witness_ClematisMergesAndPrefetches :
    let c := work 2 4 []
    let s := { mappedCmd c with merges := [(0, mergeDone)] }
    (mappedCmd c).working 0 2 4 = some c ∧ SMap.find (mappedCmd c).merges 0 = none ∧ SMap.find s.merges 0 = some mergeDone ∧
    (∀ w ∈ mergeDone.waits, w ∉ s.walksNow) ∧ walking.specOff 1 = false ∧
    (match (mappedCmd c).indexHdr c.agent 0 with | .ok h => ((mappedCmd c).mergeLeaves c h).err.isNone | .error _ => false) = true ∧
    okIs (walking.pieces walkCmd.agent 0x400 256 false) [(hbmBase + 0x400, 256)] = true ∧
    walked.any (fun e => decide (walking.prefetchable walkCmd.agent walkCmd e.1 0 4 = some true)) = true ∧
    walking.unanswered walkCmd.agent (hbmBase + 0x400) 256 = false ∧ 256 ≤ walking.nodeShare 0 := by decide

/-- Three elements: 1.0, NaN, 2.0. -/
def three : List PElem :=
  [{ idx := 0, w := 0x3F800000, nan := false }, { idx := 1, w := 0x7FC00000, nan := true }, { idx := 2, w := 0x40000000, nan := false }]

theorem witness_PrimroseSelects : three.Pairwise (fun x y => x.idx < y.idx) ∧ 1 ≤ (nonNan three).length ∧ (nonNan three).length < 3 := by decide

theorem witness_PrimroseRowsAndSampling :
    let top := work 3 1 (zeros 16 ++ toLE 4 1 ++ toLE 2 1 ++ zeros 10 ++ toLE 4 1 ++ [0x20])
    let mrg := work 3 2 (zeros 16 ++ toLE 4 1 ++ zeros 12 ++ toLE 4 1 ++ [0x20])
    let ref := work 3 3 (zeros 32 ++ toLE 4 1 ++ [0x20])
    let smp := work 3 4 (zeros 24 ++ toLE 4 1)
    let greedy := work 3 4 (zeros 24 ++ toLE 4 1 ++ zeros 10 ++ [0x10])
    (mappedCmd top).working 0 3 1 = some top ∧ top.n 36 2 = 1 ∧ okIs ((mappedCmd top).readable top.agent top.topkRegions.1) () = true ∧
    okIs ((mappedCmd ref).load ref.agent 0 4) (zeros 4) = true ∧ okIs ((mappedCmd ref).load ref.agent 0 32) (zeros 32) = true ∧
    (mappedCmd mrg).working 0 3 2 = some mrg ∧ okIs ((mappedCmd mrg).listCounts mrg.agent mrg) [0] = true ∧
    okIs ((mappedCmd mrg).load mrg.agent 0 32) (zeros 32) = true ∧ (mappedCmd ref).working 0 3 3 = some ref ∧
    (mappedCmd smp).working 0 3 4 = some smp ∧ smp.n 24 8 = 0 ∧ smp.bit 54 4 = false ∧ greedy.bit 54 4 = true ∧
    okIs ((mappedCmd greedy).load greedy.agent 0 4) (zeros 4) = true ∧ (elemsOf 0 1 (zeros 4)).filter (fun e => !e.nan) ≠ [] ∧
    (samplePick (elemsOf 0 1 (zeros 4)) 0x3F800000 0x3F800000 0 0).1 = some 0 := by decide

/-- A table of 2 rows of 4 FP32 values, its rows at 0x1000 and its control words at 0x2000. -/
def table : List Byte := [1, 0, 0, 0, 4, 0, 0, 0] ++ toLE 8 2 ++ toLE 8 0x1000 ++ toLE 8 0x2000 ++ toLE 4 64 ++ zeros 28

/-- An Aster command over `table`, its indices at 0x3000, its source at 0x4000. -/
def astCmd (op : Nat) (rest : List Byte) : Cmd :=
  { work 4 op (zeros 8 ++ toLE 8 0x3000 ++ toLE 8 0x4000 ++ rest) with descs := [(heldTable, table)] }

/-- The row writes of command id after n actions, where each leads to the next. -/
def writesOf (id : Nat) : Nat → State → RowWork → Option (State × RowWork)
  | 0, s, w => some (s, w)
  | n + 1, s, w =>
    match s.cmd id with
    | none => none
    | some c => match s.writeStep c w with
      | .more u v => writesOf id n { u with rowWork := SMap.insert u.rowWork id v } v
      | _ => none

theorem writeSteps_of (id n : Nat) : ∀ (s : State) (w : RowWork) (t : State) (x : RowWork), writesOf id n s w = some (t, x) →
    WriteSteps id n s w t x := by
  induction n with
  | zero => intro s w t x h; simpa [writesOf, WriteSteps] using h
  | succ n ih =>
    intro s w t x h
    simp only [writesOf] at h
    split at h
    · cases h
    · split at h
      · exact ⟨_, _, _, ‹_›, ‹_›, ih _ _ _ _ h⟩
      · cases h

/-- Rows to be written by an AST_ROW_REPLACE, or gradients to be merged by an AST_UPDATE. -/
def rowWork0 (upd : Bool) : RowWork :=
  { later := if upd then [(0, [0x3F800000, 0, 0, 0])] else [], todo := if upd then [] else [(0, zeros 64)], update := upd, step := .lock
    since := 0, dropped := false, skipped := 0, flags := 0, bad := false }

/-- The control word of row 0 is BUSY, command c's writes at their first row, 10 ms after they came there. -/
def busyRow (c : Cmd) : State :=
  withBytes 0x2000 (toLE 8 0x200000000) { mappedCmd c with rowWork := [(0, rowWork0 false)], rowReads := [], now := 10000000 }

theorem witness_AsterRows :
    let g := astCmd 1 (toLE 4 1)
    let r := astCmd 4 (toLE 4 1)
    let u := astCmd 3 (toLE 8 0x5000 ++ toLE 4 1)
    let h : TableHdr := { raw := table }
    let read := RowRead.start [(heldTable, 0)]
    let readsOn := fun (s : State) (x : RowRead) => match s.readRows 0 false 128 x with
      | .stop _ y => y.todo.isEmpty
      | _ => false
    (mappedCmd g).working 0 4 1 = some g ∧ (mappedCmd g).rowReads = [] ∧
    (match (mappedCmd g).rowLoad g 0x3000 8 with | .ok v _ _ => readsOn v read | _ => false) = true ∧
    (mappedCmd g).regionsMeet g.agent (h.rowRegions [0]) ((g.desc 0x4000).writeRegion 0 1) = false ∧
    (mappedCmd g).regionsMeet g.agent (h.rowRegions [0]) [(0x1040, 4)] = true ∧
    readsOn { mappedCmd g with rowReads := [(0, { read with step := .lock })] } { read with step := .lock } = true ∧
    (mappedCmd r).working 0 4 4 = some r ∧ r.n 40 4 = 1 ∧ okIs ((mappedCmd r).readable r.agent [(0x3000, 8), (0x4000, 64)]) () = true ∧
    (mappedCmd r).regionsMeet r.agent [(0x3000, 8), (0x4000, 64)] (h.rowRegions [0]) = false ∧ 0 < h.rows ∧
    (writesOf 0 3 (mappedCmd r) (rowWork0 false)).any (fun e => e.2.todo.isEmpty && e.2.later.isEmpty) = true ∧
    (mappedCmd u).working 0 4 3 = some u ∧ u.n 48 4 = 1 ∧ (mappedCmd u).mergeHeld = false ∧
    okIs ((mappedCmd u).readable u.agent ((0x3000, 8) :: (u.desc 0x4000).readRegion 0 1)) () = true ∧
    (mappedCmd u).regionsMeet u.agent (h.rowRegions [0]) [(0x5000, 16)] = false ∧
    (writesOf 0 4 (mappedCmd u) (rowWork0 true)).any (fun e => e.2.todo.isEmpty && e.2.later.isEmpty) = true ∧
    okIs ((busyRow r).load r.agent (h.ctrlAt 0) 8) (toLE 8 0x200000000) = true ∧ (busyRow r).regionPoisoned r.agent (h.ctrlAt 0) 8 = false ∧
    (leNat (toLE 8 0x200000000)).testBit 33 = true ∧ SMap.find (busyRow r).rowWork 0 = some (rowWork0 false) ∧
    10000000 ≤ ((busyRow r).now - (rowWork0 false).since).toNat ∧ r.suspended = false ∧ (mappedCmd r).writesOf 0 1 1 = false ∧
    okIs ((mappedCmd r).pieces r.agent (h.ctrlAt 0) 8 true) [(hbmBase + 0x2000, 8)] = true ∧ regionOf (hbmBase + 0x2000) ≠ .pool ∧
    f32Words [0, 0, 0xC0, 0x7F] = [0x7FC00000] ∧ readFlags (val32 0x7FC00000) ≠ 0 ∧
    okIs ((mappedCmd r).pieces r.agent (h.slot 0 1) h.stride true) [(hbmBase + 0x1040, 64)] = true := by decide

/-- A session of command 0: PROV_LIST at 0x6000, FINAL_LIST at 0, both queues 5, QROW 0. -/
def sessionCmd : Cmd :=
  { work 4 2 [] with descs := [(0, zeros 8 ++ toLE 8 0x6000 ++ toLE 8 0x7000 ++ toLE 8 0x8000 ++ zeros 48 ++ toLE 2 5 ++ toLE 2 5 ++ zeros 44)] }

/-- The session, as x, with one notice in queue 5. -/
def inSession (x : Session) : State :=
  { (bound 5 (mappedCmd sessionCmd)).setQueue 5 { StemQ.empty with words := [{ word1 with data := 0 }], pos := 1, aster := true } with
    sessions := [(0, x)] }

/-- A batch whose one kernel command ended with code k. -/
def batchOf (spec : Bool) (k : Byte) : Batch :=
  { slot := 0, cands := [{ id := 0, versions := [], bad := false, score := 0 }], spec := spec, cmds := [(1, some k)], stopped := false }

theorem witness_AsterSessions :
    let s := inSession Session.opened
    let t := inSession { Session.opened with batches := [batchOf false 0x33] }
    (mappedCmd sessionCmd).working 0 4 2 = some sessionCmd ∧ SMap.find (mappedCmd sessionCmd).sessions 0 = none ∧
    SMap.find s.sessions 0 = some Session.opened ∧ s.sessionsOn 5 false = [sessionCmd] ∧ s.sessionsOn 5 true = [sessionCmd] ∧
    (s.queue 5).words ≠ [] ∧ (s.queue 5).aster = true ∧ s.tripped = false ∧ s.fatal = false ∧ sessionCmd.sd 92 2 = 0 ∧ sessionCmd.sd 8 8 ≠ 0 ∧
    s.specOff 2 = false ∧ s.stopped = false ∧ s.cmd 0 = some sessionCmd ∧
    (match ((s.popWord 5).setSession 0 { Session.opened with ended := some 0 }).listLoad sessionCmd 0 with
     | .ok _ l _ => decide (l = zeros 16) | _ => false) = true ∧
    Except.isOk ((s.popWord 5).pieces sessionCmd.agent 0x7000 16 true) = true ∧ sessionCmd.progEn = false ∧
    Except.isOk ((s.popWord 5).pieces sessionCmd.agent 0x8000 0 true) = true ∧
    ((inSession Session.opened).setQueue 5 { StemQ.empty with words := [{ word1 with data := 7 }], pos := 1, aster := true }).sessionsOn 5 false =
      [sessionCmd] ∧ sessionCmd.sd 92 2 ≠ fld (7#256) 0 16 ∧
    Session.opened.final = none ∧ t.working 0 4 2 = some sessionCmd ∧ (∀ k ∈ (batchOf false 0x33).cmds, k.2 ≠ none) ∧
    Except.isOk (t.load sessionCmd.agent (sessionCmd.sArena + sessionCmd.sd 76 4) 4) = true ∧ (batchOf true 0).spec = true := by decide

/-- A pack of one literal of 4 bytes at 0x5000: its items at 0x3000, its directory at 0x4000. -/
def packDesc : List Byte :=
  toLE 8 0x3000 ++ toLE 8 0x4000 ++ toLE 8 0x6000 ++ zeros 8 ++ toLE 8 0x6000 ++ zeros 8 ++ toLE 8 0x7000 ++ toLE 8 0x8000 ++ toLE 4 4 ++ toLE 2 1 ++
    zeros 10 ++ toLE 4 1 ++ zeros 2 ++ [1] ++ zeros 41

/-- The pack's inputs in memory. -/
def packed : State :=
  withBytes 0x3000 ([0, 0, 1, 0, 4, 0, 0, 0] ++ toLE 8 0x5000)
    (withBytes 0x4000 [1] (mappedCmd { work 5 1 [] with descs := [(0, packDesc)] }))

theorem witness_BouquetCommands :
    let c : Cmd := { work 5 1 [] with descs := [(0, packDesc)] }
    let f := work 5 2 (zeros 16 ++ toLE 4 1)
    packed.working 0 5 1 = some c ∧
    ((packed.packPlan c.agent (c.captured 0)).toOption.map (fun p => p.units.length)) = some 1 ∧
    ((packed.packPlan c.agent (c.captured 0)).toOption.any (fun p => (packed.packText c.agent 0 none p.units).isOk)) = true ∧
    Except.isOk (packed.readList c.agent (numAt (c.captured 0) 16 8)) = true ∧
    (mappedCmd f).working 0 5 2 = some f := by decide

theorem witness_PacksFitTheirBudget : Except.isOk (packed.packPlan { job := 1, cls := 5, cmd := 0, pool := [] } packDesc) = true := by decide

theorem witness_ZinniaTokens :
    let e : Cmd := { work 6 1 [] with descs := [(0, toLE 4 1 ++ zeros 12 ++ zeros 16)] }
    let d : Cmd := { work 6 2 (toLE 8 0x6000 ++ toLE 8 0x7000 ++ toLE 8 0x5000 ++ zeros 8 ++ [1]) with descs := [(0x6000, zeros 256)] }
    let m := work 6 3 (toLE 8 0x6000 ++ toLE 8 0x7000 ++ toLE 8 0x8000 ++ zeros 4 ++ [1, 0, 2])
    (mappedCmd e).working 0 6 1 = some e ∧ e.n 40 8 = 0 ∧
    (((mappedCmd e).encodeAll e VocabSlot.empty (e.captured 0)).toOption.any (fun r => decide (r.toks = []))) = true ∧
    okIs ((mappedCmd e).pieces e.agent 0 0 true) [] = true ∧ (mappedCmd d).working 0 6 2 = some d ∧ d.bit 48 0 = true ∧ d.bit 48 1 = false ∧
    (mappedCmd d).workIntact VocabSlot.empty = true ∧ okIs ((mappedCmd d).load d.agent 0x7000 0) [] = true ∧
    Except.isOk ((mappedCmd d).pieces d.agent 0x6000 256 true) = true ∧
    (mappedCmd d).regionsPoisoned d.agent [(0x7000, 0), (0x6000, 256), (0, 0)] = false ∧
    (mappedCmd m).working 0 6 3 = some m ∧ m.n 44 2 = 1 ∧
    (match { mappedCmd m with grammar := [(0, { GrammarSlot.empty with state := .ready, job := 1 })] }.maskAll m with
     | (_, _, _, none) => true | _ => false) = true := by decide

/-- What block b of flash holds stands in the read window. -/
theorem flashRead_block (s : State) (b n : Nat) (hn : n ≤ 4096) (hl : n ≤ (s.blockBytes b).length) :
    s.flashRead (4096 * b) n = (s.blockBytes b).take n := by
  unfold State.flashRead
  apply List.ext_getElem
  · simp; omega
  · intro i h1 h2
    simp only [List.length_map, List.length_range] at h1
    have e1 : (4096 * b + i) / 4096 = b := by omega
    have e2 : i % 4096 = i := by omega
    simp [e1, e2, show i < (s.blockBytes b).length by omega]

/-- One token entry of the test vocabulary: byte b as its string. -/
def tok (b : Nat) : List Byte := [BitVec.ofNat 8 b, 0, 0, 0, 1] ++ zeros 11

/-- The entries of the 256 bytes. -/
def tokTable : List Byte := ((List.range 256).map tok).flatten

theorem tokTable_length : tokTable.length = 4096 := by
  simp [tokTable, tok, zeros, List.length_flatten, Function.comp_def, List.map_const']

/-- A vocabulary of 257 tokens in flash, one for each byte and one more: its header and strings in block 0, its token table in blocks 1
and 2; virtual 2^31 is the flash window. -/
def vocabulary (c : Cmd) : State :=
  { mappedCmd c with
    mem := Mem.setBytes tables (sharedBase + 4096 + 16) (toLE 8 (flashBase + 7))
    flash := [(0, { entry := mapTo 4096, bad := false, data := [1, 0, 0, 0, 1, 1, 0, 0] ++ zeros 8 ++ toLE 8 0x80001000 ++ toLE 8 0x80000080 ++
                    toLE 4 256 ++ zeros 92 ++ (List.range 256).map (BitVec.ofNat 8) }),
      (1, { entry := mapTo 4097, bad := false, data := tokTable }), (2, { entry := mapTo 4098, bad := false, data := tok 0 })] }

/-- A load of that vocabulary with a work area of n bytes at 0x10000. -/
def vocabCmd (n : Nat) : Cmd := work 6 4 (toLE 8 0x80000000 ++ toLE 8 0x10000 ++ toLE 4 n)

theorem vocabulary_block1 (c : Cmd) : (vocabulary c).blockBytes 1 = tokTable := by
  have h : (vocabulary c).block 1 = { entry := mapTo 4097, bad := false, data := tokTable } := rfl
  have hm : ({ entry := mapTo 4097, bad := false, data := tokTable } : FlashBlock).mapped = true := by decide
  have hc : decide (1 < flashCapacity) = true := by decide
  unfold State.blockBytes
  simp only [h, hm, hc, tokTable_length]
  simp [zeros]

/-- A region read in one or two pieces of flash. -/
theorem load_flash {s : State} {a : Agent} {va n : Nat} {ps : List (Nat × Nat)} (hp : s.pieces a va n false = .ok ps)
    (hu : s.unread a va n ps = []) (hf : ∀ e ∈ ps, regionOf e.1 = .flash) :
    s.load a va n = .ok ((ps.map (fun e => s.flashRead (e.1 - flashBase) e.2)).flatten) := by
  have h : ∀ (qs : List (Nat × Nat)) (acc : List Byte), (∀ e ∈ qs, regionOf e.1 = .flash) →
      qs.foldl (fun acc e => match acc with
        | .error f => .error f
        | .ok bs => match s.readPiece a e.1 e.2 with
          | .error c => .error { code := c, va := va }
          | .ok b => .ok (bs ++ b)) (Except.ok acc : Except MemFail (List Byte)) =
        .ok (acc ++ (qs.map (fun e => s.flashRead (e.1 - flashBase) e.2)).flatten) := by
    intro qs
    induction qs with
    | nil => intro acc _; simp
    | cons q qs ih =>
      intro acc hq
      have hq1 := hq q (by simp)
      have hr : s.readPiece a q.1 q.2 = .ok (s.flashRead (q.1 - flashBase) q.2) := by simp [State.readPiece, hq1]
      simp only [List.foldl_cons, hr, List.map_cons, List.flatten_cons]
      rw [ih _ (fun e he => hq e (by simp [he]))]
      simp
  unfold State.load
  simp only [hp, hu]
  exact (Eq.trans rfl (h ps [] hf)).trans (by simp)

theorem readVocab_of {s : State} {a : Agent} {image : Nat} {work : Nat × Nat} {h tb st mb cl : List Byte}
    (h0 : s.load a image 128 = .ok h) (hv : (vocabHeader h && decide (image % 64 = 0) && !(s.regionsMeet a (vocabRegions image h) [work])) = true)
    (h1 : s.load a (numAt h 16 8) (16 * numAt h 4 4) = .ok tb) (h2 : s.load a (numAt h 24 8) (numAt h 32 4) = .ok st)
    (h3 : s.load a (numAt h 40 8) (12 * numAt h 12 4) = .ok mb) (h4 : s.load a (numAt h 48 8) 256 = .ok cl)
    (hk : ((cut 16 (numAt h 4 4) tb).all (tokenEntry (numAt h 2 1) (numAt h 32 4)) &&
      vocabValid (numAt h 2 1) (numAt h 8 4) ((cut 16 (numAt h 4 4) tb).map (fun e =>
          ({ str := s.tokStr a st (numAt h 24 8) e, control := numAt e 5 1 % 2 = 1, unused := numAt e 5 1 / 2 = 1
             score := BitVec.ofNat 32 (numAt e 8 4) } : VTok)))
        ((cut 12 (numAt h 12 4) mb).map (fun m => (numAt m 0 4, numAt m 4 4, numAt m 8 4))) cl) = true) :
    ∃ v, s.readVocab a image work = .ok v := by
  simp only [Bool.and_eq_true, decide_eq_true_eq, Bool.not_eq_true'] at hv hk
  unfold State.readVocab
  simp only [h0, h1, h2, h3, h4, hv, hk, Bool.not_true, ne_eq, not_true_eq_false, decide_false, Bool.false_eq_true, if_false, Bool.or_self]
  exact ⟨_, rfl⟩

/-- The header of that vocabulary. -/
def vocabHdr : List Byte :=
  [1, 0, 0, 0, 1, 1, 0, 0] ++ zeros 8 ++ toLE 8 0x80001000 ++ toLE 8 0x80000080 ++ toLE 4 256 ++ zeros 92

theorem vocabulary_tokens (c : Cmd)
    (hp : (vocabulary c).pieces c.agent 0x80001000 4112 false = .ok [(flashBase + 4096, 4096), (flashBase + 8192, 16)])
    (hu : (vocabulary c).unread c.agent 0x80001000 4112 [(flashBase + 4096, 4096), (flashBase + 8192, 16)] = []) :
    (vocabulary c).load c.agent 0x80001000 4112 = .ok (((List.range 256).map tok ++ [tok 0]).flatten) := by
  have b1 : (vocabulary c).flashRead (4096 * 1) 4096 = tokTable := by
    rw [flashRead_block _ _ _ (by omega) (by simp only [vocabulary_block1, tokTable_length, Nat.le_refl]), vocabulary_block1]
    exact List.take_of_length_le (by simp only [tokTable_length, Nat.le_refl])
  have b2 : (vocabulary c).blockBytes 2 = tok 0 ++ zeros (4096 - (tok 0).length) := by
    have h : (vocabulary c).block 2 = { entry := mapTo 4098, bad := false, data := tok 0 } := rfl
    have hm : ({ entry := mapTo 4098, bad := false, data := tok 0 } : FlashBlock).mapped = true := by decide
    have hc : decide (2 < flashCapacity) = true := by decide
    unfold State.blockBytes
    simp only [h, hm, hc, Bool.and_self, if_true]
  have b3 : (vocabulary c).flashRead (4096 * 2) 16 = tok 0 := by
    rw [flashRead_block _ _ _ (by omega) (by rw [b2, List.length_append]; exact Nat.le_add_right 16 _), b2]
    exact List.take_left' rfl
  rw [load_flash hp hu (by decide)]
  have e1 : flashBase + 4096 - flashBase = 4096 * 1 := by omega
  have e2 : flashBase + 8192 - flashBase = 4096 * 2 := by omega
  simp only [List.map_cons, List.map_nil, List.flatten_cons, List.flatten_nil, List.append_nil, e1, e2, b1, b3, List.flatten_append, tokTable]

theorem cut_flatten {α : Type} (k : Nat) (ls : List (List α)) (h : ∀ l ∈ ls, l.length = k) : cut k ls.length ls.flatten = ls := by
  induction ls with
  | nil => rfl
  | cons l ls ih =>
    have hl : l.length = k := h l (by simp)
    simp only [List.length_cons, cut, List.flatten_cons]
    rw [List.take_left' hl, List.drop_left' hl, ih (fun x hx => h x (by simp [hx]))]

/-- A token of one byte. -/
def byteTok (b : Nat) : VTok := { str := [BitVec.ofNat 8 b], control := false, unused := false, score := 0 }

theorem byteToks_valid : vocabValid 0 0 ((List.range 256).map byteTok ++ [byteTok 0]) [] (zeros 256) = true := by
  have hc : ((List.range 256).map byteTok ++ [byteTok 0]).filter VTok.control = [] := by
    refine List.filter_eq_nil_iff.mpr (fun x hx => ?_)
    rcases List.mem_append.mp hx with h | h
    · obtain ⟨b, -, rfl⟩ := List.mem_map.mp h
      exact Bool.false_ne_true
    · rw [List.mem_singleton.mp h]
      exact Bool.false_ne_true
  have hb : (List.range 256).all (fun b =>
      let t := ((List.range 256).map byteTok ++ [byteTok 0]).getD (0 + b) { str := [], control := false, unused := true, score := 0 }
      decide (t.str = [BitVec.ofNat 8 b]) && !t.control && !t.unused) = true := by
    simp only [List.all_eq_true, List.mem_range]
    intro b hb
    have e : ((List.range 256).map byteTok ++ [byteTok 0])[b]? = some (byteTok b) := by
      rw [List.getElem?_append_left (by simpa using hb)]
      simp [hb]
    simp only [Nat.zero_add, List.getD_eq_getElem?_getD, e, Option.getD_some]
    simp [byteTok]
  have hz : (zeros 256).all (fun b => decide (b.toNat < 64)) = true := by
    refine List.all_eq_true.mpr (fun b h => ?_)
    rw [List.eq_of_mem_replicate h]
    decide
  unfold vocabValid
  simp only [hc, hb, hz]
  rfl

theorem vocabulary_entries (s : State) (a : Agent) :
    (((List.range 256).map tok ++ [tok 0]).all (tokenEntry 0 256) && vocabValid 0 0 (((List.range 256).map tok ++ [tok 0]).map (fun e =>
      ({ str := s.tokStr a ((List.range 256).map (BitVec.ofNat 8)) 0x80000080 e, control := numAt e 5 1 % 2 = 1, unused := numAt e 5 1 / 2 = 1
         score := BitVec.ofNat 32 (numAt e 8 4) } : VTok))) [] (zeros 256)) = true := by
  have he : ∀ b, b < 256 → tokenEntry 0 256 (tok b) = true ∧ numAt (tok b) 0 4 = b ∧ numAt (tok b) 4 1 = 1 ∧ numAt (tok b) 5 1 = 0 ∧
      numAt (tok b) 8 4 = 0 := by
    intro b hb
    have : b % 256 = b := Nat.mod_eq_of_lt hb
    simp [tokenEntry, numAt, bytesAt, tok, zeros, leNat, this, List.replicate_succ]
    omega
  have ht : ∀ b, b < 256 → ({ str := s.tokStr a ((List.range 256).map (BitVec.ofNat 8)) 0x80000080 (tok b), control := numAt (tok b) 5 1 % 2 = 1
                              unused := numAt (tok b) 5 1 / 2 = 1, score := BitVec.ofNat 32 (numAt (tok b) 8 4) } : VTok) = byteTok b := by
    intro b hb
    obtain ⟨-, h1, h2, h3, h4⟩ := he b hb
    have hs : s.tokStr a ((List.range 256).map (BitVec.ofNat 8)) 0x80000080 (tok b) = [BitVec.ofNat 8 b] := by
      unfold State.tokStr
      simp only [h1, h2]
      rw [if_pos (by simp; omega)]
      simp only [bytesAt]
      rw [List.drop_eq_getElem_cons (by simpa using hb)]
      simp
    simp [hs, h3, h4, byteTok]
  rw [Bool.and_eq_true]
  refine ⟨?_, ?_⟩
  · simp only [List.all_eq_true, List.mem_append, List.mem_map, List.mem_range, List.mem_singleton]
    rintro x (⟨b, hb, rfl⟩ | rfl)
    · exact (he b hb).1
    · exact (he 0 (by omega)).1
  · have e : ((List.range 256).map tok ++ [tok 0]).map (fun e =>
      ({ str := s.tokStr a ((List.range 256).map (BitVec.ofNat 8)) 0x80000080 e, control := numAt e 5 1 % 2 = 1, unused := numAt e 5 1 / 2 = 1
         score := BitVec.ofNat 32 (numAt e 8 4) } : VTok)) = (List.range 256).map byteTok ++ [byteTok 0] := by
      simp only [List.map_append, List.map_map, List.map_cons, List.map_nil, ht 0 (by omega)]
      exact congrArg (· ++ [byteTok 0]) (List.map_congr_left (fun b hb => ht b (by simpa using hb)))
    rw [e]
    exact byteToks_valid

theorem walk_step {s : State} {va f l table e next : Nat} {w : Bool} (hr : isRam table = true) (hh : regionOf table ≠ .hbm)
    (he : leNat (s.bytes (table + 8 * bitsOf va (39 - 9 * l) 9) 8) = e) (t0 : e.testBit 0 = true) (pc : pteClean e = true)
    (t1 : e.testBit 1 = false) (hl : l ≠ 3) (hn : bitsOf e 12 36 * 4096 = next) : s.walk va w (f + 1) l table = s.walk va w f (l + 1) next := by
  rw [State.walk]
  simp only [hr, hh, he, t0, pc, t1, hl, hn, decide_false, Bool.false_and, Bool.not_true, Bool.false_eq_true, if_false]

theorem walk_leaf {s : State} {va f l table e base size : Nat} {w : Bool} (hr : isRam table = true) (hh : regionOf table ≠ .hbm)
    (he : leNat (s.bytes (table + 8 * bitsOf va (39 - 9 * l) 9) 8) = e) (t0 : e.testBit 0 = true) (pc : pteClean e = true)
    (t1 : e.testBit 1 = true) (hn : bitsOf e 12 36 * 4096 = base) (hs : 2 ^ (39 - 9 * l) = size)
    (ok : (l = 0 || base % size ≠ 0 || decide (regionOf base = .none) || decide (regionOf base ≠ regionOf (base + size - 1)) ||
      s.reservedRange base size) = false) (t2 : e.testBit 2 = true) : s.walk va w (f + 1) l table = .ok (base + va % size, e.testBit 3) := by
  rw [State.walk]
  simp only [hr, hh, he, t0, pc, t1, hn, hs, ok, t2, decide_false, Bool.false_and, Bool.not_true, Bool.and_false, Bool.false_eq_true, if_false, if_true]

/-- The first GiB of virtual addresses is the first GiB of HBM. -/
theorem vocabulary_translate (n va : Nat) (w : Bool) (h : va < 2 ^ 30) :
    (vocabulary (vocabCmd n)).translate 1 va w = .ok (hbmBase + va, false) := by
  have hj : (vocabulary (vocabCmd n)).job 1 = some { job1 with root := sharedBase } := rfl
  have i0 : bitsOf va (39 - 9 * 0) 9 = 0 := by
    simp only [bitsOf, Nat.shiftRight_eq_div_pow]; omega
  have i1 : bitsOf va (39 - 9 * 1) 9 = 0 := by
    simp only [bitsOf, Nat.shiftRight_eq_div_pow]; omega
  have e0 : leNat ((vocabulary (vocabCmd n)).bytes (sharedBase + 8 * 0) 8) = sharedBase + 4097 := by
    show leNat ((vocabulary (vocabCmd 0)).bytes (sharedBase + 8 * 0) 8) = sharedBase + 4097
    decide
  have e1 : leNat ((vocabulary (vocabCmd n)).bytes (sharedBase + 4096 + 8 * 0) 8) = hbmBase + 7 := by
    show leNat ((vocabulary (vocabCmd 0)).bytes (sharedBase + 4096 + 8 * 0) 8) = hbmBase + 7
    decide
  have ok : (decide (1 = 0) || decide (hbmBase % 2 ^ 30 ≠ 0) || decide (regionOf hbmBase = .none) ||
      decide (regionOf hbmBase ≠ regionOf (hbmBase + 2 ^ 30 - 1)) || (vocabulary (vocabCmd n)).reservedRange hbmBase (2 ^ 30)) = false := by
    show (decide (1 = 0) || decide (hbmBase % 2 ^ 30 ≠ 0) || decide (regionOf hbmBase = .none) ||
      decide (regionOf hbmBase ≠ regionOf (hbmBase + 2 ^ 30 - 1)) || (vocabulary (vocabCmd 0)).reservedRange hbmBase (2 ^ 30)) = false
    decide
  have hm : va % 2 ^ 30 = va := Nat.mod_eq_of_lt h
  have p : isPrivate va = false := by simp [isPrivate]; omega
  unfold State.translate
  rw [if_neg (by omega), hj]
  simp only [p]
  rw [if_neg (by omega), if_neg (by decide)]
  have l0 := walk_step (s := vocabulary (vocabCmd n)) (va := va) (f := 3) (l := 0) (table := sharedBase) (w := w) (e := sharedBase + 4097)
    (next := sharedBase + 4096) (by decide) (by decide) (by rw [i0]; exact e0) (by decide) (by decide) (by decide) (by decide) (by decide)
  have l1 := walk_leaf (s := vocabulary (vocabCmd n)) (va := va) (f := 2) (l := 1) (table := sharedBase + 4096) (w := w) (e := hbmBase + 7)
    (base := hbmBase) (by decide) (by decide) (by rw [i1]; exact e1) (by decide) (by decide) (by decide) (by decide) rfl ok (by decide)
  rw [l0, l1, hm]
  rfl

theorem low_region (a : Nat) (h1 : hbmBase ≤ a) (h2 : a < hbmBase + 2 ^ 30) : regionOf a = .hbm := by
  have h : hbmBase = 0x1000000000 := rfl
  unfold regionOf
  rw [if_neg (by omega), if_neg (by omega), if_pos (by omega)]

/-- Its regions lie there, and none of them meets what lies elsewhere. -/
theorem vocabulary_pieces (n va k : Nat) (h : va + k ≤ 2 ^ 30) : ∃ ps, (vocabulary (vocabCmd n)).pieces (vocabCmd n).agent va k true = .ok ps ∧
    ∀ p ∈ ps, hbmBase + va ≤ p.1 ∧ p.1 + p.2 ≤ hbmBase + 2 ^ 30 := by
  let f : Except MemFail (List (Nat × Nat)) → Nat × Nat → Except MemFail (List (Nat × Nat)) := fun acc e =>
    match acc with
    | .error f => .error f
    | .ok ps =>
      match (vocabulary (vocabCmd n)).translate (vocabCmd n).agent.job e.1 true with
      | .error c => .error { code := c, va := e.1 }
      | .ok (pa, _) =>
        if true && decide (regionOf pa = .flash) then .error { code := 0x81, va := e.1 }
        else match (vocabulary (vocabCmd n)).barred pa with
          | some c => .error { code := c, va := e.1 }
          | none =>
            if regionOf pa = .pool then
              match (vocabulary (vocabCmd n)).poolTarget pa true with
              | .error c => .error { code := c, va := e.1 }
              | .ok _ => .ok (ps ++ [(pa, e.2)])
            else .ok (ps ++ [(pa, e.2)])
  have hreg : ∀ va, va < 2 ^ 30 → regionOf (hbmBase + va) = .hbm := fun va hv => low_region _ (by omega) (by omega)
  have step : ∀ va k ps, va < 2 ^ 30 → f (.ok ps) (va, k) = .ok (ps ++ [(hbmBase + va, k)]) := by
    intro va k ps hv
    have hb : (vocabulary (vocabCmd n)).barred (hbmBase + va) = none := by
      have hp : hbmPart (hbmBase + va) = 0 := by simp only [hbmPart, gib]; omega
      have ho : bitAt (vocabulary (vocabCmd n)).hbmOff 0 = false := by
        show bitAt (vocabulary (vocabCmd 0)).hbmOff 0 = false
        decide
      have hs : ¬ (vocabulary (vocabCmd n)).start.stage < 3 := by
        show ¬ (vocabulary (vocabCmd 0)).start.stage < 3
        decide
      simp only [State.barred, hreg va hv, hp, ho]
      rw [if_neg hs]
      rfl
    have ht : (vocabulary (vocabCmd n)).translate (vocabCmd n).agent.job va true = .ok (hbmBase + va, false) := vocabulary_translate n va true hv
    simp only [f, ht, hreg va hv, hb]
    rfl
  have go : ∀ fuel v k ps, va ≤ v → v + k ≤ 2 ^ 30 → (∀ p ∈ ps, hbmBase + va ≤ p.1 ∧ p.1 + p.2 ≤ hbmBase + 2 ^ 30) →
      ∃ qs, (pagePieces fuel v k).foldl f (.ok ps) = .ok qs ∧ ∀ p ∈ qs, hbmBase + va ≤ p.1 ∧ p.1 + p.2 ≤ hbmBase + 2 ^ 30 := by
    intro fuel
    induction fuel with
    | zero => intro v k ps _ _ hp; exact ⟨ps, rfl, hp⟩
    | succ m ih =>
      intro v k ps hl hv hp
      rw [pagePieces]
      split
      · exact ⟨ps, rfl, hp⟩
      · have hk : Nat.min k (4096 - v % 4096) ≤ k := Nat.min_le_left _ _
        simp only [List.foldl_cons]
        rw [step v _ ps (by omega)]
        refine ih _ _ _ (by omega) (by omega) ?_
        intro p hm
        rcases List.mem_append.mp hm with hq | hq
        · exact hp p hq
        · simp only [List.mem_singleton] at hq
          subst hq
          exact ⟨by simp only; omega, by simp only; omega⟩
  obtain ⟨qs, h1, h2⟩ := go (k / 4096 + 2) va k [] (Nat.le_refl _) h (by simp)
  exact ⟨qs, h1, h2⟩

theorem vocabulary_apart : (vocabulary (vocabCmd 0x102140)).regionsMeet (vocabCmd 0x102140).agent (vocabRegions 0x80000000 vocabHdr)
    [(0x10000, 0x102140)] = false := by
  let s := vocabulary (vocabCmd 0x102140)
  have c : (s.placesOf (vocabCmd 0x102140).agent false (vocabRegions 0x80000000 vocabHdr)).all
      (fun p => decide (p.2 = 0) || decide (hbmBase + 2 ^ 30 ≤ p.1) || decide (p.1 + p.2 ≤ hbmBase + 0x10000)) = true := by decide
  obtain ⟨ps, hp, hq⟩ := vocabulary_pieces 0x102140 0x10000 0x102140 (by decide)
  have hw : s.placesOf (vocabCmd 0x102140).agent true [(0x10000, 0x102140)] = ps.map (fun p => (s.home p.1, p.2)) := by
    simp [State.placesOf, hp, s]
  unfold State.regionsMeet
  rw [hw]
  refine List.any_eq_false.mpr (fun p hm => ?_)
  rw [Bool.not_eq_true]
  refine List.any_eq_false.mpr (fun q hqm => ?_)
  obtain ⟨x, hx, rfl⟩ := List.mem_map.mp hqm
  have hh := hq x hx
  have hc := List.all_eq_true.mp c p hm
  have hreg : x.2 = 0 ∨ regionOf x.1 = .hbm := by
    by_cases h0 : x.2 = 0
    · exact .inl h0
    · exact .inr (low_region _ (by omega) (by omega))
  simp only [Bool.or_eq_true, decide_eq_true_eq] at hc
  rcases hreg with h0 | h1
  · simp [overlaps, h0]
  · simp only [State.home, h1, overlaps]
    simp
    omega

theorem witness_ZinniaVocabularies :
    (vocabulary (vocabCmd 0x102140)).working 0 6 4 = some (vocabCmd 0x102140) ∧ (vocabCmd 0x102140).n 32 4 = 0x102140 ∧
    (vocabCmd 0x102140).bit 37 1 = false ∧ workNeeded 257 0 256 = 0x102140 ∧
    (vocabulary (vocabCmd 0x102140)).load (vocabCmd 0x102140).agent 0x80000000 128 = .ok vocabHdr ∧
    (∃ ps, (vocabulary (vocabCmd 0x102140)).pieces (vocabCmd 0x102140).agent 0x10000 0x102140 true = .ok ps) ∧
    ∃ v, (vocabulary (vocabCmd 0x102140)).readVocab (vocabCmd 0x102140).agent 0x80000000 (0x10000, 0x102140) = .ok v := by
  have hc : cut 16 257 (((List.range 256).map tok ++ [tok 0]).flatten) = (List.range 256).map tok ++ [tok 0] := by
    have h := cut_flatten 16 ((List.range 256).map tok ++ [tok 0]) (by
      simp only [List.mem_append, List.mem_map, List.mem_range, List.mem_singleton]
      rintro l (⟨b, -, rfl⟩ | rfl) <;> rfl)
    simpa using h
  have hn : numAt vocabHdr 4 4 = 257 ∧ numAt vocabHdr 2 1 = 0 ∧ numAt vocabHdr 32 4 = 256 ∧ numAt vocabHdr 8 4 = 0 ∧ numAt vocabHdr 12 4 = 0 ∧
      numAt vocabHdr 24 8 = 0x80000080 := by decide
  obtain ⟨n1, n2, n3, n4, n5, n6⟩ := hn
  have h0 := ok_of (x := (vocabulary (vocabCmd 0x102140)).load (vocabCmd 0x102140).agent 0x80000000 128) (a := vocabHdr) (by decide)
  obtain ⟨ps, hp, -⟩ := vocabulary_pieces 0x102140 0x10000 0x102140 (by decide)
  refine ⟨by decide, by decide, by decide, by decide, h0, ⟨ps, hp⟩, ?_⟩
  refine readVocab_of (h := vocabHdr) (st := (List.range 256).map (BitVec.ofNat 8)) (mb := []) (cl := zeros 256) h0 (by rw [vocabulary_apart]; decide)
    (vocabulary_tokens _ (ok_of (by decide)) (by decide)) (ok_of (by decide)) (ok_of (by decide)) (ok_of (by decide)) ?_
  rw [n1, n2, n3, n4, n5, n6, hc]
  exact vocabulary_entries _ _

/-- A grammar of one state without transitions, its mask record of 8 bytes, for a vocabulary of v tokens. -/
def grammarHdr (v : Nat) : List Byte := [1, 0, 0, 0, 1] ++ zeros 7 ++ toLE 4 v ++ zeros 32 ++ toLE 8 8 ++ zeros 8

theorem witness_ZinniaSlots :
    let v := work 6 4 []
    let g := work 6 5 (toLE 8 0x4000 ++ [0, 0, 4])
    let gx := fun (k : Nat) => ({ GrammarSlot.empty with header := grammarHdr k } : GrammarSlot)
    let one : State := { mappedCmd g with vocab := [(0, { VocabSlot.empty with toks := [{ str := [0x61], control := false, unused := false, score := 0 }] })] }
    (mappedCmd v).working 0 6 4 = some v ∧ v.bit 37 1 = false ∧ v.mayWrite = none ∧
    (match (mappedCmd v).readVocab v.agent 0 (0, 0) with | .error f => f.awaits.isEmpty | .ok _ => false) = true ∧
    (vocabulary (vocabCmd 0)).working 0 6 4 = some (vocabCmd 0) ∧ (vocabCmd 0).n 32 4 < workNeeded 257 0 256 ∧
    (mappedCmd g).working 0 6 5 = some g ∧ g.bit 26 1 = false ∧ g.bit 26 2 = true ∧ grammarHeader (grammarHdr 0) = true ∧
    okIs ((withBytes 0x4000 (grammarHdr 0) (mappedCmd g)).load g.agent 0x4000 64) (grammarHdr 0) = true ∧
    VocabSlot.empty.v = numAt (grammarHdr 0) 12 4 ∧ numAt (grammarHdr 0) 16 8 = VocabSlot.empty.tag.toNat ∧
    okIs ((mappedCmd g).verifyFrom g.agent (gx 0) 1 0) none = true ∧ (one.vslot 0).v = numAt (grammarHdr 1) 12 4 ∧
    okIs ((withBytes 0 [1] one).verifyFrom g.agent (gx 1) 1 0) (some 0) = true ∧ VocabSlot.empty.v ≠ numAt (grammarHdr 1) 12 4 ∧
    (Instr.slotUnload false 15).wf = true := by decide

/-- A move of a tensor of 1 by 1 FP32 at 0x3000 to a template, allocating in partition 0's arena, its record at 0x5000. -/
def moveCmd (alloc : Bool) : Cmd :=
  { work 7 1 (toLE 8 0x1000 ++ toLE 8 0x2000 ++ toLE 8 0x5000 ++ zeros 8 ++ [if alloc then 1 else 0, 0, 0, 1]) with
    descs := [(0x1000, toLE 8 0x3000 ++ zeros 8 ++ [1, 0, 1, 0, 4, 0, 0, 0] ++ toLE 4 0x3F800000 ++ zeros 4),
      (0x2000, toLE 8 0x6000 ++ zeros 8 ++ [1, 0, 1, 0, 4, 0, 0, 0] ++ toLE 4 0x3F800000 ++ zeros 4)] }

/-- Partition 0's HBM arena is its GiB 2. -/
def arena0 (s : State) : State := s.setReg (Reg.fxgHbmArena 0) 0x102

/-- An entry of that arena. -/
def entry0 : FxgEntry :=
  { gen := 0, arena := 4, offset := 0, granules := 1, group := 0, partition := 0, job := 1, pinned := true, unpinTime := 0, core := 0, record := 0 }

theorem witness_FoxgloveCommands :
    let e : Cmd := { work 7 2 (toLE 8 0x5000) with descs := [(0x5000, zeros 64)] }
    (mappedCmd (moveCmd false)).working 0 7 1 = some (moveCmd false) ∧ (moveCmd false).fxgAlloc = false ∧ (moveCmd false).n 51 1 = 1 ∧
    okIs ((mappedCmd (moveCmd true)).readable (moveCmd true).agent [(0x3000, 4)]) () = true ∧
    ((moveCmd true).fxgSrc.rowsRegion 0 (moveCmd true).fxgSrc.rows) = [(0x3000, 4)] ∧
    (moveCmd true).fxgAlloc = true ∧ ((mappedCmd (moveCmd true)).takeSpace 0 4 1 = none) ∧ (mappedCmd (moveCmd true)).fxg.length < 16384 ∧
    ((arena0 (mappedCmd (moveCmd true))).takeSpace 0 4 1).isSome = true ∧
    Except.isOk ((mappedCmd (moveCmd true)).pieces (moveCmd true).agent 0x5000 64 true) = true ∧
    { mappedCmd e with fxg := [(0, entry0)] }.recordEntry e (zeros 64) = some (0, entry0) ∧ (mappedCmd e).working 0 7 2 = some e := by decide

/-- Block 9 mapped to slot 4096 (erase block 1), outside a stop. -/
def flashed : State := { atStage 5 with flash := [(9, { entry := mapTo 4096, data := [7], bad := false })], mmuInval := some { job := 1, page := 0, size := 0 } }

theorem witness_FlashAndInvalidations :
    let c := work 8 1 (zeros 16 ++ toLE 4 1)
    let hot : State := { flashed with erase := [(1, { EraseBlock.fresh with refresh := true })] }
    let waits : State := { flashed with reqs := [(3, { kind := .load, core := 0, job := 1, cmd := 0, target := 1, seg := 0, sent := 0, va := 0, pa := poolBase
                                                       n := 8, home := 0, line := none, inval := true })] }
    (withCmd c).working 0 8 1 = some c ∧ c.n 32 4 = 1 ∧ (atStage 1).mmuInval = none ∧ flashed.mmuInval ≠ none ∧ (∀ r ∈ flashed.reqs, r.2.inval = false) ∧
    (∃ r ∈ waits.reqs, r.2.inval = true) ∧ (flashed.slotsOfPage (fld (flashed.block 9).entry 2 31)) = [9] ∧
    slotPage 8192 ≠ fld (flashed.block 9).entry 2 31 ∧
    (hot.eb 1).refresh = true ∧ hot.movesOk (hot.slotsIn 1) (movesOf [(9, 8192)]) 1 = true ∧ (hot.eb 1).retired = false ∧
    (flashed.eb 2).retired = false ∧ flashed.slotsIn 2 = [] ∧ flashed.slotsFree [8192] = true ∧ flashed.slotsIn 1 = [9] ∧ slotBlock 8192 ≠ 1 ∧
    (flashed.block 9).mapped = true ∧ (flashed.block 9).bad = false := by decide

/-- PF1 enabled with the admin queues and I/O queue pair 1, its commands cs. -/
def nvm (cs : List NvmeCmd) : State :=
  { atStage 5 with
    pf1 := { Pf1.reset with
      cc := 1
      sqs := [(0, { base := 0, size := 4, cq := 0, head := 0, tail := 0, frozen := false, logRead := false }),
        (1, { base := 0x10000, size := 4, cq := 1, head := 0, tail := 1, frozen := false, logRead := false })]
      cqs := [(0, { base := 0x20000, size := 4, head := 0, tail := 0, phase := true }), (1, { base := 0x30000, size := 4, head := 0, tail := 0, phase := true })]
      cmds := cs
      nextFid := cs.length } }

/-- The one command of PF1, of queue q and opcode op. -/
def nvmCmd (q op : Nat) (rest : List (Nat × Nat)) (p : NvmePhase) : NvmeCmd :=
  { fid := 0, sq := q, word := rest.foldl (fun w e => w.set e.1 (BitVec.ofNat 8 e.2)) ([BitVec.ofNat 8 op, 0, 0, 0, 1] ++ zeros 59)
    ranges := [], reads := false, phase := p, silent := false }

theorem witness_StorageController :
    let s := nvm []
    let c : NvmeCmd := { nvmCmd 1 2 [] .fetched with word := [2, 0, 0, 0, 1] ++ zeros 59 }
    s.stopped = false ∧ 1 ≤ s.start.stage ∧ (SMap.find s.pf1.sqs 1).any (fun x => decide (3 < x.size)) = true ∧
    (SMap.find s.pf1.cqs 1).isSome = true ∧ (s.setReg Reg.hlyStatus 0x80000000).sqTurn = some 1 ∧ s.nvmeCheck c .abort = none ∧
    s.locksUsed + (nvmeRanges c .abort).length ≤ 1024 ∧ (nvm [c]).nvme 0 = some c ∧ (nvm [c]).nvmeReady c = true ∧ c.sq ≠ 0 ∧
    (nvm [{ c with granted := true }]).nvmeReady { c with granted := true } = true ∧
    (nvm [nvmCmd 0 5 [] .fetched]).nvmeReady (nvmCmd 0 5 [] .fetched) = true ∧ (s.nvmeCheck { c with word := [2] ++ zeros 63 } .abort).isSome = true := by
  decide

theorem witness_StorageReadsAndWrites :
    [(2, 0), (1, 0), (8, 0), (9, 0), (0, 0)].all (fun e => decide ((nvm [nvmCmd 1 e.1 [] .started]).nvmeStarted 0 true e.1 =
      some (nvmCmd 1 e.1 [] .started))) = true ∧ (nvm []).slotsFree [4096] = true ∧ (nvmCmd 1 1 [] .started).nlb = 1 ∧
    ((nvm []).block 0).bad = false ∧ ((nvm []).block 0).data.length ≤ 4096 ∧ (nvmCmd 1 2 [] .started).n 24 8 % 4096 = 0 := by decide

theorem witness_StorageErrorHandling :
    let c := nvmCmd 1 2 [] (.done 2 0x81 0)
    let r := nvmCmd 0 0xC1 [(40, 1)] .started
    let l := nvmCmd 0 2 [(40, 1)] .started
    ((nvm [c]).cqFor c).isSome = true ∧ (nvm [c]).nextPosted = some c ∧ (nvm []).nextPosted = none ∧ (nvm [c]).stopped = false ∧ (nvm [c]).nvme 0 = some c ∧ (nvm [r]).nvmeStarted 0 false 0xC1 = some r ∧ r.cdw 10 % 65536 = 1 ∧
    (SMap.find (nvm [r]).pf1.sqs 1).any (fun x => !x.frozen) = true ∧ (nvm [l]).nvmeStarted 0 false 2 = some l ∧ l.cdw 10 % 256 = 1 := by decide

theorem witness_StorageAdministration :
    let cq := nvmCmd 0 5 [(40, 2), (42, 1), (44, 1)] .started
    let sq := nvmCmd 0 1 [(40, 2), (42, 1), (44, 1), (46, 1)] .started
    let del := nvmCmd 0 0 [(40, 1)] .started
    let pw := nvmCmd 0 9 [(40, 2), (44, 2)] .started
    let fmt := nvmCmd 0 0x80 [] .started
    (nvm [cq]).nvmeStarted 0 false 5 = some cq ∧ cq.cdw 10 % 65536 = 2 ∧ cq.cdw 10 / 65536 = 1 ∧ SMap.find (nvm [cq]).pf1.cqs 2 = none ∧
    (cq.cdw 11).testBit 1 = false ∧ (cq.cdw 11).testBit 0 = true ∧ (nvm [sq]).nvmeStarted 0 false 1 = some sq ∧ sq.cdw 11 / 65536 = 1 ∧
    (SMap.find (nvm [sq]).pf1.cqs 1) ≠ none ∧ (nvm [del]).nvmeStarted 0 false 0 = some del ∧ SMap.find (nvm [del]).pf1.sqs 1 ≠ none ∧
    (nvm [pw]).nvmeStarted 0 false 9 = some pw ∧ (nvm [pw]).pf1.entering = none ∧ (nvm [pw]).nvme 0 = some pw ∧ pw.cdw 10 % 256 = 2 ∧ pw.cdw 11 % 32 = 2 ∧ (nvm [fmt]).nvmeStarted 0 false 0x80 = some fmt ∧
    fmt.n 4 4 = 1 ∧ fmt.cdw 10 / 512 % 8 ≤ 2 := by decide

/-- A module whose register a holds v. -/
def regged (n a : Nat) (v : Word) : State := (atStage n).setReg a v

theorem witness_HostRegisterAccess :
    let cfg := (0x1100000 : Nat)
    (atStage 0).start.stage = 0 ∧ 1 ≤ (atStage 1).start.stage ∧ (3 : Nat) % 4 ≠ 0 ∧
    (regAt Reg.mgdCfg).any (fun r => r.desc.wo = 0 && !r.desc.wide) = true ∧ isApply Reg.mgdCfg = false ∧ Reg.mgdCfg % 4 = 0 ∧
    Reg.mgdCfg + 4 ≤ 0x4000000 ∧ Reg.mgdCfg ≠ Reg.mgdStopCtrl ∧ Reg.mgdCfg ≠ Reg.dbgCtrl ∧ nth Reg.mgdCfg (Reg.pnyCcStatus 0) 4096 64 = none ∧
    nth Reg.mgdCfg (Reg.mgdGrpRentry 0) 16 16 = none ∧ fnOf Reg.mgdCfg = none ∧ servedStopped Reg.mgdCfg = true ∧
    servedStopped Reg.hlyRdLimits = false ∧ ({ atStage 5 with stopped := true } : State).stop.held.length < 4096 ∧ cfg < 0x4000000 ∧
    (atStage 5).serves .pf1 = true ∧ (atStage 5).serves (.fn 0) = true ∧ ({ atStage 5 with config := [(10, 3)] } : State).asleep (.fn 0) = true ∧
    (regAt (Reg.hubSquash 0)).any (fun r => r.desc.wrap.isSome) = true ∧
    ((regged 5 (Reg.hubSquash 0) 0xFFFFFFFFFFFF).reg (Reg.hubSquash 0)).extractLsb' 0 48 = 0xFFFFFFFFFFFF#48 := by decide

theorem witness_StagedSets :
    let ap := Reg.winApply 10
    let goes := fun (v : Word) => { atStage 5 with applies := [(ap, [(Reg.hlyRdLimits, v)])] }
    (atStage 5).stopped = false ∧ isApply ap = true ∧ ap ≠ Reg.winApply 18 ∧ (∀ e ∈ (atStage 5).applies, e.1 ≠ ap) ∧
    (goes 0x200000001).applies.find? (fun e => decide (e.1 = ap)) = some (ap, [(Reg.hlyRdLimits, 0x200000001)]) ∧
    (goes 0x100000002).applies.find? (fun e => decide (e.1 = ap)) = some (ap, [(Reg.hlyRdLimits, 0x100000002)]) ∧
    (257#9).toNat ≤ 257 ∧ (atStage 1).hasFunction 256 = true := by decide

/-- Ring 1 of function 0, of 4 entries, in this state, a submission ring that serves queue 5. -/
def ringed (r : Ring) : State :=
  (((bound 5 (runs (coreOf 0 0 0))).setReg (Reg.stmQcfg 5) 0x0001000000000003).setReg (Reg.stmQtgt 5) 1).setReg (Reg.pciRingCfg 0 1) 2 |>.setRing 0 1 r

/-- The same as a completion ring, with a word in its queue. -/
def ringedOut (r : Ring) : State :=
  ((((bound 5 (runs (coreOf 0 0 0))).setReg (Reg.stmQcfg 5) 0x0000000100000002).setReg (Reg.stmQtgt 5) 1).setReg (Reg.pciRingCfg 0 1) 0x40000002
    |>.setRing 0 1 r).setQueue 5 { StemQ.empty with words := [word1], pos := 1 }

/-- An active ring with the host index at h. -/
def ringAt (h : Nat) : Ring := { Ring.reset with active := true, host := h }

theorem witness_RingTraffic :
    let s := ringed (ringAt 1)
    let u := ringedOut (ringAt 3)
    bar2Offset 0 64 = true ∧ s.hasFunction 0 = true ∧ s.ringN 0 1 = 4 ∧ (s.ring 0 1).active = true ∧ leNat [3, 0, 0, 0] < s.ringN 0 1 ∧
    s.ringN 0 1 ≤ leNat [4, 0, 0, 0] ∧ (atStage 1).start.stage = 1 ∧ s.servedQueue 0 1 false = some 5 ∧ s.ringDir 0 1 = false ∧ s.wouldEnter 5 = true ∧
    Nat.min 4 (Nat.min (((s.ring 0 1).host + 4 - (s.ring 0 1).index) % 4) (4 - (s.ring 0 1).index)) ≠ 0 ∧
    (s.unitPut 5 (wordOfBytes (zeros 32) false)).wouldEnter 5 = true ∧ u.servedQueue 0 1 true = some 5 ∧ u.ringDir 0 1 = true ∧
    ((u.ring 0 1).index + 1) % 4 ≠ (u.ring 0 1).host := by decide

/-- BAR4 of function 0 enabled for job 1 with writes, on virtual address 0. -/
def bar4On : State := (mapped (coreOf 0 0 0)).setReg (Reg.pciFnBar4 0) 0x0001000000000003

/-- PCIe port 0 trained. -/
def linked (n : Nat) : State := { atStage n with start := { (atStage n).start with pcie := [(0, { perst := false, up := true, flit := true, speed := 6, width := 4 })] } }

theorem witness_HostFunctions :
    let a : Agent := { job := 1, cls := 0xE, cmd := 0, pool := [] }
    bar4On.hasFunction 0 = true ∧ 1 ≤ bar4On.start.stage ∧ 4 + 4 ≤ bar4Size 0 ∧ (bar4On.reg (Reg.pciFnBar4 0)).getLsbD 0 = true ∧
    bar4On.isLive 1 = true ∧ bar4On.tenantMay 0 1 = true ∧ (bar4On.reg (Reg.pciFnBar4 0)).getLsbD 1 = true ∧
    okIs (bar4On.pieces a (bar4On.bar4Va 0 4) 4 true) [(hbmBase + 4, 4)] = true ∧ regionOf (hbmBase + 4) = .hbm ∧
    okIs (bar4On.bar4Read a (bar4On.bar4Va 0 4) 4) (zeros 4, false) = true ∧ ((atStage 5).reg (Reg.pciFnBar4 0)).getLsbD 0 = false ∧
    (256#9).toNat ≤ 257 ∧ (linked 0).linkUp false = true ∧ (linked 0).inRecoveryMode = false ∧ (linked 1).start.stage = 1 ∧
    bar4On.serves (.fn 0) = true ∧ (linked 1).presents false (.fn 0) = true ∧ (linked 1).presents true (.fn 0) = false ∧
    (0x8003#32).getLsbD 15 = true ∧ (0x3#32).getLsbD 15 = false := by decide

/-- Port 0 is x. -/
def ported (x : Port) : State := { atStage 5 with ports := [(0, x)], now := 6000000 }

/-- Port 0 up. -/
def up : Port := { Port.reset with state := .up, lanes := 2, version := 2, peer := 1 }

/-- What the module at port 0's other end says, from port 0. -/
def hello0 : Hello := { module := 0, port := 0, lanes := 2, half := false, vmin := 1, vmax := 2, nonce := 0, keyId := none }

theorem witness_FjorinTraining :
    let tr := ported { Port.reset with state := .training }
    let re := ported { Port.reset with state := .training, retrain := true, trainStart := 1000000 }
    let late := ported { Port.reset with state := .training, retrain := true }
    (tr.port 0).state = .training ∧ (tr.port 0).retrain = false ∧ (tr.now - (tr.port 0).trainStart).toNat ≥ 1000000 ∧
    (re.now - (re.port 0).trainStart).toNat ≤ 5000000 ∧ 5000000 < (late.now - (late.port 0).trainStart).toNat ∧
    ((ported { up with resends := 16 }).port 0).state = .up ∧ 16 ≤ ((ported { up with resends := 16 }).port 0).resends ∧
    (let vf := ported { Port.reset with state := .versionFail, lock := false, lockLostAt := 5000000, heard := some hello0 };
      (vf.port 0).state = .versionFail ∧ (vf.port 0).lock = false ∧ 1000000 ≤ (vf.now - (vf.port 0).lockLostAt).toNat ∧
      (vf.port 0).heard = some hello0) ∧
    ((ported { Port.reset with state := .hello }).port 0).helloSent = false ∧ ((ported { up with helloSent := false }).port 0).helloSent = false ∧
    100000 ≤ ((ported { Port.reset with state := .hello, helloSent := true }).now - Port.reset.helloAt).toNat ∧
    (let pm := { ported { Port.reset with state := .peerMismatch } with now := 10000000 };
      (pm.port 0).state = .peerMismatch ∧ 10000000 ≤ (pm.now - (pm.port 0).helloAt).toNat ∧ (pm.port 0).heard = none) := by decide

/-- A message of this type and payload for module d. -/
def msgOf (typ : Byte) (d : BitVec 16) (payload : List Byte) : Msg :=
  { dst := d, src := 1, typ := typ, cls := 0, vc := false, ttl := 128, poison := false, tag := 3, payload := payload }

/-- Port 0 up with one message arrived. -/
def arrivedOne (m : Msg) : State := ported { up with arrived := [m] }

/-- An unencrypted DATA flit with a POOL_RD for module 5, in sequence at 0. -/
def flit0 : List Byte :=
  let body := zeros 8 ++ ([5, 0, 1, 0, 1, 0, 128, 0, 10, 0, 3, 0, 0, 0, 0, 0] ++ zeros 10) ++ zeros 218
  body ++ toLE 4 (crc32c body).toNat

set_option maxRecDepth 200000 in
theorem witness_FjorinFlits :
    let s := ported up
    let waiting : Waiting := { msg := msgOf 1 5 (zeros 10), since := 0 }
    let sends := ported { up with egress := [(0, [waiting])], credits := [(0, 1)] }
    flit0.length = 256 ∧ (s.port 0).state = .up ∧ numAt flit0 252 4 = (crc32c (flit0.take 252)).toNat ∧ numAt flit0 7 1 = 0 ∧ numAt flit0 0 4 = 0 ∧
    s.linkEnc = false ∧ allZero ((bytesAt flit0 8 244).drop 26) = true ∧ allZero (bytesAt flit0 8 244) = false ∧
    (parseMsg (bytesAt flit0 8 244)).typ = 1 ∧ (parseMsg (bytesAt flit0 8 244)).dst.toNat ≠ s.moduleId ∧
    numAt (zeros 256) 252 4 ≠ (crc32c (zeros 252)).toNat ∧
    (((ported { up with replay := [(0, [])] }).acked 0 0xFFFFFF).port 0).replay ≠ [] ∧
    2000 ≤ ((ported { up with replay := [(0, [])] }).now - up.progress).toNat ∧ (sends.pick (sends.portCandidates 0)).isSome = true ∧
    sends.egress 0 0 = [waiting] ∧ (arrivedOne (msgOf 0x0C 0 (zeros 16))).firstMsg 0 0x0C = some (msgOf 0x0C 0 (zeros 16)) ∧
    1000 * s.regFld Reg.fjlSampleCfg 0 16 ≤ (s.now - up.sampledAt).toNat := by decide

/-- Export slot 0 gives the first GiB of HBM to key 0 for writing. -/
def exports (s : State) : State := s.setReg (Reg.fjlExport 0) (0xC000000000000000 ||| 0x1000000000)

theorem witness_FjorinRequests :
    let rd := exports (arrivedOne (msgOf 1 0 (zeros 8 ++ [4, 0])))
    let wr := exports (arrivedOne (msgOf 3 0 (zeros 8 ++ [1, 2])))
    let am := exports (arrivedOne (msgOf 5 0 (zeros 8 ++ [0x10] ++ zeros 16)))
    let last : Msg := { msgOf 1 0 (zeros 8 ++ [4, 0]) with ttl := 1 }
    ((arrivedOne last).port 0).arrived = [last] ∧ last.ttl.toNat ≤ 1 ∧ last.typ.toNat ≤ 6 ∧ (arrivedOne last).stopped = false ∧
    ((arrivedOne (msgOf 1 5 [])).port 0).arrived = [msgOf 1 5 []] ∧ 1 < (msgOf 1 5 []).ttl.toNat ∧
    (msgOf 1 5 []).dst.toNat ≠ (arrivedOne (msgOf 1 5 [])).moduleId ∧
    (msgOf 1 0 (zeros 8 ++ [4, 0])).payload.length = 10 ∧ (msgOf 5 0 (zeros 8 ++ [0x10] ++ zeros 16)).payload.length = 25 ∧
    (msgOf 5 0 (zeros 8 ++ [0x10] ++ zeros 16)).poolAddr.1 % 8 = 0 ∧
    okIs ((am.takeMsg 0).exported (msgOf 5 0 (zeros 8 ++ [0x10] ++ zeros 16)) true 8) hbmBase = true ∧
    (rd.firstMsg 0 1).isSome = true ∧ okIs ((rd.takeMsg 0).exported (msgOf 1 0 (zeros 8 ++ [4, 0])) false 4) hbmBase = true ∧
    (wr.firstMsg 0 3).isSome = true ∧ okIs ((wr.takeMsg 0).exported (msgOf 3 0 (zeros 8 ++ [1, 2])) true 2) hbmBase = true ∧
    regionOf hbmBase = .hbm ∧ (am.firstMsg 0 5).isSome = true ∧ am.poisoned hbmBase 8 = false ∧
    errIs (((arrivedOne (msgOf 1 0 (zeros 8 ++ [4, 0]))).takeMsg 0).exported (msgOf 1 0 (zeros 10)) false 4) 0xA2 = true := by decide

/-- A request of core 0 for 8 bytes of a peer's memory. -/
def reqOf (kind : ReqKind) : Req :=
  { kind := kind, core := 0, job := 1, cmd := 0, target := 1, seg := 0, sent := 0, va := 0, pa := poolBase, n := 8, home := 0, line := none }

/-- Core 0 waits for the answer to request 3, or has a write outstanding under it. -/
def asked (kind : ReqKind) (b : Option Blocked) (m : List Msg) : State :=
  { runs { coreOf 0 0 0 with blocked := b } with ports := [(0, { up with arrived := m })], reqs := [(3, reqOf kind)], now := 20000000 }

theorem witness_FjorinResponses :
    let rd := asked .load (some (.pool 3 4 8 false 0 0)) [msgOf 2 0 (zeros 8)]
    let am := asked .amo (some (.pool 3 4 8 false 0 0)) [msgOf 6 0 (zeros 8)]
    let wr := asked .write none [msgOf 4 0 []]
    let er := asked .write none [msgOf 9 0 [0xA1]]
    let late := asked .load (some (.pool 3 4 8 false 0 0)) []
    SMap.find rd.reqs 3 = some (reqOf .load) ∧ rd.job 1 = some job1 ∧
    rd.firstMsg 0 2 = some (msgOf 2 0 (zeros 8)) ∧ job1.state = .running ∧ (rd.core 0).pc ≠ lastPc ∧ (am.firstMsg 0 6).isSome = true ∧
    (wr.firstMsg 0 4).isSome = true ∧ er.firstMsg 0 9 = some (msgOf 9 0 [0xA1]) ∧ BitVec.ofNat 8 (numAt [0xA1#8] 0 1) ≠ 0 ∧
    wr.held = [] ∧
    (let put : HeldPut := { queue := 5, core := 0, job := 1, cmd := 0, word := word1 };
      let h : State := bound 5 { wr with held := [put] };
      let two : State := { h with reqs := [(3, reqOf .write), (4, reqOf .write)] };
      h.held = [put] ∧ (∀ e ∈ h.reqs, e.1 ≠ 3 → ¬(e.2.kind = .write ∧ e.2.core = put.core ∧ e.2.job = put.job ∧ e.2.cmd = put.cmd)) ∧
      h.qBound 5 = true ∧ h.wouldEnter 5 = true ∧
      ∃ e ∈ two.reqs, e.1 ≠ 3 ∧ e.2.kind = .write ∧ e.2.core = put.core ∧ e.2.job = put.job ∧ e.2.cmd = put.cmd) ∧ (msgOf 2 0 (zeros 8)).poison = false ∧ (msgOf 2 0 (zeros 8)).tag = 3 ∧
    (let cm := { asked .read none [msgOf 2 0 (zeros 8)] with cmds := [work 5 1 []], reqs := [(3, { reqOf .read with cmd := 1 })] };
      SMap.find cm.reqs 3 = some { reqOf .read with cmd := 1 } ∧ (reqOf .read).kind = .read ∧ cm.firstMsg 0 2 = some (msgOf 2 0 (zeros 8)) ∧
      cm.cmd ((1 : Nat) - 1) = some (work 5 1 [])) ∧
    (let wc := { wr with reqs := [(3, { reqOf .write with cmd := 1 })] }; SMap.find wc.writeFail ((1 : Nat) - 1) = none) ∧
    (let gone : State := { wr with jobs := [{ job1 with state := .preempted }] };
      gone.job 1 = some { job1 with state := .preempted } ∧ (gone.firstMsg 0 4).isSome = true ∧ ReqKind.write.answeredBy 0x04 = true ∧
      ReqKind.write.lands = true) ∧
    (late.core 0).runAhead = none ∧ late.stopped = false ∧ 100000 * late.regFld Reg.fjlTimeouts 16 16 ≤ late.now.toNat := by decide

/-- Queue 6 of kind k on port 0, for or of job 1, holding x; port 0 up with the messages arrived. -/
def linkQueue (cfg : Word) (x : StemQ) (m : List Msg) : State :=
  (({ runs (coreOf 0 0 0) with ports := [(0, { up with arrived := m })], now := 600000000 } : State).setReg (Reg.stmQcfg 6) cfg).setQueue 6 x

theorem witness_QueueWordsOnLinks :
    let qw := msgOf 7 0 (toLE 2 6 ++ [1] ++ zeros 32)
    let inq := linkQueue 0x0001000000000005 StemQ.empty [qw]
    let out := linkQueue 0x0000000100000004 { StemQ.empty with words := [word1], pos := 1 } []
    let sent : HeadSend := { accepted := 0, failed := 0, awaiting := 1, first := [(0, 0)], last := [(0, 0)] }
    let ans := linkQueue 0x0000000100000004 { StemQ.empty with words := [word1], pos := 1, head := some sent } [msgOf 8 0 [0, 0, 1]]
    let multi := (linkQueue 0x0000000100000004 { StemQ.empty with words := [word1], pos := 1, head := some sent } []).setReg (Reg.stmQtgt 6) 0x10
    inq.firstMsg 0 7 = some qw ∧ numAt qw.payload 0 2 = 6 ∧ inq.qBound 6 = true ∧ inq.qKind 6 = 5 ∧ inq.qTarget 6 % 8 = 0 ∧ inq.wouldEnter 6 = true ∧
    out.qBound 6 = true ∧ out.qKind 6 = 4 ∧ out.qPorts 6 = [0] ∧ out.portUp 0 = true ∧ (out.queue 6).head = none ∧
    (ans.firstMsg 0 8).isSome = true ∧ ans.awaitingQueue 0 0 = some 6 ∧ ans.qPorts 6 = [0] ∧ (0 ∈ multi.qPorts 6) ∧ 1 < (multi.qPorts 6).length ∧
    1000 * multi.regFld Reg.fjlTimeouts 0 16 ≤ multi.now.toNat := by decide

theorem witness_TimeAndSegments :
    let ask := msgOf 0x0A 0 (zeros 26)
    let ans := msgOf 0x0A 0 ([1, 0] ++ zeros 24)
    let s := (ported { up with arrived := [ans], syncT1 := some 0 }).setReg Reg.fjlTimeCfg 0
    (up.state = .up) ∧ 1000000 ≤ ((ported up).now - up.syncAt).toNat ∧ (up.arrived = []) ∧ numAt ask.payload 0 1 = 0 ∧ numAt ans.payload 0 1 ≠ 0 ∧
    (s.port 0).syncT1 = some (numAt ans.payload 2 8 : Int) ∧ s.isRoot = false ∧ bitAt (s.reg Reg.fjlTimeCfg) 30 = false ∧
    s.regFld Reg.fjlTimeCfg 0 3 = 0 ∧ (atStage 1).segInval = none ∧
    (let wait : State := { asked .load none [] with segInval := some 0x10000, reqs := [(3, { reqOf .load with segInval := true })] };
      wait.segInval = some 0x10000 ∧ wait.segInval ≠ none ∧ ∃ e ∈ wait.reqs, e.2.segInval = true) ∧
    (let free : State := { asked .load none [] with segInval := some 0x10001 };
      free.segInval = some 0x10001 ∧ ∀ e ∈ free.reqs, e.2.segInval = false) := by decide

/-- Every Peony core and engine serves; job 1 of group 0 is j. -/
def serving (j : Job) : State := (({ runs (coreOf 0 0 0) with jobs := [j] }).setReg Reg.hubPeonyMap 0xFFFFFFFFFFFFF).setReg Reg.hubEngineMap 0xFFFFFF |>.setReg Reg.hubDieStatus 0x80808080

/-- Job 1 waiting to start. -/
def queued1 : Job := { job1 with state := .queued, tStart := none, placed := [] }

/-- The descriptor of a job 2 for one Peony core of group 0, its image of 4 bytes in the host, its tables at the start of shared SRAM. -/
def jobDesc : List Byte :=
  [2, 0, 0, 1, 1, 0, 0, 0] ++ toLE 8 0x2000 ++ toLE 4 4 ++ zeros 4 ++ toLE 8 sharedBase ++ toLE 8 0x1000 ++ zeros 88

theorem witness_JobsRun :
    let s := serving queued1
    let j := jobOf jobDesc 0 0 0 (.data [0, 0, 0, 0])
    let p := serving { job1 with state := .preempted }
    let r := serving job1
    let halted : State := { serving job1 with cores := [(0, { coreOf 0 0 0 with state := .halted })] }
    let faulted : State := { serving job1 with cores := [(0, { coreOf 0 0 0 with state := .faulted })] }
    (atStage 1).start.stage = 1 ∧ (0 : Word).getLsbD 63 = false ∧ jobDesc.length = 128 ∧ isDevice j.statusAddr.toNat = false ∧
    (serving job1).descBroken jobDesc j = false ∧ (serving job1).submitCheck jobDesc j (.data [0, 0, 0, 0]) = (none, serving job1) ∧
    (serving job1).descBroken (zeros 128) (jobOf (zeros 128) 0 0 0 .abort) = true ∧
    s.isGroup 0 = true ∧ s.runningJob 0 = none ∧ s.nextJob 0 = some queued1 ∧ s.jobImage queued1 = some [0, 0, 0, 0] ∧
    s.placement 0 1 0 = some [0] ∧ (runs (coreOf 0 0 0)).placement 0 1 0 = none ∧ p.nextJob 0 = some { job1 with state := .preempted } ∧
    (∀ n ∈ job1.placed, p.serving n = true) ∧ r.runningJob 0 = some job1 ∧ (∀ n ∈ job1.placed, (halted.core n).state = .halted) ∧
    (∃ n ∈ job1.placed, (faulted.core n).state = .faulted) ∧ (∀ c ∈ r.cmds, c.job ≠ 1) ∧ r.job 1 = some job1 ∧ r.jobWrites 1 = false ∧
    ({ r with reqs := [(3, { kind := .write, core := 0, job := 1, cmd := 0, target := 1, seg := 0, sent := 0, va := 0, pa := poolBase, n := 8,
                             home := 0, line := none })] } : State).jobWrites 1 = true ∧ ({ job1 with killed := true } : Job).killed = true ∧
    (∀ q ∈ [0, 5], (∀ w ∈ (r.queue q).waiting, w.who ≠ .core 0) ∧ (0 : CoreId) ∉ (r.queue q).getters) ∧ r.fxg = [] ∧
    (∃ c ∈ (withCmd (work 0 1 [])).cmds, c.job = 1 ∧ c.phase ≠ .queued) := by decide

/-- Job 1 runs and job 2, of higher priority, waits; partition 0 has save areas. -/
def contested : State :=
  { serving job1 with jobs := [job1, { queued1 with id := 2, prio := 2 }] }.setReg (Reg.hubSaveCfg 0) 0x1000000001

/-- What a job with core 0 left in its save areas. -/
def saved0 : Saved := { cores := [(0, coreOf 0 0 0)], peony := [], live := [], owned := [], bad := [], cmds := [] }

theorem witness_PreemptionAndRestore :
    let saving : State := { serving { job1 with state := .saving } with cmds := [{ work 0 1 [] with phase := .queued }] }
    let restoring := serving { job1 with state := .restoring, saved := some saved0 }
    let waits : State := { saving with cmds := [{ work 0 1 [] with phase := .started }], reqs := [(3, { reqOf .read with cmd := 1 })] }
    let ack : Landed := { partition := 0, tag := 3, req := reqOf .write, code := 0xA5, poison := false, data := [] }
    let landed : State := { restoring with landing := [ack] }
    contested.runningJob 0 = some job1 ∧ contested.job 1 = some job1 ∧ (∃ k ∈ contested.jobs, k.isLive = true ∧ k.group = 0 ∧ k.state = .queued ∧ job1.prio < k.prio) ∧
    contested.areaFree 0 = true ∧ SMap.find contested.recoveries 0 = none ∧ isDevice job1.statusAddr.toNat = false ∧
    saving.runningJob 0 = some { job1 with state := .saving } ∧ (∀ c ∈ saving.cmds, c.job = 1 → c.phase = .queued) ∧
    saving.landingFits { job1 with state := .saving } = true ∧
    (∀ c ∈ waits.cmds, c.job = 1 → c.phase = .queued ∨ waits.awaitsPool c.id = true) ∧ (∃ c ∈ waits.cmds, c.phase ≠ .queued) ∧
    ({ job1 with imemSave := true } : Job).imemSave = true ∧ (∃ e ∈ saved0.cores, BitVec.ofNat 6 e.1 = ack.req.core ∧ e.2.job = job1.id) ∧ landed.landing = [ack] ∧
    ack.req.kind = .write ∧ ack.code ≠ 0 ∧ (saved0.live.map Prod.fst).Nodup ∧ (∀ l ∈ restoring.landing, l.req.job ≠ 1) ∧
    restoring.runningJob 0 = some { job1 with state := .restoring, saved := some saved0 } ∧ (∀ e ∈ saved0.cores, e.1 < 64) ∧
    (saved0.cores.map Prod.fst).Nodup := by decide

theorem witness_UnitHealth :
    let hot : State := { atStage 5 with retried := [1], now := 1000000000, ceLogged := [(1, 0)] }
    1 ∈ hot.retried ∧ 2 ∉ hot.retried ∧ 1000000000 ≤ (hot.now - 0).toNat ∧ (Instr.scrub 0x1000000000 0 2).wf = true ∧
    isRam 0x1000000000 = true ∧ isRam 0x200000000000 = false ∧ (atStage 5).selfRefresh = false ∧ (atStage 5).sramPassNs ≤ 2 ^ 63 ∧
    ((atStage 5).now - (atStage 5).passSram).toNat < (atStage 5).sramPassNs ∧ ((atStage 5).now - (atStage 5).passHbm).toNat < (atStage 5).hbmPassNs ∧
    (0x1000#16).toNat / 4096 ∈ [0, 1, 2, 7] ∧ (0x3000#16).toNat / 4096 ∉ [0, 1, 2, 7] ∧ (atStage 5).press = none ∧
    SMap.get false (atStage 5).poison (0x1000000000 / 64) = false ∧
    SMap.get false ({ atStage 5 with poison := [(0x40000000, true)] } : State).poison (0x1000000000 / 64) = true ∧
    unitFails 0x1000 = true ∧ unitFails 0x0FFF = false ∧ (0x1000#16).toNat / 4096 ≠ 15 ∧ (0xF000#16).toNat / 4096 = 15 ∧
    bitAt ((atStage 5).reg Reg.mgdCfg) 24 = false ∧ bitAt ((regged 5 Reg.mgdCfg 0x1000000).reg Reg.mgdCfg) 24 = true ∧
    ((atStage 5).core 48).brkStop = false ∧ (atStage 5).coreOfUnit 0x3000 = none ∧ (atStage 5).fatal = false ∧
    (atStage 5).pendingLong 0x1000 = false ∧
    (let busy : State := { atStage 5 with now := 2000000, cmds := [{ work 1 1 [] with since := 0 }] };
      busy.pendingLong 0x1000 = true ∧ ({ busy with now := 1999999 } : State).pendingLong 0x1000 = false) := by decide

/-- A recovery of group 0, RENTRY enabled, job 1 running there. -/
def recovering (entry : Word) : State := { serving job1 with recoveries := [(0, { code := 0xC0, unit := 0x2000 })] }.setReg (Reg.mgdGrpRentry 0) entry

/-- A module stopped for a cut in state n. -/
def cutting (n : Word) : State := { atStage 5 with stopped := true, now := 20000000 }.setReg Reg.mgdCutStatus n

theorem witness_RecoveryAndGlobalStop :
    let s := recovering 0x80000000
    SMap.find s.recoveries 0 = some { code := 0xC0, unit := 0x2000 } ∧ s.runningJob 0 = some job1 ∧ s.job job1.id = some job1 ∧ job1.killed = false ∧
    (∀ c ∈ s.cmds, c.job = 1 → c.phase = .queued) ∧ bitAt (s.reg (Reg.mgdGrpRentry 0)) 31 = true ∧
    s.stopped = false ∧ s.tripped = false ∧ job1.saved = none ∧ s.sessions = [] ∧ job1.restartTimes.length < 3 ∧
    (let thrice : Job := { job1 with restartTimes := [s.now, s.now, s.now] };
      3 ≤ (thrice.restartTimes.filter (fun t => decide ((s.now - t).toNat < 10000000000))).length) ∧
    bitAt ((recovering 0).reg (Reg.mgdGrpRentry 0)) 31 = false ∧ s.placement 0 1 0 = some [0] ∧ s.jobImage job1 = some [0, 0, 0, 0] ∧
    (1#32).getLsbD 0 = true ∧ ((arrivedOne (msgOf 0x0B 0 (zeros 4))).port 0).arrived.find? (fun m => m.typ = 0x0B) = some (msgOf 0x0B 0 (zeros 4)) ∧
    bitAt ((cutting 0x101).reg Reg.mgdCutStatus) 8 = true ∧ 10000000 ≤ ((cutting 0x101).now - (cutting 0x101).stop.began).toNat ∧
    (cutting 1).regFld Reg.mgdCutStatus 0 2 = 1 ∧ (cutting 1).regFld Reg.mgdCutStatus 8 8 = 0 ∧ (cutting 1).selfRefresh = false ∧
    (cutting 2).regFld Reg.mgdCutStatus 0 2 = 2 ∧ (cutting 2).stop.held = [] ∧ (2#32).getLsbD 1 = true := by decide

/-- The module without power. -/
def off : State := { State.reset with start := { Start.reset with off := true } }

theorem witness_Starts :
    off.start.off = true ∧ (atStage 1).start.closing = false ∧ (0xA55A0001#32).extractLsb' 16 16 = 0xA55A ∧ (0xA55A0001#32).extractLsb' 0 2 = 1 ∧
    (0xA55A0002#32).extractLsb' 0 2 = 2 ∧ (0xA55A0003#32).extractLsb' 0 2 = 3 ∧ (∀ j ∈ (atStage 1).jobs, j.isLive = false) ∧ (atStage 1).pf1.cmds = [] ∧
    (let closing : State := { atStage 5 with start := { (atStage 5).start with closing := true } };
      closing.start.closing = true ∧ closing.pf1.cmds = [] ∧ closing.pf1.shst ≠ 2 ∧ ({ closing.pf1 with shst := 2 } : Pf1).shst = 2) ∧
    (atStage 1).start.losing = false ∧ (regged 5 Reg.pwrStartCfg 0).reg Reg.pwrStartCfg &&& 1 = 0 ∧ (regged 5 Reg.pwrStartCfg 1).reg Reg.pwrStartCfg &&& 1 = 1 ∧
    ((linked 5).start.port 0).perst = false ∧ (4#3).toNat ≤ 4 ∧ (2 : Nat) ^ 30 - 1 ≤ 2 ^ 30 := by decide

/-- The work of a stage that found everything well. -/
def goodWork : StageWork := { cores := 0xFFFFFFFFFFFFF, lupin := 0xFFFF, dies := 0xF, hbm := 0xFF, mapOk := true, replayed := 0 }

/-- A warm start at stage n whose record names every HBM stack. -/
def warmAt (n : Nat) (r : Option (BitVec 8)) : State := { atStage n with start := { (atStage n).start with warm := true, record := r } }

theorem witness_StartStages :
    goodWork.replayed ≤ 2 ^ 30 ∧ (atStage 0).startRuns = true ∧ (atStage 0).start.closing = false ∧ (atStage 0).sec.bankCheck 0 0 = none ∧
    (let worn : Sec := { Sec.reset with minSvn := 0xFF }; worn.bankCheck 0 0 ≠ none ∧ worn.bankCheck 0 1 ≠ none) ∧
    (∀ c ∈ [1, 2, 3], (atStage 1).sec.bankCheck c 0 = none) ∧ (warmAt 1 none).start.record = none ∧ (warmAt 2 (some 0xFF)).start.warm = true ∧
    goodWork.hbm &&& 0xFF = 0xFF ∧ ((0x7F#8) &&& 0xFF) ≠ 0xFF ∧ bitAt ((atStage 3).reg Reg.pwrHoldup) 31 = false ∧
    bitAt ((regged 3 Reg.pwrHoldup 0x80000000).reg Reg.pwrHoldup) 31 = true ∧
    (let s : State := { atStage 4 with start := { (atStage 4).start with released := some 0 }, now := 15000000000 }; 15000000000 ≤ (s.now - 0).toNat) ∧
    (let s : State := { atStage 1 with now := 2000000001 }; 2000000000 < (s.now - s.start.began).toNat) := by decide

/-- A sample of a module at 800 W and 60 °C. -/
def sample0 : PowerSample :=
  { watts := 800, mv := 800, target := 800, hub := 800, tj := [60, 60, 60, 60, 110], cycle := [680, 680, 680, 680], stops := 2 }

theorem witness_PowerAndCooling :
    let s : State := { atStage 5 with now := 20000000, power := { Power.reset with hot := [(4, 10000000)] } }
    let c : Coolant := { flow := 600, tIn := 300, tOut := 400, loopBad := false }
    let dies := s.setReg Reg.hubDieStatus 0x80808080
    let hot := { s.setRegFld Reg.pwrStatus 22 10 640 with start := { s.start with stage := 5 } }
    s.start.off = false ∧ (Instr.powerLoopSample sample0).wf = true ∧ 100000 ≤ (s.now - s.power.sampled).toNat ∧ 600 ≤ s.regFld Reg.pwrLimit 16 10 ∧
    dies.sampleOk sample0 = true ∧ dies.sampleOk { sample0 with cycle := [680, 680, 680, 820] } = false ∧ dies.dieSupply sample0 0 800 = 800 ∧
    ({ s with now := 99999 } : State).now.toNat < 100000 ∧ s.power.turn < 48 ∧ hot.capWatts < ({ sample0 with watts := 2000 } : PowerSample).watts.toNat ∧
    hot.targetFor 500 2000 = 600 ∧ hot.sampleOk { sample0 with watts := 2000, target := 500 } = true ∧
    SMap.find s.power.hot 4 = some 10000000 ∧ 10000000 ≤ (s.now - 10000000).toNat ∧ (Instr.junctionOverheat 4).wf = true ∧
    (Instr.valveIteration c 100).wf = true ∧ s.power.valveTa.toNat ≤ s.now.toNat ∧ s.power.valveEnd = none ∧ 50 ≤ c.flow.toNat ∧ (49#16).toNat < 50 := by
  decide

theorem witness_PowerLossAndGuard :
    let s := atStage 5
    let safe : State := { s with guard := { Interlock.reset with safeRun := 1000 } }
    let trip : State := { s with guard := { Interlock.reset with safeRun := 999 }, tripped := true }
    s.start.off = false ∧ s.start.losing = false ∧ s.power.holdupAt = none ∧ ({ s.start with losing := true } : Start).losing = true ∧
    s.guard.sampled = none ∧ s.regFld Reg.grdCfg 0 10 = 200 ∧ ({ s.guard with run := 199 } : Interlock).run + 1 = 200 ∧
    bitAt (s.reg Reg.grdStatus) 29 = false ∧ 999 ≤ trip.guard.safeRun ∧ trip.tripped = true ∧ (1#32).getLsbD 0 = true ∧ s.guard.safeRun < 1000 ∧
    1000 ≤ safe.guard.safeRun ∧ (0#32).getLsbD 0 = false := by decide

/-- Heather with one request waiting over SMBus, at stage n. -/
def asks (n : Nat) (m : MctpMsg) (u : Option Update) : State :=
  { atStage n with heather := { Heather.reset with waiting := [(.smbus, m)], spdm := 3, update := u }, now := 20000000 }

theorem witness_EndpointRequests :
    (asks 5 .getVersion none).hears .smbus = true ∧ ({ atStage 5 with now := 19999999 } : State).hears .smbus = false ∧
    (∀ x, MctpMsg.getVersion ≠ .otherType x) ∧
    ((asks 5 .getVersion none).heather.waiting.filter (fun x => decide (x.1 = .smbus))).length < 4 ∧
    (∀ y, ([] : List (Transport × MctpMsg)).head? = some y → (asks 5 .getVersion none).plainReply y.2 = none) ∧
    (asks 5 .getDigests none).heather.waiting = [(.smbus, .getDigests)] ∧ (asks 0 .getDigests none).start.stage = 0 ∧
    (∀ x, MctpMsg.control 0x02 ≠ .otherType x) ∧ (atStage 5).heather.waiting = [] ∧ ({ atStage 5 with now := 20000000 } : State).hears .smbus = true ∧
    (asks 5 (.setEndpointId 9) none).heather.waiting = [(.smbus, .setEndpointId 9)] ∧
    ((asks 5 .getDigests none).heather.spdm = 3 ∧ (atStage 5).heather.spdm < 1 ∧ (asks 5 .getVersion none).plainReply .getVersion = none) ∧
    (asks 5 .getVersion none).measurement 1 ≠ none ∧ (asks 1 .getVersion none).measurement 5 = none :=
  ⟨by decide, by decide, (fun _ h => nomatch h), by decide, (fun _ h => nomatch h), by decide, by decide, (fun _ h => nomatch h),
    by decide, by decide, by decide, by decide,
    (fun h => nomatch h), by decide⟩

/-- A firmware update of component 1 in progress. -/
def update0 (v : Bool) : Update := { component := 0, bytes := zeros 4, verified := v }

theorem witness_SensorsUpdatesAndSecurity :
    (asks 5 (.setNumericEffecterValue 1 900) none).heather.waiting = [(.smbus, .setNumericEffecterValue 1 900)] ∧ (1600#32).toNat ≤ 1600 ∧
    (asks 5 .verifyComplete none).guardActive = false ∧ (asks 5 .verifyComplete (some (update0 true))).heather.update = some (update0 true) ∧
    (asks 5 .verifyComplete none).updateOpen .smbus = true ∧ (asks 0 .verifyComplete none).updateOpen .smbus = false ∧ (update0 true).component < 4 ∧
    (atStage 5).sec.componentCheck 0 (zeros 4) = some 0xE0 ∧ bitAt (atStage 5).sec.ownerFused 3 = false ∧ bitAt (0xF#4) 3 = true ∧
    (0x5A3C000F#32).extractLsb' 16 16 = 0x5A3C ∧ (0x80000000#32).getLsbD 31 = true ∧ 2 ≤ (atStage 2).start.stage ∧
    ({ asks 5 (.setStateEffecterStates 2) none with guard := { Interlock.reset with safeRun := 1000 } } : State).guard.safeRun = 1000 := by decide

/-- Trace buffer b of 1 MiB at the start of HBM, enabled, with the record r. -/
def tracing (b : Nat) (r : TraceRec) (g : Word) : State :=
  (((({ atStage 5 with trace := [r], traceTime := some 0 } : State).setReg (Reg.dbgTraceCfg b) 0x8000000100000000).setReg (Reg.dbgTraceBase b) 0x1000000000).setRegFld
    (Reg.dbgTraceStatus b) 0 48 8).setReg Reg.dbgTrigger g

/-- A tagged record of event 2. -/
def record0 : TraceRec := .tagged true 0 0 0x02 0 1 0 0 0

/-- A core that missed two lines of pool segment 0 in a row; the segment's entry is e. -/
def missedPool (e : Nat) : State :=
  let s : State := { exports (runs { coreOf 0 0 0 with lastMiss := [0x4000000002, 0x4000000001] }) with ports := [(0, up)] }
  (withBytes 0 (toLE 8 e) s).setReg Reg.fjlSegBase 0x1000000001 |>.setReg Reg.fxgScacheCtrl 1 |>.setReg Reg.fjlModuleId 0x10000

theorem witness_HoldTracesAndPrefetch :
    let s := tracing 0 (.addr 0 0 0 0) 0
    let u := tracing 1 record0 0x8C00000000020000
    let full := (tracing 1 record0 0).setRegFld (Reg.dbgTraceStatus 1) 0 48 1048568
    let missed := (runs { coreOf 0 0 0 with lastMiss := [0x10000002, 0x10000001] }).setReg Reg.fxgScacheCtrl 1
    1 ≤ s.start.stage ∧ s.stopped = false ∧ bitAt (s.reg (Reg.dbgTraceCfg 0)) 63 = true ∧ bitAt (s.reg (Reg.dbgTraceStatus 0)) 62 = false ∧
    s.regFld (Reg.dbgTraceStatus 0) 0 48 + 8 ≤ s.regFld (Reg.dbgTraceCfg 0) 32 16 * mib ∧ s.regFld (Reg.dbgTraceStatus 0) 0 48 % mib ≠ 0 ∧
    regionOf (s.regFld (Reg.dbgTraceBase 0) 12 36 * 4096 + 8) = .hbm ∧ s.traceTime = some 0 ∧ u.trace = [record0] ∧
    bitAt (u.reg Reg.dbgTrigger) 63 = true ∧ fld (u.reg Reg.dbgTrigger) 16 8 = 2 ∧ bitAt (u.reg Reg.dbgTrigger) 59 = true ∧
    bitAt (u.reg Reg.dbgTrigger) 58 = true ∧ fld (u.reg Reg.dbgTrigger) 45 13 = 0 ∧ fld (u.reg Reg.dbgTrigger) 60 2 = 0 ∧ u.tracePost = none ∧
    full.regFld (Reg.dbgTraceCfg 1) 32 16 * mib < full.regFld (Reg.dbgTraceStatus 1) 0 48 + 32 ∧ (missed.core 0).lastMiss = [0x10000002, 0x10000001] ∧
    missed.scacheMib 0 ≠ 0 ∧ missed.specOff 1 = false ∧ missed.streamHit 0 (256 * 0x10000003) = false ∧ regionOf (256 * 0x10000003) = .hbm ∧
    (0x10000003 : Nat) / 16 = 0x10000002 / 16 ∧
    (let h := missedPool 0xC000000000000000;
      h.scacheMib 0 ≠ 0 ∧ h.specOff 1 = false ∧ regionOf (256 * 0x4000000003) = .pool ∧ h.streamHit 0 (h.home (256 * 0x4000000003)) = false ∧
      okIs (h.poolTarget (256 * 0x4000000003) false) (.here 0x1000000300) = true) ∧
    (let r := missedPool 0xC000000000000001;
      r.streamHit 0 (r.home (256 * 0x4000000003)) = false ∧ okIs (r.poolTarget (256 * 0x4000000003) false) (.there 1 0 0 0x300) = true ∧ r.reqs = [] ∧
      (r.sendRouted { dst := 1, src := 0, typ := 0x01, cls := 2, vc := false, ttl := 128, poison := false, tag := r.nextTag
                      payload := addressWord 0 0 0x300 ++ toLE 2 256 } none).isOk = true) := by decide

theorem witness_PressingsWatchdogsBreakpoints :
    let area : State := (atStage 5).setReg Reg.dbgPressCfg 0x1000000000000001
    let at_ : State := (atStage 5).setReg Reg.dbgPressCfg 0x1000000001
    let pressing : State := { at_ with press := some { cause := 1, group := 16, job := 0, began := 0, hung := 0, follow := 0 } }
    let late : State := { serving job1 with wdog := [(0, 1000000000)] }.setReg (Reg.dbgWdog 0) 0x800003E8
    area.regFld Reg.dbgPressCfg 0 8 ≠ 0 ∧ area.press = none ∧ (pressing.press.any (fun x => x.follow = 0)) = true ∧
    pressing.regFld Reg.dbgPressCfg 20 28 * mib = hbmBase ∧ regionOf hbmBase = .hbm ∧ regionOf (hbmBase + mib - 1) = .hbm ∧
    late.runningJob 0 = some job1 ∧ late.watching 0 = true ∧ fld (late.reg (Reg.dbgWdog 0)) 0 16 * 1000000 ≤ SMap.get 0 late.wdog 0 ∧
    ((runs { coreOf 0 0 0 with brkDrain := true }).core 0).brkDrain = true ∧ ((runs { coreOf 0 0 0 with brkStop := true }).core 0).brkStop = true ∧
    ((runs { coreOf 0 0 0 with brkStop := true, past := true }).core 0).past = true ∧ (1#64).getLsbD (0#6).toNat = true := by
  decide

theorem witness_StepRunsTheFront :
    ({ atStage 5 with pending := [.fatal] } : State).pending = [.fatal] ∧ (atStage 5).pending = [] ∧ off.start.off = true ∧
    ({ atStage 5 with align := { good := 0, slowNs := 1, slowPhase := 999 } } : State).align.slowPhase = 999 := by decide

theorem witness_StepKeepsMemorySound : State.reset.sound = true ∧ after (step State.reset) (fun t => t.sound) = true := by decide

theorem witness_FusesOnlyBurn :
    let s : State := { asks 5 (.provisioning (.ownerHash 0 7)) none with pending := [.provisioning] }
    after (step s) (fun t => bitAt t.sec.ownerFused 0) = true := by decide

end Sys2Proof.Tests
end

section
/-!
SUPPORT. Bit fields of registers: what a field reads after a write.
-/

namespace Sys2Proof.Machine

/-! ### Bit fields -/

theorem bitAt_eq_getLsbD {n : Nat} (v : BitVec n) (i : Nat) : bitAt v i = v.getLsbD i := BitVec.testBit_toNat v

theorem fld_eq_extractLsb' {n : Nat} (v : BitVec n) (lo w : Nat) : fld v lo w = (v.extractLsb' lo w).toNat := by
  simp [fld, bitsOf, BitVec.extractLsb'_toNat]

theorem testBit_fld {n : Nat} (v : BitVec n) (lo w i : Nat) : (fld v lo w).testBit i = (decide (i < w) && v.getLsbD (lo + i)) := by
  rw [fld_eq_extractLsb', BitVec.testBit_toNat, BitVec.getLsbD_extractLsb']

/-- Bit i of a word with a field replaced. -/
theorem getLsbD_setFld (v : Word) (lo w x i : Nat) :
    (setFld v lo w x).getLsbD i =
      if i < 64 ∧ lo ≤ i ∧ i < lo + w then x.testBit (i - lo) else v.getLsbD i := by
  have hm : ((2 ^ w - 1) <<< lo).testBit i = decide (lo ≤ i ∧ i < lo + w) := by
    rw [Nat.testBit_shiftLeft, Nat.testBit_two_pow_sub_one, Bool.eq_iff_iff]
    simp only [ge_iff_le, Bool.and_eq_true, decide_eq_true_eq]
    omega
  simp only [setFld, BitVec.getLsbD_or, BitVec.getLsbD_and, BitVec.getLsbD_not, BitVec.getLsbD_ofNat, hm, Nat.testBit_shiftLeft]
  by_cases h64 : i < 64
  · by_cases hlo : lo ≤ i <;> by_cases hhi : i < lo + w <;> simp [h64, hlo, hhi]
  · simp [h64, BitVec.getLsbD_of_ge v i (by omega)]

/-- A field reads back what was written to it. -/
theorem fld_setFld_same (v : Word) {lo w x : Nat} (h : lo + w ≤ 64) (hx : x < 2 ^ w) : fld (setFld v lo w x) lo w = x := by
  apply Nat.eq_of_testBit_eq
  intro i
  rw [testBit_fld, getLsbD_setFld]
  by_cases hi : i < w
  · simp [hi, show lo + i < 64 by omega]
  · simp [hi, Nat.testBit_lt_two_pow (Nat.lt_of_lt_of_le hx (Nat.pow_le_pow_right (by decide) (Nat.not_lt.mp hi)))]

/-- A field keeps its value when one that does not meet it is written. -/
theorem fld_setFld_other (v : Word) {lo w lo' w' x : Nat} (h : lo' + w' ≤ lo ∨ lo + w ≤ lo') :
    fld (setFld v lo w x) lo' w' = fld v lo' w' := by
  apply Nat.eq_of_testBit_eq
  intro i
  rw [testBit_fld, testBit_fld, getLsbD_setFld]
  by_cases hi : i < w'
  · rw [if_neg (by omega)]
  · simp [hi]

theorem State.regFld_setRegFld_same (s : State) (a : Nat) {lo w x : Nat} (h : lo + w ≤ 64) (hx : x < 2 ^ w) :
    (s.setRegFld a lo w x).regFld a lo w = x := by
  rw [State.setRegFld, State.regFld, State.reg_setReg_same, fld_setFld_same _ h hx]

theorem State.regFld_setRegFld_otherFld (s : State) (a : Nat) {lo w lo' w' x : Nat} (h : lo' + w' ≤ lo ∨ lo + w ≤ lo') :
    (s.setRegFld a lo w x).regFld a lo' w' = s.regFld a lo' w' := by
  rw [State.setRegFld, State.regFld, State.reg_setReg_same, fld_setFld_other _ h, State.regFld]

theorem State.reg_setRegFld_other (s : State) {a b : Nat} (lo w x : Nat) (h : b ≠ a) : (s.setRegFld a lo w x).reg b = s.reg b :=
  State.reg_setReg_other _ _ h

theorem b2n_lt_two (b : Bool) : b2n b < 2 := by cases b <;> decide

end Sys2Proof.Machine
end

section
/-!
SUPPORT. Jobs: what leaves the list of jobs alone, and that the end of a job leaves no live job of its JOB_ID (R341).
-/

namespace Sys2Proof.Machine

/-! ### What leaves the list of jobs alone -/

theorem foldl_jobs {β : Type} (g : State → β → State) (l : List β) (s : State) (hg : ∀ t x, (g t x).jobs = t.jobs) :
    (l.foldl g s).jobs = s.jobs := by
  induction l generalizing s with
  | nil => rfl
  | cons x l ih => exact (ih _).trans (hg s x)

theorem foldl_fst_jobs {β γ : Type} (g : State × γ → β → State × γ) (l : List β) (p : State × γ)
    (hg : ∀ q x, (g q x).1.jobs = q.1.jobs) : (l.foldl g p).1.jobs = p.1.jobs := by
  induction l generalizing p with
  | nil => rfl
  | cons x l ih => exact (ih _).trans (hg p x)

@[simp] theorem State.bump_jobs (s : State) (a n : Nat) : (s.bump a n).jobs = s.jobs := by rw [State.bump_fields]

@[simp] theorem State.setRegFld_jobs (s : State) (a lo w x : Nat) : (s.setRegFld a lo w x).jobs = s.jobs := rfl

@[simp] theorem State.bumpSat_jobs (s : State) (a lo w n : Nat) : (s.bumpSat a lo w n).jobs = s.jobs := rfl

@[simp] theorem State.dropCmds_jobs (s : State) (f : Cmd → Bool) : (s.dropCmds f).jobs = s.jobs := rfl

@[simp] theorem State.squash_jobs (s : State) (src g n : Nat) : (s.squash src g n).jobs = s.jobs := by
  unfold State.squash; split <;> simp

@[simp] theorem State.evict_jobs (s : State) (gone : AheadLine → Bool) : (s.evict gone).jobs = s.jobs := by
  unfold State.evict
  dsimp only
  split
  · rfl
  · exact foldl_jobs _ _ _ fun t l => by split <;> simp

@[simp] theorem State.dropLines_jobs (s : State) (pa n : Nat) : (s.dropLines pa n).jobs = s.jobs := State.evict_jobs _ _

@[simp] theorem State.claim_jobs (s : State) (job : BitVec 16) (u : Nat) : (s.claim job u).jobs = s.jobs := by
  unfold State.claim; split <;> rfl

@[simp] theorem State.markWrite_jobs (s : State) (pa n : Nat) (bad : Bool) : (s.markWrite pa n bad).jobs = s.jobs :=
  foldl_jobs _ _ _ fun t u => by split <;> [simp; split <;> simp]

@[simp] theorem State.ramWrite_jobs (s : State) (job : BitVec 16) (pa : Nat) (bs : List Byte) (bad : Bool) :
    (s.ramWrite job pa bs bad).jobs = s.jobs := by
  unfold State.ramWrite
  simp only [State.dropLines_jobs, State.markWrite_jobs, State.putBytes_jobs]
  split
  · exact foldl_jobs _ _ _ fun t u => State.claim_jobs t job u
  · rfl

@[simp] theorem State.mmuFault_jobs (s : State) (job : BitVec 16) (agent : Nat) (f : MemFail) : (s.mmuFault job agent f).jobs = s.jobs := by
  unfold State.mmuFault
  split
  · rfl
  · split
    · exact State.setReg_jobs _ _ _
    · rfl

@[simp] theorem State.enqueueAt_jobs (s : State) (p : Nat) (m : Msg) : (s.enqueueAt p m).jobs = s.jobs := by
  unfold State.enqueueAt State.setEgress State.flowFills
  dsimp only
  split <;> rfl

/-- A message routed into the fabric. -/
theorem State.sendRouted_jobs {s t : State} {m : Msg} {inPort : Option Nat} (h : s.sendRouted m inPort = .ok t) : t.jobs = s.jobs := by
  unfold State.sendRouted at h
  repeat' split at h
  all_goals cases h
  exact State.enqueueAt_jobs _ _ _

/-- A request to a peer. -/
theorem State.request_jobs {s t : State} {r : Req} {typ : Byte} {cls : BitVec 3} {poison : Bool} {payload : List Byte}
    (h : s.request r typ cls poison payload = .ok t) : t.jobs = s.jobs := by
  unfold State.request at h
  dsimp only at h
  split at h
  · cases h
  · next u hu =>
    cases h
    have := State.sendRouted_jobs hu
    exact this

@[simp] theorem State.dropHome_jobs (s : State) (home n : Nat) : (s.dropHome home n).jobs = s.jobs := State.evict_jobs _ _

@[simp] theorem State.forgetFills_jobs (s : State) (g : Nat) : (s.forgetFills g).jobs = s.jobs := rfl

@[simp] theorem State.failedWrite_jobs (s : State) (core : CoreId) (cmd : Nat) (peer : BitVec 16) (code : Byte) :
    (s.failedWrite core cmd peer code).jobs = s.jobs := by
  unfold State.failedWrite; dsimp only; split <;> rfl

@[simp] theorem State.overwrites_jobs (s : State) (job : BitVec 16) (cmd pa n : Nat) : (s.overwrites job cmd pa n).jobs = s.jobs := by
  unfold State.overwrites; split <;> rfl

@[simp] theorem State.poolWrite_jobs (s : State) (core : CoreId) (job : BitVec 16) (cmd : Nat) (cls : BitVec 3) (va pa : Nat)
    (bs : List Byte) (bad : Bool) : (s.poolWrite core job cmd cls va pa bs bad).jobs = s.jobs := by
  unfold State.poolWrite
  split
  · simp
  · simp
  · refine (foldl_jobs _ _ _ fun t e => ?_).trans (State.dropHome_jobs _ _ _)
    split
    · next u hu => exact State.request_jobs hu
    · simp

@[simp] theorem State.writePiece_jobs (s : State) (a : Agent) (core : CoreId) (cls : BitVec 3) (va pa : Nat) (bs : List Byte)
    (bad : Bool) : (s.writePiece a core cls va pa bs bad).jobs = s.jobs := by
  unfold State.writePiece; split <;> simp

@[simp] theorem State.store_jobs (s : State) (a : Agent) (core : CoreId) (cls : BitVec 3) (va : Nat) (bs : List Byte) (bad : Bool) :
    (s.store a core cls va bs bad).jobs = s.jobs := by
  unfold State.store
  split
  · dsimp only; split <;> simp
  · exact foldl_fst_jobs _ _ _ fun q e => by simp

/-- An atomic operation on a row's word. -/
theorem State.rowAmo_jobs {s t : State} {c : Cmd} {va fn new expected : Nat} {now : Bool}
    (h : s.rowAmo c va fn new expected = .ok (t, now)) : t.jobs = s.jobs := by
  unfold State.rowAmo at h
  dsimp only at h
  repeat' split at h
  all_goals cases h
  · next hu => exact (State.dropHome_jobs _ _ _).trans (State.request_jobs hu)
  · simp

@[simp] theorem State.unlockRow_jobs (s : State) (c : Cmd) (va : Nat) (step : RowStep) : (s.unlockRow c va step).jobs = s.jobs := by
  have back (w : Nat) : (match s.rowAmo c va 0x04 w 0 with
      | .ok (t, _) => t
      | .error _ => s).jobs = s.jobs := by
    split
    · next h => exact State.rowAmo_jobs h
    · rfl
  unfold State.unlockRow
  dsimp only
  split
  · exact back _
  · exact back _
  · split
    · exact back _
    · rfl
  · rfl

@[simp] theorem State.endRows_jobs (s : State) (c : Cmd) : (s.endRows c).jobs = s.jobs := by
  unfold State.endRows; dsimp only; split <;> simp

@[simp] theorem State.wordTaken_jobs (s : State) (w : QWord) : (s.wordTaken w).jobs = s.jobs := by
  unfold State.wordTaken; split <;> rfl

@[simp] theorem State.acceptWord_jobs (s : State) (q : Nat) (w : QWord) : (s.acceptWord q w).jobs = s.jobs := by
  unfold State.acceptWord State.pushWord; split <;> simp

@[simp] theorem State.unitPut_jobs (s : State) (q : Nat) (w : QWord) : (s.unitPut q w).jobs = s.jobs := by
  unfold State.unitPut; dsimp only; split <;> [simp; split <;> simp]

@[simp] theorem State.releasePut_jobs (s : State) (h : HeldPut) : (s.releasePut h).jobs = s.jobs := by
  unfold State.releasePut; split <;> simp

@[simp] theorem State.discardWords_jobs (s : State) (q : Nat) : (s.discardWords q).jobs = s.jobs := by
  unfold State.discardWords
  refine (foldl_jobs _ _ _ fun t w => State.wordTaken_jobs t w).trans ?_
  split <;> simp

@[simp] theorem State.postFault_jobs (s : State) (n : CoreId) (code : Byte) (pc : BitVec 18) (va : Nat) :
    (s.postFault n code pc va).jobs = s.jobs := by
  unfold State.postFault
  dsimp only
  split
  · rfl
  · split <;> simp

@[simp] theorem State.traceAddr_jobs (s : State) (n : CoreId) (kind : BitVec 2) (pc : BitVec 18) : (s.traceAddr n kind pc).jobs = s.jobs := by
  unfold State.traceAddr; split <;> rfl

@[simp] theorem State.traceTagged_jobs (s : State) (p : Nat) (unit : BitVec 16) (event status : Byte) (job tag : BitVec 16)
    (arg0 arg1 : Word) : (s.traceTagged p unit event status job tag arg0 arg1).jobs = s.jobs := by
  unfold State.traceTagged; dsimp only; split <;> rfl

@[simp] theorem State.beginRecovery_jobs (s : State) (g : Nat) (code : Byte) (unit : BitVec 16) :
    (s.beginRecovery g code unit).jobs = s.jobs := by
  unfold State.beginRecovery; split <;> rfl

@[simp] theorem State.coreFault_jobs (s : State) (n : CoreId) (code : Byte) (va : Nat) : (s.coreFault n code va).jobs = s.jobs := by
  unfold State.coreFault; dsimp only; split <;> simp

@[simp] theorem State.abandon_jobs (s : State) (n : CoreId) : (s.abandon n).jobs = s.jobs := by
  unfold State.abandon; dsimp only; split <;> rfl

@[simp] theorem State.squashAhead_jobs (s : State) (n : CoreId) : (s.squashAhead n).jobs = s.jobs := by
  unfold State.squashAhead
  split
  · rfl
  · dsimp only; split <;> simp

@[simp] theorem State.idleCore_jobs (s : State) (n : CoreId) : (s.idleCore n).jobs = s.jobs := by simp [State.idleCore]

@[simp] theorem State.unbindQueue_jobs (s : State) (q : Nat) : (s.unbindQueue q).jobs = s.jobs := by
  unfold State.unbindQueue
  exact (foldl_jobs _ _ _ fun t n => State.coreFault_jobs t n _ _).trans (State.discardWords_jobs s q)

@[simp] theorem State.unbindJob_jobs (s : State) (job : BitVec 16) : (s.unbindJob job).jobs = s.jobs :=
  foldl_jobs _ _ _ fun t q => by split <;> simp

@[simp] theorem State.squashPassages_jobs (s : State) (f : Passage → Bool) : (s.squashPassages f).jobs = s.jobs :=
  foldl_jobs _ _ _ fun t p => by dsimp only; split <;> simp

@[simp] theorem State.squashSpec_jobs (s : State) (g : Nat) (job : BitVec 16) : (s.squashSpec g job).jobs = s.jobs := by
  simp [State.squashSpec]

@[simp] theorem State.releaseEntries_jobs (s : State) (job : BitVec 16) : (s.releaseEntries job).jobs = s.jobs :=
  foldl_jobs _ _ _ fun t _ => State.writePiece_jobs t _ _ _ _ _ _ _

@[simp] theorem State.endSlots_jobs (s : State) (job : BitVec 16) : (s.endSlots job).jobs = s.jobs := rfl

/-- A status record written to the fabric pool. -/
theorem State.poolRecord_jobs {s t : State} {j : Job} {pa : Nat} {bs : List Byte} (h : s.poolRecord j pa bs = some t) :
    t.jobs = s.jobs := by
  unfold State.poolRecord at h
  split at h
  · cases h
  · cases h; simp
  · split at h
    · next u hu => cases h; exact (State.dropHome_jobs u _ _).trans (State.request_jobs hu)
    · cases h

/-- A status record written. -/
theorem State.writeRecord_jobs {s t : State} {j : Job} (h : s.writeRecord j = some t) : t.jobs = s.jobs := by
  unfold State.writeRecord at h
  extract_lets bs pa at h
  clear_value bs pa
  split at h
  · split at h
    · exact State.poolRecord_jobs h
    · split at h
      · cases h; simp
      · cases h
  · cases h; rfl

@[simp] theorem State.report_jobs (s : State) (j : Job) : (s.report j).jobs = s.jobs := by
  unfold State.report
  cases h : s.writeRecord j with
  | none => rfl
  | some t => exact State.writeRecord_jobs h

/-! ### Which jobs are live -/

/-- Every JOB_ID that names a live job of t names one of s. -/
def NoNewLive (s t : State) : Prop := ∀ j ∈ t.jobs, j.isLive = true → ∃ k ∈ s.jobs, k.isLive = true ∧ k.id = j.id

theorem NoNewLive.of_jobs {s t : State} (h : t.jobs = s.jobs) : NoNewLive s t := fun j hj hl => ⟨j, h ▸ hj, hl, rfl⟩

theorem NoNewLive.refl (s : State) : NoNewLive s s := .of_jobs rfl

theorem NoNewLive.trans {s t u : State} (h : NoNewLive s t) (h' : NoNewLive t u) : NoNewLive s u := by
  intro j hj hl
  obtain ⟨k, hk, hkl, hid⟩ := h' j hj hl
  obtain ⟨m, hm, hml, hid'⟩ := h k hk hkl
  exact ⟨m, hm, hml, hid'.trans hid⟩

theorem NoNewLive.foldl {β : Type} (g : State → β → State) (l : List β) (s : State) (hg : ∀ t, ∀ x ∈ l, NoNewLive t (g t x)) :
    NoNewLive s (l.foldl g s) := by
  induction l generalizing s with
  | nil => exact .refl s
  | cons x l ih => exact (hg s x (by simp)).trans (ih _ fun t y hy => hg t y (by simp [hy]))

/-- A job that takes its own place. -/
theorem State.setJob_noNewLive (s : State) (j : Job) : NoNewLive s (s.setJob j) := by
  intro k hk hl
  simp only [State.setJob_jobs, List.mem_map] at hk
  obtain ⟨m, hm, rfl⟩ := hk
  split at hl
  · next h =>
    simp only [Bool.and_eq_true, decide_eq_true_eq] at h
    exact ⟨m, hm, h.2, by simp [h]⟩
  · next h => exact ⟨m, hm, hl, by simp [h]⟩

/-- Waits for a save area are only counted. -/
theorem State.reconsider_noNewLive (s : State) (g : Nat) : NoNewLive s (s.reconsider g) := by
  unfold State.reconsider
  dsimp only
  split
  · split
    · exact .refl s
    · refine NoNewLive.foldl _ _ _ fun t k _ => ?_
      split
      · exact .refl t
      · split
        · split
          · exact (t.setJob_noNewLive _).trans (.of_jobs (State.bump_jobs _ _ _))
          · exact .refl t
        · split
          · exact .refl t
          · exact t.setJob_noNewLive _
  · exact .refl s

/-- The end of job j leaves no live job of its JOB_ID, and makes none of another (R341). -/
theorem State.endJob_live (s : State) (j : Job) (code : Byte) :
    ∀ k ∈ (s.endJob j code).jobs, k.isLive = true → k.id ≠ j.id ∧ ∃ m ∈ s.jobs, m.isLive = true ∧ m.id = k.id := by
  intro k hk hl
  unfold State.endJob at hk
  obtain ⟨m, hm, hml, hid⟩ := State.reconsider_noNewLive _ _ k hk hl
  simp only [State.report_jobs, State.squashSpec_jobs, State.endSlots_jobs, State.releaseEntries_jobs, State.unbindJob_jobs] at hm
  rw [foldl_jobs _ _ _ fun t n => State.idleCore_jobs t n, List.mem_filter, State.dropCmds_jobs,
    foldl_jobs _ _ _ fun t c => State.endRows_jobs t c] at hm
  obtain ⟨hm, hne⟩ := hm
  simp only [hml, Bool.and_true, Bool.not_eq_true', decide_eq_false_iff_not] at hne
  exact ⟨hid ▸ hne, m, hm, hml, hid⟩

end Sys2Proof.Machine
end

section
/-!
SUPPORT. The orderly shutdown before a warm start (R378, R288): every job ends, PF1 drains.
-/

namespace Sys2Proof.Machine

/-! ### The orderly shutdown (R378, R288) -/

/-- The end of the live job with the JOB_ID of j in a shutdown: its cores idle, its code 0x01. -/
def State.shutJob (u : State) (j : Job) : State :=
  match u.job j.id with
  | some k => ((k.placed.filter (fun n => decide ((u.core n).job = k.id))).foldl State.idleCore u).endJob k 0x01
  | none => u

theorem State.beginShutdown_eq (s : State) :
    s.beginShutdown =
      let t := ((s.jobs.filter Job.isLive).foldl State.shutJob s).pf1Quiesce
      { t with start := { t.start with closing := true } } := rfl

theorem State.shutJob_live (s : State) (j : Job) :
    ∀ k ∈ (s.shutJob j).jobs, k.isLive = true → k.id ≠ j.id ∧ ∃ m ∈ s.jobs, m.isLive = true ∧ m.id = k.id := by
  intro k hk hl
  unfold State.shutJob at hk
  split at hk
  · next x hx =>
    have hid : x.id = j.id := by
      have := List.find?_some hx
      simp only [Bool.and_eq_true, decide_eq_true_eq] at this
      exact this.1
    have := State.endJob_live _ x 0x01 k hk hl
    rwa [foldl_jobs _ _ _ fun t n => State.idleCore_jobs t n, hid] at this
  · next hx =>
    have := List.find?_eq_none.mp hx k hk
    exact ⟨fun hid => this (by simp [hid, hl]), k, hk, hl, rfl⟩

/-- A shutdown of a list of jobs leaves live only jobs of other JOB_IDs that were live before. -/
theorem State.foldl_shutJob_live (l : List Job) (s : State) :
    ∀ k ∈ (l.foldl State.shutJob s).jobs, k.isLive = true → (∀ j ∈ l, k.id ≠ j.id) ∧ ∃ m ∈ s.jobs, m.isLive = true ∧ m.id = k.id := by
  induction l generalizing s with
  | nil => exact fun k hk hl => ⟨by simp, k, hk, hl, rfl⟩
  | cons x l ih =>
    intro k hk hl
    obtain ⟨hrest, m, hm, hml, hid⟩ := ih _ k hk hl
    obtain ⟨hx, m', hm', hml', hid'⟩ := State.shutJob_live s x m hm hml
    refine ⟨fun j hj => ?_, m', hm', hml', hid'.trans hid⟩
    rcases List.mem_cons.mp hj with rfl | hj
    · exact hid ▸ hx
    · exact hrest j hj

/-- The orderly shutdown ends every job (R378). -/
theorem State.beginShutdown_noLive (s : State) : ∀ j ∈ s.beginShutdown.jobs, j.isLive = false := by
  intro j hj
  by_contra hl
  obtain ⟨hne, m, hm, hml, hid⟩ := State.foldl_shutJob_live _ s j hj (by simpa using hl)
  exact hne m (List.mem_filter.mpr ⟨hm, hml⟩) hid.symm

/-- With no live job and no command of PF1 the shutdown stops PF1 alone. -/
theorem State.beginShutdown_idle {s : State} (hj : ∀ j ∈ s.jobs, j.isLive = false) (hc : s.pf1.cmds = []) :
    s.beginShutdown = { s with pf1 := { s.pf1 with closing := true, shst := 1 }, start := { s.start with closing := true } } := by
  have hl : s.jobs.filter Job.isLive = [] := List.filter_eq_nil_iff.mpr fun j h => by simp [hj j h]
  rw [State.beginShutdown_eq, hl]
  simp [State.pf1Quiesce, State.withPf1, Pf1.aborted, hc]

section
variable (s : State)

@[simp] theorem State.pf1Undelivered_jobs : s.pf1Undelivered.jobs = s.jobs := by unfold State.pf1Undelivered; split <;> rfl
@[simp] theorem State.pf1Undelivered_start : s.pf1Undelivered.start = s.start := by unfold State.pf1Undelivered; split <;> rfl
@[simp] theorem State.pf1Undelivered_shst : s.pf1Undelivered.pf1.shst = s.pf1.shst := by unfold State.pf1Undelivered; split <;> rfl
@[simp] theorem State.pf1Undelivered_closing : s.pf1Undelivered.pf1.closing = s.pf1.closing := by
  unfold State.pf1Undelivered; split <;> rfl

end

/-- While CSTS.SHST is not 0b10 the shutdown goes on, with the jobs it left. -/
theorem State.endShutdown_waits {s : State} (h : s.pf1.shst ≠ 2) :
    s.endShutdown.jobs = s.jobs ∧ s.endShutdown.start.closing = s.start.closing ∧ s.endShutdown.pf1.closing = s.pf1.closing := by
  have hc : s.pf1Undelivered.start.closing = s.start.closing := by rw [State.pf1Undelivered_start]
  unfold State.endShutdown
  extract_lets t
  have ht : t.pf1.shst ≠ 2 := by simpa [t] using h
  rw [if_pos ht]
  split
  · simp [t]
  · exact ⟨s.pf1Undelivered_jobs, hc, s.pf1Undelivered_closing⟩

theorem Pf1.filterCmds_of_nil {p : Pf1} (hc : p.cmds = []) (f : NvmeCmd → Bool) : { p with cmds := p.cmds.filter f } = p := by
  cases p
  simp_all

/-- PF1 without commands has nothing undelivered. -/
theorem State.pf1Undelivered_of_nil {s : State} (hc : s.pf1.cmds = []) : s.pf1Undelivered = s := by
  unfold State.pf1Undelivered
  split
  · exact congrArg (fun p => { s with pf1 := p }) (Pf1.filterCmds_of_nil hc _)
  · rfl

theorem Pf1.drained_of_nil {p : Pf1} (hc : p.cmds = []) : p.drained = true := by simp [Pf1.drained, hc]

/-- Once PF1 has drained, the shutdown shows SHST 0b10 (R288). -/
theorem State.endShutdown_shows {s : State} (hc : s.pf1.cmds = []) (h : s.pf1.shst ≠ 2) :
    s.endShutdown = { s with pf1 := { s.pf1 with shst := 2 }, start := { s.start with marker := true } } := by
  simp [State.endShutdown, State.pf1Undelivered_of_nil hc, Pf1.drained_of_nil hc, h, State.withPf1]

/-- The warm record written: the HBM stacks in use (R378). -/
def State.withWarmRecord (s : State) : State :=
  { s with start := { s.start with record := some (BitVec.ofNat 8 (s.regFld Reg.hubEngineMap 16 8)) } }

/-- SHST shown, the warm record is written and the warm start begins (R378). -/
theorem State.endShutdown_starts {s : State} (hc : s.pf1.cmds = []) (h : s.pf1.shst = 2) :
    s.endShutdown = s.withWarmRecord.beginStart true false false 0 := by
  simp [State.endShutdown, State.pf1Undelivered_of_nil hc, Pf1.drained_of_nil hc, h, State.withWarmRecord]

theorem State.warmStart_eq {s : State} (ho : s.start.off = false) (hl : s.start.losing = false) (hc : s.start.closing = false) :
    s.warmStart = s.beginShutdown.endShutdown := by simp [State.warmStart, ho, hl, hc]

/-- A warm start that is asked for begins with the orderly shutdown: every job ends, PF1 stops (R378). -/
theorem State.warmStart_closes {s : State} (ho : s.start.off = false) (hl : s.start.losing = false) (hc : s.start.closing = false) :
    (∀ j ∈ s.warmStart.jobs, j.isLive = false) ∧ s.warmStart.start.closing = true ∧ s.warmStart.pf1.closing = true := by
  rw [State.warmStart_eq ho hl hc]
  obtain ⟨hjobs, hstart, hpf1⟩ := State.endShutdown_waits (s := s.beginShutdown) (by
    rw [State.beginShutdown_eq]
    simp [State.pf1Quiesce, State.withPf1])
  rw [hjobs, hstart, hpf1]
  exact ⟨s.beginShutdown_noLive, rfl, rfl⟩

/-- With no live job and no command of PF1 the shutdown shows SHST 0b10 at once. -/
theorem State.warmStart_idle {s : State} (ho : s.start.off = false) (hl : s.start.losing = false) (hc : s.start.closing = false)
    (hj : ∀ j ∈ s.jobs, j.isLive = false) (hn : s.pf1.cmds = []) :
    s.warmStart = { s with pf1 := { s.pf1 with closing := true, shst := 2 }
                           start := { s.start with closing := true, marker := true } } := by
  rw [State.warmStart_eq ho hl hc, State.beginShutdown_idle hj hn]
  refine (State.endShutdown_shows ?_ ?_).trans rfl
  · exact hn
  · show (1 : Nat) ≠ 2
    decide

end Sys2Proof.Machine
end

section
/-!
SUPPORT. What a start resets and what it keeps (R9, R382), register by register.
-/

namespace Sys2Proof.Machine

/-! ### Registers written in turn -/

theorem State.reg_setRegs_not_mem (s : State) (vs : List (Nat × Word)) {a : Nat} (h : ∀ e ∈ vs, e.1 ≠ a) :
    (s.setRegs vs).reg a = s.reg a := by
  induction vs generalizing s with
  | nil => rfl
  | cons e vs ih =>
    calc ((s.setReg e.1 e.2).setRegs vs).reg a = (s.setReg e.1 e.2).reg a := ih _ fun x hx => h x (by simp [hx])
      _ = s.reg a := State.reg_setReg_other _ _ (h e (by simp)).symm

theorem State.reg_setRegs_mem (s : State) (vs : List (Nat × Word)) {a : Nat} {v : Word} (hm : (a, v) ∈ vs)
    (hu : ∀ e ∈ vs, e.1 = a → e.2 = v) : (s.setRegs vs).reg a = v := by
  induction vs generalizing s with
  | nil => cases hm
  | cons e vs ih =>
    by_cases hrest : ∃ x ∈ vs, x.1 = a
    · obtain ⟨x, hx, hxa⟩ := hrest
      have hxv := hu x (by simp [hx]) hxa
      exact ih _ (by rw [← hxa, ← hxv]; exact hx) fun y hy => hu y (by simp [hy])
    · have he : (a, v) = e := (List.mem_cons.mp hm).resolve_right fun h => hrest ⟨_, h, rfl⟩
      subst he
      exact (State.reg_setRegs_not_mem _ vs fun x hx hxa => hrest ⟨x, hx, hxa⟩).trans (State.reg_setReg_same _ _ _)

/-! ### What a start keeps (R9, R382) -/

/-- What a masked register keeps, over its reset value. -/
def State.keptValue (s : State) (e : Nat × Word) : Word := (resetOf e.1 &&& ~~~e.2) ||| (s.reg e.1 &&& e.2)

theorem State.keptRegs_eq (s : State) (rs : List (Nat × Word)) :
    s.keptRegs rs = (State.reset.setRegs (rs.map fun e => (e.1, s.keptValue e))).eff := by
  have key (t : State) : rs.foldl (fun m e => SMap.set (resetOf e.1) m e.1 ((resetOf e.1 &&& ~~~e.2) ||| (s.reg e.1 &&& e.2))) t.eff
      = (t.setRegs (rs.map fun e => (e.1, s.keptValue e))).eff := by
    induction rs generalizing t with
    | nil => rfl
    | cons e rs ih => exact ih (t.setReg e.1 (s.keptValue e))
  exact key State.reset

/-- A register that is not kept is at reset. -/
theorem State.reg_keptRegs_not_mem {s t : State} {rs : List (Nat × Word)} (ht : t.eff = s.keptRegs rs) {a : Nat}
    (h : ∀ e ∈ rs, e.1 ≠ a) : t.reg a = resetOf a := by
  rw [State.reg_congr (ht.trans (s.keptRegs_eq rs)), State.reg_setRegs_not_mem _ _ ?_]
  · rfl
  · exact List.forall_mem_map.mpr h

/-- A kept register holds its kept bits. -/
theorem State.reg_keptRegs_mem {s t : State} {rs : List (Nat × Word)} (ht : t.eff = s.keptRegs rs) {a : Nat} {m : Word}
    (hm : (a, m) ∈ rs) (hu : ∀ e ∈ rs, e.1 = a → e.2 = m) : t.reg a = s.keptValue (a, m) := by
  rw [State.reg_congr (ht.trans (s.keptRegs_eq rs))]
  refine State.reg_setRegs_mem _ _ (List.mem_map.mpr ⟨(a, m), hm, rfl⟩) fun e he hea => ?_
  obtain ⟨x, hx, rfl⟩ := List.mem_map.mp he
  obtain rfl : x.1 = a := hea
  have := hu x hx rfl
  subst this
  rfl

/-- The registers a start keeps, with their masks. -/
def State.startKeeps (s : State) (warm : Bool) : List (Nat × Word) :=
  flashRegs.map (fun a => (a, (0xFFFFFFFFFFFFFFFF : Word))) ++ (if warm then s.warmRegs else [])

/-- The start of a module that starts again. -/
def Start.again (x : Start) (warm : Bool) (now : Word) : Start :=
  { x with stage := 0, warm := warm, began := now, released := none, closing := false, blocked := false, losing := false, off := false
           record := if warm then x.record else none }

/-- The registers that a start writes besides those it keeps. -/
def startWrites : List Nat := [Reg.mgdLogWr, Reg.pwrStartTime, Reg.hlyStatus]

/-- The state a start begins in, before the log a fatal fault left comes back. -/
def State.startBase (s : State) (warm powerGood : Bool) : State :=
  { State.reset with
    pending := s.pending, out := s.out, free := s.free, nextCmd := s.nextCmd, now := if powerGood then 0 else s.now
    eff := s.keptRegs (s.startKeeps warm)
    mem := if warm then s.mem.filter (fun e => decide (sharedBase ≤ e.1)) else []
    poison := if warm then s.poison.filter (fun e => decide (sharedBase ≤ 64 * e.1)) else []
    flash := s.flash, erase := s.erase, pf1 := s.pf1.cleared true, start := s.start.again warm (if powerGood then 0 else s.now)
    logSecondary := if powerGood then [] else s.logSecondary, logSecondaryWr := if powerGood then 0 else s.logSecondaryWr
    sec := { s.sec with key := if warm then s.sec.key else none, keyWords := [] } }

/-- The log a fatal fault left comes back (R364). -/
def State.withSavedLog (t : State) (saved : Option (SMap LogEntry × Word)) : State :=
  match saved with
  | some (l, wr) => { t.setReg Reg.mgdLogWr wr with logPrimary := l }
  | none => t

/-- The staged policy and the time of a start. -/
def State.stampStart (t : State) (now : Word) : State :=
  (t.stage Reg.secPolicy (t.reg Reg.secPolicy &&& ~~~(3 : Word))).setReg Reg.pwrStartTime now

/-- Flash with no spare erase block left is read-only. -/
def State.wornOut (t : State) : State :=
  if decide (65536 ≤ t.regFld Reg.hlyRetired 0 32) then t.setRegFld Reg.hlyStatus 30 1 1 else t

theorem State.reg_withSavedLog (t : State) (saved : Option (SMap LogEntry × Word)) {a : Nat} (h : a ≠ Reg.mgdLogWr) :
    (t.withSavedLog saved).reg a = t.reg a := by
  cases saved with
  | none => rfl
  | some p => exact State.reg_setReg_other t _ h

theorem State.reg_stampStart_other (t : State) (now : Word) {a : Nat} (h : a ≠ Reg.pwrStartTime) :
    (t.stampStart now).reg a = t.reg a := State.reg_setReg_other _ _ h

theorem State.wornOut_fields (t : State) : t.wornOut = { t with eff := t.wornOut.eff } := by
  unfold State.wornOut
  split <;> rfl

theorem State.reg_wornOut (t : State) {a : Nat} (h : a ≠ Reg.hlyStatus) : t.wornOut.reg a = t.reg a := by
  unfold State.wornOut
  split
  · exact State.reg_setRegFld_other _ _ _ _ h
  · rfl

section
variable (s : State) (warm powerGood : Bool)

theorem State.restarted_eq : s.restarted warm powerGood =
    (((s.startBase warm powerGood).withSavedLog s.savedLog).stampStart (if powerGood then 0 else s.now)).wornOut := rfl

/-- After its base a start changes registers and the primary log alone. -/
theorem State.restarted_fields : ∃ e g l,
    s.restarted warm powerGood = { s.startBase warm powerGood with eff := e, stg := g, logPrimary := l } := by
  rw [State.restarted_eq, State.wornOut_fields]
  cases s.savedLog <;> exact ⟨_, _, _, rfl⟩

/-- A register that a start does not write holds what the start keeps of it. -/
theorem State.reg_restarted {a : Nat} (h : a ∉ startWrites) :
    (s.restarted warm powerGood).reg a = (s.startBase warm powerGood).reg a := by
  simp only [startWrites, List.mem_cons, List.not_mem_nil, or_false, not_or] at h
  obtain ⟨hlog, htime, hstatus⟩ := h
  rw [State.restarted_eq, State.reg_wornOut _ hstatus, State.reg_stampStart_other _ _ htime, State.reg_withSavedLog _ _ hlog]

/-- A start writes its time. -/
theorem State.reg_restarted_startTime : (s.restarted warm powerGood).reg Reg.pwrStartTime = if powerGood then 0 else s.now := by
  rw [State.restarted_eq, State.reg_wornOut _ (by decide)]
  exact State.reg_setReg_same _ _ _

/-- Every staged value is the effective one, but that of the policy, whose lock bits are staged at reset (R300). -/
theorem State.restarted_stg : (s.restarted warm powerGood).stg =
    SMap.set ((s.restarted warm powerGood).reg Reg.secPolicy) [] Reg.secPolicy ((s.restarted warm powerGood).reg Reg.secPolicy &&& ~~~3) := by
  rw [State.restarted_eq, State.reg_wornOut _ (by decide), State.reg_stampStart_other _ _ (by decide)]
  rw [State.wornOut_fields]
  cases s.savedLog <;> rfl

/-- A register outside what a start keeps and writes is at reset (R9). -/
theorem State.reg_restarted_reset {a : Nat} (h : a ∉ startWrites) (hk : ∀ e ∈ s.startKeeps warm, e.1 ≠ a) :
    (s.restarted warm powerGood).reg a = resetOf a :=
  (s.reg_restarted warm powerGood h).trans (State.reg_keptRegs_not_mem rfl hk)

/-- A register that a start keeps and does not write holds its kept bits. -/
theorem State.reg_restarted_kept {a : Nat} {m : Word} (h : a ∉ startWrites) (hm : (a, m) ∈ s.startKeeps warm)
    (hu : ∀ e ∈ s.startKeeps warm, e.1 = a → e.2 = m) : (s.restarted warm powerGood).reg a = s.keptValue (a, m) :=
  (s.reg_restarted warm powerGood h).trans (State.reg_keptRegs_mem rfl hm hu)

end

theorem SMap.get_set_nil_other {α : Type} [DecidableEq α] (d d' v : α) {k j : Nat} (h : j ≠ k) :
    SMap.get d (SMap.set d' [] k v) j = d := by
  by_cases hv : v = d' <;> simp [SMap.set, SMap.get_eq_find, SMap.find_erase, SMap.find_insert, hv, h]

/-- Every register that some start keeps, with its mask. -/
def everKept : List (Nat × Word) :=
  [(Reg.hlyRetired, 0xFFFFFFFFFFFFFFFF), (Reg.hlyHealthWr, 0xFFFFFFFFFFFFFFFF), (Reg.hubPeonyMap, 0xFFFFFFFFFFFFF),
   (Reg.hubDieStatus, 0x4F4F4F4F), (Reg.pwrStartStatus, 0x07FFF000), (Reg.pwrStartCfg, 1), (Reg.mgdStatus, 0xC0000000),
   (Reg.secPolicy, 0x80000003)]

theorem State.startKeeps_subset (s : State) (warm : Bool) : s.startKeeps warm ⊆ everKept := by
  refine List.append_subset.mpr ⟨by decide, ?_⟩
  split
  · refine List.append_subset.mpr ⟨by decide, ?_⟩
    split
    · decide
    · exact List.nil_subset _
  · exact List.nil_subset _

/-- A register whose every bit is kept holds its value. -/
theorem State.keptValue_allOnes (s : State) (a : Nat) : s.keptValue (a, 0xFFFFFFFFFFFFFFFF) = s.reg a := by
  have hm : (0xFFFFFFFFFFFFFFFF : Word) = BitVec.allOnes 64 := by decide
  unfold State.keptValue
  rw [hm, BitVec.and_allOnes]
  simp

/-- Memory cut to the addresses from b on. -/
theorem SMap.get_filter_le {α : Type} (d : α) (m : SMap α) (b a : Nat) :
    SMap.get d (m.filter fun e => decide (b ≤ e.1)) a = if b ≤ a then SMap.get d m a else d := by
  induction m with
  | nil => simp
  | cons e m ih =>
    obtain ⟨k, v⟩ := e
    by_cases hk : b ≤ k
    · by_cases h : k = a
      · subst h; simp [SMap.get, hk]
      · simp [SMap.get, hk, h, ih]
    · by_cases h : k = a
      · subst h; simp [hk, ih]
      · simp [SMap.get, hk, h, ih]

/-! ### The begin of a start (R9, R378, R382) -/

/-- t is the begin of a start after s: everything at reset but what a start keeps. -/
def StartsAfresh (s t : State) (warm : Bool) : Prop :=
  t = { State.reset with
        pending := s.pending, free := s.free, flash := s.flash, erase := s.erase
        out := t.out, nextCmd := t.nextCmd, now := t.now, eff := t.eff, mem := t.mem, poison := t.poison, pf1 := t.pf1, start := t.start
        stg := t.stg, logPrimary := t.logPrimary, logSecondary := t.logSecondary, logSecondaryWr := t.logSecondaryWr, sec := t.sec } ∧
    t.start.stage = 0 ∧ t.start.warm = warm ∧ t.start.off = false ∧ t.start.losing = false ∧ t.start.closing = false ∧
    t.regFld Reg.pwrStartStatus 27 1 = b2n warm ∧ t.regFld Reg.pwrStartStatus 25 2 = 0 ∧ t.reg Reg.pwrStartTime = t.now ∧
    t.reg Reg.hlyRetired = s.reg Reg.hlyRetired ∧
    ∀ a, SMap.get (t.reg a) t.stg a = if a = Reg.secPolicy then t.reg a &&& ~~~3 else t.reg a

section
variable (s : State) (warm powerGood : Bool)

theorem State.beginStart_eq : s.beginStart warm powerGood false 0 =
    ((s.restarted warm powerGood).setRegFld Reg.pwrStartStatus 27 1 (b2n warm)).setRegFld Reg.pwrStartStatus 25 2 0 := rfl

theorem State.beginStart_fields : ∃ e g l,
    s.beginStart warm powerGood false 0 = { s.startBase warm powerGood with eff := e, stg := g, logPrimary := l } := by
  obtain ⟨e, g, l, h⟩ := s.restarted_fields warm powerGood
  rw [State.beginStart_eq, h]
  exact ⟨_, _, _, rfl⟩

theorem State.reg_beginStart {a : Nat} (h : a ≠ Reg.pwrStartStatus) :
    (s.beginStart warm powerGood false 0).reg a = (s.restarted warm powerGood).reg a := by
  rw [State.beginStart_eq, State.reg_setRegFld_other _ _ _ _ h, State.reg_setRegFld_other _ _ _ _ h]

/-- Staged values at the begin of a start (R300). -/
theorem State.beginStart_staged (a : Nat) :
    let t := s.beginStart warm powerGood false 0
    SMap.get (t.reg a) t.stg a = if a = Reg.secPolicy then t.reg a &&& ~~~3 else t.reg a := by
  have hs : (s.beginStart warm powerGood false 0).stg = (s.restarted warm powerGood).stg := rfl
  dsimp only
  rw [hs, State.restarted_stg]
  by_cases ha : a = Reg.secPolicy
  · subst ha
    rw [if_pos rfl, State.reg_beginStart _ _ _ (by decide), SMap.get_set_same]
  · rw [if_neg ha, SMap.get_set_nil_other _ _ _ ha]

/-- A start that follows no failure begins afresh. -/
theorem State.beginStart_afresh : StartsAfresh s (s.beginStart warm powerGood false 0) warm := by
  have hw := b2n_lt_two warm
  have htime : (s.beginStart warm powerGood false 0).reg Reg.pwrStartTime = (s.beginStart warm powerGood false 0).now := by
    rw [State.reg_beginStart _ _ _ (by decide), State.reg_restarted_startTime]
    obtain ⟨e, g, l, h⟩ := s.beginStart_fields warm powerGood
    rw [h]
    rfl
  have hretired : (s.beginStart warm powerGood false 0).reg Reg.hlyRetired = s.reg Reg.hlyRetired := by
    rw [State.reg_beginStart _ _ _ (by decide), State.reg_restarted_kept (m := 0xFFFFFFFFFFFFFFFF), State.keptValue_allOnes]
    · decide
    · simp [State.startKeeps, flashRegs]
    · exact fun e he => (by decide : ∀ e ∈ everKept, e.1 = Reg.hlyRetired → e.2 = 0xFFFFFFFFFFFFFFFF) e (s.startKeeps_subset warm he)
  have hwarm : (s.beginStart warm powerGood false 0).regFld Reg.pwrStartStatus 27 1 = b2n warm := by
    rw [State.beginStart_eq, State.regFld_setRegFld_otherFld _ _ (by decide), State.regFld_setRegFld_same _ _ (by decide) hw]
  have hretries : (s.beginStart warm powerGood false 0).regFld Reg.pwrStartStatus 25 2 = 0 := by
    rw [State.beginStart_eq, State.regFld_setRegFld_same _ _ (by decide) (by decide)]
  refine ⟨?_, ?_, ?_, ?_, ?_, ?_, hwarm, hretries, htime, hretired, s.beginStart_staged warm powerGood⟩
  all_goals
    obtain ⟨e, g, l, h⟩ := s.beginStart_fields warm powerGood
    rw [h]
    rfl

end

/-- The straps and the ports of PCIe are no part of what starts afresh. -/
theorem StartsAfresh.withStart {s t : State} {warm : Bool} (h : StartsAfresh s t warm) (x : Start) (hs : x.stage = 0) (hw : x.warm = warm)
    (ho : x.off = false) (hl : x.losing = false) (hc : x.closing = false) : StartsAfresh s { t with start := x } warm := by
  obtain ⟨ht, -, -, -, -, -, hrest⟩ := h
  exact ⟨congrArg (fun u => { u with start := x }) ht, hs, hw, ho, hl, hc, hrest⟩

/-- The registers that a cold start leaves at other values than their reset values: it writes them, or flash holds them. -/
def coldKeeps : List Nat :=
  [Reg.pwrStartStatus, Reg.pwrStartTime, Reg.hlyStatus, Reg.mgdLogWr, Reg.hlyRetired, Reg.hlyHealthWr]

/-- A cold start leaves memory empty and every register at reset but those it writes and those that live in flash (R9; log entry 3). -/
theorem State.beginStart_cold (s : State) (powerGood : Bool) :
    let t := s.beginStart false powerGood false 0
    t.now = (if powerGood then 0 else s.now) ∧ t.mem = [] ∧ t.poison = [] ∧ ∀ a, a ∉ coldKeeps → t.reg a = resetOf a := by
  refine ⟨?_, ?_, ?_, fun a ha => ?_⟩
  iterate 3
    obtain ⟨e, g, l, h⟩ := s.beginStart_fields false powerGood
    rw [h]
    rfl
  simp only [coldKeeps, List.mem_cons, List.not_mem_nil, or_false, not_or] at ha
  obtain ⟨hstatus, htime, hhly, hlog, hretired, hhealth⟩ := ha
  rw [State.reg_beginStart _ _ _ hstatus]
  refine State.reg_restarted_reset _ _ _ ?_ fun e he => ?_
  · simp [startWrites, htime, hhly, hlog]
  · simp only [State.startKeeps, flashRegs, Bool.false_eq_true, if_false, List.append_nil, List.map_cons, List.map_nil, List.mem_cons,
      List.not_mem_nil, or_false] at he
    rcases he with rfl | rfl
    · exact Ne.symm hretired
    · exact Ne.symm hhealth

/-- A warm start keeps die-shared SRAM and HBM, and the cores found good (R382, R406; log entry 14). -/
theorem State.beginStart_warm (s : State) :
    let t := s.beginStart true false false 0
    t.now = s.now ∧ (∀ a, t.byte a = if sharedBase ≤ a then s.byte a else 0) ∧
      t.reg Reg.hubPeonyMap = (resetOf Reg.hubPeonyMap &&& ~~~0xFFFFFFFFFFFFF) ||| (s.reg Reg.hubPeonyMap &&& 0xFFFFFFFFFFFFF) := by
  refine ⟨?_, fun a => ?_, ?_⟩
  · obtain ⟨e, g, l, h⟩ := s.beginStart_fields true false
    rw [h]
    rfl
  · obtain ⟨e, g, l, h⟩ := s.beginStart_fields true false
    rw [h]
    exact SMap.get_filter_le 0 s.mem sharedBase a
  · rw [State.reg_beginStart _ _ _ (by decide), State.reg_restarted_kept (m := 0xFFFFFFFFFFFFF)]
    · rfl
    · decide
    · simp [State.startKeeps, State.warmRegs]
    · exact fun e he => (by decide : ∀ e ∈ everKept, e.1 = Reg.hubPeonyMap → e.2 = 0xFFFFFFFFFFFFF) e (s.startKeeps_subset true he)

end Sys2Proof.Machine
end

section
/-!
PROOFS. Starts, PERST# and the PCIe links (O48).
-/

namespace Sys2Proof.Machine

/-! ### PWR_RESTART (R378) -/

theorem bitAt_extractLsb'_zero {n : Nat} (v : BitVec n) {i w : Nat} (h : i < w) : bitAt v i = (v.extractLsb' 0 w).getLsbD i := by
  rw [bitAt_eq_getLsbD, BitVec.getLsbD_extractLsb', Nat.zero_add, decide_eq_true h, Bool.true_and]

/-- A write without the key, or of both bits or none. -/
theorem State.restart_ignored (s : State) {v : BitVec 32}
    (h : v.extractLsb' 16 16 ≠ 0xA55A ∨ v.extractLsb' 0 2 = 3 ∨ v.extractLsb' 0 2 = 0) : s.restart v.toNat = s := by
  have hkey : bitsOf v.toNat 16 16 = (v.extractLsb' 16 16).toNat := fld_eq_extractLsb' v 16 16
  have hbits : bitsOf v.toNat 0 2 = (v.extractLsb' 0 2).toNat := fld_eq_extractLsb' v 0 2
  unfold State.restart
  rw [hkey, hbits]
  split
  · rfl
  · next hk =>
    rcases h with h | h | h
    · exact absurd (BitVec.eq_of_toNat_eq (by simpa using hk)) h
    · rw [h]; rfl
    · rw [h]; rfl

section
variable {s : State} {v : BitVec 32}

theorem State.restart_cold (hk : v.extractLsb' 16 16 = 0xA55A) (hb : v.extractLsb' 0 2 = 2) : s.restart v.toNat = s.coldStart := by
  have hkey : bitsOf v.toNat 16 16 = 0xA55A := (fld_eq_extractLsb' v 16 16).trans (congrArg BitVec.toNat hk)
  have hbits : bitsOf v.toNat 0 2 = 2 := (fld_eq_extractLsb' v 0 2).trans (congrArg BitVec.toNat hb)
  simp [State.restart, hkey, hbits]

theorem State.restart_warm (hk : v.extractLsb' 16 16 = 0xA55A) (hb : v.extractLsb' 0 2 = 1) : s.restart v.toNat = s.warmStart := by
  have hkey : bitsOf v.toNat 16 16 = 0xA55A := (fld_eq_extractLsb' v 16 16).trans (congrArg BitVec.toNat hk)
  have hbits : bitsOf v.toNat 0 2 = 1 := (fld_eq_extractLsb' v 0 2).trans (congrArg BitVec.toNat hb)
  simp [State.restart, hkey, hbits]

/-- Outside a stop and from stage 1 on, a write of COLD restarts the module. -/
theorem exec_coldStart (hs : s.stopped = false) (h1 : 1 ≤ s.start.stage) :
    exec (.coldStart v) s = .next (if bitAt v 1 then s.restart v.toNat else s) := by
  show execColdStart v s = _
  unfold execColdStart
  cases bitAt v 1 <;> simp [hs, Nat.not_lt.mpr h1]

/-- Outside a stop and from stage 1 on, a write of WARM restarts the module. -/
theorem exec_warmStart (hs : s.stopped = false) (h1 : 1 ≤ s.start.stage) :
    exec (.warmStart v) s = .next (if bitAt v 0 then s.restart v.toNat else s) := by
  show execWarmStart v s = _
  unfold execWarmStart
  cases bitAt v 0 <;> simp [hs, Nat.not_lt.mpr h1]

/-- In a stop, and before stage 1, PWR_RESTART does nothing. -/
theorem exec_restart_held (h : s.stopped = true ∨ s.start.stage = 0) :
    exec (.coldStart v) s = .next s ∧ exec (.warmStart v) s = .next s := by
  have hh : (s.stopped || decide (s.start.stage < 1)) = true := by
    rcases h with h | h <;> simp [h]
  exact ⟨if_pos (by rw [hh, Bool.true_or]), if_pos (by rw [hh, Bool.true_or])⟩

theorem State.coldStart_eq (ho : s.start.off = false) (hl : s.start.losing = false) : s.coldStart = s.beginStart false false false 0 := by
  simp [State.coldStart, ho, hl]

end

/-! ### What starts the module -/

/-- The command begins a cold start at this time (R9). -/
def StartsCold (s : State) (i : Instr) (now : Word) : Prop :=
  ∃ t, exec i s = .next t ∧ StartsAfresh s t false ∧ t.now = now ∧ t.mem = [] ∧ t.poison = [] ∧ ∀ a, a ∉ coldKeeps → t.reg a = resetOf a

/-- The command begins the orderly shutdown before a warm start (R378). -/
def StartsWarm (s : State) (i : Instr) : Prop :=
  ∃ t, exec i s = .next t ∧ (∀ j ∈ t.jobs, j.isLive = false) ∧ t.start.closing = true ∧ t.pf1.closing = true ∧
    ((∀ j ∈ s.jobs, j.isLive = false) → s.pf1.cmds = [] →
      t = { s with pf1 := { s.pf1 with closing := true, shst := 2 }
                   start := { s.start with closing := true, marker := true, pcie := t.start.pcie } })

/-- The module with its PCIe ports in another state. -/
def State.withPorts (s : State) (x : SMap PciePort) : State := { s with start := { s.start with pcie := x } }

section
variable {s : State} {i : Instr}

/-- A command whose meaning is a cold start, of the module as it stands but for its PCIe ports. -/
theorem StartsCold.of_exec {x : SMap PciePort} (ho : s.start.off = false) (hl : s.start.losing = false)
    (h : exec i s = .next (s.withPorts x).coldStart) : StartsCold s i s.now := by
  rw [State.coldStart_eq (s := s.withPorts x) ho hl] at h
  have hafresh := (s.withPorts x).beginStart_afresh false false
  have hcold := (s.withPorts x).beginStart_cold false
  generalize (s.withPorts x).beginStart false false false 0 = t at h hafresh hcold
  exact ⟨t, h, hafresh, hcold⟩

/-- A command whose meaning is a warm start, of the module as it stands but for its PCIe ports. -/
theorem StartsWarm.of_exec {x : SMap PciePort} (ho : s.start.off = false) (hl : s.start.losing = false) (hc : s.start.closing = false)
    (h : exec i s = .next (s.withPorts x).warmStart) : StartsWarm s i := by
  obtain ⟨hjobs, hstart, hpf1⟩ := State.warmStart_closes (s := s.withPorts x) ho hl hc
  refine ⟨_, h, hjobs, hstart, hpf1, fun hj hn => ?_⟩
  rw [State.warmStart_idle (s := s.withPorts x) ho hl hc hj hn]
  rfl

end

/-- Input power becoming good begins a cold start at time 0, with the straps as sampled (R378, R16). -/
theorem inputPowerGood_startsCold (s : State) (bifurc : Bool) (addrSel : BitVec 3) (h : s.start.off = true) :
    StartsCold s (.inputPowerGood bifurc addrSel) 0 ∧
      ∃ t, exec (.inputPowerGood bifurc addrSel) s = .next t ∧ t.start.bifurc = bifurc ∧ t.start.addrSel = addrSel ∧ t.logSecondary = [] := by
  have hx : exec (.inputPowerGood bifurc addrSel) s = .next (s.powerGood bifurc addrSel) := if_pos h
  have hafresh := s.beginStart_afresh false true
  have ⟨_, _, hwarm, hoff, hlosing, hclosing, _⟩ := hafresh
  refine ⟨⟨_, hx, hafresh.withStart _ rfl hwarm hoff hlosing hclosing, s.beginStart_cold true⟩, _, hx, rfl, rfl, ?_⟩
  obtain ⟨e, g, l, hf⟩ := s.beginStart_fields false true
  show (s.beginStart false true false 0).logSecondary = []
  rw [hf]
  rfl

/-- PWR_RESTART, outside a stop and from stage 1 on: the key and one bit start the module, anything else does nothing (R378). -/
theorem exec_restart_write (s : State) (v : BitVec 32) (hs : s.stopped = false) (h1 : 1 ≤ s.start.stage) (ho : s.start.off = false)
    (hl : s.start.losing = false) :
    (v.extractLsb' 16 16 ≠ 0xA55A ∨ v.extractLsb' 0 2 = 3 ∨ v.extractLsb' 0 2 = 0 →
      exec (.coldStart v) s = .next s ∧ exec (.warmStart v) s = .next s) ∧
    (v.extractLsb' 16 16 = 0xA55A → v.extractLsb' 0 2 = 2 → StartsCold s (.coldStart v) s.now ∧ exec (.warmStart v) s = .next s) ∧
    (v.extractLsb' 16 16 = 0xA55A → v.extractLsb' 0 2 = 1 → exec (.coldStart v) s = .next s ∧
      (s.start.closing = false → StartsWarm s (.warmStart v))) := by
  have hbit0 := bitAt_extractLsb'_zero v (i := 0) (w := 2) (by decide)
  have hbit1 := bitAt_extractLsb'_zero v (i := 1) (w := 2) (by decide)
  refine ⟨fun h => ?_, fun hk hb => ?_, fun hk hb => ?_⟩
  · rw [exec_coldStart hs h1, exec_warmStart hs h1, s.restart_ignored h, ite_self, ite_self]
    exact ⟨rfl, rfl⟩
  · have hcold := exec_coldStart (v := v) hs h1
    rw [hbit1, hb, State.restart_cold hk hb] at hcold
    rw [exec_warmStart hs h1, hbit0, hb]
    exact ⟨.of_exec (x := s.start.pcie) ho hl hcold, rfl⟩
  · have hwarm := exec_warmStart (v := v) hs h1
    rw [hbit0, hb, State.restart_warm hk hb] at hwarm
    rw [exec_coldStart hs h1, hbit1, hb]
    exact ⟨rfl, fun hc => .of_exec (x := s.start.pcie) ho hl hc hwarm⟩

/-! ### PERST# and the PCIe links (R434) -/

theorem b2n_ne (b : Bool) : 1 - b2n b ≠ b2n b := by cases b <;> decide

theorem Start.port_setPort_same (x : Start) (p : Nat) (y : PciePort) : (x.setPort p y).port p = y := SMap.get_set_same _ _ _ _

theorem Start.port_setPort_other (x : Start) {p q : Nat} (y : PciePort) (h : q ≠ p) : (x.setPort p y).port q = x.port q :=
  SMap.get_set_other _ _ _ h

section
variable {s : State} {second : Bool}

/-- Does a PCIe port answer PERST# and its link: the module powered, not in the power-loss sequence, the port there (R292)? -/
def State.hearsPerst (s : State) (second : Bool) : Prop :=
  s.start.off = false ∧ s.start.losing = false ∧ (second = true → s.start.bifurc = true)

theorem State.hearsPerst_iff : s.hearsPerst second ↔ (s.start.off || s.start.losing || !(s.start.hasPort second)) = false := by
  unfold State.hearsPerst Start.hasPort
  cases second <;> simp [and_assoc]

theorem exec_perst_ignored (flit : Bool) (speed width : BitVec 3) (h : ¬ s.hearsPerst second) :
    exec (.perstAssert second) s = .next s ∧ exec (.perstRelease second) s = .next s ∧
      exec (.pcieLinkUp second flit speed width) s = .next s := by
  have hh : (s.start.off || s.start.losing || !(s.start.hasPort second)) = true := by
    rwa [State.hearsPerst_iff, Bool.not_eq_false] at h
  refine ⟨if_pos hh, if_pos hh, ?_⟩
  show execPcieLinkUp second flit speed width s = _
  simp [execPcieLinkUp, hh]

theorem exec_perstAssert_second (h : s.hearsPerst true) :
    exec (.perstAssert true) s = .next { s with start := s.start.setPort 1 PciePort.reset } :=
  if_neg (by simp [State.hearsPerst_iff.mp h])

/-- PERST# of port 0 starts the module, warm where PERST_WARM is 1 (R378). -/
theorem exec_perstAssert_first (h : s.hearsPerst false) :
    exec (.perstAssert false) s = .next (if bitAt (s.reg Reg.pwrStartCfg) 0
      then ({ s with start := s.start.setPort 0 PciePort.reset } : State).warmStart
      else ({ s with start := s.start.setPort 0 PciePort.reset } : State).coldStart) := by
  refine (if_neg (by simp [State.hearsPerst_iff.mp h])).trans ((if_neg (by decide)).trans ?_)
  split <;> rfl

theorem exec_perstRelease (h : s.hearsPerst second) :
    exec (.perstRelease second) s =
      .next { s with start := s.start.setPort (b2n second) { s.start.port (b2n second) with perst := false } } :=
  if_neg (by simp [State.hearsPerst_iff.mp h])

/-- A link that trains as its port can (R291). -/
theorem exec_pcieLinkUp {flit : Bool} {speed width : BitVec 3} (h : s.hearsPerst second)
    (hp : (s.start.port (b2n second)).perst = false) (hs1 : 1 ≤ speed.toNat) (hs6 : speed.toNat ≤ 6)
    (hw : width.toNat ≤ (if s.start.bifurc then 3 else 4)) (hf : speed = 6 → flit = true) :
    exec (.pcieLinkUp second flit speed width) s = .next
      { s with start := s.start.setPort (b2n second) { perst := false, up := true, flit := flit, speed := speed, width := width } } := by
  have hflit : (decide (speed = 6) && !flit) = false := by simpa using hf
  have hspeed : decide (speed.toNat < 1 ∨ 6 < speed.toNat) = false := decide_eq_false (by omega)
  have hwidth : decide ((if s.start.bifurc then 3 else 4) < width.toNat) = false := decide_eq_false (by omega)
  show execPcieLinkUp second flit speed width s = _
  unfold execPcieLinkUp
  dsimp only
  rw [State.hearsPerst_iff.mp h, hp, hspeed, hflit, hwidth]
  rfl

end

theorem bitAt_zero_eq_and_one (w : Word) : bitAt w 0 = decide (w &&& 1 = 1) := by
  rw [bitAt_eq_getLsbD, Bool.eq_iff_iff, decide_eq_true_iff]
  constructor
  · intro h
    refine BitVec.eq_of_getLsbD_eq fun i hi => ?_
    cases i <;> simp [BitVec.getLsbD_one, h]
  · intro h
    have := congrArg (BitVec.getLsbD · 0) h
    simpa using this

/-- The end of the orderly shutdown once PF1 has drained: SHST 0b10 is shown, then the warm start begins (R288, R378). -/
theorem stageAdvance_closing (s : State) (w : StageWork) (hw : w.replayed ≤ 2 ^ 30) (hc : s.start.closing = true) (hn : s.pf1.cmds = []) :
    (s.pf1.shst ≠ 2 → exec (.stageAdvance w) s =
      .next { s with pf1 := { s.pf1 with shst := 2 }, start := { s.start with marker := true } }) ∧
    (s.pf1.shst = 2 → ∃ t, exec (.stageAdvance w) s = .next t ∧ StartsAfresh s t true ∧ t.now = s.now ∧
      (∀ a, t.byte a = if sharedBase ≤ a then s.byte a else 0) ∧
      t.reg Reg.hubPeonyMap = (resetOf Reg.hubPeonyMap &&& ~~~0xFFFFFFFFFFFFF) ||| (s.reg Reg.hubPeonyMap &&& 0xFFFFFFFFFFFFF)) := by
  have hx : exec (.stageAdvance w) s = .next s.endShutdown := by
    have hwf : (Instr.stageAdvance w).wf = true := decide_eq_true hw
    show execStageAdvance w s = _
    simp [execStageAdvance, hwf, hc]
  refine ⟨fun h => by rw [hx, State.endShutdown_shows hn h], fun h => ?_⟩
  rw [State.endShutdown_starts hn h] at hx
  have hafresh := s.withWarmRecord.beginStart_afresh true false
  have hwarm := s.withWarmRecord.beginStart_warm
  generalize s.withWarmRecord.beginStart true false false 0 = t at hx hafresh hwarm
  exact ⟨t, hx, hafresh, hwarm⟩

/-- PERST# and a trained link change their port alone; PERST# of port 0 starts the module (R378, R434). -/
theorem exec_perst_heard (s : State) (second flit : Bool) (speed width : BitVec 3) (h : s.hearsPerst second) :
    (second = true → exec (.perstAssert second) s = .next { s with start := s.start.setPort 1 PciePort.reset }) ∧
    (second = false → s.reg Reg.pwrStartCfg &&& 1 = 0 → StartsCold s (.perstAssert second) s.now) ∧
    (second = false → s.reg Reg.pwrStartCfg &&& 1 = 1 → s.start.closing = false → StartsWarm s (.perstAssert second)) ∧
    (∃ t, exec (.perstRelease second) s = .next t ∧ t = { s with start := { s.start with pcie := t.start.pcie } } ∧
      t.start.port (b2n second) = { s.start.port (b2n second) with perst := false } ∧
      t.start.port (1 - b2n second) = s.start.port (1 - b2n second)) ∧
    ((s.start.port (b2n second)).perst = false → 1 ≤ speed.toNat → speed.toNat ≤ 6 → width.toNat ≤ (if s.start.bifurc then 3 else 4) →
      (speed = 6 → flit = true) →
      ∃ t, exec (.pcieLinkUp second flit speed width) s = .next t ∧ t = { s with start := { s.start with pcie := t.start.pcie } } ∧
        t.start.port (b2n second) = { perst := false, up := true, flit := flit, speed := speed, width := width } ∧
        t.start.port (1 - b2n second) = s.start.port (1 - b2n second)) := by
  obtain ⟨ho, hl, -⟩ := id h
  refine ⟨fun hs => ?_, fun hs hp => ?_, fun hs hp hc => ?_, ?_, fun hp h1 h6 hw hf => ?_⟩
  · subst hs
    exact exec_perstAssert_second h
  · subst hs
    have hx := exec_perstAssert_first h
    rw [bitAt_zero_eq_and_one, hp] at hx
    exact .of_exec ho hl hx
  · subst hs
    have hx := exec_perstAssert_first h
    rw [bitAt_zero_eq_and_one, hp] at hx
    exact .of_exec ho hl hc hx
  · exact ⟨_, exec_perstRelease h, rfl, Start.port_setPort_same _ _ _, Start.port_setPort_other _ _ (b2n_ne second)⟩
  · exact ⟨_, exec_pcieLinkUp h hp h1 h6 hw hf, rfl, Start.port_setPort_same _ _ _, Start.port_setPort_other _ _ (b2n_ne second)⟩

/-- Settles O48: each command that starts the module, by what it asks for. -/
theorem starts : Obligations.Starts := by
  intro bifurc second flit addrSel speed width v w s hw
  refine ⟨fun h => ?_, inputPowerGood_startsCold s bifurc addrSel, exec_restart_write s v, exec_restart_held, stageAdvance_closing s w hw,
    exec_perst_ignored flit speed width, exec_perst_heard s second flit speed width⟩
  exact if_neg (by simp [h])

end Sys2Proof.Machine
end

section
/-!
PROOFS. The storage controller PF1: doorbells, fetch, start, CC and reset (O30).
-/

namespace Sys2Proof.Machine

/-! ### CC (NVMe's CC and CSTS) -/

theorem ccMask_bit (v : BitVec 32) : bitAt (v &&& 0x01FFFFF1) 0 = v.getLsbD 0 := by simp [bitAt_eq_getLsbD]

theorem ccMask_shn (v : BitVec 32) : fld (v &&& 0x01FFFFF1) 14 2 = (v.extractLsb' 14 2).toNat := by
  have hm : (0x01FFFFF1#32).extractLsb' 14 2 = BitVec.allOnes 2 := by decide
  rw [fld_eq_extractLsb', BitVec.extractLsb'_and]
  exact congrArg BitVec.toNat ((congrArg (v.extractLsb' 14 2 &&& ·) hm).trans BitVec.and_allOnes)

/-- A shutdown that settles changes CSTS.SHST alone. -/
theorem State.pf1Settle_fields (s : State) : s.pf1Settle = { s with pf1 := { s.pf1 with shst := s.pf1Settle.pf1.shst } } := by
  unfold State.pf1Settle
  split <;> rfl

/-- A requested shutdown is complete once PF1 has drained. -/
theorem State.pf1Settle_shst (s : State) (h : s.pf1.shst = 1) :
    s.pf1Settle.pf1.shst = if s.pf1.drained = true ∧ s.pf1.closing = false then 2 else 1 := by
  unfold State.pf1Settle
  by_cases hd : s.pf1.drained = true ∧ s.pf1.closing = false
  · rw [if_pos hd, if_pos (by simp [h, hd])]
    rfl
  · rw [if_neg hd, if_neg (by simpa [h] using hd), h]

/-- The admin queues that AQA, ASQ and ACQ name. -/
def Pf1.withAdminQueues (p : Pf1) : Pf1 :=
  { p with
    sqs := [(0, { base := fld p.asq 12 52 * 4096, size := fld p.aqa 0 12 + 1, cq := 0, head := 0, tail := 0, frozen := false, logRead := false })]
    cqs := [(0, { base := fld p.acq 12 52 * 4096, size := fld p.aqa 16 12 + 1, head := 0, tail := 0, phase := true })] }

/-- PF1 as a write of CC leaves it, before a shutdown it asks for settles. -/
def Pf1.configured (p : Pf1) (cc : BitVec 32) : Pf1 :=
  let q : Pf1 := if bitAt cc 0 && !bitAt p.cc 0 then ({ p with cc := cc } : Pf1).withAdminQueues else { p with cc := cc }
  if fld cc 14 2 ≠ 0 ∧ fld p.cc 14 2 = 0 then { q with shst := 1 } else q

theorem State.writeCc_disables (s : State) (v : BitVec 32) (hw : bitAt s.pf1.cc 0 = true) (hv : bitAt (v &&& 0x01FFFFF1) 0 = false) :
    s.writeCc v = { s with pf1 := { s.pf1.cleared false with cc := v &&& 0x01FFFFF1 } } := by
  unfold State.writeCc
  extract_lets cc p was is_
  exact if_pos (by simp [was, is_, p, cc, hw, hv])

theorem State.writeCc_keeps (s : State) (v : BitVec 32) (h : (bitAt s.pf1.cc 0 && !bitAt (v &&& 0x01FFFFF1) 0) = false) :
    s.writeCc v = ({ s with pf1 := s.pf1.configured (v &&& 0x01FFFFF1) } : State).pf1Settle := by
  unfold State.writeCc
  extract_lets cc p was is_ p1 p2 p3
  exact if_neg (by rw [h]; decide)

section
variable (p : Pf1) (cc : BitVec 32)

theorem Pf1.configured_fields : p.configured cc =
    { p with cc := cc, sqs := (p.configured cc).sqs, cqs := (p.configured cc).cqs, shst := (p.configured cc).shst } := by
  unfold Pf1.configured Pf1.withAdminQueues
  dsimp only
  split <;> split <;> rfl

theorem Pf1.configured_enables (h : bitAt cc 0 = true) (hw : bitAt p.cc 0 = false) :
    (p.configured cc).sqs = p.withAdminQueues.sqs ∧ (p.configured cc).cqs = p.withAdminQueues.cqs := by
  unfold Pf1.configured
  rw [h, hw]
  dsimp only
  split <;> exact ⟨rfl, rfl⟩

theorem Pf1.configured_shutdown (h : fld cc 14 2 ≠ 0) (hw : fld p.cc 14 2 = 0) : (p.configured cc).shst = 1 := by
  unfold Pf1.configured
  rw [if_pos ⟨h, hw⟩]

end

section
variable {s : State} {v : BitVec 32}

theorem exec_controllerConfiguration (hs : s.stopped = false) (h1 : 1 ≤ s.start.stage) :
    exec (.controllerConfiguration v) s = .next (s.writeCc v) := by
  show execControllerConfiguration v s = _
  rw [execControllerConfiguration, if_neg (Nat.not_lt.mpr h1), hs, if_neg (by decide)]

/-- What a write of CC answers: its reserved bits zero, PF1 alone changed; disabled, shut down or enabled as it asks. -/
theorem State.writeCc_spec (s : State) (v : BitVec 32) :
    let t := s.writeCc v
    t = { s with pf1 := t.pf1 } ∧ t.pf1.cc = v &&& 0x01FFFFF1 ∧
      (v.getLsbD 0 = false → s.pf1.cc.getLsbD 0 = true → t.pf1 = { s.pf1.cleared false with cc := v &&& 0x01FFFFF1 }) ∧
      (v.getLsbD 0 = true → v.extractLsb' 14 2 ≠ 0 → s.pf1.cc.extractLsb' 14 2 = 0 →
        t.pf1.shst = if s.pf1.drained = true ∧ s.pf1.closing = false then 2 else 1) ∧
      (v.getLsbD 0 = true → s.pf1.cc.getLsbD 0 = false →
        t.pf1.sqs = s.pf1.withAdminQueues.sqs ∧ t.pf1.cqs = s.pf1.withAdminQueues.cqs) := by
  have hbit := ccMask_bit v
  have hwas : bitAt s.pf1.cc 0 = s.pf1.cc.getLsbD 0 := bitAt_eq_getLsbD _ _
  dsimp only
  by_cases hd : v.getLsbD 0 = false ∧ s.pf1.cc.getLsbD 0 = true
  · obtain ⟨hv, hw⟩ := hd
    rw [s.writeCc_disables v (hwas.trans hw) (hbit.trans hv)]
    have hno {p : Prop} (h : v.getLsbD 0 = true) : p := absurd (hv.symm.trans h) Bool.false_ne_true
    exact ⟨rfl, rfl, fun _ _ => rfl, fun h => hno h, fun h => hno h⟩
  · have hk : (bitAt s.pf1.cc 0 && !bitAt (v &&& 0x01FFFFF1) 0) = false := by
      rw [hbit, hwas]
      cases hv : v.getLsbD 0 <;> simp_all
    rw [s.writeCc_keeps v hk]
    have hf := s.pf1.configured_fields (v &&& 0x01FFFFF1)
    refine ⟨?_, ?_, fun hv hw => absurd ⟨hv, hw⟩ hd, fun hv hn hp => ?_, fun hv hw => ?_⟩
    · rw [State.pf1Settle_fields]
    · rw [State.pf1Settle_fields]
      exact congrArg Pf1.cc hf
    · have hshn : fld (v &&& 0x01FFFFF1) 14 2 ≠ 0 := by
        rw [ccMask_shn]
        exact fun h => hn (BitVec.eq_of_toNat_eq h)
      have hwas : fld s.pf1.cc 14 2 = 0 := by rw [fld_eq_extractLsb', hp]; rfl
      rw [State.pf1Settle_shst _ (Pf1.configured_shutdown _ _ hshn hwas)]
      dsimp only
      rw [hf]
      rfl
    · rw [State.pf1Settle_fields]
      exact Pf1.configured_enables _ _ (hbit.trans hv) (hwas.trans hw)

/-! ### Doorbells (R281) -/

theorem exec_pf1SqDoorbell {q : BitVec 16} {x : NvmeSq} (hs : s.stopped = false) (hx : SMap.find s.pf1.sqs q.toNat = some x)
    (hv : v.toNat < x.size) :
    exec (.pf1SqDoorbell q v) s = .next { s with pf1 := { s.pf1 with sqs := SMap.insert s.pf1.sqs q.toNat { x with tail := v.toNat } } } := by
  show execPf1SqDoorbell q v s = _
  simp [execPf1SqDoorbell, State.sqDoorbell, State.withPf1, hs, hx, hv]

theorem exec_pf1CqDoorbell {q : BitVec 16} {y : NvmeCq} (hs : s.stopped = false) (hy : SMap.find s.pf1.cqs q.toNat = some y)
    (hv : v.toNat < y.size) :
    exec (.pf1CqDoorbell q v) s = .next { s with pf1 := { s.pf1 with cqs := SMap.insert s.pf1.cqs q.toNat { y with head := v.toNat } } } := by
  show execPf1CqDoorbell q v s = _
  simp [execPf1CqDoorbell, State.cqDoorbell, State.withPf1, hs, hy, hv]

end

theorem SMap.find_insert_same {α : Type} (m : SMap α) (k : Nat) (v : α) : SMap.find (SMap.insert m k v) k = some v := by
  simp [SMap.find_insert]

theorem SMap.find_insert_other {α : Type} (m : SMap α) {k j : Nat} (v : α) (h : j ≠ k) : SMap.find (SMap.insert m k v) j = SMap.find m j := by
  simp [SMap.find_insert, h]

/-! ### Fetch (R281, R282, R275) -/

/-- The command that the 64 bytes of an entry of queue q make. -/
def State.entryCmd (s : State) (q : BitVec 16) (bs : List Byte) : NvmeCmd :=
  { fid := s.pf1.nextFid, sq := q.toNat, word := bs.take 64 ++ zeros (64 - bs.length), ranges := [], reads := false
    phase := .fetched, silent := false }

/-- The command after the checks at its fetch: with its locks, or done with the status of the check it fails. -/
def State.checkedCmd (s : State) (c : NvmeCmd) (ranges : HostRead) : NvmeCmd :=
  { c with
    ranges := if (s.nvmeCheck c ranges).isSome then [] else nvmeRanges c ranges
    reads := decide (c.op = 2)
    phase := match s.nvmeCheck c ranges with
      | some (sct, sc) => .done sct sc 0
      | none => .fetched }

/-- Queue q's next entry x taken as command d. -/
def State.tookEntry (s : State) (q : BitVec 16) (x : NvmeSq) (d : NvmeCmd) : State :=
  s.withPf1 (fun p => { p with
    sqs := SMap.insert p.sqs q.toNat { x with head := (x.head + 1) % x.size }
    cmds := p.cmds ++ [d], nextFid := p.nextFid + 1, last := q.toNat })

/-- An entry taken; where d is the only command that waits at the flash, PF1's flow there fills (R275). -/
def State.fetchedEntry (s : State) (q : BitVec 16) (x : NvmeSq) (d : NvmeCmd) : State :=
  if d.waits && !(s.pf1.cmds.any NvmeCmd.waits) then (s.tookEntry q x d).flowFills pf1Flow 108 else s.tookEntry q x d

section
variable {s : State} {q : BitVec 16} {x : NvmeSq} {bs : List Byte} {ranges : HostRead}

theorem exec_nvmeFetch_eq (hs : s.stopped = false) (hx : SMap.find s.pf1.sqs q.toNat = some x) (ht : s.sqTurn = some q.toNat) :
    exec (.nvmeFetch q (.data bs) ranges) s =
      if decide (1024 < s.locksUsed + (s.checkedCmd (s.entryCmd q bs) ranges).ranges.length) then .next s
      else .next (s.fetchedEntry q x (s.checkedCmd (s.entryCmd q bs) ranges)) := by
  have hturn : (false || decide (some q.toNat ≠ some q.toNat)) = false := by simp
  show execNvmeFetch q (.data bs) ranges s = _
  unfold execNvmeFetch
  rw [hx]
  dsimp only
  rw [hs, ht, hturn, Bool.false_or]
  rfl

/-- The queue whose turn it is gives its entry where the range-lock table has room (R281, R282). -/
theorem exec_nvmeFetch {d : NvmeCmd} (hs : s.stopped = false) (hx : SMap.find s.pf1.sqs q.toNat = some x)
    (ht : s.sqTurn = some q.toNat) (hd : s.checkedCmd (s.entryCmd q bs) ranges = d) (hl : s.locksUsed + d.ranges.length ≤ 1024) :
    exec (.nvmeFetch q (.data bs) ranges) s = .next (s.fetchedEntry q x d) := by
  rw [exec_nvmeFetch_eq hs hx ht, hd]
  exact if_neg (by simpa using hl)

/-- It waits where the table has no room (R282). -/
theorem exec_nvmeFetch_full {d : NvmeCmd} (hs : s.stopped = false) (hx : SMap.find s.pf1.sqs q.toNat = some x)
    (ht : s.sqTurn = some q.toNat) (hd : s.checkedCmd (s.entryCmd q bs) ranges = d) (hl : 1024 < s.locksUsed + d.ranges.length) :
    exec (.nvmeFetch q (.data bs) ranges) s = .next s := by
  rw [exec_nvmeFetch_eq hs hx ht, hd]
  exact if_pos (by simpa using hl)

/-- A command that passes the checks at its fetch. -/
theorem State.checkedCmd_passes {c : NvmeCmd} (h : s.nvmeCheck c ranges = none) (hp : c.phase = .fetched) :
    s.checkedCmd c ranges = { c with ranges := nvmeRanges c ranges, reads := decide (c.op = 2) } := by
  simp [State.checkedCmd, h, hp]

/-- A command that fails a check at its fetch. -/
theorem State.checkedCmd_fails {c : NvmeCmd} {sct sc : Nat} (h : s.nvmeCheck c ranges = some (sct, sc)) (hr : c.ranges = []) :
    s.checkedCmd c ranges = { c with reads := decide (c.op = 2), phase := .done sct sc 0 } := by
  simp [State.checkedCmd, h, hr]

/-- The command takes queue q's next entry as d (R281): PF1's flow at the flash fills where d is the only command that waits there. -/
def TakesEntry (s : State) (i : Instr) (q : BitVec 16) (x : NvmeSq) (d : NvmeCmd) : Prop :=
  ∃ t, exec i s = .next t ∧
    t = { s with flows := t.flows, pf1 := { s.pf1 with
      sqs := t.pf1.sqs, nextFid := s.pf1.nextFid + 1, last := q.toNat, cmds := s.pf1.cmds ++ [d] } } ∧
    ((d.phase ≠ .fetched ∨ d.sq = 0 ∨ ∃ e ∈ s.pf1.cmds, e.waits = true) → t.flows = s.flows) ∧
    (d.phase = .fetched → d.sq ≠ 0 → (∀ e ∈ s.pf1.cmds, e.waits = false) → (t.flow pf1Flow).start = s.virt 108) ∧
    KeepsSqs q.toNat s t ∧ SMap.find t.pf1.sqs q.toNat = some { x with head := (x.head + 1) % x.size }

theorem TakesEntry.of_exec {i : Instr} {d : NvmeCmd} (hg : d.granted = false) (h : exec i s = .next (s.fetchedEntry q x d)) :
    TakesEntry s i q x d := by
  have hother : ∀ j, j ≠ q.toNat →
      SMap.find (SMap.insert s.pf1.sqs q.toNat { x with head := (x.head + 1) % x.size }) j = SMap.find s.pf1.sqs j :=
    fun j hj => SMap.find_insert_other _ _ hj
  by_cases hw : (d.waits && !(s.pf1.cmds.any NvmeCmd.waits)) = true
  · rw [State.fetchedEntry, if_pos hw] at h
    refine ⟨_, h, rfl, fun hno => ?_, fun _ _ _ => ?_, hother, SMap.find_insert_same _ _ _⟩
    · exfalso
      simp only [NvmeCmd.waits, Bool.and_eq_true, decide_eq_true_eq, Bool.not_eq_true', List.any_eq_false] at hw
      obtain ⟨⟨⟨hp, hq⟩, -⟩, hnone⟩ := hw
      rcases hno with hno | hno | ⟨e, he, hwe⟩
      · exact hno hp
      · exact hq hno
      · exact hnone e he (by simpa [NvmeCmd.waits] using hwe)
    · exact congrArg Flow.start (SMap.get_set_same _ _ _ _)
  · rw [State.fetchedEntry, if_neg hw] at h
    refine ⟨_, h, rfl, fun _ => rfl, fun hp hq hnone => absurd ?_ hw, hother, SMap.find_insert_same _ _ _⟩
    simp only [Bool.and_eq_true, Bool.not_eq_true', List.any_eq_false]
    exact ⟨by simp [NvmeCmd.waits, hp, hq, hg], fun e he => by simp [hnone e he]⟩

end

/-! ### Start (R275, R282, R283, R285) -/

/-- A fetched command takes its own place. -/
theorem State.nvme_setNvme {s : State} {c d : NvmeCmd} (h : s.nvme c.fid = some d) (j : Nat) :
    (s.setNvme c).nvme j = if j = c.fid then some c else s.nvme j := by
  have hfid : ∀ e : NvmeCmd, (if e.fid = c.fid then c else e).fid = e.fid := fun e => by split <;> simp [*]
  have hmap : (s.setNvme c).nvme j = (s.nvme j).map fun e => if e.fid = c.fid then c else e := by
    show (s.pf1.cmds.map _).find? _ = _
    rw [List.find?_map]
    simp only [Function.comp_def, hfid]
    rfl
  rw [hmap]
  by_cases hj : j = c.fid
  · subst hj
    have hd : d.fid = c.fid := by simpa using List.find?_some h
    rw [if_pos rfl, h, Option.map_some, if_pos hd]
  · rw [if_neg hj]
    cases he : s.nvme j with
    | none => rfl
    | some e =>
      have hej : e.fid = j := by simpa using List.find?_some he
      rw [Option.map_some, if_neg (by rwa [hej])]

/-- The admin commands whose effect another row names wait for it. -/
theorem State.adminStart_waits (s : State) {c : NvmeCmd} (h : c.op ∈ [0x00, 0x01, 0x02, 0x05, 0x80, 0xC1]) : s.adminStart c = s := by
  simp only [List.mem_cons, List.not_mem_nil, or_false] at h
  rcases h with h | h | h | h | h | h <;> simp [State.adminStart, h]

/-- An I/O command returns the function from PS2 to PS0 (R285). -/
theorem State.leavesPs2 (s : State) :
    (if s.pf1.ps = 2 then s.withPf1 (fun p => { p with ps := 0 }) else s) =
      { s with pf1 := { s.pf1 with ps := if s.pf1.ps = 2 then 0 else s.pf1.ps } } := by
  by_cases h : s.pf1.ps = 2
  · rw [if_pos h, if_pos h]
    rfl
  · rw [if_neg h, if_neg h]

section
variable {s : State} {fid : Nat} {c : NvmeCmd}

/-- The started command. -/
def NvmeCmd.startedNow (c : NvmeCmd) : NvmeCmd := { c with phase := .started, begun := true }

theorem State.nvme_started (hc : s.nvme fid = some c) (j : Nat) :
    (s.setNvme c.startedNow).nvme j = if j = fid then some c.startedNow else s.nvme j := by
  have hfid : c.fid = fid := by simpa using List.find?_some hc
  have h := State.nvme_setNvme (c := c.startedNow) (d := c) (s := s) (by rw [← hc, ← hfid]; rfl) j
  rwa [show c.startedNow.fid = fid from hfid] at h

theorem exec_nvmeCommandStart_ungranted (hc : s.nvme fid = some c) (hq : c.sq ≠ 0) (hg : c.granted = false) :
    exec (.nvmeCommandStart fid) s = .next s := by
  show execNvmeCommandStart fid s = _
  simp [execNvmeCommandStart, hc, hq, hg]

/-- A granted I/O command starts, which leaves PS2 (R285). -/
theorem exec_nvmeCommandStart_io (hc : s.nvme fid = some c) (hr : s.nvmeReady c = true) (hq : c.sq ≠ 0) (hg : c.granted = true) :
    exec (.nvmeCommandStart fid) s = .next { s.setNvme c.startedNow with
      pf1 := { (s.setNvme c.startedNow).pf1 with ps := if s.pf1.ps = 2 then 0 else s.pf1.ps } } := by
  show execNvmeCommandStart fid s = _
  unfold execNvmeCommandStart
  rw [hc]
  dsimp only
  rw [if_neg (by simp [hr, hg]), if_neg hq]
  exact congrArg Host.Outcome.next (s.setNvme c.startedNow).leavesPs2

/-- An admin command whose effect another row names starts. -/
theorem exec_nvmeCommandStart_admin (hc : s.nvme fid = some c) (hr : s.nvmeReady c = true) (hq : c.sq = 0)
    (ho : c.op ∈ [0x00, 0x01, 0x02, 0x05, 0x80, 0xC1]) : exec (.nvmeCommandStart fid) s = .next (s.setNvme c.startedNow) := by
  show execNvmeCommandStart fid s = _
  unfold execNvmeCommandStart
  rw [hc]
  dsimp only
  rw [if_neg (by simp [hr, hq]), if_pos hq]
  exact congrArg Host.Outcome.next (State.adminStart_waits _ ho)

end

/-- Settles O30: each command of the storage controller by its own rule. -/
theorem storageController : Obligations.StorageController := by
  intro q v s hs
  refine ⟨⟨rfl, rfl, rfl⟩, fun h1 => ?_, fun x hx hv => ?_, fun y hy hv => ?_, fun x bs ranges hx ht => ?_, fun c fid hc hr hq => ?_,
    fun c fid hc hr hq ho => ?_⟩
  · obtain ⟨hframe, hcc, hoff, hshut, hon⟩ := s.writeCc_spec v
    refine ⟨_, exec_controllerConfiguration hs h1, hframe, hcc, hoff, hshut, fun hv hw => ?_⟩
    obtain ⟨hsqs, hcqs⟩ := hon hv hw
    rw [hsqs, hcqs]
    simp [Pf1.withAdminQueues, fld_eq_extractLsb']
  · exact ⟨_, exec_pf1SqDoorbell hs hx hv, rfl, fun j hj => SMap.find_insert_other _ _ hj, SMap.find_insert_same _ _ _⟩
  · exact ⟨_, exec_pf1CqDoorbell hs hy hv, rfl, fun j => SMap.find_insert _ _ _ _⟩
  · exact ⟨fun hk hl => TakesEntry.of_exec rfl (exec_nvmeFetch hs hx ht (State.checkedCmd_passes hk rfl) hl),
      fun hk hl => exec_nvmeFetch_full hs hx ht (State.checkedCmd_passes hk rfl) hl,
      fun sct sc hk hl => TakesEntry.of_exec rfl (exec_nvmeFetch hs hx ht (State.checkedCmd_fails hk rfl) hl)⟩
  · exact ⟨exec_nvmeCommandStart_ungranted hc hq, fun hg =>
      ⟨_, exec_nvmeCommandStart_io hc hr hq hg, rfl, State.nvme_started hc⟩⟩
  · exact ⟨_, exec_nvmeCommandStart_admin hc hr hq ho, rfl, State.nvme_started hc⟩

end Sys2Proof.Machine
end

section
/-!
PROOFS. The stages of a start (O49): the journal replay of STAGE3 writes memory.
-/

namespace Sys2Proof.Machine

/-- A cold start before STAGE3 after an unclean shutdown: the holdup store charged, the ring of the health log at the start of HBM. -/
def uncleanAtStage3 : State :=
  { (State.reset.setReg Reg.pwrHoldup 0x80000000).setReg Reg.hlyHealthBase 0x1000000000 with
    start := { Start.reset with stage := 3, marker := false } }

/-- Work of a start in which everything is good and the map is read. -/
def mapLoaded : StageWork := { cores := 0xFFFFFFFFFFFFF, lupin := 0xFFFF, dies := 0xF, hbm := 0xFF, mapOk := true, replayed := 1 }

theorem exec_stageAdvance_unclean : exec (.stageAdvance mapLoaded) uncleanAtStage3 = .next (uncleanAtStage3.toStage3 mapLoaded) := rfl

/-- The replay of the journal is an event of the health log, whose entry goes to its ring in HBM (R271, R279). -/
theorem toStage3_unclean_writesHealth : (uncleanAtStage3.toStage3 mapLoaded).byte (0x1000000000 + 8) = 0x09 := by decide

theorem byte_uncleanAtStage3 : uncleanAtStage3.byte (0x1000000000 + 8) = 0 := by decide

/-- Refutes O49: a start that replays the journal reaches STAGE3 with memory changed, by the entry of the health log that R271 and R279
ask for. -/
theorem not_startStages : ¬ Obligations.StartStages := by
  intro h
  obtain ⟨-, -, -, -, -, -, -, -, hstage3, -⟩ := h mapLoaded uncleanAtStage3 (by decide) (by decide) (by decide)
  obtain ⟨hloaded, -⟩ := hstage3 (by decide) (by decide)
  obtain ⟨t, ht, ⟨-, -, hmem, -⟩, -⟩ := hloaded rfl
  obtain rfl : uncleanAtStage3.toStage3 mapLoaded = t := by
    rw [exec_stageAdvance_unclean] at ht
    exact Host.Outcome.next.inj ht
  have hbyte : (uncleanAtStage3.toStage3 mapLoaded).byte (0x1000000000 + 8) = uncleanAtStage3.byte (0x1000000000 + 8) :=
    congrArg (fun m => SMap.get 0 m (0x1000000000 + 8)) hmem
  rw [toStage3_unclean_writesHealth, byte_uncleanAtStage3] at hbyte
  exact absurd hbyte (by decide)

end Sys2Proof.Machine
end

section
/-!
SUPPORT. Fjorin ports: what a port and its egress read after a write.
-/

namespace Sys2Proof.Machine

section
variable (s : State)

@[simp] theorem State.port_setPort_same (p : Nat) (x : Port) : (s.setPort p x).port p = x := SMap.get_set_same _ _ _ _

theorem State.port_setPort_other {p j : Nat} (x : Port) (h : j ≠ p) : (s.setPort p x).port j = s.port j := SMap.get_set_other _ _ _ h

@[simp] theorem State.egress_setEgress_same (p c : Nat) (ws : List Waiting) : (s.setEgress p c ws).egress p c = ws := by
  unfold State.egress State.setEgress
  rw [State.port_setPort_same, SMap.get_set_same]

/-- The message of class 0 and this type and payload that joins port p's egress for the neighbour there (R315). -/
def State.linkItem (p : Nat) (typ : Byte) (payload : List Byte) : Waiting :=
  { msg := { dst := (s.port p).peer, src := BitVec.ofNat 16 s.moduleId, typ := typ, cls := 0, vc := false, ttl := 128, poison := false
             tag := 0, payload := payload }
    since := s.now }

theorem State.sendLink_class0 (p : Nat) (typ : Byte) (payload : List Byte) :
    s.sendLink p typ 0 payload = s.setEgress p 0 (s.egress p 0 ++ [s.linkItem p typ payload]) := by
  unfold State.sendLink State.enqueueAt
  dsimp only
  rw [if_neg (by simp)]
  rfl

/-- Port k becomes y, with its egress as it was, and sends a message of class 0 to its neighbour: no other port changes. -/
theorem State.sendLink_setPort (k : Nat) (y : Port) (typ : Byte) (payload : List Byte) (hy : y.egress = (s.port k).egress) :
    let t := (s.setPort k y).sendLink k typ 0 payload
    t = { s with flows := t.flows, ports := t.ports } ∧ (∀ j, j ≠ k → t.port j = s.port j) ∧
      t.port k = { y with egress := (t.port k).egress } ∧
      (t.egress k 0).map (fun w => w.msg.payload) = (s.egress k 0).map (fun w => w.msg.payload) ++ [payload] := by
  have heg : (s.setPort k y).egress k 0 = s.egress k 0 := by
    unfold State.egress
    rw [State.port_setPort_same, hy]
  dsimp only
  rw [State.sendLink_class0]
  refine ⟨rfl, fun j hj => ?_, ?_, ?_⟩
  · exact (State.port_setPort_other _ _ hj).trans (State.port_setPort_other _ _ hj)
  · unfold State.setEgress
    rw [State.port_setPort_same, State.port_setPort_same]
  · rw [State.egress_setEgress_same, heg, List.map_append]
    rfl

end

end Sys2Proof.Machine
end

section
/-!
PROOFS. Time alignment and the invalidation of segment entries (O43).
-/

namespace Sys2Proof.Machine

/-! ### Time alignment (R332) -/

section
variable {s : State} {p : BitVec 3} {frac : BitVec 4} {m : Msg}

/-- An up port asks its neighbour for the time, at most once per millisecond. -/
theorem exec_timeSyncSend (hup : (s.port p.toNat).state = .up) (hdue : 1000000 ≤ (s.now - (s.port p.toNat).syncAt).toNat) :
    exec (.timeSyncSend p frac) s = .next
      ((s.setPort p.toNat { s.port p.toNat with syncT1 := some (s.stamp frac : Nat), syncAt := s.now }).sendLink p.toNat 0x0A 0
        (syncPayload false s.ownHops (s.stamp frac) 0 0)) := by
  show execTimeSyncSend p frac s = _
  unfold execTimeSyncSend
  dsimp only
  rw [if_pos (by rw [hup, decide_eq_true hdue]; rfl)]

/-- Port k once TIME_SYNC m has left it: it knows the hops its peer advertises. -/
def State.heardSync (s : State) (k : Nat) (m : Msg) : Port :=
  { s.port k with arrived := (s.port k).arrived.erase m, hops := some (numAt m.payload 1 1) }

/-- A request is answered. -/
theorem exec_timeSync_request (hm : (s.port p.toNat).arrived.find? (fun m => m.typ = 0x0A) = some m) (hreq : numAt m.payload 0 1 = 0) :
    exec (.timeSync p frac) s = .next ((s.setPort p.toNat (s.heardSync p.toNat m)).sendLink p.toNat 0x0A 0
      (syncPayload true s.ownHops (numAt m.payload 2 8) (s.stamp frac) (s.stamp frac))) := by
  show execTimeSync p frac s = _
  unfold execTimeSync
  dsimp only
  rw [hm]
  dsimp only
  rw [if_pos hreq]
  rfl

/-- The offset to the peer that answer m gives: ((t2 − t1) − (t4 − t3)) / 2. -/
def State.syncOffset (s : State) (frac : BitVec 4) (m : Msg) : Int :=
  (((numAt m.payload 10 8 : Int) - numAt m.payload 2 8) - ((s.stamp frac : Int) - numAt m.payload 18 8)) / 2

/-- A module that is not the root and has a parent port configured follows it, whatever its ports hold. -/
theorem State.parentPort_fixed (ps : SMap Port) (hr : s.isRoot = false) (ha : bitAt (s.reg Reg.fjlTimeCfg) 30 = false) :
    ({ s with ports := ps } : State).parentPort = some (s.regFld Reg.fjlTimeCfg 0 3) := by
  have hr' : ({ s with ports := ps } : State).isRoot = false := hr
  have ha' : bitAt (({ s with ports := ps } : State).reg Reg.fjlTimeCfg) 30 = false := ha
  unfold State.parentPort
  rw [hr', ha']
  rfl

/-- The answer to the request in progress, on the parent port, aligns device time. -/
theorem exec_timeSync_answer (hm : (s.port p.toNat).arrived.find? (fun m => m.typ = 0x0A) = some m) (hans : numAt m.payload 0 1 ≠ 0)
    (ht1 : (s.port p.toNat).syncT1 = some (numAt m.payload 2 8 : Int)) (hr : s.isRoot = false) (ha : bitAt (s.reg Reg.fjlTimeCfg) 30 = false)
    (hk : s.regFld Reg.fjlTimeCfg 0 3 = p.toNat) :
    ∃ ps, SMap.get Port.reset ps p.toNat = { s.heardSync p.toNat m with syncT1 := none } ∧
      exec (.timeSync p frac) s = .next (({ s with ports := ps } : State).alignTo p.toNat (s.syncOffset frac m)) := by
  refine ⟨((s.setPort p.toNat (s.heardSync p.toNat m)).setPort p.toNat { s.heardSync p.toNat m with syncT1 := none }).ports,
    State.port_setPort_same _ _ _, ?_⟩
  show execTimeSync p frac s = _
  unfold execTimeSync
  dsimp only
  rw [hm]
  dsimp only
  rw [if_neg hans]
  split
  · next hnone => cases ht1.symm.trans hnone
  · next a hsome =>
    obtain rfl : a = _ := Option.some.inj (hsome.symm.trans ht1)
    rw [if_neg (by simp), State.port_setPort_same, if_pos]
    · rfl
    · exact (State.parentPort_fixed _ hr ha).trans (congrArg some hk)

/-- The run of successive offsets within 2 ns, once off is the last one (R332). -/
def TimeAlign.nextGood (x : TimeAlign) (off : Int) : Nat := if -32 ≤ off ∧ off ≤ 32 then x.good + 1 else 0

/-- A positive offset moves device time forward at once. -/
theorem State.alignTo_forward (s : State) (k : Nat) {off : Int} (h : 0 ≤ off / 16) :
    ∃ v, s.alignTo k off = { s.setReg Reg.fjlTimeStatus v with
      now := (s.setReg Reg.fjlTimeStatus v).now + BitVec.ofNat 64 (off / 16).toNat
      align := { good := s.align.nextGood off, slowNs := 0, slowPhase := 0 } } :=
  ⟨_, if_pos h⟩

/-- A negative offset slows device time. -/
theorem State.alignTo_slows (s : State) (k : Nat) {off : Int} (h : ¬ 0 ≤ off / 16) :
    ∃ v, s.alignTo k off = { s.setReg Reg.fjlTimeStatus v with
      align := { good := s.align.nextGood off, slowNs := (-(off / 16)).toNat, slowPhase := 0 } } :=
  ⟨_, if_neg h⟩

/-- Alignment, in a state that differs from s in its ports, changes no register but FJL_TIME_STATUS and never moves device time back. -/
theorem State.alignTo_spec (s : State) (ps : SMap Port) (k : Nat) (off : Int) :
    let t := ({ s with ports := ps } : State).alignTo k off
    t = { s with now := t.now, eff := t.eff, ports := ps, align := t.align } ∧ (∀ a, a ≠ Reg.fjlTimeStatus → t.reg a = s.reg a) ∧
      t.now = (if 0 ≤ off / 16 then s.now + BitVec.ofNat 64 (off / 16).toNat else s.now) ∧
      t.align.slowNs = (if 0 ≤ off / 16 then 0 else (-(off / 16)).toNat) ∧ t.align.good = s.align.nextGood off := by
  by_cases h : 0 ≤ off / 16
  · obtain ⟨v, hv⟩ := State.alignTo_forward { s with ports := ps } k h
    rw [hv, if_pos h, if_pos h]
    exact ⟨rfl, fun a ha => State.reg_setReg_other { s with ports := ps } _ ha, rfl, rfl, rfl⟩
  · obtain ⟨v, hv⟩ := State.alignTo_slows { s with ports := ps } k h
    rw [hv, if_neg h, if_neg h]
    exact ⟨rfl, fun a ha => State.reg_setReg_other { s with ports := ps } _ ha, rfl, rfl, rfl⟩

end

/-! ### Invalidation of segment entries (R319) -/

section
variable {s : State} {v : BitVec 32}

/-- A write while BUSY is ignored (R249, R319). -/
theorem exec_fjlSegInval_busy (hs : s.stopped = false) (h1 : 1 ≤ s.start.stage) (hb : s.segInval ≠ none) :
    exec (.fjlSegInval v) s = .next s := by
  show execFjlSegInval v s = _
  simp [execFjlSegInval, State.beginSegInval, hs, Nat.not_lt.mpr h1, Option.isSome_iff_ne_none.mpr hb]

/-- An invalidation begins with the accesses then under way through its entries marked. -/
theorem exec_fjlSegInval_idle (hs : s.stopped = false) (h1 : 1 ≤ s.start.stage) (hb : s.segInval = none) :
    exec (.fjlSegInval v) s = .next { s with
      segInval := some v
      reqs := s.reqs.map (fun e => (e.1, { e.2 with
        segInval := v.getLsbD 16 || decide (e.2.seg = (v.extractLsb' 0 16).toNat) })) } := by
  show execFjlSegInval v s = _
  simp [execFjlSegInval, State.beginSegInval, hs, hb, Nat.not_lt.mpr h1, bitAt_eq_getLsbD, fld_eq_extractLsb']

theorem exec_segInvalDone_waits (hb : s.segInval = some v) (hr : ∃ e ∈ s.reqs, e.2.segInval = true) :
    exec .segInvalDone s = .next s := by
  have hany : (s.reqs.any fun e => e.2.segInval) = true := List.any_eq_true.mpr hr
  show execSegInvalDone s = _
  simp [execSegInvalDone, hb, hany]

theorem exec_segInvalDone_ends (hs : s.stopped = false) (hb : s.segInval = some v) (hr : ∀ e ∈ s.reqs, e.2.segInval = false) :
    exec .segInvalDone s = .next { s with segInval := none } := by
  have hany : (s.reqs.any fun e => e.2.segInval) = false := List.any_eq_false.mpr fun e he => by simp [hr e he]
  show execSegInvalDone s = _
  simp [execSegInvalDone, hb, hs, hany]

end

/-- Settles O43: the exchange's request, its answer and its end, then the invalidation's begin and end. -/
theorem timeAndSegments : Obligations.TimeAndSegments := by
  intro p frac s
  refine ⟨fun hup hdue => ?_, fun m hm => ⟨fun hreq => ?_, fun hans ht1 hr ha hk => ?_⟩, fun v h1 hs =>
    ⟨exec_fjlSegInval_idle hs h1, exec_fjlSegInval_busy hs h1, fun hb => ⟨exec_segInvalDone_waits hb, exec_segInvalDone_ends hs hb⟩⟩⟩
  · obtain ⟨hframe, hothers, hport, hsent⟩ := s.sendLink_setPort p.toNat
      { s.port p.toNat with syncT1 := some (s.stamp frac : Nat), syncAt := s.now } 0x0A (syncPayload false s.ownHops (s.stamp frac) 0 0) rfl
    exact ⟨_, exec_timeSyncSend hup hdue, hframe, hothers, by rw [hport], by rw [hport], hsent⟩
  · obtain ⟨hframe, -, hport, hsent⟩ := s.sendLink_setPort p.toNat (s.heardSync p.toNat m) 0x0A
      (syncPayload true s.ownHops (numAt m.payload 2 8) (s.stamp frac) (s.stamp frac)) rfl
    exact ⟨_, exec_timeSync_request hm hreq, hframe, by rw [hport]; rfl, hsent⟩
  · obtain ⟨ps, hport, hx⟩ := exec_timeSync_answer (frac := frac) hm hans ht1 hr ha hk
    obtain ⟨hframe, hregs, halign⟩ := State.alignTo_spec s ps p.toNat (s.syncOffset frac m)
    generalize State.alignTo _ _ _ = t at hx hframe hregs halign
    have hp : t.port p.toNat = { s.heardSync p.toNat m with syncT1 := none } := by rw [State.port, hframe, hport]
    exact ⟨t, hx, by rw [hframe], hregs, by rw [hp]; rfl, by rw [hp], halign⟩

end Sys2Proof.Machine
end

section
/-!
SUPPORT. Single bits of registers; counters with their WRAPPED bits; what a loop over ports or dies leaves of each one.
-/

namespace Sys2Proof.Machine

/-! ### Single bits -/

/-- A bit keeps its value when a field that does not hold it is written. -/
theorem bitAt_setFld_other (v : Word) {lo w x i : Nat} (h : i < lo ∨ lo + w ≤ i) : bitAt (setFld v lo w x) i = bitAt v i := by
  rw [bitAt_eq_getLsbD, bitAt_eq_getLsbD, getLsbD_setFld, if_neg (by omega)]

/-- A bit reads back what was written to it. -/
theorem bitAt_setFld_same (v : Word) {i : Nat} (b : Bool) (h : i < 64) : bitAt (setFld v i 1 (b2n b)) i = b := by
  rw [bitAt_eq_getLsbD, getLsbD_setFld, if_pos (by omega), Nat.sub_self]
  cases b <;> rfl

theorem bitAt_setFld_one (v : Word) {i : Nat} (h : i < 64) : bitAt (setFld v i 1 1) i = true := bitAt_setFld_same v true h

/-- A field whose bits are all 0. -/
theorem fld_eq_zero {n : Nat} (v : BitVec n) {lo w : Nat} (h : ∀ i, i < w → bitAt v (lo + i) = false) : fld v lo w = 0 := by
  apply Nat.eq_of_testBit_eq
  intro i
  rw [testBit_fld, Nat.zero_testBit]
  by_cases hi : i < w
  · rw [← bitAt_eq_getLsbD, h i hi, Bool.and_false]
  · rw [decide_eq_false hi, Bool.false_and]

theorem fld_lt {n : Nat} (v : BitVec n) (lo w : Nat) : fld v lo w < 2 ^ w := Nat.mod_lt _ (Nat.two_pow_pos w)

@[simp] theorem State.reg_setRegFld_same (s : State) (a lo w x : Nat) : (s.setRegFld a lo w x).reg a = setFld (s.reg a) lo w x :=
  State.reg_setReg_same _ _ _

/-! ### Counters (R134) -/

/-- The register that holds the WRAPPED bit of counter a. -/
def wrapReg (a : Nat) : Option Nat :=
  (regAt a).bind fun r => r.desc.wrap.map fun w => w.base + w.s1 * r.i + 4 * ((w.bit + w.b1 * r.i + w.b2 * r.j) / 32)

theorem wrapReg_eq_some {a c : Nat} (h : wrapReg a = some c) :
    ∃ r w, regAt a = some r ∧ r.desc.wrap = some w ∧ c = w.base + w.s1 * r.i + 4 * ((w.bit + w.b1 * r.i + w.b2 * r.j) / 32) := by
  obtain ⟨r, hr, hc⟩ := Option.bind_eq_some_iff.mp h
  obtain ⟨w, hw, hc⟩ := Option.map_eq_some_iff.mp hc
  exact ⟨r, w, hr, hw, hc.symm⟩

section
variable {a c : Nat} (hw : wrapReg a = some c)
include hw

theorem counterReg_of_wrapReg : CounterReg a ∧ CounterReg c := by
  obtain ⟨r, w, hr, hwr, hc⟩ := wrapReg_eq_some hw
  exact ⟨⟨a, r, w, hr, hwr, .inl rfl⟩, ⟨a, r, w, hr, hwr, .inr hc⟩⟩

/-- A count of counter a leaves every register alone but a and the one of its WRAPPED bit. -/
theorem State.reg_bump_of_wrapReg (s : State) (n : Nat) {b : Nat} (hb : b ≠ a) (hbc : b ≠ c) : (s.bump a n).reg b = s.reg b := by
  obtain ⟨r, w, hr, hwr, hc⟩ := wrapReg_eq_some hw
  refine State.reg_bump_other _ _ _ _ hb fun r' w' hr' hwr' => ?_
  obtain rfl : r = r' := Option.some.inj (hr.symm.trans hr')
  obtain rfl : w = w' := Option.some.inj (hwr.symm.trans hwr')
  exact hc ▸ hbc

theorem State.reg_bump_same_of_wrapReg (s : State) (n : Nat) (hac : a ≠ c) : (s.bump a n).reg a = s.reg a + BitVec.ofNat 64 n := by
  obtain ⟨r, w, hr, hwr, hc⟩ := wrapReg_eq_some hw
  refine State.reg_bump_same _ _ _ fun r' w' hr' hwr' => ?_
  obtain rfl : r = r' := Option.some.inj (hr.symm.trans hr')
  obtain rfl : w = w' := Option.some.inj (hwr.symm.trans hwr')
  exact hc ▸ hac

end

/-- From s to t every register keeps its value but the counters and those in as. -/
def KeepsBut (as : List Nat) (s t : State) : Prop := ∀ x, ¬ CounterReg x → x ∉ as → t.reg x = s.reg x

section
variable {as bs : List Nat} {s t u : State}

theorem KeepsBut.refl : KeepsBut as s s := fun _ _ _ => rfl

theorem KeepsBut.trans (h : KeepsBut as s t) (hu : KeepsBut bs t u) (hs : bs ⊆ as) : KeepsBut as s u :=
  fun x hx ha => (hu x hx fun hb => ha (hs hb)).trans (h x hx ha)

theorem KeepsBut.mono (h : KeepsBut as s t) (hs : as ⊆ bs) : KeepsBut bs s t := fun x hx hb => h x hx fun ha => hb (hs ha)

theorem KeepsBut.of_keepsRegs (h : KeepsRegs as s t) : KeepsBut as s t := fun x _ ha => h x ha

theorem KeepsBut.setRegFld (h : KeepsBut as s t) {a : Nat} (lo w x : Nat) (ha : a ∈ as) : KeepsBut as s (t.setRegFld a lo w x) :=
  fun y hy hn => (State.reg_setRegFld_other _ _ _ _ (ne_of_mem_of_not_mem ha hn).symm).trans (h y hy hn)

theorem KeepsBut.bump (h : KeepsBut as s t) {a c : Nat} (n : Nat) (hw : wrapReg a = some c) : KeepsBut as s (t.bump a n) := by
  obtain ⟨ha, hc⟩ := counterReg_of_wrapReg hw
  exact fun y hy hn => (State.reg_bump_of_wrapReg hw t n (fun e : y = a => hy (e ▸ ha)) fun e : y = c => hy (e ▸ hc)).trans (h y hy hn)

theorem KeepsRegs.refl : KeepsRegs as s s := fun _ _ => rfl

theorem KeepsRegs.of_ne {a r : Nat} (h : KeepsRegs [a] s t) (hr : r ≠ a) : t.reg r = s.reg r := h r fun hm => hr (List.mem_singleton.mp hm)

theorem KeepsRegs.trans (h : KeepsRegs as s t) (hu : KeepsRegs bs t u) (hs : bs ⊆ as) : KeepsRegs as s u :=
  fun x ha => (hu x fun hb => ha (hs hb)).trans (h x ha)

theorem KeepsRegs.mono (h : KeepsRegs as s t) (hs : as ⊆ bs) : KeepsRegs bs s t := fun x hb => h x fun ha => hb (hs ha)

theorem KeepsRegs.setReg (h : KeepsRegs as s t) {a : Nat} (v : Word) (ha : a ∈ as) : KeepsRegs as s (t.setReg a v) :=
  fun y hn => (State.reg_setReg_other _ _ (ne_of_mem_of_not_mem ha hn).symm).trans (h y hn)

theorem KeepsRegs.setRegFld (h : KeepsRegs as s t) {a : Nat} (lo w x : Nat) (ha : a ∈ as) : KeepsRegs as s (t.setRegFld a lo w x) :=
  h.setReg _ ha

end

/-- From s to t registers alone change. -/
def RegsOnly (s t : State) : Prop := t = { s with eff := t.eff }

section
variable {s t : State}

theorem RegsOnly.refl : RegsOnly s s := rfl

theorem RegsOnly.setReg (h : RegsOnly s t) (a : Nat) (v : Word) : RegsOnly s (t.setReg a v) := by
  unfold RegsOnly
  rw [h]
  rfl

theorem RegsOnly.setRegFld (h : RegsOnly s t) (a lo w x : Nat) : RegsOnly s (t.setRegFld a lo w x) := h.setReg a _

theorem RegsOnly.bump (h : RegsOnly s t) (a n : Nat) : RegsOnly s (t.bump a n) := by
  unfold RegsOnly
  rw [State.bump_fields, h]

end

/-! ### Loops -/

/-- After a loop over l, in which the pass of p brings about Q of p and no other pass undoes it, Q holds of every element of l. -/
theorem foldl_each {σ : Type} {g : σ → Nat → σ} {Q : Nat → σ → Prop} (hsame : ∀ t p, Q p (g t p))
    (hother : ∀ t p j, j ≠ p → Q j t → Q j (g t p)) (l : List Nat) (s : σ) (k : Nat) (h : k ∈ l ∨ Q k s) : Q k (l.foldl g s) := by
  induction l generalizing s with
  | nil => exact h.resolve_left List.not_mem_nil
  | cons p l ih =>
    refine ih (g s p) ?_
    by_cases hk : k = p
    · exact .inr (hk ▸ hsame s p)
    · exact h.imp (fun hm => (List.mem_cons.mp hm).resolve_left hk) (hother s p k hk)

end Sys2Proof.Machine
end

section
/-!
SUPPORT. Ports that lose their links (R313, R364, R388, R397), the fault log and a fatal fault (R364).
-/

namespace Sys2Proof.Machine

/-! ### The end of a recording (R366) -/

section
variable (s : State) (p : Nat)

theorem State.endRecording_regsOnly (incomplete : Bool) : RegsOnly s (s.endRecording p incomplete) := by
  have h : RegsOnly s (s.setRegFld Reg.mgdCutStatus (8 + p) 1 0) := RegsOnly.refl.setRegFld _ _ _ _
  unfold State.endRecording
  split
  · exact h.setRegFld _ _ _ _
  · exact h

theorem State.endRecording_keepsRegs (incomplete : Bool) : KeepsRegs [Reg.mgdCutStatus] s (s.endRecording p incomplete) := by
  have h : KeepsRegs [Reg.mgdCutStatus] s (s.setRegFld Reg.mgdCutStatus (8 + p) 1 0) := KeepsRegs.refl.setRegFld _ _ _ (by decide)
  unfold State.endRecording
  split
  · exact h.setRegFld _ _ _ (by decide)
  · exact h

/-- The port's PENDING bit is cleared, that of no other port set. -/
theorem State.pending_endRecording (j : Nat) (hj : j < 8) :
    bitAt ((s.endRecording p true).reg Reg.mgdCutStatus) (8 + j) = (bitAt (s.reg Reg.mgdCutStatus) (8 + j) && decide (j ≠ p)) := by
  have h : (s.endRecording p true).reg Reg.mgdCutStatus =
      setFld (setFld (s.reg Reg.mgdCutStatus) (8 + p) 1 (b2n false)) (16 + p) 1 1 := by
    show ((s.setRegFld Reg.mgdCutStatus (8 + p) 1 0).setRegFld Reg.mgdCutStatus (16 + p) 1 1).reg Reg.mgdCutStatus = _
    rw [State.reg_setRegFld_same, State.reg_setRegFld_same]
    rfl
  rw [h, bitAt_setFld_other _ (by omega)]
  by_cases hp : j = p
  · subst hp
    rw [bitAt_setFld_same _ _ (by omega)]
    simp
  · rw [bitAt_setFld_other _ (by omega)]
    simp [hp]

end

/-! ### Ports that lose their links -/

/-- From s to t ports, and with them the sending of queue words, change; of the registers MGD_CUT_STATUS alone may, in a stop. -/
def LosesLinks (s t : State) : Prop :=
  t = { s with eff := t.eff, ports := t.ports, stem := t.stem } ∧ KeepsRegs [Reg.mgdCutStatus] s t ∧ (s.stopped = false → t.eff = s.eff)

section
variable {s t u : State}

theorem LosesLinks.refl : LosesLinks s s := ⟨rfl, KeepsRegs.refl, fun _ => rfl⟩

theorem LosesLinks.trans (h : LosesLinks s t) (hu : LosesLinks t u) : LosesLinks s u := by
  obtain ⟨hf, hr, he⟩ := h
  obtain ⟨hf', hr', he'⟩ := hu
  have hst : t.stopped = s.stopped := by rw [hf]
  refine ⟨?_, hr.trans hr' (List.Subset.refl _), fun hs => (he' (hst.trans hs)).trans (he hs)⟩
  rw [hf', hf]

theorem LosesLinks.setPort (h : LosesLinks s t) (p : Nat) (x : Port) : LosesLinks s (t.setPort p x) := by
  obtain ⟨hf, hr, he⟩ := h
  exact ⟨by rw [hf]; rfl, hr, he⟩

theorem LosesLinks.foldl {g : State → Nat → State} (hg : ∀ t p, LosesLinks t (g t p)) (l : List Nat) (s : State) :
    LosesLinks s (l.foldl g s) :=
  List.foldlRecOn (motive := fun t => LosesLinks s t) l g .refl fun t h p _ => h.trans (hg t p)

/-- With no stop the registers are as they were. -/
theorem LosesLinks.reg (h : LosesLinks s t) (hs : s.stopped = false) (a : Nat) : t.reg a = s.reg a := State.reg_congr (h.2.2 hs) a

end

section
variable (s : State) (p : Nat)

theorem State.dropPort_spec (st : PortState) :
    LosesLinks s (s.dropPort p st) ∧ (s.dropPort p st).ports = (s.setPort p ((s.port p).dropped st)).ports := by
  unfold State.dropPort
  extract_lets u t
  have hf : RegsOnly u t := by
    unfold t
    split
    · exact u.endRecording_regsOnly p true
    · exact RegsOnly.refl
  have hr : KeepsRegs [Reg.mgdCutStatus] u t := by
    unfold t
    split
    · exact u.endRecording_keepsRegs p true
    · exact KeepsRegs.refl
  have he (hs : s.stopped = false) : t.eff = u.eff :=
    congrArg State.eff (if_neg (by simp [State.portRecords, show u.stopped = false from hs]))
  clear_value t
  refine ⟨⟨?_, hr, he⟩, ?_⟩
  · rw [hf]
    rfl
  · rw [hf]

theorem State.port_dropPort_same (st : PortState) : (s.dropPort p st).port p = (s.port p).dropped st := by
  rw [State.port, (s.dropPort_spec p st).2]
  exact State.port_setPort_same _ _ _

theorem State.port_dropPort_other (st : PortState) {j : Nat} (h : j ≠ p) : (s.dropPort p st).port j = s.port j := by
  rw [State.port, (s.dropPort_spec p st).2]
  exact State.port_setPort_other _ _ h

theorem State.beginTraining_losesLinks (retrain : Bool) : LosesLinks s (s.beginTraining p retrain) :=
  (s.dropPort_spec p .training).1.setPort _ _

theorem State.port_beginTraining_same (retrain : Bool) :
    ((s.beginTraining p retrain).port p).state = .training ∧ ((s.beginTraining p retrain).port p).retrain = retrain := by
  unfold State.beginTraining
  dsimp only
  rw [State.port_setPort_same, State.port_dropPort_same]
  exact ⟨rfl, rfl⟩

theorem State.port_beginTraining_other (retrain : Bool) {j : Nat} (h : j ≠ p) : (s.beginTraining p retrain).port j = s.port j := by
  unfold State.beginTraining
  dsimp only
  rw [State.port_setPort_other _ _ h, State.port_dropPort_other _ _ _ h]

/-- All eight ports are disabled (R364, R397). -/
theorem State.disablePorts_spec : LosesLinks s s.disablePorts ∧ ∀ k, k < 8 → (s.disablePorts.port k).state = .disabled := by
  refine ⟨LosesLinks.foldl (fun t p => (t.dropPort_spec p .disabled).1) _ _, fun k hk => ?_⟩
  refine foldl_each (Q := fun k t => (State.port t k).state = .disabled) (fun t p => ?_) (fun t p j hj h => ?_) (List.range 8) s k
    (.inl (List.mem_range.mpr hk))
  · rw [State.port_dropPort_same]
    rfl
  · rw [State.port_dropPort_other _ _ _ hj, h]

end

/-! ### The fault log (R372) and a fatal fault (R364) -/

/-- From s to t registers and the fault logs alone change. -/
def LogsOnly (s t : State) : Prop :=
  t = { s with eff := t.eff, logPrimary := t.logPrimary, logSecondary := t.logSecondary, logSecondaryWr := t.logSecondaryWr }

section
variable {s t : State} (h : LogsOnly s t)
include h

theorem LogsOnly.setReg (a : Nat) (v : Word) : LogsOnly s (t.setReg a v) := by
  unfold LogsOnly
  rw [h]
  rfl

theorem LogsOnly.bump (a n : Nat) : LogsOnly s (t.bump a n) := by
  unfold LogsOnly
  rw [State.bump_fields, h]

theorem LogsOnly.primary (l : SMap LogEntry) : LogsOnly s { t with logPrimary := l } := by
  unfold LogsOnly
  rw [h]

theorem LogsOnly.secondary (l : SMap LogEntry) (wr : BitVec 32) : LogsOnly s { t with logSecondary := l, logSecondaryWr := wr } := by
  unfold LogsOnly
  rw [h]

end

theorem State.logEvent_logsOnly (s : State) (code sev : Byte) (unit job : BitVec 16) (arg : Word) :
    LogsOnly s (s.logEvent code sev unit job arg) := by
  have h0 : LogsOnly s s := rfl
  unfold State.logEvent
  extract_lets wr e used t t' s1 s2
  have ht : LogsOnly s t' := by
    unfold t'
    split
    · exact (h0.primary _).bump _ _
    · exact h0.primary _
  have h1 : LogsOnly s s1 := by
    unfold s1
    split
    · exact h0
    · exact ht.setReg _ _
  have h2 : LogsOnly s s2 := by
    unfold s2
    split
    · exact h1
    · exact h1.secondary _ _
  exact h2.setReg _ _

/-- An event is the last one logged. -/
theorem State.logEvent_lastLogged (s : State) (code sev : Byte) (unit job : BitVec 16) (arg : Word) :
    LastLogged (s.logEvent code sev unit job arg) code.toNat (sev.toNat % 4) unit.toNat := State.reg_setReg_same _ _ _

/-- A fatal fault changes the ports and the log alone: every port is disabled, the fault is the last event logged. -/
theorem State.fatalFault_spec (s : State) (arg : Word) (h : s.fatal = false) :
    let t := s.fatalFault arg
    t = { s with eff := t.eff, ports := t.ports, stem := t.stem, logPrimary := t.logPrimary, logSecondary := t.logSecondary
                 logSecondaryWr := t.logSecondaryWr, fatal := true, savedLog := t.savedLog } ∧
      (∀ k, k < 8 → (t.port k).state = .disabled) ∧ LastLogged t 0x10 3 0xF000 := by
  have hlog : LogsOnly s _ := s.logEvent_logsOnly 0x10 3 0xF000 0 arg
  have hlast := s.logEvent_lastLogged 0x10 3 0xF000 0 arg
  obtain ⟨⟨hdrop, hregs, -⟩, hports⟩ := (s.logEvent 0x10 3 0xF000 0 arg).disablePorts_spec
  unfold State.fatalFault
  rw [h, if_neg (by decide)]
  dsimp only
  generalize s.logEvent 0x10 3 0xF000 0 arg = u at *
  generalize u.disablePorts = t at *
  refine ⟨?_, hports, (hregs _ (by decide)).trans hlast⟩
  rw [hdrop, hlog]

end Sys2Proof.Machine
end

section
/-!
PROOFS. Holdup, loss of input power and the coolant guard (O51).
-/

namespace Sys2Proof.Machine

/-! ### Holdup (R394) -/

/-- Is the module powered, and not in the power-loss sequence? -/
def State.powered (s : State) : Prop := s.start.off = false ∧ s.start.losing = false

/-- Is a measurement of usable energy due: none made in this start, the store not yet charged, or the last one 24 h old (R394)? -/
def State.holdupDue (s : State) : Prop :=
  ∀ t, s.power.holdupAt = some t → bitAt (s.reg Reg.pwrHoldup) 31 = false ∨ 86400000000000 ≤ (s.now - t).toNat

/-- PWR_HOLDUP after a measurement of cj hundredths of a joule. -/
def State.holdupRegs (s : State) (cj : BitVec 16) : State :=
  let t := (s.setRegFld Reg.pwrHoldup 0 16 cj.toNat).setRegFld Reg.pwrHoldup 30 1 (b2n (decide (cj.toNat < 3000)))
  if 3000 ≤ cj.toNat then t.setRegFld Reg.pwrHoldup 31 1 1 else t

section
variable {s : State} {cj : BitVec 16}

theorem not_powered_iff : ¬ s.powered ↔ (s.start.off || s.start.losing) = true := by
  unfold State.powered
  cases s.start.off <;> cases s.start.losing <;> simp

theorem State.powered.flags (h : s.powered) : (s.start.off || s.start.losing) = false := by
  rw [h.1, h.2]
  rfl

theorem exec_holdupMeasure_waits (h : ¬ (s.powered ∧ s.holdupDue)) : exec (.holdupMeasure cj) s = .next s := by
  show execHoldupMeasure cj s = _
  unfold execHoldupMeasure
  by_cases hp : s.powered
  · obtain ⟨t, ht, hb, hlt⟩ : ∃ t, s.power.holdupAt = some t ∧ bitAt (s.reg Reg.pwrHoldup) 31 = true ∧
        (s.now - t).toNat < 86400000000000 := by
      have hd : ¬ s.holdupDue := fun hd => h ⟨hp, hd⟩
      simpa [State.holdupDue] using hd
    rw [ht]
    dsimp only
    rw [hb, decide_eq_false (Nat.not_le.mpr hlt)]
    exact if_pos (Bool.or_true _)
  · rw [not_powered_iff.mp hp]
    rfl

theorem exec_holdupMeasure_due (hp : s.powered) (hd : s.holdupDue) :
    exec (.holdupMeasure cj) s =
      .next { s.holdupRegs cj with power := { (s.holdupRegs cj).power with holdupAt := some s.now } } := by
  show execHoldupMeasure cj s = _
  unfold execHoldupMeasure
  rw [hp.flags]
  cases ht : s.power.holdupAt with
  | none => rfl
  | some t =>
    have hdue : (!bitAt (s.reg Reg.pwrHoldup) 31 || decide (86400000000000 ≤ (s.now - t).toNat)) = true := by
      rcases hd t ht with h | h
      · rw [h]
        rfl
      · rw [decide_eq_true h, Bool.or_true]
    dsimp only
    rw [hdue]
    rfl

end

theorem State.holdupRegs_spec (s : State) (cj : BitVec 16) :
    let t := s.holdupRegs cj
    RegsOnly s t ∧ KeepsRegs [Reg.pwrHoldup] s t ∧ t.regFld Reg.pwrHoldup 0 16 = cj.toNat ∧
      bitAt (t.reg Reg.pwrHoldup) 30 = decide (cj.toNat < 3000) ∧
      bitAt (t.reg Reg.pwrHoldup) 31 = (bitAt (s.reg Reg.pwrHoldup) 31 || decide (3000 ≤ cj.toNat)) := by
  have hk : KeepsRegs [Reg.pwrHoldup] s
      ((s.setRegFld Reg.pwrHoldup 0 16 cj.toNat).setRegFld Reg.pwrHoldup 30 1 (b2n (decide (cj.toNat < 3000)))) :=
    (KeepsRegs.refl.setRegFld _ _ _ (by decide)).setRegFld _ _ _ (by decide)
  have hf : RegsOnly s
      ((s.setRegFld Reg.pwrHoldup 0 16 cj.toNat).setRegFld Reg.pwrHoldup 30 1 (b2n (decide (cj.toNat < 3000)))) :=
    (RegsOnly.refl.setRegFld _ _ _ _).setRegFld _ _ _ _
  unfold State.holdupRegs
  dsimp only
  split
  · next h =>
    refine ⟨hf.setRegFld _ _ _ _, hk.setRegFld _ _ _ (by decide), ?_, ?_, ?_⟩
    · simp (disch := decide) only [State.regFld, State.reg_setRegFld_same, fld_setFld_other]
      exact fld_setFld_same _ (by decide) cj.isLt
    · simp (disch := decide) only [State.reg_setRegFld_same, bitAt_setFld_other, bitAt_setFld_same]
    · rw [State.reg_setRegFld_same, decide_eq_true h, Bool.or_true]
      exact bitAt_setFld_same _ true (by decide)
  · next h =>
    refine ⟨hf, hk, ?_, ?_, ?_⟩
    · simp (disch := decide) only [State.regFld, State.reg_setRegFld_same, fld_setFld_other]
      exact fld_setFld_same _ (by decide) cj.isLt
    · simp (disch := decide) only [State.reg_setRegFld_same, bitAt_setFld_same]
    · simp (disch := decide) only [State.reg_setRegFld_same, bitAt_setFld_other, decide_eq_false h, Bool.or_false]

/-- Usable energy is measured when it is due (R394). -/
theorem holdupMeasure_spec (s : State) (cj : BitVec 16) :
    (¬ (s.powered ∧ s.holdupDue) → exec (.holdupMeasure cj) s = .next s) ∧
    (s.powered ∧ s.holdupDue → ∃ t, exec (.holdupMeasure cj) s = .next t ∧
      t = { s with eff := t.eff, power := { s.power with holdupAt := some s.now } } ∧ KeepsBut [Reg.pwrHoldup] s t ∧
      t.regFld Reg.pwrHoldup 0 16 = cj.toNat ∧ bitAt (t.reg Reg.pwrHoldup) 30 = decide (cj.toNat < 3000) ∧
      bitAt (t.reg Reg.pwrHoldup) 31 = (bitAt (s.reg Reg.pwrHoldup) 31 || decide (3000 ≤ cj.toNat))) := by
  refine ⟨exec_holdupMeasure_waits, fun h => ⟨_, exec_holdupMeasure_due h.1 h.2, ?_⟩⟩
  obtain ⟨hf, hk, hrest⟩ := s.holdupRegs_spec cj
  refine ⟨?_, .of_keepsRegs hk, hrest⟩
  generalize s.holdupRegs cj = t at hf
  rw [hf]

/-! ### Loss of input power (R364, R395) -/

theorem powerLoss_ignored {s : State} (h : ¬ s.powered) : exec .powerLoss s = .next s := if_pos (not_powered_iff.mp h)

/-- Loss of input power is a fatal fault (R364). -/
theorem powerLoss_spec {s : State} (h : s.powered) :
    ∃ t, exec .powerLoss s = .next t ∧ t.fatal = true ∧ t.start = { s.start with losing := true } ∧ t.mem = s.mem ∧ t.flash = s.flash ∧
      (s.fatal = false → (∀ k, k < 8 → (t.port k).state = .disabled) ∧ LastLogged t 0x10 3 0xF000) := by
  have hx : exec .powerLoss s =
      .next { s.fatalFault 0 with fatal := true, start := { (s.fatalFault 0).start with losing := true } } := if_neg (by simp [h.flags])
  by_cases hf : s.fatal = true
  · have hs : s.fatalFault 0 = s := if_pos hf
    rw [hs] at hx
    exact ⟨_, hx, rfl, rfl, rfl, rfl, fun h => absurd (hf.symm.trans h) (by decide)⟩
  · obtain ⟨hframe, hports, hlast⟩ := s.fatalFault_spec 0 (by simpa using hf)
    refine ⟨_, hx, rfl, ?_, ?_, ?_, fun _ => ⟨hports, hlast⟩⟩
    all_goals
      generalize s.fatalFault 0 = t at hframe
      rw [hframe]

/-- Without power only flash, the fuses and Heather's flash keep anything. -/
theorem State.unpowered_fields (s : State) : ∃ e g l v, s.unpowered =
    { s.startBase false true with eff := e, stg := g, logPrimary := l, savedLog := v
                                  start := { (s.startBase false true).start with off := true, pcie := [] } } := by
  obtain ⟨e, g, l, h⟩ := s.restarted_fields false true
  refine ⟨e, g, l, s.savedLog, ?_⟩
  unfold State.unpowered
  rw [h]

/-- The power-loss sequence ends in power off, or in the cold start that follows input power (R395). -/
theorem powerDown_spec {s : State} (good bifurc : Bool) (sel : BitVec 3) (h : s.start.losing = true) :
    ∃ t, exec (.powerDown good bifurc sel) s = .next t ∧ t.start.off = !good ∧ t.start.losing = false ∧ t.start.stage = 0 ∧
      t.mem = [] ∧ t.cores = [] ∧ t.jobs = [] ∧ t.flash = s.flash ∧ t.erase = s.erase ∧ t.now = 0 ∧
      (good = true → t.start.bifurc = bifurc ∧ t.start.addrSel = sel) := by
  have hx : exec (.powerDown good bifurc sel) s = .next (if good then s.unpowered.powerGood bifurc sel else s.unpowered) := by
    refine (if_neg (by simp [h])).trans ?_
    cases good <;> rfl
  obtain ⟨e, g, l, v, hu⟩ := s.unpowered_fields
  cases good with
  | false =>
    refine ⟨_, hx, ?_⟩
    rw [if_neg (by decide), hu]
    exact ⟨rfl, rfl, rfl, rfl, rfl, rfl, rfl, rfl, rfl, fun h => absurd h (by decide)⟩
  | true =>
    obtain ⟨e', g', l', hb⟩ := s.unpowered.beginStart_fields false true
    refine ⟨_, hx, ?_⟩
    rw [if_pos rfl, State.powerGood, hb, hu]
    exact ⟨rfl, rfl, rfl, rfl, rfl, rfl, rfl, rfl, rfl, fun _ => ⟨rfl, rfl⟩⟩

/-! ### The begin of a trip (R371, R397) -/

/-- From u to t a trip begins, or goes on: it is counted and latched once, the ports are disabled and HBM put in self-refresh, but while a
cut is being taken, whose pending ports end their recording (R371, R397). -/
structure TripBegins (u t : State) : Prop where
  frame : t = { u with eff := t.eff, ports := t.ports, stem := t.stem, tripped := true, selfRefresh := t.selfRefresh }
  regs : KeepsBut [Reg.grdStatus, Reg.mgdCutStatus] u t
  status : t.reg Reg.grdStatus = if u.tripped then u.reg Reg.grdStatus else setFld (u.reg Reg.grdStatus) 31 1 1
  trips : t.reg Reg.grdTrips = u.reg Reg.grdTrips + if u.tripped then 0 else 1
  disagree : t.reg Reg.grdDisagree = u.reg Reg.grdDisagree
  ports : u.tripped = false → u.stopped = false → t.selfRefresh = true ∧ ∀ k, k < 8 → (t.port k).state = .disabled
  cut : u.tripped = false → u.stopped = true → u.regFld Reg.mgdCutStatus 0 2 = 1 →
    t.selfRefresh = u.selfRefresh ∧ t.regFld Reg.mgdCutStatus 8 8 = 0

theorem wrapReg_grdTrips : wrapReg Reg.grdTrips = some Reg.grdCntWrap := by decide

theorem wrapReg_grdDisagree : wrapReg Reg.grdDisagree = some Reg.grdCntWrap := by decide

/-- A trip counted and latched. -/
def State.tripNoted (u : State) : State :=
  (({ u with tripped := true } : State).bump Reg.grdTrips 1).setRegFld Reg.grdStatus 31 1 1

/-- v is u with a trip counted and latched. -/
structure TripNoted (u v : State) : Prop where
  frame : v = { u with eff := v.eff, tripped := true }
  regs : KeepsBut [Reg.grdStatus] u v
  status : v.reg Reg.grdStatus = setFld (u.reg Reg.grdStatus) 31 1 1
  trips : v.reg Reg.grdTrips = u.reg Reg.grdTrips + 1
  others : ∀ a, a ≠ Reg.grdStatus → a ≠ Reg.grdTrips → a ≠ Reg.grdCntWrap → v.reg a = u.reg a

section
variable (u : State)

theorem State.tripNoted_spec : TripNoted u u.tripNoted where
  frame := (RegsOnly.refl.bump Reg.grdTrips 1).setRegFld Reg.grdStatus 31 1 1
  regs := (KeepsBut.bump (t := { u with tripped := true }) KeepsBut.refl 1 wrapReg_grdTrips).setRegFld _ _ _ (by decide)
  status := by
    unfold State.tripNoted
    rw [State.reg_setRegFld_same, State.reg_bump_of_wrapReg wrapReg_grdTrips _ _ (by decide) (by decide)]
    rfl
  trips := (State.reg_setRegFld_other _ _ _ _ (by decide)).trans
    (State.reg_bump_same_of_wrapReg wrapReg_grdTrips { u with tripped := true } 1 (by decide))
  others _ hs ht hw := (State.reg_setRegFld_other _ _ _ _ hs).trans
    (State.reg_bump_of_wrapReg wrapReg_grdTrips { u with tripped := true } 1 ht hw)

/-- The recordings that a trip ends: the pending ports of a cut become INCOMPLETE (R371). -/
def State.endRecordings (v : State) : State := ((List.range 8).filter v.portRecords).foldl (fun u p => u.endRecording p true) v

theorem State.endRecordings_keeps : RegsOnly u u.endRecordings ∧ KeepsRegs [Reg.mgdCutStatus] u u.endRecordings := by
  refine List.foldlRecOn (motive := fun t => RegsOnly u t ∧ KeepsRegs [Reg.mgdCutStatus] u t) _ _ ⟨RegsOnly.refl, KeepsRegs.refl⟩
    fun t ⟨hf, hk⟩ p _ => ⟨?_, hk.trans (t.endRecording_keepsRegs p true) (List.Subset.refl _)⟩
  unfold RegsOnly
  rw [t.endRecording_regsOnly p true, hf]

/-- No port is left pending. -/
theorem State.endRecordings_pending (hs : u.stopped = true) : u.endRecordings.regFld Reg.mgdCutStatus 8 8 = 0 := by
  refine fld_eq_zero _ fun i hi => ?_
  refine foldl_each (Q := fun i t => i < 8 → bitAt (State.reg t Reg.mgdCutStatus) (8 + i) = false) (fun t p hp => ?_)
    (fun t p j hj h hj8 => ?_) _ u i ?_ hi
  · rw [t.pending_endRecording p p hp]
    simp
  · rw [t.pending_endRecording p j hj8, h hj8, Bool.false_and]
  · by_cases hp : u.portRecords i = true
    · exact .inl (List.mem_filter.mpr ⟨List.mem_range.mpr hi, hp⟩)
    · refine .inr fun _ => ?_
      simpa [State.portRecords, hs] using hp

/-- What a trip does to the ports and HBM once it is noted. -/
theorem State.beginTrip_eq (h : u.tripped = false) :
    u.beginTrip = if (u.tripNoted.stopped && decide (u.tripNoted.regFld Reg.mgdCutStatus 0 2 = 1)) = true
      then u.tripNoted.endRecordings else ({ u.tripNoted with selfRefresh := true } : State).disablePorts :=
  if_neg (by simp [h])

variable {u}

/-- A trip of a module that has none begins once it is noted and ports have lost their links. -/
theorem TripBegins.of_losesLinks {v t : State} {r : Bool} (ht : u.tripped = false) (hn : TripNoted u v)
    (hl : LosesLinks { v with selfRefresh := r } t)
    (hports : u.stopped = false → t.selfRefresh = true ∧ ∀ k, k < 8 → (t.port k).state = .disabled)
    (hcut : u.stopped = true → u.regFld Reg.mgdCutStatus 0 2 = 1 → t.selfRefresh = u.selfRefresh ∧ t.regFld Reg.mgdCutStatus 8 8 = 0) :
    TripBegins u t := by
  obtain ⟨hf, hk, -⟩ := hl
  have hk : KeepsRegs [Reg.mgdCutStatus] v t := hk
  refine ⟨?_, ?_, ?_, ?_, ?_, fun _ => hports, fun _ => hcut⟩
  · rw [hf, hn.frame]
  · exact (hn.regs.mono (by decide)).trans (.of_keepsRegs hk) (by decide)
  · rw [hk _ (by decide), hn.status, ht]
    rfl
  · rw [hk _ (by decide), hn.trips, ht]
    rfl
  · rw [hk _ (by decide), hn.others _ (by decide) (by decide) (by decide)]

theorem State.beginTrip_tripBegins (u : State) : TripBegins u u.beginTrip := by
  by_cases ht : u.tripped = true
  · have hb : u.beginTrip = u := if_pos ht
    rw [hb]
    have hno {p : Prop} (h : u.tripped = false) : p := absurd (ht.symm.trans h) (by decide)
    refine ⟨?_, KeepsBut.refl, (if_pos ht).symm, ?_, rfl, fun h => hno h, fun h => hno h⟩
    · rw [← ht]
    · rw [if_pos ht]
      exact (BitVec.add_zero _).symm
  · have ht : u.tripped = false := by simpa using ht
    have hn := u.tripNoted_spec
    rw [u.beginTrip_eq ht]
    generalize u.tripNoted = v at hn ⊢
    have hs : v.stopped = u.stopped := by rw [hn.frame]
    have hc : v.regFld Reg.mgdCutStatus 0 2 = u.regFld Reg.mgdCutStatus 0 2 :=
      congrArg (fun v => fld v 0 2) (hn.others _ (by decide) (by decide) (by decide))
    rw [hs, hc]
    split
    · next h =>
      rw [Bool.and_eq_true, decide_eq_true_eq] at h
      obtain ⟨hstop, -⟩ := h
      obtain ⟨hf, hk⟩ := v.endRecordings_keeps
      have hp := v.endRecordings_pending (hs.trans hstop)
      have hno {p : Prop} (h : u.stopped = false) : p := absurd (hstop.symm.trans h) (by decide)
      refine .of_losesLinks (r := v.selfRefresh) ht hn ⟨?_, hk, fun h => hno (hs.symm.trans h)⟩ (fun h => hno h) fun _ _ => ⟨?_, hp⟩
      · rw [hf]
      · rw [hf, hn.frame]
    · next h =>
      obtain ⟨hl, hp⟩ := ({ v with selfRefresh := true } : State).disablePorts_spec
      refine .of_losesLinks ht hn hl (fun _ => ⟨?_, hp⟩) fun hstop hcut => ?_
      · rw [hl.1]
      · exact absurd (by rw [hstop, hcut]; rfl) h

end

/-! ### The end of a trip (R388, R398) -/

section
variable (s : State)

theorem State.portEnabled_congr {s t : State} {p : Nat} (h : t.reg (Reg.fjlPortCfg p) = s.reg (Reg.fjlPortCfg p)) :
    t.portEnabled p = s.portEnabled p := by
  unfold State.portEnabled State.role State.regFld
  rw [h]

/-- Once Heather has released them, the enabled ports train again by a fast retrain. -/
theorem State.retrainPorts_spec : LosesLinks s s.retrainPorts ∧
    (s.start.released ≠ none → ∀ k, k < 8 → s.portEnabled k = true →
      (s.retrainPorts.port k).state = .training ∧ (s.retrainPorts.port k).retrain = true) := by
  unfold State.retrainPorts
  split
  · next h => exact ⟨LosesLinks.refl, fun hr => absurd (Option.isNone_iff_eq_none.mp h) hr⟩
  · refine ⟨LosesLinks.foldl (fun t p => t.beginTraining_losesLinks p true) _ _, fun _ k hk he => ?_⟩
    refine foldl_each (Q := fun k t => (State.port t k).state = .training ∧ (State.port t k).retrain = true)
      (fun t p => t.port_beginTraining_same p true) (fun t p j hj h => ?_) _ s k
      (.inl (List.mem_filter.mpr ⟨List.mem_range.mpr hk, he⟩))
    rwa [State.port_beginTraining_other _ _ _ hj]

end

/-- From u to t the latches are cleared; a trip, if there was one, has ended: HBM leaves self-refresh and the ports retrain. -/
structure TripEnds (u t : State) : Prop where
  frame : t = { u with eff := t.eff, ports := t.ports, stem := t.stem, tripped := false, selfRefresh := t.selfRefresh }
  regs : KeepsRegs [Reg.grdStatus, Reg.mgdCutStatus] u t
  running : u.stopped = false → KeepsRegs [Reg.grdStatus] u t
  status : t.reg Reg.grdStatus = setFld (u.reg Reg.grdStatus) 29 3 0
  links : u.tripped = true → t.selfRefresh = false ∧
    (u.start.released ≠ none → ∀ k, k < 8 → u.portEnabled k = true → (t.port k).state = .training ∧ (t.port k).retrain = true)
  idle : u.tripped = false → RegsOnly u t

theorem State.endTrip_tripEnds (u : State) : TripEnds u u.endTrip := by
  have hf : RegsOnly u (u.setRegFld Reg.grdStatus 29 3 0) := RegsOnly.refl.setRegFld _ _ _ _
  have hk : KeepsRegs [Reg.grdStatus] u (u.setRegFld Reg.grdStatus 29 3 0) := KeepsRegs.refl.setRegFld _ _ _ (by decide)
  have hst := u.reg_setRegFld_same Reg.grdStatus 29 3 0
  unfold State.endTrip
  dsimp only
  generalize u.setRegFld Reg.grdStatus 29 3 0 = v at *
  by_cases ht : u.tripped = true
  · rw [if_pos ht]
    obtain ⟨⟨hlf, hlk, hle⟩, hlp⟩ := ({ v with tripped := false, selfRefresh := false } : State).retrainPorts_spec
    generalize State.retrainPorts _ = t at *
    have hlk : KeepsRegs [Reg.mgdCutStatus] v t := hlk
    have hs : v.stopped = u.stopped := by rw [hf]
    have hr : v.start = u.start := by rw [hf]
    have hen {k : Nat} (hk8 : k < 8) : v.portEnabled k = u.portEnabled k := State.portEnabled_congr (hk _ (by
      rw [List.mem_singleton, Reg.fjlPortCfg, Reg.grdStatus]
      omega))
    refine ⟨?_, (hk.mono (by decide)).trans hlk (by decide), fun h => ?_, ?_, fun _ => ⟨?_, fun hrel k hk8 he => ?_⟩, fun h => ?_⟩
    · rw [hlf, hf]
    · exact fun a ha => (State.reg_congr (s := v) (hle (hs.trans h)) a).trans (hk a ha)
    · rw [hlk _ (by decide), hst]
    · rw [hlf]
    · exact hlp (hr ▸ hrel) k hk8 ((hen hk8).trans he)
    · exact absurd (ht.symm.trans h) (by decide)
  · have ht : u.tripped = false := by simpa using ht
    rw [ht, if_neg (by decide)]
    refine ⟨?_, hk.mono (by decide), fun _ => hk, hst, fun h => absurd (ht.symm.trans h) (by decide), fun _ => hf⟩
    rw [hf, ← ht]

/-! ### A sample of the guard's channels (R396, R397) -/

/-- Was the last sample less than 1 ms ago? -/
def State.guardEarly (s : State) : Prop := ∃ t, s.guard.sampled = some t ∧ (s.now - t).toNat < 1000000

/-- The channels' readings in GRD_STATUS. -/
def State.channelsRead (s : State) (a b : Bool) : State :=
  (s.setRegFld Reg.grdStatus 25 1 (b2n a)).setRegFld Reg.grdStatus 24 1 (b2n !b)

/-- A sample on which the channels disagree. -/
def State.guardDiffers (s : State) (a b : Bool) : State :=
  ({ s.channelsRead a b with guard := { s.guard with run := s.guard.run + 1, safeRun := 0, sampled := some s.now } } : State).setRegFld
    Reg.grdStatus 0 10 (Nat.min (s.guard.run + 1) 1023)

/-- A sample on which the channels agree, and the guard becomes x: it ends a run of disagreement, which counts if too short to latch. -/
def State.guardAgrees (s : State) (a b : Bool) (x : Interlock) : State :=
  let t := s.channelsRead a b
  let t := if decide (0 < s.guard.run) && decide (s.guard.run < s.regFld Reg.grdCfg 0 10) then t.bump Reg.grdDisagree 1 else t
  { t.setRegFld Reg.grdStatus 0 10 0 with guard := x }

/-- The guard after one more sample on which both channels are SAFE. -/
def State.guardSafe (s : State) : Interlock :=
  { safe := true, run := 0, safeRun := Nat.min 1000 (s.guard.safeRun + 1), sampled := some s.now }

/-- The guard after a sample on which neither channel is SAFE. -/
def State.guardUnsafe (s : State) : Interlock := { safe := false, run := 0, safeRun := 0, sampled := some s.now }

/-- May a trip end by itself (R398)? -/
def State.endsAlone (t : State) : Bool :=
  t.clearReady && t.tripped && bitAt (t.reg Reg.grdCfg) 16 && bitAt (t.reg Reg.grdStatus) 30 && !(bitAt (t.reg Reg.grdStatus) 29)

section
variable {s : State} {a b : Bool}

theorem exec_guardSample_ignored (h : ¬ s.powered ∨ s.guardEarly) : exec (.guardSample a b) s = .next s := by
  refine if_pos ?_
  rcases h with h | ⟨t, ht, hlt⟩
  · rw [not_powered_iff.mp h, Bool.true_or]
  · rw [ht]
    dsimp only
    rw [decide_eq_true hlt, Bool.or_true]

/-- A sample that is taken: by the channels' readings. -/
theorem exec_guardSample_taken (hp : s.powered) (he : ¬ s.guardEarly) :
    exec (.guardSample a b) s =
      if (a != !b) = true then
        if (decide (s.regFld Reg.grdCfg 0 10 ≤ s.guard.run + 1) && !(bitAt ((s.guardDiffers a b).reg Reg.grdStatus) 29)) = true
        then .next ((s.guardDiffers a b).setRegFld Reg.grdStatus 29 1 1).beginTrip
        else .next (s.guardDiffers a b)
      else if a = true then
        if (s.guardAgrees a b s.guardSafe).endsAlone = true
        then .next (s.guardAgrees a b s.guardSafe).endTrip
        else .next (s.guardAgrees a b s.guardSafe)
      else .next ((s.guardAgrees a b s.guardUnsafe).setRegFld Reg.grdStatus 30 1 1).beginTrip := by
  refine if_neg ?_
  rw [hp.flags, Bool.false_or]
  cases ht : s.guard.sampled with
  | none => exact Bool.false_ne_true
  | some t => simpa using fun hlt => he ⟨t, ht, hlt⟩

end

/-- u is s with the channels' readings a and b and the run n of disagreement in GRD_STATUS, and the guard x. -/
structure GuardRead (s u : State) (a b : Bool) (n : Nat) (x : Interlock) : Prop where
  frame : u = { s with eff := u.eff, guard := x }
  regs : KeepsBut [Reg.grdStatus] s u
  status : u.reg Reg.grdStatus = setFld (setFld (setFld (s.reg Reg.grdStatus) 25 1 (b2n a)) 24 1 (b2n !b)) 0 10 n
  others : ∀ r, r ≠ Reg.grdStatus → r ≠ Reg.grdDisagree → r ≠ Reg.grdCntWrap → u.reg r = s.reg r

section
variable (s : State) (a b : Bool)

theorem State.channelsRead_status :
    (s.channelsRead a b).reg Reg.grdStatus = setFld (setFld (s.reg Reg.grdStatus) 25 1 (b2n a)) 24 1 (b2n !b) := by
  rw [State.channelsRead, State.reg_setRegFld_same, State.reg_setRegFld_same]

theorem State.channelsRead_regsOnly : RegsOnly s (s.channelsRead a b) := (RegsOnly.refl.setRegFld _ _ _ _).setRegFld _ _ _ _

theorem State.channelsRead_keepsRegs : KeepsRegs [Reg.grdStatus] s (s.channelsRead a b) :=
  (KeepsRegs.refl.setRegFld _ _ _ (by decide)).setRegFld _ _ _ (by decide)

theorem State.guardDiffers_read : GuardRead s (s.guardDiffers a b) a b (Nat.min (s.guard.run + 1) 1023)
    { s.guard with run := s.guard.run + 1, safeRun := 0, sampled := some s.now } := by
  have hf := s.channelsRead_regsOnly a b
  have hk := s.channelsRead_keepsRegs a b
  have hst := s.channelsRead_status a b
  unfold State.guardDiffers
  generalize s.channelsRead a b = u at *
  have hk' : KeepsRegs [Reg.grdStatus] s (({ u with guard := { s.guard with run := s.guard.run + 1, safeRun := 0, sampled := some s.now } } :
      State).setRegFld Reg.grdStatus 0 10 (Nat.min (s.guard.run + 1) 1023)) :=
    KeepsRegs.setRegFld (t := { u with guard := _ }) hk _ _ _ (by decide)
  refine ⟨?_, .of_keepsRegs hk', ?_, fun r hr _ _ => hk'.of_ne hr⟩
  · rw [hf]
    rfl
  · rw [State.reg_setRegFld_same, ← hst]
    rfl

/-- The channels' readings, with a run of disagreement that they end counted. -/
def State.runEnded (s : State) (a b : Bool) : State :=
  if decide (0 < s.guard.run) && decide (s.guard.run < s.regFld Reg.grdCfg 0 10) then (s.channelsRead a b).bump Reg.grdDisagree 1
  else s.channelsRead a b

theorem State.runEnded_spec : RegsOnly s (s.runEnded a b) ∧ KeepsBut [Reg.grdStatus] s (s.runEnded a b) ∧
    (s.runEnded a b).reg Reg.grdStatus = setFld (setFld (s.reg Reg.grdStatus) 25 1 (b2n a)) 24 1 (b2n !b) ∧
    (∀ r, r ≠ Reg.grdStatus → r ≠ Reg.grdDisagree → r ≠ Reg.grdCntWrap → (s.runEnded a b).reg r = s.reg r) ∧
    (s.runEnded a b).reg Reg.grdDisagree =
      s.reg Reg.grdDisagree + (if 0 < s.guard.run ∧ s.guard.run < s.regFld Reg.grdCfg 0 10 then 1 else 0) := by
  have hf := s.channelsRead_regsOnly a b
  have hk := s.channelsRead_keepsRegs a b
  have hst := s.channelsRead_status a b
  unfold State.runEnded
  generalize s.channelsRead a b = u at *
  by_cases hc : 0 < s.guard.run ∧ s.guard.run < s.regFld Reg.grdCfg 0 10
  · have hb : (decide (0 < s.guard.run) && decide (s.guard.run < s.regFld Reg.grdCfg 0 10)) = true := by simpa using hc
    rw [hb, if_pos rfl, if_pos hc]
    refine ⟨hf.bump _ _, (KeepsBut.of_keepsRegs hk).bump _ wrapReg_grdDisagree, ?_, fun r hs hd hw => ?_, ?_⟩
    · rw [State.reg_bump_of_wrapReg wrapReg_grdDisagree _ _ (by decide) (by decide), hst]
    · rw [State.reg_bump_of_wrapReg wrapReg_grdDisagree _ _ hd hw, hk.of_ne hs]
    · rw [State.reg_bump_same_of_wrapReg wrapReg_grdDisagree _ _ (by decide), hk _ (by decide)]
      rfl
  · have hb : (decide (0 < s.guard.run) && decide (s.guard.run < s.regFld Reg.grdCfg 0 10)) = false := by simpa using hc
    rw [hb, if_neg Bool.false_ne_true, if_neg hc]
    exact ⟨hf, .of_keepsRegs hk, hst, fun r hs _ _ => hk.of_ne hs, (hk _ (by decide)).trans (BitVec.add_zero _).symm⟩

theorem State.guardAgrees_read (x : Interlock) : GuardRead s (s.guardAgrees a b x) a b 0 x ∧
    (s.guardAgrees a b x).reg Reg.grdDisagree =
      s.reg Reg.grdDisagree + (if 0 < s.guard.run ∧ s.guard.run < s.regFld Reg.grdCfg 0 10 then 1 else 0) := by
  obtain ⟨hf, hk, hst, ho, hd⟩ := s.runEnded_spec a b
  have hx : s.guardAgrees a b x = { (s.runEnded a b).setRegFld Reg.grdStatus 0 10 0 with guard := x } := rfl
  rw [hx]
  generalize s.runEnded a b = u at *
  have hk' := hk.setRegFld 0 10 0 (List.mem_singleton.mpr rfl)
  have hother {r : Nat} (hr : r ≠ Reg.grdStatus) : (u.setRegFld Reg.grdStatus 0 10 0).reg r = u.reg r := State.reg_setRegFld_other _ _ _ _ hr
  refine ⟨⟨?_, hk', (u.reg_setRegFld_same _ _ _ _).trans (by rw [hst]), fun r h1 h2 h3 => (hother h1).trans (ho r h1 h2 h3)⟩,
    (hother (by decide)).trans hd⟩
  rw [hf]
  rfl

end

/-- The trip that a sample begins, or that goes on (R371, R397). -/
def TripsFrom (s t : State) : Prop :=
  t.tripped = true ∧ t.reg Reg.grdTrips = s.reg Reg.grdTrips + (if s.tripped then 0 else 1) ∧
    (s.tripped = false → bitAt (t.reg Reg.grdStatus) 31 = true ∧
      (s.stopped = false → t.selfRefresh = true ∧ ∀ k, k < 8 → (t.port k).state = .disabled) ∧
      (s.stopped = true → s.regFld Reg.mgdCutStatus 0 2 = 1 → t.selfRefresh = s.selfRefresh ∧ t.regFld Reg.mgdCutStatus 8 8 = 0))

/-- Neither does a trip begin nor one end. -/
def KeepsTrip (s t : State) : Prop :=
  t.tripped = s.tripped ∧ t.selfRefresh = s.selfRefresh ∧ t.ports = s.ports ∧ t.reg Reg.grdTrips = s.reg Reg.grdTrips

/-- What every sample leaves: the channels' readings, the run n of disagreement, the guard x. -/
structure GuardSampled (s t : State) (a b : Bool) (n : Nat) (x : Interlock) : Prop where
  regs : KeepsBut [Reg.grdStatus, Reg.mgdCutStatus] s t
  mem : t.mem = s.mem
  cores : t.cores = s.cores
  guard : t.guard = x
  chanA : bitAt (t.reg Reg.grdStatus) 25 = a
  chanB : bitAt (t.reg Reg.grdStatus) 24 = !b
  run : t.regFld Reg.grdStatus 0 10 = n

section
variable {s u : State} {a b : Bool} {n : Nat} {x : Interlock} (hu : GuardRead s u a b n x) (hn : n < 1024)
include hu

theorem GuardRead.latch {i : Nat} (hi : 26 ≤ i) : bitAt (u.reg Reg.grdStatus) i = bitAt (s.reg Reg.grdStatus) i := by
  rw [hu.status, bitAt_setFld_other _ (by omega), bitAt_setFld_other _ (by omega), bitAt_setFld_other _ (by omega)]

theorem GuardRead.chanA : bitAt (u.reg Reg.grdStatus) 25 = a := by
  rw [hu.status, bitAt_setFld_other _ (by omega), bitAt_setFld_other _ (by omega), bitAt_setFld_same _ _ (by omega)]

theorem GuardRead.chanB : bitAt (u.reg Reg.grdStatus) 24 = !b := by
  rw [hu.status, bitAt_setFld_other _ (by omega), bitAt_setFld_same _ _ (by omega)]

theorem GuardRead.keepsTrip : KeepsTrip s u := by
  refine ⟨?_, ?_, ?_, hu.others _ (by decide) (by decide) (by decide)⟩
  all_goals rw [hu.frame]

include hn

theorem GuardRead.run : u.regFld Reg.grdStatus 0 10 = n := by
  rw [State.regFld, hu.status, fld_setFld_same _ (by omega) hn]

theorem GuardRead.sampled : GuardSampled s u a b n x where
  regs := hu.regs.mono (by decide)
  mem := by rw [hu.frame]
  cores := by rw [hu.frame]
  guard := by rw [hu.frame]
  chanA := hu.chanA
  chanB := hu.chanB
  run := hu.run hn

/-- The sample's trip, once latch i (29 disagreement, 30 channel A and B not SAFE) is set. -/
theorem GuardRead.begins {i : Nat} (hi : i = 29 ∨ i = 30) {t : State} (ht : TripBegins (u.setRegFld Reg.grdStatus i 1 1) t) :
    GuardSampled s t a b n x ∧ TripsFrom s t ∧ bitAt (t.reg Reg.grdStatus) i = true ∧ t.reg Reg.grdDisagree = u.reg Reg.grdDisagree := by
  have hlow {j : Nat} (hj : j < 31) : bitAt (t.reg Reg.grdStatus) j = bitAt (setFld (u.reg Reg.grdStatus) i 1 1) j := by
    rw [ht.status, State.reg_setRegFld_same]
    split
    · rfl
    · rw [bitAt_setFld_other _ (by omega)]
  have hrun : t.regFld Reg.grdStatus 0 10 = n := by
    rw [State.regFld, ht.status, State.reg_setRegFld_same]
    split
    · rw [fld_setFld_other _ (by omega)]
      exact hu.run hn
    · rw [fld_setFld_other _ (by omega), fld_setFld_other _ (by omega)]
      exact hu.run hn
  have hother {r : Nat} (hr : r ≠ Reg.grdStatus) : (u.setRegFld Reg.grdStatus i 1 1).reg r = u.reg r := State.reg_setRegFld_other _ _ _ _ hr
  have htrip : u.tripped = s.tripped := hu.keepsTrip.1
  have hstop : u.stopped = s.stopped := by rw [hu.frame]
  have hself : u.selfRefresh = s.selfRefresh := hu.keepsTrip.2.1
  have hcut : (u.setRegFld Reg.grdStatus i 1 1).regFld Reg.mgdCutStatus 0 2 = s.regFld Reg.mgdCutStatus 0 2 := by
    rw [State.regFld, hother (by decide), hu.others _ (by decide) (by decide) (by decide), State.regFld]
  refine ⟨⟨?_, ?_, ?_, ?_, ?_, ?_, hrun⟩, ⟨?_, ?_, fun h => ⟨?_, fun hs => ?_, fun hs hc => ?_⟩⟩, ?_, ?_⟩
  · exact ((hu.regs.setRegFld _ _ _ (by decide)).mono (by decide)).trans ht.regs (by decide)
  · rw [ht.frame, hu.frame]
    rfl
  · rw [ht.frame, hu.frame]
    rfl
  · rw [ht.frame, hu.frame]
    rfl
  · rw [hlow (by omega), bitAt_setFld_other _ (by omega)]
    exact hu.chanA
  · rw [hlow (by omega), bitAt_setFld_other _ (by omega)]
    exact hu.chanB
  · rw [ht.frame]
  · rw [ht.trips, hother (by decide), hu.keepsTrip.2.2.2, ← htrip]
    rfl
  · rw [ht.status, if_neg (by show ¬ u.tripped = true; simp [htrip, h])]
    exact bitAt_setFld_one _ (by omega)
  · exact ht.ports (htrip.trans h) (hstop.trans hs)
  · obtain ⟨h1, h2⟩ := ht.cut (htrip.trans h) (hstop.trans hs) (hcut.trans hc)
    exact ⟨h1.trans hself, h2⟩
  · rw [hlow (by omega), bitAt_setFld_one _ (by omega)]
  · exact ht.disagree.trans (hother (by decide))

/-- The trip that ends by itself. -/
theorem GuardRead.ends {t : State} (ht : TripEnds u t) (htr : u.tripped = true) :
    GuardSampled s t a b n x ∧ t.tripped = false ∧ t.selfRefresh = false ∧ t.regFld Reg.grdStatus 29 3 = 0 ∧
      t.reg Reg.grdDisagree = u.reg Reg.grdDisagree := by
  refine ⟨⟨?_, ?_, ?_, ?_, ?_, ?_, ?_⟩, ?_, (ht.links htr).1, ?_, ht.regs _ (by decide)⟩
  · exact (hu.regs.mono (by decide)).trans (.of_keepsRegs ht.regs) (by decide)
  · rw [ht.frame, hu.frame]
  · rw [ht.frame, hu.frame]
  · rw [ht.frame, hu.frame]
  · rw [ht.status, bitAt_setFld_other _ (by omega), hu.chanA]
  · rw [ht.status, bitAt_setFld_other _ (by omega), hu.chanB]
  · rw [State.regFld, ht.status, fld_setFld_other _ (by omega)]
    exact hu.run hn
  · rw [ht.frame]
  · rw [State.regFld, ht.status, fld_setFld_same _ (by omega) (by omega)]

end

section
variable {s : State} {a b : Bool} (hp : s.powered) (he : ¬ s.guardEarly)
include hp he

/-- The channels disagree: a run that has lasted DISC samples latches, and trips (R396, R397). -/
theorem guardSample_differs (h : a = b) :
    ∃ t, exec (.guardSample a b) s = .next t ∧
      GuardSampled s t a b (Nat.min (s.guard.run + 1) 1023)
        { s.guard with run := s.guard.run + 1, safeRun := 0, sampled := some s.now } ∧
      (s.regFld Reg.grdCfg 0 10 ≤ s.guard.run + 1 → bitAt (s.reg Reg.grdStatus) 29 = false →
        bitAt (t.reg Reg.grdStatus) 29 = true ∧ TripsFrom s t) ∧
      (s.guard.run + 1 < s.regFld Reg.grdCfg 0 10 ∨ bitAt (s.reg Reg.grdStatus) 29 = true → KeepsTrip s t) := by
  have hne : (a != !b) = true := by
    subst h
    cases a <;> rfl
  have hx := exec_guardSample_taken (a := a) (b := b) hp he
  have hu := s.guardDiffers_read a b
  have hn : Nat.min (s.guard.run + 1) 1023 < 1024 := Nat.lt_succ_of_le (Nat.min_le_right _ _)
  rw [if_pos hne, hu.latch (by decide)] at hx
  generalize s.guardDiffers a b = u at hx hu
  by_cases hl : s.regFld Reg.grdCfg 0 10 ≤ s.guard.run + 1 ∧ bitAt (s.reg Reg.grdStatus) 29 = false
  · rw [if_pos (by simpa using hl)] at hx
    obtain ⟨hs, ht, hb, -⟩ := hu.begins hn (.inl rfl) (State.beginTrip_tripBegins _)
    refine ⟨_, hx, hs, fun _ _ => ⟨hb, ht⟩, fun h => ?_⟩
    rcases h with h | h
    · exact absurd hl.1 (Nat.not_le.mpr h)
    · exact absurd (hl.2.symm.trans h) (by decide)
  · rw [if_neg (by simpa using hl)] at hx
    exact ⟨u, hx, hu.sampled hn, fun h1 h2 => absurd ⟨h1, h2⟩ hl, fun _ => hu.keepsTrip⟩

/-- Both channels are SAFE: after 1,000 such samples a trip ends by itself, where AUTO allows it and no disagreement is latched (R398). -/
theorem guardSample_safe :
    ∃ t, exec (.guardSample true false) s = .next t ∧ GuardSampled s t true false 0 s.guardSafe ∧
      t.reg Reg.grdDisagree = s.reg Reg.grdDisagree + (if 0 < s.guard.run ∧ s.guard.run < s.regFld Reg.grdCfg 0 10 then 1 else 0) ∧
      (let auto := 999 ≤ s.guard.safeRun ∧ s.tripped = true ∧ bitAt (s.reg Reg.grdCfg) 16 = true ∧
          bitAt (s.reg Reg.grdStatus) 30 = true ∧ bitAt (s.reg Reg.grdStatus) 29 = false;
        (auto → t.tripped = false ∧ t.selfRefresh = false ∧ t.regFld Reg.grdStatus 29 3 = 0) ∧ (¬ auto → KeepsTrip s t)) := by
  have hx := exec_guardSample_taken (a := true) (b := false) hp he
  obtain ⟨hu, hd⟩ := s.guardAgrees_read true false s.guardSafe
  rw [if_neg (by decide), if_pos rfl] at hx
  generalize s.guardAgrees true false s.guardSafe = u at hx hu hd
  have hauto : u.endsAlone = true ↔ 999 ≤ s.guard.safeRun ∧ s.tripped = true ∧ bitAt (s.reg Reg.grdCfg) 16 = true ∧
      bitAt (s.reg Reg.grdStatus) 30 = true ∧ bitAt (s.reg Reg.grdStatus) 29 = false := by
    have hready : u.clearReady = decide (999 ≤ s.guard.safeRun) := by
      have hg : u.guard = s.guardSafe := by rw [hu.frame]
      unfold State.clearReady
      rw [hg]
      exact decide_eq_decide.mpr (by unfold State.guardSafe; simp only [Nat.min_def]; split <;> omega)
    unfold State.endsAlone
    rw [hready, hu.keepsTrip.1, hu.others Reg.grdCfg (by decide) (by decide) (by decide), hu.latch (by decide), hu.latch (by decide)]
    simp [and_assoc]
  by_cases ha : u.endsAlone = true
  · rw [if_pos ha] at hx
    obtain ⟨hs, ht, hr, h0, hd'⟩ := hu.ends (by decide) u.endTrip_tripEnds (hu.keepsTrip.1.trans (hauto.mp ha).2.1)
    exact ⟨_, hx, hs, hd'.trans hd, fun _ => ⟨ht, hr, h0⟩, fun h => absurd (hauto.mp ha) h⟩
  · rw [if_neg ha] at hx
    exact ⟨u, hx, hu.sampled (by decide), hd, fun h => absurd (hauto.mpr h) ha, fun _ => hu.keepsTrip⟩

/-- Neither channel is SAFE: the trip begins (R397). -/
theorem guardSample_unsafe :
    ∃ t, exec (.guardSample false true) s = .next t ∧ GuardSampled s t false true 0 s.guardUnsafe ∧
      t.reg Reg.grdDisagree = s.reg Reg.grdDisagree + (if 0 < s.guard.run ∧ s.guard.run < s.regFld Reg.grdCfg 0 10 then 1 else 0) ∧
      bitAt (t.reg Reg.grdStatus) 30 = true ∧ TripsFrom s t := by
  have hx := exec_guardSample_taken (a := false) (b := true) hp he
  obtain ⟨hu, hd⟩ := s.guardAgrees_read false true s.guardUnsafe
  rw [if_neg (by decide), if_neg (by decide)] at hx
  generalize s.guardAgrees false true s.guardUnsafe = u at hx hu hd
  obtain ⟨hs, ht, hb, hd'⟩ := hu.begins (by decide) (.inr rfl) (State.beginTrip_tripBegins _)
  exact ⟨_, hx, hs, hd'.trans hd, hb, ht⟩

end

/-! ### GRD_CLEAR (R398) -/

section
variable {s : State} {v : BitVec 32}

theorem exec_guardClear_ignored (h : s.stopped = true ∨ s.start.stage = 0 ∨ v.getLsbD 0 = false) :
    exec (.guardClear v) s = .next s := by
  show execGuardClear v s = _
  unfold execGuardClear State.guardWrite
  rcases h with h | h | h
  · rw [h]
    rfl
  · rw [h]
    exact if_pos (by simp)
  · have hb : v.toNat.testBit 0 = false := (BitVec.testBit_toNat v).trans h
    rw [hb]
    exact ite_self _

theorem exec_guardClear (hs : s.stopped = false) (h1 : 1 ≤ s.start.stage) (hv : v.getLsbD 0 = true) :
    exec (.guardClear v) s = .next (if s.clearReady = true then s.endTrip else s.bumpSat Reg.grdClear 16 16 1) := by
  have hb : v.toNat.testBit 0 = true := (BitVec.testBit_toNat v).trans hv
  show execGuardClear v s = _
  unfold execGuardClear State.guardWrite
  rw [hs, Bool.false_or, decide_eq_false (Nat.not_lt.mpr h1), hb]
  rfl

/-- A write before CLEAR_READY counts in REFUSED (R398). -/
theorem guardClear_refused (hs : s.stopped = false) (h1 : 1 ≤ s.start.stage) (hv : v.getLsbD 0 = true) (hr : s.guard.safeRun < 1000) :
    ∃ t, exec (.guardClear v) s = .next t ∧ RegsOnly s t ∧ KeepsBut [Reg.grdClear] s t ∧
      t.regFld Reg.grdClear 16 16 = Nat.min 65535 (s.regFld Reg.grdClear 16 16 + 1) := by
  have hx := exec_guardClear hs h1 hv
  rw [if_neg (by simpa [State.clearReady] using hr)] at hx
  refine ⟨_, hx, RegsOnly.refl.setRegFld _ _ _ _, KeepsBut.refl.setRegFld _ _ _ (by decide), ?_⟩
  have hlt : satNat 16 (s.regFld Reg.grdClear 16 16 + 1) < 2 ^ 16 := Nat.lt_of_le_of_lt (Nat.min_le_right _ _) (by decide)
  exact (State.regFld_setRegFld_same _ _ (by decide) hlt).trans (Nat.min_comm _ _)

/-- A write once CLEAR_READY is 1 ends the trip (R398). -/
theorem guardClear_ends (hs : s.stopped = false) (h1 : 1 ≤ s.start.stage) (hv : v.getLsbD 0 = true) (hr : 1000 ≤ s.guard.safeRun) :
    exec (.guardClear v) s = .next s.endTrip := by
  rw [exec_guardClear hs h1 hv, State.clearReady, if_pos (decide_eq_true hr)]

end

/-- Settles O51: each command of the holdup store, of the loss of power and of the coolant guard by its own rule. -/
theorem powerLossAndGuard : Obligations.PowerLossAndGuard := by
  intro cj good bifurc a b sel v s
  refine ⟨holdupMeasure_spec s cj, powerLoss_ignored, powerLoss_spec, fun h => if_pos (by simp [h]), powerDown_spec good bifurc sel,
    ⟨exec_guardSample_ignored, fun hp he => ?_⟩, exec_guardClear_ignored, fun hs h1 hv => ⟨guardClear_refused hs h1 hv, fun hr => ?_⟩⟩
  · by_cases h : a = b
    · obtain ⟨t, hx, hg, htrips, hstays⟩ := guardSample_differs hp he h
      exact ⟨t, hx, hg.regs, hg.mem, hg.cores, by rw [hg.guard], hg.chanA, hg.chanB,
        fun _ => ⟨by rw [hg.guard], by rw [hg.guard], by rw [hg.guard], hg.run, htrips, hstays⟩, fun hne => absurd h hne⟩
    · obtain rfl : b = !a := by cases a <;> cases b <;> simp_all
      cases a with
      | true =>
        obtain ⟨t, hx, hg, hd, hauto⟩ := guardSample_safe hp he
        exact ⟨t, hx, hg.regs, hg.mem, hg.cores, by rw [hg.guard]; rfl, hg.chanA, hg.chanB, fun hab => absurd hab h,
          fun _ => ⟨by rw [hg.guard]; rfl, by rw [hg.guard]; rfl, hg.run, hd, fun _ => ⟨by rw [hg.guard]; rfl, hauto⟩,
            fun hf => absurd hf (by decide)⟩⟩
      | false =>
        obtain ⟨t, hx, hg, hd, hb, ht⟩ := guardSample_unsafe hp he
        exact ⟨t, hx, hg.regs, hg.mem, hg.cores, by rw [hg.guard]; rfl, hg.chanA, hg.chanB, fun hab => absurd hab h,
          fun _ => ⟨by rw [hg.guard]; rfl, by rw [hg.guard]; rfl, hg.run, hd, fun hf => absurd hf (by decide),
            fun _ => ⟨by rw [hg.guard]; rfl, hb, ht⟩⟩⟩
  · have ht := s.endTrip_tripEnds
    refine ⟨_, guardClear_ends hs h1 hv hr, ?_, ?_, KeepsBut.of_keepsRegs (ht.running hs), ?_, ?_, ht.links, ht.idle⟩
    · rw [ht.frame]
    · rw [State.regFld, ht.status, fld_setFld_same _ (by omega) (by omega)]
    · rw [ht.frame]
    · rw [ht.frame]

end Sys2Proof.Machine
end

section
/-!
SUPPORT. The power loop (R19, R389, R390, R443): its target, offsets and cycles, and what a loop over dies or cores leaves.
-/

namespace Sys2Proof.Machine

/-! ### Loops that write each place once -/

/-- A loop over a list without repetition, whose pass of p takes P of p to Q of p and disturbs neither at another place. -/
theorem foldl_once {σ : Type} {g : σ → Nat → σ} {P Q : Nat → σ → Prop} {l : List Nat} (hl : l.Nodup)
    (hdo : ∀ t, ∀ p ∈ l, P p t → Q p (g t p)) (hP : ∀ t, ∀ p ∈ l, ∀ j ∈ l, j ≠ p → P j t → P j (g t p))
    (hQ : ∀ t, ∀ p ∈ l, ∀ j ∈ l, j ≠ p → Q j t → Q j (g t p)) {s : σ} (hs : ∀ k ∈ l, P k s) : ∀ k ∈ l, Q k (l.foldl g s) := by
  induction l generalizing s with
  | nil => simp
  | cons p l ih =>
    obtain ⟨hp, hl⟩ := List.nodup_cons.mp hl
    have hin {j : Nat} (hj : j ∈ l) : j ∈ p :: l := List.mem_cons_of_mem _ hj
    have hne {j : Nat} (hj : j ∈ l) : j ≠ p := ne_of_mem_of_not_mem hj hp
    intro k hk
    rcases List.mem_cons.mp hk with rfl | hk
    · exact List.foldlRecOn (motive := fun t => Q k t) l g (hdo s k List.mem_cons_self (hs k List.mem_cons_self))
        fun t ht p hp => hQ t p (hin hp) k List.mem_cons_self (hne hp).symm ht
    · exact ih hl (fun t p hp => hdo t p (hin hp)) (fun t p hp j hj => hP t p (hin hp) j (hin hj))
        (fun t p hp j hj => hQ t p (hin hp) j (hin hj)) (fun j hj => hP s p List.mem_cons_self j (hin hj) (hne hj) (hs j (hin hj))) k hk

/-! ### The supply target (R19, R381, R389) -/

/-- The bounds of the supply target v that the loop sets at w watts. -/
structure TargetBounds (s : State) (w v : Nat) : Prop where
  most : v ≤ s.regFld Reg.pwrLimit 16 10
  stage1 : s.start.stage = 2 → v ≤ 700
  least : s.regFld Reg.pwrStatus 22 10 = 0 ∨ 600 ≤ s.regFld Reg.pwrStatus 22 10 → 600 ≤ v
  fall : s.regFld Reg.pwrStatus 22 10 ≠ 0 →
    s.regFld Reg.pwrStatus 22 10 - 50 ≤ v ∨ v = s.regFld Reg.pwrLimit 16 10 ∨ s.start.stage = 2
  rise : s.regFld Reg.pwrStatus 22 10 ≠ 0 → v ≤ s.regFld Reg.pwrStatus 22 10 + 50
  capped : s.regFld Reg.pwrStatus 22 10 ≠ 0 → s.capWatts < w → v ≤ s.regFld Reg.pwrStatus 22 10
  uncapped : w < s.capWatts → s.start.stage ≠ 2 → 720 ≤ s.regFld Reg.pwrLimit 16 10 →
    s.regFld Reg.pwrStatus 22 10 = 0 ∨ 720 ≤ s.regFld Reg.pwrStatus 22 10 → 720 ≤ v

theorem State.targetFor_bounds (s : State) (want w : Nat) (hv : 600 ≤ s.regFld Reg.pwrLimit 16 10) :
    TargetBounds s w (s.targetFor want w) := by
  unfold State.targetFor
  extract_lets old vmax hi lo a b
  have hold : s.regFld Reg.pwrStatus 22 10 = old := rfl
  have hmax : s.regFld Reg.pwrLimit 16 10 = vmax := rfl
  have hhi : 600 ≤ hi ∧ hi ≤ vmax ∧ (s.start.stage = 2 → hi ≤ 700) ∧ (s.start.stage ≠ 2 → hi = vmax) := by
    unfold hi
    split
    · next h => exact ⟨Nat.le_min.mpr ⟨hv, by decide⟩, Nat.min_le_left _ _, fun _ => Nat.min_le_right _ _, fun hn => absurd h hn⟩
    · next h => exact ⟨hv, Nat.le_refl _, fun hs => absurd hs h, fun _ => rfl⟩
  have hlo : 600 ≤ lo ∧ lo ≤ hi ∧ (w < s.capWatts → s.start.stage ≠ 2 → 720 ≤ hi → 720 ≤ lo) := by
    unfold lo
    split
    · next h =>
      have h : s.capWatts ≤ w ∨ s.start.stage = 2 := by simpa using h
      omega
    · exact ⟨Nat.le_min.mpr ⟨by decide, hhi.1⟩, Nat.min_le_right _ _, fun _ _ h => Nat.le_min.mpr ⟨Nat.le_refl _, h⟩⟩
  have ha : lo ≤ a ∧ a ≤ hi := ⟨Nat.le_min.mpr ⟨hlo.2.1, Nat.le_max_left _ _⟩, Nat.min_le_left _ _⟩
  have hb : (old = 0 → b = a) ∧ (old ≠ 0 → b = max (old - 50) (min (old + 50) a)) := by
    unfold b
    split
    · next h => exact ⟨fun _ => rfl, fun hn => absurd h hn⟩
    · next h => exact ⟨fun h0 => absurd h0 h, fun _ => rfl⟩
  have hbs : old ≠ 0 → old - 50 ≤ b ∧ b ≤ old + 50 := by omega
  have hbk {k : Nat} (hk : k ≤ a) (ho : old = 0 ∨ k ≤ old) : k ≤ b := by omega
  generalize hc : (if (decide (s.capWatts < w) && decide (old ≠ 0)) = true then Nat.min old b else b) = c
  have hcb : (s.capWatts < w ∧ old ≠ 0 ∧ c = min old b) ∨ (¬ (s.capWatts < w ∧ old ≠ 0) ∧ c = b) := by
    rw [← hc]
    split
    · next h => exact .inl (by simpa [and_assoc] using h)
    · next h => exact .inr ⟨by simpa using h, rfl⟩
  have hmin : Nat.min hi c = min hi c := rfl
  rw [hmin]
  clear_value b a lo hi vmax old
  clear hb hc
  exact
    { most := by omega
      stage1 := by omega
      least := fun h => by
        have := hbk (k := 600) (by omega) (hold ▸ h)
        omega
      fall := by omega
      rise := by omega
      capped := by omega
      uncapped := fun hw hs hm h => by
        have := hbk (k := 720) (by omega) (hold ▸ h)
        omega }

/-- A die's thermal offset (R19, R390). -/
theorem State.offsetFor_eq (s : State) (d v tj w : Nat) :
    s.offsetFor d v tj w =
      Nat.min (v - if 100 ≤ tj ∨ s.capWatts ≤ w ∨ s.start.stage = 2 then 600
          else if s.regFld (Reg.hubOppoint d) 20 12 = 0 then 720 else Nat.min 720 (s.regFld (Reg.hubOppoint d) 20 12))
        (if 100 < tj ∨ (tj = 100 ∧ SMap.get 0 s.power.offsets d = 0) then SMap.get 0 s.power.offsets d + 5
          else if tj ≤ 98 then SMap.get 0 s.power.offsets d - 5 else SMap.get 0 s.power.offsets d) := by
  unfold State.offsetFor nextOffset
  simp only [Bool.or_eq_true, decide_eq_true_eq, or_assoc]

theorem reading_lt {n : Nat} (xs : List (BitVec n)) (i : Nat) : reading xs i < 2 ^ n := BitVec.isLt _

/-- What R443 and Table 1.3 ask of a cycle of c ps at v mV and tj °C. -/
def CycleFits (v tj c : Nat) : Prop :=
  0 < c ∧ (720 ≤ v → tj ≤ 95 → c ≤ 820) ∧ (v = 880 → tj = 40 → c = 580) ∧ (v = 800 → tj = 60 → c = 680) ∧ (v = 720 → tj = 95 → c = 820)

theorem cycleFits_of_allowed {v tj c : Nat} (h : cycleAllowed v tj c = true) : CycleFits v tj c := by
  simp only [cycleAllowed, Bool.and_eq_true] at h
  obtain ⟨⟨⟨hpos, hmost⟩, hpoints⟩, -⟩ := h
  simp only [referencePoints, List.all_cons, List.all_nil, Bool.and_true, Bool.and_eq_true] at hpoints
  obtain ⟨h880, h800, h720⟩ := hpoints
  refine ⟨of_decide_eq_true hpos, fun hv ht => ?_, fun hv ht => ?_, fun hv ht => ?_, fun hv ht => ?_⟩
  · simp only [Bool.or_eq_true, decide_eq_true_eq] at hmost
    omega
  · simpa [hv, ht] using h880
  · simpa [hv, ht] using h800
  · simpa [hv, ht] using h720

/-- The cycles of an accepted sample (R443). -/
theorem State.cycleFits_of_sampleOk {s : State} {x : PowerSample} (h : s.sampleOk x = true) {d : Nat} (hd : d < 4)
    (hup : bitAt (s.reg Reg.hubDieStatus) (8 * d + 7) = true) :
    CycleFits (s.dieSupply x d (s.targetFor x.target.toNat x.watts.toNat)) (reading x.tj d) (reading x.cycle d) := by
  have hall := List.all_eq_true.mp h d (List.mem_range.mpr hd)
  dsimp only at hall
  rw [hup, Bool.not_true, Bool.false_or, Bool.and_eq_true] at hall
  exact cycleFits_of_allowed hall.1

/-! ### The loop's tables -/

/-- The junctions at 110 °C or above after a sample, with the time since which each is (R390). -/
def State.hotAfter (s : State) (x : PowerSample) : SMap Word :=
  (List.range 5).foldl (fun m d =>
    if 110 ≤ reading x.tj d then (if (SMap.find m d).isSome then m else SMap.insert m d s.now) else SMap.erase m d) s.power.hot

theorem State.find_hotAfter (s : State) (x : PowerSample) {d : Nat} (hd : d < 5) :
    SMap.find (s.hotAfter x) d = if 110 ≤ reading x.tj d then some ((SMap.find s.power.hot d).getD s.now) else none := by
  refine foldl_once (P := fun d m => SMap.find m d = SMap.find s.power.hot d)
    (Q := fun d m => SMap.find m d = if 110 ≤ reading x.tj d then some ((SMap.find s.power.hot d).getD s.now) else none)
    List.nodup_range (fun m p _ hm => ?_) (fun m p _ j _ hj hm => ?_) (fun m p _ j _ hj hm => ?_) (fun k _ => rfl) d (List.mem_range.mpr hd)
  · rw [hm]
    by_cases h : 110 ≤ reading x.tj p
    · rw [if_pos h, if_pos h]
      cases hf : SMap.find s.power.hot p with
      | none => simp [SMap.find_insert_same]
      | some a => simp [hm, hf]
    · rw [if_neg h, if_neg h, SMap.find_erase, if_pos rfl]
  all_goals
    rw [← hm]
    split
    · split
      · rfl
      · rw [SMap.find_insert_other _ _ hj]
    · rw [SMap.find_erase, if_neg hj]

/-- The dies' thermal offsets after a sample that sets target v. -/
def State.offsetsAfter (s : State) (x : PowerSample) (v : Nat) : SMap Nat :=
  (List.range 4).foldl (fun m d => SMap.set 0 m d (s.offsetFor d v (reading x.tj d) x.watts.toNat))
    (SMap.set 0 s.power.offsets 4 (s.hubOffset (s.hubTarget x.hub.toNat) (reading x.tj 4)))

theorem State.get_offsetsAfter (s : State) (x : PowerSample) (v : Nat) {d : Nat} (hd : d < 4) :
    SMap.get 0 (s.offsetsAfter x v) d = s.offsetFor d v (reading x.tj d) x.watts.toNat :=
  foldl_each (Q := fun d m => SMap.get 0 m d = s.offsetFor d v (reading x.tj d) x.watts.toNat)
    (fun _ _ => SMap.get_set_same _ _ _ _) (fun _ _ _ hj h => (SMap.get_set_other _ _ _ hj).trans h) _ _ d (.inl (List.mem_range.mpr hd))

/-- The hottest junction of a sample. -/
def hottest (x : PowerSample) : Nat := (List.range 5).foldl (fun m d => Nat.max m (reading x.tj d)) 0

theorem le_hottest (x : PowerSample) {d : Nat} (hd : d < 5) : reading x.tj d ≤ hottest x :=
  foldl_each (Q := fun d m => reading x.tj d ≤ m) (fun _ _ => Nat.le_max_right _ _)
    (fun _ _ _ _ h => Nat.le_trans h (Nat.le_max_left _ _)) _ _ d (.inl (List.mem_range.mpr hd))

theorem hottest_lt (x : PowerSample) : hottest x < 2 ^ 8 :=
  List.foldlRecOn (motive := fun m => m < 2 ^ 8) _ _ (by decide) fun _ hm _ _ => Nat.max_lt.mpr ⟨hm, reading_lt _ _⟩

end Sys2Proof.Machine
end

section
/-!
PROOFS. The power loop, hot junctions and the coolant (O50).
-/

namespace Sys2Proof.Machine

/-! ### A sample of the power loop (R389, R390, R415) -/

/-- HUB_OPPOINT of a die at mv mV and tj °C with a cycle of c ps. -/
def oppointWord (mv tj c : Nat) : Word := BitVec.ofNat 64 (mv * 2 ^ 20 + tj * 2 ^ 12 + c)

theorem fld_oppointWord {mv tj c : Nat} (hmv : mv < 2 ^ 12) (htj : tj < 2 ^ 8) (hc : c < 2 ^ 12) :
    fld (oppointWord mv tj c) 20 12 = mv ∧ fld (oppointWord mv tj c) 12 8 = tj ∧ fld (oppointWord mv tj c) 0 12 = c := by
  have hn : (oppointWord mv tj c).toNat = mv * 2 ^ 20 + tj * 2 ^ 12 + c := (BitVec.toNat_ofNat _ _).trans (Nat.mod_eq_of_lt (by omega))
  unfold fld bitsOf
  rw [hn]
  simp only [Nat.shiftRight_eq_div_pow]
  omega

/-- PWR_STATUS after a sample that sets target v. -/
def State.powerShown (s : State) (x : PowerSample) (v : Nat) : State :=
  ((s.setRegFld Reg.pwrStatus 53 11 x.watts.toNat).setRegFld Reg.pwrStatus 32 16 x.mv.toNat).setRegFld Reg.pwrStatus 22 10 v

/-- Die d's operating point and peak junction (R389, R415) after a sample of s that sets target v, written in u. -/
def State.dieSampled (s : State) (x : PowerSample) (v : Nat) (u : State) (d : Nat) : State :=
  let up := bitAt (u.reg Reg.hubDieStatus) (8 * d + 7)
  let cyc := if up then reading x.cycle d else 0
  let u := u.setReg (Reg.hubOppoint d) (BitVec.ofNat 64 (s.dieSupply x d v * 2 ^ 20 + reading x.tj d * 2 ^ 12 + cyc))
  u.setRegFld Reg.dbgTjPeak (8 * d) 8 (Nat.max (u.regFld Reg.dbgTjPeak (8 * d) 8) (reading x.tj d))

/-- Control core n stops or goes on in a turn of k cores from core t on (R389). -/
def turnCore (t k : Nat) (u : State) (n : Nat) : State :=
  let c := u.core (BitVec.ofNat 6 n)
  u.setCore (BitVec.ofNat 6 n) { c with stopPower := inTurn t k n }

/-- How many control cores a sample stops: at the lowest setting, while the cap is exceeded, at least one (R389). -/
def State.stopsAt (s : State) (x : PowerSample) (v : Nat) : Nat := if v = 600 ∧ s.capWatts < x.watts.toNat then Nat.max 1 x.stops.toNat else 0

/-- The registers after a sample that sets target v. -/
def State.powerRegs (s : State) (x : PowerSample) (v : Nat) : State :=
  ((List.range 4).foldl (s.dieSampled x v) (s.powerShown x v)).setRegFld Reg.pwrCoolant 8 8 (hottest x)

/-- The module after a sample. -/
def State.powerSampled (s : State) (x : PowerSample) : State :=
  let v := s.targetFor x.target.toNat x.watts.toNat
  let k := s.stopsAt x v
  let t := (List.range 64).foldl (turnCore s.power.turn k) (s.powerRegs x v)
  { t with power := { t.power with
      offsets := s.offsetsAfter x v, hot := s.hotAfter x, sampled := s.now, hub := s.hubTarget x.hub.toNat, turn := (s.power.turn + k) % 48 } }

section
variable {s : State} {x : PowerSample} (hwf : (Instr.powerLoopSample x).wf = true)
include hwf

theorem exec_powerLoopSample_early (h : (s.now - s.power.sampled).toNat < 100000) : exec (.powerLoopSample x) s = .next s :=
  (if_neg (by rw [hwf]; decide)).trans (if_pos (by rw [decide_eq_true h, Bool.or_true]))

theorem exec_powerLoopSample_due (ho : s.start.off = false) (h : 100000 ≤ (s.now - s.power.sampled).toNat) :
    exec (.powerLoopSample x) s = if (!(s.sampleOk x)) = true then .fault .illFormed else .next (s.powerSampled x) := by
  have hrun : ¬ (s.start.off || decide ((s.now - s.power.sampled).toNat < 100000)) = true := by
    rw [ho, decide_eq_false (Nat.not_lt.mpr h)]
    decide
  show execPowerLoopSample x s = _
  unfold execPowerLoopSample
  rw [hwf, if_neg (by decide), if_neg hrun]
  rfl

end

/-! The registers of one die. -/

theorem dbgTjPeak_ne_hubOppoint {d : Nat} (h : d < 4) : Reg.dbgTjPeak ≠ Reg.hubOppoint d := by
  unfold Reg.dbgTjPeak Reg.hubOppoint
  omega

/-- The registers of die d once v is the target: its operating point (R389) and the highest junction since the start (R415). -/
def DieShown (s : State) (x : PowerSample) (v d : Nat) (t : State) : Prop :=
  t.reg (Reg.hubOppoint d) = oppointWord (s.dieSupply x d v) (reading x.tj d)
      (if bitAt (s.reg Reg.hubDieStatus) (8 * d + 7) = true then reading x.cycle d else 0) ∧
    t.regFld Reg.dbgTjPeak (8 * d) 8 = Nat.max (s.regFld Reg.dbgTjPeak (8 * d) 8) (reading x.tj d)

section
variable (s : State) (x : PowerSample) (v : Nat) (u : State) {d : Nat}

theorem State.dieSampled_regsOnly (h : RegsOnly s u) : RegsOnly s (s.dieSampled x v u d) := (h.setReg _ _).setRegFld _ _ _ _

theorem State.reg_dieSampled_other {a : Nat} (ha : a ≠ Reg.hubOppoint d) (hp : a ≠ Reg.dbgTjPeak) :
    (s.dieSampled x v u d).reg a = u.reg a :=
  (State.reg_setRegFld_other _ _ _ _ hp).trans (State.reg_setReg_other _ _ ha)

theorem State.dieShown_dieSampled (hd : d < 4) (hup : u.reg Reg.hubDieStatus = s.reg Reg.hubDieStatus)
    (hpk : u.regFld Reg.dbgTjPeak (8 * d) 8 = s.regFld Reg.dbgTjPeak (8 * d) 8) : DieShown s x v d (s.dieSampled x v u d) := by
  have hne := dbgTjPeak_ne_hubOppoint hd
  unfold State.dieSampled
  extract_lets up cyc t
  have hcyc : cyc = if bitAt (s.reg Reg.hubDieStatus) (8 * d + 7) = true then reading x.cycle d else 0 := by rw [← hup]
  have hold : t.regFld Reg.dbgTjPeak (8 * d) 8 = s.regFld Reg.dbgTjPeak (8 * d) 8 :=
    (congrArg (fld · (8 * d) 8) (State.reg_setReg_other _ _ hne)).trans hpk
  have hop : t.reg (Reg.hubOppoint d) = oppointWord (s.dieSupply x d v) (reading x.tj d) cyc := State.reg_setReg_same _ _ _
  have hmax : Nat.max (s.regFld Reg.dbgTjPeak (8 * d) 8) (reading x.tj d) < 2 ^ 8 := Nat.max_lt.mpr ⟨fld_lt _ _ _, reading_lt _ _⟩
  clear_value t cyc
  refine ⟨?_, ?_⟩
  · rw [State.reg_setRegFld_other _ _ _ _ hne.symm, hop, hcyc]
  · rw [hold, State.regFld_setRegFld_same _ _ (by omega) hmax]

theorem State.peak_dieSampled_other (hd : d < 4) {j : Nat} (hj : j ≠ d) :
    (s.dieSampled x v u d).regFld Reg.dbgTjPeak (8 * j) 8 = u.regFld Reg.dbgTjPeak (8 * j) 8 :=
  (State.regFld_setRegFld_otherFld _ _ (by omega)).trans
    (congrArg (fld · (8 * j) 8) (State.reg_setReg_other _ _ (dbgTjPeak_ne_hubOppoint hd)))

theorem DieShown.dieSampled_other {s u : State} {j : Nat} (h : DieShown s x v j u) (hd : d < 4) (hj : j < 4) (hne : j ≠ d) :
    DieShown s x v j (s.dieSampled x v u d) := by
  have hop : Reg.hubOppoint j ≠ Reg.hubOppoint d := by
    unfold Reg.hubOppoint
    omega
  exact ⟨(State.reg_dieSampled_other _ _ _ _ hop (dbgTjPeak_ne_hubOppoint hj).symm).trans h.1,
    (State.peak_dieSampled_other _ _ _ _ hd hne).trans h.2⟩

/-- After the loop over the dies each one's registers are shown. -/
theorem State.dieShown_foldl (hup : u.reg Reg.hubDieStatus = s.reg Reg.hubDieStatus) (hpk : u.reg Reg.dbgTjPeak = s.reg Reg.dbgTjPeak) :
    ∀ d, d < 4 → DieShown s x v d ((List.range 4).foldl (s.dieSampled x v) u) := by
  have hlt {d : Nat} (hd : d ∈ List.range 4) : d < 4 := List.mem_range.mp hd
  have hst (t : State) {d : Nat} (hd : d < 4) : (s.dieSampled x v t d).reg Reg.hubDieStatus = t.reg Reg.hubDieStatus := by
    refine State.reg_dieSampled_other _ _ _ _ ?_ (by decide)
    unfold Reg.hubDieStatus Reg.hubOppoint
    omega
  have h := foldl_once (g := s.dieSampled x v) (Q := DieShown s x v)
    (P := fun d t => t.reg Reg.hubDieStatus = s.reg Reg.hubDieStatus ∧ t.regFld Reg.dbgTjPeak (8 * d) 8 = s.regFld Reg.dbgTjPeak (8 * d) 8)
    List.nodup_range (fun t p hp h => s.dieShown_dieSampled x v t (hlt hp) h.1 h.2)
    (fun t p hp j _ hne h => ⟨(hst t (hlt hp)).trans h.1, (s.peak_dieSampled_other x v t (hlt hp) hne).trans h.2⟩)
    (fun t p hp j hj hne h => h.dieSampled_other x v (hlt hp) (hlt hj) hne) (s := u)
    fun k _ => ⟨hup, congrArg (fld · (8 * k) 8) hpk⟩
  exact fun d hd => h d (List.mem_range.mpr hd)

/-- The registers that a sample writes. -/
def powerRegList : List Nat := [Reg.pwrStatus, Reg.pwrCoolant, Reg.dbgTjPeak] ++ (List.range 4).map Reg.hubOppoint

theorem State.dieSampled_keeps (hd : d < 4) (h : KeepsRegs powerRegList s u) : KeepsRegs powerRegList s (s.dieSampled x v u d) :=
  (h.setReg _ (List.mem_append_right _ (List.mem_map.mpr ⟨d, List.mem_range.mpr hd, rfl⟩))).setRegFld _ _ _ (by decide)

end

/-! All registers. -/

/-- What the registers hold after a sample that sets target v. -/
structure PowerShown (s : State) (x : PowerSample) (v : Nat) (t : State) : Prop where
  keeps : KeepsRegs powerRegList s t
  watts : t.regFld Reg.pwrStatus 53 11 = x.watts.toNat
  supply : t.regFld Reg.pwrStatus 32 16 = x.mv.toNat
  target : t.regFld Reg.pwrStatus 22 10 = v
  dies : ∀ d, d < 4 → DieShown s x v d t
  junction : t.regFld Reg.pwrCoolant 8 8 = hottest x

theorem PowerShown.congr {s t u : State} {x : PowerSample} {v : Nat} (h : PowerShown s x v t) (he : u.eff = t.eff) : PowerShown s x v u := by
  have hr (a : Nat) : u.reg a = t.reg a := State.reg_congr he a
  have hf (a lo w : Nat) : u.regFld a lo w = t.regFld a lo w := congrArg (fld · lo w) (hr a)
  exact
    { keeps := fun a ha => (hr a).trans (h.keeps a ha)
      watts := (hf _ _ _).trans h.watts
      supply := (hf _ _ _).trans h.supply
      target := (hf _ _ _).trans h.target
      dies := fun d hd => ⟨(hr _).trans (h.dies d hd).1, (hf _ _ _).trans (h.dies d hd).2⟩
      junction := (hf _ _ _).trans h.junction }

theorem State.powerShown_status (s : State) (x : PowerSample) {v : Nat} (hv : v < 2 ^ 10) :
    let t := s.powerShown x v
    t.regFld Reg.pwrStatus 53 11 = x.watts.toNat ∧ t.regFld Reg.pwrStatus 32 16 = x.mv.toNat ∧ t.regFld Reg.pwrStatus 22 10 = v := by
  refine ⟨?_, ?_, State.regFld_setRegFld_same _ _ (by decide) hv⟩
  · refine (State.regFld_setRegFld_otherFld _ _ (by decide)).trans ((State.regFld_setRegFld_otherFld _ _ (by decide)).trans ?_)
    exact State.regFld_setRegFld_same _ _ (by decide) x.watts.isLt
  · exact (State.regFld_setRegFld_otherFld _ _ (by decide)).trans (State.regFld_setRegFld_same _ _ (by decide) x.mv.isLt)

theorem State.powerRegs_shown (s : State) (x : PowerSample) {v : Nat} (hv : v < 2 ^ 10) : RegsOnly s (s.powerRegs x v) ∧ PowerShown s x v (s.powerRegs x v) := by
  have hk : KeepsRegs [Reg.pwrStatus] s (s.powerShown x v) :=
    ((KeepsRegs.refl.setRegFld _ _ _ (by decide)).setRegFld _ _ _ (by decide)).setRegFld _ _ _ (by decide)
  have hf : RegsOnly s (s.powerShown x v) := ((RegsOnly.refl.setRegFld _ _ _ _).setRegFld _ _ _ _).setRegFld _ _ _ _
  obtain ⟨hw, hmv, ht⟩ := s.powerShown_status x hv
  have hdies := s.dieShown_foldl x v (s.powerShown x v) (hk.of_ne (by decide)) (hk.of_ne (by decide))
  unfold State.powerRegs
  generalize s.powerShown x v = u at *
  have hs : ((List.range 4).foldl (s.dieSampled x v) u).reg Reg.pwrStatus = u.reg Reg.pwrStatus := by
    refine List.foldlRecOn (motive := fun t : State => t.reg Reg.pwrStatus = u.reg Reg.pwrStatus) _ _ rfl fun t h d hd => ?_
    refine (s.reg_dieSampled_other x v t ?_ (by decide)).trans h
    have := List.mem_range.mp hd
    unfold Reg.pwrStatus Reg.hubOppoint
    omega
  have hkeep : KeepsRegs powerRegList s ((List.range 4).foldl (s.dieSampled x v) u) :=
    List.foldlRecOn (motive := KeepsRegs powerRegList s) _ _ (hk.mono (by decide)) fun t h d hd =>
      s.dieSampled_keeps x v t (List.mem_range.mp hd) h
  have hfr : RegsOnly s ((List.range 4).foldl (s.dieSampled x v) u) :=
    List.foldlRecOn (motive := RegsOnly s) _ _ hf fun t h d _ => s.dieSampled_regsOnly x v t h
  generalize (List.range 4).foldl (s.dieSampled x v) u = t at *
  have hst (lo w : Nat) : (t.setRegFld Reg.pwrCoolant 8 8 (hottest x)).regFld Reg.pwrStatus lo w = u.regFld Reg.pwrStatus lo w :=
    congrArg (fld · lo w) ((State.reg_setRegFld_other _ _ _ _ (by decide)).trans hs)
  exact ⟨hfr.setRegFld _ _ _ _,
    { keeps := hkeep.setRegFld _ _ _ (by decide)
      watts := (hst _ _).trans hw
      supply := (hst _ _).trans hmv
      target := (hst _ _).trans ht
      dies := fun d hd => by
        obtain ⟨hop, hpk⟩ := hdies d hd
        refine ⟨(State.reg_setRegFld_other _ _ _ _ ?_).trans hop, (congrArg (fld · (8 * d) 8) (State.reg_setRegFld_other _ _ _ _ (by decide))).trans hpk⟩
        unfold Reg.pwrCoolant Reg.hubOppoint
        omega
      junction := State.regFld_setRegFld_same _ _ (by decide) (hottest_lt x) }⟩

/-! The control cores. -/

/-- After a turn every core keeps all but its stop. -/
theorem core_foldl_turnCore (t k : Nat) (u : State) (n : CoreId) :
    ((List.range 64).foldl (turnCore t k) u).core n = { u.core n with stopPower := inTurn t k n.toNat } := by
  have hid {i : Nat} {j : Nat} (hi : i ∈ List.range 64) (hj : j ∈ List.range 64) (hne : j ≠ i) : BitVec.ofNat 6 j ≠ BitVec.ofNat 6 i := by
    have hi := List.mem_range.mp hi
    have hj := List.mem_range.mp hj
    bv_omega
  have h := foldl_once (g := turnCore t k) (P := fun i w => w.core (BitVec.ofNat 6 i) = u.core (BitVec.ofNat 6 i))
    (Q := fun i w => w.core (BitVec.ofNat 6 i) = { u.core (BitVec.ofNat 6 i) with stopPower := inTurn t k i }) (List.nodup_range (n := 64))
    (fun w p _ h => by rw [turnCore, State.core_setCore_same, h])
    (fun w p hp j hj hne h => (State.core_setCore_other _ _ (hid hp hj hne)).trans h)
    (fun w p hp j hj hne h => (State.core_setCore_other _ _ (hid hp hj hne)).trans h) (s := u) fun _ _ => rfl
  have hn := h n.toNat (List.mem_range.mpr n.isLt)
  rwa [BitVec.ofNat_toNat, BitVec.setWidth_eq] at hn

/-- From s to t the control cores alone change. -/
def CoresOnly (s t : State) : Prop := t = { s with cores := t.cores }

theorem foldl_turnCore_coresOnly (t k : Nat) (u : State) : CoresOnly u ((List.range 64).foldl (turnCore t k) u) :=
  List.foldlRecOn (motive := CoresOnly u) _ _ rfl fun w h n _ => by
    unfold CoresOnly
    rw [h]
    rfl

theorem inTurn_stopsAt (s : State) (x : PowerSample) (v n : Nat) :
    inTurn s.power.turn (s.stopsAt x v) n = decide (v = 600 ∧ s.capWatts < x.watts.toNat ∧ n < 48 ∧
      (n + 48 - s.power.turn) % 48 < Nat.max 1 x.stops.toNat) := by
  unfold inTurn State.stopsAt
  rw [← Bool.decide_and]
  refine decide_eq_decide.mpr ?_
  split
  · next h => exact ⟨fun hn => ⟨h.1, h.2, hn⟩, fun hn => hn.2.2⟩
  · next h => exact ⟨fun hn => absurd hn.2 (Nat.not_lt_zero _), fun hn => absurd ⟨hn.1, hn.2.1⟩ h⟩

/-! The whole sample. -/

/-- What a sample that sets target v leaves: its registers, offsets and hot junctions, and the cores it stops. -/
structure PowerSampled (s : State) (x : PowerSample) (v : Nat) (t : State) : Prop extends PowerShown s x v t where
  fields : t = { s with eff := t.eff, cores := t.cores, power := t.power }
  cores : ∀ n, t.core n = { s.core n with stopPower := inTurn s.power.turn (s.stopsAt x v) n.toNat }
  sampled : t.power.sampled = s.now
  offsets : t.power.offsets = s.offsetsAfter x v
  hot : t.power.hot = s.hotAfter x

theorem State.powerSampled_spec (s : State) (x : PowerSample) (hv : s.targetFor x.target.toNat x.watts.toNat < 2 ^ 10) :
    PowerSampled s x (s.targetFor x.target.toNat x.watts.toNat) (s.powerSampled x) := by
  obtain ⟨hfr, hregs⟩ := s.powerRegs_shown x hv
  unfold State.powerSampled
  extract_lets v k t
  have hco : CoresOnly (s.powerRegs x v) t := foldl_turnCore_coresOnly _ _ _
  have hcores (n : CoreId) : t.core n = { (s.powerRegs x v).core n with stopPower := inTurn s.power.turn k n.toNat } :=
    core_foldl_turnCore _ _ _ n
  have hu (n : CoreId) : (s.powerRegs x v).core n = s.core n := by rw [hfr, State.core, State.core]
  clear_value t
  generalize s.powerRegs x v = u at *
  have he : t.eff = u.eff := by rw [hco]
  exact
    { toPowerShown := hregs.congr he
      fields := by rw [hco, hfr]
      cores := fun n => by rw [← hu n, ← hcores n, State.core, State.core]
      sampled := rfl
      offsets := rfl
      hot := rfl }

section
variable {s t : State} {x : PowerSample} {v : Nat} (h : PowerSampled s x v t)
include h

theorem PowerSampled.oppoint {d : Nat} (hd : d < 4) (hv : v < 2 ^ 10) :
    t.regFld (Reg.hubOppoint d) 20 12 = s.dieSupply x d v ∧ t.regFld (Reg.hubOppoint d) 12 8 = reading x.tj d ∧
      t.regFld (Reg.hubOppoint d) 0 12 = if bitAt (s.reg Reg.hubDieStatus) (8 * d + 7) = true then reading x.cycle d else 0 := by
  have hmv : s.dieSupply x d v < 2 ^ 12 := Nat.lt_of_le_of_lt (Nat.sub_le _ _) (Nat.lt_trans hv (by decide))
  have hcyc : (if bitAt (s.reg Reg.hubDieStatus) (8 * d + 7) = true then reading x.cycle d else 0) < 2 ^ 12 := by
    split
    · exact reading_lt _ _
    · decide
  have hw := fld_oppointWord hmv (reading_lt x.tj d) hcyc
  rwa [← (h.dies d hd).1] at hw

theorem PowerSampled.offset {d : Nat} (hd : d < 4) : SMap.get 0 t.power.offsets d = s.offsetFor d v (reading x.tj d) x.watts.toNat := by
  rw [h.offsets, State.get_offsetsAfter _ _ _ hd]

theorem PowerSampled.junctions {d : Nat} (hd : d < 5) :
    reading x.tj d ≤ t.regFld Reg.pwrCoolant 8 8 ∧ (reading x.tj d < 110 → SMap.find t.power.hot d = none) ∧
      (110 ≤ reading x.tj d → SMap.find t.power.hot d = some ((SMap.find s.power.hot d).getD s.now)) := by
  rw [h.junction, h.hot, State.find_hotAfter _ _ hd]
  exact ⟨le_hottest x hd, fun hc => if_neg (Nat.not_le.mpr hc), fun hh => if_pos hh⟩

theorem PowerSampled.core (n : CoreId) :
    t.core n = { s.core n with stopPower := decide (v = 600 ∧ s.capWatts < x.watts.toNat ∧ n.toNat < 48 ∧
      (n.toNat + 48 - s.power.turn) % 48 < Nat.max 1 x.stops.toNat) } := by
  rw [h.cores, inTurn_stopsAt]

/-- At the lowest setting above the cap the core whose turn it is stops. -/
theorem PowerSampled.stops (hv : v = 600) (hw : s.capWatts < x.watts.toNat) (ht : s.power.turn < 48) : ∃ n, (t.core n).stopPower = true := by
  have hn : (BitVec.ofNat 6 s.power.turn).toNat = s.power.turn := by
    rw [BitVec.toNat_ofNat]
    omega
  have hpos : (s.power.turn + 48 - s.power.turn) % 48 < Nat.max 1 x.stops.toNat := by
    rw [Nat.add_sub_cancel_left]
    exact Nat.le_max_left 1 _
  refine ⟨BitVec.ofNat 6 s.power.turn, ?_⟩
  rw [h.core, hn]
  exact decide_eq_true ⟨hv, hw, ht, hpos⟩

end

/-! ### A hot junction (R390) -/

section
variable {s : State} {die : BitVec 3} (hwf : (Instr.junctionOverheat die).wf = true)
include hwf

theorem exec_junctionOverheat_waits (h : SMap.find s.power.hot die.toNat = none ∨
      ∃ a, SMap.find s.power.hot die.toNat = some a ∧ (s.now - a).toNat < 10000000) : exec (.junctionOverheat die) s = .next s := by
  refine (if_neg (by rw [hwf]; decide)).trans ?_
  rcases h with h | ⟨a, h, hlt⟩
  · rw [h]
  · rw [h]
    exact if_pos hlt

theorem junctionOverheat_fatal {a : Word} (h : SMap.find s.power.hot die.toNat = some a) (hle : 10000000 ≤ (s.now - a).toNat)
    (hf : s.fatal = false) : ∃ t, exec (.junctionOverheat die) s = .next t ∧ t.fatal = true ∧ (∀ k, k < 8 → (t.port k).state = .disabled) ∧
      LastLogged t 0x10 3 0xF000 ∧ t.mem = s.mem := by
  have hx : exec (.junctionOverheat die) s = .next (s.fatalFault (BitVec.setWidth 64 die)) := by
    refine (if_neg (by rw [hwf]; decide)).trans ?_
    rw [h]
    exact if_neg (Nat.not_lt.mpr hle)
  obtain ⟨hframe, hports, hlast⟩ := s.fatalFault_spec (BitVec.setWidth 64 die) hf
  generalize s.fatalFault (BitVec.setWidth 64 die) = t at *
  exact ⟨t, hx, by rw [hframe], hports, hlast, by rw [hframe]⟩

end

/-! ### The coolant's reading (R391) -/

/-- A reading that lies out of the sensors' ranges, or a failed valve loop (R437, R438). -/
def BadReading (c : Coolant) : Prop :=
  c.flow.toNat < 50 ∨ 2000 < c.flow.toNat ∨ 800 < c.tIn.toNat ∨ 800 < c.tOut.toNat ∨ c.loopBad = true

theorem coolantBad_iff (c : Coolant) : coolantBad c = true ↔ BadReading c := by
  simp only [coolantBad, BadReading, Bool.or_eq_true, decide_eq_true_eq, or_assoc]

/-- PWR_COOLANT with a reading. -/
def State.readingShown (s : State) (c : Coolant) : State :=
  ((s.setRegFld Reg.pwrCoolant 40 16 c.flow.toNat).setRegFld Reg.pwrCoolant 28 12 c.tIn.toNat).setRegFld Reg.pwrCoolant 16 12 c.tOut.toNat

/-- PWR_COOLANT shows a reading. -/
def ReadingShown (c : Coolant) (t : State) : Prop :=
  t.regFld Reg.pwrCoolant 40 16 = c.flow.toNat ∧ t.regFld Reg.pwrCoolant 28 12 = c.tIn.toNat ∧ t.regFld Reg.pwrCoolant 16 12 = c.tOut.toNat

/-- From s to t the valve's opening alone is set. -/
theorem ReadingShown.setValve {c : Coolant} {t : State} (h : ReadingShown c t) (n : Nat) : ReadingShown c (t.setRegFld Reg.pwrCoolant 56 8 n) := by
  obtain ⟨hflow, hin, hout⟩ := h
  exact ⟨(State.regFld_setRegFld_otherFld _ _ (by decide)).trans hflow, (State.regFld_setRegFld_otherFld _ _ (by decide)).trans hin,
    (State.regFld_setRegFld_otherFld _ _ (by decide)).trans hout⟩

theorem State.readingShown_spec (s : State) (c : Coolant) :
    RegsOnly s (s.readingShown c) ∧ KeepsRegs [Reg.pwrCoolant] s (s.readingShown c) ∧ ReadingShown c (s.readingShown c) ∧
      (s.readingShown c).regFld Reg.pwrCoolant 56 8 = s.regFld Reg.pwrCoolant 56 8 := by
  refine ⟨((RegsOnly.refl.setRegFld _ _ _ _).setRegFld _ _ _ _).setRegFld _ _ _ _,
    ((KeepsRegs.refl.setRegFld _ _ _ (by decide)).setRegFld _ _ _ (by decide)).setRegFld _ _ _ (by decide), ⟨?_, ?_, ?_⟩, ?_⟩
  · refine (State.regFld_setRegFld_otherFld _ _ (by decide)).trans ((State.regFld_setRegFld_otherFld _ _ (by decide)).trans ?_)
    exact State.regFld_setRegFld_same _ _ (by decide) c.flow.isLt
  · exact (State.regFld_setRegFld_otherFld _ _ (by decide)).trans (State.regFld_setRegFld_same _ _ (by decide) c.tIn.isLt)
  · exact State.regFld_setRegFld_same _ _ (by decide) c.tOut.isLt
  · exact (State.regFld_setRegFld_otherFld _ _ (by decide)).trans ((State.regFld_setRegFld_otherFld _ _ (by decide)).trans
      (State.regFld_setRegFld_otherFld _ _ (by decide)))

/-- FLOW_LOW's rule from p to q: a flow that has been on the other side of FLOW_MIN (below or not) for 2 s at time now turns it. -/
structure FlowTurns (now : Word) (below : Bool) (p q : Power) : Prop where
  settled : below = p.flowLow → q.flowLow = p.flowLow ∧ q.flowTurn = none
  lasts : ∀ since, below ≠ p.flowLow → p.flowTurn = some (below, since) →
    (2000000000 ≤ (now - since).toNat → q.flowLow = below) ∧
    ((now - since).toNat < 2000000000 → q.flowLow = p.flowLow ∧ q.flowTurn = some (below, since))
  begins : below ≠ p.flowLow → p.flowTurn = none → q.flowLow = p.flowLow ∧ q.flowTurn = some (below, now)

/-- Is the flow below FLOW_MIN? -/
def State.flowBelow (s : State) (c : Coolant) : Bool := decide (c.flow.toNat < 10 * s.regFld Reg.pwrValveCfg 0 8)

section
variable {s u : State} {c : Coolant} (hu : s.readingShown c = u)
include hu

theorem State.observe_bad (h : BadReading c) :
    s.observe c = { u.setRegFld Reg.pwrCoolant 56 8 100 with power := { s.power with sensorFail := true, flowTurn := none } } := by
  subst hu
  exact if_pos ((coolantBad_iff c).mpr h)

theorem State.observe_good (h : ¬ BadReading c) :
    ∃ p, s.observe c = { u with power := p } ∧ p.sensorFail = false ∧ p.valveNext = s.power.valveNext ∧
      FlowTurns s.now (s.flowBelow c) s.power p := by
  unfold State.observe
  extract_lets t _ _ below turn p
  have ht : u = t := hu.symm
  have hp : p = s.power := rfl
  have hsame (hb : below = s.power.flowLow) : turn = none := if_pos hb
  have hlasts {since : Word} (hb : below ≠ s.power.flowLow) (hf : s.power.flowTurn = some (below, since)) : turn = some (below, since) := by
    unfold turn
    rw [if_neg hb, hf]
    exact if_pos rfl
  have hbegins (hb : below ≠ s.power.flowLow) (hf : s.power.flowTurn = none) : turn = some (below, s.now) := by
    unfold turn
    rw [if_neg hb, hf]
  have hbelow : s.flowBelow c = below := rfl
  rw [if_neg fun hb => h ((coolantBad_iff c).mp hb), hbelow, ht]
  clear_value turn below p t
  cases turn with
  | none =>
    refine ⟨_, rfl, rfl, by rw [hp], fun _ => ⟨by rw [hp], rfl⟩, fun _ hb hf => ?_, fun hb hf => ?_⟩
    · cases hlasts hb hf
    · cases hbegins hb hf
  | some e =>
    obtain ⟨b, since⟩ := e
    dsimp only
    split
    · next hle =>
      refine ⟨_, rfl, rfl, by rw [hp], fun hb => ?_, fun _ hb hf => ?_, fun hb hf => ?_⟩
      · cases hsame hb
      · cases hlasts hb hf
        exact ⟨fun _ => rfl, fun hlt => absurd hle (Nat.not_le.mpr hlt)⟩
      · cases hbegins hb hf
        rw [BitVec.sub_self] at hle
        exact absurd hle (by decide)
    · next hlt =>
      refine ⟨_, rfl, rfl, by rw [hp], fun hb => ?_, fun _ hb hf => ?_, fun hb hf => ?_⟩
      · cases hsame hb
      · cases hlasts hb hf
        exact ⟨fun hle => absurd hle hlt, fun _ => ⟨by rw [hp], rfl⟩⟩
      · cases hbegins hb hf
        exact ⟨by rw [hp], rfl⟩

end

/-- What an observation of the flow leaves (R391). -/
structure Observed (s : State) (c : Coolant) (t : State) : Prop where
  frame : t = { s with eff := t.eff, power := t.power }
  keeps : KeepsRegs [Reg.pwrCoolant] s t
  shown : ReadingShown c t
  next : t.power.valveNext = s.power.valveNext
  bad : BadReading c → t.power.sensorFail = true ∧ t.power.flowLow = s.power.flowLow ∧ t.regFld Reg.pwrCoolant 56 8 = 100
  good : ¬ BadReading c → t.power.sensorFail = false ∧ FlowTurns s.now (s.flowBelow c) s.power t.power ∧
    t.regFld Reg.pwrCoolant 56 8 = s.regFld Reg.pwrCoolant 56 8

theorem State.observe_observed (s : State) (c : Coolant) : Observed s c (s.observe c) := by
  obtain ⟨hf, hk, hsh, hv⟩ := s.readingShown_spec c
  generalize hu : s.readingShown c = u at *
  by_cases h : BadReading c
  · have hf' := hf.setRegFld Reg.pwrCoolant 56 8 100
    have hk' := hk.setRegFld (a := Reg.pwrCoolant) 56 8 100 (by decide)
    have hsh' := hsh.setValve 100
    have hv' : (u.setRegFld Reg.pwrCoolant 56 8 100).regFld Reg.pwrCoolant 56 8 = 100 := State.regFld_setRegFld_same _ _ (by decide) (by decide)
    rw [State.observe_bad hu h]
    generalize u.setRegFld Reg.pwrCoolant 56 8 100 = t at *
    exact
      { frame := by rw [hf']
        keeps := hk'
        shown := hsh'
        next := rfl
        bad := fun _ => ⟨rfl, rfl, hv'⟩
        good := fun hn => absurd h hn }
  · obtain ⟨p, ht, hs, hn, hp⟩ := State.observe_good hu h
    rw [ht]
    exact
      { frame := by rw [hf]
        keeps := hk
        shown := hsh
        next := hn
        bad := fun hb => absurd hb h
        good := fun _ => ⟨hs, hp, hv⟩ }

theorem exec_flowLow {s : State} (c : Coolant) (ho : s.start.off = false) : exec (.flowLow c) s = .next (s.observe c) :=
  if_neg (by rw [ho]; decide)

/-! ### A valve iteration (R392, R393) -/

/-- Half a period has passed since the last iteration ended. -/
def State.valveRested (s : State) : Prop :=
  ∀ e, s.power.valveEnd = some e → e.toNat + s.regFld Reg.pwrValveCfg 16 8 * 500000 ≤ s.now.toNat

theorem State.valveStart_le_iff (s : State) : s.valveStart ≤ s.now.toNat ↔ s.valveDue ≤ s.now.toNat ∧ s.valveRested := by
  unfold State.valveStart State.valveRested
  cases s.power.valveEnd with
  | none => simp
  | some e => simp

theorem wrapReg_pwrValveLate : wrapReg Reg.pwrValveLate = some Reg.pwrCntWrap := by decide

/-- The count of an iteration that starts after its due time. -/
def State.valveCounted (s : State) : State := if s.valveDue < s.now.toNat then s.bump Reg.pwrValveLate 1 else s

theorem State.valveCounted_spec (s : State) :
    RegsOnly s s.valveCounted ∧ KeepsBut [] s s.valveCounted ∧
      (∀ a, a ≠ Reg.pwrValveLate → a ≠ Reg.pwrCntWrap → s.valveCounted.reg a = s.reg a) ∧
      s.valveCounted.reg Reg.pwrValveLate = if s.valveDue < s.now.toNat then s.reg Reg.pwrValveLate + 1 else s.reg Reg.pwrValveLate := by
  unfold State.valveCounted
  split
  · exact ⟨RegsOnly.refl.bump _ _, KeepsBut.refl.bump _ wrapReg_pwrValveLate, fun a ha hw => s.reg_bump_of_wrapReg wrapReg_pwrValveLate _ ha hw,
      s.reg_bump_same_of_wrapReg wrapReg_pwrValveLate _ (by decide)⟩
  · exact ⟨.refl, .refl, fun _ _ _ => rfl, rfl⟩

/-- The bounds of the opening v that an iteration sets when the control asks for pct, the last opening was `was` and the least one is low. -/
structure OpeningBounds (was low pct v : Nat) : Prop where
  most : v ≤ 100
  least : low ≤ 100 → low ≤ v
  rise : low ≤ was + 10 → v ≤ was + 10
  fall : was ≤ 110 → was - 10 ≤ v
  asked : was ≤ pct + 10 → pct ≤ was + 10 → low ≤ pct → pct ≤ 100 → v = pct

theorem State.valveFor_failed {s : State} (h : s.power.sensorFail = true) (pct : Nat) : s.valveFor pct = 100 := if_pos h

theorem State.valveFor_bounds {s : State} (h : s.power.sensorFail = false) (pct : Nat) :
    OpeningBounds (s.regFld Reg.pwrCoolant 56 8) (s.regFld Reg.pwrValveCfg 8 8) pct (s.valveFor pct) := by
  have hv : s.valveFor pct = min 100 (max (s.regFld Reg.pwrValveCfg 8 8)
      (max (s.regFld Reg.pwrCoolant 56 8 - 10) (min (s.regFld Reg.pwrCoolant 56 8 + 10) pct))) := if_neg (by rw [h]; decide)
  rw [hv]
  generalize s.regFld Reg.pwrCoolant 56 8 = was
  generalize s.regFld Reg.pwrValveCfg 8 8 = low
  exact ⟨by omega, by omega, by omega, by omega, by omega⟩

theorem State.valveFor_le (s : State) (pct : Nat) : s.valveFor pct ≤ 100 := by
  cases h : s.power.sensorFail with
  | true => exact Nat.le_of_eq (State.valveFor_failed h pct)
  | false => exact (State.valveFor_bounds h pct).most

/-- The valve's opening set after the count and the observation. -/
def State.valveMoved (s : State) (pct : Nat) (now : Word) : State :=
  let t := s.setRegFld Reg.pwrCoolant 56 8 (s.valveFor pct)
  { t with power := { t.power with valveNext := t.power.valveNext + 1, valveEnd := some now } }

/-- What an iteration leaves. -/
structure ValveMoved (s : State) (c : Coolant) (pct : Nat) (t : State) : Prop where
  frame : t = { s with eff := t.eff, power := t.power }
  keeps : KeepsBut [Reg.pwrCoolant] s t
  shown : ReadingShown c t
  next : t.power.valveNext = s.power.valveNext + 1
  ended : t.power.valveEnd = some s.now
  late : t.reg Reg.pwrValveLate = if s.valveDue < s.now.toNat then s.reg Reg.pwrValveLate + 1 else s.reg Reg.pwrValveLate
  bad : BadReading c → t.power.sensorFail = true ∧ t.power.flowLow = s.power.flowLow ∧ t.regFld Reg.pwrCoolant 56 8 = 100
  good : ¬ BadReading c → t.power.sensorFail = false ∧ FlowTurns s.now (s.flowBelow c) s.power t.power ∧
    OpeningBounds (s.regFld Reg.pwrCoolant 56 8) (s.regFld Reg.pwrValveCfg 8 8) pct (t.regFld Reg.pwrCoolant 56 8)

theorem FlowTurns.congr {now : Word} {below : Bool} {p q r : Power} (h : FlowTurns now below p q) (hl : r.flowLow = q.flowLow)
    (ht : r.flowTurn = q.flowTurn) : FlowTurns now below p r where
  settled := by rw [hl, ht]; exact h.settled
  lasts := by rw [hl, ht]; exact h.lasts
  begins := by rw [hl, ht]; exact h.begins

theorem State.valveMoved_spec (s : State) (c : Coolant) (pct : Nat) :
    ValveMoved s c pct ((s.valveCounted.observe c).valveMoved pct s.now) := by
  obtain ⟨huf, huk, hur, hul⟩ := s.valveCounted_spec
  generalize s.valveCounted = u at *
  have hcool (lo w : Nat) : u.regFld Reg.pwrCoolant lo w = s.regFld Reg.pwrCoolant lo w := congrArg (fld · lo w) (hur _ (by decide) (by decide))
  have hcfg (lo w : Nat) : u.regFld Reg.pwrValveCfg lo w = s.regFld Reg.pwrValveCfg lo w := congrArg (fld · lo w) (hur _ (by decide) (by decide))
  have hbelow : u.flowBelow c = s.flowBelow c := by rw [State.flowBelow, hcfg, State.flowBelow]
  have hpow : u.power = s.power := by rw [huf]
  have hnow : u.now = s.now := by rw [huf]
  have ho := u.observe_observed c
  generalize u.observe c = t at *
  have hcfg' : t.regFld Reg.pwrValveCfg 8 8 = s.regFld Reg.pwrValveCfg 8 8 := (congrArg (fld · 8 8) (ho.keeps.of_ne (by decide))).trans (hcfg 8 8)
  have hrf : RegsOnly t (t.setRegFld Reg.pwrCoolant 56 8 (t.valveFor pct)) := RegsOnly.refl.setRegFld _ _ _ _
  have hrk : KeepsRegs [Reg.pwrCoolant] t (t.setRegFld Reg.pwrCoolant 56 8 (t.valveFor pct)) := KeepsRegs.refl.setRegFld _ _ _ (by decide)
  have hsh := ho.shown.setValve (t.valveFor pct)
  have hset : (t.setRegFld Reg.pwrCoolant 56 8 (t.valveFor pct)).regFld Reg.pwrCoolant 56 8 = t.valveFor pct :=
    State.regFld_setRegFld_same _ _ (by decide) (Nat.lt_of_le_of_lt (t.valveFor_le pct) (by decide))
  unfold State.valveMoved
  generalize t.setRegFld Reg.pwrCoolant 56 8 (t.valveFor pct) = r at *
  have hrp : r.power = t.power := by rw [hrf]
  exact
    { frame := by rw [hrf, ho.frame, huf]
      keeps := KeepsBut.trans (huk.mono (List.nil_subset _)) (.of_keepsRegs (ho.keeps.trans hrk (List.Subset.refl _))) (List.Subset.refl _)
      shown := hsh
      next := by
        show r.power.valveNext + 1 = _
        rw [hrp, ho.next, hpow]
      ended := rfl
      late := (hrk.of_ne (by decide)).trans ((ho.keeps.of_ne (by decide)).trans hul)
      bad := fun hb => by
        obtain ⟨hsf, hfl, -⟩ := ho.bad hb
        exact ⟨(congrArg Power.sensorFail hrp).trans hsf, by rw [← hpow, ← hfl, ← hrp], hset.trans (State.valveFor_failed hsf pct)⟩
      good := fun hg => by
        obtain ⟨hsf, hft, hold⟩ := ho.good hg
        have hb := State.valveFor_bounds hsf pct
        rw [hold, hcool, hcfg', ← hset] at hb
        rw [hnow, hbelow, hpow] at hft
        exact ⟨(congrArg Power.sensorFail hrp).trans hsf, hft.congr (by rw [← hrp]) (by rw [← hrp]), hb⟩ }

section
variable {s : State} {c : Coolant} {pct : Byte} (hwf : (Instr.valveIteration c pct).wf = true)
include hwf

theorem exec_valveIteration_waits (h : s.start.stage = 0 ∨ s.now.toNat < s.valveDue ∨ ¬ s.valveRested) :
    exec (.valveIteration c pct) s = .next s := by
  refine (if_neg (by rw [hwf]; decide)).trans (if_pos ?_)
  rcases h with h | h
  · rw [decide_eq_true (show s.start.stage < 1 by omega), Bool.or_true, Bool.true_or]
  · have hlt : s.now.toNat < s.valveStart := by
      rw [← Nat.not_le, s.valveStart_le_iff]
      exact fun hn => h.elim (Nat.not_lt.mpr hn.1) fun hr => hr hn.2
    rw [decide_eq_true hlt, Bool.or_true]

theorem exec_valveIteration_due (ho : s.start.off = false) (h1 : 1 ≤ s.start.stage) (hd : s.valveDue ≤ s.now.toNat) (hr : s.valveRested) :
    exec (.valveIteration c pct) s = .next ((s.valveCounted.observe c).valveMoved pct.toNat s.now) := by
  have hrun : ¬ (s.start.off || decide (s.start.stage < 1) || decide (s.now.toNat < s.valveStart)) = true := by
    rw [ho, decide_eq_false (Nat.not_lt.mpr h1), decide_eq_false (Nat.not_lt.mpr (s.valveStart_le_iff.mpr ⟨hd, hr⟩))]
    decide
  show execValveIteration c pct s = _
  unfold execValveIteration
  rw [hwf, if_neg (by decide), if_neg hrun]
  rfl

end

/-- Settles O50: the power loop, a hot junction, the flow's observation and a valve iteration, each by its own rule. -/
theorem powerAndCooling : Obligations.PowerAndCooling := by
  intro x c pct die s ho
  refine ⟨fun hwf => ⟨exec_powerLoopSample_early hwf, fun h hok => ?_, fun h hok hmax => ?_⟩,
    fun hwf => ⟨exec_junctionOverheat_waits hwf, fun a => junctionOverheat_fatal hwf⟩, ?_,
    fun hwf => ⟨exec_valveIteration_waits hwf, fun h1 hd hr => ?_⟩⟩
  · exact (exec_powerLoopSample_due hwf ho h).trans (if_pos (by rw [hok]; rfl))
  · have hb := s.targetFor_bounds x.target.toNat x.watts.toNat hmax
    have hv : s.targetFor x.target.toNat x.watts.toNat < 2 ^ 10 := Nat.lt_of_le_of_lt hb.most (fld_lt _ _ _)
    have hs := s.powerSampled_spec x hv
    have hfit (d : Nat) := State.cycleFits_of_sampleOk hok (d := d)
    have hx := (exec_powerLoopSample_due hwf ho h).trans (if_neg (by rw [hok]; decide))
    generalize s.powerSampled x = t at *
    generalize s.targetFor x.target.toNat x.watts.toNat = v at *
    obtain rfl := hs.target
    refine ⟨t, hx, hs.fields, hs.keeps, hs.watts, hs.supply, hs.sampled,
      ⟨hb.most, hb.stage1, hb.least, hb.fall, hb.rise, hb.capped, hb.uncapped, hs.core, hs.stops⟩, fun d hd => ?_, fun d hd => hs.junctions hd⟩
    obtain ⟨hmv, htj, hcyc⟩ := hs.oppoint hd hv
    refine ⟨htj, hcyc, ⟨?_, (hs.offset hd).trans (s.offsetFor_eq _ _ _ _), ?_⟩, (hs.dies d hd).2⟩
    · rw [hmv, hs.offset hd, State.dieSupply]
    · rw [hmv]
      exact hfit d hd
  · have hob := s.observe_observed c
    refine ⟨_, exec_flowLow c ho, ⟨hob.frame, hob.keeps⟩, hob.shown, ⟨fun hb => ?_, fun hg => ?_⟩, fun hb => ?_, fun hg => ?_⟩
    · exact ⟨(hob.bad hb).1, (hob.bad hb).2.1⟩
    · obtain ⟨hsf, hft, -⟩ := hob.good hg
      exact ⟨hsf, hft.settled, hft.lasts, hft.begins⟩
    · exact (hob.bad hb).2.2
    · exact (hob.good hg).2.2
  · have hm := s.valveMoved_spec c pct.toNat
    refine ⟨_, exec_valveIteration_due hwf ho h1 hd hr, hm.frame, fun a ha hn => hm.keeps a ha (fun h => hn (List.mem_singleton.mp h)), hm.shown,
      ⟨fun hb => ?_, fun hg => ?_⟩, hm.next, hm.ended, hm.late, fun hb => ?_, fun hg => ?_⟩
    · exact ⟨(hm.bad hb).1, (hm.bad hb).2.1⟩
    · obtain ⟨hsf, hft, -⟩ := hm.good hg
      exact ⟨hsf, hft.settled, hft.lasts, hft.begins⟩
    · exact (hm.bad hb).2.2
    · obtain ⟨-, -, hv⟩ := hm.good hg
      exact ⟨hv.most, hv.least, hv.rise, hv.fall, hv.asked⟩

end Sys2Proof.Machine
end

section
/-!
PROOFS. Responses of the fabric pool (O41): a held release that names no queue of the module.
-/

namespace Sys2Proof.Machine

/-- The only job, running on core 0. -/
def answeredJob : Job :=
  { id := 1, group := 0, prio := 0, imemSave := false, nPeony := 1, nLupin := 0, faultQ := 0, faultEn := false, imageAddr := 0, imageBytes := 4
    image := [], entry := 0, root := 0, statusAddr := 0, live := [], port := 0, state := .running, endCode := 0, killed := false, preempts := 0
    tSubmit := 0, tStart := some 0, tEnd := 0, waitNs := 0, waitSince := none, lastSave := 0, lastRestore := 0, landed := 0, restarts := 0
    placed := [0], order := 0, phaseSince := 0, saved := none, restartTimes := [] }

/-- Core 0's write of 8 bytes at home address 0 of module 1. -/
def answeredWrite : Req :=
  { kind := .write, core := 0, job := 1, cmd := 0, target := 1, seg := 0, sent := 0, va := 0, pa := poolBase, n := 8, home := 0, line := none }

/-- Its acknowledgement. -/
def writeAck : Msg := { dst := 0, src := 1, typ := 0x04, cls := 0, vc := false, ttl := 128, poison := false, tag := 3, payload := [] }

/-- A release that waits for the write. Its queue is none of the 4,096: STM_QCFG's stride puts its configuration where the squashed
prefetches of partition 0 are counted. -/
def strayRelease : HeldPut := { queue := 0x7F102, core := 0, job := 1, cmd := 0, word := { data := 7, last := true, tick := 0 } }

/-- The acknowledgement has arrived; a prefetched line that holds the written bytes is cached, and the count of squashed prefetches reads
as a queue bound for job 1 to get from, with room. -/
def ackArrived : State :=
  (({ State.reset with
      start := { Start.reset with stage := 5 }
      jobs := [answeredJob]
      ports := [(0, { Port.reset with state := .up, arrived := [writeAck] })]
      reqs := [(3, answeredWrite)]
      held := [strayRelease]
      ahead := [{ line := 0, group := 0, die := 0, node := false, used := false, bad := false }] } : State).setReg
    (Reg.dbgPartCnt 0 4) 0x0001000000000005)

theorem strayRelease_wouldEnter : ackArrived.qBound strayRelease.queue = true ∧ ackArrived.wouldEnter strayRelease.queue = true := by decide

/-- The write squashes the line; the count no longer reads as a bound queue, and the released word is discarded (R262). -/
theorem strayRelease_discarded : ((ackArrived.takeResponse 0 0x04).queue strayRelease.queue).words = [] := by decide

theorem answeredWrite_alone : ∀ e ∈ ackArrived.reqs, e.1 ≠ writeAck.tag.toNat →
    ¬(e.2.kind = .write ∧ e.2.core = strayRelease.core ∧ e.2.job = strayRelease.job ∧ e.2.cmd = strayRelease.cmd) := by decide

/-- Refutes O41: nothing holds a release to the 4,096 queues. The release of `ackArrived` names a queue whose configuration register would be
a counter, the acknowledged write's squash of a cached line changes it, and the word that would enter the queue is discarded. -/
theorem not_fjorinResponses : ¬ Obligations.FjorinResponses := by
  intro h
  obtain ⟨-, -, -, hack, -⟩ := h 0 writeAck.tag answeredWrite answeredJob ackArrived rfl (by decide)
  obtain ⟨-, hheld⟩ := hack writeAck (by decide) rfl rfl (by decide)
  obtain ⟨t, ht, -, -, -, hput, -⟩ := hheld strayRelease rfl
  obtain ⟨-, hwords⟩ := hput answeredWrite_alone
  obtain rfl : ackArrived.takeResponse 0 0x04 = t := Host.Outcome.next.inj ht
  have hlen := congrArg List.length
    (hwords strayRelease_wouldEnter.1 strayRelease_wouldEnter.2 strayRelease.queue)
  rw [strayRelease_discarded, if_pos rfl, List.length_append] at hlen
  exact absurd hlen (by decide)

end Sys2Proof.Machine
end

section
/-!
SUPPORT. Commands: which command an identity names after one is written or leaves its queue.
-/

namespace Sys2Proof.Machine

section
variable {s : State} {c d e : Cmd} {id : Nat}

theorem State.cmd_id (h : s.cmd id = some c) : c.id = id := by simpa using List.find?_some h

/-- A command takes its own place. -/
theorem State.cmd_setCmd (h : s.cmd d.id = some c) (j : Nat) : (s.setCmd d).cmd j = if j = d.id then some d else s.cmd j := by
  have hid : ∀ e : Cmd, (if e.id = d.id then d else e).id = e.id := fun e => by split <;> simp [*]
  have hmap : (s.setCmd d).cmd j = (s.cmd j).map fun e => if e.id = d.id then d else e := by
    show (s.cmds.map _).find? _ = _
    rw [List.find?_map]
    simp only [Function.comp_def, hid]
    rfl
  rw [hmap]
  by_cases hj : j = d.id
  · subst hj
    rw [if_pos rfl, h, Option.map_some, if_pos (State.cmd_id h)]
  · rw [if_neg hj]
    cases he : s.cmd j with
    | none => rfl
    | some e => rw [Option.map_some, if_neg (by rwa [State.cmd_id he])]

/-- Of two writes of a command the second stands. -/
theorem State.setCmd_setCmd (h : d.id = e.id) : (s.setCmd d).setCmd e = s.setCmd e := by
  unfold State.setCmd
  simp only [List.map_map]
  congr 2
  funext x
  by_cases hx : x.id = e.id <;> simp [h, hx]

theorem State.cmd_dropCmd (j : Nat) : (s.dropCmd id).cmd j = if j = id then none else s.cmd j := by
  unfold State.cmd State.dropCmd
  rw [List.find?_filter]
  by_cases hj : j = id
  · subst hj
    simp
  · rw [if_neg hj]
    congr 1
    funext x
    by_cases hx : x.id = j <;> simp [hx, hj]

end

end Sys2Proof.Machine
end

section
/-!
SUPPORT. Counters: the one bit that a count can set outside its counter (R134).
-/

namespace Sys2Proof.Machine

/-- The register that holds the WRAPPED bit of counter a, and which bit it is. -/
def wrapBit (a : Nat) : Option (Nat × Nat) :=
  (regAt a).bind fun r => r.desc.wrap.map fun w =>
    (w.base + w.s1 * r.i + 4 * ((w.bit + w.b1 * r.i + w.b2 * r.j) / 32), (w.bit + w.b1 * r.i + w.b2 * r.j) % 32)

section
variable {s : State} {a b c i j : Nat}

theorem wrapReg_of_wrapBit (h : wrapBit a = some (c, i)) : wrapReg a = some c := by
  obtain ⟨r, hr, hm⟩ := Option.bind_eq_some_iff.mp h
  obtain ⟨w, hw, hc⟩ := Option.map_eq_some_iff.mp hm
  unfold wrapReg
  rw [hr, Option.bind_some, hw]
  exact congrArg (some ∘ Prod.fst) hc

theorem State.bump_of_wrapBit (h : wrapBit a = some (c, i)) (n : Nat) :
    s.bump a n = s.setReg a (s.reg a + BitVec.ofNat 64 n) ∨
    s.bump a n = (s.setReg a (s.reg a + BitVec.ofNat 64 n)).setReg c
      ((s.setReg a (s.reg a + BitVec.ofNat 64 n)).reg c ||| BitVec.ofNat 64 (2 ^ i)) := by
  obtain ⟨r, hr, hm⟩ := Option.bind_eq_some_iff.mp h
  obtain ⟨w, hw, hc⟩ := Option.map_eq_some_iff.mp hm
  obtain ⟨rfl, rfl⟩ := Prod.mk.inj hc
  unfold State.bump
  dsimp only
  split
  · exact .inl rfl
  · rw [hr]
    dsimp only
    rw [hw]
    exact .inr rfl

/-- A count leaves every bit outside its counter alone but the counter's WRAPPED bit. -/
theorem State.getLsbD_reg_bump (h : wrapBit a = some (c, i)) (n : Nat) (hb : b ≠ a) (hj : b = c → j ≠ i) :
    ((s.bump a n).reg b).getLsbD j = (s.reg b).getLsbD j := by
  rcases State.bump_of_wrapBit (s := s) h n with he | he
  · rw [he, State.reg_setReg_other _ _ hb]
  · rw [he, State.reg_setReg, State.reg_setReg_other _ _ hb]
    split
    · next hbc =>
      rw [← hbc, State.reg_setReg_other _ _ hb, BitVec.getLsbD_or, BitVec.getLsbD_ofNat, Nat.testBit_two_pow]
      simp [(hj hbc).symm]
    · rfl

theorem fld_congr {v w : Word} {lo n : Nat} (h : ∀ i < n, v.getLsbD (lo + i) = w.getLsbD (lo + i)) : fld v lo n = fld w lo n := by
  apply Nat.eq_of_testBit_eq
  intro i
  rw [testBit_fld, testBit_fld]
  by_cases hi : i < n
  · rw [h i hi]
  · simp [hi]

/-- A count leaves every field outside its counter alone that its WRAPPED bit is not in. -/
theorem State.regFld_bump (h : wrapBit a = some (c, i)) (n : Nat) {lo w : Nat} (hb : b ≠ a) (hj : b = c → i < lo ∨ lo + w ≤ i) :
    (s.bump a n).regFld b lo w = s.regFld b lo w :=
  fld_congr fun k hk => State.getLsbD_reg_bump h n hb fun hc => by have := hj hc; omega

/-- A count changes the counters' registers alone, and what it counts in. -/
theorem State.reg_bump_of_not_counterReg (a n : Nat) (hb : ¬ CounterReg b) (ha : b ≠ a) : (s.bump a n).reg b = s.reg b :=
  State.reg_bump_other _ _ _ _ ha fun r w hr hw he => hb ⟨a, r, w, hr, hw, .inr he⟩

end

end Sys2Proof.Machine
end

section
/-!
SUPPORT. What an engine's write changes (R32, R247, R320): the frame that every write of a command keeps to.
-/

namespace Sys2Proof.Machine

/-- What a write of command c may change: memory with its ownership and poison, what it held before, the cached lines over it, the fabric
requests it sends and the flows they fill, the record of a failed write, the registers that `KeepsEngineRegs` names. -/
def WriteFrame (c : Cmd) (s t : State) : Prop :=
  t = { s with mem := t.mem, owner := t.owner, poison := t.poison, old := t.old, eff := t.eff, cores := t.cores
               writeFail := t.writeFail, flows := t.flows, ports := t.ports, reqs := t.reqs, nextTag := t.nextTag, ahead := t.ahead } ∧
  KeepsCores c.core s t ∧ t.core c.core = { s.core c.core with writeFailed := (t.core c.core).writeFailed } ∧ KeepsEngineRegs s t c

section
variable {c : Cmd} {s t u : State}

/-- A change of memory, of the fabric's queues and of what goes with them is in the frame. -/
theorem WriteFrame.of_fields (h : t = { s with
    mem := t.mem, owner := t.owner, poison := t.poison, old := t.old, writeFail := t.writeFail, flows := t.flows, ports := t.ports
    reqs := t.reqs, nextTag := t.nextTag, ahead := t.ahead }) : WriteFrame c s t := by
  have he : t.eff = s.eff := by rw [h]
  have hc : t.cores = s.cores := by rw [h]
  refine ⟨?_, fun m _ => State.core_congr hc m, ?_, fun a _ _ _ _ _ => State.reg_congr he a⟩
  · rw [h]
  · rw [State.core_congr hc]

theorem WriteFrame.refl : WriteFrame c s s := .of_fields rfl

/-- A count in a counter, or in a register of the DBG_ window or beyond, is in the frame. -/
theorem WriteFrame.bump {a : Nat} (n : Nat) (h : CounterReg a ∨ 0x1100000 ≤ a) : WriteFrame c s (s.bump a n) := by
  have hc : (s.bump a n).cores = s.cores := by rw [State.bump_fields]
  refine ⟨?_, fun m _ => State.core_congr hc m, ?_, fun b hb hn _ _ _ => ?_⟩
  · rw [State.bump_fields]
  · rw [State.core_congr hc]
  · refine State.reg_bump_of_not_counterReg a n hn fun hba => ?_
    rcases h with h | h
    · exact hn (hba ▸ h)
    · omega

theorem WriteFrame.job (h : WriteFrame c s t) (id : BitVec 16) : t.job id = s.job id := by
  rw [h.1]
  rfl

theorem WriteFrame.cmds (h : WriteFrame c s t) : t.cmds = s.cmds := by rw [h.1]

theorem WriteFrame.trans (h : WriteFrame c s t) (hu : WriteFrame c t u) : WriteFrame c s u := by
  obtain ⟨hf, hm, hc, hr⟩ := h
  obtain ⟨huf, hum, huc, hur⟩ := hu
  refine ⟨?_, fun m hn => (hum m hn).trans (hm m hn), ?_, fun a ha hn hj hw hl => ?_⟩
  · rw [huf, hf]
  · rw [huc, hc]
  · refine (hur a ha hn (fun j hj' => hj j ?_) hw hl).trans (hr a ha hn hj hw hl)
    rw [← hj', hf]
    rfl

theorem WriteFrame.foldl {β : Type} {g : State → β → State} (l : List β) (hg : ∀ t x, WriteFrame c t (g t x)) :
    WriteFrame c s (l.foldl g s) := by
  induction l generalizing s with
  | nil => exact .refl
  | cons x l ih => exact (hg s x).trans ih

theorem WriteFrame.foldl_fst {β γ : Type} {g : State × γ → β → State × γ} (l : List β) {p : State × γ}
    (hg : ∀ q x, WriteFrame c q.1 (g q x).1) : WriteFrame c p.1 (l.foldl g p).1 := by
  induction l generalizing p with
  | nil => exact .refl
  | cons x l ih => exact (hg p x).trans ih

/-- The frame of a write after the command has been written. -/
theorem WriteFrame.engineFrame {d : Cmd} (h : WriteFrame c (s.setCmd d) t) : EngineFrame s t c := by
  obtain ⟨hf, hm, hc, hr⟩ := h
  refine ⟨?_, hm, hc, hr⟩
  rw [hf]
  rfl

end

/-! ### The steps of a write -/

section
variable (c : Cmd) (s : State)

theorem State.squash_writeFrame (g n : Nat) : WriteFrame c s (s.squash 1 g n) := by
  unfold State.squash
  split
  · exact .refl
  · have hs : wrapReg (Reg.hubSquash 1) = some Reg.hubSpecWrap := by decide
    refine (WriteFrame.bump n (.inl (counterReg_of_wrapReg hs).1)).trans (.bump n (.inr ?_))
    unfold Reg.dbgPartCnt
    omega

theorem State.evict_writeFrame (gone : AheadLine → Bool) : WriteFrame c s (s.evict gone) := by
  have hm : wrapReg Reg.mgdSpecErr = some Reg.mgdCntWrap := by decide
  unfold State.evict
  dsimp only
  split
  · exact .refl
  · refine WriteFrame.trans (.of_fields rfl) (.foldl _ fun t l => ?_)
    split
    · exact (State.squash_writeFrame c t _ _).trans (.bump _ (.inl (counterReg_of_wrapReg hm).1))
    · exact State.squash_writeFrame c t _ _

theorem State.dropLines_writeFrame (pa n : Nat) : WriteFrame c s (s.dropLines pa n) := State.evict_writeFrame c s _

theorem State.dropHome_writeFrame (home n : Nat) : WriteFrame c s (s.dropHome home n) :=
  WriteFrame.trans (.of_fields rfl) (State.dropLines_writeFrame c _ home n)

theorem State.claim_writeFrame (job : BitVec 16) (u : Nat) : WriteFrame c s (s.claim job u) := by
  unfold State.claim
  generalize Mem.setBytes s.mem (64 * u) (zeros 64) = m
  split
  · exact .refl
  · exact .of_fields rfl

theorem State.markWrite_writeFrame (pa n : Nat) (bad : Bool) : WriteFrame c s (s.markWrite pa n bad) := by
  refine .foldl _ fun t u => ?_
  split
  · exact .of_fields rfl
  · split <;> exact .of_fields rfl

theorem State.ramWrite_writeFrame (job : BitVec 16) (pa : Nat) (bs : List Byte) (bad : Bool) : WriteFrame c s (s.ramWrite job pa bs bad) := by
  unfold State.ramWrite
  refine .trans ?_ (.trans (.of_fields rfl) ((State.markWrite_writeFrame c _ pa _ bad).trans (State.dropLines_writeFrame c _ pa _)))
  split
  · exact .foldl _ fun t u => State.claim_writeFrame c t job u
  · exact .refl

theorem State.overwrites_writeFrame (job : BitVec 16) (cmd pa n : Nat) : WriteFrame c s (s.overwrites job cmd pa n) := by
  unfold State.overwrites
  split <;> exact .of_fields rfl

theorem State.enqueueAt_writeFrame (p : Nat) (m : Msg) : WriteFrame c s (s.enqueueAt p m) := by
  unfold State.enqueueAt State.setEgress State.flowFills
  dsimp only
  split <;> exact .of_fields rfl

variable {c s}

theorem State.sendRouted_writeFrame {t : State} {m : Msg} {inPort : Option Nat} (h : s.sendRouted m inPort = .ok t) : WriteFrame c s t := by
  unfold State.sendRouted at h
  repeat' split at h
  all_goals cases h
  exact State.enqueueAt_writeFrame c s _ _

theorem State.request_writeFrame {t : State} {r : Req} {typ : Byte} {cls : BitVec 3} {poison : Bool} {payload : List Byte}
    (h : s.request r typ cls poison payload = .ok t) : WriteFrame c s t := by
  unfold State.request at h
  dsimp only at h
  split at h
  · cases h
  · next u hu =>
    cases h
    exact (State.sendRouted_writeFrame hu).trans (.of_fields rfl)

variable (c s)

/-- A failed write is recorded in the issuing core and beside the commands. -/
theorem State.failedWrite_writeFrame (cmd : Nat) (peer : BitVec 16) (code : Byte) : WriteFrame c s (s.failedWrite c.core cmd peer code) := by
  have hset : WriteFrame c s (s.setCore c.core { s.core c.core with writeFailed := some peer }) := by
    refine ⟨rfl, fun m hm => State.core_setCore_other _ _ hm, ?_, fun a _ _ _ _ _ => State.reg_setCore _ _ _ _⟩
    rw [State.core_setCore_same]
  unfold State.failedWrite
  dsimp only
  split
  · exact hset
  · exact hset.trans (.of_fields rfl)

theorem State.poolWrite_writeFrame (job : BitVec 16) (cmd : Nat) (cls : BitVec 3) (va pa : Nat) (bs : List Byte) (bad : Bool) :
    WriteFrame c s (s.poolWrite c.core job cmd cls va pa bs bad) := by
  unfold State.poolWrite
  split
  · exact State.failedWrite_writeFrame c s _ _ _
  · exact (State.overwrites_writeFrame c s _ _ _ _).trans (State.ramWrite_writeFrame c _ _ _ _ _)
  · refine (State.dropHome_writeFrame c s _ _).trans (.foldl _ fun t e => ?_)
    split
    · next u hu => exact State.request_writeFrame hu
    · exact State.failedWrite_writeFrame c t _ _ _

theorem State.writePiece_writeFrame (a : Agent) (cls : BitVec 3) (va pa : Nat) (bs : List Byte) (bad : Bool) :
    WriteFrame c s (s.writePiece a c.core cls va pa bs bad) := by
  unfold State.writePiece
  split
  case h_1 => exact State.poolWrite_writeFrame c s _ _ _ _ _ _ _
  case h_5 => exact (State.overwrites_writeFrame c s _ _ _ _).trans (State.ramWrite_writeFrame c _ _ _ _ _)
  all_goals exact .refl

/-- A fault is recorded in HUB_MMU_FAULT of the group of the command's job (R248). -/
theorem State.reg_mmuFault (job : BitVec 16) (agent : Nat) (f : MemFail) {a : Nat}
    (h : ∀ j, s.job job = some j → a ≠ Reg.hubMmuFault j.group) : (s.mmuFault job agent f).reg a = s.reg a := by
  unfold State.mmuFault State.groupOfJob
  cases hj : s.job job with
  | none => rfl
  | some j =>
    dsimp only [Option.map_some]
    split
    · exact State.reg_setReg_other _ _ (h j hj)
    · rfl

theorem State.mmuFault_regsOnly (job : BitVec 16) (agent : Nat) (f : MemFail) : RegsOnly s (s.mmuFault job agent f) := by
  unfold State.mmuFault
  split
  · exact .refl
  · split
    · exact RegsOnly.refl.setReg _ _
    · exact .refl

theorem State.mmuFault_writeFrame (agent : Nat) (f : MemFail) : WriteFrame c s (s.mmuFault c.job agent f) := by
  have hf := State.mmuFault_regsOnly s c.job agent f
  have hc : (s.mmuFault c.job agent f).cores = s.cores := by rw [hf]
  refine ⟨?_, fun m _ => State.core_congr hc m, ?_, fun a _ _ hj _ _ => State.reg_mmuFault s _ _ _ hj⟩
  · rw [hf]
  · rw [State.core_congr hc]

/-- An engine's write for command c (R247). -/
theorem State.store_writeFrame (a : Agent) (ha : a.job = c.job) (cls : BitVec 3) (va : Nat) (bs : List Byte) (bad : Bool) :
    WriteFrame c s (s.store a c.core cls va bs bad) := by
  unfold State.store
  split
  · next f _ =>
    have hm : WriteFrame c s (s.mmuFault a.job a.cls f) := ha ▸ State.mmuFault_writeFrame c s a.cls f
    dsimp only
    split
    · exact hm
    · exact hm.trans (.of_fields rfl)
  · exact .foldl_fst _ fun q e => State.writePiece_writeFrame c q.1 a cls _ _ _ bad

end

end Sys2Proof.Machine
end

section
/-!
PROOFS. The start of an engine command (O11, first part): R31, R77, R78, R183.
-/

namespace Sys2Proof.Machine

/-- The command as it starts at a time. -/
def Cmd.begun (c : Cmd) (now : Word) : Cmd := { c with phase := .started, started := now }

/-- What the start checks of command c find. -/
def State.startFinds (s : State) (c : Cmd) : StartResult := (s.setCmd (c.begun s.now)).startCheck c.agent (c.begun s.now)

/-- From s to t command c becomes e; beside the commands only a Zinnia slot that loads and HUB_MMU_FAULT of the job's group may change. -/
def StartsAs (s t : State) (c e : Cmd) : Prop :=
  t = { s with eff := t.eff, vocab := t.vocab, grammar := t.grammar, cmds := t.cmds } ∧ t.cmd c.id = some e ∧
  (∀ j, j ≠ c.id → t.cmd j = s.cmd j) ∧ ∀ a, (∀ j, s.job c.job = some j → a ≠ Reg.hubMmuFault j.group) → t.reg a = s.reg a

/-- What a command that starts does at once: a load of Zinnia's takes its slot, a merge of Clematis sets MERGING. -/
def State.goesOn (t : State) (c : Cmd) : State :=
  match c.cls, cmdOpcode c.word with
  | 6, _ => t.zinBegin c
  | 2, 4 => t.beginMerge c
  | _, _ => t

theorem exec_commandStart {id : Nat} {ext : Ext} {s : State} {c : Cmd} (hc : s.cmd id = some c) (hs : s.startable c = true) :
    exec (.commandStart id ext) s = .next (s.begin c) := by
  show execCommandStart id ext s = _
  unfold execCommandStart
  rw [hc]
  exact if_pos hs

section
variable {s : State} {c e : Cmd}

/-! ### The outcomes of the start checks -/

theorem State.begin_waits {f : MemFail} (h : s.startFinds c = .fail f) (hf : f.awaits ≠ []) : s.begin c = s.fetch c c.cls3 f.awaits := by
  unfold State.startFinds Cmd.begun at h
  unfold State.begin
  dsimp only
  rw [h]
  dsimp only
  rw [if_pos (by simpa using hf)]

theorem State.begin_fails {f : MemFail} (h : s.startFinds c = .fail f) (hf : f.awaits = []) (hm : c.mayWrite = none ∨ f.isFault = false) :
    s.begin c = ((s.setCmd (c.begun s.now)).mmuFault c.job c.cls f).setCmd { c.begun s.now with phase := .done f.code 0 } := by
  have hstop : (c.mayWrite.isSome && f.isFault) = false := by rcases hm with hm | hm <;> simp [hm]
  unfold State.startFinds Cmd.begun at h
  unfold State.begin
  dsimp only
  rw [h]
  dsimp only
  rw [if_neg (by simp [hf]), if_neg (by rw [hstop]; decide)]
  unfold State.failWork State.stopWork
  rw [hf]
  dsimp only
  rw [if_neg (by rw [hstop]; decide)]
  rfl

theorem State.begin_done (h : s.startFinds c = .zero) : s.begin c = s.setCmd { c.begun s.now with phase := .done 0 0 } := by
  unfold State.startFinds Cmd.begun at h
  unfold State.begin
  dsimp only
  rw [h]
  exact State.setCmd_setCmd rfl

section
variable {ds : List (Nat × List Byte)} (h : s.startFinds c = .go ds)
include h

theorem State.begin_stopped (hw : ({ c.begun s.now with descs := ds } : Cmd).writesOutside = true) :
    s.begin c = ((s.setCmd (c.begun s.now)).kernelStopped { c.begun s.now with descs := ds }).setCmd
      { c.begun s.now with descs := ds, phase := .done 0 0 } := by
  unfold State.startFinds Cmd.begun at h
  unfold State.begin
  dsimp only
  rw [h]
  exact if_pos hw

theorem State.begin_goes (hw : ({ c.begun s.now with descs := ds } : Cmd).writesOutside = false) :
    s.begin c = (s.setCmd { c.begun s.now with descs := ds }).goesOn { c.begun s.now with descs := ds } := by
  unfold State.startFinds Cmd.begun at h
  unfold State.begin
  dsimp only
  rw [h]
  exact (if_neg (Bool.eq_false_iff.mp hw)).trans
    (congrArg (fun t : State => t.goesOn { c.begun s.now with descs := ds }) (State.setCmd_setCmd rfl))

end

theorem State.goesOn_merge (t : State) (h2 : c.cls = 2) (h4 : cmdOpcode c.word = 4) : t.goesOn c = t.beginMerge c := by
  unfold State.goesOn
  rw [h2, h4]
  rfl

/-- A command that is no merge, once it goes on, may have taken a slot. -/
theorem State.goesOn_fields (t : State) (h : ¬(c.cls = 2 ∧ cmdOpcode c.word = 4)) :
    t.goesOn c = { t with vocab := (t.goesOn c).vocab, grammar := (t.goesOn c).grammar } := by
  unfold State.goesOn
  split
  · unfold State.zinBegin
    split
    · split <;> rfl
    · split <;> rfl
    · rfl
  · next h2 h4 => exact absurd ⟨h2, h4⟩ h
  · rfl

/-- A command without a slot of its own to write in may write anywhere. -/
theorem Cmd.writesOutside_of_free (h : c.mayWrite = none) : c.writesOutside = false := by
  unfold Cmd.writesOutside
  rw [h]

theorem State.startFinds_nop (h : cmdOpcode c.word = 0) : s.startFinds c = .go [] := if_pos h

/-! ### What the command becomes -/

section
variable {d : Cmd} (hd : s.cmd c.id = some d) (he : e.id = c.id)
include hd he

theorem State.cmd_written (j : Nat) : (s.setCmd e).cmd j = if j = c.id then some e else s.cmd j := he ▸ State.cmd_setCmd (he ▸ hd) j

/-- The command is written, and beside it only what `StartsAs` allows. -/
theorem StartsAs.of_setCmd : StartsAs s (s.setCmd e) c e := by
  refine ⟨rfl, ?_, fun j hj => ?_, fun a _ => State.reg_congr rfl a⟩
  · rw [State.cmd_written hd he, if_pos rfl]
  · rw [State.cmd_written hd he, if_neg hj]

theorem StartsAs.goesOn (h : ¬(e.cls = 2 ∧ cmdOpcode e.word = 4)) : StartsAs s ((s.setCmd e).goesOn e) c e := by
  obtain ⟨-, hc, hj, hr⟩ := StartsAs.of_setCmd hd he
  have hf := State.goesOn_fields (s.setCmd e) h
  have hcmds : ((s.setCmd e).goesOn e).cmds = (s.setCmd e).cmds := by rw [hf]
  have hcmd (j : Nat) : ((s.setCmd e).goesOn e).cmd j = (s.setCmd e).cmd j := congrArg (List.find? _) hcmds
  refine ⟨?_, (hcmd _).trans hc, fun j hne => (hcmd j).trans (hj j hne), fun a _ => State.reg_congr (by rw [hf]; rfl) a⟩
  rw [hf]
  rfl

/-- A command that fails records its fault. -/
theorem StartsAs.mmuFault {b : Cmd} (hb : b.id = c.id) (agent : Nat) (f : MemFail) :
    StartsAs s (((s.setCmd b).mmuFault c.job agent f).setCmd e) c e := by
  have hf := State.mmuFault_regsOnly (s.setCmd b) c.job agent f
  have hcmds : (((s.setCmd b).mmuFault c.job agent f).setCmd e).cmds = (s.setCmd e).cmds := by
    rw [← State.setCmd_setCmd (s := s) (hb.trans he.symm), hf]
    rfl
  have hcmd (j : Nat) : (((s.setCmd b).mmuFault c.job agent f).setCmd e).cmd j = (s.setCmd e).cmd j := congrArg (List.find? _) hcmds
  obtain ⟨-, hc, hj, -⟩ := StartsAs.of_setCmd hd he
  refine ⟨?_, (hcmd _).trans hc, fun j hne => (hcmd j).trans (hj j hne), fun a ha => State.reg_mmuFault (s.setCmd b) _ _ _ ha⟩
  rw [hf]
  rfl

end

/-- A kernel command that may not write where it would ends, its batch stopped (R183). -/
theorem State.kernelStopped_spec (s : State) (d : Cmd) : s.kernelStopped d = { s with sessions := (s.kernelStopped d).sessions } := by
  unfold State.kernelStopped
  split <;> rfl

end

/-! ### COMMAND_START -/

section
variable {s : State} {c : Cmd} (ext : Ext) (hc : s.cmd c.id = some c) (hs : s.startable c = true)
include hc hs

theorem commandStart_nop (h0 : cmdOpcode c.word = 0) (hm : c.mayWrite = none) :
    ∃ t, exec (.commandStart c.id ext) s = .next t ∧ StartsAs s t c { c.begun s.now with descs := [] } := by
  have hb := State.begin_goes (s := s) (State.startFinds_nop h0) (Cmd.writesOutside_of_free hm)
  refine ⟨_, (exec_commandStart hc hs).trans (congrArg _ hb), StartsAs.goesOn hc rfl fun h => ?_⟩
  exact absurd (h0.symm.trans h.2) (by decide)

theorem commandStart_fails {f : MemFail} (hf : s.startFinds c = .fail f) (ha : f.awaits = []) (hm : c.mayWrite = none ∨ f.isFault = false) :
    ∃ t, exec (.commandStart c.id ext) s = .next t ∧ StartsAs s t c { c.begun s.now with phase := .done f.code 0 } := by
  refine ⟨_, (exec_commandStart hc hs).trans (congrArg _ (State.begin_fails hf ha hm)), StartsAs.mmuFault hc ?_ ?_ _ _⟩ <;> rfl

theorem commandStart_done (hz : s.startFinds c = .zero) :
    ∃ t, exec (.commandStart c.id ext) s = .next t ∧ StartsAs s t c { c.begun s.now with phase := .done 0 0 } :=
  ⟨_, (exec_commandStart hc hs).trans (congrArg _ (State.begin_done hz)), StartsAs.of_setCmd hc rfl⟩

section
variable {ds : List (Nat × List Byte)} (hg : s.startFinds c = .go ds)
include hg

theorem commandStart_goes (hw : ({ c.begun s.now with descs := ds } : Cmd).writesOutside = false) (hn : ¬(c.cls = 2 ∧ cmdOpcode c.word = 4)) :
    ∃ t, exec (.commandStart c.id ext) s = .next t ∧ StartsAs s t c { c.begun s.now with descs := ds } :=
  ⟨_, (exec_commandStart hc hs).trans (congrArg _ (State.begin_goes hg hw)), StartsAs.goesOn hc rfl hn⟩

/-- A kernel command that would write outside its batch's slot ends, its session alone changing beside it (R183). -/
theorem commandStart_stopped (hw : ({ c.begun s.now with descs := ds } : Cmd).writesOutside = true) :
    ∃ t, exec (.commandStart c.id ext) s = .next t ∧ t = { s with sessions := t.sessions, cmds := t.cmds } ∧
      t.cmd c.id = some { c.begun s.now with descs := ds, phase := .done 0 0 } ∧ ∀ j, j ≠ c.id → t.cmd j = s.cmd j := by
  have hx := State.begin_stopped hg hw
  generalize he : ({ c.begun s.now with descs := ds, phase := .done 0 0 } : Cmd) = e at hx ⊢
  have hid : e.id = c.id := he ▸ rfl
  generalize hd : ({ c.begun s.now with descs := ds } : Cmd) = d at hx
  have hk := State.kernelStopped_spec (s.setCmd (c.begun s.now)) d
  have hcmds : (((s.setCmd (c.begun s.now)).kernelStopped d).setCmd e).cmds = (s.setCmd e).cmds := by
    rw [← State.setCmd_setCmd (s := s) (d := c.begun s.now) hid.symm, hk]
    rfl
  have hcmd (j : Nat) : (((s.setCmd (c.begun s.now)).kernelStopped d).setCmd e).cmd j = (s.setCmd e).cmd j := congrArg (List.find? _) hcmds
  obtain ⟨-, hce, hj, -⟩ := StartsAs.of_setCmd hc hid
  refine ⟨_, (exec_commandStart hc hs).trans (congrArg _ hx), ?_, (hcmd _).trans hce, fun j hne => (hcmd j).trans (hj j hne)⟩
  rw [hk]
  rfl

/-- A merge of Clematis sets MERGING in its destination as it starts (Table 6.1). -/
theorem commandStart_merge (h2 : c.cls = 2) (h4 : cmdOpcode c.word = 4) (hm : c.mayWrite = none) :
    ∃ t, exec (.commandStart c.id ext) s = .next t ∧ EngineFrame s t c ∧ t.cmd c.id = some { c.begun s.now with descs := ds } ∧
      t.mem = ((s.setCmd { c.begun s.now with descs := ds }).store c.agent c.core c.cls3 (c.n 16 8 + 80) [1] false).mem := by
  have hb := (State.begin_goes hg (Cmd.writesOutside_of_free hm)).trans (State.goesOn_merge _ h2 h4)
  have hf := State.store_writeFrame c (s.setCmd { c.begun s.now with descs := ds }) c.agent rfl c.cls3 (c.n 16 8 + 80) [1] false
  obtain ⟨-, hce, -, -⟩ := StartsAs.of_setCmd (e := { c.begun s.now with descs := ds }) hc rfl
  exact ⟨_, (exec_commandStart hc hs).trans (congrArg _ hb), hf.engineFrame, (congrArg (List.find? _) hf.cmds).trans hce, rfl⟩

end

end

end Sys2Proof.Machine
end

section
/-!
SUPPORT. Stem queues: what decides of a put, and a unit's put (R260–R263).
-/

namespace Sys2Proof.Machine

/-- The configuration of the stem queues reads the same in t as in s: STM_QCFG of each queue, the owner of every number that holds words,
the quotas. -/
structure KeepsQueueCfg (s t : State) : Prop where
  cfg : ∀ q < 4096, t.reg (Reg.stmQcfg q) = s.reg (Reg.stmQcfg q)
  owner : ∀ q, t.qOwner q = s.qOwner q
  quota : ∀ p < 16, t.reg (Reg.stmPartQuota p) = s.reg (Reg.stmPartQuota p)

section
variable {s t u : State}

theorem KeepsQueueCfg.refl : KeepsQueueCfg s s := ⟨fun _ _ => rfl, fun _ => rfl, fun _ _ => rfl⟩

theorem KeepsQueueCfg.of_eff (h : t.eff = s.eff) : KeepsQueueCfg s t :=
  ⟨fun _ _ => State.reg_congr h _, fun _ => congrArg (fld · 12 4) (State.reg_congr h _), fun _ _ => State.reg_congr h _⟩

theorem KeepsQueueCfg.trans (h : KeepsQueueCfg s t) (hu : KeepsQueueCfg t u) : KeepsQueueCfg s u :=
  ⟨fun q hq => (hu.cfg q hq).trans (h.cfg q hq), fun q => (hu.owner q).trans (h.owner q), fun p hp => (hu.quota p hp).trans (h.quota p hp)⟩

/-- Registers below the STM_ window's quotas do not configure queues. -/
theorem KeepsQueueCfg.of_low (h : ∀ a, 0x900100 ≤ a → t.reg a = s.reg a) : KeepsQueueCfg s t :=
  ⟨fun q _ => h _ (by unfold Reg.stmQcfg; omega), fun q => congrArg (fld · 12 4) (h _ (by unfold Reg.stmQcfg; omega)),
    fun p _ => h _ (by unfold Reg.stmPartQuota; omega)⟩

section
variable (hj : t.jobs = s.jobs)
include hj

theorem State.isLive_congr (id : BitVec 16) : t.isLive id = s.isLive id := by
  unfold State.isLive State.job
  rw [hj]

variable (h : KeepsQueueCfg s t)
include h

theorem KeepsQueueCfg.qBound {q : Nat} (hq : q < 4096) : t.qBound q = s.qBound q := by
  unfold State.qBound State.qKind State.qPutJob State.qGetJob State.regFld
  rw [h.cfg q hq, State.isLive_congr hj, State.isLive_congr hj]

theorem KeepsQueueCfg.boundPut {q : Nat} (hq : q < 4096) (job : BitVec 16) : t.boundPut q job = s.boundPut q job := by
  unfold State.boundPut State.qKind State.qPutJob State.regFld
  rw [h.cfg q hq, State.isLive_congr hj]

theorem KeepsQueueCfg.hasRoom (hst : t.stem = s.stem) {q : Nat} (hq : q < 4096) : t.hasRoom q = s.hasRoom q := by
  have hown : s.qOwner q < 16 := fld_lt _ _ _
  have hcells : t.cellsOf (s.qOwner q) = s.cellsOf (s.qOwner q) := by
    unfold State.cellsOf
    simp only [hst, h.owner]
  unfold State.hasRoom State.queue State.cellsUsed State.qCap State.regFld
  dsimp only
  rw [KeepsQueueCfg.qBound hj h hq, hst, h.cfg q hq, h.owner q, hcells, h.quota _ hown]

end

end

section
variable (s : State) (q : Nat) (w : QWord)

theorem wrapReg_stmDiscard : wrapReg Reg.stmDiscard = some Reg.stmCntWrap := by decide

theorem State.queue_setQueue_same (x : StemQ) : (s.setQueue q x).queue q = x := SMap.get_set_same _ _ _ _

/-- A unit's put enters its queue, waits in its line, or is discarded and counted. -/
theorem State.unitPut_fields : s.unitPut q w = { s with eff := (s.unitPut q w).eff, stem := (s.unitPut q w).stem } := by
  unfold State.unitPut State.acceptWord
  dsimp only
  split
  · rw [State.bump_fields]
  · split
    · split
      · rfl
      · rw [State.bump_fields]
    · rfl

theorem State.unitPut_keepsRegs : KeepsRegs [Reg.stmDiscard, Reg.stmCntWrap] s (s.unitPut q w) := by
  have hbump : KeepsRegs [Reg.stmDiscard, Reg.stmCntWrap] s (s.bump Reg.stmDiscard 1) := fun a ha => by
    simp only [List.mem_cons, List.not_mem_nil, or_false, not_or] at ha
    exact State.reg_bump_of_wrapReg wrapReg_stmDiscard s 1 ha.1 ha.2
  unfold State.unitPut State.acceptWord
  dsimp only
  split
  · exact hbump
  · split
    · split
      · exact fun a _ => State.reg_congr rfl a
      · exact hbump
    · exact fun a _ => State.reg_congr rfl a

theorem State.unitPut_keepsButCounters : KeepsButCounters s (s.unitPut q w) := fun a ha => State.unitPut_keepsRegs s q w a fun hm => by
  obtain ⟨hd, hw⟩ := counterReg_of_wrapReg wrapReg_stmDiscard
  simp only [List.mem_cons, List.not_mem_nil, or_false] at hm
  rcases hm with rfl | rfl
  exacts [ha hd, ha hw]

variable {s q}

/-- The word of a put that need not wait stands last in its queue. -/
theorem State.words_unitPut (hb : s.qBound q = true) (hw : (s.queue q).waiting = []) (hr : s.hasRoom q = true) :
    ((s.unitPut q w).queue q).words = (s.queue q).words ++ [w] := by
  unfold State.unitPut State.acceptWord
  dsimp only
  rw [hb, hw, hr]
  exact congrArg StemQ.words (State.queue_setQueue_same s q _)

end

end Sys2Proof.Machine
end

section
/-!
PROOFS. The completion of an engine command (O11): R79, R102, R247.
-/

namespace Sys2Proof.Machine

/-! ### The status word (Table 3.11) -/

theorem cmdTag_lt (word : List Byte) : cmdTag word < 2 ^ 16 := Nat.mod_lt _ (Nat.two_pow_pos 16)

theorem cmdNotifyQ_lt (word : List Byte) : cmdNotifyQ word < 4096 := Nat.mod_lt _ (Nat.two_pow_pos 12)

/-- RESULT, TAG, DONE set and the code, from the top. -/
theorem statusWord_eq {tag : Nat} (h : tag < 2 ^ 16) (code : Byte) (result : BitVec 32) :
    statusWord tag code result = result ++ BitVec.ofNat 16 tag ++ (1 : BitVec 8) ++ code := by
  apply BitVec.eq_of_toNat_eq
  have hc := code.isLt
  have hr := result.isLt
  have h1 : (1 : BitVec 8).toNat = 1 := rfl
  unfold statusWord
  rw [BitVec.toNat_append, BitVec.toNat_append, BitVec.toNat_append, ← Nat.shiftLeft_add_eq_or_of_lt (by omega),
    ← Nat.shiftLeft_add_eq_or_of_lt (by decide), ← Nat.shiftLeft_add_eq_or_of_lt (BitVec.isLt _), BitVec.toNat_ofNat, BitVec.toNat_ofNat]
  simp only [Nat.shiftLeft_eq, h1]
  omega

/-! ### Counts of a completion -/

/-- Registers alone change from s to t, and of those only counters, so that neither HUB_NUMF_STICKY's flags nor the queues' configuration
notice. -/
structure CountsBeside (s t : State) : Prop where
  regs : RegsOnly s t
  keeps : KeepsButCounters s t
  queues : KeepsQueueCfg s t
  flags : ∀ b < 8, (t.reg Reg.hubNumfSticky).getLsbD b = (s.reg Reg.hubNumfSticky).getLsbD b

theorem CountsBeside.refl {s : State} : CountsBeside s s := ⟨rfl, fun _ _ => rfl, .refl, fun _ _ => rfl⟩

/-- A count in a register that configures no queue, its WRAPPED bit below a queue's owner and no numeric flag. -/
theorem CountsBeside.bump {s : State} {a c i : Nat} (n : Nat) (h : wrapBit a = some (c, i)) (hi : i < 12) (ha : a ≠ Reg.hubNumfSticky)
    (hc : c = Reg.hubNumfSticky → 8 ≤ i) (haq : ∀ q, a ≠ Reg.stmQcfg q) (hcq : ∀ q < 4096, c ≠ Reg.stmQcfg q)
    (hp : ∀ p < 16, a ≠ Reg.stmPartQuota p ∧ c ≠ Reg.stmPartQuota p) : CountsBeside s (s.bump a n) where
  regs := RegsOnly.refl.bump a n
  keeps b hb := KeepsBut.bump (as := []) .refl n (wrapReg_of_wrapBit h) b hb List.not_mem_nil
  queues :=
    ⟨fun q hq => State.reg_bump_of_wrapReg (wrapReg_of_wrapBit h) s n (haq q).symm (hcq q hq).symm,
      fun q => State.regFld_bump h n (haq q).symm fun _ => .inl hi,
      fun p hp' => State.reg_bump_of_wrapReg (wrapReg_of_wrapBit h) s n (hp p hp').1.symm (hp p hp').2.symm⟩
  flags b hb := State.getLsbD_reg_bump h n ha.symm fun he => by
    have := hc he.symm
    omega

theorem wrapBit_hubNumfNan : wrapBit Reg.hubNumfNan = some (Reg.hubNumfSticky, 8) := by decide

theorem wrapBit_zinMaskLate : wrapBit Reg.zinMaskLate = some (Reg.zinCntWrap, 3) := by decide

theorem wrapBit_dbgPartCnt_one : ∀ p : Fin 16, wrapBit (Reg.dbgPartCnt p 1) = some (Reg.dbgPartWrap p, 1) := by decide

/-- A count of reported NaNs (R103). -/
theorem State.countNan_beside (s : State) : CountsBeside s (s.bump Reg.hubNumfNan 1) := by
  refine .bump 1 wrapBit_hubNumfNan (by decide) (by decide) (by decide) (fun q => ?_) (fun q _ => ?_) fun p _ => ⟨?_, ?_⟩
  all_goals simp only [Reg.hubNumfNan, Reg.hubNumfSticky, Reg.stmQcfg, Reg.stmPartQuota]; omega

/-- A count of commands completed in a partition (Table 18.1). -/
theorem State.countCompleted_beside (s : State) (n : CoreId) : CountsBeside s (s.bump (Reg.dbgPartCnt (partOfCore n) 1) 1) := by
  refine .bump 1 (wrapBit_dbgPartCnt_one ⟨_, partOfCore_lt n⟩) (by decide) ?_ (fun he => ?_) (fun q => ?_) (fun q _ => ?_) fun p _ => ⟨?_, ?_⟩
  on_goal 2 => exfalso; revert he
  all_goals simp only [Reg.dbgPartCnt, Reg.dbgPartWrap, Reg.hubNumfSticky, Reg.stmQcfg, Reg.stmPartQuota]; omega

theorem State.maskTime_beside (s : State) (c : Cmd) : CountsBeside s (s.maskTime c) := by
  unfold State.maskTime
  split
  · refine .bump 1 wrapBit_zinMaskLate (by decide) (by decide) (by decide) (fun q => ?_) (fun q _ => ?_) fun p _ => ⟨?_, ?_⟩
    all_goals simp only [Reg.zinMaskLate, Reg.zinCntWrap, Reg.stmQcfg, Reg.stmPartQuota]; omega
  · exact .refl

/-! ### Numeric flags (R102) -/

/-- Registers alone change from s to t: counters, and HUB_NUMF_STICKY takes the numeric flags of a RESULT. -/
structure TakesFlags (s t : State) (result : BitVec 32) : Prop where
  regs : RegsOnly s t
  keeps : KeepsBut [Reg.hubNumfSticky] s t
  queues : KeepsQueueCfg s t
  flags : ∀ b < 8, (t.reg Reg.hubNumfSticky).getLsbD b = ((s.reg Reg.hubNumfSticky).getLsbD b || (decide (0 < b) && result.getLsbD (24 + b)))

theorem TakesFlags.counts {s t u : State} {result : BitVec 32} (h : TakesFlags s t result) (hu : CountsBeside t u) : TakesFlags s u result where
  regs := by
    unfold RegsOnly
    rw [hu.regs, h.regs]
  keeps a hn ha := (hu.keeps a hn).trans (h.keeps a hn ha)
  queues := h.queues.trans hu.queues
  flags b hb := (hu.flags b hb).trans (h.flags b hb)

/-- Bits [31:25] of RESULT, one place up: bit b is bit 24 + b of RESULT, bit 0 clear. -/
theorem getLsbD_flags (result : BitVec 32) {b : Nat} (hb : b < 8) :
    (BitVec.ofNat 64 (fld (BitVec.setWidth 64 result) 25 7 * 2)).getLsbD b = (decide (0 < b) && result.getLsbD (24 + b)) := by
  rw [BitVec.getLsbD_ofNat, decide_eq_true (show b < 64 by omega), Bool.true_and]
  cases b with
  | zero => simp
  | succ b =>
    rw [Nat.testBit_succ, Nat.mul_div_cancel _ Nat.two_pos, testBit_fld, BitVec.getLsbD_setWidth, decide_eq_true (show b < 7 by omega),
      decide_eq_true (show 25 + b < 64 by omega), decide_eq_true (show 0 < b + 1 by omega), show 24 + (b + 1) = 25 + b by omega]
    simp

theorem State.numericEvents_takesFlags (s : State) (result : BitVec 32) : TakesFlags s (s.numericEvents result) result := by
  have hset : TakesFlags s (if fld (BitVec.setWidth 64 result) 25 7 = 0 then s else s.setReg Reg.hubNumfSticky
      (s.reg Reg.hubNumfSticky ||| BitVec.ofNat 64 (fld (BitVec.setWidth 64 result) 25 7 * 2))) result := by
    split
    · next h0 =>
      refine ⟨rfl, .refl, .refl, fun b hb => ?_⟩
      rw [← getLsbD_flags result hb, h0]
      simp
    · refine ⟨rfl, fun a _ ha => State.reg_setReg_other _ _ fun he => ha (List.mem_singleton.mpr he), .of_low fun a ha => ?_, fun b hb => ?_⟩
      · exact State.reg_setReg_other _ _ (by unfold Reg.hubNumfSticky; omega)
      · rw [State.reg_setReg_same, BitVec.getLsbD_or, getLsbD_flags result hb]
  unfold State.numericEvents
  dsimp only
  split
  · exact hset.counts (State.countNan_beside _)
  · exact hset

end Sys2Proof.Machine
end

section
/-!
PROOFS. What a completion reports to the issuing core (O11, second part): R79, Table 18.1.
-/

namespace Sys2Proof.Machine

/-! ### The completion slot -/

/-- The status word stands in its slot where core n still runs the command's job. -/
def State.inSlot (s : State) (n : CoreId) (job : BitVec 16) (slot : Nat) (st : Word) : State :=
  if (s.core n).job = job then s.setCore n ((s.core n).setSlot slot (.done st)) else s

/-- From s to t the status word comes to stand in core n's slot, if the core still runs the job; the cores hold all else as before. -/
structure ShowsDone (n : CoreId) (job : BitVec 16) (slot : Nat) (st : Word) (s t : State) : Prop where
  others : KeepsCores n s t
  core : t.core n = { s.core n with slots := (t.core n).slots }
  slots : ∀ j, (t.core n).slot j = if j = slot ∧ (s.core n).job = job then .done st else (s.core n).slot j

section
variable {s t u : State} {n : CoreId} {job : BitVec 16} {slot : Nat} {st : Word}

theorem ShowsDone.of_source (h : ShowsDone n job slot st s t) (hu : s.cores = u.cores) : ShowsDone n job slot st u t where
  others m hm := (h.others m hm).trans (State.core_congr hu m)
  core := State.core_congr hu n ▸ h.core
  slots j := State.core_congr hu n ▸ h.slots j

theorem ShowsDone.of_target (h : ShowsDone n job slot st s t) (hu : u.cores = t.cores) : ShowsDone n job slot st s u where
  others m hm := (State.core_congr hu m).trans (h.others m hm)
  core := State.core_congr hu n ▸ h.core
  slots j := State.core_congr hu n ▸ h.slots j

variable (s n job slot st)

theorem State.inSlot_fields : s.inSlot n job slot st = { s with cores := (s.inSlot n job slot st).cores } := by
  unfold State.inSlot
  split <;> rfl

theorem State.inSlot_shows : ShowsDone n job slot st s (s.inSlot n job slot st) := by
  unfold State.inSlot
  split
  · next hj =>
    refine ⟨fun m hm => State.core_setCore_other s _ hm, by rw [State.core_setCore_same]; rfl, fun j => ?_⟩
    rw [State.core_setCore_same]
    refine (SMap.get_set Slot.free (s.core n).slots slot j (.done st)).trans ?_
    simp only [hj, and_true]
    rfl
  · next hj => exact ⟨fun _ _ => rfl, rfl, fun j => (if_neg fun h => hj h.2).symm⟩

theorem State.traceTagged_fields (p : Nat) (unit : BitVec 16) (event status : Byte) (tag : BitVec 16) (arg0 arg1 : Word) :
    s.traceTagged p unit event status job tag arg0 arg1 = { s with trace := (s.traceTagged p unit event status job tag arg0 arg1).trace } := by
  unfold State.traceTagged
  dsimp only
  split <;> rfl

end

/-! ### The report of a command's end -/

/-- A finished command before its notify word: traced, its status word in the slot, counted. -/
def State.counted (s : State) (n : CoreId) (job : BitVec 16) (unit : BitVec 16) (started : Word) (word : List Byte) (status : Byte)
    (result : BitVec 32) : State :=
  let st := statusWord (cmdTag word) status result
  ((s.traceTagged (partOfCore n) unit 0x02 status job (BitVec.ofNat 16 (cmdTag word)) st started).inSlot n job (cmdSlot word) st).bump
    (Reg.dbgPartCnt (partOfCore n) 1) 1

/-- From s to t a command of core n and a job has ended with a status word: the word stands in its slot, the notify word in its queue, and
beside them only counters and the trace change. -/
structure Reports (n : CoreId) (job : BitVec 16) (word : List Byte) (st : Word) (s t : State) : Prop where
  fields : t = { s with eff := t.eff, cores := t.cores, stem := t.stem, trace := t.trace }
  keeps : KeepsButCounters s t
  flags : ∀ b < 8, (t.reg Reg.hubNumfSticky).getLsbD b = (s.reg Reg.hubNumfSticky).getLsbD b
  shows : ShowsDone n job (cmdSlot word) st s t
  told : cmdNotifyEn word = true → s.boundPut (cmdNotifyQ word) job = true → s.qBound (cmdNotifyQ word) = true →
    (s.queue (cmdNotifyQ word)).waiting = [] → s.hasRoom (cmdNotifyQ word) = true →
    (t.queue (cmdNotifyQ word)).words = (s.queue (cmdNotifyQ word)).words ++ [notifyWord st (cmdSlot word) n]
  untold : cmdNotifyEn word = false ∨ s.boundPut (cmdNotifyQ word) job = false → t.stem = s.stem

section
variable (s : State) (n : CoreId) (job : BitVec 16) (unit : BitVec 16) (started : Word) (word : List Byte) (status : Byte) (result : BitVec 32)

theorem State.finish_eq : s.finish n job unit started word status result =
    if cmdNotifyEn word && (s.counted n job unit started word status result).boundPut (cmdNotifyQ word) job then
      (s.counted n job unit started word status result).unitPut (cmdNotifyQ word)
        (notifyWord (statusWord (cmdTag word) status result) (cmdSlot word) n)
    else s.counted n job unit started word status result := rfl

theorem State.counted_fields : s.counted n job unit started word status result =
    { s with eff := (s.counted n job unit started word status result).eff, cores := (s.counted n job unit started word status result).cores
             trace := (s.counted n job unit started word status result).trace } := by
  unfold State.counted
  dsimp only
  rw [State.bump_fields, State.inSlot_fields, State.traceTagged_fields]

theorem State.counted_beside : ∃ u : State, u.eff = s.eff ∧ CountsBeside u (s.counted n job unit started word status result) := by
  refine ⟨_, ?_, State.countCompleted_beside _ n⟩
  rw [State.inSlot_fields, State.traceTagged_fields]

theorem State.counted_shows :
    ShowsDone n job (cmdSlot word) (statusWord (cmdTag word) status result) s (s.counted n job unit started word status result) := by
  unfold State.counted
  dsimp only
  generalize hu : s.traceTagged _ _ _ _ _ _ _ _ = u
  refine (u.inSlot_shows n job _ _).of_source ?_ |>.of_target ?_
  · rw [← hu, State.traceTagged_fields]
  · rw [State.bump_fields]

/-- A command's end is reported as R79 says: the put of the notify word finds the queues as they were before the count. -/
theorem State.finish_reports :
    Reports n job word (statusWord (cmdTag word) status result) s (s.finish n job unit started word status result) := by
  obtain ⟨u, hu, h⟩ := State.counted_beside s n job unit started word status result
  have hf := State.counted_fields s n job unit started word status result
  have hshows := State.counted_shows s n job unit started word status result
  have hcfg := (KeepsQueueCfg.of_eff hu).trans h.queues
  rw [State.finish_eq]
  generalize s.counted n job unit started word status result = v at h hf hshows hcfg ⊢
  have hjobs : v.jobs = s.jobs := by rw [hf]
  have hstem : v.stem = s.stem := by rw [hf]
  have hq := cmdNotifyQ_lt word
  have hkeeps : KeepsButCounters s v := fun a ha => (h.keeps a ha).trans (State.reg_congr hu a)
  have hflags : ∀ b < 8, (v.reg Reg.hubNumfSticky).getLsbD b = (s.reg Reg.hubNumfSticky).getLsbD b := fun b hb => by
    rw [h.flags b hb, State.reg_congr hu]
  rw [hcfg.boundPut hjobs hq]
  split
  · next hput =>
    obtain ⟨he, hp⟩ := Bool.and_eq_true_iff.mp hput
    have hput := State.unitPut_fields v (cmdNotifyQ word) (notifyWord (statusWord (cmdTag word) status result) (cmdSlot word) n)
    refine ⟨?_, fun a ha => (State.unitPut_keepsButCounters v _ _ a ha).trans (hkeeps a ha), fun b hb => ?_, hshows.of_target ?_,
      fun _ _ hb hw hr => ?_, fun hn => absurd hn (by simp [he, hp])⟩
    · rw [hput, hf]
    · rw [State.unitPut_keepsRegs v _ _ _ (by decide), hflags b hb]
    · rw [hput]
    · have hqueue : v.queue (cmdNotifyQ word) = s.queue (cmdNotifyQ word) := congrArg (SMap.get _ · _) hstem
      rw [State.words_unitPut _ ((hcfg.qBound hjobs hq).trans hb) (by rw [hqueue, hw]) ((hcfg.hasRoom hjobs hstem hq).trans hr), hqueue]
  · next hput =>
    refine ⟨?_, hkeeps, hflags, hshows, fun he hp => absurd (Bool.and_eq_true_iff.mpr ⟨he, hp⟩) hput, fun _ => hstem⟩
    rw [hf]

end

end Sys2Proof.Machine
end

section
/-!
PROOFS. The end of an engine command (O11, second part): R77, R79, R180, R247.
-/

namespace Sys2Proof.Machine

/-- The code a command completes with: that of a failed write of its own takes the place of 0x00 (R247). -/
def State.endCode (s : State) (c : Cmd) (status : Byte) : Byte := if status = 0 then (SMap.find s.writeFail c.id).getD 0 else status

/-- From s to t command id leaves its queue, with what its writes did; beside counters, HUB_NUMF_STICKY takes the numeric flags of a RESULT. -/
structure Leaves (id : Nat) (result : BitVec 32) (s t : State) : Prop where
  gone : t.cmd id = none
  others : ∀ j, j ≠ id → t.cmd j = s.cmd j
  noFail : SMap.find t.writeFail id = none
  noOld : ∀ o ∈ t.old, o.cmd ≠ id + 1
  flags : ∀ b < 8, (t.reg Reg.hubNumfSticky).getLsbD b = ((s.reg Reg.hubNumfSticky).getLsbD b || (decide (0 < b) && result.getLsbD (24 + b)))
  keeps : ∀ a, a ≠ Reg.hubNumfSticky → ¬ CounterReg a → t.reg a = s.reg a

section
variable {s t u : State} {c : Cmd} {id : Nat} {status : Byte} {result : BitVec 32}

theorem TakesFlags.dropCmd (h : TakesFlags s t result) (id : Nat) : Leaves id result s (t.dropCmd id) where
  gone := by rw [State.cmd_dropCmd, if_pos rfl]
  others j hj := by
    rw [State.cmd_dropCmd, if_neg hj, h.regs]
    rfl
  noFail := (SMap.find_erase _ _ _).trans (if_pos rfl)
  noOld o ho := by simpa using (List.mem_filter.mp ho).2
  flags := h.flags
  keeps a hn ha := h.keeps a ha fun hm => hn (List.mem_singleton.mp hm)

/-- What happens beside the commands and those registers does not undo it. -/
theorem Leaves.beside (h : Leaves id result s t) (hc : u.cmds = t.cmds) (hw : u.writeFail = t.writeFail) (ho : u.old = t.old)
    (hf : ∀ b < 8, (u.reg Reg.hubNumfSticky).getLsbD b = (t.reg Reg.hubNumfSticky).getLsbD b) (hk : KeepsButCounters t u) :
    Leaves id result s u where
  gone := (congrArg (List.find? _) hc).trans h.gone
  others j hj := (congrArg (List.find? _) hc).trans (h.others j hj)
  noFail := hw ▸ h.noFail
  noOld := ho ▸ h.noOld
  flags b hb := (hf b hb).trans (h.flags b hb)
  keeps a hn ha := (hk a ha).trans (h.keeps a hn ha)

variable (s c status result)

/-- Command c, its numeric flags and its time counted, has left its queue. -/
def State.left (s : State) (c : Cmd) (result : BitVec 32) : State := ((s.numericEvents result).maskTime c).dropCmd c.id

theorem State.counts_takesFlags : TakesFlags s ((s.numericEvents result).maskTime c) result :=
  (State.numericEvents_takesFlags s result).counts (State.maskTime_beside _ c)

theorem State.left_leaves : Leaves c.id result s (s.left c result) := (State.counts_takesFlags s c result).dropCmd c.id

theorem State.left_fields : s.left c result =
    { s with eff := (s.left c result).eff, cmds := (s.left c result).cmds, writeFail := (s.left c result).writeFail
             old := (s.left c result).old, rowWork := (s.left c result).rowWork, rowReads := (s.left c result).rowReads } := by
  unfold State.left
  rw [(State.counts_takesFlags s c result).regs]
  rfl

theorem State.left_queues : KeepsQueueCfg s (s.left c result) := (State.counts_takesFlags s c result).queues.trans (.of_eff rfl)

theorem State.kernelDone_fields (code : Byte) : s.kernelDone c code = { s with sessions := (s.kernelDone c code).sessions } := by
  unfold State.kernelDone
  split <;> rfl

/-! ### A kernel command reports to Aster (R180) -/

theorem State.complete_kernel (h : c.session ≠ 0) : s.complete c status result = (s.left c result).kernelDone c (s.endCode c status) := if_neg h

theorem State.complete_kernel_leaves (h : c.session ≠ 0) : Leaves c.id result s (s.complete c status result) := by
  have hk := State.kernelDone_fields (s.left c result) c (s.endCode c status)
  rw [State.complete_kernel s c status result h]
  refine (State.left_leaves s c result).beside ?_ ?_ ?_ (fun b _ => ?_) fun a _ => State.reg_congr ?_ a
  on_goal 4 => rw [State.reg_congr]
  all_goals rw [hk]

theorem State.complete_kernel_fields (h : c.session ≠ 0) : s.complete c status result =
    { s with eff := (s.complete c status result).eff, cmds := (s.complete c status result).cmds
             writeFail := (s.complete c status result).writeFail, old := (s.complete c status result).old
             rowWork := (s.complete c status result).rowWork, rowReads := (s.complete c status result).rowReads
             sessions := (s.complete c status result).sessions } := by
  rw [State.complete_kernel s c status result h, State.kernelDone_fields, State.left_fields]

/-! ### Another command reports to its core (R79) -/

section
variable (h : c.session = 0)
include h

theorem State.complete_core_reports : Reports c.core c.job c.word (statusWord (cmdTag c.word) (s.endCode c status) result) (s.left c result)
    (s.complete c status result) := by
  have hf : s.complete c status result = (s.left c result).finish c.core c.job (s.engineUnit c.cls c.inst) c.started c.word
    (s.endCode c status) result := if_pos h
  exact hf ▸ State.finish_reports _ _ _ _ _ _ _ _

theorem State.complete_core_leaves : Leaves c.id result s (s.complete c status result) := by
  have hr := State.complete_core_reports s c status result h
  refine (State.left_leaves s c result).beside ?_ ?_ ?_ hr.flags hr.keeps
  all_goals rw [hr.fields]

theorem State.complete_core_fields : s.complete c status result =
    { s with eff := (s.complete c status result).eff, cores := (s.complete c status result).cores, cmds := (s.complete c status result).cmds
             writeFail := (s.complete c status result).writeFail, old := (s.complete c status result).old
             rowWork := (s.complete c status result).rowWork, rowReads := (s.complete c status result).rowReads
             stem := (s.complete c status result).stem, trace := (s.complete c status result).trace } := by
  rw [(State.complete_core_reports s c status result h).fields, State.left_fields]

theorem State.complete_core_shows : ShowsDone c.core c.job (cmdSlot c.word) (statusWord (cmdTag c.word) (s.endCode c status) result) s
    (s.complete c status result) :=
  (State.complete_core_reports s c status result h).shows.of_source (by rw [State.left_fields])

theorem State.complete_core_told (he : cmdNotifyEn c.word = true) (hp : s.boundPut (cmdNotifyQ c.word) c.job = true)
    (hb : s.qBound (cmdNotifyQ c.word) = true) (hw : (s.queue (cmdNotifyQ c.word)).waiting = []) (hr : s.hasRoom (cmdNotifyQ c.word) = true) :
    ((s.complete c status result).queue (cmdNotifyQ c.word)).words = (s.queue (cmdNotifyQ c.word)).words ++
      [notifyWord (statusWord (cmdTag c.word) (s.endCode c status) result) (cmdSlot c.word) c.core] := by
  have hq := cmdNotifyQ_lt c.word
  have hcfg := State.left_queues s c result
  have hl := State.left_fields s c result
  have hjobs : (s.left c result).jobs = s.jobs := by rw [hl]
  have hstem : (s.left c result).stem = s.stem := by rw [hl]
  have hqueue : (s.left c result).queue (cmdNotifyQ c.word) = s.queue (cmdNotifyQ c.word) := congrArg (SMap.get _ · _) hstem
  have ht := (State.complete_core_reports s c status result h).told he
  rw [hcfg.boundPut hjobs hq, hcfg.qBound hjobs hq, hcfg.hasRoom hjobs hstem hq, hqueue] at ht
  exact ht hp hb hw hr

theorem State.complete_core_untold (hn : cmdNotifyEn c.word = false ∨ s.boundPut (cmdNotifyQ c.word) c.job = false) :
    (s.complete c status result).stem = s.stem := by
  have hl := State.left_fields s c result
  refine ((State.complete_core_reports s c status result h).untold (hn.imp_right fun hp => ?_)).trans (by rw [hl])
  rwa [(State.left_queues s c result).boundPut (by rw [hl]) (cmdNotifyQ_lt _)]

end

end

/-! ### COMMAND_COMPLETE and ENGINE_NOP -/

section
variable {s : State} {c : Cmd} (hc : s.cmd c.id = some c) (hs : s.stopped = false) (hf : s.fatal = false)
include hc hs hf

theorem exec_commandComplete {status : Byte} {result : BitVec 32} (hw : s.writesOpen c.id = false) (hr : s.rowsOpen c = false)
    (hp : c.phase = .done status result) : exec (.commandComplete c.id) s = .next (s.complete c status result) := by
  show execCommandComplete c.id s = _
  simp [execCommandComplete, hc, hp, hs, hf, hw, hr]

theorem exec_engineNop (hp : c.phase = .started) (hu : c.suspended = false) (h0 : cmdOpcode c.word = 0) :
    exec (.engineNop c.id) s = .next (s.complete c 0 0) := by
  show execEngineNop c.id s = _
  simp [execEngineNop, hc, hp, hs, hf, hu, h0]

end

/-- Settles O11: a start is the outcome of its checks; a completion is the command's leaving, then its report. -/
theorem commandsStartAndComplete : Obligations.CommandsStartAndComplete := by
  refine ⟨fun id ext c s hc hs => ?_, fun id c s hc hs hf hw hr => ?_⟩
  · obtain rfl := State.cmd_id hc
    exact ⟨commandStart_nop ext hc hs, fun f => commandStart_fails ext hc hs,
      fun f hf ha => (exec_commandStart hc hs).trans (congrArg _ (State.begin_waits hf ha)), commandStart_done ext hc hs,
      fun ds => commandStart_goes ext hc hs, fun ds => commandStart_stopped ext hc hs, fun ds => commandStart_merge ext hc hs⟩
  · obtain rfl := State.cmd_id hc
    intro done
    have hdone (i : Instr) (status : Byte) (result : BitVec 32) (hi : exec i s = .next (s.complete c status result)) : done i status result := by
      unfold done
      dsimp only
      rw [← statusWord_eq (cmdTag_lt c.word)]
      refine ⟨fun h => ?_, fun h => ?_⟩
      · obtain ⟨h1, h2, h3, h4, h5, h6⟩ := State.complete_kernel_leaves s c status result h
        exact ⟨_, hi, ⟨h1, h2, h3, h4, h5, h6⟩, State.complete_kernel_fields s c status result h⟩
      · obtain ⟨h1, h2, h3, h4, h5, h6⟩ := State.complete_core_leaves s c status result h
        obtain ⟨ho, hcore, hslots⟩ := State.complete_core_shows s c status result h
        exact ⟨_, hi, ⟨h1, h2, h3, h4, h5, h6⟩, State.complete_core_fields s c status result h, ho, hcore, hslots,
          State.complete_core_told s c status result h, State.complete_core_untold s c status result h⟩
    exact ⟨fun status result hp => hdone _ _ _ (exec_commandComplete hc hs hf hw hr hp),
      fun hp hu h0 => hdone _ _ _ (exec_engineNop hc hs hf hp hu h0)⟩

end Sys2Proof.Machine
end

section
/-!
SUPPORT. Issuing: what an instruction whose guard holds leaves when it writes a register or a predicate, or only goes on.
-/

namespace Sys2Proof.Machine

/-- A further change of core n alone, a move of its program counter included. -/
theorem OnlyCore.advance {n : CoreId} {s t : State} (h : OnlyCore n s t) (hpc : (t.core n).pc ≠ lastPc) : OnlyCore n s (t.advance n) := by
  rw [State.advance_inside t n hpc]
  exact h.setCore _

theorem State.core_advance {t : State} {n : CoreId} (hpc : (t.core n).pc ≠ lastPc) :
    (t.advance n).core n = { t.core n with pc := (t.core n).pc + 4 } := by
  rw [State.advance_inside t n hpc, State.core_setCore_same]

theorem Core.pc_setG (k : Core) (rd : GReg) (v : Word) : (k.setG rd v).pc = k.pc := by rw [Core.setG_fields]

theorem Core.pc_setP (k : Core) (pd : PReg) (v : Bool) : (k.setP pd v).pc = k.pc := by rw [Core.setP_fields]

section
variable {s : State} {n : CoreId} {gd : Guard} {kind : AheadKind} {i : Instr}

/-- An instruction that writes f of the state to rd, f computed where only the issue has been counted. -/
theorem WritesG.of_issue {rd : GReg} {f : State → Word} {v : Word} (h : Ready s n gd kind) (hk : kind ≠ .load)
    (hi : exec i s = .next (s.issue n gd kind true fun t => t.writeG n rd (f t)))
    (hv : ∀ u, u.core n = s.issued n false → OnlyCore n s u → f u = v) : WritesG i s n rd v := by
  obtain ⟨u, hu, hcore, honly⟩ := State.issue_ready h fun t => t.writeG n rd (f t)
  rw [decide_eq_false hk] at hcore
  have hpc : ((u.setCore n ((u.core n).setG rd (f u))).core n).pc ≠ lastPc := by
    rw [State.core_setCore_same, Core.pc_setG, hcore]
    exact h.inside
  refine ⟨_, hi.trans (congrArg _ hu), (honly.setCore _).advance hpc, ?_, fun r => ?_⟩
  · rw [State.writeG, State.core_advance hpc, State.core_setCore_same, Core.setG_fields, hcore]
    rfl
  · rw [State.writeG, State.core_advance hpc, State.core_setCore_same, ← hv u hcore honly, hcore]
    exact Core.greg_setG _ _ _ _

/-- An instruction that writes f of the state to pd. -/
theorem WritesP.of_issue {pd : PReg} {f : State → Bool} {v : Bool} (h : Ready s n gd kind) (hk : kind ≠ .load)
    (hi : exec i s = .next (s.issue n gd kind true fun t => t.writeP n pd (f t)))
    (hv : ∀ u, u.core n = s.issued n false → OnlyCore n s u → f u = v) : WritesP i s n pd v := by
  obtain ⟨u, hu, hcore, honly⟩ := State.issue_ready h fun t => t.writeP n pd (f t)
  rw [decide_eq_false hk] at hcore
  have hpc : ((u.setCore n ((u.core n).setP pd (f u))).core n).pc ≠ lastPc := by
    rw [State.core_setCore_same, Core.pc_setP, hcore]
    exact h.inside
  refine ⟨_, hi.trans (congrArg _ hu), (honly.setCore _).advance hpc, ?_, fun r => ?_⟩
  · rw [State.writeP, State.core_advance hpc, State.core_setCore_same, Core.setP_fields, hcore]
    rfl
  · rw [State.writeP, State.core_advance hpc, State.core_setCore_same, ← hv u hcore honly, hcore]
    exact Core.pred_setP _ _ _ _

/-- An instruction without an effect of its own. -/
theorem GoesOn.of_issue (h : Ready s n gd kind) (hk : kind ≠ .load) (hi : exec i s = .next (s.issue n gd kind true fun t => t.advance n)) :
    GoesOn i s n := by
  obtain ⟨u, hu, hcore, honly⟩ := State.issue_ready h fun t => t.advance n
  rw [decide_eq_false hk] at hcore
  have hpc : (u.core n).pc ≠ lastPc := by rw [hcore]; exact h.inside
  refine ⟨_, hi.trans (congrArg _ hu), honly.advance hpc, ?_⟩
  rw [State.core_advance hpc, hcore]
  rfl

@[simp] theorem State.greg_issued (load : Bool) (r : GReg) : (s.issued n load).greg r = (s.core n).greg r := rfl

@[simp] theorem State.pred_issued (load : Bool) (r : PReg) : (s.issued n load).pred r = (s.core n).pred r := rfl

/-- An ALU instruction. -/
theorem WritesG.of_aluOp {rd : GReg} {f : Core → Word} {v : Word} (h : Ready s n gd .plain) (hi : exec i s = aluOp n gd rd true f s)
    (hv : f (s.issued n false) = v) : WritesG i s n rd v :=
  .of_issue h (by decide) hi fun u hu _ => by rw [hu, hv]

/-- An ALU instruction of one register. -/
theorem WritesG.of_unary {rd rs1 : GReg} (f : Word → Word) {v : Word} (h : Ready s n gd .plain)
    (hi : exec i s = aluOp n gd rd true (fun k => f (k.greg rs1)) s) (hv : f ((s.core n).greg rs1) = v) : WritesG i s n rd v :=
  .of_aluOp h hi (by rw [State.greg_issued, hv])

/-- An ALU instruction of two registers. -/
theorem WritesG.of_binary {rd rs1 rs2 : GReg} (f : Word → Word → Word) {v : Word} (h : Ready s n gd .plain)
    (hi : exec i s = aluOp n gd rd true (fun k => f (k.greg rs1) (k.greg rs2)) s)
    (hv : f ((s.core n).greg rs1) ((s.core n).greg rs2) = v) : WritesG i s n rd v :=
  .of_aluOp h hi (by rw [State.greg_issued, State.greg_issued, hv])

/-- A predicate instruction. -/
theorem WritesP.of_predOp {pd : PReg} {f : Core → Bool} {v : Bool} (h : Ready s n gd .plain) (hi : exec i s = predOp n gd pd true f s)
    (hv : f (s.issued n false) = v) : WritesP i s n pd v :=
  .of_issue h (by decide) hi fun u hu _ => by rw [hu, hv]

end

end Sys2Proof.Machine
end

section
/-!
PROOFS. The results of the ALU, of the immediate forms and of the constants (O1): R55, R56, Table 3.4.
-/

namespace Sys2Proof.Machine

/-! ### Table 3.4 -/

section
variable (a b : Word)

theorem aluAdd_eq : aluAdd a b = BitVec.ofNat 64 (a.toNat + b.toNat) := by
  rw [BitVec.ofNat_add, BitVec.ofNat_toNat, BitVec.ofNat_toNat, BitVec.setWidth_eq, BitVec.setWidth_eq]; rfl

theorem aluSub_eq : aluSub a b = BitVec.ofInt 64 (a.toInt - b.toInt) := by
  rw [Int.sub_eq_add_neg, BitVec.ofInt_add, BitVec.ofInt_neg, BitVec.ofInt_toInt, BitVec.ofInt_toInt]
  exact BitVec.sub_eq_add_neg a b

theorem aluMul_eq : aluMul a b = BitVec.ofNat 64 (a.toNat * b.toNat) := by
  rw [BitVec.ofNat_mul, BitVec.ofNat_toNat, BitVec.ofNat_toNat, BitVec.setWidth_eq, BitVec.setWidth_eq]; rfl

/-- The signed comparison may be put either way, as equal values are one. -/
theorem aluMin_eq : aluMin a b = if a.toInt ≤ b.toInt then a else b := by
  simp only [aluMin, BitVec.slt_iff_toInt_lt]
  rcases Int.lt_trichotomy a.toInt b.toInt with h | h | h
  · rw [if_pos h, if_pos h.le]
  · rw [BitVec.eq_of_toInt_eq h, ite_self, ite_self]
  · rw [if_neg h.not_gt, if_neg h.not_ge]

theorem aluMax_eq : aluMax a b = if a.toInt ≤ b.toInt then b else a := by
  simp only [aluMax, BitVec.slt_iff_toInt_lt]
  rcases Int.lt_trichotomy a.toInt b.toInt with h | h | h
  · rw [if_pos h, if_pos h.le]
  · rw [BitVec.eq_of_toInt_eq h, ite_self, ite_self]
  · rw [if_neg h.not_gt, if_neg h.not_ge]

theorem aluMinu_eq : aluMinu a b = if a.toNat ≤ b.toNat then a else b := by
  simp only [aluMinu, BitVec.ult_iff_lt, BitVec.lt_def]
  rcases Nat.lt_trichotomy a.toNat b.toNat with h | h | h
  · rw [if_pos h, if_pos h.le]
  · rw [BitVec.eq_of_toNat_eq h, ite_self, ite_self]
  · rw [if_neg h.not_gt, if_neg h.not_ge]

theorem aluMaxu_eq : aluMaxu a b = if a.toNat ≤ b.toNat then b else a := by
  simp only [aluMaxu, BitVec.ult_iff_lt, BitVec.lt_def]
  rcases Nat.lt_trichotomy a.toNat b.toNat with h | h | h
  · rw [if_pos h, if_pos h.le]
  · rw [BitVec.eq_of_toNat_eq h, ite_self, ite_self]
  · rw [if_neg h.not_gt, if_neg h.not_ge]

end

/-! ### Immediates (R55) -/

section
variable (a : Word) (imm : BitVec 12)

theorem imm12_eq : imm12 imm = BitVec.ofInt 64 imm.toInt := rfl

theorem add_imm12 : a + imm12 imm = BitVec.ofInt 64 (a.toInt + imm.toInt) := by
  rw [BitVec.ofInt_add, BitVec.ofInt_toInt, imm12_eq]

/-- SHI's selector and amount as the instruction's bits. -/
theorem shiftImm_cases :
    (imm.extractLsb' 6 2 = 0 → shiftImm a imm = a <<< (imm.toNat % 64)) ∧ (imm.extractLsb' 6 2 = 1 → shiftImm a imm = a >>> (imm.toNat % 64)) ∧
    (imm.extractLsb' 6 2 = 2 → shiftImm a imm = a.sshiftRight (imm.toNat % 64)) ∧
    (imm.extractLsb' 6 2 = 3 → shiftImm a imm = a.rotateRight (imm.toNat % 64)) := by
  unfold shiftImm
  rw [fld_eq_extractLsb' imm 6 2]
  refine ⟨fun h => ?_, fun h => ?_, fun h => ?_, fun h => ?_⟩ <;> rw [h] <;> rfl

end

theorem WritesG.shi {s : State} {c : CoreId} {gd : Guard} {rd rs1 : GReg} {imm : BitVec 12} (h : Ready s c gd .plain)
    (h0 : imm.extractLsb' 8 4 = 0) : WritesG (.shi c gd rd rs1 imm) s c rd (shiftImm ((s.core c).greg rs1) imm) := by
  have hz : fld imm 8 4 = 0 := by rw [fld_eq_extractLsb', h0]; rfl
  refine .of_unary (fun a => shiftImm a imm) h ?_ rfl
  show aluOp c gd rd (decide (fld imm 8 4 = 0)) (fun k => shiftImm (k.greg rs1) imm) s = _
  rw [decide_eq_true hz]

/-! ### Constants (R56) -/

theorem movz_eq (hw : Bool) (k : BitVec 16) :
    BitVec.setWidth 64 k <<< (16 * b2n hw) = BitVec.ofNat 64 (k.toNat * 2 ^ (if hw then 16 else 0)) := by
  have he : 16 * b2n hw = if hw then 16 else 0 := by cases hw <;> rfl
  rw [he]
  generalize (if hw then 16 else 0) = e
  apply BitVec.eq_of_toNat_eq
  rw [BitVec.toNat_shiftLeft, BitVec.toNat_setWidth_of_le (by decide), BitVec.toNat_ofNat, Nat.shiftLeft_eq]

section
variable {s : State} {c : CoreId} {gd : Guard} {rd : GReg} {hw : Bool} {k : BitVec 16} (h : Ready s c gd .plain)
include h

theorem WritesG.movz : WritesG (.movz c gd rd hw k) s c rd (BitVec.ofNat 64 (k.toNat * 2 ^ (if hw then 16 else 0))) :=
  .of_aluOp (f := fun _ => BitVec.setWidth 64 k <<< (16 * b2n hw)) h rfl (movz_eq hw k)

theorem WritesG.movkL : WritesG (.movkL c gd rd hw k) s c rd (setFld ((s.core c).greg rd) (16 * b2n hw) 16 k.toNat) :=
  .of_unary (fun a => setFld a (16 * b2n hw) 16 k.toNat) h rfl rfl

theorem WritesG.movkH : WritesG (.movkH c gd rd hw k) s c rd (setFld ((s.core c).greg rd) (16 * b2n hw + 32) 16 k.toNat) :=
  .of_unary (fun a => setFld a (16 * b2n hw + 32) 16 k.toNat) h rfl rfl

end

/-- A half-word of a register replaced: its bits from the constant, the others as they were. -/
theorem getLsbD_setFld_halfword (a : Word) (k : BitVec 16) {lo : Nat} (hlo : lo + 16 ≤ 64) (j : Nat) :
    (setFld a lo 16 k.toNat).getLsbD j = if lo ≤ j ∧ j < lo + 16 then k.getLsbD (j - lo) else a.getLsbD j := by
  rw [getLsbD_setFld, BitVec.testBit_toNat]
  exact if_congr (by omega) rfl rfl

/-- Settles O1: every form is `aluOp` of its result. -/
theorem aluResults : Obligations.AluResults := by
  unfold Obligations.AluResults
  refine ⟨fun c gd rd rs1 rs2 s h => ?_, fun c gd rd rs1 imm s h => ?_⟩
  · exact ⟨.of_binary aluAdd h rfl (aluAdd_eq _ _), .of_binary aluSub h rfl (aluSub_eq _ _), .of_binary aluAnd h rfl rfl,
      .of_binary aluOr h rfl rfl, .of_binary aluXor h rfl rfl, .of_binary aluSll h rfl rfl, .of_binary aluSrl h rfl rfl,
      .of_binary aluSra h rfl rfl, .of_binary aluMul h rfl (aluMul_eq _ _), .of_binary aluMulh h rfl rfl, .of_binary aluMulhu h rfl rfl,
      .of_binary aluMin h rfl (aluMin_eq _ _), .of_binary aluMax h rfl (aluMax_eq _ _), .of_binary aluMinu h rfl (aluMinu_eq _ _),
      .of_binary aluMaxu h rfl (aluMaxu_eq _ _)⟩
  · obtain ⟨hshl, hshr, hsar, hror⟩ := shiftImm_cases ((s.core c).greg rs1) imm
    refine ⟨.of_unary (· + imm12 imm) h rfl (add_imm12 _ _), .of_unary (· &&& imm12 imm) h rfl rfl, .of_unary (· ||| imm12 imm) h rfl rfl,
      .of_unary (· ^^^ imm12 imm) h rfl rfl, ?_, ?_, ?_, ?_, fun hw k => ?_⟩
    · exact fun h0 hsel => hshl hsel ▸ .shi h h0
    · exact fun h0 hsel => hshr hsel ▸ .shi h h0
    · exact fun h0 hsel => hsar hsel ▸ .shi h h0
    · exact fun h0 hsel => hror hsel ▸ .shi h h0
    · refine ⟨.movz h, ⟨_, .movkL h, fun j _ => ?_⟩, _, .movkH h, fun j _ => ?_⟩
      · cases hw <;> exact getLsbD_setFld_halfword _ _ (by decide) j
      · cases hw <;> exact getLsbD_setFld_halfword _ _ (by decide) j

end Sys2Proof.Machine
end

section
/-!
PROOFS. Comparisons, predicate logic, NOP, TIME and COREID (O2): Tables 3.5 and 3.6, R73.
-/

namespace Sys2Proof.Machine

/-! ### Conditions (Table 3.5, R57) -/

/-- Each defined condition code by its condition. -/
theorem condHolds_eq {cc : BitVec 3} (h : cc.toNat ≤ 5) (a b : Word) :
    condHolds cc a b = decide ((cc = 0 ∧ a = b) ∨ (cc = 1 ∧ a ≠ b) ∨ (cc = 2 ∧ a.toInt < b.toInt) ∨ (cc = 3 ∧ b.toInt ≤ a.toInt) ∨
      (cc = 4 ∧ a.toNat < b.toNat) ∨ (cc = 5 ∧ b.toNat ≤ a.toNat)) := by
  have hcases : ∀ cc : BitVec 3, cc.toNat ≤ 5 → cc = 0 ∨ cc = 1 ∨ cc = 2 ∨ cc = 3 ∨ cc = 4 ∨ cc = 5 := by decide
  rcases hcases cc h with rfl | rfl | rfl | rfl | rfl | rfl
  · rw [Bool.eq_iff_iff]; simp [condHolds]
  · rw [Bool.eq_iff_iff]; simp [condHolds]
  · rw [Bool.eq_iff_iff]; simp [condHolds, BitVec.slt_iff_toInt_lt]
  · rw [Bool.eq_iff_iff]; simp [condHolds, BitVec.slt_eq_decide]
  · rw [Bool.eq_iff_iff]; simp [condHolds, BitVec.ult_iff_lt, BitVec.lt_def]
  · rw [Bool.eq_iff_iff]; simp [condHolds, BitVec.ult_eq_decide]

/-- FN names a condition by its low three bits. -/
theorem setWidth_three_eq_iff : ∀ fn : BitVec 7, fn.toNat ≤ 5 →
    (BitVec.setWidth 3 fn = 0 ↔ fn = 0) ∧ (BitVec.setWidth 3 fn = 1 ↔ fn = 1) ∧ (BitVec.setWidth 3 fn = 2 ↔ fn = 2) ∧
    (BitVec.setWidth 3 fn = 3 ↔ fn = 3) ∧ (BitVec.setWidth 3 fn = 4 ↔ fn = 4) ∧ (BitVec.setWidth 3 fn = 5 ↔ fn = 5) := by decide

theorem toNat_setWidth_three {fn : BitVec 7} (h : fn.toNat ≤ 5) : (BitVec.setWidth 3 fn).toNat = fn.toNat :=
  (BitVec.toNat_setWidth 3 fn).trans (Nat.mod_eq_of_lt (by omega))

theorem condHolds_setWidth {fn : BitVec 7} (h : fn.toNat ≤ 5) (a b : Word) :
    condHolds (BitVec.setWidth 3 fn) a b = decide ((fn = 0 ∧ a = b) ∨ (fn = 1 ∧ a ≠ b) ∨ (fn = 2 ∧ a.toInt < b.toInt) ∨
      (fn = 3 ∧ b.toInt ≤ a.toInt) ∨ (fn = 4 ∧ a.toNat < b.toNat) ∨ (fn = 5 ∧ b.toNat ≤ a.toNat)) := by
  obtain ⟨h0, h1, h2, h3, h4, h5⟩ := setWidth_three_eq_iff fn h
  rw [condHolds_eq (by rw [toNat_setWidth_three h]; exact h)]
  simp only [h0, h1, h2, h3, h4, h5]

theorem predLogic_eq {fn : BitVec 7} (h : fn.toNat ≤ 3) (a b : Bool) :
    predLogic fn a b = decide ((fn = 0 ∧ a = true ∧ b = true) ∨ (fn = 1 ∧ (a = true ∨ b = true)) ∨ (fn = 2 ∧ a ≠ b) ∨
      (fn = 3 ∧ a = true ∧ b = false)) := by
  have hcases : ∀ fn : BitVec 7, fn.toNat ≤ 3 → fn = 0 ∨ fn = 1 ∨ fn = 2 ∨ fn = 3 := by decide
  rcases hcases fn h with rfl | rfl | rfl | rfl <;> cases a <;> cases b <;> rfl

theorem upperZero_of_extract {r : GReg} (h : r.extractLsb' 3 2 = 0) : upperZero r = true := by
  rw [upperZero, fld_eq_extractLsb', h]
  rfl

theorem low3_eq (r : GReg) : low3 r = r.extractLsb' 0 3 := BitVec.setWidth_eq_extractLsb' (by decide)

/-! ### The instructions -/

section
variable {s : State} {c : CoreId} {gd : Guard} (h : Ready s c gd .plain)
include h

theorem WritesP.cmp {rd rs1 rs2 : GReg} {fn : BitVec 7} (hrd : rd.extractLsb' 3 2 = 0) (hfn : fn.toNat ≤ 5) :
    WritesP (.cmp c gd rd rs1 rs2 fn) s c (rd.extractLsb' 0 3)
      (condHolds (BitVec.setWidth 3 fn) ((s.core c).greg rs1) ((s.core c).greg rs2)) := by
  have hupper : fld fn 3 4 = 0 := by
    rw [fld, bitsOf, Nat.shiftRight_eq_div_pow]
    omega
  have hcc : condOk (BitVec.setWidth 3 fn) = true := decide_eq_true (by rw [toNat_setWidth_three hfn]; omega)
  refine .of_predOp (f := fun k => condHolds (BitVec.setWidth 3 fn) (k.greg rs1) (k.greg rs2)) h ?_
    (by simp only [State.greg_issued])
  show predOp c gd (low3 rd) (upperZero rd && decide (fld fn 3 4 = 0) && condOk (BitVec.setWidth 3 fn))
    (fun k => condHolds (BitVec.setWidth 3 fn) (k.greg rs1) (k.greg rs2)) s = _
  rw [upperZero_of_extract hrd, decide_eq_true hupper, hcc, low3_eq]
  rfl

theorem WritesP.cmpi {cc : BitVec 3} {pd : PReg} {rs1 : GReg} {imm : BitVec 11} (hcc : cc.toNat ≤ 5) :
    WritesP (.cmpi c gd cc pd rs1 imm) s c pd (condHolds cc ((s.core c).greg rs1) (BitVec.ofInt 64 imm.toInt)) := by
  have hok : condOk cc = true := decide_eq_true (by omega)
  refine .of_predOp (f := fun k => condHolds cc (k.greg rs1) (BitVec.signExtend 64 imm)) h ?_
    (by simp only [State.greg_issued]; rfl)
  show predOp c gd pd (condOk cc) (fun k => condHolds cc (k.greg rs1) (BitVec.signExtend 64 imm)) s = _
  rw [hok]

theorem WritesP.plog {rd rs1 rs2 : GReg} {fn : BitVec 7} (hrd : rd.extractLsb' 3 2 = 0) (h1 : rs1.extractLsb' 3 2 = 0)
    (h2 : rs2.extractLsb' 3 2 = 0) (hfn : fn.toNat ≤ 3) :
    WritesP (.plog c gd rd rs1 rs2 fn) s c (rd.extractLsb' 0 3)
      (predLogic fn ((s.core c).pred (rs1.extractLsb' 0 3)) ((s.core c).pred (rs2.extractLsb' 0 3))) := by
  have hok : fn.toNat < 4 := by omega
  refine .of_predOp (f := fun k => predLogic fn (k.pred (low3 rs1)) (k.pred (low3 rs2))) h ?_ (by simp only [State.pred_issued, low3_eq])
  show predOp c gd (low3 rd) (upperZero rd && upperZero rs1 && upperZero rs2 && decide (fn.toNat < 4))
    (fun k => predLogic fn (k.pred (low3 rs1)) (k.pred (low3 rs2))) s = _
  rw [upperZero_of_extract hrd, upperZero_of_extract h1, upperZero_of_extract h2, decide_eq_true hok, low3_eq]
  rfl

theorem WritesG.time {rd : GReg} : WritesG (.time c gd rd 0 0 0) s c rd s.now :=
  .of_issue (f := State.now) h (by decide) rfl fun u _ hu => by rw [hu.1]

theorem WritesG.coreid {rd : GReg} : WritesG (.coreid c gd rd 0 0 0) s c rd (s.identity c) := by
  refine .of_issue (f := fun t => t.identity c) h (by decide) rfl fun u hcore hu => ?_
  have hid : Reg.fjlModuleId ∉ issueRegs c := by
    have := partOfCore_lt c
    simp only [issueRegs, List.mem_cons, List.not_mem_nil, or_false, Reg.fjlModuleId, Reg.dbgPartCnt, Reg.dbgPartWrap]
    omega
  rw [State.identity, State.moduleId, State.regFld, hu.2.2.1 _ hid, hcore]
  rfl

end

/-- Settles O2: every form is `predOp` of its condition, or writes what it reads. -/
theorem predicatesAndSystemReads : Obligations.PredicatesAndSystemReads := by
  unfold Obligations.PredicatesAndSystemReads
  refine ⟨fun c gd s h => ⟨fun rd rs1 rs2 fn hrd hfn => ?_, fun cc pd rs1 imm hcc => ?_, fun rd rs1 rs2 fn hrd h1 h2 hfn => ?_⟩,
    fun c gd rd s h => ⟨.of_issue h (by decide) rfl, .time h, .coreid h⟩⟩
  · intro a b
    rw [← condHolds_setWidth hfn]
    exact .cmp h hrd hfn
  · intro a b
    rw [← condHolds_eq hcc]
    exact .cmpi h hcc
  · intro a b
    rw [← predLogic_eq hfn]
    exact .plog h hrd h1 h2 hfn

end Sys2Proof.Machine
end

section
/-!
SUPPORT. Every control-core instruction is an issue under its guard, of its kind, whose encoding is legal as `coreForm` says (R53, R54).
-/

namespace Sys2Proof.Machine

/-! ### Fields that must be zero, values that are illegal -/

theorem fld_eq_zero_iff {n : Nat} (v : BitVec n) (lo w : Nat) : fld v lo w = 0 ↔ v.extractLsb' lo w = 0 := by
  rw [fld_eq_extractLsb', ← BitVec.toNat_inj]
  rfl

theorem upperZero_eq (r : GReg) : upperZero r = decide (r.extractLsb' 3 2 = 0) := decide_eq_decide.mpr (fld_eq_zero_iff _ _ _)

theorem shi_legal (imm : BitVec 12) : decide (fld imm 8 4 = 0) = decide (imm.extractLsb' 8 4 = 0) :=
  decide_eq_decide.mpr (fld_eq_zero_iff _ _ _)

theorem condOk_eq (cc : BitVec 3) : condOk cc = decide (cc.toNat ≤ 5) := decide_eq_decide.mpr Nat.lt_succ_iff

theorem cmp_legal (rd : GReg) (fn : BitVec 7) :
    (upperZero rd && decide (fld fn 3 4 = 0) && condOk (BitVec.setWidth 3 fn)) = decide (rd.extractLsb' 3 2 = 0 ∧ fn.toNat ≤ 5) := by
  have hfn : ∀ fn : BitVec 7, (decide (fld fn 3 4 = 0) && condOk (BitVec.setWidth 3 fn)) = decide (fn.toNat ≤ 5) := by decide
  rw [Bool.and_assoc, hfn, upperZero_eq, Bool.decide_and]

theorem plog_legal (rd rs1 rs2 : GReg) (fn : BitVec 7) : (upperZero rd && upperZero rs1 && upperZero rs2 && decide (fn.toNat < 4)) =
    decide (rd.extractLsb' 3 2 = 0 ∧ rs1.extractLsb' 3 2 = 0 ∧ rs2.extractLsb' 3 2 = 0 ∧ fn.toNat ≤ 3) := by
  rw [upperZero_eq, upperZero_eq, upperZero_eq, Bool.eq_iff_iff]
  simp only [Bool.and_eq_true, decide_eq_true_eq, and_assoc, Nat.lt_succ_iff]

theorem ld_legal (sx : Bool) (sz : BitVec 2) : (!(sx && decide (sz = 3))) = decide ¬(sx = true ∧ sz = 3) := by
  rw [Bool.eq_iff_iff]; simp

theorem st_legal (sx : Bool) : (!sx) = decide (sx = false) := by cases sx <;> rfl

theorem amo_legal (fn : BitVec 7) : (decide (fld fn 0 2 = 0) && decide (fld fn 4 3 ≠ 7)) =
    decide (fn.extractLsb' 0 2 = 0 ∧ fn.extractLsb' 4 3 ≠ 7) := by
  have h7 : fld fn 4 3 = 7 ↔ fn.extractLsb' 4 3 = 7 := by rw [fld_eq_extractLsb', ← BitVec.toNat_inj]; rfl
  rw [← Bool.decide_and]
  exact decide_eq_decide.mpr (and_congr (fld_eq_zero_iff _ _ _) (not_congr h7))

theorem queueRg_eq : ∀ rg : GReg, queueRg rg = decide (rg.toNat % 4 = 0 ∧ rg ≠ 0) := by decide

theorem qput_legal (rg : GReg) (oq : BitVec 2) (nb : Bool) (pe ps : PReg) (z : BitVec 2) :
    (queueRg rg && decide (oq ≠ 3) && decide (pe = 0) && (nb || decide (ps = 0)) && decide (z = 0)) =
    decide (rg.toNat % 4 = 0 ∧ rg ≠ 0 ∧ oq ≠ 3 ∧ pe = 0 ∧ (nb = true ∨ ps = 0) ∧ z = 0) := by
  rw [queueRg_eq, Bool.eq_iff_iff]
  simp only [Bool.and_eq_true, Bool.or_eq_true, decide_eq_true_eq, and_assoc]

theorem qget_legal (rg : GReg) (oq : BitVec 2) (e : Bool) (z : BitVec 2) : (queueRg rg && decide (oq ≠ 3) && !e && decide (z = 0)) =
    decide (rg.toNat % 4 = 0 ∧ rg ≠ 0 ∧ oq ≠ 3 ∧ e = false ∧ z = 0) := by
  rw [queueRg_eq, Bool.eq_iff_iff]
  simp only [Bool.and_eq_true, Bool.not_eq_true', decide_eq_true_eq, and_assoc]

theorem enq_legal (rg : GReg) (z : BitVec 8) : ([8, 16, 24].contains rg.toNat && decide (z = 0)) =
    decide ((rg = 8 ∨ rg = 16 ∨ rg = 24) ∧ z = 0) := by
  have hrg : ∀ rg : GReg, [8, 16, 24].contains rg.toNat = decide (rg = 8 ∨ rg = 16 ∨ rg = 24) := by decide
  rw [hrg, ← Bool.decide_and]

theorem sysLegal_eq (useRd usePd : Bool) (rd rs1 : GReg) (z : BitVec 2) (pd : PReg) : sysLegal useRd usePd rd rs1 z pd =
    decide ((useRd = true ∨ rd = 0) ∧ rs1 = 0 ∧ z = 0 ∧ (usePd = true ∨ pd = 0)) := by
  rw [sysLegal, Bool.eq_iff_iff]
  simp only [Bool.and_eq_true, Bool.or_eq_true, decide_eq_true_eq, and_assoc]

/-! ### Issue -/

section
variable {c : CoreId} {gd : Guard} {s : State}

/-- A load whose guard is false makes no access. -/
theorem exec_ld_issues (hg : (s.core c).guard gd = false) (rd rs1 : GReg) (sz : BitVec 2) (sx : Bool) (imm : BitVec 9) :
    ∃ f, exec (.ld c gd rd rs1 sz sx imm) s = .next (s.issue c gd .load (!(sx && decide (sz = 3))) f) := by
  refine ⟨_, if_neg ?_⟩
  rw [hg, Bool.and_false, Bool.false_and]
  exact Bool.false_ne_true

/-- An atomic operation whose guard is false makes no access. -/
theorem exec_amo_issues (hg : (s.core c).guard gd = false) (rd rs1 rs2 : GReg) (fn : BitVec 7) :
    ∃ f, exec (.amo c gd rd rs1 rs2 fn) s = .next (s.issue c gd .never (decide (fld fn 0 2 = 0) && decide (fld fn 4 3 ≠ 7)) f) := by
  refine ⟨_, if_neg ?_⟩
  rw [hg, Bool.and_false, Bool.false_and]
  exact Bool.false_ne_true

/-- A branch whose guard is available issues without prediction. -/
theorem branchOp_issues {resolved : Bool} (hb : (!resolved && decide (gd.pg ≠ 0)) = false) (h link : Bool) (off : BitVec 21) :
    ∃ f, branchOp c gd h link off resolved s = .next (s.issue c gd .never true f) := by
  refine ⟨_, if_pos ?_⟩
  revert hb
  cases resolved <;> simp

/-- A control-core instruction whose guard is false issues, with no access, wait or prediction before. -/
theorem exec_issues {i : Instr} {kind : AheadKind} {legal : Bool} (hi : coreForm i = some (c, gd, kind, legal))
    (hb : unresolvedBranch i = false) (hg : (s.core c).guard gd = false) :
    ∃ ok f, exec i s = .next (s.issue c gd kind ok f) ∧ ok = legal := by
  unfold coreForm at hi
  split at hi
  case h_47 => cases hi
  all_goals obtain ⟨rfl, rfl, rfl, rfl⟩ := hi
  iterate 19 exact ⟨_, _, rfl, rfl⟩
  · exact ⟨_, _, rfl, shi_legal _⟩
  iterate 3 exact ⟨_, _, rfl, rfl⟩
  · exact ⟨_, _, rfl, cmp_legal _ _⟩
  · exact ⟨_, _, rfl, condOk_eq _⟩
  · exact ⟨_, _, rfl, plog_legal _ _ _ _⟩
  · obtain ⟨f, hf⟩ := exec_ld_issues hg _ _ _ _ _
    exact ⟨_, f, hf, ld_legal _ _⟩
  · exact ⟨_, _, rfl, st_legal _⟩
  · obtain ⟨f, hf⟩ := exec_amo_issues hg _ _ _ _
    exact ⟨_, f, hf, amo_legal _⟩
  iterate 2
    obtain ⟨f, hf⟩ := branchOp_issues hb _ _ _
    exact ⟨_, f, hf, rfl⟩
  · exact ⟨_, _, rfl, (Bool.decide_and _ _).symm⟩
  · exact ⟨_, _, rfl, qput_legal _ _ _ _ _ _⟩
  · exact ⟨_, _, rfl, qget_legal _ _ _ _⟩
  · exact ⟨_, _, rfl, (Bool.decide_and _ _).symm⟩
  · exact ⟨_, _, rfl, enq_legal _ _⟩
  · exact ⟨_, _, rfl, rfl⟩
  all_goals exact ⟨_, _, rfl, (sysLegal_eq _ _ _ _ _ _).trans (by simp)⟩

end

end Sys2Proof.Machine
end

section
/-!
PROOFS. A false guard (O3): R53.
-/

namespace Sys2Proof.Machine

/-- A legal instruction whose guard is false counts as issued and goes on. -/
theorem State.issue_guardedOut {s : State} {n : CoreId} {gd : Guard} {kind : AheadKind} (hi : s.canIssue n = true)
    (ha : (s.core n).aheadOk kind = true) (hg : (s.core n).guard gd = false) (hpc : (s.core n).pc ≠ lastPc) (f : State → State) :
    ∃ u, s.issue n gd kind true f = u.advance n ∧ u.core n = s.issued n false ∧ OnlyCore n s u := by
  refine ⟨_, by simp [State.issue, hi, ha, hg, hpc]; rfl, ?_, (State.countIssue_onlyCore s n).setCore _⟩
  rw [State.core_setCore_same, Core.ranAhead_fields, State.core_countIssue s n hi]
  simp only [State.issued, Core.ranAhead]
  split <;> simp_all

/-- Settles O3: every control-core instruction is an issue, and an issue under a false guard goes on. -/
theorem falseGuardOnlyGoesOn : Obligations.FalseGuardOnlyGoesOn := by
  unfold Obligations.FalseGuardOnlyGoesOn
  intro i c gd kind s hform hb hi ha hg hpc
  obtain ⟨ok, f, hexec, rfl⟩ := exec_issues hform hb hg
  obtain ⟨u, hu, hcore, honly⟩ := State.issue_guardedOut hi ha hg hpc f
  have hin : (u.core c).pc ≠ lastPc := by rw [hcore]; exact hpc
  refine ⟨_, hexec.trans (congrArg _ hu), honly.advance hin, ?_⟩
  rw [State.core_advance hin, hcore]
  rfl

end Sys2Proof.Machine
end

section
/-!
PROOFS. Faults of a core that awaits the acknowledgement of a fabric write (O4, O5, O7, O8): the fault word of R342 is a release (R35), so
it is held back until then, and the held releases are not as they were.
-/

namespace Sys2Proof.Machine

/-- The only job, running on core 0, with queue 5 as its fault queue. -/
def faultQueueJob : Job :=
  { id := 1, group := 0, prio := 0, imemSave := false, nPeony := 1, nLupin := 0, faultQ := 5, faultEn := true, imageAddr := 0, imageBytes := 4
    image := [], entry := 0, root := 0, statusAddr := 0, live := [], port := 0, state := .running, endCode := 0, killed := false, preempts := 0
    tSubmit := 0, tStart := some 0, tEnd := 0, waitNs := 0, waitSince := none, lastSave := 0, lastRestore := 0, landed := 0, restarts := 0
    placed := [0], order := 0, phaseSince := 0, saved := none, restartTimes := [] }

/-- Core 0's write of 8 bytes at home address 0 of module 1, not acknowledged. -/
def unackedWrite : Req :=
  { kind := .write, core := 0, job := 1, cmd := 0, target := 1, seg := 0, sent := 0, va := 0, pa := poolBase, n := 8, home := 0, line := none }

/-- Core 0, at its first word with g1 = 1, runs the job while its write is on its way; queue 5 is bound to a host ring (kind 2). -/
def writePending : State :=
  ({ State.reset with
      start := { Start.reset with stage := 5 }
      jobs := [faultQueueJob]
      cores := [(0, { Core.idle with g := [(1, 1)], state := .running, job := 1 })]
      reqs := [(3, unackedWrite)] } : State).setReg (Reg.stmQcfg 5) 0x0000000100000002

/-- A guard that holds. -/
def unguarded : Guard := { pg := 0, pn := false }

theorem ready_writePending : Ready writePending 0 unguarded .never := ⟨by decide, by decide, by decide, by decide⟩

/-- Does the outcome leave a release that waits? -/
def holdsRelease (o : Host.Outcome State Fault Refusal) : Bool :=
  match o with
  | .next t => !t.held.isEmpty
  | _ => false

/-- `FaultsWith` allows no release to be held back, so an instruction that leaves one does not meet it. -/
theorem not_faultsWith {i : Instr} {code : Byte} {va : Nat} (h : holdsRelease (exec i writePending) = true) :
    ¬ FaultsWith i writePending 0 code va := by
  rintro ⟨t, ht, hframe, -⟩
  have hheld : t.held = [] := by rw [hframe]; rfl
  rw [ht, holdsRelease, hheld] at h
  exact absurd h (by decide)

/-- Refutes O4: the undefined word 0x06000000 faults with 0x28 on `writePending`, and its fault word is held back. -/
theorem not_illegalEncodingsFault : ¬ Obligations.IllegalEncodingsFault := by
  intro h
  obtain ⟨hundefined, -⟩ := h 0 writePending (by decide) (by decide)
  exact not_faultsWith (by decide) (hundefined 0x06000000 (by decide))

/-- Refutes O5: B with off21 = -1 at address 0 of `writePending` faults with 0x2A, and its fault word is held back. -/
theorem not_branches : ¬ Obligations.Branches := by
  rintro ⟨h, -⟩
  obtain ⟨hbranch, -⟩ := h 0 unguarded writePending ready_writePending
  obtain ⟨-, hout⟩ := hbranch false true (BitVec.ofInt 21 (-1)) (.inl rfl)
  exact not_faultsWith (by decide) (hout (.inl (by decide))).1

/-- Refutes O7: AMO at address 1 on `writePending` faults with 0x29, and its fault word is held back. -/
theorem not_memoryAccesses : ¬ Obligations.MemoryAccesses := by
  rintro ⟨-, h⟩
  obtain ⟨-, -, hamo⟩ := h 0 unguarded writePending ready_writePending
  obtain ⟨hmisaligned, -⟩ := hamo 0 1 0 0 (by decide) (by decide)
  exact not_faultsWith (by decide) (hmisaligned (by decide))

/-- Refutes O8: QPUT to queue 0, which is not bound, faults with 0x2B on `writePending`, and its fault word is held back. -/
theorem not_queueInstructions : ¬ Obligations.QueueInstructions := by
  rintro ⟨-, h⟩
  obtain ⟨hput, -⟩ := h 0 unguarded 4 0 0 writePending ready_writePending (by decide) (by decide) (by decide)
  exact not_faultsWith (by decide) (hput (by decide) false false 0 (.inr rfl))

end Sys2Proof.Machine
end

section
/-!
SUPPORT. Where the registers stand that counters count in (R134).
-/

namespace Sys2Proof.Machine

theorem RegDesc.index_le {d : RegDesc} {o i j : Nat} (h : d.index o = some (i, j)) : i ≤ d.n1 ∧ j ≤ d.n2 := by
  unfold RegDesc.index at h
  split at h
  · split at h
    · obtain ⟨rfl, rfl⟩ := Prod.mk.inj (Option.some.inj h)
      exact ⟨Nat.zero_le _, Nat.zero_le _⟩
    · cases h
  · dsimp only at h
    split at h
    · cases h
    · next hi =>
      split at h
      · split at h
        · obtain ⟨rfl, rfl⟩ := Prod.mk.inj (Option.some.inj h)
          exact ⟨(Nat.not_le.mp hi).le, Nat.zero_le _⟩
        · cases h
      · split at h
        · next hj =>
          obtain ⟨rfl, rfl⟩ := Prod.mk.inj (Option.some.inj h)
          exact ⟨(Nat.not_le.mp hi).le, hj.2.le⟩
        · cases h

/-- A register found stands in a row of the list, at a place of its array. -/
theorem findRow_spec {addr off : Nat} {ds : List RegDesc} {r : RegRef} (h : findRow addr off ds = some r) :
    r.desc ∈ ds ∧ r.i ≤ r.desc.n1 ∧ r.j ≤ r.desc.n2 := by
  induction ds with
  | nil => cases h
  | cons d ds ih =>
    have rest (h : findRow addr off ds = some r) := And.imp_left (List.mem_cons_of_mem d) (ih h)
    unfold findRow at h
    split at h
    · split at h
      · next i j hij =>
        obtain rfl := Option.some.inj h
        exact ⟨List.mem_cons_self, RegDesc.index_le hij⟩
      · exact rest h
    · exact rest h

/-- Do the counters of row d have their WRAPPED bits below address n? -/
def RegDesc.wrapsBelow (n : Nat) (d : RegDesc) : Bool :=
  match d.wrap with
  | none => true
  | some w => decide (w.base + w.s1 * d.n1 + 4 * ((w.bit + w.b1 * d.n1 + w.b2 * d.n2) / 32) < n)

theorem regsFunction_wrap : ∀ d ∈ regsFunction, d.wrap = none := by decide

theorem windowRegs_wrapsBelow : ∀ w < 19, ∀ d ∈ windowRegs w, d.wrapsBelow 0x1300000 = true := by decide

theorem windowRegs_of_ge {w : Nat} (h : 19 ≤ w) : windowRegs w = [] := by
  obtain ⟨k, rfl⟩ := Nat.exists_eq_add_of_le' h
  rfl

/-- The counters, and the registers of their WRAPPED bits, stand in the windows of Table 12.3. -/
theorem CounterReg.lt {b : Nat} (h : CounterReg b) : b < 0x1300000 := by
  obtain ⟨a, r, w, hr, hw, hb⟩ := h
  unfold regAt at hr
  split at hr
  · exact absurd (regsFunction_wrap _ (findRow_spec hr).1) (by rw [hw]; exact Option.some_ne_none w)
  · obtain ⟨hmem, hi, hj⟩ := findRow_spec hr
    have hwin : a / 0x100000 < 19 := by
      by_contra hge
      rw [windowRegs_of_ge (Nat.not_lt.mp hge)] at hmem
      cases hmem
    have hbelow := windowRegs_wrapsBelow _ hwin _ hmem
    rw [RegDesc.wrapsBelow, hw, decide_eq_true_iff] at hbelow
    have h1 := Nat.mul_le_mul_left w.s1 hi
    have h2 := Nat.mul_le_mul_left w.b1 hi
    have h3 := Nat.mul_le_mul_left w.b2 hj
    omega

end Sys2Proof.Machine
end

section
/-!
PROOFS. Pressings (O55): a cached line of a group the module does not have.
-/

namespace Sys2Proof.Machine

/-- A line of the pressing's area, filled ahead for a group that no partition is in. -/
def strayLine : AheadLine := { line := 0x10000000, group := 20000, die := 0, node := false, used := false, bad := false }

/-- A pressing of group 5 runs, its area the first MiB of HBM; all partitions form group 0, so that no unit is pressed. -/
def pressingOverLine : State :=
  { (State.reset.setReg Reg.hubPgroup 0x4444444444444444).setReg Reg.dbgPressCfg 0x1000000001 with
    press := some { cause := 2, group := 5, job := 1, began := 0, hung := 0, follow := 0 }
    ahead := [strayLine] }

/-- Does the outcome leave a count at address a? -/
def countsAt (a : Nat) (o : Host.Outcome State Fault Refusal) : Bool :=
  match o with
  | .next t => decide (t.reg a ≠ 0)
  | _ => false

/-- The pressing's write squashes the line, which counts beyond the partitions' counters. -/
theorem pressingOverLine_counts : countsAt (Reg.dbgPartCnt 20000 4) (exec (.pressingDone []) pressingOverLine) = true := by decide

/-- Refutes O55: nothing holds the group of a cached line to the 16 of the module. The line of `pressingOverLine` is squashed by the
pressing's write to its area, and counts at an address where no counter stands. -/
theorem not_pressingsWatchdogsBreakpoints : ¬ Obligations.PressingsWatchdogsBreakpoints := by
  intro h
  obtain ⟨-, -, -, hdone, -⟩ := h 0 0 0 0 0 [] pressingOverLine
  obtain ⟨t, ht, -, -, -, hkeeps, -⟩ := hdone _ rfl rfl
  have hreg := hkeeps (Reg.dbgPartCnt 20000 4) (fun hc => absurd hc.lt (by decide)) (by decide)
  have hcounts := pressingOverLine_counts
  rw [ht, countsAt, hreg] at hcounts
  exact absurd hcounts (by decide)

end Sys2Proof.Machine
end

section
/-!
SUPPORT. The acceptance of a command (R69, R77): what decides of it, and the state it leaves.
-/

namespace Sys2Proof.Machine

/-! ### Registers an issue does not count in -/

theorem not_mem_issueRegs (n : CoreId) {a : Nat} (h : a < 0x1101000) : a ∉ issueRegs n := by
  simp only [issueRegs, List.mem_cons, List.not_mem_nil, or_false, Reg.dbgPartCnt, Reg.dbgPartWrap]
  omega

theorem counterReg_of_mem_issueRegs {n : CoreId} {a : Nat} (h : a ∈ issueRegs n) : CounterReg a := by
  have hwrap : ∀ p : Fin 16, wrapReg (Reg.dbgPartCnt p 0) = some (Reg.dbgPartWrap p) := by decide
  obtain ⟨hcnt, hw⟩ := counterReg_of_wrapReg (hwrap ⟨_, partOfCore_lt n⟩)
  simp only [issueRegs, List.mem_cons, List.not_mem_nil, or_false] at h
  rcases h with rfl | rfl
  exacts [hcnt, hw]

theorem KeepsRegs.butCounters {n : CoreId} {s t : State} (h : KeepsRegs (issueRegs n) s t) : KeepsButCounters s t :=
  fun a ha => h a fun hm => ha (counterReg_of_mem_issueRegs hm)

/-! ### What the acceptance reads -/

/-- All that the acceptance of a command of core n reads is alike in s and t. -/
structure AdmitsAlike (n : CoreId) (s t : State) : Prop where
  jobs : t.jobs = s.jobs
  cmds : t.cmds = s.cmds
  groups : t.reg Reg.hubPgroup = s.reg Reg.hubPgroup
  queues : ∀ q < 4096, t.reg (Reg.stmQcfg q) = s.reg (Reg.stmQcfg q)
  job : (t.core n).job = (s.core n).job
  slots : (t.core n).slots = (s.core n).slots

section
variable {n : CoreId} {s t : State}

theorem AdmitsAlike.of_onlyCore (h : OnlyCore n s t) {load : Bool} (hcore : t.core n = s.issued n load) : AdmitsAlike n s t := by
  obtain ⟨hf, -, hregs, -⟩ := h
  exact ⟨by rw [hf], by rw [hf], hregs _ (not_mem_issueRegs n (by decide)),
    fun q hq => hregs _ (not_mem_issueRegs n (by unfold Reg.stmQcfg; omega)), by rw [hcore]; rfl, by rw [hcore]; rfl⟩

variable (h : AdmitsAlike n s t)
include h

theorem AdmitsAlike.groupOfCore (m : CoreId) : t.groupOfCore m = s.groupOfCore m := by
  unfold State.groupOfCore State.groupOf State.groupSize State.regFld
  rw [h.groups]

theorem AdmitsAlike.boundPut {q : Nat} (hq : q < 4096) (job : BitVec 16) : t.boundPut q job = s.boundPut q job := by
  unfold State.boundPut State.qKind State.qPutJob State.regFld
  rw [h.queues q hq, State.isLive_congr h.jobs]

theorem AdmitsAlike.canAccept (qid : BitVec 16) (word : List Byte) : t.canAccept n qid word = s.canAccept n qid word := by
  unfold State.canAccept State.entryFree State.queueGroup Core.slot
  rw [h.cmds, h.groupOfCore, h.slots]

theorem AdmitsAlike.outsideGroup (cls inst : Nat) : t.outsideGroup n cls inst = s.outsideGroup n cls inst := by
  unfold State.outsideGroup State.job
  dsimp only
  rw [h.jobs, h.job, h.groupOfCore, h.groupOfCore]

theorem AdmitsAlike.acceptance (cls inst : Nat) (word : List Byte) : t.acceptance n cls inst word = s.acceptance n cls inst word := by
  unfold State.acceptance
  rw [h.outsideGroup, h.job, h.boundPut (cmdNotifyQ_lt word)]

end

/-! ### What the acceptance leaves -/

section
variable (s : State) (n : CoreId) (qid : BitVec 16) (word : List Byte)

/-- The trace of an ENQ. -/
def State.tracedEnq : State :=
  s.traceTagged (partOfCore n) (coreUnit n) 0x01 0 (s.core n).job (BitVec.ofNat 16 (cmdTag word)) (BitVec.ofNat 64 (cmdNum word 0 8))
    (BitVec.ofNat 64 qid.toNat)

theorem State.tracedEnq_fields : s.tracedEnq n qid word = { s with trace := (s.tracedEnq n qid word).trace } :=
  State.traceTagged_fields _ _ _ _ _ _ _ _ _

theorem State.tracedEnq_alike : AdmitsAlike n s (s.tracedEnq n qid word) := by
  rw [State.tracedEnq_fields]
  exact ⟨rfl, rfl, rfl, fun _ _ => rfl, rfl, rfl⟩

/-- The command that a core's ENQ puts in an engine queue. -/
def State.enqueued (t : State) (n : CoreId) (qid : BitVec 16) (word : List Byte) : Cmd :=
  { id := t.nextCmd, cls := fld qid 12 4, inst := fld qid 0 12, core := n, job := (t.core n).job, group := t.queueGroup (fld qid 12 4) n
    word := word, phase := .queued, since := t.now, started := 0, descs := [], granted := false, suspended := false, session := 0
    mayWrite := none, pool := [] }

/-- From s to t a command d of core n has entered its queue, and the slot it names is busy. -/
structure Enters (n : CoreId) (word : List Byte) (d : Cmd) (s t : State) : Prop where
  fields : t = { s with cores := t.cores, cmds := s.cmds ++ [d], nextCmd := s.nextCmd + 1, flows := t.flows, trace := t.trace }
  others : KeepsCores n s t
  core : t.core n = { s.core n with slots := (t.core n).slots }
  slots : ∀ j, (t.core n).slot j = if j = cmdSlot word then .busy else (s.core n).slot j

theorem State.enter_fields (job : BitVec 16) :
    ∃ fl, s.enter n job qid word 0 none =
      { s with cmds := s.cmds ++ [{ s.enqueued n qid word with job := job }], nextCmd := s.nextCmd + 1, flows := fl } := by
  unfold State.enter
  dsimp only
  split
  exacts [⟨_, rfl⟩, ⟨_, rfl⟩]

section
variable {s n qid word}

theorem State.accept_passes (h : s.acceptance n (fld qid 12 4) (fld qid 0 12) word = none) :
    s.accept n qid word = ((s.tracedEnq n qid word).setCore n (((s.tracedEnq n qid word).core n).setSlot (cmdSlot word) .busy)).enter n
      ((s.tracedEnq n qid word).core n).job qid word 0 none := by
  rw [← (s.tracedEnq_alike n qid word).acceptance] at h
  unfold State.accept
  dsimp only
  split
  · next hc => cases hc.symm.trans h
  · rfl

theorem State.accept_fails {code : Byte} (h : s.acceptance n (fld qid 12 4) (fld qid 0 12) word = some code) :
    s.accept n qid word = (s.tracedEnq n qid word).finish n ((s.tracedEnq n qid word).core n).job
      ((s.tracedEnq n qid word).engineUnit (fld qid 12 4) (fld qid 0 12)) (s.tracedEnq n qid word).now word code 0 := by
  rw [← (s.tracedEnq_alike n qid word).acceptance] at h
  unfold State.accept
  dsimp only
  split
  · next hc => rw [Option.some.inj (hc.symm.trans h)]; rfl
  · next hc => cases hc.symm.trans h

/-- A command that passes the checks enters its queue. -/
theorem State.accept_enters (h : s.acceptance n (fld qid 12 4) (fld qid 0 12) word = none) :
    Enters n word (s.enqueued n qid word) s (s.accept n qid word) := by
  rw [State.accept_passes h]
  obtain ⟨fl, hf⟩ := State.enter_fields ((s.tracedEnq n qid word).setCore n (((s.tracedEnq n qid word).core n).setSlot (cmdSlot word) .busy))
    n qid word ((s.tracedEnq n qid word).core n).job
  obtain ⟨tr, hu⟩ : ∃ tr, s.tracedEnq n qid word = { s with trace := tr } := ⟨_, s.tracedEnq_fields n qid word⟩
  rw [hf, hu]
  have hn := State.core_setCore_same s n ((s.core n).setSlot (cmdSlot word) .busy)
  refine ⟨?_, fun m hm => State.core_setCore_other s _ hm, ?_, fun j => ?_⟩
  · rfl
  · exact hn.trans (congrArg (fun k => { s.core n with slots := Core.slots k }) hn.symm)
  · exact (congrArg (fun k => Core.slot k j) hn).trans (SMap.get_set Slot.free (s.core n).slots (cmdSlot word) j .busy)

/-- A command that fails a check ends at once with the check's code. -/
theorem State.accept_reports {code : Byte} (h : s.acceptance n (fld qid 12 4) (fld qid 0 12) word = some code) :
    Reports n (s.core n).job word (statusWord (cmdTag word) code 0) s (s.accept n qid word) := by
  rw [State.accept_fails h]
  obtain ⟨tr, hu⟩ : ∃ tr, s.tracedEnq n qid word = { s with trace := tr } := ⟨_, s.tracedEnq_fields n qid word⟩
  rw [hu]
  have hr := State.finish_reports { s with trace := tr } n (s.core n).job
    (({ s with trace := tr } : State).engineUnit (fld qid 12 4) (fld qid 0 12)) s.now word code 0
  exact { hr with fields := hr.fields, shows := hr.shows.of_source rfl }

end

end

end Sys2Proof.Machine
end

section
/-!
PROOFS. ENQ, WAIT and the ends of their waits (O10): R69–R71, R77.
-/

namespace Sys2Proof.Machine

/-! ### Going on -/

theorem Core.greg_congr {k k' : Core} (h : k.g = k'.g) (r : GReg) : k.greg r = k'.greg r := by
  unfold Core.greg
  rw [h]

theorem Core.pred_congr {k k' : Core} (h : k.p = k'.p) (r : PReg) : k.pred r = k'.pred r := by
  unfold Core.pred
  rw [h]

/-- From s to t core n, having become k, goes on. -/
structure GoneOn (n : CoreId) (k : Core) (s t : State) : Prop where
  fields : t = { s with cores := t.cores }
  others : KeepsCores n s t
  core : t.core n = { k with pc := k.pc + 4 }

section
variable {n : CoreId} {k : Core} {s u : State}

theorem GoneOn.of_advance (hf : u = { s with cores := u.cores }) (ho : KeepsCores n s u) (hc : u.core n = k) (hpc : k.pc ≠ lastPc) :
    GoneOn n k s (u.advance n) := by
  have hat : (u.core n).pc ≠ lastPc := by rwa [hc]
  refine ⟨?_, fun m hm => ?_, by rw [State.core_advance hat, hc]⟩
  · rw [State.advance_inside u n hat, hf]
    rfl
  · rw [State.advance_inside u n hat, State.core_setCore_other _ _ hm, ho m hm]

theorem GoneOn.of_setCore (hpc : k.pc ≠ lastPc) : GoneOn n k s ((s.setCore n k).advance n) :=
  .of_advance rfl (fun _ hm => State.core_setCore_other s _ hm) (State.core_setCore_same s n _) hpc

variable {t : State} {nb : Bool} {ps : PReg} {b : Bool}

theorem GoneOn.of_setP (hpc : k.pc ≠ lastPc) :
    GoneOn n (if nb then k.setP ps b else k) s ((s.setCore n (if nb then k.setP ps b else k)).advance n) := by
  refine .of_setCore ?_
  cases nb
  · exact hpc
  · exact (congrArg (· ≠ lastPc) (Core.pc_setP k ps b)).mpr hpc

variable (h : GoneOn n (if nb then k.setP ps b else k) s t)
include h

/-- Where nb asks for a write of a predicate, the core is as it was but for its predicates. -/
theorem GoneOn.core_setP : t.core n = { k with p := (t.core n).p, pc := k.pc + 4 } := by
  rw [h.core]
  cases nb
  · rfl
  · exact congrArg (fun k' : Core => { k' with pc := k'.pc + 4 }) (Core.setP_fields k ps b)

theorem GoneOn.pred_setP (r : PReg) : (t.core n).pred r = if nb = true ∧ r = ps ∧ ps ≠ 0 then b else k.pred r := by
  rw [h.core]
  cases nb
  · exact (if_neg fun h => Bool.false_ne_true h.1).symm
  · refine (Core.pred_setP k ps r b).trans (if_congr ?_ rfl rfl)
    exact ⟨fun h => ⟨rfl, h⟩, And.right⟩

end

/-! ### ENQ -/

theorem enqClass_eq (qid : BitVec 16) : fld qid 12 4 = qid.toNat / 4096 := by
  have := qid.isLt
  rw [fld, bitsOf]
  omega

theorem enqInst_eq (qid : BitVec 16) : fld qid 0 12 = qid.toNat % 4096 := by
  rw [fld, bitsOf]
  omega

theorem statusWord_noResult (tag : Nat) (code : Byte) : statusWord tag code 0 = BitVec.ofNat 64 (tag * 2 ^ 16 + 2 ^ 8 + code.toNat) := by
  simp [statusWord]

/-- The instruction i of core c takes a command to an engine queue (R69, R77): the core goes on as k', with 1 in ps where nb asks for it. -/
def TakesCommand (i : Instr) (c : CoreId) (s : State) (qid : BitVec 16) (word : List Byte) (nb : Bool) (ps : PReg) (k' : Core) : Prop :=
  let k := s.core c
  let slot := cmdSlot word
  let gone := { k' with slots := k'.slots, p := k'.p, pc := k'.pc + 4 }
  (s.acceptance c (qid.toNat / 4096) (qid.toNat % 4096) word = none →
    ∃ t d, exec i s = .next t ∧
      t = { s with eff := t.eff, cores := t.cores, cmds := s.cmds ++ [d], nextCmd := s.nextCmd + 1, flows := t.flows, trace := t.trace } ∧
      d.id = s.nextCmd ∧ d.cls = qid.toNat / 4096 ∧ d.inst = qid.toNat % 4096 ∧ d.core = c ∧ d.job = k.job ∧ d.word = word ∧
      d.phase = .queued ∧ d.since = s.now ∧ d.granted = false ∧ KeepsCores c s t ∧ KeepsRegs (issueRegs c) s t ∧
      t.core c = { gone with slots := (t.core c).slots, p := (t.core c).p } ∧
      (∀ j, (t.core c).slot j = if j = slot then .busy else k.slot j) ∧
      ∀ r, (t.core c).pred r = if nb = true ∧ r = ps ∧ ps ≠ 0 then true else k.pred r) ∧
  (∀ code, s.acceptance c (qid.toNat / 4096) (qid.toNat % 4096) word = some code →
    ∃ t, exec i s = .next t ∧ t = { s with eff := t.eff, cores := t.cores, stem := t.stem, trace := t.trace } ∧ KeepsCores c s t ∧
      KeepsButCounters s t ∧ t.core c = { gone with slots := (t.core c).slots, p := (t.core c).p } ∧
      (∀ j, (t.core c).slot j =
        if j = slot then .done (BitVec.ofNat 64 (cmdTag word * 2 ^ 16 + 2 ^ 8 + code.toNat)) else k.slot j) ∧
      ∀ r, (t.core c).pred r = if nb = true ∧ r = ps ∧ ps ≠ 0 then true else k.pred r)

/-- From s to u core n has at most issued: registers of the issue and the core itself may differ, but not what the acceptance reads. -/
structure Issues (n : CoreId) (s u : State) : Prop where
  fields : u = { s with eff := u.eff, cores := u.cores }
  others : KeepsCores n s u
  regs : KeepsRegs (issueRegs n) s u
  alike : AdmitsAlike n s u

section
variable {i : Instr} {c : CoreId} {s u : State} {qid : BitVec 16} {word : List Byte} {nb : Bool} {ps : PReg} {k' : Core}

theorem TakesCommand.of_accept (f : State → State) (hu : Issues c s u) (hi : exec i s = .next (f (u.accept c qid word)))
    (hp : k'.p = (s.core c).p)
    (hf : ∀ v : State, v.core c = { u.core c with slots := (v.core c).slots } →
      GoneOn c (if nb then { k' with slots := (v.core c).slots }.setP ps true else { k' with slots := (v.core c).slots }) v (f v)) :
    TakesCommand i c s qid word nb ps k' := by
  obtain ⟨hfields, hothers, hregs, halike⟩ := hu
  have hslot : ∀ j, (u.core c).slot j = (s.core c).slot j := fun j => by rw [Core.slot, Core.slot, halike.slots]
  unfold TakesCommand
  rw [← enqClass_eq, ← enqInst_eq, ← halike.acceptance]
  refine ⟨fun h => ?_, fun code h => ?_⟩
  · have hv := State.accept_enters h
    have ht := hf _ hv.core
    generalize u.accept c qid word = v at hi hv ht
    generalize f v = t at hi ht
    have hslots : (t.core c).slots = (v.core c).slots := (congrArg Core.slots ht.core_setP).trans rfl
    refine ⟨t, u.enqueued c qid word, hi, ?_, (congrArg State.nextCmd hfields).trans rfl, rfl, rfl, rfl, halike.job, rfl, rfl,
      (congrArg State.now hfields).trans rfl, rfl, fun m hm => ?_, fun a ha => ?_, ?_, fun j => ?_, fun r => ?_⟩
    · obtain ⟨x, hx⟩ : ∃ x, t = { v with cores := x } := ⟨_, ht.fields⟩
      obtain ⟨y, fl, tr, hy⟩ : ∃ y fl tr, v =
        { u with cores := y, cmds := u.cmds ++ [u.enqueued c qid word], nextCmd := u.nextCmd + 1, flows := fl, trace := tr } :=
        ⟨_, _, _, hv.fields⟩
      obtain ⟨e, z, hz⟩ : ∃ e z, u = { s with eff := e, cores := z } := ⟨_, _, hfields⟩
      rw [hx, hy, hz]
    · exact (ht.others m hm).trans ((hv.others m hm).trans (hothers m hm))
    · have hvt : t.eff = v.eff := (congrArg State.eff ht.fields).trans rfl
      have huv : v.eff = u.eff := (congrArg State.eff hv.fields).trans rfl
      exact (State.reg_congr (hvt.trans huv) a).trans (hregs a ha)
    · rw [hslots]
      exact ht.core_setP
    · refine Eq.trans (by rw [Core.slot, hslots]; rfl) ((hv.slots j).trans (if_congr Iff.rfl rfl (hslot j)))
    · exact (ht.pred_setP r).trans (if_congr Iff.rfl rfl (Core.pred_congr hp r))
  · have hv := State.accept_reports h
    have hkeeps : KeepsButCounters s u := hregs.butCounters
    have ht := hf _ hv.shows.core
    generalize u.accept c qid word = v at hi hv ht
    generalize f v = t at hi ht
    have hslots : (t.core c).slots = (v.core c).slots := (congrArg Core.slots ht.core_setP).trans rfl
    refine ⟨t, hi, ?_, fun m hm => ?_, fun a ha => ?_, ?_, fun j => ?_, fun r => ?_⟩
    · obtain ⟨x, hx⟩ : ∃ x, t = { v with cores := x } := ⟨_, ht.fields⟩
      obtain ⟨e, y, st, tr, hy⟩ : ∃ e y st tr, v = { u with eff := e, cores := y, stem := st, trace := tr } := ⟨_, _, _, _, hv.fields⟩
      obtain ⟨e, z, hz⟩ : ∃ e z, u = { s with eff := e, cores := z } := ⟨_, _, hfields⟩
      rw [hx, hy, hz]
    · exact (ht.others m hm).trans ((hv.shows.others m hm).trans (hothers m hm))
    · have hvt : t.eff = v.eff := (congrArg State.eff ht.fields).trans rfl
      exact (State.reg_congr hvt a).trans ((hv.keeps a ha).trans (hkeeps a ha))
    · rw [hslots]
      exact ht.core_setP
    · refine Eq.trans (by rw [Core.slot, hslots]; rfl) ((hv.shows.slots j).trans (if_congr ?_ (congrArg Slot.done ?_) (hslot j)))
      · exact ⟨And.left, fun h => ⟨h, rfl⟩⟩
      · exact statusWord_noResult _ _
    · exact (ht.pred_setP r).trans (if_congr Iff.rfl rfl (Core.pred_congr hp r))

end

theorem Issues.of_onlyCore {c : CoreId} {s u : State} (h : OnlyCore c s u) (hcore : u.core c = s.issued c false) : Issues c s u :=
  ⟨h.1, h.2.1, h.2.2.1, .of_onlyCore h hcore⟩

theorem Issues.refl (c : CoreId) (s : State) : Issues c s s :=
  ⟨rfl, fun _ _ => rfl, fun _ _ => rfl, rfl, rfl, rfl, fun _ _ => rfl, rfl, rfl⟩

/-- The effect of ENQ in the state that its issue leaves. -/
def State.enqEffect (c : CoreId) (qid : BitVec 16) (word : List Byte) (nb : Bool) (ps : PReg) (t : State) : State :=
  if t.canAccept c qid word then
    let t1 := t.accept c qid word
    (if nb then t1.setCore c ((t1.core c).setP ps true) else t1).advance c
  else if nb then t.writeP c ps false
  else t.setCore c { t.core c with blocked := some (.enq qid word) }

theorem exec_enq {rg : GReg} (hrg : rg = 8 ∨ rg = 16 ∨ rg = 24) (c : CoreId) (gd : Guard) (re : GReg) (nb : Bool) (ps : PReg) (s : State) :
    exec (.enq c gd rg re nb ps 0) s = .next (s.issue c gd .never true fun t =>
      t.enqEffect c (BitVec.ofNat 16 (fld ((t.core c).greg re) 0 16)) ((t.core c).word512 rg) nb ps) := by
  show Host.Outcome.next (s.issue c gd .never ([8, 16, 24].contains rg.toNat && decide ((0 : BitVec 8) = 0)) _) = _
  rw [enq_legal, decide_eq_true ⟨hrg, rfl⟩]
  rfl

theorem enqQueue_eq (a : Word) : BitVec.ofNat 16 (fld a 0 16) = a.extractLsb' 0 16 := by
  rw [fld_eq_extractLsb', BitVec.ofNat_toNat, BitVec.setWidth_eq]

section
variable {c : CoreId} {s : State} {gd : Guard} {rg : GReg} (h : Ready s c gd .never) (hrg : rg = 8 ∨ rg = 16 ∨ rg = 24) (re : GReg)
include h hrg

/-- ENQ whose command can be taken now. -/
theorem TakesCommand.enq (nb : Bool) (ps : PReg)
    (hcan : s.canAccept c (((s.core c).greg re).extractLsb' 0 16) ((s.core c).word512 rg) = true) :
    TakesCommand (.enq c gd rg re nb ps 0) c s (((s.core c).greg re).extractLsb' 0 16) ((s.core c).word512 rg) nb ps (s.issued c false) := by
  obtain ⟨u, hu, hcore, honly⟩ := State.issue_ready h fun t =>
    t.enqEffect c (BitVec.ofNat 16 (fld ((t.core c).greg re) 0 16)) ((t.core c).word512 rg) nb ps
  rw [decide_eq_false (by decide)] at hcore
  have hword : (u.core c).word512 rg = (s.core c).word512 rg := by rw [hcore]; rfl
  rw [enqQueue_eq, hword, congrArg (Core.greg · re) hcore, State.greg_issued] at hu
  rw [← (AdmitsAlike.of_onlyCore honly hcore).canAccept] at hcan
  refine .of_accept (fun v => (if nb then v.setCore c ((v.core c).setP ps true) else v).advance c) (.of_onlyCore honly hcore) ?_ rfl
    fun v hv => ?_
  · rw [exec_enq hrg, hu]
    exact congrArg _ (if_pos hcan)
  · rw [hcore] at hv
    rw [← hv]
    have hpc : (v.core c).pc ≠ lastPc := by rw [hv]; exact h.inside
    cases nb
    exacts [.of_advance rfl (fun _ _ => rfl) rfl hpc, .of_setP (nb := true) hpc]

/-- ENQ whose command cannot be taken now. -/
theorem enq_notNow
    (hcan : s.canAccept c (((s.core c).greg re).extractLsb' 0 16) ((s.core c).word512 rg) = false) (nb : Bool) (ps : PReg) :
    ∃ u, u.core c = s.issued c false ∧ OnlyCore c s u ∧ exec (.enq c gd rg re nb ps 0) s = .next (if nb then u.writeP c ps false
      else u.setCore c { u.core c with blocked := some (.enq (((s.core c).greg re).extractLsb' 0 16) ((s.core c).word512 rg)) }) := by
  obtain ⟨u, hu, hcore, honly⟩ := State.issue_ready h fun t =>
    t.enqEffect c (BitVec.ofNat 16 (fld ((t.core c).greg re) 0 16)) ((t.core c).word512 rg) nb ps
  rw [decide_eq_false (by decide)] at hcore
  have hword : (u.core c).word512 rg = (s.core c).word512 rg := by rw [hcore]; rfl
  rw [enqQueue_eq, hword, congrArg (Core.greg · re) hcore, State.greg_issued] at hu
  rw [← (AdmitsAlike.of_onlyCore honly hcore).canAccept] at hcan
  refine ⟨u, hcore, honly, ?_⟩
  rw [exec_enq hrg, hu]
  exact congrArg _ (if_neg (Bool.eq_false_iff.mp hcan))

end

/-- The end of a wait in ENQ. -/
theorem TakesCommand.enqAccept {c : CoreId} {s : State} {qid : BitVec 16} {word : List Byte} (hpc : (s.core c).pc ≠ lastPc)
    (hb : (s.core c).blocked = some (.enq qid word)) (hcan : s.canAccept c qid word = true) (hheld : s.issueHeld c = false) :
    TakesCommand (.enqAccept c) c s qid word false 0 { s.core c with blocked := none } := by
  refine .of_accept (fun v => (v.setCore c { v.core c with blocked := none }).advance c) (.refl c s) ?_ rfl fun v hv => ?_
  · show execEnqAccept c s = _
    rw [execEnqAccept, hb]
    dsimp only
    rw [hcan, hheld]
    rfl
  · rw [hv]
    exact .of_setP (nb := false) hpc

/-- An instruction whose issue leaves u and then writes b to ps. -/
theorem WritesP.of_issued {i : Instr} {c : CoreId} {s u : State} {ps : PReg} {b : Bool} (hcore : u.core c = s.issued c false)
    (honly : OnlyCore c s u) (hpc : (s.core c).pc ≠ lastPc) (hi : exec i s = .next (u.writeP c ps b)) : WritesP i s c ps b := by
  have hat : ((u.setCore c ((u.core c).setP ps b)).core c).pc ≠ lastPc := by rwa [State.core_setCore_same, Core.pc_setP, hcore]
  have hgone : (u.writeP c ps b).core c = { (u.core c).setP ps b with pc := ((u.core c).setP ps b).pc + 4 } := by
    rw [State.writeP, State.core_advance hat, State.core_setCore_same]
  refine ⟨_, hi, (honly.setCore _).advance hat, ?_, fun r => ?_⟩
  · rw [hgone, Core.setP_fields, hcore]
    rfl
  · rw [hgone, hcore]
    exact Core.pred_setP _ _ _ _

/-! ### WAIT -/

/-- The instruction i of core c reads v of a slot (R71): the core goes on as k', with v in rd and b in ps where nb asks for it. -/
def ReadsSlot (i : Instr) (c : CoreId) (s : State) (k' : Core) (rd : GReg) (v : Word) (nb : Bool) (ps : PReg) (b : Bool) (fr : Nat) : Prop :=
  let k := s.core c
  ∃ t, exec i s = .next t ∧ t = { s with eff := t.eff, cores := t.cores, free := fr } ∧ KeepsCores c s t ∧
    KeepsRegs (issueRegs c) s t ∧ t.core c = { k' with g := (t.core c).g, p := (t.core c).p, pc := k.pc + 4 } ∧
    (∀ r, (t.core c).greg r = if r = rd ∧ rd ≠ 0 then v else k.greg r) ∧
    ∀ r, (t.core c).pred r = if nb = true ∧ r = ps ∧ ps ≠ 0 then b else k.pred r

section
variable {i : Instr} {c : CoreId} {s u t : State} {k' : Core} {rd : GReg} {v : Word} {nb : Bool} {ps : PReg} {b : Bool} {fr : Nat}

theorem ReadsSlot.of_goneOn (hi : exec i s = .next t) (hu : u = { s with eff := u.eff, cores := u.cores, free := fr })
    (hothers : KeepsCores c s u) (hregs : KeepsRegs (issueRegs c) s u) (hg : k'.g = (s.core c).g) (hp : k'.p = (s.core c).p)
    (hpc : k'.pc = (s.core c).pc) (ht : GoneOn c (if nb then (k'.setG rd v).setP ps b else k'.setG rd v) u t) :
    ReadsSlot i c s k' rd v nb ps b fr := by
  have hcore := ht.core_setP
  rw [Core.setG_fields] at hcore
  refine ⟨t, hi, ?_, fun m hm => ?_, fun a ha => ?_, ?_, fun r => ?_, fun r => ?_⟩
  · obtain ⟨x, hx⟩ : ∃ x, t = { u with cores := x } := ⟨_, ht.fields⟩
    obtain ⟨e, z, hz⟩ : ∃ e z, u = { s with eff := e, cores := z, free := fr } := ⟨_, _, hu⟩
    rw [hx, hz]
  · exact (ht.others m hm).trans (hothers m hm)
  · have htu : t.eff = u.eff := (congrArg State.eff ht.fields).trans rfl
    exact (State.reg_congr htu a).trans (hregs a ha)
  · have hg' : (t.core c).g = (k'.setG rd v).g := (congrArg Core.g hcore).trans rfl
    rw [hg', ← hpc]
    exact hcore
  · have hg' : (t.core c).g = (k'.setG rd v).g := (congrArg Core.g hcore).trans rfl
    rw [Core.greg_congr hg', Core.greg_setG, Core.greg_congr hg]
  · have hp' : (k'.setG rd v).p = (s.core c).p := by rw [Core.setG_fields]; exact hp
    exact (ht.pred_setP r).trans (if_congr Iff.rfl rfl (Core.pred_congr hp' r))

end

theorem Core.setG_setP (k : Core) (rd : GReg) (v : Word) (ps : PReg) (b : Bool) : (k.setP ps b).setG rd v = (k.setG rd v).setP ps b := by
  unfold Core.setG Core.setP
  by_cases hr : rd = 0
  · rw [if_pos hr, if_pos hr]
  · rw [if_neg hr, if_neg hr]
    split <;> rfl

theorem Core.setG_unblocked (k : Core) (rd : GReg) (v : Word) :
    { k.setG rd v with blocked := none } = ({ k with blocked := none } : Core).setG rd v := by
  unfold Core.setG
  split <;> rfl

section
variable {c : CoreId} {s u : State}

/-- WAIT reads v of its slot. -/
theorem ReadsSlot.of_issued {i : Instr} {rd : GReg} {v : Word} {nb : Bool} {ps : PReg} {b : Bool} {fr : Nat}
    (hcore : u.core c = s.issued c false) (honly : OnlyCore c s u) (hpc : (s.core c).pc ≠ lastPc)
    (hi : exec i s =
      .next ((({ u with free := fr } : State).setCore c ((if nb then (u.core c).setP ps b else u.core c).setG rd v)).advance c)) :
    ReadsSlot i c s (s.issued c false) rd v nb ps b fr := by
  have hset : (if nb then (u.core c).setP ps b else u.core c).setG rd v =
      if nb then ((s.issued c false).setG rd v).setP ps b else (s.issued c false).setG rd v := by
    rw [hcore]
    cases nb
    exacts [rfl, Core.setG_setP _ _ _ _ _]
  obtain ⟨hfields, hothers, hregs, -⟩ := honly
  rw [hset] at hi
  refine .of_goneOn (u := { u with free := fr }) hi ?_ hothers hregs rfl rfl rfl (.of_setP ?_)
  · obtain ⟨e, z, hz⟩ : ∃ e z, u = { s with eff := e, cores := z } := ⟨_, _, hfields⟩
    rw [hz]
  · rwa [Core.pc_setG]

end

/-- The effect of WAIT in the state that its issue leaves. -/
def State.waitEffect (c : CoreId) (rd : GReg) (slot : BitVec 6) (nb : Bool) (ps : PReg) (t : State) : State :=
  let k := t.core c
  match k.slot slot.toNat with
  | .free => (t.setCore c ((if nb then k.setP ps false else k).setG rd 0)).advance c
  | .done w => (t.setCore c ((if nb then k.setP ps true else k).setG rd w)).advance c
  | .busy =>
    if nb then (t.drawn.setCore c ((k.setP ps false).setG rd (busyWord t))).advance c
    else t.setCore c { k with blocked := some (.wait slot rd) }

theorem busyWord_done (s : State) : (busyWord s).getLsbD 8 = false := by simp [busyWord]

section
variable {c : CoreId} {s : State} {gd : Guard} (h : Ready s c gd .never) (rd : GReg) (slot : BitVec 6) (nb : Bool) (ps : PReg)
include h

theorem exec_wait : ∃ u, u.core c = s.issued c false ∧ OnlyCore c s u ∧ (u.core c).slot slot.toNat = (s.core c).slot slot.toNat ∧
    exec (.wait c gd rd slot nb ps 0) s = .next (u.waitEffect c rd slot nb ps) := by
  obtain ⟨u, hu, hcore, honly⟩ := State.issue_ready h (State.waitEffect c rd slot nb ps)
  rw [decide_eq_false (by decide)] at hcore
  exact ⟨u, hcore, honly, (congrArg (Core.slot · slot.toNat) hcore).trans rfl, congrArg _ hu⟩

theorem ReadsSlot.wait_free (hs : (s.core c).slot slot.toNat = .free) :
    ReadsSlot (.wait c gd rd slot nb ps 0) c s (s.issued c false) rd 0 nb ps false s.free := by
  obtain ⟨u, hcore, honly, hslot, hi⟩ := exec_wait h rd slot nb ps
  rw [State.waitEffect, hslot, hs] at hi
  have hfree : u.free = s.free := (congrArg State.free honly.1).trans rfl
  exact hfree ▸ .of_issued hcore honly h.inside hi

theorem ReadsSlot.wait_done {w : Word} (hs : (s.core c).slot slot.toNat = .done w) :
    ReadsSlot (.wait c gd rd slot nb ps 0) c s (s.issued c false) rd w nb ps true s.free := by
  obtain ⟨u, hcore, honly, hslot, hi⟩ := exec_wait h rd slot nb ps
  rw [State.waitEffect, hslot, hs] at hi
  have hfree : u.free = s.free := (congrArg State.free honly.1).trans rfl
  exact hfree ▸ .of_issued hcore honly h.inside hi

theorem ReadsSlot.wait_busy (hs : (s.core c).slot slot.toNat = .busy) : ∃ v : Word, v.getLsbD 8 = false ∧
    ReadsSlot (.wait c gd rd slot true ps 0) c s (s.issued c false) rd v true ps false (s.free + 1) := by
  obtain ⟨u, hcore, honly, hslot, hi⟩ := exec_wait h rd slot true ps
  rw [State.waitEffect, hslot, hs] at hi
  have hfree : u.free = s.free := (congrArg State.free honly.1).trans rfl
  exact ⟨busyWord u, busyWord_done u, hfree ▸ .of_issued hcore honly h.inside hi⟩

theorem wait_blocks (hs : (s.core c).slot slot.toNat = .busy) :
    ∃ t, exec (.wait c gd rd slot false ps 0) s = .next t ∧ OnlyCore c s t ∧
      t.core c = { s.issued c false with blocked := some (.wait slot rd) } := by
  obtain ⟨u, hcore, honly, hslot, hi⟩ := exec_wait h rd slot false ps
  rw [State.waitEffect, hslot, hs] at hi
  refine ⟨u.setCore c { u.core c with blocked := some (.wait slot rd) }, hi, honly.setCore _, ?_⟩
  rw [State.core_setCore_same, hcore]

end

/-- The end of a wait in WAIT. -/
theorem ReadsSlot.waitReturn {c : CoreId} {s : State} {rd : GReg} {slot : BitVec 6} {w : Word} (hpc : (s.core c).pc ≠ lastPc)
    (hb : (s.core c).blocked = some (.wait slot rd)) (hs : (s.core c).slot slot.toNat = .done w) (hheld : s.issueHeld c = false) :
    ReadsSlot (.waitReturn c) c s { s.core c with blocked := none } rd w false 0 false s.free := by
  refine .of_goneOn (u := s) ?_ rfl (fun _ _ => rfl) (fun _ _ => rfl) rfl rfl rfl (.of_setP (nb := false) ?_)
  · show execWaitReturn c s = _
    rw [execWaitReturn]
    dsimp only
    rw [hb]
    dsimp only
    rw [hs, hheld, ← Core.setG_unblocked]
    rfl
  · rwa [Core.pc_setG]

/-- Settles O10: each form issues, takes its command or reads its slot, and goes on. -/
theorem enqueueingAndWaiting : Obligations.EnqueueingAndWaiting := by
  unfold Obligations.EnqueueingAndWaiting
  refine ⟨fun c s hpc => ⟨fun gd rg re nb ps h hrg => ⟨fun hcan => ?_, fun hcan => ⟨?_, ?_⟩⟩, fun qid word hb hcan hheld => ?_⟩,
    fun c s hpc => ⟨fun gd rd slot nb ps h => ⟨fun hs => ?_, fun w hs => ?_, fun hs => ⟨?_, ?_⟩⟩, fun rd slot w hb hs hheld => ?_⟩⟩
  · exact TakesCommand.enq h hrg re nb ps hcan
  · obtain ⟨u, hcore, honly, hi⟩ := enq_notNow h hrg re hcan true ps
    exact WritesP.of_issued hcore honly hpc hi
  · obtain ⟨u, hcore, honly, hi⟩ := enq_notNow h hrg re hcan false ps
    exact ⟨_, hi, honly.setCore _, by rw [if_neg Bool.false_ne_true, State.core_setCore_same, hcore]; rfl⟩
  · exact TakesCommand.enqAccept hpc hb hcan hheld
  · exact ReadsSlot.wait_free h rd slot nb ps hs
  · exact ReadsSlot.wait_done h rd slot nb ps hs
  · exact ReadsSlot.wait_busy h rd slot ps hs
  · exact wait_blocks h rd slot ps hs
  · exact ReadsSlot.waitReturn hpc hb hs hheld

end Sys2Proof.Machine
end

section
/-!
SUPPORT. Words that enter and leave a queue (R260), the registers they go to (R66), and what an acquire drops (R35).
-/

namespace Sys2Proof.Machine

/-! ### Queues and cadence channels -/

theorem State.queue_congr {s t : State} (h : t.stem = s.stem) (q : Nat) : t.queue q = s.queue q := by
  unfold State.queue
  rw [h]

theorem State.cad_congr {s t : State} (h : t.cadence = s.cadence) (k : Nat) : t.cad k = s.cad k := by
  unfold State.cad
  rw [h]

section
variable (s : State) (q : Nat) (w : QWord)

theorem State.queue_setQueue (x : StemQ) (j : Nat) : (s.setQueue q x).queue j = if j = q then x else s.queue j := SMap.get_set _ _ _ _ _

theorem StemQ.push_eq (x : StemQ) :
    x.push w = { x with words := x.words ++ [w], pos := if x.words = [] ∨ 8 ≤ x.pos then 1 else x.pos + 1 } := by
  have h : (x.needsCell = true) = (x.words = [] ∨ 8 ≤ x.pos) := by simp [StemQ.needsCell]
  simp only [StemQ.push, h]

theorem State.wordTaken_fields : s.wordTaken w = { s with cadence := (s.wordTaken w).cadence } := by
  unfold State.wordTaken
  split <;> rfl

theorem State.cad_wordTaken (ch : Nat) :
    (s.wordTaken w).cad ch = if w.tick = ch + 1 then { s.cad ch with waiting := false, taken := s.now } else s.cad ch := by
  unfold State.wordTaken
  split
  · next h => rw [if_neg (by omega)]
  · refine (SMap.get_set _ _ _ _ _).trans ?_
    by_cases hc : w.tick = ch + 1
    · rw [if_pos (by omega), if_pos hc, hc, Nat.add_sub_cancel]
    · rw [if_neg (by omega), if_neg hc]
      rfl

theorem State.traceQueue_fields (n : CoreId) (event : Byte) :
    s.traceQueue n event q w = { s with trace := (s.traceQueue n event q w).trace } := State.traceTagged_fields _ _ _ _ _ _ _ _ _

@[simp] theorem State.traceQueue_stem (n : CoreId) (event : Byte) : (s.traceQueue n event q w).stem = s.stem := by
  rw [State.traceQueue_fields]

@[simp] theorem State.traceQueue_cadence (n : CoreId) (event : Byte) : (s.traceQueue n event q w).cadence = s.cadence := by
  rw [State.traceQueue_fields]

@[simp] theorem State.wordTaken_stem : (s.wordTaken w).stem = s.stem := by rw [State.wordTaken_fields]

end

/-! ### The registers of a word -/

section
variable (k : Core) (rg : GReg) (w : BitVec 256)

theorem Core.setWord256_fields : k.setWord256 rg w = { k with g := (k.setWord256 rg w).g } := by
  unfold Core.setWord256 Core.setG
  split_ifs <;> rfl

/-- The word stands in the four registers from rg on. -/
theorem Core.greg_setWord256 (h0 : 0 < rg.toNat) (h28 : rg.toNat ≤ 28) (r : GReg) : (k.setWord256 rg w).greg r =
    if rg.toNat ≤ r.toNat ∧ r.toNat < rg.toNat + 4 then w.extractLsb' (64 * (r.toNat - rg.toNat)) 64 else k.greg r := by
  have hr0 : (r = rg ∧ rg ≠ 0) ↔ r.toNat = rg.toNat := by bv_omega
  have hr1 : (r = rg + 1 ∧ rg + 1 ≠ 0) ↔ r.toNat = rg.toNat + 1 := by bv_omega
  have hr2 : (r = rg + 2 ∧ rg + 2 ≠ 0) ↔ r.toNat = rg.toNat + 2 := by bv_omega
  have hr3 : (r = rg + 3 ∧ rg + 3 ≠ 0) ↔ r.toNat = rg.toNat + 3 := by bv_omega
  simp only [Core.setWord256, Core.greg_setG, hr0, hr1, hr2, hr3]
  by_cases hin : rg.toNat ≤ r.toNat ∧ r.toNat < rg.toNat + 4
  · obtain ⟨i, hi, hri⟩ : ∃ i < 4, r.toNat = rg.toNat + i := ⟨r.toNat - rg.toNat, by omega, by omega⟩
    rw [if_pos hin, hri, Nat.add_sub_cancel_left]
    simp only [Nat.add_right_inj, Nat.add_eq_left]
    interval_cases i <;> rfl
  · rw [if_neg hin, if_neg (by omega), if_neg (by omega), if_neg (by omega), if_neg (by omega)]

end

/-- The core that has taken a word: it stands in the registers, its end mark in pe. -/
def Core.received (k : Core) (rg : GReg) (pe : PReg) (w : QWord) : Core := (k.setWord256 rg w.data).setP pe w.last

section
variable (k : Core) (rg : GReg) (pe : PReg) (w : QWord)

theorem Core.received_fields : k.received rg pe w = { k with g := (k.received rg pe w).g, p := (k.received rg pe w).p } := by
  unfold Core.received
  rw [Core.setP_fields, Core.setWord256_fields]

theorem Core.greg_received (h0 : 0 < rg.toNat) (h28 : rg.toNat ≤ 28) (r : GReg) : (k.received rg pe w).greg r =
    if rg.toNat ≤ r.toNat ∧ r.toNat < rg.toNat + 4 then w.data.extractLsb' (64 * (r.toNat - rg.toNat)) 64 else k.greg r := by
  have hg : (k.received rg pe w).g = (k.setWord256 rg w.data).g := by rw [Core.received, Core.setP_fields]
  rw [Core.greg_congr hg, Core.greg_setWord256 k rg w.data h0 h28]

theorem Core.pred_received (r : PReg) : (k.received rg pe w).pred r = if r = pe ∧ pe ≠ 0 then w.last else k.pred r := by
  rw [Core.received, Core.pred_setP, Core.setWord256_fields]
  rfl

end

/-! ### Lines squashed -/

theorem State.squash_fields (s : State) (src g n : Nat) : RegsOnly s (s.squash src g n) := by
  unfold State.squash
  split
  · exact .refl
  · exact (RegsOnly.refl.bump _ _).bump _ _

/-- A line of a group of the module squashed is counted alone. -/
theorem KeepsBut.squash {s t : State} (h : KeepsBut [] s t) {g : Nat} (hg : g < 16) (n : Nat) : KeepsBut [] s (t.squash 1 g n) := by
  have hpart : ∀ p : Fin 16, wrapReg (Reg.dbgPartCnt p 4) = some (Reg.dbgPartWrap p) := by decide
  have hhub : wrapReg (Reg.hubSquash 1) = some Reg.hubSpecWrap := by decide
  unfold State.squash
  split
  · exact h
  · exact (h.bump n hhub).bump n (hpart ⟨g, hg⟩)

/-- What the eviction of one line counts. -/
def State.lineSquashed (t : State) (l : AheadLine) : State :=
  let u := t.squash 1 l.group 1
  if l.bad then u.bump Reg.mgdSpecErr 1 else u

theorem State.lineSquashed_fields (t : State) (l : AheadLine) : RegsOnly t (t.lineSquashed l) := by
  unfold State.lineSquashed
  dsimp only
  split
  · exact (State.squash_fields t _ _ _).bump _ _
  · exact State.squash_fields t _ _ _

theorem KeepsBut.lineSquashed {s t : State} (h : KeepsBut [] s t) {l : AheadLine} (hl : l.group < 16) :
    KeepsBut [] s (t.lineSquashed l) := by
  have herr : wrapReg Reg.mgdSpecErr = some Reg.mgdCntWrap := by decide
  unfold State.lineSquashed
  dsimp only
  split
  · exact (h.squash hl 1).bump 1 herr
  · exact h.squash hl 1

theorem State.evict_eq (s : State) (gone : AheadLine → Bool) : s.evict gone =
    ((s.ahead.filter gone).filter (fun l => !l.used)).foldl State.lineSquashed { s with ahead := s.ahead.filter (fun l => !(gone l)) } := by
  unfold State.evict
  dsimp only
  split
  · next h =>
    have hnil := List.isEmpty_iff.mp h
    have hall : s.ahead.filter (fun l => !(gone l)) = s.ahead :=
      List.filter_eq_self.mpr fun l hl => by simpa using List.filter_eq_nil_iff.mp hnil l hl
    rw [hnil, hall]
    rfl
  · rfl

section
variable {s t : State} (ls : List AheadLine)

theorem RegsOnly.linesSquashed (h : RegsOnly s t) : RegsOnly s (ls.foldl State.lineSquashed t) := by
  induction ls generalizing t with
  | nil => exact h
  | cons l ls ih =>
    refine ih ?_
    unfold RegsOnly
    rw [State.lineSquashed_fields t l, h]

theorem KeepsBut.linesSquashed (h : KeepsBut [] s t) (hls : ∀ l ∈ ls, l.group < 16) : KeepsBut [] s (ls.foldl State.lineSquashed t) := by
  induction ls generalizing t with
  | nil => exact h
  | cons l ls ih =>
    obtain ⟨hl, hls⟩ := List.forall_mem_cons.mp hls
    exact ih (h.lineSquashed hl) hls

end

/-! ### An acquire at scope S -/

theorem State.groupOfCore_lt (s : State) (n : CoreId) : s.groupOfCore n < 16 :=
  (Nat.div_mul_le_self _ _).trans_lt (partOfCore_lt n)

section
variable (s : State) (g : Nat)

theorem State.dropPeers_fields : ∃ e ls rs, s.dropPeers g = { s with eff := e, ahead := ls, reqs := rs } := by
  unfold State.dropPeers
  rw [State.evict_eq, RegsOnly.linesSquashed _ .refl]
  exact ⟨_, _, _, rfl⟩

theorem State.dropPeers_keeps (hg : g < 16) : KeepsButCounters s (s.dropPeers g) := by
  unfold State.dropPeers
  rw [State.evict_eq]
  refine fun a ha => (KeepsBut.linesSquashed _ KeepsBut.refl fun l hl => ?_) a ha List.not_mem_nil
  obtain ⟨hgone, -⟩ := List.mem_filter.mp hl
  obtain ⟨-, hgone⟩ := List.mem_filter.mp hgone
  obtain ⟨hgone, -⟩ := Bool.and_eq_true_iff.mp hgone
  exact of_decide_eq_true hgone ▸ hg

end

end Sys2Proof.Machine
end

section
/-!
PROOFS. Waiting puts and gets go on (O9): R67, R260, R263.
-/

namespace Sys2Proof.Machine

/-- Core c, no longer blocked, goes on. -/
def State.unblock (t : State) (c : CoreId) : State := (t.setCore c { t.core c with blocked := none }).advance c

theorem GoneOn.unblock {t : State} {c : CoreId} (hpc : (t.core c).pc ≠ lastPc) :
    GoneOn c { t.core c with blocked := none } t (t.unblock c) := .of_setCore hpc

theorem GoneOn.unblock_setCore {t : State} {c : CoreId} {k : Core} (hpc : k.pc ≠ lastPc) :
    GoneOn c { k with blocked := none } t ((t.setCore c k).unblock c) :=
  .of_advance rfl (fun _ hm => (State.core_setCore_other _ _ hm).trans (State.core_setCore_other _ _ hm))
    (by rw [State.core_setCore_same, State.core_setCore_same]) hpc

/-! ### QPUT -/

section
variable (s : State) (c : CoreId) (q : Nat) (w : QWord) (rest : List PutWait)

/-- The first waiting put of queue q, core c's, has entered. -/
def State.putEntered : State := ((s.setQueue q { s.queue q with waiting := rest }).pushWord q w).traceQueue c 0x03 q w

theorem State.putEntered_fields : ∃ st tr, s.putEntered c q w rest = { s with stem := st, trace := tr } :=
  ⟨_, _, State.traceQueue_fields _ _ _ _ _⟩

theorem State.queue_putEntered (n : Nat) : (s.putEntered c q w rest).queue n =
    if n = q then { s.queue q with
      waiting := rest, words := (s.queue q).words ++ [w]
      pos := if (s.queue q).words = [] ∨ 8 ≤ (s.queue q).pos then 1 else (s.queue q).pos + 1 }
    else s.queue n := by
  rw [State.putEntered, State.queue_congr (State.traceQueue_stem _ q w c 0x03), State.pushWord, State.queue_setQueue, State.queue_setQueue_same,
    StemQ.push_eq, State.queue_setQueue]
  split <;> rfl

end

theorem exec_qputUnblock {c : CoreId} {q : BitVec 12} {s : State} {rel : Bool} {w : QWord} {rest : List PutWait}
    (hb : (s.core c).blocked = some (.qput q rel)) (hw : (s.queue q.toNat).waiting = { who := .core c, word := w } :: rest)
    (hbound : s.qBound q.toNat = true) (hroom : s.hasRoom q.toNat = true) (hrel : rel = true → s.writesPending c = false)
    (hstop : s.stopped = false) (hheld : s.issueHeld c = false) :
    exec (.qputUnblock q) s = .next ((s.putEntered c q.toNat w rest).unblock c) := by
  have hmet : s.releaseMet c rel = true := by
    cases rel
    · rfl
    · rw [State.releaseMet, hrel rfl]
      rfl
  have hpush : (s.setQueue q.toNat { s.queue q.toNat with waiting := rest }).acceptWord q.toNat w =
      (s.setQueue q.toNat { s.queue q.toNat with waiting := rest }).pushWord q.toNat w := if_pos hbound
  show execQputUnblock q s = _
  unfold execQputUnblock
  dsimp only
  rw [hw]
  dsimp only
  rw [hroom, hstop, hb, hpush]
  dsimp only
  rw [hmet, hheld]
  rfl

/-! ### QGET -/

section
variable (s : State) (c : CoreId) (q : Nat) (w : QWord) (rest : List QWord) (others : List CoreId)

/-- Core c, the first waiting at queue q, has taken its first word. -/
def State.wordGot : State :=
  (((s.setQueue q { s.queue q with getters := others }).setQueue q { s.queue q with words := rest, getters := others }).wordTaken w).traceQueue
    c 0x04 q w

theorem State.wordGot_fields : ∃ st cd tr, s.wordGot c q w rest others = { s with stem := st, cadence := cd, trace := tr } := by
  unfold State.wordGot
  rw [State.traceQueue_fields, State.wordTaken_fields]
  exact ⟨_, _, _, rfl⟩

theorem State.wordGot_cores : (s.wordGot c q w rest others).cores = s.cores := by
  obtain ⟨st, cd, tr, h⟩ := State.wordGot_fields s c q w rest others
  rw [h]

theorem State.queue_wordGot (n : Nat) : (s.wordGot c q w rest others).queue n =
    if n = q then { s.queue q with words := rest, getters := others } else s.queue n := by
  rw [State.wordGot, State.queue_congr ((State.traceQueue_stem _ q w c 0x04).trans (State.wordTaken_stem _ w)), State.queue_setQueue,
    State.queue_setQueue]
  split <;> rfl

theorem State.cad_wordGot (ch : Nat) : (s.wordGot c q w rest others).cad ch =
    if w.tick = ch + 1 then { s.cad ch with waiting := false, taken := s.now } else s.cad ch := by
  rw [State.wordGot, State.cad_congr (State.traceQueue_cadence _ q w c 0x04)]
  exact State.cad_wordTaken _ w ch

/-- What the acquire of a get leaves: with ACQ on a queue of scope S, the group's lines of peers' memory are dropped. -/
def State.acquired (t : State) (c : CoreId) (drops : Bool) : State := if drops then t.dropPeers (t.groupOfCore c) else t

theorem State.acquired_fields (t : State) (drops : Bool) : ∃ e ls rs, t.acquired c drops = { t with eff := e, ahead := ls, reqs := rs } := by
  cases drops
  · exact ⟨_, _, _, rfl⟩
  · exact State.dropPeers_fields t _

theorem State.acquired_cores (t : State) (drops : Bool) : (t.acquired c drops).cores = t.cores := by
  obtain ⟨e, ls, rs, h⟩ := State.acquired_fields c t drops
  rw [h]

theorem State.acquired_keeps (t : State) (drops : Bool) : KeepsButCounters t (t.acquired c drops) := by
  cases drops
  · exact fun _ _ => rfl
  · exact State.dropPeers_keeps t _ (State.groupOfCore_lt t c)

end

theorem State.popWord_eq {s : State} {q : Nat} {w : QWord} {rest : List QWord} (h : (s.queue q).words = w :: rest) :
    s.popWord q = (s.setQueue q { s.queue q with words := rest }).wordTaken w := by
  unfold State.popWord StemQ.pop
  dsimp only
  rw [h]
  rfl

theorem State.getWord_eq {s : State} (c : CoreId) {q : Nat} (rg : GReg) (pe : PReg) (acq : Bool) {w : QWord} {rest : List QWord}
    (h : (s.queue q).words = w :: rest) :
    let t := (((s.setQueue q { s.queue q with words := rest }).wordTaken w).traceQueue c 0x04 q w).acquired c
      (acq && decide (s.qScope q = .s))
    s.getWord c q rg pe acq = t.setCore c ((t.core c).received rg pe w) := by
  unfold State.getWord
  rw [h]
  dsimp only
  rw [State.popWord_eq h]
  rfl

theorem exec_qgetUnblock {c : CoreId} {q : BitVec 12} {s : State} {rg : GReg} {pe : PReg} {acq : Bool} {w : QWord} {rest : List QWord}
    {others : List CoreId} (hb : (s.core c).blocked = some (.qget q rg pe acq)) (hw : (s.queue q.toNat).words = w :: rest)
    (hg : (s.queue q.toNat).getters = c :: others) (hheld : s.issueHeld c = false) :
    let t := (s.wordGot c q.toNat w rest others).acquired c (acq && decide (s.qScope q.toNat = .s))
    exec (.qgetUnblock c) s = .next ((t.setCore c ((t.core c).received rg pe w)).unblock c) := by
  have hx := State.queue_setQueue_same s q.toNat { s.queue q.toNat with getters := others }
  have hwords : ((s.setQueue q.toNat { s.queue q.toNat with getters := others }).queue q.toNat).words = w :: rest := by rw [hx]; exact hw
  show execQgetUnblock c s = _
  unfold execQgetUnblock
  rw [hb]
  dsimp only
  rw [hg, hheld]
  refine (if_neg ?_).trans ?_
  · simp [hw]
  · show Host.Outcome.next (((s.setQueue q.toNat { s.queue q.toNat with getters := others }).getWord c q.toNat rg pe acq).unblock c) = _
    rw [State.getWord_eq c rg pe acq hwords, hx]
    rfl

/-! ### The cores go on -/

section
variable {c : CoreId} {q : BitVec 12} {s : State} (hpc : (s.core c).pc ≠ lastPc) (hheld : s.issueHeld c = false)
include hpc hheld

theorem GoneOn.qputUnblock {rel : Bool} {w : QWord} {rest : List PutWait} (hb : (s.core c).blocked = some (.qput q rel))
    (hw : (s.queue q.toNat).waiting = { who := .core c, word := w } :: rest) (hbound : s.qBound q.toNat = true)
    (hroom : s.hasRoom q.toNat = true) (hrel : rel = true → s.writesPending c = false) (hstop : s.stopped = false) :
    ∃ t, exec (.qputUnblock q) s = .next t ∧ GoneOn c { s.core c with blocked := none } (s.putEntered c q.toNat w rest) t := by
  obtain ⟨st, tr, hu⟩ := State.putEntered_fields s c q.toNat w rest
  have hcore : (s.putEntered c q.toNat w rest).core c = s.core c := State.core_congr (by rw [hu]) c
  exact ⟨_, exec_qputUnblock hb hw hbound hroom hrel hstop hheld, hcore ▸ .unblock (by rwa [hcore])⟩

theorem GoneOn.qgetUnblock {rg : GReg} {pe : PReg} {acq : Bool} {w : QWord} {rest : List QWord} {others : List CoreId}
    (hb : (s.core c).blocked = some (.qget q rg pe acq)) (hw : (s.queue q.toNat).words = w :: rest)
    (hg : (s.queue q.toNat).getters = c :: others) :
    ∃ t, exec (.qgetUnblock c) s = .next t ∧ GoneOn c { (s.core c).received rg pe w with blocked := none }
      ((s.wordGot c q.toNat w rest others).acquired c (acq && decide (s.qScope q.toNat = .s))) t := by
  have hcore := State.core_congr ((State.acquired_cores c (s.wordGot c q.toNat w rest others) (acq && decide (s.qScope q.toNat = .s))).trans
    (State.wordGot_cores s c q.toNat w rest others)) c
  refine ⟨_, exec_qgetUnblock hb hw hg hheld, ?_⟩
  rw [hcore]
  exact .unblock_setCore (by rwa [Core.received_fields])

end

/-- Settles O9: the word moves, and the core that waited for it goes on. -/
theorem waitingQueueInstructions : Obligations.WaitingQueueInstructions := by
  unfold Obligations.WaitingQueueInstructions
  intro c q s k x hpc hheld
  refine ⟨fun rel w rest hb hw hbound hroom hrel hstop => ?_, fun rg pe acq w rest others hb hw hg h0 h28 => ?_⟩
  · obtain ⟨t, hi, hgone⟩ := GoneOn.qputUnblock hpc hheld hb hw hbound hroom hrel hstop
    have hqueue := State.queue_putEntered s c q.toNat w rest
    obtain ⟨st, tr, hu⟩ := State.putEntered_fields s c q.toNat w rest
    generalize s.putEntered c q.toNat w rest = u at hgone hqueue hu
    obtain ⟨y, hy⟩ : ∃ y, t = { u with cores := y } := ⟨_, hgone.fields⟩
    have hstem : t.stem = u.stem := by rw [hy]
    have hcores : u.cores = s.cores := by rw [hu]
    refine ⟨t, hi, by rw [hy, hu], fun m hm => (hgone.others m hm).trans (State.core_congr hcores m), hgone.core, ?_, fun n hn => ?_⟩
    · rw [State.queue_congr hstem, hqueue, if_pos rfl]
    · rw [State.queue_congr hstem, hqueue, if_neg hn]
  · obtain ⟨t, hi, hgone⟩ := GoneOn.qgetUnblock hpc hheld hb hw hg
    have hqueue := State.queue_wordGot s c q.toNat w rest others
    have hcad := State.cad_wordGot s c q.toNat w rest others
    obtain ⟨st, cd, tr, hu⟩ := State.wordGot_fields s c q.toNat w rest others
    generalize s.wordGot c q.toNat w rest others = u at hgone hqueue hcad hu
    have hsame : ¬(acq = true ∧ s.qScope q.toNat = .s) → u.acquired c (acq && decide (s.qScope q.toNat = .s)) = u :=
      fun hno => if_neg fun h => hno (by simpa using h)
    have hkeeps := State.acquired_keeps c u (acq && decide (s.qScope q.toNat = .s))
    obtain ⟨e, ls, rs, hv⟩ := State.acquired_fields c u (acq && decide (s.qScope q.toNat = .s))
    generalize u.acquired c (acq && decide (s.qScope q.toNat = .s)) = v at hgone hsame hkeeps hv
    obtain ⟨y, hy⟩ : ∃ y, t = { v with cores := y } := ⟨_, hgone.fields⟩
    have heff : t.eff = v.eff := by rw [hy]
    have hstem : t.stem = u.stem := by rw [hy, hv]
    have hcadence : t.cadence = u.cadence := by rw [hy, hv]
    have hcores : v.cores = s.cores := by rw [hv, hu]
    refine ⟨t, hi, by rw [hy, hv, hu], fun a ha => ?_, fun hno => ?_, fun m hm => (hgone.others m hm).trans (State.core_congr hcores m), ?_,
      fun r => ?_, fun r => ?_, ?_, fun n hn => ?_, fun ch => ?_⟩
    · exact (State.reg_congr heff a).trans ((hkeeps a ha).trans (State.reg_congr (by rw [hu]) a))
    · rw [hy, hsame hno, hu]
      exact ⟨rfl, rfl, rfl⟩
    · rw [hgone.core, Core.received_fields]
    · rw [hgone.core]
      exact Core.greg_received _ rg pe w h0 h28 r
    · rw [hgone.core]
      exact Core.pred_received _ rg pe w r
    · rw [State.queue_congr hstem, hqueue, if_pos rfl]
    · rw [State.queue_congr hstem, hqueue, if_neg hn]
    · rw [State.cad_congr hcadence, hcad]

end Sys2Proof.Machine
end

section
/-!
SUPPORT. The accumulators of a Peony core (R113, R119, R121): a window of elements written one after another; and a set's rows (R116).
-/

namespace Sys2Proof.Machine

/-! ### Windows of accumulators -/

/-- Row i of a window of n columns: the element at place i j becomes v i j of what it was, one after another. -/
def PeonyCore.fillRow (p : PeonyCore) (n : Nat) (place : Nat → Nat → Nat × Nat) (v : Nat → Nat → BitVec 32 → BitVec 32) (i : Nat) :
    PeonyCore :=
  (List.range n).foldl (fun q j => q.put (place i j).1 (place i j).2 (v i j (q.at (place i j).1 (place i j).2))) p

/-- An m by n window, row by row. -/
def PeonyCore.fill (p : PeonyCore) (m n : Nat) (place : Nat → Nat → Nat × Nat) (v : Nat → Nat → BitVec 32 → BitVec 32) : PeonyCore :=
  (List.range m).foldl (fun q i => q.fillRow n place v i) p

/-- The places of an m by n window are places of the 512 columns, no two the same. -/
structure Placed (m n : Nat) (place : Nat → Nat → Nat × Nat) : Prop where
  inside : ∀ i < m, ∀ j < n, (place i j).2 < 512
  apart : ∀ i < m, ∀ j < n, ∀ i' < m, ∀ j' < n, place i j = place i' j' → i = i' ∧ j = j'

/-- The window from (r0, c0) on. -/
theorem Placed.window {m n r0 c0 : Nat} (h : c0 + n ≤ 512) : Placed m n fun i j => (r0 + i, c0 + j) where
  inside i _ j hj := by dsimp only; omega
  apart i _ j _ i' _ j' _ he := by simpa using he

/-- The window at columns 0 on, its rows from r0 on. -/
theorem Placed.rows {m n r0 : Nat} (h : n ≤ 512) : Placed m n fun i j => (r0 + i, j) where
  inside i _ j hj := by dsimp only; omega
  apart i _ j _ i' _ j' _ he := by simpa using he

/-- The same window with rows and columns exchanged. -/
theorem Placed.columns {m n r0 : Nat} (h : m ≤ 512) : Placed m n fun i j => (r0 + j, i) where
  inside i hi j _ := by dsimp only; omega
  apart i _ j _ i' _ j' _ he := (by simpa using he : j = j' ∧ i = i').symm

/-- From p to q no stationary set changes. -/
def KeepsSets (p q : PeonyCore) : Prop := q.set0 = p.set0 ∧ q.set1 = p.set1

section
variable (p : PeonyCore) {q : PeonyCore} {m n r c r' c' : Nat} {place : Nat → Nat → Nat × Nat} {v : Nat → Nat → BitVec 32 → BitVec 32}

theorem PeonyCore.at_put (h : c < 512) (h' : c' < 512) (x : BitVec 32) :
    (p.put r c x).at r' c' = if (r', c') = (r, c) then x else p.at r' c' := by
  have hkey : 512 * r' + c' = 512 * r + c ↔ (r', c') = (r, c) := by
    rw [Prod.mk.injEq]
    omega
  refine (SMap.get_set _ _ _ _ _).trans ?_
  simp only [hkey]
  rfl

theorem PeonyCore.put_keepsSets (h : KeepsSets q p) (x : BitVec 32) : KeepsSets q (p.put r c x) := h

theorem PeonyCore.fill_keepsSets : KeepsSets p (p.fill m n place v) :=
  List.foldlRecOn (motive := KeepsSets p) _ _ ⟨rfl, rfl⟩ fun _ hq _ _ =>
    List.foldlRecOn (motive := KeepsSets p) _ _ hq fun q hq _ _ => q.put_keepsSets hq _

/-- No element outside the row changes. -/
theorem PeonyCore.at_fillRow_outside {i : Nat} (hin : ∀ j < n, (place i j).2 < 512) (hc : c < 512) (hout : ∀ j < n, place i j ≠ (r, c)) :
    (p.fillRow n place v i).at r c = p.at r c := by
  refine List.foldlRecOn (motive := fun q : PeonyCore => q.at r c = p.at r c) _ _ rfl fun q hq j hj => ?_
  rw [List.mem_range] at hj
  rw [PeonyCore.at_put q (hin j hj) hc, if_neg (hout j hj).symm, hq]

/-- No element outside the window changes. -/
theorem PeonyCore.at_fill_outside (hin : ∀ i < m, ∀ j < n, (place i j).2 < 512) (hc : c < 512)
    (hout : ∀ i < m, ∀ j < n, place i j ≠ (r, c)) : (p.fill m n place v).at r c = p.at r c := by
  refine List.foldlRecOn (motive := fun q : PeonyCore => q.at r c = p.at r c) _ _ rfl fun q hq i hi => ?_
  rw [List.mem_range] at hi
  rw [PeonyCore.at_fillRow_outside q (hin i hi) hc (hout i hi), hq]

section
variable (h : Placed m n place) {i : Nat} (hi : i < m)
include h hi

/-- Each element of the row has become what v makes of it. -/
theorem PeonyCore.at_fillRow {j : Nat} (hj : j < n) :
    (p.fillRow n place v i).at (place i j).1 (place i j).2 = v i j (p.at (place i j).1 (place i j).2) := by
  have hput {q : PeonyCore} {x : BitVec 32} {j k : Nat} (hj : j ∈ List.range n) (hk : k ∈ List.range n) :
      (q.put (place i j).1 (place i j).2 x).at (place i k).1 (place i k).2 = if k = j then x else q.at (place i k).1 (place i k).2 := by
    rw [List.mem_range] at hj hk
    have hplace : place i k = place i j ↔ k = j := ⟨fun he => (h.apart i hi k hk i hi j hj he).2, fun he => he ▸ rfl⟩
    rw [PeonyCore.at_put q (h.inside i hi j hj) (h.inside i hi k hk)]
    exact if_congr hplace rfl rfl
  refine foldl_once (P := fun j (q : PeonyCore) => q.at (place i j).1 (place i j).2 = p.at (place i j).1 (place i j).2)
    (Q := fun j (q : PeonyCore) => q.at (place i j).1 (place i j).2 = v i j (p.at (place i j).1 (place i j).2))
    List.nodup_range (fun q j hj hq => ?_) (fun q j hj k hk hne hq => ?_) (fun q j hj k hk hne hq => ?_) (fun _ _ => rfl) j
    (List.mem_range.mpr hj)
  · rw [hput hj hj, if_pos rfl, hq]
  · rw [hput hj hk, if_neg hne, hq]
  · rw [hput hj hk, if_neg hne, hq]

/-- A row of the window leaves the others alone. -/
theorem PeonyCore.at_fillRow_other {i' j' : Nat} (hi' : i' < m) (hj' : j' < n) (hne : i' ≠ i) :
    (p.fillRow n place v i).at (place i' j').1 (place i' j').2 = p.at (place i' j').1 (place i' j').2 :=
  p.at_fillRow_outside (h.inside i hi) (h.inside i' hi' j' hj') fun j hj he => hne (h.apart i hi j hj i' hi' j' hj' he).1.symm

/-- Each element of the window has become what v makes of it. -/
theorem PeonyCore.at_fill {j : Nat} (hj : j < n) :
    (p.fill m n place v).at (place i j).1 (place i j).2 = v i j (p.at (place i j).1 (place i j).2) := by
  refine foldl_once (P := fun i (q : PeonyCore) => q.at (place i j).1 (place i j).2 = p.at (place i j).1 (place i j).2)
    (Q := fun i (q : PeonyCore) => q.at (place i j).1 (place i j).2 = v i j (p.at (place i j).1 (place i j).2))
    List.nodup_range (fun q i hi hq => ?_) (fun q i hi k hk hne hq => ?_) (fun q i hi k hk hne hq => ?_) (fun _ _ => rfl) i
    (List.mem_range.mpr hi)
  · rw [q.at_fillRow h (List.mem_range.mp hi) hj, hq]
  · rw [q.at_fillRow_other h (List.mem_range.mp hi) (List.mem_range.mp hk) hj hne, hq]
  · rw [q.at_fillRow_other h (List.mem_range.mp hi) (List.mem_range.mp hk) hj hne, hq]

end

/-- A window of zeros. -/
theorem PeonyCore.at_fill_zero {r0 c0 : Nat} (h : c0 + n ≤ 512) (hc : c < 512) :
    (p.fill m n (fun i j => (r0 + i, c0 + j)) fun _ _ _ => 0).at r c =
      if r0 ≤ r ∧ r < r0 + m ∧ c0 ≤ c ∧ c < c0 + n then 0 else p.at r c := by
  have hw : Placed m n fun i j => (r0 + i, c0 + j) := .window h
  split
  · next hin =>
    obtain ⟨hr, hr', hc0, hc'⟩ := hin
    obtain ⟨i, rfl⟩ := Nat.exists_eq_add_of_le hr
    obtain ⟨j, rfl⟩ := Nat.exists_eq_add_of_le hc0
    exact p.at_fill hw (by omega) (by omega)
  · next hnot =>
    refine p.at_fill_outside hw.inside hc fun i hi j hj he => hnot ?_
    obtain ⟨rfl, rfl⟩ := Prod.mk.inj he
    omega

end

/-! ### Loops over numbered rows -/

theorem zipIdx_map_range {α : Type} (n : Nat) (f : Nat → α) : ((List.range n).map f).zipIdx = (List.range n).map fun i => (f i, i) := by
  apply List.ext_getElem <;> simp

/-- A loop that also gathers flags, without them. -/
theorem foldl_fst {σ φ α : Type} {g : σ × φ → α → σ × φ} {k : σ → α → σ} (h : ∀ x a, (g x a).1 = k x.1 a) (l : List α) (x : σ × φ) :
    (l.foldl g x).1 = l.foldl k x.1 := (List.foldl_hom Prod.fst fun x a => (h x a).symm).symm

/-! ### Stationary sets -/

/-- Row r of rows of equal length written one after another. -/
theorem take_drop_flatten_rows {α : Type} {k : Nat} {f : Nat → List α} (hf : ∀ i, (f i).length = k) {m r : Nat} (hr : r < m) :
    ((((List.range m).map f).flatten.drop (r * k)).take k) = f r := by
  have hsum (n : Nat) : (((List.range n).map f).flatten).length = n * k := by
    simp [List.length_flatten, Function.comp_def, hf]
  obtain ⟨d, rfl⟩ := Nat.exists_eq_add_of_lt hr
  rw [show r + d + 1 = r + (d + 1) by omega, List.range_add, List.map_append, List.flatten_append, ← hsum r, List.drop_left, List.map_map,
    List.range_succ_eq_map, List.map_cons, List.flatten_cons]
  exact List.take_left' (hf r)

theorem StatSet.row_of_elems {st : StatSet} {m k r : Nat} {f : Nat → List Elem} (hk : st.kext = k) (hf : ∀ i, (f i).length = k)
    (he : st.elems = ((List.range m).map f).flatten) (hr : r < m) : st.row r k = f r := by
  unfold StatSet.row
  rw [he, hk, take_drop_flatten_rows hf hr]

end Sys2Proof.Machine
end

section
/-!
SUPPORT. The work of a Peony command: when it is done, what ends it, what it leaves alone beside its core's array (R106, R112).
-/

namespace Sys2Proof.Machine

section
variable {s t u : State} {c : Cmd}

theorem State.cmd_of_working {id cls op : Nat} (h : s.working id cls op = some c) : s.cmd c.id = some c := by
  unfold State.working at h
  split at h
  · cases h
  · next d hd =>
    split at h
    · cases h
      rwa [State.cmd_id hd]
    · cases h

/-- The work of a command that is under way ends, whatever it has changed beside the commands. -/
theorem WorkEnds.workDone (hc : s.cmd c.id = some c) (hu : u.cmds = s.cmds) (status : Byte) (result : BitVec 32) :
    WorkEnds s (u.workDone c status result) c status result := by
  have hcmd (j : Nat) : u.cmd j = s.cmd j := congrArg (List.find? _) hu
  have hset := State.cmd_setCmd (d := { c with phase := .done status result }) ((hcmd c.id).trans hc)
  exact ⟨(hset c.id).trans (if_pos rfl), fun j hj => (hset j).trans ((if_neg hj).trans (hcmd j))⟩

theorem State.withReads_ok {rs : List (Nat × Nat)} (h : s.readable c.agent rs = .ok ()) (k : State) : s.withReads c rs k = k := by
  unfold State.withReads
  rw [h]

theorem State.peonyAt_setPeony (n k : Nat) (p : PeonyCore) : (s.setPeony n p).peonyAt k = if k = n then p else s.peonyAt k :=
  SMap.get_set _ _ _ _ _

theorem State.peonyAt_congr (h : t.peony = s.peony) (k : Nat) : t.peonyAt k = s.peonyAt k := by
  unfold State.peonyAt
  rw [h]

theorem State.peonyAt_bump (a n k : Nat) : (s.bump a n).peonyAt k = s.peonyAt k := State.peonyAt_congr (by rw [State.bump_fields]) k

@[simp] theorem State.peonyAt_workDone (status : Byte) (result : BitVec 32) (k : Nat) :
    (s.workDone c status result).peonyAt k = s.peonyAt k := rfl

/-! ### Counters of the array -/

/-- Where the counters of a Peony core of the module have their WRAPPED bits. -/
theorem wrapReg_peony {n : Nat} (h : n < 48) : ∃ w, wrapReg (Reg.pnyArrayActive n) = some w ∧ wrapReg (Reg.pnyFreezeFeed n) = some w ∧
    wrapReg (Reg.pnyFreezeDrain n) = some w ∧ wrapReg (Reg.pnyGated n) = some w := by
  have hall : ∀ n : Fin 48, wrapReg (Reg.pnyArrayActive n) = some (Reg.pnyCntWrap n) ∧
      wrapReg (Reg.pnyFreezeFeed n) = some (Reg.pnyCntWrap n) ∧ wrapReg (Reg.pnyFreezeDrain n) = some (Reg.pnyCntWrap n) ∧
      wrapReg (Reg.pnyGated n) = some (Reg.pnyCntWrap n) := by decide
  exact ⟨_, hall ⟨n, h⟩⟩

/-! ### Work in the array -/

/-- From s to t the array state of Peony core n alone changes, and counters. -/
structure ArrayFrame (n : Nat) (s t : State) : Prop where
  fields : t = { s with eff := t.eff, peony := t.peony }
  regs : KeepsBut [] s t
  others : ∀ k, k ≠ n → t.peonyAt k = s.peonyAt k

theorem ArrayFrame.setPeony (n : Nat) (p : PeonyCore) : ArrayFrame n s (s.setPeony n p) :=
  ⟨rfl, .refl, fun k hk => (State.peonyAt_setPeony n k p).trans (if_neg hk)⟩

theorem ArrayFrame.bump {n : Nat} (h : ArrayFrame n s t) {a w : Nat} (hw : wrapReg a = some w) (k : Nat) : ArrayFrame n s (t.bump a k) := by
  refine ⟨?_, h.regs.bump k hw, fun j hj => (State.peonyAt_bump a k j).trans (h.others j hj)⟩
  rw [State.bump_fields, h.fields]

theorem ArrayFrame.countGated {n : Nat} (h : ArrayFrame n s t) (hn : n < 48) (halves : Nat) :
    ArrayFrame n s (t.countGated n halves) ∧ (t.countGated n halves).peonyAt n =
      { t.peonyAt n with gatedRest := ((t.peonyAt n).gatedRest + halves) % 131072 } := by
  obtain ⟨w, -, -, -, hw⟩ := wrapReg_peony hn
  have hset (p : PeonyCore) : ArrayFrame n s (t.setPeony n p) := by
    refine ⟨?_, h.regs, fun k hk => ((State.peonyAt_setPeony n k p).trans (if_neg hk)).trans (h.others k hk)⟩
    rw [State.setPeony, h.fields]
  unfold State.countGated
  dsimp only
  split
  · exact ⟨hset _, (State.peonyAt_setPeony n n _).trans (if_pos rfl)⟩
  · exact ⟨(hset _).bump hw _, (State.peonyAt_bump _ _ n).trans ((State.peonyAt_setPeony n n _).trans (if_pos rfl))⟩

/-- The command whose work in the array is done: all that has changed beside it is its core's array and counters. -/
theorem ArrayFrame.workDone (h : ArrayFrame c.inst s u) (hc : s.cmd c.id = some c) (status : Byte) (result : BitVec 32) :
    let t := u.workDone c status result
    (t = { s with eff := t.eff, peony := t.peony, cmds := t.cmds } ∧ KeepsWindows s t ∧ ∀ k, k ≠ c.inst → t.peonyAt k = s.peonyAt k) ∧
      WorkEnds s t c status result := by
  refine ⟨⟨?_, fun a _ ha => h.regs a ha List.not_mem_nil, h.others⟩, .workDone hc (by rw [h.fields]) _ _⟩
  rw [State.workDone, State.setCmd, h.fields]

end

end Sys2Proof.Machine
end

section
/-!
PROOFS. PNY_LOAD_W, PNY_MMA and PNY_ACC_CLEAR (O13): R97, R113, R115, R116, R121.
-/

namespace Sys2Proof.Machine

/-! ### PNY_LOAD_W -/

/-- Stationary set 1 or 0 becomes st. -/
def PeonyCore.withSet (p : PeonyCore) (one : Bool) (st : StatSet) : PeonyCore := if one then { p with set1 := st } else { p with set0 := st }

section
variable (p : PeonyCore) (one : Bool) (st : StatSet)

theorem PeonyCore.set_withSet : (p.withSet one st).set one = st := by cases one <;> rfl

theorem PeonyCore.set_withSet_other : (p.withSet one st).set (!one) = p.set (!one) := by cases one <;> rfl

theorem PeonyCore.acc_withSet : (p.withSet one st).acc = p.acc := by cases one <;> rfl

end

/-- Row r of the tile PNY_LOAD_W loads. -/
def State.tileRow (s : State) (c : Cmd) (r : Nat) : List Elem :=
  (List.range (c.n 30 2)).map fun j => s.arrayElem c.agent (c.desc (c.n 16 8)) (c.n 24 2 + r) (c.n 26 2 + j)

/-- The stationary set PNY_LOAD_W fills. -/
def State.loadedSet (s : State) (c : Cmd) : StatSet :=
  { valid := true, fmt := (c.desc (c.n 16 8)).fmt, rows := c.n 28 2, kext := c.n 30 2, scale := (c.desc (c.n 16 8)).tscale
    elems := ((List.range (c.n 28 2)).map (s.tileRow c)).flatten }

/-! ### PNY_MMA -/

/-- The accumulator element of row i of A and row j of B. -/
def Cmd.mmaPlace (c : Cmd) (i j : Nat) : Nat × Nat := (c.n 44 2 + if c.df = 2 then j else i, if c.df = 2 then i else j)

/-- Row i of A. -/
def State.mmaRowA (s : State) (c : Cmd) (i : Nat) : List Elem :=
  if c.df = 2 then ((s.peonyAt c.inst).set (c.bit 46 2)).row i (c.n 42 2)
  else s.arrayRow c.agent (c.desc (c.n 16 8)) (c.n 32 2 + i) (c.n 36 2) (c.n 42 2)

/-- Row j of B. -/
def State.mmaRowB (s : State) (c : Cmd) (j : Nat) : List Elem :=
  if c.df = 0 then ((s.peonyAt c.inst).set (c.bit 46 2)).row j (c.n 42 2)
  else s.arrayRow c.agent (c.desc (c.n 24 8)) (c.n 34 2 + j) (c.n 36 2) (c.n 42 2)

/-- What an element that was old becomes under rows a and b, with the flags. -/
def State.mmaSum (s : State) (c : Cmd) (a b : List Elem) (old : BitVec 32) : BitVec 32 × NFlags :=
  accumulate (if c.df = 2 then ((s.peonyAt c.inst).set (c.bit 46 2)).fmt else (c.desc (c.n 16 8)).fmt)
    (if c.df = 0 then ((s.peonyAt c.inst).set (c.bit 46 2)).fmt else (c.desc (c.n 24 8)).fmt) (c.n 42 2 / 32 + 1)
    (if c.bit 46 3 then 0 else old) (a.zip b)

/-- The array state after PNY_MMA, with the flags. -/
def State.mmaOut (s : State) (c : Cmd) : PeonyCore × NFlags :=
  ((List.range (c.n 38 2)).map (s.mmaRowA c)).zipIdx.foldl (fun acc ra =>
    ((List.range (c.n 40 2)).map (s.mmaRowB c)).zipIdx.foldl (fun acc rb =>
      let x := s.mmaSum c ra.1 rb.1 (acc.1.at (c.mmaPlace ra.2 rb.2).1 (c.mmaPlace ra.2 rb.2).2)
      (acc.1.put (c.mmaPlace ra.2 rb.2).1 (c.mmaPlace ra.2 rb.2).2 x.1, acc.2 ||| x.2)) acc) (s.peonyAt c.inst, 0)

/-- What PNY_MMA reads in memory. -/
def Cmd.mmaReads (c : Cmd) : List (Nat × Nat) :=
  (if c.df = 2 then [] else (c.desc (c.n 16 8)).readRegion (c.n 32 2) (c.n 38 2)) ++
    (if c.df = 0 then [] else (c.desc (c.n 24 8)).readRegion (c.n 34 2) (c.n 40 2))

theorem Cmd.mmaPlace_eq (c : Cmd) (i j : Nat) : c.mmaPlace i j = if c.df = 2 then (c.n 44 2 + j, i) else (c.n 44 2 + i, j) := by
  unfold Cmd.mmaPlace
  split <;> rfl

theorem Cmd.mmaPlaced (c : Cmd) (h : (if c.df = 2 then c.n 38 2 else c.n 40 2) ≤ 512) : Placed (c.n 38 2) (c.n 40 2) c.mmaPlace := by
  have hplace : c.mmaPlace = fun i j => if c.df = 2 then (c.n 44 2 + j, i) else (c.n 44 2 + i, j) := by
    funext i j
    exact c.mmaPlace_eq i j
  rw [hplace]
  split at h
  · next hdf =>
    simp only [if_pos hdf]
    exact .columns h
  · next hdf =>
    simp only [if_neg hdf]
    exact .rows h

theorem State.mmaOut_fst (s : State) (c : Cmd) : (s.mmaOut c).1 =
    (s.peonyAt c.inst).fill (c.n 38 2) (c.n 40 2) c.mmaPlace fun i j old => (s.mmaSum c (s.mmaRowA c i) (s.mmaRowB c j) old).1 := by
  unfold State.mmaOut
  rw [zipIdx_map_range, zipIdx_map_range, List.foldl_map]
  refine foldl_fst (fun x i => ?_) _ _
  rw [List.foldl_map]
  exact foldl_fst (fun x j => rfl) _ _

/-! ### What the commands do -/

section
variable {s : State} {c : Cmd} {id : Nat} (ext : Ext) (hturn : s.peonyTurn c = true)
include hturn

theorem exec_pnyLoadW (hw : s.working id 0 1 = some c)
    (hr : s.readable c.agent ((c.desc (c.n 16 8)).readRegion (c.n 24 2) (c.n 28 2)) = .ok ()) :
    exec (.pnyLoadW id ext) s = .next ((s.setPeony c.inst ((s.peonyAt c.inst).withSet (c.bit 32 0) (s.loadedSet c))).workDone c
      (doneOrPoisoned (s.regionsPoisoned c.agent ((c.desc (c.n 16 8)).readRegion (c.n 24 2) (c.n 28 2)))) 0) := by
  show execPnyLoadW id ext s = _
  unfold execPnyLoadW
  rw [hw]
  dsimp only
  rw [hturn, State.withReads_ok hr]
  rfl

theorem exec_pnyMma (hinst : c.inst < 48) (hw : s.working id 0 2 = some c) (hr : s.readable c.agent c.mmaReads = .ok ()) :
    ∃ u gated r, exec (.pnyMma id ext) s = .next (u.workDone c (doneOrPoisoned (s.regionsPoisoned c.agent c.mmaReads)) r) ∧
      ArrayFrame c.inst s u ∧ u.peonyAt c.inst = { (s.mmaOut c).1 with gatedRest := gated } := by
  have hx : ∃ active feed halves r, exec (.pnyMma id ext) s =
      .next (((((s.setPeony c.inst (s.mmaOut c).1).bump (Reg.pnyArrayActive c.inst) active).bump (Reg.pnyFreezeFeed c.inst) feed).countGated
        c.inst halves).workDone c (doneOrPoisoned (s.regionsPoisoned c.agent c.mmaReads)) r) := by
    show ∃ active feed halves r, execPnyMma id ext s = _
    unfold execPnyMma
    rw [hw]
    dsimp only
    unfold Cmd.mmaReads at hr
    rw [hturn, State.withReads_ok hr]
    exact ⟨_, _, _, _, rfl⟩
  obtain ⟨active, feed, halves, r, hx⟩ := hx
  obtain ⟨w, hactive, hfeed, -⟩ := wrapReg_peony hinst
  obtain ⟨hwork, hpeony⟩ := (((ArrayFrame.setPeony (s := s) c.inst (s.mmaOut c).1).bump hactive active).bump hfeed feed).countGated
    hinst halves
  rw [State.peonyAt_bump, State.peonyAt_bump, State.peonyAt_setPeony, if_pos rfl] at hpeony
  exact ⟨_, _, r, hx, hwork, hpeony⟩

theorem exec_pnyAccClear (hw : s.working id 0 6 = some c) :
    exec (.pnyAccClear id ext) s = .next ((s.setPeony c.inst ((s.peonyAt c.inst).fill (c.n 18 2) (c.n 22 2)
      (fun i j => (c.n 16 2 + i, c.n 20 2 + j)) fun _ _ _ => 0)).workDone c 0 0) := by
  show execPnyAccClear id ext s = _
  unfold execPnyAccClear
  rw [hw]
  dsimp only
  rw [hturn]
  rfl

end

/-- Settles O13: each command's set or window, and the frame of work in the array. -/
theorem peonyArrayCommands : Obligations.PeonyArrayCommands := by
  unfold Obligations.PeonyArrayCommands
  intro id ext c s hturn hinst
  have hat (p : PeonyCore) : (s.setPeony c.inst p).peonyAt c.inst = p := (State.peonyAt_setPeony _ _ p).trans (if_pos rfl)
  refine ⟨fun hw hr => ?_, fun hw hdf hcols hr => ?_, fun hw hcols => ?_⟩
  · obtain ⟨hframe, hends⟩ := (ArrayFrame.setPeony (s := s) c.inst
      ((s.peonyAt c.inst).withSet (c.bit 32 0) (s.loadedSet c))).workDone (State.cmd_of_working hw)
        (doneOrPoisoned (s.regionsPoisoned c.agent ((c.desc (c.n 16 8)).readRegion (c.n 24 2) (c.n 28 2)))) 0
    refine ⟨_, exec_pnyLoadW ext hturn hw hr, hframe, rfl, hends, ?_⟩
    rw [State.peonyAt_workDone, hat, PeonyCore.set_withSet_other, PeonyCore.set_withSet]
    exact ⟨PeonyCore.acc_withSet _ _ _, rfl, rfl, rfl, rfl, rfl, rfl,
      fun r hr => StatSet.row_of_elems (f := s.tileRow c) rfl (fun i => by simp [State.tileRow]) rfl hr⟩
  · obtain ⟨u, gated, r, hx, hwork, hpeony⟩ := exec_pnyMma ext hturn hinst hw hr
    obtain ⟨hframe, hends⟩ := hwork.workDone (State.cmd_of_working hw) (doneOrPoisoned (s.regionsPoisoned c.agent c.mmaReads)) r
    have hplaced := c.mmaPlaced hcols
    refine ⟨_, r, hx, hframe, hends, ?_⟩
    rw [State.peonyAt_workDone, hpeony, State.mmaOut_fst]
    obtain ⟨hset0, hset1⟩ := (s.peonyAt c.inst).fill_keepsSets
    refine ⟨hset0, hset1, fun i hi j hj => ?_, fun row col hcol hout => ?_⟩
    · dsimp only
      rw [← Cmd.mmaPlace_eq]
      exact PeonyCore.at_fill _ hplaced hi hj
    · exact PeonyCore.at_fill_outside _ hplaced.inside hcol fun i hi j hj => c.mmaPlace_eq i j ▸ hout i hi j hj
  · obtain ⟨hframe, hends⟩ := (ArrayFrame.setPeony (s := s) c.inst ((s.peonyAt c.inst).fill (c.n 18 2) (c.n 22 2)
      (fun i j => (c.n 16 2 + i, c.n 20 2 + j)) fun _ _ _ => 0)).workDone (State.cmd_of_working hw) 0 0
    refine ⟨_, exec_pnyAccClear ext hturn hw, hframe, rfl, hends, ?_⟩
    rw [State.peonyAt_workDone, hat]
    obtain ⟨hset0, hset1⟩ := (s.peonyAt c.inst).fill_keepsSets
    exact ⟨hset0, hset1, fun row col hcol => PeonyCore.at_fill_zero _ hcols hcol⟩

end Sys2Proof.Machine
end

section
/-!
SUPPORT. The frame of a tensor stored (R88, R108, R117); bytes of die-shared SRAM read and written by an engine (R106).
-/

namespace Sys2Proof.Machine

/-! ### Tensors -/

section
variable (c : Cmd) (s : State) (a : Agent) (ha : a.job = c.job) (cls : BitVec 3) (d : Desc) (bad : Bool)
include ha

theorem State.storeBits_writeFrame (va lo w x : Nat) : WriteFrame c s (s.storeBits a c.core cls va lo w x bad) := by
  unfold State.storeBits
  split
  · exact .refl
  · exact State.store_writeFrame c s a ha cls _ _ bad

theorem State.storeCodes_writeFrame (r c0 : Nat) (cs : List Nat) : WriteFrame c s (s.storeCodes a c.core cls d r c0 cs bad) := by
  unfold State.storeCodes
  split
  · exact .refl
  · split
    · refine .foldl _ fun t j => ?_
      dsimp only
      split
      · exact .refl
      · exact State.storeBits_writeFrame c t a ha cls bad _ _ _ _
    · exact State.storeBits_writeFrame c s a ha cls bad _ _ _ _

theorem State.zeroEdges_writeFrame (r0 nr c0 nc : Nat) : WriteFrame c s (s.zeroEdges a c.core cls d r0 nr c0 nc bad) := by
  unfold State.zeroEdges
  split
  · exact .refl
  · refine .foldl _ fun t i => .foldl _ fun t j => ?_
    dsimp only
    split
    · exact .refl
    · exact .foldl _ fun t k => State.storeBits_writeFrame c t a ha cls bad _ _ _ _

theorem State.storeRow_writeFrame (rtz sat ceil : Bool) (r c0 : Nat) (xs : List (BitVec 32)) :
    WriteFrame c s (s.storeRow a c.core cls d rtz sat ceil r c0 xs bad).1 := by
  unfold State.storeRow
  dsimp only
  generalize convertRow _ _ _ _ _ = x
  have hcodes := State.storeCodes_writeFrame c s a ha cls d bad r c0 x.1
  split
  · exact hcodes
  · exact hcodes.trans (State.store_writeFrame c _ a ha cls _ _ bad)

theorem State.storeRows_writeFrame (rtz sat ceil : Bool) (r0 c0 : Nat) (rows : List (List (BitVec 32))) :
    WriteFrame c s (s.storeRows a c.core cls d rtz sat ceil r0 c0 rows bad).1 := by
  refine WriteFrame.trans ?_ (State.zeroEdges_writeFrame c _ a ha cls d bad _ _ _ _)
  exact WriteFrame.foldl_fst (γ := NFlags × Bool × Nat) rows fun q xs =>
    State.storeRow_writeFrame c q.1 a ha cls d bad rtz sat ceil q.2.2.2 c0 xs

end

/-- The command whose writes are done, with the ns its core's array waited for them: the frame, and what it leaves of the writes. -/
theorem WriteFrame.workDone {s u : State} {c : Cmd} (h : WriteFrame c s u) (hc : s.cmd c.id = some c) (hn : c.inst < 48) (n : Nat)
    (status : Byte) (result : BitVec 32) :
    let t := (u.bump (Reg.pnyFreezeDrain c.inst) n).workDone c status result
    EngineFrame s t c ∧ WorkEnds s t c status result ∧ t.mem = u.mem ∧ t.peony = s.peony := by
  obtain ⟨w, -, -, hw, -⟩ := wrapReg_peony hn
  have hb : WriteFrame c s (u.bump (Reg.pnyFreezeDrain c.inst) n) := h.trans (.bump n (.inl (counterReg_of_wrapReg hw).1))
  have hmem : (u.bump (Reg.pnyFreezeDrain c.inst) n).mem = u.mem := by rw [State.bump_fields]
  obtain ⟨hf, hm, hcore, hr⟩ := hb
  refine ⟨⟨?_, hm, hcore, hr⟩, .workDone hc (by rw [hf]) _ _, hmem, ?_⟩
  · rw [State.workDone, State.setCmd, hf]
  · rw [State.workDone, State.setCmd, hf]

/-! ### Bytes -/

theorem get_setBytes (m : List Host.Cell) (a : Nat) (bs : List Byte) (x : Nat) :
    SMap.get 0 (Mem.setBytes m a bs) x = if a ≤ x ∧ x < a + bs.length then bs.getD (x - a) 0 else SMap.get 0 m x := by
  induction bs generalizing m a with
  | nil => rw [if_neg (by simp)]; rfl
  | cons b bs ih =>
    have hrest : SMap.get 0 (Mem.setByte m a b) x = if x = a then b else SMap.get 0 m x := SMap.get_set _ _ _ _ _
    rw [Mem.setBytes, ih, hrest, List.length_cons]
    by_cases hx : x = a
    · subst hx
      rw [if_neg (by omega), if_pos rfl, if_pos (by omega), Nat.sub_self]
      rfl
    · by_cases hin : a + 1 ≤ x ∧ x < a + 1 + bs.length
      · rw [if_pos hin, if_pos (by omega), show x - a = x - (a + 1) + 1 by omega, List.getD_cons_succ]
      · rw [if_neg hin, if_neg hx, if_neg (by omega)]

section
variable (s : State) {pa : Nat}

theorem State.markWrite_mem (n : Nat) (bad : Bool) : (s.markWrite pa n bad).mem = s.mem := by
  refine List.foldlRecOn (motive := fun t : State => t.mem = s.mem) _ _ rfl fun t ht u _ => ?_
  split
  · exact ht
  · split <;> exact ht

theorem State.dropLines_mem (n : Nat) : (s.dropLines pa n).mem = s.mem := by
  unfold State.dropLines
  rw [State.evict_eq, RegsOnly.linesSquashed _ .refl]

theorem State.overwrites_mem (job : BitVec 16) (cmd n : Nat) : (s.overwrites job cmd pa n).mem = s.mem := by
  unfold State.overwrites
  split <;> rfl

/-- A write that claims no core-local unit stores its bytes alone. -/
theorem State.ramWrite_mem (h : regionOf pa ≠ .coreLocal) (job : BitVec 16) (bs : List Byte) (bad : Bool) :
    (s.ramWrite job pa bs bad).mem = Mem.setBytes s.mem pa bs := by
  unfold State.ramWrite
  rw [State.dropLines_mem, State.markWrite_mem, State.putBytes_mem, if_neg h]

theorem le_of_regionOf_shared (h : regionOf pa = .shared) : sharedBase ≤ pa := by
  by_contra hlt
  rw [regionOf, if_pos (show pa < 0x180000000 from Nat.not_le.mp hlt)] at h
  cases h

/-- An engine reads die-shared SRAM as it stands where no other command's write is still to be reported (R32). -/
theorem State.seen_shared (hold : s.old = []) (h : regionOf pa = .shared) (a : Agent) (n : Nat) : s.seen a pa n = s.bytes pa n := by
  have hb := le_of_regionOf_shared h
  refine List.map_congr_left fun i _ => ?_
  unfold State.seenByte
  rw [hold, List.find?_nil]
  dsimp only
  rw [decide_eq_false (show ¬ pa + i < sharedBase by omega)]
  rfl

variable {a : Agent} {va n : Nat} (hr : regionOf pa = .shared)
include hr

theorem State.load_shared {bs : List Byte} (hold : s.old = []) (hp : s.pieces a va n false = .ok [(pa, n)]) (hl : s.load a va n = .ok bs) :
    bs = s.bytes pa n := by
  have hunread : s.unread a va n [(pa, n)] = [] := by
    refine List.filter_eq_nil_iff.mpr fun e he => ?_
    rw [List.mem_singleton.mp (List.of_mem_zip he).2, State.unanswered, hr]
    exact Bool.false_ne_true
  unfold State.load at hl
  rw [hp] at hl
  dsimp only at hl
  rw [hunread, List.foldl_cons, List.foldl_nil, State.readPiece, hr] at hl
  exact (Except.ok.inj hl).symm.trans (State.seen_shared s hold hr a n)

theorem State.store_shared {bs : List Byte} (hn : n = bs.length) (hp : s.pieces a va bs.length true = .ok [(pa, n)]) (core : CoreId)
    (cls : BitVec 3) (bad : Bool) : (s.store a core cls va bs bad).mem = Mem.setBytes s.mem pa bs := by
  unfold State.store
  rw [hp]
  dsimp only [List.foldl_cons, List.foldl_nil]
  rw [hn, List.take_length, State.writePiece, hr]
  dsimp only
  rw [State.ramWrite_mem _ (by rw [hr]; decide), State.overwrites_mem]

end

end Sys2Proof.Machine
end

section
/-!
PROOFS. PNY_STORE, PNY_VEC and PNY_COPY (O14): R106, R117, R119.
-/

namespace Sys2Proof.Machine

/-! ### PNY_STORE -/

/-- What PNY_STORE converts of the accumulator at row r, column k of its window, with the flags. -/
def State.stored (s : State) (c : Cmd) (r k : Nat) : BitVec 32 × NFlags :=
  storeValue (c.desc (c.n 16 8)).fmt (c.bit 48 5) (fmul false false (c.f32 36) (c.f32 40)).1 (c.f32 44)
    ((s.peonyAt c.inst).at (c.n 28 2 + r) (c.n 32 2 + k))

/-- The rows PNY_STORE stores: those of its window, or with TRANSPOSE its columns. -/
def Cmd.storeWindow {β : Type} (c : Cmd) (val : Nat → Nat → β) : List (List β) :=
  if c.bit 48 0 then (List.range (c.n 34 2)).map fun k => (List.range (c.n 30 2)).map fun r => val r k
  else (List.range (c.n 30 2)).map fun r => (List.range (c.n 34 2)).map fun k => val r k

theorem Cmd.storeWindow_fst (c : Cmd) {β γ : Type} (val : Nat → Nat → β × γ) :
    (c.storeWindow val).map (List.map Prod.fst) = c.storeWindow fun r k => (val r k).1 := by
  unfold Cmd.storeWindow
  split <;> simp only [List.map_map, Function.comp_def]

/-- The array state PNY_STORE leaves: its window cleared with CLEAR_AFTER. -/
def State.drained (s : State) (c : Cmd) : PeonyCore :=
  if c.bit 48 4 then (s.peonyAt c.inst).fill (c.n 30 2) (c.n 34 2) (fun i j => (c.n 28 2 + i, c.n 32 2 + j)) fun _ _ _ => 0
  else s.peonyAt c.inst

theorem State.drained_keepsSets (s : State) (c : Cmd) : KeepsSets (s.peonyAt c.inst) (s.drained c) := by
  unfold State.drained
  split
  · exact PeonyCore.fill_keepsSets _
  · exact ⟨rfl, rfl⟩

theorem State.at_drained (s : State) {c : Cmd} (h : c.n 32 2 + c.n 34 2 ≤ 512) (row : Nat) {col : Nat} (hcol : col < 512) :
    (s.drained c).at row col =
      if c.bit 48 4 = true ∧ c.n 28 2 ≤ row ∧ row < c.n 28 2 + c.n 30 2 ∧ c.n 32 2 ≤ col ∧ col < c.n 32 2 + c.n 34 2 then 0
      else (s.peonyAt c.inst).at row col := by
  unfold State.drained
  by_cases hclear : c.bit 48 4 = true
  · simp only [hclear, true_and, if_true]
    exact PeonyCore.at_fill_zero _ h hcol
  · rw [if_neg hclear, if_neg fun h => hclear h.1]

theorem exec_pnyStore {s : State} {c : Cmd} {id : Nat} (ext : Ext) (hw : s.working id 0 3 = some c) (hturn : s.peonyTurn c = true) :
    ∃ n r, exec (.pnyStore id ext) s = .next ((((s.setPeony c.inst (s.drained c)).storeRows c.agent c.core c.cls3 (c.desc (c.n 16 8))
      (c.bit 48 1) (c.bit 48 2) (c.bit 48 3) (c.n 24 2) (c.n 26 2) (c.storeWindow fun r k => (s.stored c r k).1) false).1.bump
        (Reg.pnyFreezeDrain c.inst) n).workDone c 0x00 r) := by
  rw [← Cmd.storeWindow_fst]
  show ∃ n r, execPnyStore id ext s = _
  unfold execPnyStore
  rw [hw]
  dsimp only
  rw [hturn]
  exact ⟨_, _, rfl⟩

/-! ### PNY_VEC -/

/-- Row r of operand i as FP32. -/
def State.vecValues (s : State) (c : Cmd) (i r : Nat) : List (BitVec 32) := (s.vecRow c.agent c i r (c.n 46 2)).map Prod.fst

/-- Row r of PNY_VEC's result, with the flags of its function. -/
def State.vecOut (s : State) (c : Cmd) (r : Nat) : List (BitVec 32) × NFlags :=
  vecRowFn c (s.vecValues c 0 r) (if vecPairwise (c.n 48 1) then s.vecValues c 1 r else [])
    (if c.n 48 1 = 0x13 ∨ c.n 48 1 = 0x14 then s.vecValues c 1 0 else []) (if c.n 48 1 = 0x14 then s.vecValues c 1 1 else [])

/-- Row r of PNY_VEC's result as it is computed, with all flags of the row. -/
def State.vecFlagged (s : State) (c : Cmd) (r : Nat) : List (BitVec 32) × NFlags :=
  let y0 := if c.n 48 1 = 0x13 || c.n 48 1 = 0x14 then collect (s.vecRow c.agent c 1 0 (c.n 46 2)) else ([], 0)
  let y1 := if c.n 48 1 = 0x14 then collect (s.vecRow c.agent c 1 1 (c.n 46 2)) else ([], 0)
  let ys := if vecPairwise (c.n 48 1) then collect (s.vecRow c.agent c 1 r (c.n 46 2)) else ([], 0)
  let zs := vecRowFn c (s.vecValues c 0 r) ys.1 y0.1 y1.1
  (zs.1, rowReadFlags (c.n 48 1) (s.vecRow c.agent c 0 r (c.n 46 2)) ||| ys.2 ||| zs.2)

theorem State.vecFlagged_fst (s : State) (c : Cmd) (r : Nat) : (s.vecFlagged c r).1 = (s.vecOut c r).1 := by
  unfold State.vecFlagged State.vecOut
  simp only [apply_ite Prod.fst, Bool.or_eq_true, decide_eq_true_eq]
  rfl

theorem vecSoftmax_length (sat : Bool) (a : BitVec 32) (xs : List (BitVec 32)) : (vecSoftmax sat a xs).1.length = xs.length := by
  unfold vecSoftmax
  split
  · exact List.length_map _
  · split
    · exact List.length_map _
    · simp [collect]

theorem vecRmsnorm_length (sat : Bool) (b : BitVec 32) {xs y : List (BitVec 32)} (h : y.length = xs.length) :
    (vecRmsnorm sat b xs y).1.length = xs.length := by
  simp [vecRmsnorm, collect, h]

theorem vecLayernorm_length (sat : Bool) (b : BitVec 32) {xs y z : List (BitVec 32)} (h : y.length = xs.length) (hz : z.length = xs.length) :
    (vecLayernorm sat b xs y z).1.length = xs.length := by
  simp [vecLayernorm, collect, h, hz]

/-- A row of the result has the columns of Z. -/
theorem State.vecOut_length (s : State) (c : Cmd) (r : Nat) : (s.vecOut c r).1.length = (c.vecDims 2).2 := by
  have hlen (i r : Nat) : (s.vecValues c i r).length = c.n 46 2 := by
    unfold State.vecValues State.vecRow
    dsimp only
    split <;> simp
  have hdims : (c.vecDims 2).2 = if c.n 48 1 = 0x10 ∨ c.n 48 1 = 0x11 then 1 else c.n 46 2 := rfl
  rw [hdims]
  unfold State.vecOut vecRowFn
  dsimp only
  split
  case h_1 h => rw [if_pos (.inl h)]; rfl
  case h_2 h => rw [if_pos (.inr h)]; rfl
  case h_3 h => rw [vecSoftmax_length, hlen, h]; rfl
  case h_4 h => rw [vecRmsnorm_length _ _ (by simp [h, hlen]), hlen, h]; rfl
  case h_5 h => rw [vecLayernorm_length _ _ (by simp [h, hlen]) (by simp [h, hlen]), hlen, h]; rfl
  case h_6 hsum hmax _ _ _ =>
    rw [if_neg (not_or.mpr ⟨hsum, hmax⟩)]
    simp [collect, hlen]
    omega

/-- The array state PNY_VEC leaves where Z is in the accumulators. -/
def State.vecFilled (s : State) (c : Cmd) : PeonyCore :=
  (s.peonyAt c.inst).fill (c.n 44 2) (c.vecDims 2).2 (fun i j => ((c.vecOrigin 2).1 + i, (c.vecOrigin 2).2 + j))
    fun i j _ => (s.vecOut c i).1.getD j 0

theorem foldl_zipIdx {α σ : Type} {l : List α} {n : Nat} (h : l.length = n) (d : α) (g : σ → α × Nat → σ) (x : σ) :
    l.zipIdx.foldl g x = (List.range n).foldl (fun x j => g x (l.getD j d, j)) x := by
  have hl : l.zipIdx = (List.range n).map fun j => (l.getD j d, j) := by
    subst h
    apply List.ext_getElem <;> simp +contextual
  rw [hl, List.foldl_map]

theorem State.vecFilled_eq (s : State) (c : Cmd) :
    (((List.range (c.n 44 2)).map (s.vecFlagged c)).zipIdx.foldl (fun p e =>
      e.1.1.zipIdx.foldl (fun p v => p.put ((c.vecOrigin 2).1 + e.2) ((c.vecOrigin 2).2 + v.2) v.1) p) (s.peonyAt c.inst)) = s.vecFilled c := by
  rw [zipIdx_map_range, List.foldl_map]
  refine congrArg (fun g => List.foldl g (s.peonyAt c.inst) _) (funext fun p => funext fun i => ?_)
  dsimp only
  rw [s.vecFlagged_fst, foldl_zipIdx (s.vecOut_length c i) 0]
  rfl

/-- A row of the result as it is stored in memory: scaled where Z's format asks for it. -/
def State.vecScaled (s : State) (c : Cmd) (r : Nat) : List (BitVec 32) :=
  if usesRcp (c.desc (c.n 32 8)).fmt then (s.vecOut c r).1.map fun v => (fmul false false v (c.f32 60)).1 else (s.vecOut c r).1

theorem State.vecScaled_eq (s : State) (c : Cmd) :
    ((((List.range (c.n 44 2)).map (s.vecFlagged c)).map fun e =>
      if usesRcp (c.desc (c.n 32 8)).fmt then collect (e.1.map fun x => fmul false false x (c.f32 60)) else (e.1, 0)).map Prod.fst) =
      (List.range (c.n 44 2)).map (s.vecScaled c) := by
  simp only [List.map_map, Function.comp_def, apply_ite Prod.fst, s.vecFlagged_fst, collect]
  rfl

section
variable {s : State} {c : Cmd} {id : Nat} (ext : Ext) (hw : s.working id 0 4 = some c) (hturn : s.peonyTurn c = true)
  (hr : s.readable c.agent c.vecReads = .ok ())
include hw hturn hr

theorem exec_pnyVec_accumulators (hacc : c.inAcc 2 = true) :
    ∃ n r, exec (.pnyVec id ext) s = .next (((s.setPeony c.inst (s.vecFilled c)).bump (Reg.pnyFreezeDrain c.inst) n).workDone c
      (doneOrPoisoned (s.regionsPoisoned c.agent c.vecReads)) r) := by
  rw [← s.vecFilled_eq c]
  show ∃ n r, execPnyVec id ext s = _
  unfold execPnyVec
  rw [hw]
  dsimp only
  rw [hturn]
  simp only [hacc, if_true, State.withReads_ok hr]
  exact ⟨_, _, rfl⟩

theorem exec_pnyVec_memory (hacc : c.inAcc 2 = false) :
    ∃ n r, exec (.pnyVec id ext) s = .next (((s.storeRows c.agent c.core c.cls3 (c.desc (c.n 32 8)) (c.bit 49 0) (c.bit 49 1) (c.bit 49 2)
      (c.vecOrigin 2).1 (c.vecOrigin 2).2 ((List.range (c.n 44 2)).map (s.vecScaled c)) (s.regionsPoisoned c.agent c.vecReads)).1.bump
        (Reg.pnyFreezeDrain c.inst) n).workDone c (doneOrPoisoned (s.regionsPoisoned c.agent c.vecReads)) r) := by
  rw [← s.vecScaled_eq c]
  show ∃ n r, execPnyVec id ext s = _
  unfold execPnyVec
  rw [hw]
  dsimp only
  rw [hturn]
  simp only [hacc, Bool.false_eq_true, if_false, State.withReads_ok hr]
  exact ⟨_, _, rfl⟩

end

theorem State.vecValues_accumulators {s : State} {c : Cmd} {i : Nat} (h : c.inAcc i = true) (hint : c.bit 49 3 = false) (r : Nat) :
    s.vecValues c i r =
      (List.range (c.n 46 2)).map fun j => (s.peonyAt c.inst).at (c.n (16 + 8 * i) 2 + r) (c.n (18 + 8 * i) 2 + j) := by
  simp [State.vecValues, State.vecRow, Cmd.vecOrigin, h, hint]

/-- ADD of two windows of FP32 accumulators. -/
theorem State.vecOut_add {s : State} {c : Cmd} (hf : c.n 48 1 = 0x01) (hx : c.inAcc 0 = true) (hy : c.inAcc 1 = true)
    (hint : c.bit 49 3 = false) (r : Nat) :
    (s.vecOut c r).1 = (List.range (c.n 46 2)).map fun j => (fadd (c.bit 49 0) (c.bit 49 1)
      ((s.peonyAt c.inst).at (c.n 16 2 + r) (c.n 18 2 + j)) ((s.peonyAt c.inst).at (c.n 24 2 + r) (c.n 26 2 + j))).1 := by
  have hpair : vecPairwise 0x01 = true := rfl
  unfold State.vecOut
  rw [State.vecValues_accumulators hx hint, State.vecValues_accumulators hy hint, hf, if_pos hpair]
  unfold vecRowFn
  rw [hf]
  simp [collect, List.zip_map', vecElemFn]

/-! ### PNY_COPY -/

theorem exec_pnyCopy {s : State} {c : Cmd} {id : Nat} (ext : Ext) {bs : List Byte} (hw : s.working id 0 5 = some c)
    (hl : s.load c.agent (c.n 16 8) (c.n 32 4) = .ok bs) :
    ∃ n, exec (.pnyCopy id ext) s = .next (((s.store c.agent c.core c.cls3 (c.n 24 8) bs (s.regionPoisoned c.agent (c.n 16 8)
      (c.n 32 4))).bump (Reg.pnyFreezeDrain c.inst) n).workDone c (doneOrPoisoned (s.regionPoisoned c.agent (c.n 16 8) (c.n 32 4))) 0) := by
  show ∃ n, execPnyCopy id ext s = _
  unfold execPnyCopy
  rw [hw]
  dsimp only
  rw [hl]
  exact ⟨_, rfl⟩

/-- Settles O14: each command by its writes, whose frame `WriteFrame` gives. -/
theorem peonyMemoryCommands : Obligations.PeonyMemoryCommands := by
  unfold Obligations.PeonyMemoryCommands
  intro id ext c s hinst
  refine ⟨fun hw hturn hcols => ?_, fun hw hturn hr => ⟨fun hacc hcols => ?_, fun hacc => ?_, fun hf hx hy hint r _ => ?_⟩,
    fun bs hw hl => ?_⟩
  · obtain ⟨n, r, hx⟩ := exec_pnyStore ext hw hturn
    have hput := State.storeRows_writeFrame c (s.setPeony c.inst (s.drained c)) c.agent rfl c.cls3 (c.desc (c.n 16 8)) false
      (c.bit 48 1) (c.bit 48 2) (c.bit 48 3) (c.n 24 2) (c.n 26 2) (c.storeWindow fun r k => (s.stored c r k).1)
    obtain ⟨hframe, hends, hmem, hpeony⟩ := hput.workDone (State.cmd_of_working hw) hinst n 0x00 r
    obtain ⟨hset0, hset1⟩ := s.drained_keepsSets c
    refine ⟨_, s.drained c, r, hx, ?_, hends, hmem, fun k => ?_, hset0, hset1, fun row col hcol => s.at_drained hcols row hcol⟩
    · rw [hpeony]
      exact hframe
    · rw [State.peonyAt_congr hpeony]
      exact State.peonyAt_setPeony _ _ _
  · obtain ⟨n, r, hx⟩ := exec_pnyVec_accumulators ext hw hturn hr hacc
    obtain ⟨w, -, -, hdrain, -⟩ := wrapReg_peony hinst
    obtain ⟨⟨hfields, hregs, hothers⟩, hends⟩ := ((ArrayFrame.setPeony (s := s) c.inst (s.vecFilled c)).bump hdrain n).workDone
      (State.cmd_of_working hw) (doneOrPoisoned (s.regionsPoisoned c.agent c.vecReads)) r
    refine ⟨_, r, hx, hfields, hregs, hends, hothers, ?_⟩
    rw [State.peonyAt_workDone, State.peonyAt_bump, State.peonyAt_setPeony, if_pos rfl]
    obtain ⟨hset0, hset1⟩ := (s.peonyAt c.inst).fill_keepsSets
    have hplaced := Placed.window (m := c.n 44 2) (r0 := (c.vecOrigin 2).1) hcols
    refine ⟨hset0, hset1, fun i hi j hj => PeonyCore.at_fill _ hplaced hi hj, fun row col hcol hout => ?_⟩
    refine PeonyCore.at_fill_outside _ hplaced.inside hcol fun i hi j hj he => hout ?_
    obtain ⟨rfl, rfl⟩ := Prod.mk.inj he
    omega
  · obtain ⟨n, r, hx⟩ := exec_pnyVec_memory ext hw hturn hr hacc
    obtain ⟨hframe, hends, hmem, -⟩ := (State.storeRows_writeFrame c s c.agent rfl c.cls3 (c.desc (c.n 32 8))
      (s.regionsPoisoned c.agent c.vecReads) (c.bit 49 0) (c.bit 49 1) (c.bit 49 2) (c.vecOrigin 2).1 (c.vecOrigin 2).2
      ((List.range (c.n 44 2)).map (s.vecScaled c))).workDone (State.cmd_of_working hw) hinst n
        (doneOrPoisoned (s.regionsPoisoned c.agent c.vecReads)) r
    exact ⟨_, r, hx, hframe, hends, hmem⟩
  · exact State.vecOut_add hf hx hy hint r
  · obtain ⟨n, hx⟩ := exec_pnyCopy ext hw hl
    obtain ⟨hframe, hends, hmem, -⟩ := (State.store_writeFrame c s c.agent rfl c.cls3 (c.n 24 8) bs
      (s.regionPoisoned c.agent (c.n 16 8) (c.n 32 4))).workDone (State.cmd_of_working hw) hinst n
        (doneOrPoisoned (s.regionPoisoned c.agent (c.n 16 8) (c.n 32 4))) 0
    refine ⟨_, hx, hframe, hends, hmem, fun pa pb hpa hpb hra hrb hold x => ?_⟩
    have hbs : bs = s.bytes pa (c.n 32 4) := State.load_shared s hra hold hpa hl
    have hlen : bs.length = c.n 32 4 := by rw [hbs]; simp [State.bytes]
    unfold State.byte
    rw [hmem, State.store_shared s hrb hlen.symm hpb, get_setBytes, hlen]
    split
    · next hin =>
      rw [hbs, State.bytes, List.getD_eq_getElem _ _ (by simp; omega)]
      simp [State.byte]
    · rfl

end Sys2Proof.Machine
end

section
/-!
PROOFS. The stream cache's prefetch (O54): a cached line of a group the module does not have.
-/

namespace Sys2Proof.Machine

/-- The oldest line of a die's stream cache leaves it once the cache holds one line too many (R250, R251). -/
theorem State.trimStream_oldest {s : State} {d : Nat} {l : AheadLine} {ls : List AheadLine} (h : s.ahead = l :: ls)
    (hmine : ∀ k ∈ l :: ls, k.node = false ∧ k.die = d) (hlen : ls.length = s.scacheMib d * 4096) (hout : l ∉ ls) (hused : l.used = false) :
    s.trimStream d = ({ s with ahead := ls } : State).lineSquashed l := by
  have hall : s.ahead.filter (fun k => !k.node && decide (k.die = d)) = l :: ls := by
    rw [h]
    exact List.filter_eq_self.mpr fun k hk => by simp [hmine k hk]
  have hne : ∀ k ∈ ls, k ≠ l := fun k hk he => hout (he ▸ hk)
  have hgone : (l :: ls).filter (fun k => [l].contains k) = [l] := by
    rw [List.filter_cons_of_pos (by simp), List.filter_eq_nil_iff.mpr fun k hk => by simpa using hne k hk]
  have hleft : (l :: ls).filter (fun k => !([l].contains k)) = ls := by
    rw [List.filter_cons_of_neg (by simp)]
    exact List.filter_eq_self.mpr fun k hk => by simpa using hne k hk
  unfold State.trimStream
  rw [hall]
  dsimp only
  rw [List.length_cons, hlen, Nat.add_sub_cancel_left, List.take_succ_cons, List.take_zero, State.evict_eq, h, hgone, hleft,
    List.filter_cons_of_pos (by simp [hused])]
  rfl

/-- A line squashed for a group at whose place no counter stands is counted there all the same. -/
theorem State.reg_lineSquashed_stray (s : State) {l : AheadLine} (hg : regAt (Reg.dbgPartCnt l.group 4) = none) (hbad : l.bad = false) :
    (s.lineSquashed l).reg (Reg.dbgPartCnt l.group 4) = s.reg (Reg.dbgPartCnt l.group 4) + 1 := by
  have hhub : wrapReg (Reg.hubSquash 1) = some Reg.hubSpecWrap := by decide
  have hsq : s.lineSquashed l = (s.bump (Reg.hubSquash 1) 1).bump (Reg.dbgPartCnt l.group 4) 1 := by
    unfold State.lineSquashed State.squash
    rw [hbad]
    rfl
  have ha : 0x1101000 ≤ Reg.dbgPartCnt l.group 4 := by
    unfold Reg.dbgPartCnt
    omega
  rw [hsq, State.reg_bump_same _ _ _ (by rw [hg]; exact fun r w h => nomatch h),
    State.reg_bump_of_wrapReg hhub _ _ (ne_of_gt (lt_of_lt_of_le (by decide) ha)) (ne_of_gt (lt_of_lt_of_le (by decide) ha))]
  rfl

/-- After misses to rising lines a line of HBM that is not cached is filled ahead, and the cache kept within its size (R251). -/
theorem exec_streamPrefetch_hbm {s : State} {n : CoreId} {k : BitVec 3} {b line : Nat} (hmiss : (s.core n).lastMiss = [b + 1, b])
    (hline : b + 1 + (k.toNat + 1) = line) (hpage : line / 16 = (b + 1) / 16) (hspec : s.specOff 1 = false) (hstop : s.stopped = false)
    (hfatal : s.fatal = false) (hcache : s.scacheMib (dieOfCore n) ≠ 0) (hhit : s.streamHit n (s.home (256 * line)) = false)
    (hreg : regionOf (256 * line) = .hbm) :
    exec (.streamPrefetch n k) s = .next ((s.fillLine (aheadLine line (s.groupOfCore n) (dieOfCore n) false
      (s.lineBad (256 * line)))).trimStream (dieOfCore n)) := by
  show execStreamPrefetch n k s = _
  unfold execStreamPrefetch
  rw [hmiss]
  simp only [decide_true, if_true, hline, hpage, hspec, hstop, hfatal, hcache, hhit, hreg, decide_false, Bool.true_or, Bool.and_true,
    Bool.not_true, Bool.or_false, Bool.false_eq_true, if_false]

/-- A line filled and used for group 0, before the detector's. -/
def usedLine : AheadLine := { line := 0x10000001, group := 0, die := 0, node := false, used := true, bad := false }

/-- Core 0 has missed two lines in a row, and its die's stream cache of 1 MiB is full: a line of a group that no partition is in is the
oldest. -/
def prefetchIntoFull : State :=
  { State.reset.setReg Reg.fxgScacheCtrl 1 with
    cores := [(0, { Core.idle with lastMiss := [0x10000003, 0x10000002] })]
    ahead := strayLine :: List.replicate 4095 usedLine }

/-- The line filled ahead. -/
def prefetchedLine : AheadLine := aheadLine 0x10000004 0 0 false false

/-- What the cache holds beside the oldest line once it is filled. -/
def newerLines : List AheadLine := List.replicate 4095 usedLine ++ [prefetchedLine]

theorem mem_newerLines {l : AheadLine} (h : l ∈ newerLines) : l = usedLine ∨ l = prefetchedLine :=
  (List.mem_append.mp h).imp List.eq_of_mem_replicate List.mem_singleton.mp

theorem length_newerLines : newerLines.length = 4096 := by
  rw [newerLines, List.length_append, List.length_replicate]
  rfl

theorem prefetchIntoFull_misses : ∀ l ∈ prefetchIntoFull.ahead, l.line ≠ 0x10000004 := by
  intro l h
  rcases List.mem_cons.mp h with rfl | h
  · decide
  · rw [List.eq_of_mem_replicate h]
    decide

theorem prefetchIntoFull_streamHit : prefetchIntoFull.streamHit 0 (prefetchIntoFull.home (256 * 0x10000004)) = false := by
  have hline : prefetchIntoFull.home (256 * 0x10000004) / 256 = 0x10000004 := by decide
  unfold State.streamHit State.streamLine
  rw [hline, List.find?_eq_none.mpr fun l hl => by simp [prefetchIntoFull_misses l hl]]
  rfl

theorem prefetchIntoFull_fillLine :
    prefetchIntoFull.fillLine prefetchedLine = { prefetchIntoFull with ahead := strayLine :: newerLines } := by
  refine if_neg (Bool.eq_false_iff.mp (List.any_eq_false.mpr fun l hl => ?_))
  have hne : l.line ≠ prefetchedLine.line := prefetchIntoFull_misses l hl
  simp [hne]

/-- The oldest line makes room for the one filled ahead. -/
theorem exec_prefetchIntoFull :
    exec (.streamPrefetch 0 0) prefetchIntoFull = .next (({ prefetchIntoFull with ahead := newerLines } : State).lineSquashed strayLine) := by
  have hmine : ∀ l ∈ strayLine :: newerLines, l.node = false ∧ l.die = 0 := fun l hl => by
    rcases List.mem_cons.mp hl with rfl | hl
    · exact ⟨rfl, rfl⟩
    · rcases mem_newerLines hl with rfl | rfl <;> exact ⟨rfl, rfl⟩
  have hout : strayLine ∉ newerLines := fun h => absurd (mem_newerLines h) (by decide)
  have hx := exec_streamPrefetch_hbm (s := prefetchIntoFull) (n := 0) (k := 0) (b := 0x10000002) (line := 0x10000004) rfl rfl rfl
    (by decide) rfl rfl (by decide) prefetchIntoFull_streamHit (by decide)
  have hline : aheadLine 0x10000004 (prefetchIntoFull.groupOfCore 0) (dieOfCore 0) false (prefetchIntoFull.lineBad (256 * 0x10000004)) =
      prefetchedLine := by decide
  rw [hx, hline, prefetchIntoFull_fillLine]
  exact congrArg Host.Outcome.next (State.trimStream_oldest rfl hmine (length_newerLines.trans (by decide)) hout rfl)

/-- Refutes O54: nothing holds the group of a cached line to the 16 of the module. The oldest line of `prefetchIntoFull` is squashed to make
room for the line filled ahead from HBM, and counts at an address where no counter stands. -/
theorem not_holdTracesAndPrefetch : ¬ Obligations.HoldTracesAndPrefetch := by
  intro h
  obtain ⟨-, -, -, -, -, -, -, -, -, hprefetch⟩ := h 0 0 0 0 false prefetchIntoFull
  obtain ⟨-, hram, -⟩ := hprefetch _ _ rfl
  obtain ⟨t, ht, -, hhbm⟩ := hram ⟨.inl rfl, rfl, .inl rfl, by decide, rfl, rfl, by decide, prefetchIntoFull_streamHit⟩ (.inl (by decide))
  obtain ⟨-, hkeeps⟩ := hhbm (by decide)
  rw [exec_prefetchIntoFull] at ht
  obtain rfl := Host.Outcome.next.inj ht
  have hkept := hkeeps (Reg.dbgPartCnt strayLine.group 4) fun hc => absurd hc.lt (by decide)
  rw [State.reg_lineSquashed_stray _ (by decide) rfl] at hkept
  exact absurd hkept (by decide)

end Sys2Proof.Machine
end

section
/-!
SUPPORT. The frame of an engine's work that reads and writes memory (R247, R273): a write's, and the read counters of the flash it reads.
-/

namespace Sys2Proof.Machine

/-- What the work of command c may change before it ends: what a write may, and the read counters of the flash. -/
def WorkFrame (c : Cmd) (s t : State) : Prop := WriteFrame c { s with erase := t.erase } t

section
variable {c : Cmd} {s t u : State}

theorem WriteFrame.workFrame (h : WriteFrame c s t) : WorkFrame c s t := by
  have he : t.erase = s.erase := by rw [h.1]
  unfold WorkFrame
  rwa [he]

theorem WorkFrame.refl : WorkFrame c s s := WriteFrame.refl.workFrame

/-- The read counters of the flash are no part of what a write looks at. -/
theorem WriteFrame.setErase (h : WriteFrame c s t) (e : SMap EraseBlock) : WriteFrame c { s with erase := e } { t with erase := e } := by
  obtain ⟨hf, hm, hc, hr⟩ := h
  refine ⟨?_, hm, hc, hr⟩
  rw [hf]

theorem WorkFrame.bump {c : Cmd} {s : State} {a w : Nat} (hw : wrapReg a = some w) (n : Nat) : WorkFrame c s (s.bump a n) :=
  (WriteFrame.bump n (.inl (counterReg_of_wrapReg hw).1)).workFrame

theorem WorkFrame.trans (h : WorkFrame c s t) (hu : WorkFrame c t u) : WorkFrame c s u := (WriteFrame.setErase h u.erase).trans hu

theorem WorkFrame.foldl {β : Type} {g : State → β → State} (l : List β) (hg : ∀ t x, WorkFrame c t (g t x)) :
    WorkFrame c s (l.foldl g s) := by
  induction l generalizing s with
  | nil => exact .refl
  | cons x l ih => exact (hg s x).trans ih

theorem WorkFrame.foldl_fst {β γ : Type} {g : State × γ → β → State × γ} (l : List β) {p : State × γ}
    (hg : ∀ q x, WorkFrame c q.1 (g q x).1) : WorkFrame c p.1 (l.foldl g p).1 := by
  induction l generalizing p with
  | nil => exact .refl
  | cons x l ih => exact (hg p x).trans ih

/-- A loop that stops at the first failing access. -/
theorem WorkFrame.foldl_ok {β ε : Type} {g : Except ε State → β → Except ε State} (l : List β) {r : Except ε State}
    (hg : ∀ r x u, g r x = .ok u → ∃ t, r = .ok t ∧ WorkFrame c t u) (h : l.foldl g r = .ok u) : ∃ t, r = .ok t ∧ WorkFrame c t u := by
  induction l generalizing r with
  | nil => exact ⟨u, h, .refl⟩
  | cons x l ih =>
    obtain ⟨v, hv, hvu⟩ := ih h
    obtain ⟨t, ht, htv⟩ := hg r x v hv
    exact ⟨t, ht, htv.trans hvu⟩

theorem WorkFrame.cmds (h : WorkFrame c s t) : t.cmds = s.cmds := by rw [h.1]

/-- A merge that begins or ends is no part of what the work looks at. -/
theorem WorkFrame.setMerges (h : WorkFrame c s t) (m : SMap Merge) : WorkFrame c { s with merges := m } { t with merges := m } := by
  obtain ⟨hf, hm, hc, hr⟩ := h
  refine ⟨?_, hm, hc, hr⟩
  rw [hf]

/-- Work that leaves the commands alone is in the frame of its command. -/
theorem WorkFrame.engineFrame (h : WorkFrame c s t) : EngineFrame s t c := by
  obtain ⟨hf, hm, hc, hr⟩ := h
  refine ⟨?_, hm, hc, hr⟩
  rw [hf]

/-- The command whose work is done: the frame, and its status and RESULT. -/
theorem WorkFrame.workDone (h : WorkFrame c s u) (hc : s.cmd c.id = some c) (status : Byte) (result : BitVec 32) :
    EngineFrame s (u.workDone c status result) c ∧ WorkEnds s (u.workDone c status result) c status result := by
  have hends := WorkEnds.workDone hc h.cmds status result
  obtain ⟨hf, hm, hcore, hr⟩ := h
  refine ⟨⟨?_, hm, hcore, hr⟩, hends⟩
  rw [State.workDone, State.setCmd, hf]

/-- A command whose work ends its run. -/
theorem WorkFrame.exec_ends {i : Instr} {status : Byte} {result : BitVec 32} (h : WorkFrame c s u) (hc : s.cmd c.id = some c)
    (hx : exec i s = .next (u.workDone c status result)) :
    ∃ t, exec i s = .next t ∧ EngineFrame s t c ∧ WorkEnds s t c status result ∧ t.mem = u.mem :=
  ⟨_, hx, (h.workDone hc status result).1, (h.workDone hc status result).2, rfl⟩

end

theorem poisonStatus_eq_doneOrPoisoned : poisonStatus = doneOrPoisoned := rfl

/-! ### Loops over what is read -/

/-- A loop that adds what each element gives to a list, where no access fails. -/
theorem foldl_append_ok {α β ε : Type} {g : Except ε (List β) → α → Except ε (List β)} (f : α → List β) {l : List α}
    (hg : ∀ y, ∀ e ∈ l, g (.ok y) e = .ok (y ++ f e)) (x : List β) : l.foldl g (.ok x) = .ok (x ++ l.flatMap f) := by
  induction l generalizing x with
  | nil => simp
  | cons e l ih =>
    obtain ⟨he, hl⟩ : (∀ y, g (.ok y) e = .ok (y ++ f e)) ∧ ∀ y, ∀ e ∈ l, g (.ok y) e = .ok (y ++ f e) :=
      ⟨fun y => hg y e List.mem_cons_self, fun y d hd => hg y d (List.mem_cons_of_mem _ hd)⟩
    rw [List.foldl_cons, he, ih hl, List.flatMap_cons, List.append_assoc]

theorem flatMap_ite_singleton {α : Type} (p : α → Bool) (l : List α) : (l.flatMap fun e => if p e then [e] else []) = l.filter p := by
  induction l with
  | nil => rfl
  | cons e l ih => cases h : p e <;> simp [h, ih]

/-! ### Flash reads (R273, R276) -/

section
variable (c : Cmd) (s : State)

theorem State.setReg_health_writeFrame {a : Nat} (h : a = Reg.hlyHealthWr ∨ a = Reg.hlyHealthLost) (v : Word) : WriteFrame c s (s.setReg a v) := by
  refine ⟨rfl, fun _ _ => rfl, rfl, fun b _ _ _ hw hl => State.reg_setReg_other _ _ ?_⟩
  rcases h with rfl | rfl
  exacts [hw, hl]

theorem State.health_writeFrame (code die : Byte) (block arg : Nat) : WriteFrame c s (s.health code die block arg) := by
  unfold State.health
  dsimp only
  split
  · exact State.setReg_health_writeFrame c s (.inr rfl) _
  · exact (State.ramWrite_writeFrame c s _ _ _ _).trans (State.setReg_health_writeFrame c _ (.inl rfl) _)

theorem State.readBlock_workFrame (k : Nat) : WorkFrame c s (s.readBlock k) := by
  have hset (e : SMap EraseBlock) : WorkFrame c s { s with erase := e } := WriteFrame.refl
  unfold State.readBlock
  dsimp only
  split
  · exact (hset _).trans (State.health_writeFrame c _ _ _ _ _).workFrame
  · exact hset _

theorem State.countFlashRead_workFrame (b : Nat) : WorkFrame c s (s.countFlashRead b) := by
  have hreads : wrapReg Reg.hlyReads = some Reg.hlyCntWrap := by decide
  have hoor : wrapReg Reg.hlyOorReads = some Reg.hlyCntWrap := by decide
  unfold State.countFlashRead
  split
  · exact (WriteFrame.bump _ (.inl (counterReg_of_wrapReg hoor).1)).workFrame
  · split
    · exact (WriteFrame.bump _ (.inl (counterReg_of_wrapReg hreads).1)).workFrame.trans (State.readBlock_workFrame c _ _)
    · exact .refl

theorem State.countFlashReads_workFrame (bs : List Nat) : WorkFrame c s (s.countFlashReads bs) :=
  .foldl bs fun t b => State.countFlashRead_workFrame c t b

theorem State.countRegion_workFrame (a : Agent) (va n : Nat) : WorkFrame c s (s.countRegion a va n) := by
  unfold State.countRegion
  split
  · exact .refl
  · refine .foldl _ fun t e => ?_
    split
    · exact State.countFlashReads_workFrame c t _
    · exact .refl

theorem State.countRegions_workFrame (a : Agent) (rs : List (Nat × Nat)) : WorkFrame c s (s.countRegions a rs) :=
  .foldl rs fun t r => State.countRegion_workFrame c t a r.1 r.2

/-- What a command stores is in the frame of its work. -/
theorem State.store_workFrame (cls : BitVec 3) (va : Nat) (bs : List Byte) (bad : Bool) :
    WorkFrame c s (s.store c.agent c.core cls va bs bad) := (State.store_writeFrame c s c.agent rfl cls va bs bad).workFrame

end

end Sys2Proof.Machine
end

section
/-!
PROOFS. CLM_INSERT, CLM_DELETE and CLM_FILTER (O18): R150, R151, R154, R155.
-/

namespace Sys2Proof.Machine

/-! ### Appends (R150) -/

section
variable {c : Cmd} {s u : State} {bs : List Byte} {bad : Bool}

/-- Records appended (R150) are stores. -/
theorem State.appendSide_workFrame {hva : Nat} {e : SideEntry} (h : s.appendSide c.agent c hva e bad = .ok u) : WorkFrame c s u := by
  unfold State.appendSide at h
  dsimp only at h
  split at h
  · exact nomatch h
  split at h
  · exact nomatch h
  split at h
  · split at h
    · exact nomatch h
    · obtain rfl := Except.ok.inj h
      exact (State.store_workFrame c s _ _ _ _).trans (State.store_workFrame c _ _ _ _ _)
  · split at h
    · obtain rfl := Except.ok.inj h
      exact ((State.store_workFrame c s _ _ _ _).trans (State.store_workFrame c _ _ _ _ _)).trans (State.store_workFrame c _ _ _ _ _)
    all_goals exact nomatch h

theorem State.appendRecords_workFrame (tomb : Bool) (h : s.appendRecords c tomb bs bad = (u, none)) : WorkFrame c s u := by
  have hfst : WorkFrame c s (s.appendRecords c tomb bs bad).1 := by
    unfold State.appendRecords
    refine WorkFrame.foldl_fst (p := (s, none)) _ fun q i => ?_
    dsimp only
    split
    · exact .refl
    split
    · exact .refl
    split
    · exact .refl
    · next v hv =>
      dsimp only
      exact (State.appendSide_workFrame hv).trans (State.store_workFrame c v c.cls3 _ _ bad)
  rwa [h] at hfst

/-- One record is appended with the header's NEXT_SEQ, which goes up by 1. -/
theorem State.appendRecords_one {tomb : Bool} {h : IndexHdr} (hn : c.n 32 4 = 1) (hh : s.indexHdr c.agent (c.n 16 8) = .ok h)
    (ha : s.appendSide c.agent c (c.n 16 8) { code := (c.record bs 0).1, id := (c.record bs 0).2.1, leaf := (c.record bs 0).2.2
                                              tomb := tomb, seq := h.nextSeq, next := 0 } bad = .ok u) :
    s.appendRecords c tomb bs bad = (u.store c.agent c.core c.cls3 (c.n 16 8 + 64) (toLE 8 (h.nextSeq + 1)) bad, none) := by
  unfold State.appendRecords
  rw [hn]
  simp only [List.range_one, List.foldl_cons, List.foldl_nil, hh, ha]

/-- An append command whose records could all be read and appended ends. -/
theorem exec_append {id : Nat} (ext : Ext) {tomb : Bool} (hw : s.working id 2 (if tomb then 3 else 2) = some c)
    (hl : s.load c.agent (c.n 24 8) (c.n 32 4 * c.recBytes) = .ok bs)
    (hr : s.appendRecords c tomb bs (s.regionPoisoned c.agent (c.n 24 8) (c.n 32 4 * c.recBytes) ||
      s.regionPoisoned c.agent (c.n 16 8) 256) = (u, none)) :
    exec (if tomb then .clmDelete id ext else .clmInsert id ext) s =
      .next ((u.countRegions c.agent [(c.n 16 8, 256), (c.n 24 8, c.n 32 4 * c.recBytes)]).workDone c (doneOrPoisoned
        (s.regionPoisoned c.agent (c.n 24 8) (c.n 32 4 * c.recBytes) || s.regionPoisoned c.agent (c.n 16 8) 256)) 0) := by
  have hall : exec (if tomb then .clmDelete id ext else .clmInsert id ext) s = .next (s.appendAll c tomb) := by
    cases tomb with
    | false =>
      show execClmInsert id ext s = _
      unfold execClmInsert
      rw [show s.working id 2 2 = some c from hw]
    | true =>
      show execClmDelete id ext s = _
      unfold execClmDelete
      rw [show s.working id 2 3 = some c from hw]
  rw [hall, State.appendAll]
  dsimp only
  rw [hl]
  dsimp only
  rw [hr]
  rfl

end

/-! ### CLM_FILTER -/

/-- The address of the word of an entry's attributes. -/
def Cmd.attrAt (c : Cmd) (e : List Byte) : Nat := c.n 16 8 + 8 * (numAt e 0 8 % 2 ^ 40)

/-- Does the word of an entry's attributes hold, where it can be read? -/
def State.attrHolds (s : State) (c : Cmd) (e : List Byte) : Bool :=
  match s.load c.agent (c.attrAt e) 8 with
  | .ok w => c.filterHolds (leNat w)
  | .error _ => false

/-- The list CLM_FILTER writes where the entries of `live` hold, the list read having the header hd. -/
def Cmd.filterList (c : Cmd) (hd : List Byte) (live : List (List Byte)) : List Byte :=
  let short := decide (live.length < c.n 58 2)
  listBytes (live.take (c.n 58 2)).length ((numAt hd 4 2 &&& 0xFFEF) + 16 * b2n short) (numAt hd 6 2) (numAt hd 8 4)
    (if short then Nat.min 4096 (ceilDiv (numAt hd 0 4 * c.n 58 2) (Nat.max live.length 1)) else 0) (live.take (c.n 58 2))

/-- What CLM_FILTER reports where the entries of `live` hold: the shortfall, and by how much to widen the search. -/
def Cmd.filterReport (c : Cmd) (live : List (List Byte)) : Nat :=
  if decide (live.length < c.n 58 2) then
    (c.n 58 2 - live.length) + Nat.min 255 (ceilDiv (4 * c.n 58 2) (Nat.max live.length 1)) * 65536
  else 0

section
variable {c : Cmd} {live : List (List Byte)}

theorem Cmd.filterList_enough (hd : List Byte) (h : c.n 58 2 ≤ live.length) : c.filterList hd live =
    listBytes (c.n 58 2) (numAt hd 4 2 &&& 0xFFEF) (numAt hd 6 2) (numAt hd 8 4) 0 (live.take (c.n 58 2)) := by
  unfold Cmd.filterList
  rw [decide_eq_false h.not_gt, List.length_take_of_le h]
  rfl

theorem Cmd.filterList_short (hd : List Byte) (h : live.length < c.n 58 2) : c.filterList hd live =
    listBytes live.length ((numAt hd 4 2 &&& 0xFFEF) + 16) (numAt hd 6 2) (numAt hd 8 4)
      (Nat.min 4096 (ceilDiv (numAt hd 0 4 * c.n 58 2) (Nat.max live.length 1))) live := by
  unfold Cmd.filterList
  rw [decide_eq_true h, List.take_of_length_le h.le]
  rfl

theorem Cmd.filterReport_enough (h : c.n 58 2 ≤ live.length) : c.filterReport live = 0 := by
  unfold Cmd.filterReport
  rw [decide_eq_false h.not_gt]
  rfl

theorem Cmd.filterReport_short (h : live.length < c.n 58 2) : c.filterReport live =
    c.n 58 2 - live.length + Nat.min 255 (ceilDiv (4 * c.n 58 2) (Nat.max live.length 1)) * 65536 := by
  unfold Cmd.filterReport
  rw [decide_eq_true h]
  rfl

/-- CLM_FILTER, its reads answered (R154, R155): the entries that hold are written and what is missing of them is reported. -/
theorem exec_clmFilter {s : State} {id : Nat} (ext : Ext) {hd bs : List Byte} (hw : s.working id 2 5 = some c)
    (hhd : s.load c.agent (c.n 24 8) 16 = .ok hd) (hbs : s.load c.agent (c.n 24 8 + 16) (16 * numAt hd 0 4) = .ok bs)
    (hwords : ∀ e ∈ cut 16 (numAt hd 0 4) bs, ∃ w, s.load c.agent (c.attrAt e) 8 = .ok w) :
    let es := cut 16 (numAt hd 0 4) bs
    let bad := s.regionPoisoned c.agent (c.n 24 8) (16 + 16 * numAt hd 0 4) || es.any fun e => s.regionPoisoned c.agent (c.attrAt e) 8
    exec (.clmFilter id ext) s = .next (((s.countRegions c.agent ((c.n 24 8, 16 + 16 * numAt hd 0 4) :: es.map fun e =>
      (c.attrAt e, 8))).store c.agent c.core c.cls3 (c.n 32 8) (c.filterList hd (es.filter (s.attrHolds c))) bad).workDone c
        (doneOrPoisoned bad) (BitVec.ofNat 32 (c.filterReport (es.filter (s.attrHolds c))))) := by
  dsimp only
  show execClmFilter id ext s = _
  unfold execClmFilter
  rw [hw]
  dsimp only
  rw [hhd]
  dsimp only
  rw [hbs]
  dsimp only
  rw [foldl_append_ok (fun e => if s.attrHolds c e then [e] else []) fun y e he => ?_]
  · rw [flatMap_ite_singleton, poisonStatus_eq_doneOrPoisoned]
    rfl
  · obtain ⟨w, hload⟩ := hwords e he
    unfold State.attrHolds
    unfold Cmd.attrAt at *
    dsimp only
    rw [hload]
    dsimp only
    split <;> simp

end

/-- Settles O18: the records appended one after another, the entries kept, and what the command reads are in the frame of its work. -/
theorem clematisAppendsAndFilters : Obligations.ClematisAppendsAndFilters := by
  unfold Obligations.ClematisAppendsAndFilters
  intro id ext c s
  refine ⟨fun tomb bs hw hl => ⟨fun u hr => ?_, fun h u hn hh ha => ?_⟩, fun hd bs hw hhd hbs hwords => ?_⟩
  · exact ((State.appendRecords_workFrame tomb hr).trans (State.countRegions_workFrame c u c.agent _)).exec_ends
      (State.cmd_of_working hw) (exec_append ext hw hl hr)
  · have hr := State.appendRecords_one (tomb := tomb) hn hh ha
    exact ((State.appendRecords_workFrame tomb hr).trans (State.countRegions_workFrame c _ c.agent _)).exec_ends
      (State.cmd_of_working hw) (exec_append ext hw hl hr)
  · obtain ⟨t, hx, hengine, hends, hmem⟩ := ((State.countRegions_workFrame c s c.agent _).trans
      (State.store_workFrame c _ _ _ _ _)).exec_ends (State.cmd_of_working hw) (exec_clmFilter ext hw hhd hbs hwords)
    refine ⟨t, hx, hengine, fun henough => ?_, fun hshort => ?_⟩
    · replace henough : c.n 58 2 ≤ ((cut 16 (numAt hd 0 4) bs).filter (s.attrHolds c)).length := henough
      rw [Cmd.filterReport_enough henough] at hends
      rw [Cmd.filterList_enough hd henough] at hmem
      exact ⟨hends, hmem⟩
    · replace hshort : ((cut 16 (numAt hd 0 4) bs).filter (s.attrHolds c)).length < c.n 58 2 := hshort
      rw [Cmd.filterReport_short hshort] at hends
      rw [Cmd.filterList_short hd hshort] at hmem
      exact ⟨hends, hmem⟩

end Sys2Proof.Machine
end

section
/-!
PROOFS. CLM_MERGE, MERGE_FINISH and the node cache's prefetch (O19): R146, R152, R153.
-/

namespace Sys2Proof.Machine

/-! ### CLM_MERGE (R152) -/

section
variable {c : Cmd} {s u : State}

/-- The live entries of an overfull leaf are appended again by stores. -/
theorem State.reappend_workFrame {hva : Nat} {l : Leaf} (h : s.reappend c.agent c hva l = .ok u) : WorkFrame c s u := by
  unfold State.reappend at h
  dsimp only at h
  split at h
  · exact nomatch h
  · obtain ⟨t, ht, htu⟩ := WorkFrame.foldl_ok (c := c) _ (fun r e v hv => by
      split at hv
      · exact nomatch hv
      · next t => exact ⟨t, rfl, State.appendSide_workFrame hv⟩) h
    obtain rfl := Except.ok.inj ht
    exact (State.store_workFrame c s _ _ _ _).trans htu

theorem State.mergeLeaf_workFrame (m : MergeRun) (k : Nat) : WorkFrame c m.st (State.mergeLeaf c.agent c m k).st := by
  unfold State.mergeLeaf
  dsimp only
  split
  · exact .refl
  split
  · exact .refl
  split
  · exact .refl
  · exact .refl
  split
  · exact .refl
  split
  · split
    · exact .refl
    · next t ht => exact State.reappend_workFrame ht
  split
  · exact .refl
  split
  · exact .refl
  · exact (State.store_workFrame c _ _ _ _ _).trans (State.store_workFrame c _ _ _ _ _)

theorem State.mergeLeaves_workFrame (h : IndexHdr) : WorkFrame c s (s.mergeLeaves c h).st :=
  List.foldlRecOn (motive := fun m : MergeRun => WorkFrame c s m.st) _ _ WorkFrame.refl fun m hm k _ =>
    hm.trans (State.mergeLeaf_workFrame m k)

/-- What CLM_MERGE records of a rewrite that no access stopped, for MERGE_FINISH. -/
def State.mergeRecord (s : State) (c : Cmd) (h : IndexHdr) : Merge :=
  let m := s.mergeLeaves c h
  { waits := m.st.walksNow, free := h.sideTail, mark := m.mark, status := m.stop.getD 0
    result := BitVec.ofNat 32 (m.rewritten % 65536 + Nat.min 255 m.overfull * 65536) }

theorem exec_clmMerge {id : Nat} (ext : Ext) {h : IndexHdr} (hw : s.working id 2 4 = some c) (hm : SMap.find s.merges c.id = none)
    (hh : s.indexHdr c.agent (c.n 16 8) = .ok h) (herr : (s.mergeLeaves c h).err = none) :
    exec (.clmMerge id ext) s = .next
      { (s.mergeLeaves c h).st.countRegions c.agent [(c.n 16 8, 256), (h.leafTable, 8 * h.leafCount)] with
        merges := SMap.insert (s.mergeLeaves c h).st.merges c.id (s.mergeRecord c h) } := by
  show execClmMerge id ext s = _
  unfold execClmMerge
  rw [hw]
  dsimp only
  rw [hm, hh]
  dsimp only
  rw [herr]
  simp only [Option.isSome_none, Option.any_none, Bool.false_eq_true, if_false]
  unfold State.mergeRecord
  dsimp only
  cases (s.mergeLeaves c h).stop <;> rfl

/-! ### MERGE_FINISH (R153) -/

/-- The n bytes of v are stored at offset o of the index header of a merge. -/
def State.putHdr (s : State) (c : Cmd) (o n v : Nat) : State := s.store c.agent c.core c.cls3 (c.n 16 8 + o) (toLE n v) false

/-- The header's fields at the end of a merge: SIDE_FREE, MERGE_MARK, MERGING. -/
def State.mergeSettled (s : State) (c : Cmd) (m : Merge) : State := ((s.putHdr c 56 8 m.free).putHdr c 72 8 m.mark).putHdr c 80 1 0

theorem State.mergeSettled_workFrame (m : Merge) : WorkFrame c s (s.mergeSettled c m) :=
  have hput (u : State) (o n v : Nat) : WorkFrame c u (u.putHdr c o n v) := State.store_workFrame c u _ _ _ _
  ((hput s 56 8 m.free).trans (hput _ 72 8 m.mark)).trans (hput _ 80 1 0)

/-- A merge's command whose work ends its run, its record becoming one of ms. -/
theorem WorkFrame.exec_mergeEnds {i : Instr} {status : Byte} {result : BitVec 32} (h : WorkFrame c s u) (hc : s.cmd c.id = some c)
    (ms : SMap Merge) (hx : exec i s = .next (({ u with merges := ms } : State).workDone c status result)) :
    ∃ t, exec i s = .next t ∧ EngineFrame { s with merges := t.merges } t c ∧ WorkEnds s t c status result ∧ t.mem = u.mem ∧ t.merges = ms :=
  ⟨_, hx, ((h.setMerges ms).workDone hc status result).1, ((h.setMerges ms).workDone hc status result).2, rfl, rfl⟩

theorem exec_mergeFinish {id : Nat} (ext : Ext) {m : Merge} (hw : s.working id 2 4 = some c) (hm : SMap.find s.merges c.id = some m)
    (hwaits : ∀ w ∈ m.waits, w ∉ s.walksNow) :
    exec (.mergeFinish id ext) s = .next (({ s.mergeSettled c m with merges := SMap.erase (s.mergeSettled c m).merges c.id } : State).workDone
      c m.status m.result) := by
  have hnone : m.waits.any (fun w => s.walksNow.contains w) = false := by
    simpa using hwaits
  show execMergeFinish id ext s = _
  unfold execMergeFinish
  rw [hw]
  dsimp only
  rw [hm]
  dsimp only
  rw [hnone]
  rfl

end

/-! ### The node cache's prefetch (R146) -/

section
variable {s : State}

/-- Lines leave the caches: the counters of what was not used, nothing else. -/
theorem State.evict_fields (s : State) (gone : AheadLine → Bool) :
    s.evict gone = { s with eff := (s.evict gone).eff, ahead := s.ahead.filter fun l => !(gone l) } := by
  have h : RegsOnly { s with ahead := s.ahead.filter fun l => !(gone l) } (s.evict gone) := by
    rw [State.evict_eq]
    exact RegsOnly.linesSquashed _ .refl
  exact h

theorem State.fillLine_fields (s : State) (l : AheadLine) : s.fillLine l = { s with ahead := (s.fillLine l).ahead } := by
  unfold State.fillLine
  split <;> rfl

theorem State.mem_fillLine {l k : AheadLine} (h : k ∈ (s.fillLine l).ahead) : k ∈ s.ahead ∨ k = l := by
  unfold State.fillLine at h
  split at h
  · exact .inl h
  · exact (List.mem_append.mp h).imp id List.mem_singleton.mp

end

/-- A list without the elements of its first k has at most the length of what follows them. -/
theorem length_filter_not_mem_take {α : Type} [DecidableEq α] (l : List α) (k : Nat) :
    (l.filter fun x => !((l.take k).contains x)).length ≤ l.length - k := by
  have htake : (l.take k).filter (fun x => !((l.take k).contains x)) = [] :=
    List.filter_eq_nil_iff.mpr fun x hx => by simp [hx]
  have hsplit (q : α → Bool) (hq : (l.take k).filter q = []) : l.filter q = (l.drop k).filter q := by
    conv_lhs => rw [← List.take_append_drop k l, List.filter_append, hq, List.nil_append]
  rw [hsplit _ htake, ← List.length_drop]
  exact List.length_filter_le _ _

section
variable {c : Cmd} {s : State}

/-- The node lines of a group are trimmed to n: nothing but counters changes, no line comes, n lines of the group at most stay (R146). -/
theorem State.trimNodes_spec (s : State) (g n : Nat) : let t := s.trimNodes g n
    t = { s with eff := t.eff, ahead := t.ahead } ∧ (∀ k ∈ t.ahead, k ∈ s.ahead) ∧
      (t.ahead.filter fun k => k.node && decide (k.group = g)).length ≤ n := by
  dsimp only
  unfold State.trimNodes
  dsimp only
  rw [State.evict_fields]
  refine ⟨rfl, fun k hk => List.mem_of_mem_filter hk, ?_⟩
  dsimp only
  rw [List.filter_comm]
  exact (length_filter_not_mem_take _ _).trans (by omega)

theorem State.trimNodes_writeFrame (g n : Nat) : WriteFrame c s (s.trimNodes g n) := State.evict_writeFrame c s _

end

/-! What the flash health log's entry leaves in the caches. -/

section
variable (s : State)

theorem State.claims_ahead (job : BitVec 16) (us : List Nat) : (us.foldl (fun t u => t.claim job u) s).ahead = s.ahead := by
  refine List.foldlRecOn (motive := fun t : State => t.ahead = s.ahead) _ _ rfl fun t ht u _ => ?_
  unfold State.claim
  split
  · exact ht
  · exact ht

theorem State.markWrite_ahead (pa n : Nat) (bad : Bool) : (s.markWrite pa n bad).ahead = s.ahead := by
  refine List.foldlRecOn (motive := fun t : State => t.ahead = s.ahead) _ _ rfl fun t ht u _ => ?_
  split
  · exact ht
  · split <;> exact ht

theorem State.ramWrite_ahead (job : BitVec 16) (pa : Nat) (bs : List Byte) (bad : Bool) : (s.ramWrite job pa bs bad).ahead ⊆ s.ahead := by
  unfold State.ramWrite State.dropLines
  rw [State.evict_fields]
  refine fun l hl => ?_
  have hl := List.mem_of_mem_filter hl
  rw [State.markWrite_ahead] at hl
  split at hl
  · rwa [← State.claims_ahead s job]
  · exact hl

theorem State.health_ahead (code die : Byte) (block arg : Nat) : (s.health code die block arg).ahead ⊆ s.ahead := by
  unfold State.health
  extract_lets base wr used off e
  split
  · rw [State.bumpSat, State.setRegFld, State.setReg_ahead]
    exact List.Subset.refl _
  · rw [State.setReg_ahead]
    exact State.ramWrite_ahead _ _ _ _ _

theorem State.readBlock_ahead (k : Nat) : (s.readBlock k).ahead ⊆ s.ahead := by
  unfold State.readBlock
  dsimp only
  split
  · exact State.health_ahead _ _ _ _ _
  · exact List.Subset.refl _

theorem State.countFlashReads_ahead (bs : List Nat) : (s.countFlashReads bs).ahead ⊆ s.ahead := by
  refine List.foldlRecOn (motive := fun t : State => t.ahead ⊆ s.ahead) _ _ (List.Subset.refl _) fun t ht b _ => ?_
  unfold State.countFlashRead
  split
  · rwa [State.bump_fields]
  · split
    · refine List.Subset.trans (State.readBlock_ahead _ _) ?_
      rwa [State.bump_fields]
    · exact ht

end

section
variable {s : State} {c : Cmd} {id pa : Nat} {va : BitVec 48} {die : BitVec 2} {stays : Bool}

/-- The line that the prefetchers fill for walk command c from physical address pa. -/
def State.nodeLineAt (s : State) (c : Cmd) (die : BitVec 2) (pa : Nat) (stays : Bool) : AheadLine :=
  { aheadLine (s.home pa / 256) (s.groupOfCore c.core) die.toNat true (s.piecesPoisoned c.agent [(pa, 256)]) with stays := stays }

/-- The flash block of a line is read where the line lies in flash. -/
def State.countLineRead (s : State) (pa : Nat) : State :=
  if regionOf pa = .flash then s.countFlashReads (blocksOf (pa - flashBase) 256) else s

/-- The line is filled and the group's share kept. -/
theorem State.prefetched_spec (l : AheadLine) (g n : Nat) : let t := ((s.countLineRead pa).fillLine l).trimNodes g n
    WorkFrame c s t ∧ (regionOf pa ≠ .flash → t = { s with eff := t.eff, ahead := t.ahead }) ∧ (∀ k ∈ t.ahead, k ∈ s.ahead ∨ k = l) ∧
      (t.ahead.filter fun k => k.node && decide (k.group = g)).length ≤ n := by
  obtain ⟨hfields, hmem, hlen⟩ := ((s.countLineRead pa).fillLine l).trimNodes_spec g n
  have hread : WorkFrame c s (s.countLineRead pa) ∧ (s.countLineRead pa).ahead ⊆ s.ahead := by
    unfold State.countLineRead
    split
    · exact ⟨State.countFlashReads_workFrame c s _, State.countFlashReads_ahead s _⟩
    · exact ⟨.refl, List.Subset.refl _⟩
  have hfill : WorkFrame c (s.countLineRead pa) ((s.countLineRead pa).fillLine l) := by
    rw [State.fillLine_fields]
    exact (WriteFrame.of_fields rfl).workFrame
  refine ⟨(hread.1.trans hfill).trans (State.trimNodes_writeFrame _ _).workFrame, fun hflash => ?_, fun k hk => ?_, hlen⟩
  · rw [hfields, State.fillLine_fields, State.countLineRead, if_neg hflash]
  · exact (State.mem_fillLine (hmem k hk)).imp (fun h => hread.2 h) id

variable (ext : Ext) {h : IndexHdr} (hw : s.working id 2 1 = some c) (hh : s.indexHdr c.agent (c.n 16 8) = .ok h)
  (hspec : s.specOff 1 = false) (hp : s.pieces c.agent (va.toNat / 256 * 256) 256 false = .ok [(pa, 256)])
  (hreg : regionOf pa ≠ .registers) (hpre : s.prefetchable c.agent c h (s.groupOfCore c.core) (va.toNat / 256) = some stays)
  (hshare : s.nodeShare (s.groupOfCore c.core) / 256 ≠ 0)
include hw hh hspec hp hreg hpre hshare

theorem exec_nodeCachePrefetch :
    exec (.nodeCachePrefetch id va die ext) s = .next (
      if s.hasLine (s.nodeLineAt c die pa stays) then s
      else if s.unanswered { c.agent with pool := [] } pa 256 then
        s.fetchLine c.core c.job c.cls3 pa { s.nodeLineAt c die pa stays with bad := false }
      else ((s.countLineRead pa).fillLine (s.nodeLineAt c die pa stays)).trimNodes (s.groupOfCore c.core)
        (s.nodeShare (s.groupOfCore c.core) / 256)) := by
  show execNodeCachePrefetch id va die ext s = _
  unfold execNodeCachePrefetch
  rw [hw]
  dsimp only
  rw [hh]
  dsimp only
  rw [hpre]
  dsimp only
  rw [hspec, hp]
  simp only [hshare, hreg, decide_false, Bool.or_false, Bool.false_or, Bool.false_eq_true, if_false]
  rw [apply_ite Host.Outcome.next, apply_ite Host.Outcome.next]
  rfl

variable (hline : s.hasLine (s.nodeLineAt c die pa stays) = false)
include hline

theorem exec_nodeCachePrefetch_asks (hpeer : s.unanswered { c.agent with pool := [] } pa 256 = true) :
    exec (.nodeCachePrefetch id va die ext) s =
      .next (s.fetchLine c.core c.job c.cls3 pa { s.nodeLineAt c die pa stays with bad := false }) := by
  rw [exec_nodeCachePrefetch ext hw hh hspec hp hreg hpre hshare, hline, hpeer]
  rfl

theorem exec_nodeCachePrefetch_fills (hpeer : s.unanswered { c.agent with pool := [] } pa 256 = false) :
    ∃ t, exec (.nodeCachePrefetch id va die ext) s = .next t ∧ WorkFrame c s t ∧
      (regionOf pa ≠ .flash → t = { s with eff := t.eff, ahead := t.ahead }) ∧
      (∀ k ∈ t.ahead, k ∈ s.ahead ∨ k = s.nodeLineAt c die pa stays) ∧
      (t.ahead.filter fun k => k.node && decide (k.group = s.groupOfCore c.core)).length ≤ s.nodeShare (s.groupOfCore c.core) / 256 := by
  rw [exec_nodeCachePrefetch ext hw hh hspec hp hreg hpre hshare, hline, hpeer]
  exact ⟨_, rfl, State.prefetched_spec _ _ _⟩

end

/-- Settles O19: a merge's rewrites, its end and a line filled ahead are in the frame of their command's work. -/
theorem clematisMergesAndPrefetches : Obligations.ClematisMergesAndPrefetches := by
  unfold Obligations.ClematisMergesAndPrefetches
  intro id ext c s
  refine ⟨fun h hw hm hh herr => ?_, fun m hw hm hwaits => ?_, fun va die pa h stays hw hh hspec hp hreg hpre hshare => ?_⟩
  · have hleaves : WorkFrame c s (s.mergeLeaves c h).st := State.mergeLeaves_workFrame h
    have hframe := hleaves.trans (State.countRegions_workFrame c _ c.agent [(c.n 16 8, 256), (h.leafTable, 8 * h.leafCount)])
    have hmerges : (s.mergeLeaves c h).st.merges = s.merges := by rw [hleaves.1]
    have hwalks : (s.mergeLeaves c h).st.walksNow = s.walksNow := by
      unfold State.walksNow
      rw [hleaves.cmds]
    refine ⟨_, exec_clmMerge ext hw hm hh herr, (hframe.setMerges _).engineFrame, hframe.cmds, rfl, fun k => ?_⟩
    unfold State.mergeRecord
    dsimp only
    rw [SMap.find_insert, hmerges, hwalks]
  · have hframe : WorkFrame c s (s.mergeSettled c m) := State.mergeSettled_workFrame m
    have hmerges : (s.mergeSettled c m).merges = s.merges := by rw [hframe.1]
    obtain ⟨t, hx, hengine, hends, hmem, ht⟩ :=
      hframe.exec_mergeEnds (State.cmd_of_working hw) _ (exec_mergeFinish ext hw hm hwaits)
    refine ⟨t, hx, hengine, hends, hmem, fun k => ?_⟩
    rw [ht, hmerges, SMap.find_erase]
  · refine ⟨fun hline => ?_, exec_nodeCachePrefetch_asks ext hw hh hspec hp hreg hpre hshare, fun hline hpeer => ?_⟩
    · exact (exec_nodeCachePrefetch ext hw hh hspec hp hreg hpre hshare).trans (congrArg _ (if_pos hline))
    · obtain ⟨t, hx, hframe, hrest⟩ := exec_nodeCachePrefetch_fills ext hw hh hspec hp hreg hpre hshare hline hpeer
      exact ⟨t, hx, hframe.engineFrame, hframe.cmds, hrest⟩

end Sys2Proof.Machine
end

section
/-!
SUPPORT. Stable sorting best key first, and the pass that picks what is above a threshold and some of what is at it (R156–R158).
-/

namespace Sys2Proof.Machine

/-! ### Sorting -/

section
variable {α : Type} (before : α → α → Bool)

theorem insertBy_perm (x : α) (l : List α) : (insertBy before x l).Perm (x :: l) := by
  induction l with
  | nil => exact .refl _
  | cons y l ih =>
    unfold insertBy
    split
    · exact .refl _
    · exact (ih.cons y).trans (.swap x y l)

theorem sortBy_perm (l : List α) : (sortBy before l).Perm l := by
  have hfold (acc : List α) : (l.foldl (fun acc x => insertBy before x acc) acc).Perm (l ++ acc) := by
    induction l generalizing acc with
    | nil => exact .refl _
    | cons x l ih => exact ((ih _).trans ((insertBy_perm before x acc).append_left l)).trans List.perm_middle
  exact (hfold []).trans (.of_eq (List.append_nil l))

end

/-- x ranks before y: its key is larger, or equal and its index lower (R156). -/
def PMode.Ranks (m : PMode) (x y : PElem) : Prop := m.key y.w ≤ m.key x.w ∧ (m.key x.w = m.key y.w → x.idx < y.idx)

section
variable (m : PMode)

theorem PMode.sorted_perm (es : List PElem) : (m.sorted es).Perm es := sortBy_perm _ es

/-- An element of a higher index goes after those of its key and keeps the list ranked. -/
theorem PMode.insertBy_ranked {x : PElem} {l : List PElem} (hl : l.Pairwise m.Ranks) (hx : ∀ y ∈ l, y.idx < x.idx) :
    (insertBy (fun x y => decide (m.key y.w < m.key x.w)) x l).Pairwise m.Ranks := by
  induction l with
  | nil => exact List.pairwise_singleton _ _
  | cons y l ih =>
    obtain ⟨hy, hl'⟩ := List.pairwise_cons.mp hl
    obtain ⟨hyx, hlx⟩ := List.forall_mem_cons.mp hx
    unfold insertBy
    split
    · next hlt =>
      have hlt : m.key y.w < m.key x.w := of_decide_eq_true hlt
      refine List.pairwise_cons.mpr ⟨fun z hz => ?_, hl⟩
      have hzy : m.key z.w ≤ m.key y.w := by
        rcases List.mem_cons.mp hz with rfl | hz
        exacts [le_rfl, (hy z hz).1]
      exact ⟨by omega, by omega⟩
    · next hge =>
      have hge : m.key x.w ≤ m.key y.w := by simpa using hge
      refine List.pairwise_cons.mpr ⟨fun z hz => ?_, ih hl' hlx⟩
      rcases List.mem_cons.mp ((insertBy_perm _ x l).mem_iff.mp hz) with rfl | hz
      exacts [⟨hge, fun _ => hyx⟩, hy z hz]

/-- Elements in input order become ranked. -/
theorem PMode.sorted_ranked {es : List PElem} (h : es.Pairwise fun x y => x.idx < y.idx) : (m.sorted es).Pairwise m.Ranks := by
  have hfold (acc : List PElem) (hacc : acc.Pairwise m.Ranks) (hlow : ∀ x ∈ es, ∀ y ∈ acc, y.idx < x.idx) :
      (es.foldl (fun acc x => insertBy (fun x y => decide (m.key y.w < m.key x.w)) x acc) acc).Pairwise m.Ranks := by
    induction es generalizing acc with
    | nil => exact hacc
    | cons x es ih =>
      obtain ⟨hx, hes⟩ := List.pairwise_cons.mp h
      obtain ⟨hlowx, hlow⟩ := List.forall_mem_cons.mp hlow
      refine ih hes _ (m.insertBy_ranked hacc hlowx) fun z hz y hy => ?_
      rcases List.mem_cons.mp ((insertBy_perm _ x acc).mem_iff.mp hy) with rfl | hy
      exacts [hx z hz, hlow z hz y hy]
  exact hfold [] .nil fun _ _ _ hy => nomatch hy

end

/-! ### Picking by a threshold -/

/-- What is above, and the first n of what is at the threshold, in order. -/
def pickTop {α : Type} (above atT : α → Prop) [DecidablePred above] [DecidablePred atT] : Nat → List α → List α
  | _, [] => []
  | n, e :: es =>
    if above e then e :: pickTop above atT n es
    else if atT e ∧ 0 < n then e :: pickTop above atT (n - 1) es
    else pickTop above atT n es

section
variable {α : Type} (above atT : α → Prop) [DecidablePred above] [DecidablePred atT]

/-- The selection pass, which counts what it took at the threshold, picks in order. -/
theorem foldl_eq_pickTop (c : Nat) (l acc : List α) (n : Nat) :
    (l.foldl (fun (p : List α × Nat) e => if above e then (p.1 ++ [e], p.2) else if atT e ∧ p.2 < c then (p.1 ++ [e], p.2 + 1) else p)
      (acc, n)).1 = acc ++ pickTop above atT (c - n) l := by
  induction l generalizing acc n with
  | nil => simp [pickTop]
  | cons e l ih =>
    rw [List.foldl_cons, pickTop]
    dsimp only
    by_cases habove : above e
    · rw [if_pos habove, if_pos habove, ih, List.append_assoc, List.singleton_append]
    · rw [if_neg habove, if_neg habove]
      by_cases hat : atT e ∧ n < c
      · rw [if_pos hat, if_pos ⟨hat.1, by omega⟩, ih, List.append_assoc, List.singleton_append, Nat.sub_add_eq]
      · rw [if_neg hat, if_neg fun h => hat ⟨h.1, by omega⟩, ih]

variable {above atT}

theorem pickTop_sublist (n : Nat) (l : List α) : List.Sublist (pickTop above atT n l) l := by
  induction l generalizing n with
  | nil => exact .refl _
  | cons e l ih =>
    rw [pickTop]
    split
    · exact (ih n).cons_cons e
    · split
      · exact (ih _).cons_cons e
      · exact (ih n).cons e

theorem above_or_at_of_mem_pickTop {n : Nat} {l : List α} {x : α} (h : x ∈ pickTop above atT n l) : above x ∨ atT x ∧ 0 < n := by
  induction l generalizing n with
  | nil => cases h
  | cons e l ih =>
    rw [pickTop] at h
    split at h
    · next habove =>
      rcases List.mem_cons.mp h with rfl | h
      exacts [.inl habove, ih h]
    · split at h
      · next hat =>
        rcases List.mem_cons.mp h with rfl | h
        · exact .inr hat
        · exact (ih h).imp_right fun h => ⟨h.1, hat.2⟩
      · exact ih h

theorem mem_pickTop_of_above {n : Nat} {l : List α} {x : α} (hx : x ∈ l) (habove : above x) : x ∈ pickTop above atT n l := by
  induction l generalizing n with
  | nil => cases hx
  | cons e l ih =>
    rw [pickTop]
    rcases List.mem_cons.mp hx with rfl | hx
    · rw [if_pos habove]
      exact List.mem_cons_self
    · split
      · exact List.mem_cons_of_mem _ (ih hx)
      · split
        · exact List.mem_cons_of_mem _ (ih hx)
        · exact ih hx

/-- Of the elements at the threshold those picked come before those left out. -/
theorem pickTop_first {R : α → α → Prop} {n : Nat} {l : List α} (hl : l.Pairwise R) {x y : α} (hx : x ∈ pickTop above atT n l)
    (hxa : ¬ above x) (hy : y ∈ l) (hyt : atT y) (hyn : y ∉ pickTop above atT n l) : R x y := by
  induction l generalizing n with
  | nil => cases hy
  | cons e l ih =>
    obtain ⟨he, hl⟩ := List.pairwise_cons.mp hl
    rw [pickTop] at hx hyn
    split at hx
    · next habove =>
      rw [if_pos habove, List.mem_cons, not_or] at hyn
      exact ih hl ((List.mem_cons.mp hx).resolve_left fun h => hxa (h ▸ habove)) ((List.mem_cons.mp hy).resolve_left hyn.1) hyn.2
    · next habove =>
      rw [if_neg habove] at hyn
      split at hx
      · next hat =>
        rw [if_pos hat, List.mem_cons, not_or] at hyn
        have hyl := (List.mem_cons.mp hy).resolve_left hyn.1
        rcases List.mem_cons.mp hx with rfl | hx
        exacts [he y hyl, ih hl hx hyl hyn.2]
      · next hat =>
        rw [if_neg hat] at hyn
        rcases List.mem_cons.mp hy with rfl | hy
        · exact absurd ⟨hyt, ((above_or_at_of_mem_pickTop hx).resolve_left hxa).2⟩ hat
        · exact ih hl hx hy hyn

theorem length_pickTop (hdisj : ∀ x, above x → ¬ atT x) (n : Nat) (l : List α) :
    (pickTop above atT n l).length = l.countP above + min n (l.countP atT) := by
  induction l generalizing n with
  | nil => simp [pickTop]
  | cons e l ih =>
    rw [pickTop, List.countP_cons, List.countP_cons]
    by_cases habove : above e
    · have hat := hdisj e habove
      simp only [habove, hat, decide_true, decide_false, if_true, if_false, List.length_cons, ih, Bool.false_eq_true]
      omega
    · by_cases hat : atT e
      · by_cases hn : 0 < n
        · simp only [habove, hat, hn, and_self, decide_true, decide_false, if_true, if_false, List.length_cons, ih, Bool.false_eq_true]
          omega
        · simp only [habove, hat, hn, and_false, decide_true, decide_false, if_true, if_false, ih, Bool.false_eq_true]
          omega
      · simp only [habove, hat, false_and, decide_false, if_false, ih, Bool.false_eq_true]
        omega

end

end Sys2Proof.Machine
end

section
/-!
PROOFS. Exact and approximate selection (O20): R156–R158.
-/

namespace Sys2Proof.Machine

/-- The bucket of an element's key in the approximate selection (R157). -/
def PMode.bucket (m : PMode) (e : PElem) : Nat := m.key e.w / 2 ^ 20

/-- The bucket of the k-th best of the elements that are no NaN (R157). -/
def PMode.bar (m : PMode) (es : List PElem) (k : Nat) : Nat :=
  m.bucket ((m.sorted (nonNan es)).getD (k - 1) { idx := 0, w := 0, nan := false })

section
variable {m : PMode} {es : List PElem} {k : Nat}

theorem nan_of_mem_nonNan {e : PElem} (h : e ∈ nonNan es) : e.nan = false := by simpa using (List.mem_filter.mp h).2

theorem mem_nonNan {e : PElem} : e ∈ nonNan es ↔ e ∈ es ∧ e.nan = false := by simp [nonNan]

theorem nonNan_pairwise {R : PElem → PElem → Prop} (h : es.Pairwise R) : (nonNan es).Pairwise R := h.filter _

theorem length_nonNan_le (es : List PElem) : (nonNan es).length ≤ es.length := List.length_filter_le _ _

theorem nonNan_append_nans_perm (es : List PElem) : (nonNan es ++ es.filter PElem.nan).Perm es := by
  have h := List.filter_append_perm (fun e : PElem => !e.nan) es
  simpa [nonNan] using h

/-! ### The branches of a selection -/

theorem PMode.select_exact (h : m.exact = true) : m.select es k = (m.sorted (nonNan es) ++ es.filter PElem.nan).take k := by
  unfold PMode.select
  rw [h]
  rfl

theorem PMode.select_few (h : m.exact = false) (hk : (nonNan es).length < k) : m.select es k = (nonNan es ++ es.filter PElem.nan).take k := by
  have hbar : m.threshold es k = none := if_pos hk
  unfold PMode.select
  rw [h, hbar]
  rfl

theorem PMode.select_many (h : m.exact = false) (hk : k ≤ (nonNan es).length) : m.select es k =
    pickTop (fun e => m.bar es k < m.bucket e) (fun e => m.bucket e = m.bar es k)
      (k - (nonNan es).countP fun e => m.bar es k < m.bucket e) (nonNan es) := by
  have hbar : m.threshold es k = some (m.bar es k) := if_neg hk.not_gt
  unfold PMode.select
  rw [h, hbar]
  dsimp only
  rw [if_neg Bool.false_ne_true, List.countP_eq_length_filter]
  exact (foldl_eq_pickTop (fun e => m.bar es k < m.bucket e) (fun e => m.bucket e = m.bar es k) _ (nonNan es) [] 0).trans rfl

/-! ### Exact selection -/

/-- x goes before y in an exact selection: keys before NaNs, larger keys first, equals and NaNs in input order (R156). -/
def PMode.Before (m : PMode) (x y : PElem) : Prop :=
  (x.nan = true → y.nan = true) ∧ (x.nan = false → y.nan = false → m.key y.w ≤ m.key x.w) ∧
    (x.nan = y.nan → (x.nan = true ∨ m.key x.w = m.key y.w) → x.idx < y.idx)

theorem PMode.order_pairwise (m : PMode) (h : es.Pairwise fun x y => x.idx < y.idx) :
    (m.sorted (nonNan es) ++ es.filter PElem.nan).Pairwise m.Before := by
  have hkeys {x : PElem} (hx : x ∈ m.sorted (nonNan es)) : x.nan = false := nan_of_mem_nonNan ((m.sorted_perm _).mem_iff.mp hx)
  have hnans {x : PElem} (hx : x ∈ es.filter PElem.nan) : x.nan = true := (List.mem_filter.mp hx).2
  refine List.pairwise_append.mpr ⟨?_, ?_, fun x hx y hy => ?_⟩
  · refine List.Pairwise.imp_of_mem (fun hx hy hr => ?_) (m.sorted_ranked (nonNan_pairwise h))
    simp [PMode.Before, hkeys hx, hkeys hy, hr.1]
    exact hr.2
  · refine List.Pairwise.imp_of_mem (fun hx hy hlt => ?_) (h.filter _)
    simp [PMode.Before, hnans hx, hnans hy, hlt]
  · simp [PMode.Before, hkeys hx, hnans hy]

theorem PMode.order_perm (m : PMode) (es : List PElem) : (m.sorted (nonNan es) ++ es.filter PElem.nan).Perm es :=
  ((m.sorted_perm _).append_right _).trans (nonNan_append_nans_perm es)

/-! ### Approximate selection -/

/-- Around an element of a ranked list: what goes before it is in no lesser bucket, what goes after it in no higher one. -/
theorem PMode.bucket_around (m : PMode) {l : List PElem} (h : l.Pairwise m.Ranks) {j : Nat} (hj : j < l.length) :
    (∀ x ∈ l.take (j + 1), m.bucket l[j] ≤ m.bucket x) ∧ ∀ y ∈ l.drop j, m.bucket y ≤ m.bucket l[j] := by
  have hmono {x y : PElem} (hr : m.Ranks x y) : m.bucket y ≤ m.bucket x := Nat.div_le_div_right hr.1
  have hsplit : l.take j ++ l[j] :: l.drop (j + 1) = l := by
    rw [← List.drop_eq_getElem_cons hj, List.take_append_drop]
  rw [← hsplit] at h
  obtain ⟨-, hafter, hbefore⟩ := List.pairwise_append.mp h
  constructor
  · intro x hx
    rw [List.take_succ_eq_append_getElem hj] at hx
    rcases List.mem_append.mp hx with hx | hx
    · exact hmono (hbefore x hx _ List.mem_cons_self)
    · rw [List.mem_singleton.mp hx]
  · intro y hy
    rw [List.drop_eq_getElem_cons hj] at hy
    rcases List.mem_cons.mp hy with rfl | hy
    · exact le_rfl
    · exact hmono ((List.pairwise_cons.mp hafter).1 y hy)

/-- Where the first j + 1 values are no less than t and those from place j on no greater, j at most are above t, j + 1 above it or equal. -/
theorem countP_around {α : Type} {b : α → Nat} {t j : Nat} {l : List α} (hbefore : ∀ x ∈ l.take (j + 1), t ≤ b x)
    (hafter : ∀ y ∈ l.drop j, b y ≤ t) :
    (l.countP fun e => t < b e) ≤ j ∧ min (j + 1) l.length ≤ (l.countP fun e => t < b e) + l.countP fun e => b e = t := by
  constructor
  · have hnone : (l.drop j).countP (fun e => decide (t < b e)) = 0 :=
      List.countP_eq_zero.mpr fun e he => by simpa using hafter e he
    have hcount := List.countP_append (p := fun e => decide (t < b e)) (l₁ := l.take j) (l₂ := l.drop j)
    rw [List.take_append_drop, hnone, Nat.add_zero] at hcount
    rw [hcount]
    exact List.countP_le_length.trans (List.length_take_le _ _)
  · have hsub := List.take_sublist (j + 1) l
    have hrest : (l.take (j + 1)).countP (fun e => decide ¬ decide (t < b e) = true) ≤ (l.take (j + 1)).countP fun e => b e = t :=
      List.countP_mono_left fun x hx hnot => by
        have := hbefore x hx
        simp only [decide_eq_true_eq] at hnot ⊢
        omega
    calc min (j + 1) l.length = (l.take (j + 1)).length := List.length_take.symm
      _ = _ := List.length_eq_countP_add_countP (fun e => decide (t < b e))
      _ ≤ _ := Nat.add_le_add hsub.countP_le (hrest.trans hsub.countP_le)

/-- Fewer than k elements lie above the bar, and k at least above and at it (R157). -/
theorem PMode.countP_bar (m : PMode) (h : es.Pairwise fun x y => x.idx < y.idx) (hk : k ≤ (nonNan es).length) :
    ((nonNan es).countP fun e => m.bar es k < m.bucket e) ≤ k - 1 ∧
      k ≤ ((nonNan es).countP fun e => m.bar es k < m.bucket e) + (nonNan es).countP fun e => m.bucket e = m.bar es k := by
  have hperm := m.sorted_perm (nonNan es)
  rw [← hperm.countP_eq, ← hperm.countP_eq]
  rw [← hperm.length_eq] at hk
  by_cases hj : k - 1 < (m.sorted (nonNan es)).length
  · obtain ⟨hbefore, hafter⟩ := m.bucket_around (m.sorted_ranked (nonNan_pairwise h)) hj
    have hbar : m.bar es k = m.bucket (m.sorted (nonNan es))[k - 1] := by rw [PMode.bar, List.getD_eq_getElem _ _ hj]
    rw [hbar]
    obtain ⟨habove, hat⟩ := countP_around hbefore hafter
    exact ⟨habove, (le_min (by omega) hk).trans hat⟩
  · have hnil : m.sorted (nonNan es) = [] := List.eq_nil_of_length_eq_zero (by omega)
    rw [hnil] at hk ⊢
    exact ⟨Nat.zero_le _, hk⟩

theorem PMode.length_select_many (h : m.exact = false) (hes : es.Pairwise fun x y => x.idx < y.idx) (hk : k ≤ (nonNan es).length) :
    (m.select es k).length = k := by
  obtain ⟨habove, hat⟩ := m.countP_bar hes hk
  rw [PMode.select_many h hk, length_pickTop fun x hx hxe => by omega]
  omega

/-- What an approximate selection that finds k keys takes, and what it leaves out (R157). -/
theorem PMode.select_many_spec (h : m.exact = false) (hes : es.Pairwise fun x y => x.idx < y.idx) (hk : k ≤ (nonNan es).length) :
    List.Sublist (m.select es k) (nonNan es) ∧ ∀ x ∈ m.select es k, ∀ y ∈ nonNan es, y ∉ m.select es k →
      m.bucket y ≤ m.bucket x ∧ (m.bucket y = m.bucket x → x.idx < y.idx) := by
  rw [PMode.select_many h hk]
  refine ⟨pickTop_sublist _ _, fun x hx y hy hyn => ?_⟩
  have hy' : m.bucket y ≤ m.bar es k := not_lt.mp fun habove => hyn (mem_pickTop_of_above hy habove)
  have hx' : m.bar es k ≤ m.bucket x := (above_or_at_of_mem_pickTop hx).elim Nat.le_of_lt fun h => h.1.ge
  exact ⟨hy'.trans hx', fun he => pickTop_first (nonNan_pairwise hes) hx (by omega) hy (by omega) hyn⟩

end

/-- What an exact selection takes goes before what it leaves out (R158). -/
theorem PMode.before_of_mem_take (m : PMode) {es : List PElem} {k : Nat} (hes : es.Pairwise fun x y => x.idx < y.idx) {x y : PElem}
    (hx : x ∈ (m.sorted (nonNan es) ++ es.filter PElem.nan).take k) (hy : y ∈ es)
    (hyn : y ∉ (m.sorted (nonNan es) ++ es.filter PElem.nan).take k) : m.Before x y := by
  have horder := m.order_pairwise hes
  rw [← (m.order_perm es).mem_iff, ← List.take_append_drop k (m.sorted (nonNan es) ++ es.filter PElem.nan)] at hy
  rw [← List.take_append_drop k (m.sorted (nonNan es) ++ es.filter PElem.nan)] at horder
  exact (List.pairwise_append.mp horder).2.2 x hx y ((List.mem_append.mp hy).resolve_left hyn)

/-- Settles O20: an exact selection is the first k of all elements in their order, an approximate one picks by the bar. -/
theorem primroseSelects : Obligations.PrimroseSelects := by
  unfold Obligations.PrimroseSelects
  intro m es k hes
  cases h : m.exact with
  | true =>
    rw [PMode.select_exact h]
    have horder := m.order_perm es
    refine ⟨?_, fun e he => horder.mem_iff.mp (List.mem_of_mem_take he), fun _ => ⟨?_, fun x hx y hy hyn => ?_⟩, fun h => nomatch h⟩
    · rw [List.length_take, horder.length_eq]
    · exact (m.order_pairwise hes).sublist (List.take_sublist _ _)
    · obtain ⟨hnan, hkey, hidx⟩ := m.before_of_mem_take hes hx hy hyn
      refine ⟨fun hy' => ?_, fun hx' => hidx (hx'.trans (hnan hx').symm) (.inl hx')⟩
      have hx' : x.nan = false := Bool.eq_false_iff.mpr fun hx' => Bool.false_ne_true (hy'.symm.trans (hnan hx'))
      exact ⟨hx', hkey hx' hy'⟩
  | false =>
    rcases Nat.lt_or_ge (nonNan es).length k with hk | hk
    · have hperm := nonNan_append_nans_perm es
      rw [PMode.select_few h hk]
      refine ⟨?_, fun e he => hperm.mem_iff.mp (List.mem_of_mem_take he), fun h => absurd h Bool.false_ne_true,
        fun _ => ⟨fun hk' => ?_, fun _ => rfl⟩⟩
      · rw [List.length_take, hperm.length_eq]
      · exact absurd hk' hk.not_ge
    · obtain ⟨hsub, hspec⟩ := PMode.select_many_spec h hes hk
      have hsube := hsub.trans List.filter_sublist
      refine ⟨?_, fun e he => hsube.subset he, fun h => absurd h Bool.false_ne_true,
        fun _ => ⟨fun _ => ⟨hsube, fun e he => ?_, hspec⟩, fun hk' => ?_⟩⟩
      · rw [PMode.length_select_many h hes hk]
        exact (Nat.min_eq_left (hk.trans (length_nonNan_le es))).symm
      · exact nan_of_mem_nonNan (hsub.subset he)
      · exact absurd hk hk'.not_ge

end Sys2Proof.Machine
end

section
/-!
PROOFS. PRM_TOPK, PRM_MERGE, PRM_REFINE and PRM_SAMPLE (O21): R157–R161, R163, R164.
-/

namespace Sys2Proof.Machine

/-! ### Counters of Primrose -/

/-- Rows and NaNs are counted. -/
def State.countRows (s : State) (rows nans : Nat) : State :=
  if nans = 0 then s.bump Reg.prmRows rows else (s.bump Reg.prmRows rows).bump Reg.prmNan nans

section
variable {c : Cmd} {s : State}

theorem State.bumpRows_workFrame (n : Nat) : WorkFrame c s (s.bump Reg.prmRows n) :=
  .bump (show wrapReg _ = some Reg.prmCntWrap by decide) n

theorem State.countRows_workFrame (rows nans : Nat) : WorkFrame c s (s.countRows rows nans) := by
  unfold State.countRows
  split
  · exact State.bumpRows_workFrame rows
  · exact (State.bumpRows_workFrame rows).trans (.bump (show wrapReg _ = some Reg.prmCntWrap by decide) nans)

theorem State.bump_mem (s : State) (a n : Nat) : (s.bump a n).mem = s.mem := by rw [State.bump_fields]

theorem State.countRows_mem (rows nans : Nat) : (s.countRows rows nans).mem = s.mem := by
  unfold State.countRows
  split
  · exact State.bump_mem _ _ _
  · rw [State.bump_mem, State.bump_mem]

/-! ### PRM_TOPK -/

/-- The rows of a PRM_TOPK selected and stored. -/
def State.topkStored (s : State) (c : Cmd) : State :=
  (((List.range (c.n 36 2)).map (s.topkRow c)).zipIdx).foldl (fun (u : State) e =>
    u.store c.agent c.core c.cls3 (c.n 24 8 + e.2 * c.n 44 4) e.1.1 (s.regionsPoisoned c.agent c.topkRegions.1))
    (s.countRegions c.agent c.topkRegions.1)

theorem State.topkStored_workFrame : WorkFrame c s (s.topkStored c) :=
  (State.countRegions_workFrame c s _ _).trans (.foldl _ fun t _ => State.store_workFrame c t _ _ _ _)

theorem exec_prmTopk {id : Nat} (ext : Ext) (hw : s.working id 3 1 = some c) (hr : s.readable c.agent c.topkRegions.1 = .ok ()) :
    ∃ m n, exec (.prmTopk id ext) s = .next (((s.topkStored c).countRows m n).workDone c
      (doneOrPoisoned (s.regionsPoisoned c.agent c.topkRegions.1))
      (flagsResult ((((List.range (c.n 36 2)).map (s.topkRow c)).map fun e => e.2.1).foldl (· ||| ·) 0) 0)) := by
  show ∃ m n, execPrmTopk id ext s = _
  unfold execPrmTopk
  rw [hw]
  dsimp only
  rw [State.withReads_ok hr, poisonStatus_eq_doneOrPoisoned]
  exact ⟨_, _, rfl⟩

/-! ### PRM_MERGE and PRM_REFINE -/

/-- What PRM_MERGE makes of the lists it has read. -/
def Cmd.merged (c : Cmd) (ls : List (List Byte)) : List Byte × NFlags :=
  if c.bit 36 0 then mergeLists ls (c.n 48 4) else c.pmode.mergeRows true (ls.map (parseRow c.pmode.fmt)) (c.n 48 4)

/-- Where PRM_MERGE has read its lists. -/
def Cmd.listReads (c : Cmd) (ls : List (List Byte)) : List (Nat × Nat) := ls.zipIdx.map fun e => (c.n 16 8 + e.2 * c.n 40 4, e.1.length)

theorem flatMap_zipIdx_getD {α β : Type} {ns : List α} {ls : List β} (d : β) (h : ls.length = ns.length) :
    (ns.zipIdx.flatMap fun e => [ls.getD e.2 d]) = ls := by
  rw [← List.map_eq_flatMap]
  apply List.ext_getElem
  · simp [h]
  · intro i hi hl
    simp [hl]

theorem exec_prmMerge {id : Nat} (ext : Ext) {ns : List Nat} {ls : List (List Byte)} (hw : s.working id 3 2 = some c)
    (hns : s.listCounts c.agent c = .ok ns) (hlen : ls.length = ns.length)
    (hls : ∀ i < ns.length, s.load c.agent (c.n 16 8 + i * c.n 40 4) (listSize (c.bit 36 0) (ns.getD i 0)) = .ok (ls.getD i [])) :
    exec (.prmMerge id ext) s = .next ((((s.countRegions c.agent (c.listReads ls)).store c.agent c.core c.cls3 (c.n 24 8) (c.merged ls).1
      (s.regionsPoisoned c.agent (c.listReads ls))).bump Reg.prmRows 1).workDone c
        (doneOrPoisoned (s.regionsPoisoned c.agent (c.listReads ls))) (flagsResult (c.merged ls).2 0)) := by
  show execPrmMerge id ext s = _
  unfold execPrmMerge
  rw [hw]
  dsimp only
  rw [hns]
  dsimp only
  rw [foldl_append_ok (fun e => [ls.getD e.2 []]) fun y e he => ?_]
  · rw [flatMap_zipIdx_getD [] hlen, poisonStatus_eq_doneOrPoisoned]
    rfl
  · obtain ⟨n, i⟩ := e
    obtain ⟨hi, rfl⟩ := List.getElem?_eq_some_iff.mp (List.mk_mem_zipIdx_iff_getElem?.mp he)
    have hl := hls i hi
    rw [List.getD_eq_getElem _ _ hi] at hl
    dsimp only
    rw [hl]

/-- What PRM_REFINE makes of the row it has read. -/
def Cmd.refined (c : Cmd) (bs : List Byte) : List Byte × NFlags := c.pmode.mergeRows false [parseRow c.pmode.fmt bs] (c.n 48 4)

theorem exec_prmRefine {id : Nat} (ext : Ext) {h bs : List Byte} (hw : s.working id 3 3 = some c)
    (hh : s.load c.agent (c.n 16 8) 4 = .ok h) (hbs : s.load c.agent (c.n 16 8) (32 + 8 * leNat h) = .ok bs) :
    exec (.prmRefine id ext) s = .next ((((s.countRegion c.agent (c.n 16 8) bs.length).store c.agent c.core c.cls3 (c.n 24 8)
      (c.refined bs).1 (s.regionPoisoned c.agent (c.n 16 8) bs.length)).bump Reg.prmRows 1).workDone c
        (doneOrPoisoned (s.regionPoisoned c.agent (c.n 16 8) bs.length)) (flagsResult (c.refined bs).2 0)) := by
  show execPrmRefine id ext s = _
  unfold execPrmRefine
  rw [hw]
  dsimp only
  rw [hh]
  dsimp only
  rw [hbs]
  rfl

end

/-! ### PRM_SAMPLE (R164) -/

/-- The ranking of a greedy draw: the larger logit, the lower index. -/
def greedyMode : PMode := { fmt := 0, dir := false, exact := true, sum := 0, scale := 0 }

/-- The logits of a PRM_SAMPLE. -/
def Cmd.logits (c : Cmd) (bs : List Byte) : List PElem := elemsOf (c.n 54 1 % 16) (c.n 40 4) bs

/-- The tokens a PRM_SAMPLE may draw, its mask being mk. -/
def Cmd.allowed (c : Cmd) (bs mk : List Byte) : List PElem :=
  (c.logits bs).filter fun e => (c.n 24 8 = 0 || (mk.getD (e.idx / 8) 0).toNat.testBit (e.idx % 8)) && !e.nan

/-- The flags of reading the logits. -/
def Cmd.logitFlags (c : Cmd) (bs : List Byte) : NFlags := (c.logits bs).foldl (fun f e => f ||| readFlags (val32 e.w)) 0

section
variable {c : Cmd} {bs mk : List Byte}

theorem nan_of_mem_allowed {e : PElem} (h : e ∈ c.allowed bs mk) : e.nan = false := by
  simpa using (Bool.and_eq_true_iff.mp (List.mem_filter.mp h).2).2

theorem elemOf_idx (fmt i code : Nat) : (elemOf fmt i code).idx = i := by
  unfold elemOf
  split <;> rfl

theorem allowed_pairwise (c : Cmd) (bs mk : List Byte) : (c.allowed bs mk).Pairwise fun x y => x.idx < y.idx := by
  refine List.Pairwise.filter _ (List.pairwise_map.mpr ?_)
  simpa only [elemOf_idx] using List.pairwise_lt_range

/-- Without a mask every logit is allowed, whatever stands for its bits. -/
theorem Cmd.allowed_unmasked (h : c.n 24 8 = 0) (mk' : List Byte) : c.allowed bs mk = c.allowed bs mk' := by
  unfold Cmd.allowed
  simp only [h, decide_true, Bool.true_or]

/-- A greedy draw takes the lowest index of the largest logit. -/
theorem exists_greedy {l : List PElem} (hne : l ≠ []) (hnan : ∀ e ∈ l, e.nan = false) (hl : l.Pairwise fun x y => x.idx < y.idx) :
    ∃ e ∈ l, (∀ y ∈ l, greedyMode.key y.w ≤ greedyMode.key e.w ∧ (greedyMode.key y.w = greedyMode.key e.w → e.idx ≤ y.idx)) ∧
      l.find? (fun x => decide (greedyMode.key x.w = greedyMode.key ((greedyMode.xmax l).getD 0))) = some e := by
  have hkeys : nonNan l = l := List.filter_eq_self.mpr fun e he => by simp [hnan e he]
  have hperm : (greedyMode.sorted l).Perm l := greedyMode.sorted_perm l
  have hranked := greedyMode.sorted_ranked hl
  cases hsort : greedyMode.sorted l with
  | nil => exact absurd (hsort ▸ hperm).nil_eq.symm hne
  | cons x rest =>
    rw [hsort] at hperm hranked
    have hxm : (greedyMode.xmax l).getD 0 = x.w := by
      show ((((greedyMode.sorted (nonNan l)).head?).map PElem.w).getD 0) = x.w
      rw [hkeys, hsort]
      rfl
    have hbest : ∀ y ∈ l, greedyMode.key y.w ≤ greedyMode.key x.w := fun y hy => by
      rcases List.mem_cons.mp (hperm.mem_iff.mpr hy) with rfl | hy
      exacts [le_rfl, ((List.pairwise_cons.mp hranked).1 y hy).1]
    rw [hxm]
    have hfound : (l.find? fun y => decide (greedyMode.key y.w = greedyMode.key x.w)).isSome = true :=
      List.find?_isSome.mpr ⟨x, hperm.mem_iff.mp List.mem_cons_self, decide_eq_true rfl⟩
    obtain ⟨e, he⟩ := Option.isSome_iff_exists.mp hfound
    obtain ⟨hkey, as, bs, rfl, has⟩ := List.find?_eq_some_iff_append.mp he
    have hkey : greedyMode.key e.w = greedyMode.key x.w := of_decide_eq_true hkey
    refine ⟨e, by simp, fun y hy => ⟨hkey ▸ hbest y hy, fun hye => ?_⟩, he⟩
    rcases List.mem_append.mp hy with hy | hy
    · exact absurd (hye.trans hkey) (by simpa using has y hy)
    · rcases List.mem_cons.mp hy with rfl | hy
      · exact le_rfl
      · exact ((List.pairwise_cons.mp (List.pairwise_append.mp hl).2.1).1 y hy).le

end

section
variable (s : State) (c : Cmd) (bs : List Byte)

/-- The reads of a PRM_SAMPLE counted. -/
def State.sampled : State := (s.countRegions c.agent c.sampleReads).countRows 1 ((c.logits bs).filter PElem.nan).length

/-- A draw written: token, PROB, S_SEL, S_OUT. -/
def State.putDraw (bad : Bool) (tok : Nat) (p ss so : BitVec 32) : State :=
  s.store c.agent c.core c.cls3 (c.n 32 8) (toLE 4 tok ++ toLE 4 p.toNat ++ toLE 4 ss.toNat ++ toLE 4 so.toNat) bad

theorem State.sampled_workFrame : WorkFrame c s (s.sampled c bs) :=
  (State.countRegions_workFrame c s _ _).trans (State.countRows_workFrame _ _)

variable {s c bs} {mk : List Byte} {id : Nat} (ext : Ext)

/-- The free value a draw without a token takes is no part of what the work looks at. -/
theorem WorkFrame.setFree {t : State} (h : WorkFrame c s t) (n : Nat) : WorkFrame c { s with free := n } { t with free := n } := by
  obtain ⟨hf, hm, hc, hr⟩ := h
  refine ⟨?_, hm, hc, hr⟩
  rw [hf]

/-- A command whose work ends its run with n free values drawn. -/
theorem WorkFrame.exec_drawEnds {i : Instr} {n : Nat} {u : State} {status : Byte} {result : BitVec 32}
    (h : WorkFrame c { s with free := n } u) (hc : s.cmd c.id = some c) (hx : exec i s = .next (u.workDone c status result)) :
    ∃ t, exec i s = .next t ∧ EngineFrame { s with free := t.free } t c ∧ WorkEnds s t c status result ∧ t.mem = u.mem := by
  obtain ⟨hengine, hends⟩ := h.workDone hc status result
  have hfree : (u.workDone c status result).free = n := by rw [hengine.1]
  exact ⟨_, hx, hfree.symm ▸ hengine, hends, rfl⟩

/-- The token of a greedy draw. -/
def Cmd.greedyToken (c : Cmd) (bs mk : List Byte) : Nat :=
  match (c.allowed bs mk).find? (fun e => decide (greedyMode.key e.w = greedyMode.key ((greedyMode.xmax (c.allowed bs mk)).getD 0))) with
  | some e => e.idx
  | none => 0

/-- A PRM_SAMPLE ends with a draw, from the state u as far as it has come. -/
def State.drawDone (s : State) (c : Cmd) (bs : List Byte) (u : State) (tok : Nat) (p ss so : BitVec 32) (f : NFlags) : State :=
  (u.putDraw c (s.regionsPoisoned c.agent c.sampleReads) tok p ss so).workDone c
    (doneOrPoisoned (s.regionsPoisoned c.agent c.sampleReads)) (flagsResult (c.logitFlags bs ||| f) 0)

/-- The draw PRM_SAMPLE makes without GREEDY: token, PROB, S_SEL, S_OUT, flags. -/
def Cmd.picked (c : Cmd) (bs mk : List Byte) : Option Nat × BitVec 32 × BitVec 32 × BitVec 32 × NFlags :=
  samplePick (c.allowed bs mk) (c.f32 44) (c.f32 48) (c.n 52 2) (BitVec.ofNat 64 (c.n 56 8))

theorem Cmd.picked_unmasked (h : c.n 24 8 = 0) (mk' : List Byte) : c.picked bs mk = c.picked bs mk' := by
  unfold Cmd.picked
  rw [Cmd.allowed_unmasked h mk']

/-- PRM_SAMPLE, its logits and its mask read: no token allowed, a greedy draw, a draw that picks a token, and one that picks none and
takes free values for it and PROB (log entry 6). -/
theorem exec_prmSample (hw : s.working id 3 4 = some c)
    (hbs : s.load c.agent (c.n 16 8) (c.n 40 4 * primBytes (c.n 54 1 % 16)) = .ok bs)
    (hmk : (if c.n 24 8 = 0 then Except.ok [] else s.load c.agent (c.n 24 8) (ceilDiv (c.n 40 4) 8)) = .ok mk) :
    (c.allowed bs mk = [] → exec (.prmSample id ext) s = .next ((s.sampled c bs).workDone c
      (if s.regionsPoisoned c.agent c.sampleReads then 0xC0 else 0x4B) (flagsResult (c.logitFlags bs) 0))) ∧
    (c.allowed bs mk ≠ [] → c.bit 54 4 = true →
      exec (.prmSample id ext) s = .next (s.drawDone c bs (s.sampled c bs) (c.greedyToken bs mk) 0x3F800000 0 0 0)) ∧
    (∀ tok p ss so f, c.allowed bs mk ≠ [] → c.bit 54 4 = false → c.picked bs mk = (some tok, p, ss, so, f) →
      exec (.prmSample id ext) s = .next (s.drawDone c bs (s.sampled c bs) tok p ss so f)) ∧
    (∀ p ss so f, c.allowed bs mk ≠ [] → c.bit 54 4 = false → c.picked bs mk = (none, p, ss, so, f) →
      ∃ tok q, exec (.prmSample id ext) s = .next (s.drawDone c bs (s.sampled c bs).drawn tok q ss so f)) := by
  rw [show exec (.prmSample id ext) s = execPrmSample id ext s from rfl]
  unfold execPrmSample
  rw [hw]
  split
  · next h => exact nomatch h
  · next d h =>
    obtain rfl := Option.some.inj h
    extract_lets a fmt n mask
    rw [show s.load a (c.n 16 8) (n * primBytes fmt) = .ok bs from hbs, show mask = .ok mk from hmk]
    have nonempty {α : Type} {x y : α} (hne : c.allowed bs mk ≠ []) : (if (c.allowed bs mk).isEmpty then x else y) = y :=
      if_neg fun h => hne (List.isEmpty_iff.mp h)
    have drawing {α : Type} {x y : α} (hg : c.bit 54 4 = false) : (if c.bit 54 4 then x else y) = y := if_neg (hg ▸ Bool.false_ne_true)
    refine ⟨fun hall => if_pos (List.isEmpty_iff.mpr hall), fun hne hg => (nonempty hne).trans (if_pos hg),
      fun tok p ss so f hne hg hp => ?_, fun p ss so f hne hg hp => ?_⟩
    · refine (nonempty hne).trans ((drawing hg).trans ?_)
      generalize hq : samplePick _ _ _ _ _ = q
      obtain rfl := hp.symm.trans hq
      rfl
    · refine ⟨(Config.freeWord (s.sampled c bs).free).toNat % 2 ^ 32,
        BitVec.ofNat 32 ((Config.freeWord (s.sampled c bs).free).toNat / 2 ^ 32), (nonempty hne).trans ((drawing hg).trans ?_)⟩
      generalize hq : samplePick _ _ _ _ _ = q
      obtain rfl := hp.symm.trans hq
      rfl

/-- The draw written ends the command's run. -/
theorem exec_drawDone {i : Instr} {n tok : Nat} {u : State} {p ss so : BitVec 32} {f : NFlags} (hu : WorkFrame c { s with free := n } u)
    (hc : s.cmd c.id = some c) (hx : exec i s = .next (s.drawDone c bs u tok p ss so f)) :
    ∃ t, exec i s = .next t ∧ EngineFrame { s with free := t.free } t c ∧
      WorkEnds s t c (doneOrPoisoned (s.regionsPoisoned c.agent c.sampleReads)) (flagsResult (c.logitFlags bs ||| f) 0) ∧
      t.mem = (u.putDraw c (s.regionsPoisoned c.agent c.sampleReads) tok p ss so).mem :=
  (hu.trans (State.store_workFrame c u _ _ _ _)).exec_drawEnds hc hx

/-- The greedy draw's token is the lowest index of the largest allowed logit. -/
theorem Cmd.greedyToken_of_find {e : PElem} (he : (c.allowed bs mk).find? (fun x => decide (greedyMode.key x.w =
    greedyMode.key ((greedyMode.xmax (c.allowed bs mk)).getD 0))) = some e) : c.greedyToken bs mk = e.idx := by
  rw [Cmd.greedyToken, he]

/-- Where a PRM_SAMPLE whose logits and mask are read ends. -/
theorem prmSample_ends (hw : s.working id 3 4 = some c)
    (hbs : s.load c.agent (c.n 16 8) (c.n 40 4 * primBytes (c.n 54 1 % 16)) = .ok bs)
    (hmk : (if c.n 24 8 = 0 then Except.ok [] else s.load c.agent (c.n 24 8) (ceilDiv (c.n 40 4) 8)) = .ok mk) :
    let bad := s.regionsPoisoned c.agent c.sampleReads
    let draws := fun (t : State) (tok : Nat) (p ss so : BitVec 32) (f : NFlags) =>
      WorkEnds s t c (doneOrPoisoned bad) (flagsResult (c.logitFlags bs ||| f) 0) ∧
      t.mem = ((s.sampled c bs).putDraw c bad tok p ss so).mem
    ∃ t, exec (.prmSample id ext) s = .next t ∧ EngineFrame { s with free := t.free } t c ∧
      (c.allowed bs mk = [] → t.mem = (s.sampled c bs).mem ∧
        WorkEnds s t c (if bad then 0xC0 else 0x4B) (flagsResult (c.logitFlags bs) 0)) ∧
      (c.allowed bs mk ≠ [] → c.bit 54 4 = true → ∃ e ∈ c.allowed bs mk,
        (∀ y ∈ c.allowed bs mk, greedyMode.key y.w ≤ greedyMode.key e.w ∧ (greedyMode.key y.w = greedyMode.key e.w → e.idx ≤ y.idx)) ∧
        draws t e.idx 0x3F800000 0 0 0) ∧
      (∀ tok p ss so f, c.allowed bs mk ≠ [] → c.bit 54 4 = false → c.picked bs mk = (some tok, p, ss, so, f) →
        draws t tok p ss so f) := by
  obtain ⟨hnone, hgreedy, hpick, hfree⟩ := exec_prmSample ext hw hbs hmk
  have hc := State.cmd_of_working hw
  have hu : WorkFrame c { s with free := s.free } (s.sampled c bs) := State.sampled_workFrame s c bs
  by_cases hall : c.allowed bs mk = []
  · obtain ⟨t, hx, hframe, hends, hmem⟩ := hu.exec_drawEnds hc (hnone hall)
    exact ⟨t, hx, hframe, fun _ => ⟨hmem, hends⟩, fun hne => absurd hall hne, fun _ _ _ _ _ hne => absurd hall hne⟩
  · cases hg : c.bit 54 4 with
    | true =>
      obtain ⟨e, he, hbest, hfind⟩ := exists_greedy hall (fun _ => nan_of_mem_allowed) (allowed_pairwise c bs mk)
      obtain ⟨t, hx, hframe, hends, hmem⟩ := exec_drawDone hu hc (hgreedy hall hg)
      rw [Cmd.greedyToken_of_find hfind] at hmem
      exact ⟨t, hx, hframe, fun h => absurd h hall, fun _ _ => ⟨e, he, hbest, hends, hmem⟩, fun _ _ _ _ _ _ h => nomatch h⟩
    | false =>
      obtain ⟨⟨_ | tok, p, ss, so, f⟩, hp⟩ : ∃ x, c.picked bs mk = x := ⟨_, rfl⟩
      · obtain ⟨tok, q, hx⟩ := hfree p ss so f hall hg hp
        obtain ⟨t, hx, hframe, -⟩ := exec_drawDone (hu.setFree ((s.sampled c bs).free + 1)) hc hx
        exact ⟨t, hx, hframe, fun h => absurd h hall, fun _ h => (nomatch h), fun _ _ _ _ _ _ _ h => nomatch hp.symm.trans h⟩
      · obtain ⟨t, hx, hframe, hends, hmem⟩ := exec_drawDone hu hc (hpick _ p ss so f hall hg hp)
        refine ⟨t, hx, hframe, fun h => absurd h hall, fun _ h => (nomatch h), fun _ _ _ _ _ _ _ h => ?_⟩
        cases hp.symm.trans h
        exact ⟨hends, hmem⟩

end

/-! ### O21 -/

/-- Settles O21: each command's run is its reads, then its counters and its store, then its end; what a greedy draw takes is the head
of the ranking, and where a draw picks no token nothing is said of memory. -/
theorem primroseRowsAndSampling : Obligations.PrimroseRowsAndSampling := by
  unfold Obligations.PrimroseRowsAndSampling
  refine ⟨fun id ext c s => ⟨fun hw hr => ?_, fun ns ls hw hns hlen hls => ?_, fun h bs hw hh hbs => ?_⟩,
    fun id ext c s bs mk hw hbs hmk => ?_⟩
  · obtain ⟨rows, nans, hx⟩ := exec_prmTopk ext hw hr
    have hframe := State.topkStored_workFrame.trans (State.countRows_workFrame (c := c) (s := s.topkStored c) rows nans)
    obtain ⟨t, hx, hengine, hends, hmem⟩ := hframe.exec_ends (State.cmd_of_working hw) hx
    exact ⟨t, hx, hengine, hends, hmem.trans (State.countRows_mem _ _)⟩
  · have hframe := ((State.countRegions_workFrame c s c.agent (c.listReads ls)).trans (State.store_workFrame c _ c.cls3 (c.n 24 8)
      (c.merged ls).1 (s.regionsPoisoned c.agent (c.listReads ls)))).trans (State.bumpRows_workFrame 1)
    obtain ⟨t, hx, hengine, hends, hmem⟩ := hframe.exec_ends (State.cmd_of_working hw) (exec_prmMerge ext hw hns hlen hls)
    exact ⟨t, hx, hengine, hends, hmem.trans (State.bump_mem _ _ _)⟩
  · have hframe := ((State.countRegion_workFrame c s c.agent (c.n 16 8) bs.length).trans (State.store_workFrame c _ c.cls3 (c.n 24 8)
      (c.refined bs).1 (s.regionPoisoned c.agent (c.n 16 8) bs.length))).trans (State.bumpRows_workFrame 1)
    obtain ⟨t, hx, hengine, hends, hmem⟩ := hframe.exec_ends (State.cmd_of_working hw) (exec_prmRefine ext hw hh hbs)
    exact ⟨t, hx, hengine, hends, hmem.trans (State.bump_mem _ _ _)⟩
  · by_cases hmask : c.n 24 8 = 0
    · have hend := prmSample_ends ext (mk := []) hw hbs (if_pos hmask)
      rw [Cmd.allowed_unmasked hmask mk, Cmd.picked_unmasked hmask mk] at hend
      exact hend
    · exact prmSample_ends ext hw hbs ((if_neg hmask).trans (hmk hmask))

end Sys2Proof.Machine
end

section
/-!
PROOFS. CLM_WALK with more queries than its walks' keys tell apart (O17): query r of command i walks under key 256 i + r (R144), so query
256 of command 0 has the key of command 1's first walk. R140's start check refuses such a batch; the statement asks for no start.
-/

namespace Sys2Proof.Machine

/-! ### A walk with no leaf to scan -/

theorem WorkFrame.walks {c : Cmd} {s t : State} (h : WorkFrame c s t) : t.walks = s.walks := by rw [h.1]

theorem State.bump_walks (s : State) (a n : Nat) : (s.bump a n).walks = s.walks := by rw [State.bump_fields]

/-- The walk listed is taken up where it stands. -/
theorem State.walkOf_listed {s : State} {a : Agent} {c : Cmd} {h : IndexHdr} {r : Nat} {w : Walk}
    (hw : SMap.find s.walks (256 * c.id + r) = some w) : s.walkOf a c h r = .ok (w, []) := by
  rw [State.walkOf, hw]

/-- Without provisional lists nothing is scanned before the final list. -/
theorem State.provisionals_off {s : State} {a : Agent} {c : Cmd} {h : IndexHdr} {book : List (List (BitVec 32))} {r : Nat} {w : Walk}
    (hoff : c.n 40 8 = 0) (fuel : Nat) : s.provisionals a c h book r (fuel + 1) w = .ok (s, w) := by
  simp only [State.provisionals, State.provisional, hoff, decide_true, Bool.true_or, if_true]

section
variable {s : State} {c : Cmd} {h : IndexHdr} {book : List (List (BitVec 32))} {w : Walk}

theorem State.scanMore_leafless (hleaves : w.leaves = []) : s.scanMore c.agent h book c w.leaves.length w = .ok (w, []) := by
  rw [hleaves]
  rfl

/-- A listed walk that has no leaf to scan ends, and its key alone is freed. -/
theorem State.finishWalk_leafless (hoff : c.n 40 8 = 0) {r : Nat} (hw : SMap.find s.walks (256 * c.id + r) = some w)
    (hleaves : w.leaves = []) :
    ∃ t, s.finishWalk c.agent c h book r = .ok (t, w) ∧ t.walks = SMap.erase s.walks (256 * c.id + r) := by
  unfold State.finishWalk
  rw [State.walkOf_listed hw]
  dsimp only
  rw [State.provisionals_off hoff]
  dsimp only
  rw [State.scanMore_leafless hleaves]
  refine ⟨_, rfl, ?_⟩
  rw [State.bump_walks]
  exact congrArg (SMap.erase · _) ((State.store_workFrame c _ _ _ _ _).walks.trans (State.bump_walks _ _ _))

/-- The walks of the first n queries of a batch. -/
def State.walkFirst (s : State) (c : Cmd) (h : IndexHdr) (book : List (List (BitVec 32))) (n : Nat) : State × List Walk × Option MemFail :=
  (List.range n).foldl (fun (acc : State × List Walk × Option MemFail) r =>
    match acc.2.2 with
    | some _ => acc
    | none => match acc.1.finishWalk c.agent c h book r with
      | .error f => (acc.1, acc.2.1, some f)
      | .ok (u, w) => (u, acc.2.1 ++ [w], none)) (s, [], none)

theorem State.walkAll_eq_walkFirst : s.walkAll c.agent c h book = s.walkFirst c h book c.walkRows := rfl

theorem State.walkFirst_succ {n : Nat} {u v : State} {ws : List Walk} (hn : s.walkFirst c h book n = (u, ws, none))
    (hv : u.finishWalk c.agent c h book n = .ok (v, w)) : s.walkFirst c h book (n + 1) = (v, ws ++ [w], none) := by
  rw [State.walkFirst, List.range_succ, List.foldl_append]
  show List.foldl _ (s.walkFirst c h book n) [n] = _
  rw [hn, List.foldl_cons]
  dsimp only
  rw [hv]
  rfl

/-- Listed walks that have no leaf to scan end in order, each freeing its own key. -/
theorem State.walkFirst_leafless (hoff : c.n 40 8 = 0) (hleaves : w.leaves = []) (n : Nat)
    (hw : ∀ r < n, SMap.find s.walks (256 * c.id + r) = some w) :
    ∃ t ws, s.walkFirst c h book n = (t, ws, none) ∧ ∀ k, SMap.find t.walks k =
      if 256 * c.id ≤ k ∧ k < 256 * c.id + n then none else SMap.find s.walks k := by
  induction n with
  | zero => exact ⟨s, [], rfl, fun k => (if_neg (by omega)).symm⟩
  | succ n ih =>
    obtain ⟨u, ws, hu, hkeys⟩ := ih fun r hr => hw r (by omega)
    have hlisted : SMap.find u.walks (256 * c.id + n) = some w := by
      rw [hkeys, if_neg (by omega)]
      exact hw n (by omega)
    obtain ⟨v, hv, hwalks⟩ := State.finishWalk_leafless (h := h) (book := book) hoff hlisted hleaves
    refine ⟨v, _, State.walkFirst_succ hu hv, fun k => ?_⟩
    rw [hwalks, SMap.find_erase, hkeys]
    by_cases hk : k = 256 * c.id + n
    · rw [if_pos hk, if_pos (by omega)]
    · rw [if_neg hk]
      exact if_congr (by omega) rfl rfl

end

/-! ### CLM_WALK's end -/

theorem SMap.find_dropKeys_of_none {α : Type} {m : SMap α} {k : Nat} (h : SMap.find m k = none) (f : Nat → Bool) :
    SMap.find (SMap.dropKeys f m) k = none := by
  induction m with
  | nil => rfl
  | cons e m ih =>
    obtain ⟨a, v⟩ := e
    have hak : a ≠ k := fun hak => nomatch (if_pos hak).symm.trans h
    have hrest := ih ((if_neg hak).symm.trans h)
    unfold SMap.dropKeys at hrest ⊢
    rw [List.filter_cons]
    split
    · exact (if_neg hak).trans hrest
    · exact hrest

/-- What a CLM_WALK whose walks all end leaves listed. -/
theorem exec_clmWalk_walks {c : Cmd} {s u : State} {id : Nat} {ext : Ext} {h : IndexHdr} {book : List (List (BitVec 32))} {fb : NFlags}
    {ws : List Walk} (hw : s.working id 2 1 = some c) (hh : s.indexHdr c.agent (c.n 16 8) = .ok h)
    (hbook : s.codebook c.agent h = .ok (book, fb)) (hall : s.walkAll c.agent c h book = (u, ws, none)) :
    ∃ t, exec (.clmWalk id ext) s = .next t ∧ t.walks = SMap.dropKeys (fun k => decide (k / 256 = c.id)) u.walks := by
  show ∃ t, execClmWalk id ext s = _ ∧ _
  unfold execClmWalk
  rw [hw]
  dsimp only
  rw [hh]
  dsimp only
  rw [hbook]
  dsimp only
  rw [hall]
  refine ⟨_, rfl, ?_⟩
  have hcounted := (State.countRegions_workFrame c u c.agent [(c.n 16 8, 256), (h.codebook, 16 * h.d * ebits h.cbFmt / 8)]).trans
    (State.countRegions_workFrame c _ c.agent ((c.desc (c.n 24 8)).readRegion 0 c.walkRows))
  exact congrArg (SMap.dropKeys fun k => decide (k / 256 = c.id)) hcounted.walks

/-! ### The counterexample -/

/-- A walk without leaves. -/
def leaflessWalk : Walk :=
  { query := [], leaves := [], next := 0, best := [], updates := 0, qbad := false, nan := false, corrupt := false, bad := false, flags := 0 }

/-- A job whose page tables stand at the start of shared SRAM. -/
def pagedJob : Job := { faultQueueJob with root := sharedBase }

/-- Page tables under which virtual 0 is the first GiB of HBM. -/
def hbmTables : List Host.Cell :=
  Mem.setBytes (Mem.setBytes [] sharedBase (toLE 8 (sharedBase + 4097))) (sharedBase + 4096) (toLE 8 (hbmBase + 7))

/-- CLM_WALK as command 0, its operands 0: the descriptor at address 0 has 257 rows. -/
def crowdedWalk : Cmd :=
  { id := 0, cls := 2, inst := 0, core := 0, job := 1, group := 0, word := [1, 2] ++ zeros 62, phase := .started, since := 0, started := 0
    descs := [(0, zeros 16 ++ [1, 1] ++ zeros 14)], granted := true, suspended := false, session := 0, mayWrite := none, pool := [] }

/-- The keys 0 to 256 each list a walk: the first 256 of command 0, the last command 1's first. -/
def crowded : State :=
  { State.reset with
    start := { Start.reset with stage := 5 }
    jobs := [pagedJob]
    cores := [(0, { Core.idle with state := .running, job := 1 })]
    mem := hbmTables
    cmds := [crowdedWalk, { crowdedWalk with id := 1 }]
    walks := (List.range 257).map fun r => (r, leaflessWalk) }

theorem SMap.find_map_range {α : Type} (v : α) {k n : Nat} (h : k < n) : SMap.find ((List.range n).map fun r => (r, v)) k = some v := by
  have hmem : ∀ l : List Nat, k ∈ l → SMap.find (l.map fun r => (r, v)) k = some v := fun l hl => by
    induction l with
    | nil => cases hl
    | cons r l ih =>
      by_cases hr : r = k
      · exact if_pos hr
      · exact (if_neg hr).trans (ih ((List.mem_cons.mp hl).resolve_left (Ne.symm hr)))
  exact hmem _ (List.mem_range.mpr h)

theorem crowded_find {k : Nat} (h : k < 257) : SMap.find crowded.walks k = some leaflessWalk := SMap.find_map_range _ h

/-- Are the index header and the codebook of the walk read? -/
def crowdedRead : Bool :=
  match crowded.indexHdr crowdedWalk.agent (crowdedWalk.n 16 8) with
  | .ok h => Except.isOk (crowded.codebook crowdedWalk.agent h)
  | .error _ => false

theorem crowded_reads : ∃ h book fb, crowded.indexHdr crowdedWalk.agent (crowdedWalk.n 16 8) = .ok h ∧
    crowded.codebook crowdedWalk.agent h = .ok (book, fb) := by
  have hread : crowdedRead = true := by decide
  unfold crowdedRead at hread
  split at hread
  · next h hh =>
    cases hbook : crowded.codebook crowdedWalk.agent h with
    | ok r => exact ⟨h, r.1, r.2, hh, hbook⟩
    | error f =>
      rw [hbook] at hread
      cases hread
  · cases hread

/-- Refutes O17: nothing it assumes holds a walk command to R140's 256 queries. The 257th of `crowdedWalk` ends the walk of another command
that has its key, 256, which the statement says stays listed. -/
theorem not_clematisWalks : ¬ Obligations.ClematisWalks := by
  intro hwalks
  have hwork : crowded.working 0 2 1 = some crowdedWalk := by decide
  obtain ⟨h, book, fb, hh, hbook⟩ := crowded_reads
  obtain ⟨u, ws, hall, hkeys⟩ := State.walkFirst_leafless (s := crowded) (c := crowdedWalk) (h := h) (book := book) (w := leaflessWalk)
    (by decide) rfl 257 fun r hr => crowded_find (by rw [show crowdedWalk.id = 0 from rfl]; omega)
  have hrows : crowdedWalk.walkRows = 257 := by decide
  rw [← hrows, ← State.walkAll_eq_walkFirst] at hall
  obtain ⟨t, hx, hleft⟩ := exec_clmWalk_walks (ext := {}) hwork hh hbook hall
  obtain ⟨hends, -⟩ := hwalks 0 {} crowdedWalk crowded hwork
  obtain ⟨v, hv, -, -, -, hstay, -⟩ := hends h book fb u ws hh hbook hall
  obtain rfl := Host.Outcome.next.inj (hx.symm.trans hv)
  have hother : SMap.find t.walks 256 = some leaflessWalk := (hstay 256).trans ((if_neg (by decide)).trans (crowded_find (by decide)))
  have hgone : SMap.find u.walks 256 = none := (hkeys 256).trans (if_pos (by decide))
  rw [hleft, SMap.find_dropKeys_of_none hgone] at hother
  cases hother

end Sys2Proof.Machine
end

section
/-!
PROOFS. An accepted pack fits its budgets (O25): R189–R192.
-/

namespace Sys2Proof.Machine

/-! ### Sums -/

theorem sumNat_eq_sum (xs : List Nat) : sumNat xs = xs.sum := List.sum_eq_foldl.symm

/-- A sum over a list that at most one element makes is at most what bounds that element. -/
theorem sum_map_le_of_length_le_one {α : Type} {f : α → Nat} {l : List α} {n : Nat} (hl : l.length ≤ 1) (h : ∀ x, l = [x] → f x ≤ n) :
    (l.map f).sum ≤ n := by
  match l, hl with
  | [], _ => exact Nat.zero_le n
  | [x], _ => simpa using h x rfl

/-- A sum over elements of kinds 0 to 3, kind by kind. -/
theorem sum_map_by_kind {α : Type} {kind : α → Nat} {l : List α} (h : ∀ x ∈ l, kind x ≤ 3) (f : α → Nat) :
    (l.map f).sum = ((l.filter fun x => kind x = 0).map f).sum + ((l.filter fun x => kind x = 1).map f).sum +
      ((l.filter fun x => kind x = 2).map f).sum + ((l.filter fun x => kind x = 3).map f).sum := by
  induction l with
  | nil => rfl
  | cons x l ih =>
    obtain ⟨hx, hl⟩ := List.forall_mem_cons.mp h
    have hkind : kind x = 0 ∨ kind x = 1 ∨ kind x = 2 ∨ kind x = 3 := by omega
    rcases hkind with hk | hk | hk | hk <;>
      simp [hk, ih hl] <;> omega

/-! ### Trimming to the budget (R191) -/

section
variable {α : Type} {cost : α → Nat} {budget least total t : Nat} {xs ys : List α}

/-- What is dropped stands first, and the total goes down by its cost; where nothing must stay, the total then fits the budget or nothing
is left. -/
theorem dropWhileOver_spec (h : dropWhileOver cost budget least xs total = (ys, t)) :
    ys <:+ xs ∧ (∀ rest, total = rest + (xs.map cost).sum → t = rest + (ys.map cost).sum) ∧ (least = 0 → t ≤ budget ∨ ys = []) := by
  induction xs generalizing total with
  | nil =>
    obtain ⟨rfl, rfl⟩ := Prod.mk.inj h
    exact ⟨List.suffix_refl _, fun _ hr => hr, fun _ => .inr rfl⟩
  | cons x xs ih =>
    unfold dropWhileOver at h
    split at h
    · next hstop =>
      obtain ⟨rfl, rfl⟩ := Prod.mk.inj h
      exact ⟨List.suffix_refl _, fun _ hr => hr, fun hl => .inl (hstop.resolve_right (by omega))⟩
    · obtain ⟨hsuffix, htotal, hfits⟩ := ih h
      refine ⟨hsuffix.trans (List.suffix_cons x xs), fun rest hr => htotal rest ?_, hfits⟩
      rw [List.map_cons, List.sum_cons] at hr
      omega

end

/-- The tokens of the segments that trimming may drop. -/
def freeTokens (ms : List MemSeg) : Nat := ((ms.filter fun m => !m.pinned).map MemSeg.tokens).sum

/-- What passages cost, each with its separator. -/
def passageTokens (sep : Nat) (ps : List Picked) : Nat := (ps.map fun p => p.tokens + sep).sum

/-- Of segments no two alike, the unpinned ones kept are those that sorting and dropping left. -/
theorem freeTokens_kept {ms m1 : List MemSeg} {before : MemSeg → MemSeg → Bool} (hms : ms.Nodup)
    (h : m1 <:+ sortBy before (ms.filter fun m => !m.pinned)) :
    freeTokens (ms.filter fun m => m.pinned || m1.contains m) = (m1.map MemSeg.tokens).sum := by
  have hperm := sortBy_perm before (ms.filter fun m => !m.pinned)
  have hnodup : m1.Nodup := h.sublist.nodup (hperm.nodup_iff.mpr (hms.filter _))
  have hmem (m : MemSeg) (hm : m ∈ m1) : m ∈ ms ∧ m.pinned = false := by
    simpa using hperm.subset (h.subset hm)
  unfold freeTokens
  refine ((List.perm_ext_iff_of_nodup ((hms.filter _).filter _) hnodup).mpr fun m => ?_).map _ |>.sum_eq
  simp only [List.mem_filter, List.contains_iff_mem, Bool.or_eq_true, Bool.not_eq_true']
  constructor
  · rintro ⟨⟨-, hp | hm⟩, hn⟩
    · rw [hp] at hn
      cases hn
    · exact hm
  · exact fun hm => ⟨⟨(hmem m hm).1, .inr hm⟩, (hmem m hm).2⟩

/-- Trimming keeps passages in their order and every pinned segment, and what is kept fits the budget where the fixed units do. -/
theorem trim_spec {budget least sep fixed : Nat} {ps kept : List Picked} {ms mem : List MemSeg} (hms : ms.Nodup) (hfixed : fixed ≤ budget)
    (h : trim budget least sep fixed ps ms = (kept, mem)) : kept.Sublist ps ∧ mem.filter MemSeg.pinned = ms.filter MemSeg.pinned ∧
      fixed + passageTokens sep kept + freeTokens mem ≤ budget := by
  unfold trim at h
  extract_lets cost free total at h
  split at h
  next order _ p1 t1 h1 =>
  split at h
  next m1 t2 h2 =>
  split at h
  next p2 t3 h3 =>
  obtain ⟨rfl, rfl⟩ := Prod.mk.inj h
  obtain ⟨hs1, ht1, -⟩ := dropWhileOver_spec h1
  obtain ⟨hs2, ht2, hm1⟩ := dropWhileOver_spec h2
  obtain ⟨hs3, ht3, hp2⟩ := dropWhileOver_spec h3
  have hpassages (l : List Picked) : (l.reverse.map cost).sum = (l.map cost).sum := ((List.reverse_perm l).map _).sum_eq
  have horder : (order.map MemSeg.tokens).sum = freeTokens ms := ((sortBy_perm _ _).map _).sum_eq
  have htotal : total = fixed + freeTokens ms + (ps.reverse.map cost).sum := by
    have hfree : sumNat (free.map MemSeg.tokens) = freeTokens ms := sumNat_eq_sum _
    rw [hpassages, ← sumNat_eq_sum]
    omega
  have h1 := ht1 _ htotal
  have h2 := ht2 (fixed + (p1.map cost).sum) (by omega)
  have h3 := ht3 (fixed + (m1.map MemSeg.tokens).sum) (by omega)
  refine ⟨?_, ?_, ?_⟩
  · simpa using (hs3.trans hs1).sublist.reverse
  · rw [List.filter_filter]
    exact List.filter_congr fun m _ => by cases m.pinned <;> simp
  · rw [freeTokens_kept hms hs2]
    have hkept : passageTokens sep p2.reverse = (p2.map cost).sum := hpassages p2
    have hm1 := hm1 rfl
    have hp2 := hp2 rfl
    rw [hkept]
    rcases hp2 with hfits | rfl
    · omega
    · rw [List.map_nil, List.sum_nil]
      rcases hm1 with hfits | rfl
      · omega
      · exact hfixed

/-! ### The units of a plan (R189, R192) -/

/-- The tokens of the units of one template item. -/
def itemTokens (d : List Byte) (placed : List Picked) (ms : List MemSeg) (i : List Byte) : Nat :=
  match numAt i 0 1 with
  | 0 => numAt i 2 2
  | 1 => numAt d 72 2
  | 2 => (ms.map MemSeg.tokens).sum
  | _ => passageTokens (numAt i 2 2) placed

/-- The tokens that trimming leaves alone: fixed texts, the query, pinned segments. -/
def fixedTokens (d : List Byte) (items : List (List Byte)) (ms : List MemSeg) : Nat :=
  sumNat ((items.filter fun i => numAt i 0 1 = 0).map fun i => numAt i 2 2) +
    (if items.any (fun i => numAt i 0 1 = 1) then numAt d 72 2 else 0) + sumNat ((ms.filter MemSeg.pinned).map MemSeg.tokens)

/-- The tokens of the separator that stands before each passage. -/
def sepTokens (items : List (List Byte)) : Nat := sumNat ((items.filter fun i => numAt i 0 1 = 3).map fun i => numAt i 2 2)

/-- The units of a prompt, item by item. -/
def promptUnits (d : List Byte) (placed : List Picked) (ms : List MemSeg) (items : List (List Byte)) : List PackUnit :=
  (items.zipIdx.map fun e => itemUnits d placed ms e.2 e.1).flatten

section
variable (d : List Byte) (placed : List Picked) (ms : List MemSeg)

section
variable {i : List Byte}

theorem itemTokens_text (h : numAt i 0 1 = 0) : itemTokens d placed ms i = numAt i 2 2 := by simp only [itemTokens, h]

theorem itemTokens_query (h : numAt i 0 1 = 1) : itemTokens d placed ms i = numAt d 72 2 := by simp only [itemTokens, h]

theorem itemTokens_memory (h : numAt i 0 1 = 2) : itemTokens d placed ms i = (ms.map MemSeg.tokens).sum := by simp only [itemTokens, h]

theorem itemTokens_passages (h : numAt i 0 1 = 3) : itemTokens d placed ms i = passageTokens (numAt i 2 2) placed := by
  simp only [itemTokens, h]

end

theorem sum_itemUnits_tokens (k : Nat) (i : List Byte) :
    ((itemUnits d placed ms k i).map PackUnit.tokens).sum = itemTokens d placed ms i := by
  unfold itemUnits itemTokens
  generalize numAt i 0 1 = kind
  match kind with
  | 0 => rfl
  | 1 => rfl
  | 2 => exact congrArg List.sum List.map_map
  | _ + 3 => simp [List.map_flatten, List.sum_flatten, Function.comp_def, passageTokens, Nat.add_comm]

theorem sum_promptUnits_tokens (items : List (List Byte)) :
    ((promptUnits d placed ms items).map PackUnit.tokens).sum = (items.map (itemTokens d placed ms)).sum := by
  unfold promptUnits
  rw [List.map_flatten, List.sum_flatten, List.map_map, List.map_map]
  conv_rhs => rw [← List.zipIdx_map_fst 0 items, List.map_map]
  exact congrArg List.sum (List.map_congr_left fun e _ => sum_itemUnits_tokens d placed ms e.2 e.1)

theorem sum_tokens_eq_pinned_add_free : (ms.map MemSeg.tokens).sum = ((ms.filter MemSeg.pinned).map MemSeg.tokens).sum + freeTokens ms := by
  unfold freeTokens
  induction ms with
  | nil => rfl
  | cons m ms ih => cases h : m.pinned <;> simp [h, ih] <;> omega

variable {items : List (List Byte)}

theorem itemsValid_kinds (h : itemsValid items = true) : (∀ i ∈ items, numAt i 0 1 ≤ 3) ∧
    ∀ k ∈ [1, 2, 3], (items.filter fun i => numAt i 0 1 = k).length ≤ 1 := by
  unfold itemsValid at h
  rw [Bool.and_eq_true, List.all_eq_true, List.all_eq_true] at h
  exact ⟨fun i hi => of_decide_eq_true (Bool.and_eq_true_iff.mp (h.1 i hi)).1, fun k hk => of_decide_eq_true (h.2 k hk)⟩

/-- A valid template holds one query, one place of memory segments and one of passages at most (Table 7.8): its units make no more tokens
than trimming counts. -/
theorem promptUnits_tokens_le (h : itemsValid items = true) : ((promptUnits d placed ms items).map PackUnit.tokens).sum ≤
    fixedTokens d items ms + passageTokens (sepTokens items) placed + freeTokens ms := by
  obtain ⟨hkinds, honce⟩ := itemsValid_kinds h
  have hquery : ((items.filter fun i => numAt i 0 1 = 1).map (itemTokens d placed ms)).sum ≤
      if items.any (fun i => numAt i 0 1 = 1) then numAt d 72 2 else 0 := by
    refine sum_map_le_of_length_le_one (honce 1 (by simp)) fun i hi => ?_
    obtain ⟨hmem, hkind⟩ := List.mem_filter.mp (hi ▸ List.mem_singleton_self i : i ∈ items.filter fun i => numAt i 0 1 = 1)
    rw [if_pos (List.any_eq_true.mpr ⟨i, hmem, hkind⟩), itemTokens_query d placed ms (of_decide_eq_true hkind)]
  have hmemory : ((items.filter fun i => numAt i 0 1 = 2).map (itemTokens d placed ms)).sum ≤ (ms.map MemSeg.tokens).sum := by
    refine sum_map_le_of_length_le_one (honce 2 (by simp)) fun i hi => ?_
    obtain ⟨-, hkind⟩ := List.mem_filter.mp (hi ▸ List.mem_singleton_self i : i ∈ items.filter fun i => numAt i 0 1 = 2)
    rw [itemTokens_memory d placed ms (of_decide_eq_true hkind)]
  have hpassages : ((items.filter fun i => numAt i 0 1 = 3).map (itemTokens d placed ms)).sum ≤ passageTokens (sepTokens items) placed := by
    refine sum_map_le_of_length_le_one (honce 3 (by simp)) fun i hi => ?_
    obtain ⟨-, hkind⟩ := List.mem_filter.mp (hi ▸ List.mem_singleton_self i : i ∈ items.filter fun i => numAt i 0 1 = 3)
    rw [itemTokens_passages d placed ms (of_decide_eq_true hkind), sepTokens, hi]
    exact le_of_eq (congrArg (passageTokens · placed) (Nat.zero_add _).symm)
  have hfixed : ((items.filter fun i => numAt i 0 1 = 0).map (itemTokens d placed ms)).sum =
      sumNat ((items.filter fun i => numAt i 0 1 = 0).map fun i => numAt i 2 2) := by
    rw [sumNat_eq_sum]
    exact congrArg List.sum (List.map_congr_left fun i hi => itemTokens_text d placed ms (of_decide_eq_true (List.mem_filter.mp hi).2))
  rw [sum_promptUnits_tokens, sum_map_by_kind hkinds, hfixed]
  rw [sum_tokens_eq_pinned_add_free] at hmemory
  unfold fixedTokens
  rw [sumNat_eq_sum ((ms.filter MemSeg.pinned).map MemSeg.tokens)]
  omega

end

/-! ### Duplicates (R190) -/

/-- No passage is kept twice. -/
theorem dedupe_pairwise (byHash : Bool) (ps : List Picked) : (dedupe byHash ps).Pairwise fun x y => x.id ≠ y.id := by
  unfold dedupe
  refine List.foldlRecOn (motive := fun acc : List Picked => acc.Pairwise fun x y => x.id ≠ y.id) _ _ .nil fun acc hacc p _ => ?_
  split
  · exact hacc
  · next hnew =>
    refine List.pairwise_append.mpr ⟨hacc, List.pairwise_singleton _ _, fun q hq r hr he => hnew (List.any_eq_true.mpr ⟨q, hq, ?_⟩)⟩
    rw [List.mem_singleton.mp hr] at he
    unfold samePassage
    rw [decide_eq_true he.symm, Bool.true_or]

/-! ### The plan -/

/-- Elements with their numbers are no two alike. -/
theorem numbered_nodup {α : Type} (l : List α) : (l.zipIdx.map fun e => (e.2, e.1)).Nodup := by
  refine List.Nodup.of_map Prod.fst ?_
  rw [List.map_map]
  exact (List.zipIdx_map_snd 0 l).symm ▸ List.nodup_range'

/-- The passages of a plan before trimming, best first. -/
def rankedPassages (d : List Byte) (items : List (List Byte)) (picked : List Picked) : List Picked :=
  if items.any (fun i => numAt i 0 1 = 3) then sortBy rankBefore (dedupe ((numAt d 87 1).testBit 1) picked) else []

/-- The memory segments of a plan before trimming. -/
def shownSegments (items : List (List Byte)) (segs : List MemSeg) : List MemSeg :=
  if items.any (fun i => numAt i 0 1 = 2) then segs else []

/-- What trimming leaves of the passages and the memory segments. -/
def trimmed (d : List Byte) (items : List (List Byte)) (segs : List MemSeg) (picked : List Picked) : List Picked × List MemSeg :=
  trim (numAt d 80 4) (numAt d 84 2) (sepTokens items) (fixedTokens d items (shownSegments items segs)) (rankedPassages d items picked)
    (shownSegments items segs)

/-- The plan with the template, the segments and the passages read, or what refuses it. -/
def planOf (d : List Byte) (items : List (List Byte)) (segs : List MemSeg) (picked : List Picked) : Except MemFail PackPlan :=
  let left := trimmed d items segs picked
  let units := promptUnits d (if (numAt d 87 1).testBit 0 then left.1.reverse else left.1) left.2 items
  if numAt d 80 4 < fixedTokens d items (shownSegments items segs) then packFail 0x5B
  else if decide (numAt d 64 4 < sumNat (units.map PackUnit.bytes)) || decide (numAt d 68 2 < units.length) then packFail 0x5D
  else .ok { kept := left.1, units := units, droppedPassages := (rankedPassages d items picked).length - left.1.length
             droppedMemory := (shownSegments items segs).length - left.2.length
             duplicates := picked.length - (dedupe ((numAt d 87 1).testBit 1) picked).length }

/-- An accepted plan is the plan of a valid template and of segments no two alike. -/
theorem State.packPlan_ok {s : State} {a : Agent} {d : List Byte} {p : PackPlan} (h : s.packPlan a d = .ok p) :
    ∃ items segs picked, itemsValid items = true ∧ segs.Nodup ∧ planOf d items segs picked = .ok p := by
  unfold State.packPlan at h
  split at h
  · exact nomatch h
  split at h
  · exact nomatch h
  split at h
  · exact nomatch h
  split at h
  · exact nomatch h
  dsimp only at h
  split at h
  · exact nomatch h
  split at h
  · exact nomatch h
  next hitems =>
  split at h
  · exact nomatch h
  split at h
  · exact nomatch h
  split at h
  · exact nomatch h
  exact ⟨_, _, _, Bool.not_eq_eq_eq_not.mp (Bool.or_eq_false_iff.mp (Bool.eq_false_iff.mpr hitems)).1, numbered_nodup _, h⟩

/-- The units of a plan fit its budgets, and no passage is kept twice. -/
theorem planOf_fits {d : List Byte} {items : List (List Byte)} {segs : List MemSeg} {picked : List Picked} {p : PackPlan}
    (hitems : itemsValid items = true) (hsegs : segs.Nodup) (h : planOf d items segs picked = .ok p) :
    sumNat (p.units.map PackUnit.tokens) ≤ numAt d 80 4 ∧ sumNat (p.units.map PackUnit.bytes) ≤ numAt d 64 4 ∧
      p.units.length ≤ numAt d 68 2 ∧ p.kept.Pairwise (fun x y => x.id ≠ y.id) := by
  unfold planOf at h
  extract_lets left units at h
  split at h
  · exact nomatch h
  next hfixed =>
  split at h
  · exact nomatch h
  next hsize =>
  obtain rfl := Except.ok.inj h
  obtain ⟨hbytes, hlength⟩ := Bool.or_eq_false_iff.mp (Bool.eq_false_iff.mpr hsize)
  have hshown : (shownSegments items segs).Nodup := by
    unfold shownSegments
    split
    exacts [hsegs, .nil]
  have hranked : (rankedPassages d items picked).Pairwise fun x y => x.id ≠ y.id := by
    unfold rankedPassages
    split
    · exact (sortBy_perm rankBefore _).symm.pairwise (dedupe_pairwise _ _) Ne.symm
    · exact .nil
  obtain ⟨hkept, hpinned, hfits⟩ := trim_spec (kept := left.1) (mem := left.2) hshown (Nat.le_of_not_lt hfixed) rfl
  refine ⟨?_, Nat.le_of_not_lt (of_decide_eq_false hbytes), Nat.le_of_not_lt (of_decide_eq_false hlength), hranked.sublist hkept⟩
  have htokens := promptUnits_tokens_le d (if (numAt d 87 1).testBit 0 then left.1.reverse else left.1) left.2 hitems
  have hcost : passageTokens (sepTokens items) (if (numAt d 87 1).testBit 0 then left.1.reverse else left.1) =
      passageTokens (sepTokens items) left.1 := by
    split
    exacts [((List.reverse_perm _).map _).sum_eq, rfl]
  have hsame : fixedTokens d items left.2 = fixedTokens d items (shownSegments items segs) := by
    unfold fixedTokens
    rw [hpinned]
  rw [hcost, hsame] at htokens
  rw [sumNat_eq_sum]
  exact htokens.trans hfits

/-- Settles O25: trimming counts what the units hold, and passages are placed that no duplicate stood beside. -/
theorem packsFitTheirBudget : Obligations.PacksFitTheirBudget := by
  unfold Obligations.PacksFitTheirBudget
  intro s a d p h
  obtain ⟨items, segs, picked, hitems, hsegs, hplan⟩ := State.packPlan_ok h
  exact planOf_fits hitems hsegs hplan

end Sys2Proof.Machine
end

section
/-!
SUPPORT. What an engine reads has the length asked for (R243, R247).
-/

namespace Sys2Proof.Machine

theorem pagePieces_zero (fuel va : Nat) : pagePieces fuel va 0 = [] := by cases fuel <;> rfl

/-- The pieces of a region, page by page, make up its length. -/
theorem sum_pagePieces {fuel va n : Nat} (h : n + va % 4096 ≤ fuel * 4096) : ((pagePieces fuel va n).map Prod.snd).sum = n := by
  induction fuel generalizing va n with
  | zero =>
    obtain rfl : n = 0 := by omega
    rfl
  | succ fuel ih =>
    unfold pagePieces
    split
    · next hn => rw [hn]; rfl
    · rw [show n.min (4096 - va % 4096) = if n ≤ 4096 - va % 4096 then n else 4096 - va % 4096 from Nat.min_def]
      dsimp only
      rw [List.map_cons, List.sum_cons]
      split
      · rw [Nat.sub_self, pagePieces_zero]
        rfl
      · rw [ih (by omega)]
        omega

/-- A loop that stops at the first failure and adds f of each element to a measure of its result. -/
theorem foldl_ok_sum {α β ε : Type} {g : Except ε β → α → Except ε β} {m : β → Nat} {f : α → Nat} {l : List α} {r : Except ε β} {y : β}
    (hg : ∀ r x y, g r x = .ok y → ∃ z, r = .ok z ∧ m y = m z + f x) (h : l.foldl g r = .ok y) :
    ∃ z, r = .ok z ∧ m y = m z + (l.map f).sum := by
  induction l generalizing r with
  | nil => exact ⟨y, h, rfl⟩
  | cons x l ih =>
    obtain ⟨z, hz, hy⟩ := ih h
    obtain ⟨w, hw, hzw⟩ := hg r x z hz
    refine ⟨w, hw, ?_⟩
    rw [List.map_cons, List.sum_cons]
    omega

section
variable {s : State} {a : Agent} {va n : Nat} {bs : List Byte}

/-- The physical pieces of a region make up its length. -/
theorem State.sum_pieces {write : Bool} {ps : List (Nat × Nat)} (h : s.pieces a va n write = .ok ps) : (ps.map Prod.snd).sum = n := by
  obtain ⟨z, hz, hsum⟩ := foldl_ok_sum (m := fun ps : List (Nat × Nat) => (ps.map Prod.snd).sum) (f := Prod.snd) (fun r e ps hps => by
    split at hps
    · exact nomatch hps
    next qs =>
    have hadd (pa : Nat) : ((qs ++ [(pa, e.2)]).map Prod.snd).sum = (qs.map Prod.snd).sum + e.2 := by simp
    refine ⟨qs, rfl, ?_⟩
    split at hps
    · exact nomatch hps
    split at hps
    · exact nomatch hps
    split at hps
    · exact nomatch hps
    split at hps
    · split at hps
      · exact nomatch hps
      · exact Except.ok.inj hps ▸ hadd _
    · exact Except.ok.inj hps ▸ hadd _) h
  obtain rfl := Except.ok.inj hz
  rw [hsum, sum_pagePieces (by omega)]
  exact Nat.zero_add n

theorem State.length_poolRead {pa : Nat} (h : s.poolRead a pa n = .ok bs) : bs.length = n := by
  unfold State.poolRead at h
  split at h
  · exact nomatch h
  · rw [← Except.ok.inj h]
    simp [State.bytes]
  · rw [List.foldr_eq_foldl_reverse] at h
    obtain ⟨z, hz, hsum⟩ := foldl_ok_sum (m := List.length) (f := fun _ => 1) (fun r i bs hbs => by
      split at hbs
      · exact nomatch hbs
      · exact nomatch hbs
      · exact nomatch hbs
      next cs b _ =>
      exact ⟨cs, rfl, congrArg List.length (Except.ok.inj hbs).symm⟩) h
    rw [hsum, ← Except.ok.inj hz]
    simp

theorem State.length_readPiece {pa : Nat} (h : s.readPiece a pa n = .ok bs) : bs.length = n := by
  unfold State.readPiece at h
  split at h
  case h_2 => exact State.length_poolRead h
  all_goals
    rw [← Except.ok.inj h]
    simp [State.flashRead, zeros, State.seen]

theorem State.length_load (h : s.load a va n = .ok bs) : bs.length = n := by
  unfold State.load at h
  split at h
  · exact nomatch h
  next ps hps =>
  split at h
  · exact nomatch h
  obtain ⟨z, hz, hsum⟩ := foldl_ok_sum (m := List.length) (f := Prod.snd) (fun r e bs hbs => by
    split at hbs
    · exact nomatch hbs
    next cs =>
    split at hbs
    · exact nomatch hbs
    next b hb =>
    refine ⟨cs, rfl, ?_⟩
    rw [← Except.ok.inj hbs, List.length_append, State.length_readPiece hb]) h
  rw [hsum, State.sum_pieces hps, ← Except.ok.inj hz]
  exact Nat.zero_add n

end

end Sys2Proof.Machine
end

section
/-!
SUPPORT. Registers that neither counts nor the flash health log reach: what partition groups and speculation are set to.
-/

namespace Sys2Proof.Machine

/-! ### Registers that no counter counts in -/

/-- Do the counters of row d have their WRAPPED bits elsewhere than at address b? -/
def RegDesc.wrapsApart (b : Nat) (d : RegDesc) : Bool :=
  match d.wrap with
  | none => true
  | some w => decide (b < w.base) || decide (w.base + w.s1 * d.n1 + 4 * ((w.bit + w.b1 * d.n1 + w.b2 * d.n2) / 32) < b)

/-- A register without a WRAPPED bit, apart from where those of all counters stand, is no counter's. -/
theorem not_counterReg {b : Nat} (hb : wrapReg b = none) (h : ∀ w < 19, ∀ d ∈ windowRegs w, d.wrapsApart b = true) : ¬ CounterReg b := by
  rintro ⟨a, r, w, hr, hw, rfl | he⟩
  · unfold wrapReg at hb
    rw [hr, Option.bind_some, hw] at hb
    cases hb
  · unfold regAt at hr
    split at hr
    · exact absurd (regsFunction_wrap _ (findRow_spec hr).1) (by rw [hw]; exact Option.some_ne_none w)
    · obtain ⟨hmem, hi, hj⟩ := findRow_spec hr
      have hwin : a / 0x100000 < 19 := by
        by_contra hge
        rw [windowRegs_of_ge (Nat.not_lt.mp hge)] at hmem
        cases hmem
      have hapart := h _ hwin _ hmem
      rw [RegDesc.wrapsApart, hw, Bool.or_eq_true, decide_eq_true_iff, decide_eq_true_iff] at hapart
      have h1 := Nat.mul_le_mul_left w.s1 hi
      have h2 := Nat.mul_le_mul_left w.b1 hi
      have h3 := Nat.mul_le_mul_left w.b2 hj
      rcases hapart with hlt | hlt
      · omega
      · omega

theorem not_counterReg_hubPgroup : ¬ CounterReg Reg.hubPgroup := not_counterReg (by decide) (by decide)

theorem not_counterReg_hubSpecDisable : ¬ CounterReg Reg.hubSpecDisable := not_counterReg (by decide) (by decide)

/-- From s to t every register below the DBG_ window keeps its value but the counters and the pointers of the flash health log. -/
def KeepsSettings (s t : State) : Prop :=
  ∀ a, a < 0x1100000 → ¬ CounterReg a → a ≠ Reg.hlyHealthWr → a ≠ Reg.hlyHealthLost → t.reg a = s.reg a

section
variable {s t u : State}

theorem KeepsSettings.of_eff (h : t.eff = s.eff) : KeepsSettings s t := fun _ _ _ _ _ => State.reg_congr h _

theorem KeepsSettings.trans (h : KeepsSettings s t) (hu : KeepsSettings t u) : KeepsSettings s u :=
  fun a ha hn hw hl => (hu a ha hn hw hl).trans (h a ha hn hw hl)

theorem KeepsSettings.foldl {β : Type} {g : State → β → State} (l : List β) (hg : ∀ t x, KeepsSettings t (g t x)) :
    KeepsSettings s (l.foldl g s) :=
  List.foldlRecOn (motive := KeepsSettings s) l g (.of_eff rfl) fun t ht x _ => ht.trans (hg t x)

theorem KeepsSettings.bump {a : Nat} (n : Nat) (h : CounterReg a ∨ 0x1100000 ≤ a) : KeepsSettings s (s.bump a n) := fun b hb hn _ _ => by
  refine State.reg_bump_of_not_counterReg a n hn fun hba => ?_
  rcases h with h | h
  · exact hn (hba ▸ h)
  · omega

theorem KeepsSettings.groupOfCore (h : KeepsSettings s t) (n : CoreId) : t.groupOfCore n = s.groupOfCore n := by
  unfold State.groupOfCore State.groupOf State.groupSize State.regFld
  rw [h _ (by decide) not_counterReg_hubPgroup (by decide) (by decide)]

theorem KeepsSettings.specOff (h : KeepsSettings s t) (src : Nat) : t.specOff src = s.specOff src := by
  unfold State.specOff
  rw [h _ (by decide) not_counterReg_hubSpecDisable (by decide) (by decide)]

end

/-! ### What keeps them -/

section
variable (s : State)

theorem counterReg_hubSquash {src : Nat} (h : src < 4) : CounterReg (Reg.hubSquash src) := by
  have hall : ∀ i : Fin 4, wrapReg (Reg.hubSquash i) = some Reg.hubSpecWrap := by decide
  exact (counterReg_of_wrapReg (hall ⟨src, h⟩)).1

theorem counterReg_mgdSpecErr : CounterReg Reg.mgdSpecErr := (counterReg_of_wrapReg (c := Reg.mgdCntWrap) (by decide)).1

theorem le_dbgPartCnt (g k : Nat) : 0x1100000 ≤ Reg.dbgPartCnt g k := by
  unfold Reg.dbgPartCnt
  omega

theorem State.squash_keepsSettings {src : Nat} (h : src < 4) (g n : Nat) : KeepsSettings s (s.squash src g n) := by
  unfold State.squash
  split
  · exact .of_eff rfl
  · exact (KeepsSettings.bump n (.inl (counterReg_hubSquash h))).trans (.bump n (.inr (le_dbgPartCnt _ _)))

theorem State.lineSquashed_keepsSettings (l : AheadLine) : KeepsSettings s (s.lineSquashed l) := by
  unfold State.lineSquashed
  dsimp only
  split
  · exact (s.squash_keepsSettings (by decide) _ _).trans (.bump _ (.inl counterReg_mgdSpecErr))
  · exact s.squash_keepsSettings (by decide) _ _

theorem State.dropLines_keepsSettings (pa n : Nat) : KeepsSettings s (s.dropLines pa n) := by
  unfold State.dropLines
  rw [State.evict_eq]
  exact .trans (.of_eff rfl) (.foldl _ State.lineSquashed_keepsSettings)

theorem State.markWrite_keepsSettings (pa n : Nat) (bad : Bool) : KeepsSettings s (s.markWrite pa n bad) := by
  refine .foldl _ fun t u => ?_
  split
  · exact .of_eff rfl
  · split <;> exact .of_eff rfl

theorem State.claim_keepsSettings (job : BitVec 16) (u : Nat) : KeepsSettings s (s.claim job u) := by
  unfold State.claim
  split <;> exact .of_eff rfl

theorem State.ramWrite_keepsSettings (job : BitVec 16) (pa : Nat) (bs : List Byte) (bad : Bool) :
    KeepsSettings s (s.ramWrite job pa bs bad) := by
  unfold State.ramWrite
  refine .trans ?_ (.trans (.of_eff (State.putBytes_eff _ _ _)) ((State.markWrite_keepsSettings _ _ _ _).trans (State.dropLines_keepsSettings _ _ _)))
  split
  · exact .foldl _ fun t u => t.claim_keepsSettings job u
  · exact .of_eff rfl

theorem State.health_keepsSettings (code die : Byte) (block arg : Nat) : KeepsSettings s (s.health code die block arg) := by
  unfold State.health
  dsimp only
  split
  · exact fun a _ _ _ hl => State.reg_setRegFld_other _ _ _ _ hl
  · exact (State.ramWrite_keepsSettings s _ _ _ _).trans fun a _ _ hw _ => State.reg_setReg_other _ _ hw

theorem State.readBlock_keepsSettings (k : Nat) : KeepsSettings s (s.readBlock k) := by
  have hset (e : SMap EraseBlock) : KeepsSettings s { s with erase := e } := .of_eff rfl
  unfold State.readBlock
  dsimp only
  split
  · exact (hset _).trans (State.health_keepsSettings _ _ _ _ _)
  · exact hset _

theorem State.countFlashReads_keepsSettings (bs : List Nat) : KeepsSettings s (s.countFlashReads bs) := by
  have hreads : CounterReg Reg.hlyReads := (counterReg_of_wrapReg (c := Reg.hlyCntWrap) (by decide)).1
  have hoor : CounterReg Reg.hlyOorReads := (counterReg_of_wrapReg (c := Reg.hlyCntWrap) (by decide)).1
  refine .foldl _ fun t b => ?_
  unfold State.countFlashRead
  split
  · exact .bump _ (.inl hoor)
  · split
    · exact (KeepsSettings.bump _ (.inl hreads)).trans (State.readBlock_keepsSettings _ _)
    · exact .of_eff rfl

end

end Sys2Proof.Machine
end

section
/-!
PROOFS. BQT_FETCH and BQT_PACK (O24): R42–R45, R188, R192.
-/

namespace Sys2Proof.Machine

/-- What the work of a Bouquet command may change before it ends: what other work may, and the shadow passage buffers. -/
def PassageFrame (c : Cmd) (s t : State) : Prop := WorkFrame c { s with passages := t.passages } t

section
variable {c : Cmd} {s t u : State}

/-- The shadow passage buffers are no part of what the work looks at. -/
theorem WorkFrame.setPassages (h : WorkFrame c s t) (ps : List Passage) : WorkFrame c { s with passages := ps } { t with passages := ps } := by
  obtain ⟨hf, hm, hc, hr⟩ := h
  refine ⟨?_, hm, hc, hr⟩
  rw [hf]

theorem WorkFrame.passages (h : WorkFrame c s t) : t.passages = s.passages := by rw [h.1]

theorem WorkFrame.passageFrame (h : WorkFrame c s t) : PassageFrame c s t := by
  unfold PassageFrame
  rwa [h.passages]

theorem PassageFrame.refl : PassageFrame c s s := WorkFrame.refl

theorem PassageFrame.of_passages (ps : List Passage) : PassageFrame c s { s with passages := ps } := WorkFrame.refl

theorem PassageFrame.trans (h : PassageFrame c s t) (hu : PassageFrame c t u) : PassageFrame c s u :=
  (h.setPassages u.passages).trans hu

theorem PassageFrame.bump {a : Nat} (n : Nat) (h : CounterReg a ∨ 0x1100000 ≤ a) : PassageFrame c s (s.bump a n) :=
  (WriteFrame.bump n h).workFrame.passageFrame

/-- The command whose work is done: the frame, its status and RESULT, and what it leaves. -/
theorem PassageFrame.exec_ends {i : Instr} {status : Byte} {result : BitVec 32} (h : PassageFrame c s u) (hc : s.cmd c.id = some c)
    (hx : exec i s = .next (u.workDone c status result)) : ∃ t, exec i s = .next t ∧ EngineFrame { s with passages := t.passages } t c ∧
      WorkEnds s t c status result ∧ t.mem = u.mem ∧ t.passages = u.passages ∧ ∀ g, t.shadowBytes g = u.shadowBytes g :=
  have hends := WorkFrame.workDone (s := { s with passages := u.passages }) h hc status result
  ⟨_, hx, hends.1, hends.2, rfl, rfl, fun _ => rfl⟩

end

/-! ### Squashed and validated passages (R42, R43) -/

/-- What the squash of one passage counts. -/
def State.passageSquashed (t : State) (p : Passage) : State :=
  let u := t.squash 3 p.group 1
  if p.bad then u.bump Reg.mgdSpecErr 1 else u

section
variable {c : Cmd} (s : State) (f : Passage → Bool)

theorem State.squashPassages_eq : s.squashPassages f =
    (s.passages.filter f).foldl State.passageSquashed { s with passages := s.passages.filter fun p => !(f p) } := rfl

theorem State.passageSquashed_fields (p : Passage) : RegsOnly s (s.passageSquashed p) := by
  unfold State.passageSquashed
  dsimp only
  split
  · exact (State.squash_fields s _ _ _).bump _ _
  · exact State.squash_fields s _ _ _

theorem State.passageSquashed_keepsSettings (p : Passage) : KeepsSettings s (s.passageSquashed p) := by
  unfold State.passageSquashed
  dsimp only
  split
  · exact (s.squash_keepsSettings (by decide) _ _).trans (.bump _ (.inl counterReg_mgdSpecErr))
  · exact s.squash_keepsSettings (by decide) _ _

theorem State.passageSquashed_frame (p : Passage) : PassageFrame c s (s.passageSquashed p) := by
  have hsquash : PassageFrame c s (s.squash 3 p.group 1) :=
    (PassageFrame.bump 1 (.inl (counterReg_hubSquash (by decide)))).trans (.bump 1 (.inr (le_dbgPartCnt _ _)))
  unfold State.passageSquashed
  dsimp only
  split
  · exact hsquash.trans (.bump _ (.inl counterReg_mgdSpecErr))
  · exact hsquash

/-- The squashed passages leave the buffer, and nothing else changes but counters. -/
theorem State.squashPassages_fields : s.squashPassages f =
    { s with eff := (s.squashPassages f).eff, passages := s.passages.filter fun p => !(f p) } := by
  have hfold (t : State) : RegsOnly t ((s.passages.filter f).foldl State.passageSquashed t) :=
    List.foldlRecOn (motive := RegsOnly t) _ _ .refl fun u hu p _ => by
      unfold RegsOnly
      rw [State.passageSquashed_fields u p, hu]
  exact hfold _

theorem State.squashPassages_passages : (s.squashPassages f).passages = s.passages.filter fun p => !(f p) := by
  rw [State.squashPassages_fields]

theorem State.squashPassages_mem : (s.squashPassages f).mem = s.mem := by
  rw [State.squashPassages_fields]

theorem State.squashPassages_keepsSettings : KeepsSettings s (s.squashPassages f) :=
  .trans (.of_eff rfl) (.foldl _ State.passageSquashed_keepsSettings)

theorem State.squashPassages_frame : PassageFrame c s (s.squashPassages f) :=
  (PassageFrame.of_passages _).trans
    (List.foldlRecOn (motive := PassageFrame c _) _ _ .refl fun _ hu p _ => hu.trans (State.passageSquashed_frame _ p))

theorem State.validate_frame (src g n : Nat) : PassageFrame c s (s.validate src g n) := by
  unfold State.validate
  split
  · exact .refl
  · exact .bump n (.inr (le_dbgPartCnt _ _))

end

/-! ### BQT_FETCH (R188) -/

/-- k passages were skipped and `new` were fetched for the group and set of command c, on the way from s to t. -/
structure Fetched (c : Cmd) (s t : State) (k : Nat) (new : List Passage) : Prop where
  frame : PassageFrame c s t
  settings : KeepsSettings s t
  passages : t.passages = s.passages ++ new
  ours : ∀ p ∈ new, p.group = s.groupOfCore c.core ∧ p.job = c.job ∧ p.fset = c.n 36 1 % 16
  off : s.specOff 3 = true → new = []
  room : s.shadowBytes (s.groupOfCore c.core) ≤ 2 ^ 24 → t.shadowBytes (s.groupOfCore c.core) ≤ 2 ^ 24

section
variable {c : Cmd} {s t u : State}

theorem Fetched.none (k : Nat) : Fetched c s s k [] :=
  ⟨.refl, .of_eff rfl, (List.append_nil _).symm, fun _ hp => (nomatch hp), fun _ => rfl, id⟩

theorem Fetched.trans {j k : Nat} {new more : List Passage} (h : Fetched c s t j new) (hu : Fetched c t u k more) :
    Fetched c s u (j + k) (new ++ more) := by
  have hgroup := h.settings.groupOfCore c.core
  refine ⟨h.frame.trans hu.frame, h.settings.trans hu.settings, ?_, fun p hp => ?_, fun hoff => ?_, fun hroom => ?_⟩
  · rw [hu.passages, h.passages, List.append_assoc]
  · rcases List.mem_append.mp hp with hp | hp
    · exact h.ours p hp
    · exact hgroup ▸ hu.ours p hp
  · rw [h.off hoff, hu.off ((h.settings.specOff 3).trans hoff)]
    rfl
  · have hroom := h.room hroom
    rw [← hgroup] at hroom ⊢
    exact hu.room hroom

theorem State.shadowBytes_append {p : Passage} {g : Nat} (ht : t.passages = s.passages ++ [p]) (hp : p.group = g) :
    t.shadowBytes g = s.shadowBytes g + p.bytes.length := by
  unfold State.shadowBytes
  rw [ht, List.filter_append, List.map_append, List.foldl_append]
  simp [hp]

/-- The flash blocks are read and the passage is held. -/
def State.holding (s : State) (blocks : List Nat) (p : Passage) : State :=
  { s.countFlashReads blocks with passages := (s.countFlashReads blocks).passages ++ [p] }

/-- One passage of a fetch is passed over, or it is read and held where it has room and DIS_FLASH is not in effect. -/
theorem State.fetchOne_cases (s : State) (c : Cmd) (h : List Byte) (id : Nat) :
    (∃ k ≤ 1, s.fetchOne c.agent c h id = (s, k)) ∨
    ∃ blocks p, s.fetchOne c.agent c h id = (s.holding blocks p, 0) ∧ p.group = s.groupOfCore c.core ∧ p.job = c.job ∧
      p.fset = c.n 36 1 % 16 ∧ s.specOff 3 = false ∧ s.shadowBytes (s.groupOfCore c.core) + p.bytes.length ≤ 2 ^ 24 := by
  unfold State.fetchOne
  dsimp only
  split
  · exact .inl ⟨0, Nat.zero_le 1, rfl⟩
  · exact .inl ⟨1, Nat.le_refl 1, rfl⟩
  split
  · exact .inl ⟨1, Nat.le_refl 1, rfl⟩
  next hfree =>
  obtain ⟨hon, hroom⟩ := Bool.or_eq_false_iff.mp (Bool.eq_false_iff.mpr hfree)
  split
  · next hbs =>
    exact .inr ⟨_, _, rfl, rfl, rfl, rfl, hon, (State.length_load hbs).symm ▸ Nat.le_of_not_lt (of_decide_eq_false hroom)⟩
  · exact .inl ⟨0, Nat.zero_le 1, rfl⟩

theorem Fetched.holding (blocks : List Nat) {p : Passage} (hgroup : p.group = s.groupOfCore c.core) (hjob : p.job = c.job)
    (hset : p.fset = c.n 36 1 % 16) (hon : s.specOff 3 = false)
    (hroom : s.shadowBytes (s.groupOfCore c.core) + p.bytes.length ≤ 2 ^ 24) : Fetched c s (s.holding blocks p) 0 [p] := by
  have hcount := State.countFlashReads_workFrame c s blocks
  have hpassages : (s.holding blocks p).passages = s.passages ++ [p] := congrArg (· ++ [p]) hcount.passages
  refine ⟨hcount.passageFrame.trans (.of_passages _), (s.countFlashReads_keepsSettings _).trans (.of_eff rfl), hpassages, fun q hq => ?_,
    fun hoff => ?_, fun _ => ?_⟩
  · obtain rfl := List.mem_singleton.mp hq
    exact ⟨hgroup, hjob, hset⟩
  · rw [hoff] at hon
    cases hon
  · rw [State.shadowBytes_append hpassages hgroup]
    exact hroom

theorem State.fetchOne_fetched (h : List Byte) (id : Nat) : ∃ new, (s.fetchOne c.agent c h id).2 + new.length ≤ 1 ∧
    Fetched c s (s.fetchOne c.agent c h id).1 (s.fetchOne c.agent c h id).2 new := by
  rcases State.fetchOne_cases s c h id with ⟨k, hk, he⟩ | ⟨blocks, p, he, hgroup, hjob, hset, hon, hroom⟩
  · rw [he]
    exact ⟨[], hk, .none k⟩
  · rw [he]
    exact ⟨[p], Nat.le_refl 1, .holding blocks hgroup hjob hset hon hroom⟩

/-- The first n passages of a fetch. -/
def State.fetchFirst (s : State) (c : Cmd) (h ids : List Byte) (n : Nat) : State × Nat :=
  (List.range n).foldl (fun (acc : State × Nat) i =>
    let (u, k) := acc.1.fetchOne c.agent c h (numAt ids (8 * i) 8)
    (u, acc.2 + k)) (s, 0)

theorem State.fetchAll_eq_fetchFirst (h ids : List Byte) : s.fetchAll c.agent c h ids = s.fetchFirst c h ids (c.n 32 4) := rfl

theorem State.fetchFirst_succ (h ids : List Byte) (n : Nat) : s.fetchFirst c h ids (n + 1) =
    let one := (s.fetchFirst c h ids n).1.fetchOne c.agent c h (numAt ids (8 * n) 8)
    (one.1, (s.fetchFirst c h ids n).2 + one.2) := by
  unfold State.fetchFirst
  rw [List.range_succ, List.foldl_append]
  rfl

theorem State.fetchFirst_fetched (h ids : List Byte) (n : Nat) : ∃ new, (s.fetchFirst c h ids n).2 + new.length ≤ n ∧
    Fetched c s (s.fetchFirst c h ids n).1 (s.fetchFirst c h ids n).2 new := by
  induction n with
  | zero => exact ⟨[], Nat.le_refl 0, .none 0⟩
  | succ n ih =>
    obtain ⟨new, hlen, hnew⟩ := ih
    obtain ⟨more, hmore, hone⟩ := State.fetchOne_fetched (c := c) (s := (s.fetchFirst c h ids n).1) h (numAt ids (8 * n) 8)
    rw [State.fetchFirst_succ]
    refine ⟨new ++ more, ?_, hnew.trans hone⟩
    rw [List.length_append]
    dsimp only
    omega

/-- Is the passage of group g and fetch set f? -/
def Passage.inSet (g f : Nat) (p : Passage) : Bool := decide (p.group = g) && decide (p.fset = f)

theorem exec_bqtFetch {id : Nat} (ext : Ext) (hw : s.working id 5 2 = some c) : exec (.bqtFetch id ext) s =
    let u := (s.squashPassages (Passage.inSet (s.groupOfCore c.core) (c.n 36 1 % 16))).fetchAll c.agent c (c.captured (c.n 16 8))
      (c.captured heldOffs)
    .next (u.1.workDone c 0 (BitVec.ofNat 32 u.2)) := by
  show execBqtFetch id ext s = _
  unfold execBqtFetch
  rw [hw]
  rfl

end

/-! ### BQT_PACK (R192) -/

/-- A loop that stops at the first failure, each of whose passes goes on by a relation. -/
theorem foldl_ok_rel {α β ε : Type} {g : Except ε β → α → Except ε β} {R : β → β → Prop} {l : List α} {r : Except ε β} {y : β}
    (hrefl : ∀ z, R z z) (htrans : ∀ {x y z}, R x y → R y z → R x z) (hg : ∀ r x y, g r x = .ok y → ∃ z, r = .ok z ∧ R z y)
    (h : l.foldl g r = .ok y) : ∃ z, r = .ok z ∧ R z y := by
  induction l generalizing r with
  | nil => exact ⟨y, h, hrefl y⟩
  | cons x l ih =>
    obtain ⟨z, hz, hy⟩ := ih h
    obtain ⟨w, hw, hwz⟩ := hg r x z hz
    exact ⟨w, hw, htrans hwz hy⟩

/-- From s to t passages may leave the buffers, none of them where no fetch set is named. -/
structure Packed (c : Cmd) (fset : Option Nat) (s t : State) : Prop where
  frame : PassageFrame c s t
  passages : t.passages ⊆ s.passages
  stay : fset = none → t.passages = s.passages

section
variable {c : Cmd} {s t u : State} {fset : Option Nat}

theorem Packed.of_workFrame (h : WorkFrame c s t) : Packed c fset s t :=
  ⟨h.passageFrame, h.passages ▸ List.Subset.refl _, fun _ => h.passages⟩

theorem Packed.trans (h : Packed c fset s t) (hu : Packed c fset t u) : Packed c fset s u :=
  ⟨h.frame.trans hu.frame, List.Subset.trans hu.passages h.passages, fun hf => (hu.stay hf).trans (h.stay hf)⟩

theorem Packed.bump {a : Nat} (n : Nat) (h : CounterReg a ∨ 0x1100000 ≤ a) : Packed c fset s (s.bump a n) :=
  .of_workFrame (WriteFrame.bump n h).workFrame

theorem counterReg_bqt : CounterReg Reg.bqtShadowHits ∧ CounterReg Reg.bqtTrimmed :=
  ⟨(counterReg_of_wrapReg (c := Reg.bqtCntWrap) (by decide)).1, (counterReg_of_wrapReg (c := Reg.bqtCntWrap) (by decide)).1⟩

/-- A passage that serves a unit leaves its buffer and is counted. -/
theorem Packed.served {k : Nat} (x : Passage) (hframe : WorkFrame c { s with passages := s.passages.erase x } t) (g : Nat) :
    Packed c (some k) s ((t.validate 3 g 1).bump Reg.bqtShadowHits 1) := by
  have htaken : Packed c (some k) s { s with passages := s.passages.erase x } :=
    ⟨.of_passages _, List.erase_subset, fun hf => nomatch hf⟩
  exact ((htaken.trans (.of_workFrame hframe)).trans (.bump 1 (.inr (le_dbgPartCnt _ _)))).trans (.bump 1 (.inl counterReg_bqt.1))

theorem State.unitText_packed {g : Nat} {u : PackUnit} {bs : List Byte} {v bad : Bool}
    (h : s.unitText c.agent g fset u = .ok (t, bs, v, bad)) : Packed c fset s t := by
  unfold State.unitText at h
  cases hl : s.load c.agent u.va u.bytes with
  | error f =>
    rw [hl] at h
    dsimp only at h
    split at h
    · split at h
      · next x _ =>
        split at h
        · exact nomatch h
        · obtain ⟨rfl, -⟩ := Prod.mk.inj (Except.ok.inj h)
          exact .served x .refl g
      · exact nomatch h
    · exact nomatch h
  | ok text =>
    rw [hl] at h
    have hplain (h : (s.countRegion c.agent u.va u.bytes, text, false, s.regionPoisoned c.agent u.va u.bytes) = (t, bs, v, bad)) :
        Packed c fset s t := by
      obtain ⟨rfl, -⟩ := Prod.mk.inj h
      exact .of_workFrame (State.countRegion_workFrame c s _ _ _)
    dsimp only at h
    split at h
    · split at h
      · next x _ =>
        split at h
        · obtain ⟨rfl, -⟩ := Prod.mk.inj (Except.ok.inj h)
          exact .served x (State.countRegion_workFrame c _ _ _ _) g
        · obtain ⟨rfl, -⟩ := Prod.mk.inj (Except.ok.inj h)
          exact .served x .refl g
      · exact hplain (Except.ok.inj h)
    · exact hplain (Except.ok.inj h)

theorem State.packText_packed {g : Nat} {us : List PackUnit} {bs : List Byte} {v : Nat} {bad : Bool}
    (h : s.packText c.agent g fset us = .ok (t, bs, v, bad)) : Packed c fset s t := by
  obtain ⟨q, hq, hp⟩ := foldl_ok_rel (R := fun q r : State × List Byte × Nat × Bool => Packed c fset q.1 r.1)
    (fun _ => .of_workFrame .refl) (fun hq hr => hq.trans hr) (fun r u y hy => by
      split at hy
      · exact nomatch hy
      · split at hy
        · exact nomatch hy
        · next hu =>
          obtain rfl := Except.ok.inj hy
          exact ⟨_, rfl, State.unitText_packed hu⟩) h
  rwa [← Except.ok.inj hq] at hp

/-- BQT_PACK's text and segment table are stored. -/
def State.packStored (s : State) (c : Cmd) (d : List Byte) (p : PackPlan) (bs : List Byte) (bad : Bool) : State :=
  (s.store c.agent c.core c.cls3 (numAt d 48 8) bs bad).store c.agent c.core c.cls3 (numAt d 56 8) p.segments bad

/-- The passages of the fetch set named, if one is, are dropped. -/
def State.setDropped (s : State) (g : Nat) (fset : Option Nat) : State :=
  match fset with
  | some k => s.squashPassages (Passage.inSet g k)
  | none => s

/-- What trimming left out is counted. -/
def State.countTrimmed (s : State) (n : Nat) : State := if n = 0 then s else s.bump Reg.bqtTrimmed n

/-- The fetch set that a pack's descriptor names. -/
def packSet (d : List Byte) : Option Nat := if (numAt d 74 2).testBit 15 then some (numAt d 74 2 % 16) else none

theorem State.packStored_packed (d : List Byte) (p : PackPlan) (bs : List Byte) (bad : Bool) : Packed c fset s (s.packStored c d p bs bad) :=
  .of_workFrame ((State.store_workFrame c s _ _ _ _).trans (State.store_workFrame c _ _ _ _ _))

theorem State.setDropped_packed (g : Nat) : Packed c fset s (s.setDropped g fset) := by
  cases fset with
  | none => exact .of_workFrame .refl
  | some k =>
    refine ⟨s.squashPassages_frame _, ?_, fun hf => nomatch hf⟩
    rw [State.setDropped, State.squashPassages_passages]
    exact List.filter_subset_self _

theorem State.countTrimmed_packed (n : Nat) : Packed c fset s (s.countTrimmed n) := by
  unfold State.countTrimmed
  split
  · exact .of_workFrame .refl
  · exact .bump n (.inl counterReg_bqt.2)

theorem State.countTrimmed_fields (n : Nat) : RegsOnly s (s.countTrimmed n) := by
  unfold State.countTrimmed
  split
  · exact .refl
  · exact RegsOnly.refl.bump _ _

theorem State.countTrimmed_passages (n : Nat) : (s.countTrimmed n).passages = s.passages := by rw [State.countTrimmed_fields]

theorem State.countTrimmed_mem (n : Nat) : (s.countTrimmed n).mem = s.mem := by rw [State.countTrimmed_fields]

theorem State.setDropped_mem (g : Nat) : (s.setDropped g fset).mem = s.mem := by
  cases fset with
  | none => rfl
  | some k => exact State.squashPassages_mem s _

theorem State.not_inSet_of_setDropped {g k : Nat} {x : Passage} (hx : x ∈ (s.setDropped g (some k)).passages) :
    ¬(x.group = g ∧ x.fset = k) := by
  rw [State.setDropped, State.squashPassages_passages] at hx
  rintro ⟨hg, hk⟩
  have hout := (List.mem_filter.mp hx).2
  rw [Passage.inSet, decide_eq_true hg, decide_eq_true hk] at hout
  cases hout

theorem exec_bqtPack {id : Nat} (ext : Ext) {d list bs : List Byte} {p : PackPlan} {v : Nat} {bad : Bool} (hw : s.working id 5 1 = some c)
    (hd : c.captured (c.n 16 8) = d) (hp : s.packPlan c.agent d = .ok p) (hl : s.readList c.agent (numAt d 16 8) = .ok list)
    (ht : (s.countRegions c.agent (packLists d list)).packText c.agent (s.groupOfCore c.core) (packSet d) p.units = .ok (u, bs, v, bad)) :
    exec (.bqtPack id ext) s = .next ((((u.packStored c d p bs bad).setDropped (s.groupOfCore c.core) (packSet d)).countTrimmed
      (p.droppedPassages + p.droppedMemory)).workDone c (doneOrPoisoned bad)
        (BitVec.ofNat 32 (satNat 16 v + satNat 8 p.duplicates * 2 ^ 16))) := by
  subst hd
  show execBqtPack id ext s = _
  unfold execBqtPack
  rw [hw]
  dsimp only
  rw [hp, hl]
  dsimp only
  rw [show (if (numAt (c.captured (c.n 16 8)) 74 2).testBit 15 then some (numAt (c.captured (c.n 16 8)) 74 2 % 16) else none) =
    packSet (c.captured (c.n 16 8)) from rfl, ht]
  rfl

end

/-- Settles O24: what is fetched is held within the buffer, and packing only takes from it. -/
theorem bouquetCommands : Obligations.BouquetCommands := by
  unfold Obligations.BouquetCommands
  intro id ext c s
  refine ⟨fun hw => ?_, fun p list u bs v bad hw hp hl ht => ?_⟩
  · have hkept := s.squashPassages_passages (Passage.inSet (s.groupOfCore c.core) (c.n 36 1 % 16))
    have hkeeps := s.squashPassages_keepsSettings (Passage.inSet (s.groupOfCore c.core) (c.n 36 1 % 16))
    have hgroup := hkeeps.groupOfCore c.core
    obtain ⟨new, hlen, hnew⟩ := State.fetchFirst_fetched (c := c)
      (s := s.squashPassages (Passage.inSet (s.groupOfCore c.core) (c.n 36 1 % 16))) (c.captured (c.n 16 8)) (c.captured heldOffs) (c.n 32 4)
    obtain ⟨t, hx, hengine, hends, hmem, hpassages, hbytes⟩ :=
      ((s.squashPassages_frame _).trans hnew.frame).exec_ends (State.cmd_of_working hw) (exec_bqtFetch ext hw)
    refine ⟨t, new, hx, hengine, hends, hmem, hlen, ?_, fun p hp => hgroup ▸ hnew.ours p hp,
      fun hoff => hnew.off ((hkeeps.specOff 3).trans hoff), fun hroom => ?_⟩
    · rw [hpassages, hnew.passages, hkept]
      rfl
    · have hheld := hnew.room
      rw [hgroup] at hheld
      rw [hbytes]
      refine hheld ?_
      unfold State.shadowBytes at hroom ⊢
      rwa [hkept]
  · have htext : Packed c (packSet (c.captured (c.n 16 8))) s u :=
      (Packed.of_workFrame (State.countRegions_workFrame c s _ _)).trans (State.packText_packed ht)
    have hall := ((htext.trans (State.packStored_packed (c.captured (c.n 16 8)) p bs bad)).trans
      (State.setDropped_packed (s.groupOfCore c.core))).trans (State.countTrimmed_packed (p.droppedPassages + p.droppedMemory))
    obtain ⟨t, hx, hengine, hends, hmem, hpassages, -⟩ :=
      hall.frame.exec_ends (State.cmd_of_working hw) (exec_bqtPack ext hw rfl hp hl ht)
    refine ⟨t, hx, hengine, hends, ?_, fun x hx => hall.passages (hpassages ▸ hx), fun k hk x hx => ?_, fun hf => ?_⟩
    · rw [hmem, State.countTrimmed_mem, State.setDropped_mem]
      rfl
    · replace hk : packSet (c.captured (c.n 16 8)) = some k := hk
      rw [hpassages, State.countTrimmed_passages, hk] at hx
      exact State.not_inSet_of_setDropped hx
    · rw [hpassages, hall.stay hf]

end Sys2Proof.Machine
end

section
/-!
SUPPORT. The frame of Aster's row actions (R170, R171): a write's, the flash reads', and what the fabric pool has answered the command.
-/

namespace Sys2Proof.Machine

/-- What an action on rows of command c may change: what its work may, and the answers of the fabric pool that it holds. -/
structure RowFrame (c : Cmd) (s t : State) : Prop where
  work : WorkFrame c { s with cmds := t.cmds } t
  own : ∃ p, t.cmd c.id = some { c with pool := p }
  others : ∀ j, j ≠ c.id → t.cmd j = s.cmd j

section
variable {c d : Cmd} {s t u : State}

/-- Commands are no part of what the work looks at. -/
theorem WorkFrame.setCmds (h : WorkFrame c s t) (cs : List Cmd) : WorkFrame c { s with cmds := cs } { t with cmds := cs } := by
  obtain ⟨hf, hm, hc, hr⟩ := h
  refine ⟨?_, hm, hc, hr⟩
  rw [hf]

/-- The rows being written are no part of what the work looks at. -/
theorem WorkFrame.setRowWork (h : WorkFrame c s t) (m : SMap RowWork) : WorkFrame c { s with rowWork := m } { t with rowWork := m } := by
  obtain ⟨hf, hm, hc, hr⟩ := h
  refine ⟨?_, hm, hc, hr⟩
  rw [hf]

/-- The rows being read are no part of what the work looks at. -/
theorem WorkFrame.setRowReads (h : WorkFrame c s t) (m : SMap RowRead) : WorkFrame c { s with rowReads := m } { t with rowReads := m } := by
  obtain ⟨hf, hm, hc, hr⟩ := h
  refine ⟨?_, hm, hc, hr⟩
  rw [hf]

theorem RowFrame.of_work (hc : s.cmd c.id = some c) (h : WorkFrame c s t) : RowFrame c s t := by
  have hcmd (j : Nat) : t.cmd j = s.cmd j := congrArg (List.find? _) h.cmds
  refine ⟨?_, ⟨c.pool, (hcmd _).trans hc⟩, fun j _ => hcmd j⟩
  rw [h.cmds]
  exact h

theorem RowFrame.refl (hc : s.cmd c.id = some c) : RowFrame c s s := .of_work hc .refl

/-- An action of the command as it stands after one action is an action of it. -/
theorem RowFrame.trans (h : RowFrame c s t) (hd : t.cmd c.id = some d) (hu : RowFrame d t u) : RowFrame c s u := by
  obtain ⟨p, hp⟩ := h.own
  obtain rfl : { c with pool := p } = d := Option.some.inj (hp.symm.trans hd)
  exact ⟨(h.work.setCmds u.cmds).trans hu.work, hu.own, fun j hj => (hu.others j hj).trans (h.others j hj)⟩

theorem RowFrame.andWork (h : RowFrame c s t) (hu : WorkFrame c t u) : RowFrame c s u := by
  obtain ⟨p, hp⟩ := h.own
  exact h.trans hp (.of_work (c := { c with pool := p }) hp hu)

theorem RowFrame.setRowWork (h : RowFrame c s t) (m : SMap RowWork) : RowFrame c { s with rowWork := m } { t with rowWork := m } :=
  ⟨h.work.setRowWork m, h.own, h.others⟩

theorem RowFrame.setRowReads (h : RowFrame c s t) (m : SMap RowRead) : RowFrame c { s with rowReads := m } { t with rowReads := m } :=
  ⟨h.work.setRowReads m, h.own, h.others⟩

/-- The command holds other answers. -/
theorem RowFrame.setPool (hc : s.cmd c.id = some c) (p : List PoolPart) : RowFrame c s (s.setCmd { c with pool := p }) :=
  have hset := State.cmd_setCmd (d := { c with pool := p }) hc
  ⟨.refl, ⟨p, (hset c.id).trans (if_pos rfl)⟩, fun j hj => (hset j).trans (if_neg hj)⟩

/-- The command whose rows are done, whatever answers it then holds. -/
theorem RowFrame.workDone (h : RowFrame c s u) (p : List PoolPart) (status : Byte) (result : BitVec 32) :
    let t := u.workDone { c with pool := p } status result
    EngineFrame s t c ∧ WorkEnds s t { c with pool := p } status result := by
  obtain ⟨⟨hf, hm, hc, hr⟩, ⟨q, hq⟩, hothers⟩ := h
  have hset := State.cmd_setCmd (d := { c with pool := p, phase := .done status result }) hq
  refine ⟨⟨?_, hm, hc, hr⟩, (hset c.id).trans (if_pos rfl), fun j hj => ((hset j).trans (if_neg hj)).trans (hothers j hj)⟩
  rw [State.workDone, State.setCmd, hf]

end

/-! ### Reads, AMOs and locks -/

section
variable {c : Cmd} {s : State}

theorem State.clearPool_eq {id : Nat} (h : s.cmd id = some c) : s.clearPool id = s.setCmd { c with pool := [] } := by
  unfold State.clearPool
  rw [h]

section
variable {t : State}

theorem RowFrame.clearPool (h : RowFrame c s t) : RowFrame c s (t.clearPool c.id) := by
  obtain ⟨p, hp⟩ := h.own
  rw [State.clearPool_eq hp]
  exact h.trans hp (.setPool (c := { c with pool := p }) hp [])

theorem RowFrame.landPart (h : RowFrame c s t) (p : PoolPart) : RowFrame c s (t.landPart c.id p) := by
  obtain ⟨q, hq⟩ := h.own
  unfold State.landPart
  rw [hq]
  exact h.trans hq (.setPool (c := { c with pool := q }) hq _)

theorem RowFrame.fetchRun (h : RowFrame c s t) {e : Cmd} (he : e.id = c.id) (cls : BitVec 3) (va pa n : Nat) :
    RowFrame c s (t.fetchRun e cls va pa n) := by
  unfold State.fetchRun
  split
  · exact h
  split
  · rw [he]
    exact h.landPart _
  · exact h
  split
  · next u hu => exact h.andWork (State.request_writeFrame hu).workFrame
  · rw [he]
    exact h.landPart _

theorem RowFrame.fetch (h : RowFrame c s t) {e : Cmd} (he : e.id = c.id) (cls : BitVec 3) (ws : List (Nat × Nat × Nat)) :
    RowFrame c s (t.fetch e cls ws) :=
  List.foldlRecOn (motive := RowFrame c s) _ _ h fun _ hu _ _ =>
    List.foldlRecOn (motive := RowFrame c s) _ _ hu fun _ hv _ _ => hv.fetchRun he _ _ _ _

end

theorem State.rowAmo_workFrame {va fn new expected : Nat} {t : State} {now : Bool}
    (h : s.rowAmo c va fn new expected = .ok (t, now)) : WorkFrame c s t := by
  unfold State.rowAmo at h
  dsimp only at h
  split at h
  · exact nomatch h
  split at h
  · split at h
    · next u hu =>
      obtain ⟨rfl, -⟩ := Prod.mk.inj (Except.ok.inj h)
      exact ((State.request_writeFrame hu).trans (State.dropHome_writeFrame c u _ _)).workFrame
    · exact nomatch h
  · exact nomatch h
  · obtain ⟨rfl, -⟩ := Prod.mk.inj (Except.ok.inj h)
    exact State.store_workFrame c s _ _ _ _

variable (hc : s.cmd c.id = some c)
include hc

/-- A region read for a row, or asked for. -/
theorem State.rowLoad_frame {va n : Nat} : (∀ t bs bad, s.rowLoad c va n = .ok t bs bad → RowFrame c s t) ∧
    ∀ t, s.rowLoad c va n = .wait t → RowFrame c s t := by
  unfold State.rowLoad
  split
  · split
    · exact ⟨fun _ _ _ h => (nomatch h), fun _ h => nomatch h⟩
    · refine ⟨fun _ _ _ h => (nomatch h), fun t h => ?_⟩
      obtain rfl := RowLoad.wait.inj h
      exact (RowFrame.refl hc).fetch rfl _ _
  · refine ⟨fun t bs bad h => ?_, fun _ h => nomatch h⟩
    obtain ⟨rfl, -⟩ := RowLoad.ok.inj h
    exact (RowFrame.of_work hc (State.countRegion_workFrame c s _ _ _)).clearPool

end

/-- An action of locking a row leaves a state in which P holds, unless it fails. -/
def RowAct.Keeps (P : State → Prop) : RowAct → Prop
  | .on t _ => P t
  | .wait t => P t
  | .busy t => P t
  | .fail _ => True

theorem RowAct.Keeps.of_eq {P : State → Prop} {x y : RowAct} (h : x.Keeps P) (he : x = y) : y.Keeps P := he ▸ h

theorem State.lockStep_frame {c : Cmd} {s : State} (hc : s.cmd c.id = some c) (va : Nat) (step : RowStep) :
    (s.lockStep c va step).Keeps (RowFrame c s) := by
  have hs := RowFrame.refl hc
  unfold State.lockStep
  split
  case h_1 =>
    split
    · split
      · exact trivial
      · exact hs.fetch rfl _ _
    · dsimp only
      split
      · exact trivial
      split
      · exact hs.clearPool
      split
      · exact trivial
      · next ht => exact hs.clearPool.andWork (State.rowAmo_workFrame ht)
      · next ht => exact hs.clearPool.andWork (State.rowAmo_workFrame ht)
  case h_2 =>
    split
    · exact hs
    split
    · exact hs
    split
    · exact trivial
    split
    · exact trivial
    split
    · exact hs.clearPool
    · exact hs.clearPool
  case h_3 =>
    split
    · exact hs
    split
    · exact trivial
    · next ht => exact hs.andWork (State.rowAmo_workFrame ht)
    · next ht => exact hs.andWork (State.rowAmo_workFrame ht)
  case h_4 =>
    split
    · exact hs
    split
    · exact hs
    split
    · exact trivial
    · exact hs.clearPool
  case h_5 => exact hs

end Sys2Proof.Machine
end

section
/-!
SUPPORT. Rows read one action after another (R170).
-/

namespace Sys2Proof.Machine

/-- An action of reading rows leaves a state in which P holds, and rows to read of which Q holds. -/
def ReadNext.Keeps (P : State → Prop) (Q : RowRead → Prop) : ReadNext → Prop
  | .more t x => P t ∧ Q x
  | .stop t x => P t ∧ Q x
  | .fail t _ => P t

/-- The rows still to read say of the indices what r says. -/
def SameIndices (r x : RowRead) : Prop := x.bad = r.bad ∧ x.edge = r.edge

section
variable {c : Cmd} {s : State}

theorem State.readStep_frame (hc : s.cmd c.id = some c) (spec : Bool) (r : RowRead) :
    (s.readStep c spec r).Keeps (RowFrame c s) (SameIndices r) := by
  have hs := RowFrame.refl hc
  have hretry : CounterReg Reg.astRowRetry := (counterReg_of_wrapReg (c := Reg.astCntWrap) (by decide)).1
  have hcount (t : State) (ht : RowFrame c s t) : RowFrame c s (t.bump Reg.astRowRetry 1) :=
    ht.andWork (WriteFrame.bump 1 (.inl hretry)).workFrame
  have hload (va n : Nat) := State.rowLoad_frame hc (va := va) (n := n)
  have hlock (va : Nat) := State.lockStep_frame hc va r.step
  unfold State.readStep
  split
  · exact ⟨hs, rfl, rfl⟩
  dsimp only
  split
  · split
    · next ht => exact ⟨(hload _ _).2 _ ht, rfl, rfl⟩
    · exact hs
    · next ht => exact ⟨(hload _ _).1 _ _ _ ht, rfl, rfl⟩
  · split
    · next ht => exact ⟨(hload _ _).2 _ ht, rfl, rfl⟩
    · exact hs
    · next ht => exact ⟨(hload _ _).1 _ _ _ ht, rfl, rfl⟩
  · split
    · next ht => exact ⟨(hload _ _).2 _ ht, rfl, rfl⟩
    · exact hs
    · next t bs b ht =>
      have ht := (hload _ _).1 _ _ _ ht
      split
      · exact ⟨ht, rfl, rfl⟩
      split
      · exact ⟨hcount t ht, rfl, rfl⟩
      split
      · exact ⟨hcount t ht, rfl, rfl⟩
      · exact ⟨ht, rfl, rfl⟩
  · split
    · next ht => exact ⟨(hload _ _).2 _ ht, rfl, rfl⟩
    · exact hs
    · next ht => exact ⟨(hload _ _).1 _ _ _ ht, rfl, rfl⟩
  · split
    · next ht => exact ⟨(hlock _).of_eq ht, rfl, rfl⟩
    · next ht => exact ⟨(hlock _).of_eq ht, rfl, rfl⟩
    · next ht => exact ⟨(hlock _).of_eq ht, rfl, rfl⟩
    · next ht =>
      split
      · exact (hlock _).of_eq ht
      · exact ⟨(hlock _).of_eq ht, rfl, rfl⟩
    · exact hs

theorem State.readRows_frame (spec : Bool) (fuel : Nat) (r : RowRead) (hc : s.cmd c.id = some c) :
    (s.readRows c.id spec fuel r).Keeps (RowFrame c s) (SameIndices r) := by
  induction fuel generalizing c s r with
  | zero => exact ⟨.refl hc, rfl, rfl⟩
  | succ fuel ih =>
    have hstep := State.readStep_frame hc spec r
    unfold State.readRows
    rw [hc]
    dsimp only
    split
    · next t x ht =>
      rw [ht] at hstep
      obtain ⟨hstep, hbad, hedge⟩ := hstep
      obtain ⟨p, hp⟩ := hstep.own
      have hrest := ih (c := { c with pool := p }) x hp
      revert hrest
      cases t.readRows c.id spec fuel x with
      | more u y => exact fun h => ⟨hstep.trans hp h.1, h.2.1.trans hbad, h.2.2.trans hedge⟩
      | stop u y => exact fun h => ⟨hstep.trans hp h.1, h.2.1.trans hbad, h.2.2.trans hedge⟩
      | fail u f => exact fun h => hstep.trans hp h
    · exact hstep

end

end Sys2Proof.Machine
end

section
/-!
SUPPORT. Rows written one action after another, and the rows of a gather written to OUT (R171, R173–R177).
-/

namespace Sys2Proof.Machine

/-! ### Row writes (R171, R175) -/

section
variable {c : Cmd} {s t u : State} {w x : RowWork}

theorem State.beginPass_workFrame (w : RowWork) : WorkFrame c s (s.beginPass c w).1 := by
  have hmerged : CounterReg Reg.astMerged := (counterReg_of_wrapReg (c := Reg.astCntWrap) (by decide)).1
  unfold State.beginPass
  dsimp only
  have hstores (l : List ((Nat × List (BitVec 32)) × Nat)) (h : TableHdr) :
      WorkFrame c s (l.foldl (fun t e => t.store c.agent c.core c.cls3 (c.n 40 8 + e.2 * h.dim * 4) (f32Bytes e.1.2) w.bad) s) :=
    .foldl l fun t _ => State.store_workFrame c t _ _ _ _
  split
  · exact hstores _ _
  · exact (hstores _ _).trans (WriteFrame.bump _ (.inl hmerged)).workFrame

/-- An action on rows after which there is more to do. -/
theorem State.writeStep_frame (hc : s.cmd c.id = some c) (h : s.writeStep c w = .more t x) : RowFrame c s t := by
  have hs := RowFrame.refl hc
  have hlock (va : Nat) := State.lockStep_frame hc va w.step
  have hput (u : State) (hu : RowFrame c s u) (va : Nat) (bs : List Byte) (bad : Bool) :
      RowFrame c s (u.store c.agent c.core c.cls3 va bs bad) := hu.andWork (State.store_workFrame c u _ _ _ _)
  unfold State.writeStep at h
  extract_lets hdr upd at h
  split at h
  · split at h
    · exact nomatch h
    · obtain ⟨rfl, -⟩ := WriteNext.more.inj h
      exact .of_work hc (State.beginPass_workFrame w)
  extract_lets rf next at h
  split at h
  · obtain ⟨rfl, -⟩ := WriteNext.more.inj h
    exact hs
  split at h
  · split at h
    · dsimp only at h
      split at h
      · exact nomatch h
      · exact nomatch h
      · next hload =>
        split at h
        · exact nomatch h
        · obtain ⟨rfl, -⟩ := WriteNext.more.inj h
          exact hput _ ((State.rowLoad_frame hc).1 _ _ _ hload) _ _ _
    · dsimp only at h
      split at h
      · exact nomatch h
      · obtain ⟨rfl, -⟩ := WriteNext.more.inj h
        exact hput _ hs _ _ _
  · split at h
    · next hu =>
      split at h
      · exact nomatch h
      · obtain ⟨rfl, -⟩ := WriteNext.more.inj h
        exact (hlock _).of_eq hu
    · next hu =>
      obtain ⟨rfl, -⟩ := WriteNext.more.inj h
      exact (hlock _).of_eq hu
    · exact nomatch h
    · split at h
      · exact nomatch h
      · exact nomatch h
    · exact nomatch h

theorem WriteSteps.frame {n : Nat} (h : WriteSteps c.id n s w t x) (hc : s.cmd c.id = some c) :
    RowFrame c { s with rowWork := t.rowWork } t := by
  induction n generalizing c s w with
  | zero =>
    obtain ⟨rfl, -⟩ := h
    exact .refl hc
  | succ n ih =>
    obtain ⟨d, u, v, hd, hstep, hrest⟩ := h
    obtain rfl : c = d := Option.some.inj (hc.symm.trans hd)
    have hfirst := State.writeStep_frame hc hstep
    obtain ⟨p, hp⟩ := hfirst.own
    exact (hfirst.setRowWork t.rowWork).trans hp
      (ih (c := { c with pool := p }) (s := { u with rowWork := SMap.insert u.rowWork c.id v }) hrest hp)

/-- The row writes of a command go through the actions that lead on. -/
theorem WriteSteps.writeRows {id n : Nat} (h : WriteSteps id n s w t x) (k : Nat) :
    s.writeRows id (n + k) w = t.writeRows id k x := by
  induction n generalizing s w with
  | zero =>
    obtain ⟨rfl, rfl⟩ := h
    rw [Nat.zero_add]
  | succ n ih =>
    obtain ⟨d, u, v, hd, hstep, hrest⟩ := h
    rw [show n + 1 + k = n + k + 1 by omega, State.writeRows, hd]
    dsimp only
    rw [hstep]
    exact ih hrest

/-- Where no row is left to write, the work is done. -/
theorem State.writeRows_done {id : Nat} {d : Cmd} (hd : t.cmd id = some d) (htodo : x.todo = []) (hlater : x.later = []) (k : Nat) :
    t.writeRows id (k + 1) x =
      ({ t with rowWork := SMap.erase t.rowWork d.id } : State).workDone d (poisonStatus x.bad) x.result := by
  rw [State.writeRows, hd]
  dsimp only
  rw [State.writeStep, htodo]
  dsimp only
  rw [hlater]
  rfl

/-- The rows of a command are written: its run ends. -/
theorem WriteSteps.exec_ends {i : Instr} {n fuel : Nat} (hx : exec i s = .next (u.writeRows c.id fuel w)) (hs : RowFrame c s u)
    (h : WriteSteps c.id n u w t x) (htodo : x.todo = []) (hlater : x.later = []) (hn : n < fuel) :
    ∃ v p, exec i s = .next v ∧ EngineFrame { s with rowWork := v.rowWork } v c ∧
      WorkEnds s v { c with pool := p } (doneOrPoisoned x.bad) (flagsResult x.flags (2 ^ 23 * b2n x.dropped + Nat.min 65535 x.skipped)) ∧
      v.mem = t.mem ∧ SMap.find v.rowWork c.id = none := by
  obtain ⟨q, hq⟩ := hs.own
  have hframe : RowFrame c { s with rowWork := t.rowWork } t := (hs.setRowWork t.rowWork).trans hq (h.frame (c := { c with pool := q }) hq)
  obtain ⟨p, hp⟩ := hframe.own
  obtain ⟨k, rfl⟩ := Nat.exists_eq_add_of_lt hn
  rw [show n + k + 1 = n + (k + 1) by omega, h.writeRows, State.writeRows_done hp htodo hlater] at hx
  obtain ⟨hengine, hends⟩ := (hframe.setRowWork (SMap.erase t.rowWork c.id)).workDone p (poisonStatus x.bad) x.result
  exact ⟨_, p, hx, hengine, hends, rfl, (SMap.find_erase _ _ _).trans (if_pos rfl)⟩

end

/-! ### The end of a gather (R173, R174) -/

section
variable {c : Cmd} {s t u v : State} {r x : RowRead}

/-- The rows, or their pools, are written to OUT and the gather's work is done. -/
theorem State.writeGather_spec (s : State) (c : Cmd) (r : RowRead) : ∃ u fl, WorkFrame c s u ∧
    s.writeGather c r = ({ u with rowReads := SMap.erase u.rowReads c.id } : State).workDone c
      (poisonStatus (r.bad || r.got.any fun e => e.2.2)) (flagsResult fl (2 ^ 23 * b2n r.edge)) := by
  unfold State.writeGather
  extract_lets a n h o slots bad pool
  split
  next u fl hu =>
  refine ⟨u, fl, ?_, rfl⟩
  split at hu
  · obtain ⟨rfl, -⟩ := Prod.mk.inj hu
    refine (WorkFrame.foldl _ fun t e => ?_).trans (State.zeroEdges_writeFrame c _ a rfl _ _ _ _ _ _ _).workFrame
    split
    · exact (State.storeCodes_writeFrame c t a rfl _ _ _ _ _ _).workFrame
    · exact .refl
  · obtain ⟨rfl, -⟩ := Prod.mk.inj hu
    exact (State.storeRows_writeFrame c s a rfl _ _ _ _ _ _ _ _ _).workFrame

/-- The rows of a gather are read: its run ends. -/
theorem State.goGather_ends {i : Instr} {fuel : Nat} (hx : exec i s = .next (u.goGather c fuel r)) (hs : RowFrame c s u)
    (hv : u.readRows c.id false fuel r = .stop v x) (htodo : x.todo = []) :
    ∃ t fl, exec i s = .next t ∧ EngineFrame { s with rowReads := t.rowReads } t c ∧
      WorkEnds s t c (doneOrPoisoned (r.bad || x.got.any fun e => e.2.2)) (flagsResult fl (2 ^ 23 * b2n r.edge)) ∧
      t.mem = (v.writeGather c x).mem := by
  obtain ⟨p, hp⟩ := hs.own
  have hread := State.readRows_frame (c := { c with pool := p }) false fuel r hp
  replace hread : (ReadNext.stop v x).Keeps (RowFrame { c with pool := p } u) (SameIndices r) := hv ▸ hread
  obtain ⟨hread, hbad, hedge⟩ := hread
  obtain ⟨t, fl, ht, hend⟩ := v.writeGather_spec c x
  have hgo : u.goGather c fuel r = v.writeGather c x := by
    unfold State.goGather
    rw [hv]
    dsimp only
    rw [htodo]
    rfl
  obtain ⟨hengine, hends⟩ := (((hs.trans hp hread).andWork ht).setRowReads (SMap.erase t.rowReads c.id)).workDone c.pool
    (poisonStatus (x.bad || x.got.any fun e => e.2.2)) (flagsResult fl (2 ^ 23 * b2n x.edge))
  rw [← hend] at hengine hends
  rw [hgo] at hx
  refine ⟨_, fl, hx, ?_, hbad ▸ hedge ▸ hends, rfl⟩
  rw [hend] at hengine ⊢
  exact hengine

end

end Sys2Proof.Machine
end

section
/-!
SUPPORT. AST_GATHER, AST_UPDATE, AST_ROW_REPLACE and the wait for a BUSY row: what their runs come to (R170–R177).
-/

namespace Sys2Proof.Machine

section
variable {c : Cmd} {s t u : State} {id : Nat} (ext : Ext)

/-- What a command that is under way is. -/
theorem State.working_spec {cls op : Nat} (h : s.working id cls op = some c) : c.id = id ∧ cmdOpcode c.word = op ∧ c.phase = .started := by
  unfold State.working at h
  split at h
  · exact nomatch h
  · next d hd =>
    split at h
    · next hand =>
      obtain rfl := Option.some.inj h
      simp only [Bool.and_eq_true, decide_eq_true_eq] at hand
      obtain ⟨⟨⟨⟨⟨-, hop⟩, hphase⟩, -⟩, -⟩, -⟩ := hand
      exact ⟨State.cmd_id hd, hop, hphase⟩
    · exact nomatch h

theorem State.id_of_working {cls op : Nat} (h : s.working id cls op = some c) : c.id = id := (State.working_spec h).1

theorem State.opcode_of_working {cls op : Nat} (h : s.working id cls op = some c) : cmdOpcode c.word = op := (State.working_spec h).2.1

theorem State.started_of_working {cls op : Nat} (h : s.working id cls op = some c) : c.phase = .started := (State.working_spec h).2.2

/-- A command that is under way has one opcode. -/
theorem State.working_other {cls cls' op op' : Nat} (h : s.working id cls op = some c) (hne : op ≠ op') : s.working id cls' op' = none := by
  have hc := State.cmd_of_working h
  have hop := State.opcode_of_working h
  rw [State.id_of_working h] at hc
  unfold State.working
  rw [hc]
  dsimp only
  rw [decide_eq_false (show ¬ cmdOpcode c.word = op' from fun he => hne (hop.symm.trans he)), Bool.and_false]
  rfl

/-! ### AST_GATHER -/

section
variable {ib : List Byte} {bad : Bool} (hw : s.working id 4 1 = some c)
include hw

/-- AST_GATHER has read its indices: its rows lie in OUT, or their reads begin. -/
theorem exec_astGather_start (hr : SMap.find s.rowReads id = none) (hload : s.rowLoad c (c.n 24 8) (8 * c.n 40 4) = .ok u ib bad) :
    let n := c.n 40 4
    let h : TableHdr := { raw := c.captured heldTable }
    let ixs := (List.range n).map fun i => c.gatherRow (numAt ib (8 * i) 8)
    let rows := ixs.map fun i => Nat.min i (h.rows - 1)
    let out := (c.desc (c.n 32 8)).writeRegion 0 (if c.n 56 1 % 4 = 0 then n else c.n 44 4)
    exec (.astGather id ext) s = .next (if s.regionsMeet c.agent (h.rowRegions rows.eraseDups) out then s.workDone c 0x27 0
      else u.goGather c (actionsOf ext n) { RowRead.start (rows.map fun r => (heldTable, r)) with
        bad := bad, edge := ixs.any fun i => decide (h.rows ≤ i) }) := by
  show execAstGather id ext s = _
  unfold execAstGather
  rw [hw]
  dsimp only
  rw [hr]
  dsimp only
  rw [hload]
  dsimp only
  rw [apply_ite Host.Outcome.next]

/-- A gather whose row was BUSY reads on (R171). -/
theorem exec_rowBusyRetry_gather {r : RowRead} (hr : SMap.find s.rowReads id = some r) (hlock : r.step = .lock) :
    exec (.rowBusyRetry id ext) s = .next (s.goGather c (actionsOf ext r.todo.length) r) := by
  show execRowBusyRetry id ext s = _
  unfold execRowBusyRetry
  rw [hw, hr]
  dsimp only
  rw [if_pos hlock]

end

/-! ### AST_ROW_REPLACE and AST_UPDATE -/

/-- The sources of the rows to be written have been read. -/
theorem State.countRegions_rowFrame (hc : s.cmd c.id = some c) (rs : List (Nat × Nat)) :
    RowFrame c s ((s.countRegions c.agent rs).clearPool c.id) :=
  (RowFrame.of_work hc (State.countRegions_workFrame c s _ _)).clearPool

theorem exec_astRowReplace_start (hw : s.working id 4 4 = some c) (hr : SMap.find s.rowWork id = none) :
    let a := c.agent
    let h : TableHdr := { raw := c.captured heldTable }
    let n := c.n 40 4
    let reads := [(c.n 24 8, 8 * n), (c.n 32 8, n * h.stride)]
    let ib := s.vbytes a (c.n 24 8) (8 * n)
    let sb := s.vbytes a (c.n 32 8) (n * h.stride)
    let rows := ((List.range n).map fun i => (numAt ib (8 * i) 8, bytesAt sb (i * h.stride) h.stride)).filter fun e => decide (e.1 < h.rows)
    s.readable a reads = .ok () → s.regionsMeet a reads (h.rowRegions (rows.map Prod.fst).eraseDups) = false →
    exec (.astRowReplace id ext) s = .next (((s.countRegions a reads).clearPool id).writeRows id (actionsOf ext n)
      { later := [], todo := rows, update := false, step := .lock, since := s.now, dropped := decide (rows.length < n), skipped := 0
        flags := 0, bad := s.regionsPoisoned a reads }) := by
  intro a h n reads ib sb rows hread hmeet
  show execAstRowReplace id ext s = _
  unfold execAstRowReplace
  rw [hw]
  dsimp only
  rw [hr]
  dsimp only
  rw [State.withReads_ok hread]
  exact congrArg Host.Outcome.next (if_neg (Bool.eq_false_iff.mp hmeet))

theorem exec_astUpdate_start (hw : s.working id 4 3 = some c) (hr : SMap.find s.rowWork id = none) (hheld : s.mergeHeld = false) :
    let a := c.agent
    let h : TableHdr := { raw := c.captured heldTable }
    let n := c.n 48 4
    let g := c.desc (c.n 32 8)
    let reads := (c.n 24 8, 8 * n) :: g.readRegion 0 n
    let ib := s.vbytes a (c.n 24 8) (8 * n)
    let rows := ((List.range n).map fun i => (numAt ib (8 * i) 8, i)).filter fun e => decide (e.1 < h.rows)
    let grads := rows.map fun e => (e.1, collect ((List.range h.dim).map fun j => s.vecElem a g e.2 j))
    let table := h.rowRegions (rows.map Prod.fst).eraseDups
    s.readable a reads = .ok () → s.regionsMeet a reads table = false →
    s.regionsMeet a table [(c.n 40 8, Nat.min n 65536 * h.dim * 4)] = false →
    exec (.astUpdate id ext) s = .next (((s.countRegions a reads).clearPool id).writeRows id (actionsOf ext n)
      { later := grads.map fun e => (e.1, e.2.1), todo := [], update := true, step := .lock, since := s.now
        dropped := decide (rows.length < n), skipped := 0, flags := (grads.map fun e => e.2.2).foldl (· ||| ·) 0
        bad := s.regionsPoisoned a reads }) := by
  intro a h n g reads ib rows grads table hread hsource hscratch
  show execAstUpdate id ext s = _
  unfold execAstUpdate
  rw [hw]
  dsimp only
  rw [hr]
  dsimp only
  rw [if_neg (Bool.eq_false_iff.mp hheld), State.withReads_ok hread]
  refine congrArg Host.Outcome.next (if_neg ?_)
  rw [Bool.or_eq_true, not_or]
  exact ⟨Bool.eq_false_iff.mp hsource, Bool.eq_false_iff.mp hscratch⟩

/-! ### A row that is BUSY (R171) -/

section
variable {upd : Bool} {w : RowWork} (hw : s.working id 4 (if upd then 3 else 4) = some c) (hr : SMap.find s.rowWork id = some w)
  (hlock : w.step = .lock)
include hw hr hlock

/-- An update or replacement whose row was BUSY goes on. -/
theorem exec_rowBusyRetry_write :
    exec (.rowBusyRetry id ext) s = .next (s.writeRows id (actionsOf ext (w.todo.length + if upd then w.later.length else 0)) w) := by
  show execRowBusyRetry id ext s = _
  unfold execRowBusyRetry
  cases upd with
  | false =>
    rw [State.working_other hw (op' := 1) (by decide), State.working_other hw (op' := 2) (by decide),
      State.working_other hw (op' := 3) (by decide), show s.working id 4 4 = some c from hw, hr]
    dsimp only
    rw [if_pos hlock]
    rfl
  | true =>
    rw [State.working_other hw (op' := 1) (by decide), State.working_other hw (op' := 2) (by decide),
      show s.working id 4 3 = some c from hw, hr]
    dsimp only
    rw [if_pos hlock]
    rfl

end

/-- An action on a row that is found BUSY. -/
theorem State.lockStep_busy {va : Nat} {wb : List Byte} (hload : s.load c.agent va 8 = .ok wb) (hclean : s.regionPoisoned c.agent va 8 = false)
    (hbusy : (leNat wb).testBit 33 = true) : s.lockStep c va .lock = .busy (s.clearPool c.id) := by
  unfold State.lockStep
  dsimp only
  rw [hload]
  dsimp only
  rw [if_neg (Bool.eq_false_iff.mp hclean)]
  exact if_pos hbusy

/-- Flags gathered over a list are clear where none of its elements sets one. -/
theorem foldl_or_eq_zero_iff {α : Type} {k : Nat} {f : α → BitVec k} (l : List α) (g : BitVec k) :
    l.foldl (fun g x => g ||| f x) g = 0 ↔ g = 0 ∧ ∀ x ∈ l, f x = 0 := by
  induction l generalizing g with
  | nil => simp
  | cons x l ih =>
    rw [List.foldl_cons, ih, List.forall_mem_cons, show (g ||| f x = 0 ↔ g = 0 ∧ f x = 0) from BitVec.or_eq_zero_iff, and_assoc]

section
variable {w : RowWork} {r v : Nat} {img : List Byte} {rest : List (Nat × List Byte)} {h : TableHdr}
  (hh : h = { raw := c.captured heldTable }) (htodo : w.todo = (r, img) :: rest)
include hh htodo

/-- Work left off at a BUSY row ends after 10 ms, else waits (R171). -/
theorem State.writeStep_busy {wb : List Byte} (hlock : w.step = .lock)
    (hload : s.load c.agent (h.ctrlAt r) 8 = .ok wb) (hclean : s.regionPoisoned c.agent (h.ctrlAt r) 8 = false)
    (hbusy : (leNat wb).testBit 33 = true) (hfinite : cmdOpcode c.word = 3 → ∀ x ∈ f32Words img, readFlags (val32 x) = 0) :
    s.writeStep c w = if 10000000 ≤ (s.now - w.since).toNat then .over ((s.clearPool c.id).workDone c 0x57 w.result)
      else .stop (s.clearPool c.id) w := by
  have hw : ({ w with todo := (r, img) :: rest, step := .lock } : RowWork) = w := by rw [← htodo, ← hlock]
  have hrf : (if (decide (cmdOpcode c.word = 3) && decide (RowStep.lock = RowStep.lock)) = true then
      (f32Words img).foldl (fun f x => f ||| readFlags (val32 x)) 0 else 0) = (0 : NFlags) := by
    split
    · next hupd =>
      rw [Bool.and_eq_true, decide_eq_true_eq] at hupd
      exact (foldl_or_eq_zero_iff _ _).mpr ⟨rfl, hfinite hupd.1⟩
    · rfl
  subst hh
  unfold State.writeStep
  dsimp only
  rw [htodo]
  dsimp only
  rw [hlock, hrf, if_neg (not_not_intro rfl)]
  dsimp only
  rw [State.lockStep_busy hload hclean hbusy]
  dsimp only
  rw [hw]
  exact if_congr decide_eq_true_iff rfl rfl

omit hh in
/-- A merged gradient with a NaN or an infinity leaves its row unchanged (R175). -/
theorem State.writeStep_skip (hop : cmdOpcode c.word = 3) (hlock : w.step = .lock) (hbad : ∃ x ∈ f32Words img, readFlags (val32 x) ≠ 0) :
    ∃ f, s.writeStep c w = .more s { w with todo := rest, since := s.now, skipped := w.skipped + 1, flags := f } := by
  have hrf : (f32Words img).foldl (fun f x => f ||| readFlags (val32 x)) 0 ≠ (0 : NFlags) := by
    obtain ⟨x, hx, hne⟩ := hbad
    exact fun he => hne (((foldl_or_eq_zero_iff _ _).mp he).2 x hx)
  refine ⟨w.flags ||| (f32Words img).foldl (fun f x => f ||| readFlags (val32 x)) 0, ?_⟩
  unfold State.writeStep
  dsimp only
  rw [htodo]
  dsimp only
  rw [hlock, decide_eq_true hop, decide_eq_true (rfl : RowStep.lock = .lock), Bool.and_self, if_pos rfl, if_pos hrf]

section
variable (hheld : w.step = .held v)
include hheld

/-- A locked row gets an image that leaves nothing of the old one (R177). -/
theorem State.writeStep_replace {ps : List (Nat × Nat)} (hop : cmdOpcode c.word ≠ 3) (hkeep : c.bit 44 0 = false)
    (hps : s.pieces c.agent (h.slot r (1 - bitsOf v 32 1)) h.stride true = .ok ps) :
    s.writeStep c w = .more (s.store c.agent c.core c.cls3 (h.slot r (1 - bitsOf v 32 1)) img w.bad)
      { w with step := .finish v (nextCtrl v), flags := w.flags ||| 0, bad := w.bad } := by
  subst hh
  unfold State.writeStep
  dsimp only
  rw [htodo]
  dsimp only
  rw [hheld, decide_eq_false hop, Bool.false_and, if_neg Bool.false_ne_true, if_neg (not_not_intro rfl), Bool.false_or]
  dsimp only
  rw [if_neg (Bool.eq_false_iff.mp hkeep), hps]
  dsimp only
  rw [ Cmd.newRow, if_neg hop, replaceRow, if_neg (Bool.eq_false_iff.mp hkeep), Bool.or_false]

/-- A locked row gets an image made from the old one (R176, R177). -/
theorem State.writeStep_renew {old : List Byte} {b : Bool} {ps : List (Nat × Nat)} (hop : cmdOpcode c.word = 3 ∨ c.bit 44 0 = true)
    (hload : s.rowLoad c (h.slot r (bitsOf v 32 1)) h.stride = .ok t old b)
    (hps : t.pieces c.agent (h.slot r (1 - bitsOf v 32 1)) h.stride true = .ok ps) :
    s.writeStep c w = .more (t.store c.agent c.core c.cls3 (h.slot r (1 - bitsOf v 32 1)) (c.newRow h img old).1 (w.bad || b))
      { w with step := .finish v (nextCtrl v), flags := w.flags ||| (c.newRow h img old).2, bad := w.bad || b } := by
  subst hh
  have hread : (decide (cmdOpcode c.word = 3) || c.bit 44 0) = true := by rwa [Bool.or_eq_true, decide_eq_true_eq]
  unfold State.writeStep
  dsimp only
  rw [htodo]
  dsimp only
  rw [hheld, decide_eq_false (show ¬ RowStep.held v = .lock from nofun), Bool.and_false, if_neg Bool.false_ne_true,
    if_neg (not_not_intro rfl)]
  dsimp only
  rw [if_pos hread, hload]
  dsimp only
  rw [hps]

end

end

/-! ### Locking a row, and writing its control word (R171) -/

/-- An AMO on a row of this module is done at once. -/
theorem State.rowAmo_here {va fn new expected : Nat} {ps : List (Nat × Nat)} (hps : s.pieces c.agent va 8 true = .ok ps)
    (hregion : regionOf (ps.headD (0, 0)).1 ≠ .pool) :
    s.rowAmo c va fn new expected = .ok (s.store c.agent c.core c.cls3 va (toLE 8 new) false, true) := by
  unfold State.rowAmo
  rw [hps]
  dsimp only
  rw [if_neg hregion]

/-- A row that is not BUSY is locked. -/
theorem State.lockStep_free {va : Nat} {wb : List Byte} {ps : List (Nat × Nat)} (hload : s.load c.agent va 8 = .ok wb)
    (hclean : s.regionPoisoned c.agent va 8 = false) (hbusy : (leNat wb).testBit 33 = false)
    (hps : (s.clearPool c.id).pieces c.agent va 8 true = .ok ps) (hregion : regionOf (ps.headD (0, 0)).1 ≠ .pool) :
    s.lockStep c va .lock =
      .on ((s.clearPool c.id).store c.agent c.core c.cls3 va (toLE 8 (leNat wb + 2 ^ 33)) false) (.held (leNat wb)) := by
  unfold State.lockStep
  dsimp only
  rw [hload]
  dsimp only
  rw [if_neg (Bool.eq_false_iff.mp hclean), if_neg (show ¬ rowBusy (leNat wb) = true from Bool.eq_false_iff.mp hbusy),
    State.rowAmo_here hps hregion]

/-- The control word of a written row takes its new value. -/
theorem State.lockStep_finish {va w v : Nat} {ps : List (Nat × Nat)} (hacked : s.writesOf c.core c.job (c.id + 1) = false)
    (hgood : SMap.find s.writeFail c.id = none) (hps : s.pieces c.agent va 8 true = .ok ps) (hregion : regionOf (ps.headD (0, 0)).1 ≠ .pool) :
    s.lockStep c va (.finish w v) = .on (s.store c.agent c.core c.cls3 va (toLE 8 v) false) .first := by
  unfold State.lockStep
  dsimp only
  rw [if_neg (Bool.eq_false_iff.mp hacked), hgood, State.rowAmo_here hps hregion]
  rfl

/-! ### Reading a row (R170) -/

/-- Did a control word stand, or rise by 1 with BUSY clear? -/
theorem ctrlStood_iff (w2 w : Nat) :
    (BitVec.ofNat 32 w2 = BitVec.ofNat 32 w ∨ (BitVec.ofNat 32 w2 = BitVec.ofNat 32 w + 1 ∧ rowBusy w2 = false)) ↔
      (w2 % 2 ^ 32 = w % 2 ^ 32 ∨ (w2 % 2 ^ 32 = (w + 1) % 2 ^ 32 ∧ w2.testBit 33 = false)) := by
  have hof (x y : Nat) : BitVec.ofNat 32 x = BitVec.ofNat 32 y ↔ x % 2 ^ 32 = y % 2 ^ 32 := by
    rw [BitVec.toNat_eq, BitVec.toNat_ofNat, BitVec.toNat_ofNat]
  rw [show BitVec.ofNat 32 w + 1 = BitVec.ofNat 32 (w + 1) from (BitVec.ofNat_add w 1).symm, hof, hof]
  rfl

section
variable {spec : Bool} {r : RowRead} {k n : Nat} {rest : List (Nat × Nat)} {bs : List Byte} {b : Bool} {h : TableHdr}
  (hh : h = { raw := c.captured k }) (htodo : r.todo = (k, n) :: rest)
include hh htodo

theorem State.readStep_first (hstep : r.step = .first) (hload : s.rowLoad c (h.ctrlAt n) 8 = .ok t bs b) :
    s.readStep c spec r = .more t { r with step := .slot (leNat bs) b } := by
  subst hh
  unfold State.readStep
  rw [htodo]
  dsimp only
  rw [hstep]
  dsimp only
  rw [hload]

theorem State.readStep_slot {w : Nat} {bad : Bool} (hstep : r.step = .slot w bad)
    (hload : s.rowLoad c (h.slot n (bitsOf w 32 1)) h.stride = .ok t bs b) :
    s.readStep c spec r = .more t { r with step := .second w bs (bad || b) } := by
  subst hh
  unfold State.readStep
  rw [htodo]
  dsimp only
  rw [hstep]
  dsimp only
  rw [hload]

/-- The second read of the control word. -/
theorem State.readStep_second {w : Nat} {data : List Byte} {bad : Bool} (hstep : r.step = .second w data bad)
    (hload : s.rowLoad c (h.ctrlAt n) 8 = .ok t bs b) :
    s.readStep c spec r =
      if leNat bs % 2 ^ 32 = w % 2 ^ 32 ∨ (leNat bs % 2 ^ 32 = (w + 1) % 2 ^ 32 ∧ (leNat bs).testBit 33 = false) then
        .more t { r with todo := rest, got := r.got ++ [(BitVec.ofNat 32 w, data, bad || b)], step := .first, tries := 0 }
      else if r.tries < 15 then .more (t.bump Reg.astRowRetry 1) { r with step := .first, tries := r.tries + 1 }
      else if spec then .stop (t.bump Reg.astRowRetry 1) { r with step := .first }
      else .more t { r with step := .lock, since := s.now } := by
  subst hh
  unfold State.readStep
  rw [htodo]
  dsimp only
  rw [hstep]
  dsimp only
  rw [hload]
  exact if_congr (ctrlStood_iff _ _) rfl rfl

theorem State.readStep_held {w : Nat} (hstep : r.step = .held w) (hload : s.rowLoad c (h.slot n (bitsOf w 32 1)) h.stride = .ok t bs b) :
    s.readStep c spec r = .more t { r with got := r.got ++ [(BitVec.ofNat 32 w, bs, b)], step := .finish w w } := by
  subst hh
  unfold State.readStep
  rw [htodo]
  dsimp only
  rw [hstep]
  dsimp only
  rw [hload]

end

end

end Sys2Proof.Machine
end

section
/-!
Rows gathered, replaced and updated (R170–R177).
-/

namespace Sys2Proof.Machine

section
variable {c : Cmd} {s : State} {id : Nat} (ext : Ext)

theorem actionsOf_ne_zero (rows : Nat) : actionsOf ext rows ≠ 0 := by
  unfold actionsOf
  split
  · omega
  · next h => exact h

/-- A replacement or update whose row was BUSY: it goes on, and at a row still BUSY it waits or, after 10 ms, ends (R171). -/
theorem rowBusyRetry_write_spec {upd : Bool} {w : RowWork} (hw : s.working id 4 (if upd then 3 else 4) = some c)
    (hr : SMap.find s.rowWork id = some w) (hlock : w.step = .lock) {r : Nat} {img wb : List Byte} {rest : List (Nat × List Byte)}
    {h : TableHdr} (hh : h = { raw := c.captured heldTable }) (htodo : w.todo = (r, img) :: rest)
    (hload : s.load c.agent (h.ctrlAt r) 8 = .ok wb) (hclean : s.regionPoisoned c.agent (h.ctrlAt r) 8 = false)
    (hbusy : (leNat wb).testBit 33 = true) (hfinite : upd = true → ∀ x ∈ f32Words img, readFlags (val32 x) = 0) :
    ((s.now - w.since).toNat < 10000000 →
      ∃ t, exec (.rowBusyRetry id ext) s = .next t ∧ t = { s with cmds := t.cmds, rowWork := t.rowWork } ∧
        t.cmd id = some { c with pool := [] } ∧ (∀ j, j ≠ id → t.cmd j = s.cmd j) ∧
        ∀ k, SMap.find t.rowWork k = SMap.find s.rowWork k) ∧
    (10000000 ≤ (s.now - w.since).toNat →
      ∃ t, exec (.rowBusyRetry id ext) s = .next t ∧ t = { s with cmds := t.cmds } ∧
        WorkEnds s t c 0x57 (flagsResult w.flags (2 ^ 23 * b2n w.dropped + Nat.min 65535 w.skipped))) := by
  have hx := exec_rowBusyRetry_write ext hw hr hlock
  have hc := State.cmd_of_working hw
  have hop := State.opcode_of_working hw
  obtain rfl := State.id_of_working hw
  obtain ⟨fuel, hfuel⟩ := Nat.exists_eq_succ_of_ne_zero (actionsOf_ne_zero ext (w.todo.length + if upd then w.later.length else 0))
  have hupd : cmdOpcode c.word = 3 → upd = true := by
    cases upd with
    | false => exact fun h3 => absurd (hop.symm.trans h3) (by decide)
    | true => exact fun _ => rfl
  have hstep := State.writeStep_busy hh htodo hlock hload hclean hbusy fun h3 => hfinite (hupd h3)
  have hclear := (RowFrame.refl hc).clearPool
  rw [hfuel, State.writeRows, hc] at hx
  dsimp only at hx
  rw [hstep] at hx
  constructor
  · intro hshort
    rw [if_neg (by omega)] at hx
    obtain ⟨p, hp⟩ := hclear.own
    have hset := State.cmd_setCmd (d := { c with pool := [] }) hc
    rw [State.clearPool_eq hc] at hx
    refine ⟨_, hx, rfl, (hset _).trans (if_pos rfl), fun j hj => (hset j).trans (if_neg hj), fun k => (SMap.find_insert _ _ _ _).trans ?_⟩
    split
    · next hk => rw [hk, hr]
    · rfl
  · intro hlong
    rw [if_pos hlong] at hx
    refine ⟨_, hx, ?_, (hclear.workDone c.pool _ _).2⟩
    rw [State.clearPool_eq hc]
    rfl

end

/-- Settles O22: each run is carried through the rows' actions, every one of which changes what its command's work may and its answers. -/
theorem asterRows : Obligations.AsterRows := by
  unfold Obligations.AsterRows
  intro id ext c s a h written gathered
  refine ⟨?_, ?_, ?_, ?_, ?_, ?_, ?_, ?_, ?_⟩
  · intro u ib bad hw hr hload n ixs rows out
    have hx := exec_astGather_start ext hw hr hload
    have hc := State.cmd_of_working hw
    dsimp only at hx
    constructor
    · intro hmeet
      rw [if_pos hmeet] at hx
      obtain ⟨t, hx, hframe, hends, hmem⟩ := WorkFrame.refl.exec_ends hc hx
      exact ⟨t, hx, hframe, hmem, hends⟩
    · intro hmeet v x
      rw [if_neg (Bool.eq_false_iff.mp hmeet)] at hx
      obtain rfl := State.id_of_working hw
      exact State.goGather_ends hx ((State.rowLoad_frame hc).1 _ _ _ hload)
  · intro r hw hr hlock v x
    have hx := exec_rowBusyRetry_gather ext hw hr hlock
    obtain rfl := State.id_of_working hw
    exact State.goGather_ends hx (.refl (State.cmd_of_working hw))
  · intro hw hr n reads ib sb rows hread hmeet k v x
    have hx := exec_astRowReplace_start ext hw hr hread hmeet
    obtain rfl := State.id_of_working hw
    exact WriteSteps.exec_ends hx (State.countRegions_rowFrame (State.cmd_of_working hw) _)
  · intro hw hr hheld n g reads ib rows grads table hread hsource hscratch k v x
    have hx := exec_astUpdate_start ext hw hr hheld hread hsource hscratch
    obtain rfl := State.id_of_working hw
    exact WriteSteps.exec_ends hx (State.countRegions_rowFrame (State.cmd_of_working hw) _)
  · intro upd w hw hr hlock
    constructor
    · intro k v x
      have hx := exec_rowBusyRetry_write ext hw hr hlock
      obtain rfl := State.id_of_working hw
      exact WriteSteps.exec_ends hx (.refl (State.cmd_of_working hw))
    · intro r img rest wb htodo hload hclean hbusy hfinite
      exact rowBusyRetry_write_spec ext hw hr hlock rfl htodo hload hclean hbusy hfinite
  · intro spec r k n rest t bs b htodo h' w2
    refine ⟨fun hstep hload => State.readStep_first rfl htodo hstep hload, fun w bad hstep hload => State.readStep_slot rfl htodo hstep hload,
      fun w data bad hstep hload => ?_, fun w hstep hload => State.readStep_held rfl htodo hstep hload⟩
    have hsecond := State.readStep_second (spec := spec) rfl htodo hstep hload
    refine ⟨fun hsame => hsecond.trans (if_pos hsame), fun hother hfew => hsecond.trans ((if_neg hother).trans (if_pos hfew)), ?_⟩
    intro hother hmany hspec
    exact hsecond.trans ((if_neg hother).trans ((if_neg (by omega)).trans (if_neg (Bool.eq_false_iff.mp hspec))))
  · intro va wb hload hclean w
    exact ⟨State.lockStep_busy hload hclean, fun ps hfree hps hregion => State.lockStep_free hload hclean hfree hps hregion⟩
  · intro va w v ps hacked hgood hps hregion
    exact State.lockStep_finish hacked hgood hps hregion
  · intro w r v img rest htodo
    refine ⟨fun hop hlock hbad => State.writeStep_skip htodo hop hlock hbad, ?_⟩
    intro hheld live next puts
    constructor
    · intro hop hkeep ps hps
      exact State.writeStep_replace rfl htodo hheld hop hkeep hps
    · intro t old b ps hload hps
      refine ⟨fun hop hkeep => ?_, fun hop => ?_⟩
      · have hput := State.writeStep_renew rfl htodo hheld (.inr hkeep) hload hps
        rw [Cmd.newRow, if_neg hop, replaceRow, if_pos hkeep] at hput
        exact hput
      · have hput := State.writeStep_renew rfl htodo hheld (.inl hop) hload hps
        rw [Cmd.newRow, if_pos hop] at hput
        exact hput

end Sys2Proof.Machine
end

section
/-!
SUPPORT. A store looks neither at the commands nor at the re-rank sessions.
-/

namespace Sys2Proof.Machine

/-- The same state with other commands and other re-rank sessions. -/
def State.besides (s : State) (cs : List Cmd) (xs : SMap Session) : State := { s with cmds := cs, sessions := xs }

section
variable (s : State) (cs : List Cmd) (xs : SMap Session)

theorem State.besides_mem : (s.besides cs xs).mem = s.mem := rfl

/-! ### Translation -/

theorem State.walk_besides (va : Nat) (write : Bool) (fuel l table : Nat) :
    (s.besides cs xs).walk va write fuel l table = s.walk va write fuel l table := by
  induction fuel generalizing l table with
  | zero => rfl
  | succ fuel ih =>
    unfold State.walk
    dsimp only
    rw [ih]
    rfl

theorem State.translate_besides (job : BitVec 16) (va : Nat) (write : Bool) :
    (s.besides cs xs).translate job va write = s.translate job va write := by
  unfold State.translate
  simp only [State.walk_besides]
  rfl

theorem State.barred_besides (pa : Nat) : (s.besides cs xs).barred pa = s.barred pa := by
  unfold State.barred
  rfl

theorem State.reg_besides (a : Nat) : (s.besides cs xs).reg a = s.reg a := rfl

theorem State.bytes_besides (a n : Nat) : (s.besides cs xs).bytes a n = s.bytes a n := rfl

theorem State.moduleId_besides : (s.besides cs xs).moduleId = s.moduleId := rfl

theorem State.outside_besides (dst : Nat) : (s.besides cs xs).outside dst = s.outside dst := rfl

theorem State.exportAt_besides (slot key : Nat) (write : Bool) : (s.besides cs xs).exportAt slot key write = s.exportAt slot key write := by
  unfold State.exportAt
  rw [State.reg_besides]
  rfl

theorem State.poolTarget_besides (pa : Nat) (write : Bool) : (s.besides cs xs).poolTarget pa write = s.poolTarget pa write := by
  unfold State.poolTarget
  dsimp only
  rw [State.reg_besides, State.bytes_besides, State.moduleId_besides, State.outside_besides, State.exportAt_besides]
  simp only [State.barred_besides]

theorem State.pieces_besides (a : Agent) (va n : Nat) (write : Bool) : (s.besides cs xs).pieces a va n write = s.pieces a va n write := by
  unfold State.pieces
  simp only [State.translate_besides, State.barred_besides, State.poolTarget_besides]

/-! ### Loops and counters -/

theorem State.foldl_besides {β : Type} {g : State → β → State} (l : List β)
    (hg : ∀ t x, g (t.besides cs xs) x = (g t x).besides cs xs) : l.foldl g (s.besides cs xs) = (l.foldl g s).besides cs xs :=
  List.foldl_hom (fun t : State => t.besides cs xs) hg

theorem State.bump_besides (a n : Nat) : (s.besides cs xs).bump a n = (s.bump a n).besides cs xs := by
  unfold State.bump
  dsimp only
  rw [show (s.besides cs xs).reg a = s.reg a from rfl]
  split
  · rfl
  split
  · rfl
  split
  · rfl
  · rfl

theorem State.squash_besides (src g n : Nat) : (s.besides cs xs).squash src g n = (s.squash src g n).besides cs xs := by
  unfold State.squash
  split
  · rfl
  · rw [State.bump_besides, State.bump_besides]

theorem State.mmuFault_besides (job : BitVec 16) (agent : Nat) (f : MemFail) :
    (s.besides cs xs).mmuFault job agent f = (s.mmuFault job agent f).besides cs xs := by
  unfold State.mmuFault
  rw [show (s.besides cs xs).groupOfJob job = s.groupOfJob job from rfl]
  split
  · rfl
  split
  · rfl
  · rfl

/-! ### Memory of this module -/

theorem State.evict_besides (gone : AheadLine → Bool) : (s.besides cs xs).evict gone = (s.evict gone).besides cs xs := by
  unfold State.evict
  rw [show (s.besides cs xs).ahead = s.ahead from rfl]
  dsimp only
  split
  · rfl
  refine State.foldl_besides { s with ahead := _ } cs xs _ fun t l => ?_
  rw [State.squash_besides, State.bump_besides]
  split
  · rfl
  · rfl

theorem State.markWrite_besides (pa n : Nat) (bad : Bool) : (s.besides cs xs).markWrite pa n bad = (s.markWrite pa n bad).besides cs xs := by
  unfold State.markWrite
  refine State.foldl_besides s cs xs _ fun t u => ?_
  split
  · rfl
  split
  · rfl
  · rfl


theorem State.claim_besides (job : BitVec 16) (u : Nat) : (s.besides cs xs).claim job u = (s.claim job u).besides cs xs := by
  have howner : (s.besides cs xs).ownerOf u = s.ownerOf u := rfl
  unfold State.claim
  rw [howner]
  split
  · rfl
  · simp only [State.besides]

theorem State.ramWrite_besides (job : BitVec 16) (pa : Nat) (bs : List Byte) (bad : Bool) :
    (s.besides cs xs).ramWrite job pa bs bad = (s.ramWrite job pa bs bad).besides cs xs := by
  have hput (t : State) : ((((t.besides cs xs).putBytes pa bs).markWrite pa bs.length bad).dropLines pa bs.length) =
      (((t.putBytes pa bs).markWrite pa bs.length bad).dropLines pa bs.length).besides cs xs := by
    rw [show (t.besides cs xs).putBytes pa bs = (t.putBytes pa bs).besides cs xs from rfl, State.markWrite_besides]
    exact State.evict_besides _ cs xs _
  unfold State.ramWrite
  dsimp only
  split
  · rw [State.foldl_besides s cs xs _ fun t u => t.claim_besides cs xs job u, hput]
  · exact hput s

theorem State.overwrites_besides (job : BitVec 16) (cmd pa n : Nat) :
    (s.besides cs xs).overwrites job cmd pa n = (s.overwrites job cmd pa n).besides cs xs := by
  unfold State.overwrites
  split
  · rfl
  · rfl

/-! ### Memory of peers -/

theorem State.enqueueAt_besides (p : Nat) (m : Msg) : (s.besides cs xs).enqueueAt p m = (s.enqueueAt p m).besides cs xs := by
  unfold State.enqueueAt
  dsimp only
  rw [show (s.besides cs xs).egress p m.cls.toNat = s.egress p m.cls.toNat from rfl]
  split
  · rfl
  · rfl

theorem State.sendRouted_besides (m : Msg) (p : Option Nat) :
    (s.besides cs xs).sendRouted m p = (s.sendRouted m p).map fun t => t.besides cs xs := by
  unfold State.sendRouted
  rw [show (s.besides cs xs).outside m.dst.toNat = s.outside m.dst.toNat from rfl,
    show (s.besides cs xs).route m.dst.toNat m.vc p = s.route m.dst.toNat m.vc p from rfl]
  split
  · rfl
  split
  · rfl
  · next q vc _ =>
    rw [show (s.besides cs xs).port q = s.port q from rfl]
    split
    · rfl
    · exact congrArg Except.ok (s.enqueueAt_besides cs xs q _)

theorem State.request_besides (r : Req) (typ : Byte) (cls : BitVec 3) (poison : Bool) (payload : List Byte) :
    (s.besides cs xs).request r typ cls poison payload = (s.request r typ cls poison payload).map fun t => t.besides cs xs := by
  unfold State.request
  dsimp only
  rw [State.sendRouted_besides, show (s.besides cs xs).moduleId = s.moduleId from rfl, show (s.besides cs xs).nextTag = s.nextTag from rfl]
  cases s.sendRouted _ none with
  | error e => rfl
  | ok t => rfl

theorem State.dropHome_besides (home n : Nat) : (s.besides cs xs).dropHome home n = (s.dropHome home n).besides cs xs :=
  State.evict_besides { s with reqs := s.reqs.map fun e => (e.1, e.2.withoutLine home n) } cs xs _

theorem State.failedWrite_besides (core : CoreId) (cmd : Nat) (peer : BitVec 16) (code : Byte) :
    (s.besides cs xs).failedWrite core cmd peer code = (s.failedWrite core cmd peer code).besides cs xs := by
  unfold State.failedWrite
  extract_lets d t e u
  have ht : t = u.besides cs xs := rfl
  have hfail : (u.besides cs xs).writeFail = u.writeFail := rfl
  clear_value t
  subst ht
  rw [hfail]
  split
  · rfl
  · rfl

theorem State.poolWrite_besides (core : CoreId) (job : BitVec 16) (cmd : Nat) (cls : BitVec 3) (va pa : Nat) (bs : List Byte) (bad : Bool) :
    (s.besides cs xs).poolWrite core job cmd cls va pa bs bad = (s.poolWrite core job cmd cls va pa bs bad).besides cs xs := by
  unfold State.poolWrite
  rw [State.poolTarget_besides]
  split
  · exact State.failedWrite_besides _ cs xs _ _ _ _
  · rw [State.overwrites_besides, State.ramWrite_besides]
  · rw [State.dropHome_besides]
    refine State.foldl_besides _ cs xs _ fun t e => ?_
    rw [State.request_besides]
    cases t.request _ 0x03 cls bad _ with
    | error code => exact t.failedWrite_besides cs xs _ _ _ _
    | ok u => rfl

/-! ### Stores -/

theorem State.writePiece_besides (a : Agent) (core : CoreId) (cls : BitVec 3) (va pa : Nat) (bs : List Byte) (bad : Bool) :
    (s.besides cs xs).writePiece a core cls va pa bs bad = (s.writePiece a core cls va pa bs bad).besides cs xs := by
  unfold State.writePiece
  split
  · exact s.poolWrite_besides cs xs _ _ _ _ _ _ _ _
  · rfl
  · rfl
  · rfl
  · rw [State.overwrites_besides, State.ramWrite_besides]

/-- A store with other commands and sessions beside it. -/
theorem State.store_besides (a : Agent) (core : CoreId) (cls : BitVec 3) (va : Nat) (bs : List Byte) (bad : Bool) :
    (s.besides cs xs).store a core cls va bs bad = (s.store a core cls va bs bad).besides cs xs := by
  have hfail : (s.besides cs xs).writeFail = s.writeFail := rfl
  unfold State.store
  rw [State.pieces_besides, hfail]
  split
  · rw [State.mmuFault_besides]
    dsimp only
    split
    · rfl
    · rfl
  · exact congrArg Prod.fst (List.foldl_hom (fun x : State × Nat × List Byte => (x.1.besides cs xs, x.2)) (init := (s, va, bs)) fun x e => by
      rw [State.writePiece_besides])

end

end Sys2Proof.Machine
end

section
/-!
SUPPORT. What the acts of a re-rank session leave alone (R178–R186).
-/

namespace Sys2Proof.Machine

section
variable {s t u : State} {c : Cmd}

theorem SessionFrame.refl : SessionFrame s s := ⟨rfl, fun _ => rfl⟩

theorem SessionFrame.trans (h : SessionFrame s t) (hu : SessionFrame t u) : SessionFrame s u := by
  obtain ⟨hf, hc⟩ := h
  obtain ⟨hg, hd⟩ := hu
  refine ⟨?_, fun n => (hd n).trans (by rw [hc n])⟩
  rw [hg, hf]

theorem SessionFrame.foldl {β : Type} {g : State → β → State} (l : List β) (h : SessionFrame s t) (hg : ∀ t x, SessionFrame t (g t x)) :
    SessionFrame s (l.foldl g t) :=
  List.foldlRecOn (motive := SessionFrame s) _ _ h fun _ hu _ _ => hu.trans (hg _ _)

theorem WorkFrame.keepsCore (h : WorkFrame c s t) (n : CoreId) : t.core n = { s.core n with writeFailed := (t.core n).writeFailed } := by
  obtain ⟨-, hcores, hcore, -⟩ := h
  by_cases hn : n = c.core
  · rw [hn]
    exact hcore
  · rw [hcores n hn]
    rfl

theorem WorkFrame.sessionFrame (h : WorkFrame c s t) : SessionFrame s t := by
  refine ⟨?_, h.keepsCore⟩
  rw [h.1]

theorem RowFrame.sessionFrame (h : RowFrame c s t) : SessionFrame s t :=
  SessionFrame.trans (t := { s with cmds := t.cmds }) ⟨rfl, fun _ => rfl⟩ h.work.sessionFrame

theorem SessionFrame.foldl_fst {β γ : Type} {g : State × γ → β → State × γ} (l : List β) {p : State × γ}
    (hg : ∀ q x, SessionFrame q.1 (g q x).1) : SessionFrame p.1 (l.foldl g p).1 :=
  List.foldlRecOn (motive := fun q : State × γ => SessionFrame p.1 q.1) _ _ .refl fun _ hq _ _ => hq.trans (hg _ _)

theorem RegsOnly.sessionFrame (h : RegsOnly s t) : SessionFrame s t := by
  rw [h]
  exact ⟨rfl, fun _ => rfl⟩

section
variable (s c)

theorem State.setSession_frame (id : Nat) (x : Session) : SessionFrame s (s.setSession id x) := ⟨rfl, fun _ => rfl⟩

theorem State.setRowReads_frame (m : SMap RowRead) : SessionFrame s { s with rowReads := m } := ⟨rfl, fun _ => rfl⟩

theorem State.setSessions_frame (m : SMap Session) : SessionFrame s { s with sessions := m } := ⟨rfl, fun _ => rfl⟩

theorem State.dropCmds_frame (f : Cmd → Bool) : SessionFrame s (s.dropCmds f) := ⟨rfl, fun _ => rfl⟩

theorem State.workDone_frame (status : Byte) (result : BitVec 32) : SessionFrame s (s.workDone c status result) := ⟨rfl, fun _ => rfl⟩

theorem State.clearPool_frame (id : Nat) : SessionFrame s (s.clearPool id) := by
  unfold State.clearPool
  split
  · exact .refl
  · exact ⟨rfl, fun _ => rfl⟩

theorem State.store_sessionFrame (va : Nat) (bs : List Byte) (bad : Bool) : SessionFrame s (s.store c.agent c.core c.cls3 va bs bad) :=
  (State.store_workFrame c s _ va bs bad).sessionFrame

/-! ### Speculation counted, words put -/

theorem State.squash_sessionFrame (src g n : Nat) : SessionFrame s (s.squash src g n) := (s.squash_fields src g n).sessionFrame

theorem State.bump_sessionFrame (a n : Nat) : SessionFrame s (s.bump a n) := (RegsOnly.refl.bump a n).sessionFrame

theorem State.validate_sessionFrame (src g n : Nat) : SessionFrame s (s.validate src g n) := by
  unfold State.validate
  split
  · exact .refl
  · exact s.bump_sessionFrame _ _

theorem State.squashCands_regsOnly (g : Nat) (cs : List Cand) : RegsOnly s (s.squashCands g cs) := by
  unfold State.squashCands
  dsimp only
  split
  · exact s.squash_fields _ _ _
  · exact (s.squash_fields _ _ _).bump _ _

theorem State.squashCands_sessionFrame (g : Nat) (cs : List Cand) : SessionFrame s (s.squashCands g cs) := (s.squashCands_regsOnly g cs).sessionFrame

theorem State.progress_sessionFrame (x : Session) : SessionFrame s (s.progress c x) := by
  unfold State.progress State.releasePut
  split
  · split
    · exact ⟨rfl, fun _ => rfl⟩
    · rw [State.unitPut_fields]
      exact ⟨rfl, fun _ => rfl⟩
  · exact .refl

/-! ### The ends of a session -/

theorem State.endSession_frame (x : Session) (code : Byte) (result : BitVec 32) : SessionFrame s (s.endSession c x code result) :=
  (((s.squashCands_sessionFrame _ _).trans (State.dropCmds_frame _ _)).trans (State.setSessions_frame _ _)).trans
    (State.workDone_frame _ c code result)

theorem State.faultSession_frame (x : Session) (f : MemFail) : SessionFrame s (s.faultSession c x f) :=
  (State.mmuFault_regsOnly s c.job 4 f).sessionFrame.trans (State.endSession_frame _ c x f.code 0)

theorem State.closeSession_frame (x : Session) (l : List Byte) : SessionFrame s (s.closeSession c x l) := by
  unfold State.closeSession
  dsimp only
  split
  · exact (((s.store_sessionFrame c _ _ _).trans (State.store_sessionFrame _ c _ _ _)).trans (State.setSessions_frame _ _)).trans
      (State.workDone_frame _ c _ _)
  · exact s.faultSession_frame c x _
  · exact s.faultSession_frame c x _

/-! ### Lists, candidates and batches -/

theorem State.takeProv_frame (x : Session) (l : List Byte) : SessionFrame s (s.takeProv c x l) :=
  (s.setSession_frame _ _).trans (State.clearPool_frame _ _)

theorem State.takeFinal_frame (x : Session) (status : Byte) (l : List Byte) : SessionFrame s (s.takeFinal c x status l) := by
  unfold State.takeFinal
  split
  · exact s.endSession_frame c x _ _
  split
  · exact s.faultSession_frame c x _
  · refine SessionFrame.trans (SessionFrame.trans ?_ (State.setSession_frame _ _ _)) (State.clearPool_frame _ _)
    split
    · exact s.store_sessionFrame c _ _ _
    · exact .refl

theorem State.validScore_frame (x : Session) (p : Nat) (sc : BitVec 32) : SessionFrame s (s.validScore c x p sc).1 := by
  refine SessionFrame.foldl_fst (p := (s, x)) _ fun q e => ?_
  dsimp only
  split
  · exact q.1.store_sessionFrame c _ _ _
  · exact .refl

theorem State.settle_frame (x : Session) (d : Cand) : SessionFrame s (s.settle c x d).1 := by
  unfold State.settle
  dsimp only
  split
  · exact s.squashCands_sessionFrame _ _
  split
  · exact ((s.validate_sessionFrame _ _ _).trans (State.bump_sessionFrame _ _ _)).trans (State.validScore_frame _ c _ _ _)
  · exact (s.squash_sessionFrame _ _ _).trans (State.bump_sessionFrame _ _ _)

theorem State.settleBatch_frame (x : Session) (cs : List Cand) : SessionFrame s (s.settleBatch c x cs) :=
  (((SessionFrame.foldl_fst (p := (s, _)) cs fun q d => q.1.settle_frame c q.2 d).trans (State.progress_sessionFrame _ c _)).trans
    (State.setSession_frame _ _ _)).trans (State.clearPool_frame _ _)

theorem State.enter_frame (job qid : BitVec 16) (n : CoreId) (word : List Byte) (session : Nat) (may : Option (Nat × Nat)) :
    SessionFrame s (s.enter n job qid word session may) := by
  unfold State.enter
  dsimp only
  split
  · exact ⟨rfl, fun _ => rfl⟩
  · exact ⟨rfl, fun _ => rfl⟩

theorem State.dispatch_frame (x : Session) (b : Gather) (r : RowRead) : SessionFrame s (s.dispatch c x b r) := by
  refine SessionFrame.trans (SessionFrame.foldl _ (SessionFrame.foldl _ .refl fun t j => ?_) fun t i => ?_)
    ((State.setRowReads_frame _ _).trans (State.setSession_frame _ _ _))
  · exact SessionFrame.foldl _ .refl fun t e => t.store_sessionFrame c _ _ _
  · exact t.enter_frame _ _ _ _ _ _

end

/-! ### A session's acts -/

/-- An act of a session leaves a state in which P holds. -/
def SessionNext.Keeps (P : State → Prop) : SessionNext → Prop
  | .more t => P t
  | .stop t => P t

theorem State.listLoad_workFrame {va : Nat} {l : List Byte} {bad : Bool} (h : s.listLoad c va = .ok t l bad) : WorkFrame c s t := by
  unfold State.listLoad at h
  split at h
  · split at h
    · exact nomatch h
    · exact nomatch h
  · obtain ⟨rfl, -⟩ := RowLoad.ok.inj h
    exact State.countRegion_workFrame c s _ _ _

section
variable (hc : s.cmd c.id = some c) (x : Session)
include hc

/-- A list read for a session, or asked for. -/
theorem State.listLoad_frame {va : Nat} : (∀ t l bad, s.listLoad c va = .ok t l bad → SessionFrame s t) ∧
    ∀ t, s.listLoad c va = .wait t → SessionFrame s t := by
  refine ⟨fun t l bad h => (State.listLoad_workFrame h).sessionFrame, fun t h => ?_⟩
  unfold State.listLoad at h
  split at h
  · split at h
    · exact nomatch h
    · obtain rfl := RowLoad.wait.inj h
      exact ((RowFrame.refl hc).fetch rfl _ _).sessionFrame
  · exact nomatch h

theorem State.goBatch_frame (b : Gather) (fuel : Nat) (r : RowRead) : (s.goBatch c x b fuel r).Keeps (SessionFrame s) := by
  have hdrop (t : State) (ht : SessionFrame s t) (y : Session) :
      SessionFrame s ((({ t with rowReads := SMap.erase t.rowReads c.id } : State).setSession c.id y).clearPool c.id) :=
    ((ht.trans (t.setRowReads_frame _)).trans (State.setSession_frame _ _ _)).trans (State.clearPool_frame _ _)
  have hread := State.readRows_frame b.spec fuel r hc
  unfold State.goBatch
  dsimp only
  split
  · split
    · exact .refl
    · exact hdrop s .refl _
  split
  · next t f ht =>
    rw [ht] at hread
    have ht : SessionFrame s t := RowFrame.sessionFrame hread
    refine SessionFrame.trans ht ?_
    split
    · exact ((t.setRowReads_frame _).trans (State.setSession_frame _ _ _)).trans (State.clearPool_frame _ _)
    · exact (t.setRowReads_frame _).trans (State.faultSession_frame _ c x f)
  · next t y ht =>
    rw [ht] at hread
    exact hread.1.sessionFrame.trans (t.setRowReads_frame _)
  · next t y ht =>
    rw [ht] at hread
    split
    · exact hread.1.sessionFrame.trans (t.dispatch_frame c x b y)
    · exact hread.1.sessionFrame.trans (t.setRowReads_frame _)

theorem State.sessionStep_frame (fuel : Nat) : (s.sessionStep c x fuel).Keeps (SessionFrame s) := by
  have hlist (va : Nat) := State.listLoad_frame hc (va := va)
  unfold State.sessionStep
  split
  · split
    · next ht => exact (hlist _).2 _ ht
    · refine show SessionFrame s _ from ?_
      split
      · exact s.endSession_frame c x _ _
      · exact s.faultSession_frame c x _
    · next ht => exact ((hlist _).1 _ _ _ ht).trans (State.takeFinal_frame _ c x _ _)
  · exact State.goBatch_frame hc x _ fuel _
  split
  · split
    · next ht => exact (hlist _).2 _ ht
    · exact s.setSession_frame _ _
    · next ht => exact ((hlist _).1 _ _ _ ht).trans (State.takeProv_frame _ c x _)
  split
  · split
    · split
      · exact s.settleBatch_frame c x _
      · exact ((RowFrame.refl hc).fetch rfl _ _).sessionFrame
    · exact s.settleBatch_frame c x _
  · dsimp only
    split
    · exact (s.setRowReads_frame _).trans (State.setSession_frame _ _ _)
    split
    · split
      · exact .refl
      · exact s.closeSession_frame c x _
    · exact .refl

end

theorem State.advanceSession_frame (id actions fuel : Nat) : SessionFrame s (s.advanceSession id actions fuel) := by
  induction fuel generalizing s with
  | zero => exact .refl
  | succ fuel ih =>
    unfold State.advanceSession
    split
    · next c x hc hx =>
      split
      · exact .refl
      obtain rfl : c.id = id := State.cmd_id hc
      have hstep := State.sessionStep_frame hc x actions
      split
      · next t ht =>
        rw [ht] at hstep
        exact SessionFrame.trans hstep ih
      · next t ht =>
        rw [ht] at hstep
        exact hstep
    · exact .refl

/-- A session that goes on changes what its acts may change. -/
theorem State.runSession_frame (s : State) (id : Nat) (ext : Ext) : SessionFrame s (s.runSession id ext) := State.advanceSession_frame id _ _

end

end Sys2Proof.Machine
end

section
/-!
SUPPORT. Re-rank sessions: how one opens, what leaves it where it is, how it ends (R178–R186).
-/

namespace Sys2Proof.Machine

section
variable {s t u v : State} {c : Cmd} {id : Nat} {x : Session}

/-! ### The session opens (R178, R179) -/

theorem State.queue_asterQueue (s : State) (q j : Nat) :
    (s.asterQueue q).queue j = { s.queue j with aster := (s.queue j).aster || decide (j = q) } := by
  unfold State.asterQueue
  rw [State.queue_setQueue]
  split
  · next h => rw [h, decide_eq_true (rfl : q = q), Bool.or_true]
  · next h => rw [decide_eq_false h, Bool.or_false]

/-- The queues of a session are consumed by Aster. -/
def State.sessionQueues (s : State) (c : Cmd) : State :=
  if c.sd 8 8 = 0 then s.asterQueue c.sFinalQ else (s.asterQueue c.sFinalQ).asterQueue c.sProvQ

theorem State.queue_sessionQueues (s : State) (c : Cmd) (j : Nat) : (s.sessionQueues c).queue j = { s.queue j with
    aster := (s.queue j).aster || decide (j = c.sFinalQ ∨ (c.sd 8 8 ≠ 0 ∧ j = c.sProvQ)) } := by
  unfold State.sessionQueues
  split
  · next h =>
    rw [State.queue_asterQueue]
    simp [h]
  · next h =>
    rw [State.queue_asterQueue, State.queue_asterQueue]
    simp [h, Bool.or_assoc]

theorem State.sessionQueues_fields (s : State) (c : Cmd) : s.sessionQueues c = { s with stem := (s.sessionQueues c).stem } := by
  unfold State.sessionQueues
  split
  · rfl
  · rfl

theorem exec_astRerank_open (ext : Ext) (hw : s.working id 4 2 = some c) (hx : SMap.find s.sessions c.id = none) :
    exec (.astRerank id ext) s = .next ((s.sessionQueues c).setSession c.id Session.opened) := by
  show execAstRerank id ext s = _
  unfold execAstRerank
  rw [hw]
  dsimp only
  rw [hx]
  dsimp only
  rw [State.sessionQueues]

theorem exec_astRerank_on (ext : Ext) (hw : s.working id 4 2 = some c) (hx : SMap.find s.sessions c.id = some x) :
    exec (.astRerank id ext) s = .next (s.runSession id ext) := by
  show execAstRerank id ext s = _
  unfold execAstRerank
  rw [hw]
  dsimp only
  rw [hx]

/-! ### Acts of a session -/

/-- A session without a final list that no word, no gather and no candidate keeps busy. -/
structure Session.Idle (x : Session) : Prop where
  ended : x.ended = none
  final : x.final = none
  gather : x.gather = none
  noticed : x.noticed = 0
  settling : x.settling = []
  waiting : x.waiting = []

theorem State.sessionStep_idle (s : State) (c : Cmd) (fuel : Nat) (h : x.Idle) : s.sessionStep c x fuel = .stop s := by
  unfold State.sessionStep
  rw [h.ended, h.final, h.gather]
  dsimp only
  rw [h.noticed, h.settling, h.waiting]
  rfl

/-- The walk has ended and its list is read (R184). -/
theorem State.sessionStep_final {status : Byte} {l : List Byte} {b : Bool} (hended : x.ended = some status) (hfinal : x.final = none)
    (hload : s.listLoad c (c.sd 0 8) = .ok v l b) (fuel : Nat) : s.sessionStep c x fuel = .more (v.takeFinal c x status l) := by
  unfold State.sessionStep
  rw [hended, hfinal]
  dsimp only
  rw [hload]

/-- Nothing is left to score of an empty final list (R185). -/
theorem State.sessionStep_close {status : Byte} {l : List Byte} (hended : x.ended = some status) (hfinal : x.final = some l)
    (hgather : x.gather = none) (hnoticed : x.noticed = 0) (hsettling : x.settling = []) (hwaiting : x.waiting = []) (hbatches : x.batches = [])
    (hscores : x.scores = []) (hn : numAt l 0 4 = 0) (fuel : Nat) : s.sessionStep c x fuel = .stop (s.closeSession c x l) := by
  unfold State.sessionStep
  rw [hended, hfinal, hgather]
  dsimp only
  rw [hnoticed, hsettling, hwaiting, hbatches, hn]
  unfold Session.validated
  rw [hscores]
  rfl

section
variable (hc : s.cmd id = some c) (hx : SMap.find s.sessions id = some x)
include hc hx

theorem State.advanceSession_more (hstart : c.phase = .started) (hsusp : c.suspended = false) {n : Nat}
    (hstep : s.sessionStep c x n = .more t) (fuel : Nat) : s.advanceSession id n (fuel + 1) = t.advanceSession id n fuel := by
  have hgo : ¬ (decide (c.phase ≠ .started) || c.suspended) = true := by rw [hstart, hsusp]; decide
  rw [State.advanceSession, hc, hx]
  dsimp only
  rw [if_neg hgo, hstep]

theorem State.advanceSession_stop (hstart : c.phase = .started) (hsusp : c.suspended = false) {n : Nat}
    (hstep : s.sessionStep c x n = .stop t) (fuel : Nat) : s.advanceSession id n (fuel + 1) = t := by
  have hgo : ¬ (decide (c.phase ≠ .started) || c.suspended) = true := by rw [hstart, hsusp]; decide
  rw [State.advanceSession, hc, hx]
  dsimp only
  rw [if_neg hgo, hstep]

/-- An idle session stays as it is. -/
theorem State.runSession_idle (ext : Ext) (h : x.Idle) : s.runSession id ext = s := by
  rw [State.runSession, show sessionFuel = 255 + 1 from rfl, State.advanceSession, hc, hx]
  dsimp only
  split
  · rfl
  · rw [State.sessionStep_idle s c _ h]

end

theorem State.runSession_setIdle (hc : s.cmd id = some c) (ext : Ext) (x : Session) (h : x.Idle) :
    (s.setSession id x).runSession id ext = s.setSession id x :=
  State.runSession_idle (s := s.setSession id x) hc (SMap.find_insert_same _ _ _) ext h

/-! ### A session ends (R186) -/

theorem find?_filter_of_pos {α : Type} {l : List α} {p q : α → Bool} {a : α} (h : l.find? q = some a) (ha : p a = true) :
    (l.filter p).find? q = some a := by
  induction l with
  | nil => exact nomatch h
  | cons b l ih =>
    by_cases hb : q b = true
    · rw [List.find?_cons_of_pos hb] at h
      obtain rfl := Option.some.inj h
      rw [List.filter_cons_of_pos ha, List.find?_cons_of_pos hb]
    · rw [List.find?_cons_of_neg hb] at h
      by_cases hp : p b = true
      · rw [List.filter_cons_of_pos hp, List.find?_cons_of_neg hb, ih h]
      · rw [List.filter_cons_of_neg hp, ih h]

/-- A command that stays is found again once others have left. -/
theorem State.cmd_dropCmds {f : Cmd → Bool} (hc : s.cmd id = some c) (hf : f c = false) : (s.dropCmds f).cmd id = some c :=
  find?_filter_of_pos hc (by rw [hf]; rfl)

/-- A session that ends leaves memory alone; its command is done with the code. -/
theorem State.endSession_spec (hc : s.cmd c.id = some c) (hstart : c.phase = .started) (x : Session) (code : Byte) (result : BitVec 32) :
    let t := s.endSession c x code result
    t.mem = s.mem ∧ SMap.find t.sessions c.id = none ∧ t.cmd c.id = some { c with phase := .done code result } := by
  have hregs := s.squashCands_regsOnly (s.groupOfCore c.core) x.speculative
  unfold State.endSession
  generalize s.squashCands (s.groupOfCore c.core) x.speculative = t at hregs
  have hcmd : t.cmd c.id = some c := by rwa [hregs]
  have hmem : t.mem = s.mem := by rw [hregs]
  have hdrop := State.cmd_dropCmds (f := fun d => decide (d.session = c.id + 1) && decide (d.phase = Phase.queued)) hcmd (by rw [hstart]; simp)
  refine ⟨hmem, (SMap.find_erase _ _ _).trans (if_pos rfl), ?_⟩
  exact (State.cmd_setCmd (d := { c with phase := .done code result }) hdrop _).trans (if_pos rfl)

/-- The session is closed with its command's work. -/
theorem WorkEnds.sessionErased {status : Byte} {result : BitVec 32} (h : WorkEnds s (u.workDone c status result) c status result) :
    let t := ({ u with sessions := SMap.erase u.sessions c.id } : State).workDone c status result
    SMap.find t.sessions c.id = none ∧ WorkEnds s t c status result ∧ t.mem = u.mem :=
  ⟨(SMap.find_erase _ _ _).trans (if_pos rfl), h, rfl⟩

/-- What is left of a run of acts once the session is over. -/
theorem State.advanceSession_over (hx : SMap.find s.sessions id = none) (actions fuel : Nat) : s.advanceSession id actions fuel = s := by
  cases fuel with
  | zero => rfl
  | succ fuel =>
    unfold State.advanceSession
    rw [hx]
    cases s.cmd id with
    | none => rfl
    | some c => rfl

section
variable {l : List Byte} (hc : s.cmd c.id = some c)
include hc

/-- A session whose final list is empty writes OUT and OUT_SCORES and is done (R185). -/
theorem State.closeSession_empty {ps qs : List (Nat × Nat)} (hn : numAt l 0 4 = 0) (hlen : l.length = 16)
    (hps : s.pieces c.agent (c.sd 16 8) 16 true = .ok ps) (hqs : s.pieces c.agent (c.sd 24 8) 0 true = .ok qs) :
    let t := s.closeSession c x l
    SMap.find t.sessions c.id = none ∧ WorkEnds s t c 0x00 (BitVec.ofNat 32 (x.kept % 65536)) ∧
      t.mem = ((s.store c.agent c.core c.cls3 (c.sd 16 8) (bytesAt l 0 6 ++ zeros 2 ++ bytesAt l 8 8) false).store c.agent c.core c.cls3
        (c.sd 24 8) [] false).mem := by
  have hout : (bytesAt l 0 6 ++ zeros 2 ++ bytesAt l 8 8).length = 16 := by
    simp [bytesAt, zeros, hlen]
  have hstores := (State.store_workFrame c s c.cls3 (c.sd 16 8) (bytesAt l 0 6 ++ zeros 2 ++ bytesAt l 8 8) false).trans
    (State.store_workFrame c _ c.cls3 (c.sd 24 8) [] false)
  have hends := (hstores.workDone hc 0x00 (BitVec.ofNat 32 (x.kept % 65536))).2
  unfold State.closeSession
  rw [hn]
  simp only [List.range_zero, List.map_nil, List.flatten_nil, List.append_nil, Nat.mul_zero, hout]
  rw [hps, hqs]
  exact hends.sessionErased

omit hc in
/-- An empty final list leaves nothing to score. -/
theorem Session.anew_empty (hfinal : x.final = some l) (hn : numAt l 0 4 = 0) : x.anew = [] := by
  have hids : x.finalIds = [] := by
    unfold Session.finalIds listIds
    rw [hfinal]
    dsimp only
    rw [hn]
    rfl
  unfold Session.anew
  rw [hids]
  rfl

/-- A session that has no speculative state takes an empty final list (R184). -/
theorem State.takeFinal_empty {qs : List (Nat × Nat)} (hn : numAt l 0 4 = 0) (hshadow : x.shadow = []) (hprog : c.progEn = false)
    (hqs : s.pieces c.agent (c.sd 24 8) 0 true = .ok qs) :
    s.takeFinal c x 0 l = (s.setSession c.id { x with final := some l, noticed := 0, shadow := [], settling := [], waiting := [] }).setCmd
      { c with pool := [] } := by
  have hstatus : ¬ ((0 : Byte) ≠ 0 ∧ (!decide ((0 : Byte) = 0x43 ∧ (numAt l 4 2).testBit 2 = false)) = true) := fun h => h.1 rfl
  unfold State.takeFinal
  rw [if_neg hstatus, hn, Nat.mul_zero, hqs]
  dsimp only
  rw [hprog, hshadow, Session.anew_empty (l := l) rfl hn, if_neg Bool.false_ne_true]
  exact State.clearPool_eq (s := s.setSession c.id _) hc

end

/-! ### The final list of a session (R184–R186) -/

section
variable {l : List Byte} {b : Bool} {status : Byte} (ext : Ext) (hc : s.cmd c.id = some c) (hx : SMap.find s.sessions c.id = some x)
  (hstart : c.phase = .started) (hsusp : c.suspended = false) (hended : x.ended = some status) (hfinal : x.final = none)
  (hload : s.listLoad c (c.sd 0 8) = .ok v l b)
include hc hx hstart hsusp hended hfinal hload

/-- A walk that ended badly ends the session. -/
theorem State.runSession_failed (hbad : status ≠ 0) (hpartial : ¬(status = 0x43 ∧ (numAt l 4 2).testBit 2 = false)) :
    let t := s.runSession c.id ext
    t.mem = v.mem ∧ SMap.find t.sessions c.id = none ∧ t.cmd c.id = some { c with phase := .done 0x54 0 } := by
  have hv : v.cmd c.id = some c := (congrArg (List.find? _) (State.listLoad_workFrame hload).cmds).trans hc
  have hend := State.endSession_spec hv hstart x 0x54 0
  have htake : v.takeFinal c x status l = v.endSession c x 0x54 0 := by
    unfold State.takeFinal
    exact if_pos ⟨hbad, by rw [decide_eq_false hpartial]; rfl⟩
  have hrun : s.runSession c.id ext = v.endSession c x 0x54 0 := by
    unfold State.runSession
    rw [show sessionFuel = 255 + 1 from rfl,
      State.advanceSession_more hc hx hstart hsusp (State.sessionStep_final hended hfinal hload _), htake,
      State.advanceSession_over hend.2.1]
  rw [hrun]
  exact hend

/-- A walk whose list is empty ends the session, its OUT and OUT_SCORES written. -/
theorem State.runSession_empty {ps qs : List (Nat × Nat)} (hok : status = 0) (hn : numAt l 0 4 = 0) (hlen : l.length = 16)
    (hshadow : x.shadow = []) (hbatches : x.batches = []) (hgather : x.gather = none) (hscores : x.scores = []) (hprog : c.progEn = false)
    (hqs : v.pieces c.agent (c.sd 24 8) 0 true = .ok qs) :
    let e : Cmd := { c with pool := [] }
    v.pieces e.agent (c.sd 16 8) 16 true = .ok ps → v.pieces e.agent (c.sd 24 8) 0 true = .ok qs →
    let t := s.runSession c.id ext
    SMap.find t.sessions c.id = none ∧ WorkEnds s t e 0x00 (BitVec.ofNat 32 (x.kept % 65536)) ∧
      t.mem = ((v.store e.agent c.core c.cls3 (c.sd 16 8) (bytesAt l 0 6 ++ zeros 2 ++ bytesAt l 8 8) false).store e.agent c.core c.cls3
        (c.sd 24 8) [] false).mem := by
  intro e hps hqs'
  have hcmd (j : Nat) : v.cmd j = s.cmd j := congrArg (List.find? _) (State.listLoad_workFrame hload).cmds
  have hv : v.cmd c.id = some c := (hcmd _).trans hc
  let z : Session := { x with final := some l, noticed := 0, shadow := [], settling := [], waiting := [] }
  have htake := State.takeFinal_empty (x := x) hv hn hshadow hprog hqs
  have hset (j : Nat) : ((v.setSession c.id z).setCmd e).cmd j = if j = c.id then some e else v.cmd j :=
    State.cmd_setCmd (s := v.setSession c.id z) (d := e) hv j
  have he : ((v.setSession c.id z).setCmd e).cmd e.id = some e := (hset _).trans (if_pos rfl)
  have hbeside : (v.setSession c.id z).setCmd e = v.besides ((v.setSession c.id z).setCmd e).cmds (SMap.insert v.sessions c.id z) := rfl
  have hz : SMap.find ((v.setSession c.id z).setCmd e).sessions c.id = some z := SMap.find_insert_same _ _ _
  obtain ⟨hover, ⟨hdone, hothers⟩, hmem⟩ := State.closeSession_empty (x := z) (l := l) he hn hlen
    (by rw [hbeside, State.pieces_besides]; exact hps) (by rw [hbeside, State.pieces_besides]; exact hqs')
  have hrun : s.runSession c.id ext = ((v.setSession c.id z).setCmd e).closeSession e z l := by
    unfold State.runSession
    rw [show sessionFuel = 254 + 1 + 1 from rfl,
      State.advanceSession_more hc hx hstart hsusp (State.sessionStep_final hended hfinal hload _), hok, htake]
    exact State.advanceSession_stop (id := c.id) he hz hstart hsusp
      (State.sessionStep_close (x := z) hended rfl hgather rfl rfl rfl hbatches hscores hn _) _
  rw [hrun]
  refine ⟨hover, ⟨hdone, fun j hj => (hothers j hj).trans (((hset j).trans (if_neg hj)).trans (hcmd j))⟩, hmem.trans ?_⟩
  have hsd (i j : Nat) : e.sd i j = c.sd i j := rfl
  have hcore : e.core = c.core := rfl
  have hcls : e.cls3 = c.cls3 := rfl
  rw [hbeside, State.store_besides, State.store_besides, State.besides_mem, hsd, hsd, hcore, hcls]

end

end

end Sys2Proof.Machine
end

section
/-!
Re-rank sessions (R178–R186): their queues' words, their batches.
-/

namespace Sys2Proof.Machine

section
variable {s : State} {c : Cmd} {id : Nat} {x : Session} (ext : Ext)

/-! ### Words of the queues that Aster consumes (R179, R182, R184) -/

section
variable {q : BitVec 12} {w : QWord} {ws : List QWord} (hwords : (s.queue q.toNat).words = w :: ws)
include hwords

theorem State.popWord_fields : s.popWord q.toNat = { s with stem := (s.popWord q.toNat).stem, cadence := (s.popWord q.toNat).cadence } := by
  rw [State.popWord_eq hwords, State.wordTaken_fields]
  rfl

theorem State.popWord_sessions : (s.popWord q.toNat).sessions = s.sessions := by rw [State.popWord_fields hwords]

theorem State.popWord_cmds : (s.popWord q.toNat).cmds = s.cmds := by rw [State.popWord_fields hwords]

theorem State.popWord_specOff (n : Nat) : (s.popWord q.toNat).specOff n = s.specOff n := by
  rw [State.popWord_fields hwords]
  rfl

theorem State.words_popWord : ((s.popWord q.toNat).queue q.toNat).words = ws := by
  have hqueue : (s.popWord q.toNat).queue q.toNat = (s.setQueue q.toNat { s.queue q.toNat with words := ws }).queue q.toNat := by
    rw [State.popWord_eq hwords]
    unfold State.queue
    rw [State.wordTaken_stem]
  rw [hqueue, State.queue_setQueue_same]

/-- A queue that Aster does not consume keeps its words. -/
theorem exec_notAster (haster : (s.queue q.toNat).aster = false) :
    exec (.provisionalNotice q ext) s = .next s ∧ exec (.finalList q ext) s = .next s := by
  constructor
  · show execProvisionalNotice q ext s = _
    unfold execProvisionalNotice
    dsimp only
    rw [hwords]
    dsimp only
    rw [haster]
    rfl
  · show execFinalList q ext s = _
    unfold execFinalList
    dsimp only
    rw [hwords]
    dsimp only
    rw [haster]
    rfl

variable (haster : (s.queue q.toNat).aster = true) (hups : s.tripped = false ∧ s.fatal = false ∧ s.stopped = false)
include haster hups

theorem exec_provisionalNotice : exec (.provisionalNotice q ext) s =
    .next ((s.popWord q.toNat).deliverNotice ext (s.sessionsOn q.toNat false) (fld w.data 0 16)) := by
  obtain ⟨htrip, hfatal, hstop⟩ := hups
  show execProvisionalNotice q ext s = _
  unfold execProvisionalNotice
  dsimp only
  rw [hwords]
  dsimp only
  rw [haster, htrip, hfatal, hstop]
  rfl

theorem exec_finalList : exec (.finalList q ext) s = .next
    ((s.sessionsOn q.toNat true).foldl (fun t c => t.deliverFinal ext (BitVec.ofNat 8 (fld w.data 0 8)) c) (s.popWord q.toNat)) := by
  obtain ⟨htrip, hfatal, hstop⟩ := hups
  show execFinalList q ext s = _
  unfold execFinalList
  dsimp only
  rw [hwords]
  dsimp only
  rw [haster, htrip, hfatal, hstop]
  rfl

end

/-- A notice whose session nobody has open is discarded. -/
theorem State.deliverNotice_none {on : List Cmd} {r : Nat} (h : ∀ d ∈ on, d.sd 92 2 ≠ r) : s.deliverNotice ext on r = s := by
  unfold State.deliverNotice
  rw [List.find?_eq_none.mpr fun d hd => by rw [decide_eq_true_eq]; exact h d hd]

/-- A notice reaches the session whose QROW it names. -/
theorem State.deliverNotice_some {on : List Cmd} {r : Nat} (h : on.find? (fun d => decide (d.sd 92 2 = r)) = some c)
    (hx : SMap.find s.sessions c.id = some x) (hended : x.ended = none) (hprov : c.sd 8 8 ≠ 0) (hspec : s.specOff 2 = false) :
    s.deliverNotice ext on r = (s.setSession c.id { x with noticed := x.noticed + 1 }).runSession c.id ext := by
  unfold State.deliverNotice
  rw [h]
  dsimp only
  rw [hx]
  dsimp only
  rw [hended, decide_eq_false hprov, hspec]
  rfl

/-- The walk's word reaches an open session. -/
theorem State.deliverFinal_open {status : Byte} (hx : SMap.find s.sessions c.id = some x) (hended : x.ended = none) :
    s.deliverFinal ext status c = (s.setSession c.id { x with ended := some status }).runSession c.id ext := by
  unfold State.deliverFinal
  rw [hx]
  dsimp only
  rw [hended]
  rfl

/-! ### A batch is complete (R180, R184, R186) -/

section
variable {slot : BitVec 4} {b : Batch} (hw : s.working id 4 2 = some c) (hx : SMap.find s.sessions id = some x)
  (hb : x.batches.find? (fun b => b.slot = slot.toNat) = some b) (hdone : ∀ e ∈ b.cmds, e.2 ≠ none)
include hw hx hb hdone

/-- What the completion of a batch comes to. -/
theorem exec_batchComplete : exec (.batchComplete id slot ext) s =
    match b.cmds.find? (fun k => !b.stopped && !(k.2 = some 0) && !(b.spec && k.2 = some 0xC0)) with
    | some k => .next (s.endSession c x 0x53 (BitVec.ofNat 32 ((k.2.getD 0).toNat)))
    | none => match s.load c.agent (c.sArena + b.slot * c.sSlotBytes + c.sd 76 4) (4 * b.cands.length) with
      | .error f => .next (s.faultSession c x f)
      | .ok sb => .next ((s.takeBatch c x b (f32Words sb)).runSession id ext) := by
  have hnone : (b.cmds.any fun k => k.2.isNone) = false :=
    List.any_eq_false.mpr fun e he h => hdone e he (Option.isNone_iff_eq_none.mp h)
  show execBatchComplete id slot ext s = _
  unfold execBatchComplete
  rw [hw, hx]
  dsimp only
  rw [hb]
  dsimp only
  exact if_neg (Bool.eq_false_iff.mp hnone)

end

/-- Before the final list the scores of a batch wait in the shadow buffer. -/
theorem State.takeBatch_shadow {b : Batch} (scores : List (BitVec 32)) (hstop : b.stopped = false) (hok : ∀ e ∈ b.cmds, e.2 = some 0)
    (hfinal : x.final = none) : s.takeBatch c x b scores = s.setSession c.id
      { x with batches := x.batches.filter (fun d => !(d.slot = b.slot))
               shadow := x.shadow ++ (b.cands.zip scores).map (fun e => ({ e.1 with score := e.2 } : Cand)) } := by
  have hclean : (b.cmds.any fun k => decide (k.2 = some 0xC0)) = false :=
    List.any_eq_false.mpr fun e he h => absurd ((hok e he).symm.trans (of_decide_eq_true h)) (by decide)
  unfold State.takeBatch
  dsimp only
  rw [hstop, hclean, hfinal, Bool.and_false]
  simp only [Bool.or_false]
  rfl

theorem State.clearPool_sessions (s : State) (id : Nat) : (s.clearPool id).sessions = s.sessions := by
  unfold State.clearPool
  split
  · rfl
  · rfl

end

/-- Settles O23: whatever a session's acts are, they stay in the frame of `State.runSession_frame`; how it opens, takes words and batches
and ends follows act by act. -/
theorem asterSessions : Obligations.AsterSessions := by
  unfold Obligations.AsterSessions
  intro id q slot ext c s k runs idle
  have hframe (i : Instr) (u : State) (d : Nat) (hx : exec i s = .next (u.runSession d ext)) : runs i u d := ⟨hx, u.runSession_frame d ext⟩
  refine ⟨fun hw => ⟨fun hx => ?_, fun x hx => ?_⟩, ?_, ?_, ?_⟩
  · have hfields := State.sessionQueues_fields s c
    refine ⟨_, exec_astRerank_open ext hw hx, ?_, fun j => (SMap.find_insert _ _ _ _).trans ?_, fun j => State.queue_sessionQueues s c j⟩
    · rw [hfields]
      rfl
    · rw [hfields]
  · have hrun := exec_astRerank_on ext hw hx
    refine ⟨hframe _ _ _ hrun, fun hended hfinal hidle => ?_⟩
    obtain ⟨hgather, hnoticed, hsettling, hwaiting⟩ := hidle
    have hc := State.cmd_of_working hw
    rw [State.id_of_working hw] at hc hx
    rw [hrun, State.runSession_idle hc hx ext ⟨hended, hfinal, hgather, hnoticed, hsettling, hwaiting⟩]
  · intro w ws hwords htrip hfatal hstop u
    have hups : s.tripped = false ∧ s.fatal = false ∧ s.stopped = false := ⟨htrip, hfatal, hstop⟩
    have hsessions : u.sessions = s.sessions := State.popWord_sessions hwords
    have hcmd (j : Nat) : u.cmd j = s.cmd j := congrArg (List.find? _) (State.popWord_cmds hwords)
    have hspec : u.specOff 2 = s.specOff 2 := State.popWord_specOff hwords 2
    refine ⟨exec_notAster ext hwords, fun haster hnone => ?_, fun x haster hfind hx hended hprov hon => ?_, fun haster hnone => ?_, ?_⟩
    · refine ⟨?_, State.words_popWord hwords⟩
      rw [exec_provisionalNotice ext hwords haster hups, State.deliverNotice_none ext hnone]
    · refine hframe _ _ _ ?_
      rw [exec_provisionalNotice ext hwords haster hups,
        State.deliverNotice_some ext hfind (x := x) (by rw [← hx, ← hsessions]) hended hprov (hspec.trans hon)]
    · rw [exec_finalList ext hwords haster hups, hnone]
      rfl
    · intro x haster hon hx hended status y e
      have hrun : exec (.finalList q ext) s = .next ((u.setSession c.id y).runSession c.id ext) := by
        rw [exec_finalList ext hwords haster hups, hon]
        exact congrArg Host.Outcome.next (State.deliverFinal_open ext (by rw [← hx, ← hsessions]) hended)
      refine ⟨hframe _ _ _ hrun, fun v l b hc hstart hsusp hfinal hload => ⟨fun hbad hpartial => ?_, ?_⟩⟩
      · exact ⟨_, hrun, State.runSession_failed ext ((hcmd _).trans hc) (SMap.find_insert_same _ _ _) hstart hsusp rfl hfinal hload hbad
          hpartial⟩
      · intro ps qs hok hn hlen hshadow hbatches hgather hscores hprog hqs hps hqs'
        obtain ⟨hgone, ⟨hdone, hothers⟩, hmem⟩ := State.runSession_empty (s := u.setSession c.id y) (x := y) ext ((hcmd _).trans hc)
          (SMap.find_insert_same _ _ _) hstart hsusp rfl hfinal hload hok hn hlen hshadow hbatches hgather hscores hprog hqs hps hqs'
        exact ⟨_, hrun, hgone, ⟨hdone, fun j hj => (hothers j hj).trans (hcmd j)⟩, hmem⟩
  · intro x b hw hx hb hdone hurt
    have hcid := State.id_of_working hw
    have hc := State.cmd_of_working hw
    have hrun := exec_batchComplete ext hw hx hb hdone
    refine ⟨fun e code hfind hcode => ?_, fun sb hfind hload => ?_⟩
    · rw [show b.cmds.find? _ = some e from hfind] at hrun
      dsimp only at hrun
      rw [hcode] at hrun
      obtain ⟨hmem, hgone, hend⟩ := State.endSession_spec hc (State.started_of_working hw) x 0x53 (BitVec.ofNat 32 code.toNat)
      exact ⟨_, hrun, hmem, hgone, hend⟩
    · rw [show b.cmds.find? _ = none from hfind] at hrun
      dsimp only at hrun
      rw [hload] at hrun
      dsimp only at hrun
      refine ⟨hframe _ _ _ hrun, fun hstop hspec hok hended hfinal hidle => ?_⟩
      obtain ⟨hgather, hnoticed, hsettling, hwaiting⟩ := hidle
      rw [State.takeBatch_shadow _ hstop hok hfinal, hcid] at hrun
      have hstay := State.runSession_setIdle (s := s) (id := id) (hcid ▸ hc) ext
      exact ⟨_, hrun.trans (congrArg Host.Outcome.next (hstay _ ⟨hended, hfinal, hgather, hnoticed, hsettling, hwaiting⟩)), rfl,
        fun j => SMap.find_insert _ _ _ _⟩
  · intro x l started
    unfold State.takeProv
    rw [State.clearPool_sessions]
    exact SMap.find_insert_same _ _ _

end Sys2Proof.Machine
end
